-- ==== Sys2Proof/Word.lean ====
section
/-! DEFINITION. The word types of the OB3 (spec/00_scope.md R11): bytes, 32-bit instruction words and vector elements, 64-bit scalars and addresses. -/

-- Theorems are elaborated one after another: the whole text at once would start more threads than it has memory for.
set_option Elab.async false

namespace Sys2Proof

/-- One byte of memory. -/
abbrev Byte := BitVec 8
/-- An instruction word, a literal word, or one vector element. -/
abbrev W32 := BitVec 32
/-- A scalar register, a virtual address, or a stream's program counter. -/
abbrev W64 := BitVec 64

end Sys2Proof
end

