-- ==== Sys2Proof/Machine/Bits.lean ====
section
/-! DEFINITION. Bit-field helpers (spec/03_number_formats.md R90; spec/00_scope.md R11): sign and zero extension, byte order, counts, bits of a natural number. -/

namespace Sys2Proof.Machine

/-- Bits [hi:lo] of a natural number. -/
def bitsOf (x hi lo : Nat) : Nat := (x / 2 ^ lo) % 2 ^ (hi + 1 - lo)

/-- Bit `i` of a natural number. -/
def bitOf (x i : Nat) : Bool := (x / 2 ^ i) % 2 == 1

/-- SignExt(v, n): the low `n` bits of `v` extended with copies of bit n - 1 (R90). -/
def signExt (v : W64) (n : Nat) : W64 := (v.truncate n).signExtend 64

/-- ZeroExt(v, n) (R90). -/
def zeroExt (v : W64) (n : Nat) : W64 := (v.truncate n).zeroExtend 64

/-- The bytes of a value, least significant first (R11). -/
def leBytes : Nat → Nat → List Byte
  | 0, _ => []
  | n + 1, x => BitVec.ofNat 8 x :: leBytes n (x / 256)

/-- The value of bytes, least significant first (R11). -/
def leValue : List Byte → Nat
  | [] => 0
  | b :: bs => b.toNat + 256 * leValue bs

/-- Field `i` of `w` bits, at most 32, of bytes packed under R71. -/
def packed (bs : List Byte) (w i : Nat) : Nat :=
  let k := w * i / 8
  leValue ((bs.drop k).take 5) / 2 ^ (w * i % 8) % 2 ^ w

/-- Number of 1 bits among the low `n` bits. -/
def popcount : Nat → Nat → Nat
  | 0, _ => 0
  | n + 1, x => x % 2 + popcount n (x / 2)

/-- Number of trailing zeros among the low `n` bits; `n` for 0. -/
def trailingZeros : Nat → Nat → Nat
  | 0, _ => 0
  | n + 1, x => if x % 2 = 1 then 0 else 1 + trailingZeros n (x / 2)

/-- Number of leading zeros of an `n`-bit value; `n` for 0. -/
def leadingZeros (n x : Nat) : Nat := if x = 0 then n else n - 1 - Nat.log2 x

/-- A bit of a Bool as a number. -/
def b2n (b : Bool) : Nat := if b then 1 else 0

/-- Is `x` a multiple of `n`? -/
def multipleOf (x n : Nat) : Bool := x % n == 0

/-- A 64-bit integer from an `Int`, modulo 2^64. -/
def w64 (x : Int) : W64 := BitVec.ofInt 64 x

/-- The integer clamped to a range. -/
def clampInt (x lo hi : Int) : Int := if x < lo then lo else if hi < x then hi else x

/-- Ceil(a / b). -/
def ceilDiv (a b : Nat) : Nat := (a + b - 1) / b

end Sys2Proof.Machine
end

