-- ==== Sys2Proof/Machine/Float.lean ====
section
/-! DEFINITION. Number formats, exact values, rounding and floating-point arithmetic (spec/03_number_formats.md R69-R74, R79-R86, R90). Reals are exact: a finite nonzero value is a quotient of an integer and a positive natural number. -/

namespace Sys2Proof.Machine

/-- The flags SAT, NV, DZ, OF, UF, NX, from bit 5 to bit 0, as FSR holds them (R87). -/
abbrev Flags := BitVec 6

def flagNX : Flags := 1#6
def flagUF : Flags := 2#6
def flagOF : Flags := 4#6
def flagDZ : Flags := 8#6
def flagNV : Flags := 16#6
def flagSAT : Flags := 32#6
/-- A flag when a condition holds. -/
def flagIf (c : Bool) (f : Flags) : Flags := if c then f else 0#6

/-- The element formats (R69, R70, R75). -/
inductive Elem where
  | fp32 | bf16 | fp16 | e4m3 | e5m2 | e2m1 | int8 | uint8 | int4 | uint4 | int32 | code1 | code2 | code3
deriving DecidableEq, Repr

/-- ELEM codes of a format-table entry (R75). -/
def Elem.ofCode : Nat → Option Elem
  | 0 => some .fp32 | 1 => some .bf16 | 2 => some .fp16 | 3 => some .e4m3 | 4 => some .e5m2 | 5 => some .e2m1
  | 6 => some .int8 | 7 => some .uint8 | 8 => some .int4 | 9 => some .uint4 | 10 => some .int32
  | 11 => some .code1 | 12 => some .code2 | 13 => some .code3
  | _ => none

/-- Width of an element in bits (R69, R70). -/
def Elem.width : Elem → Nat
  | .fp32 | .int32 => 32
  | .bf16 | .fp16 => 16
  | .e4m3 | .e5m2 | .int8 | .uint8 => 8
  | .e2m1 | .int4 | .uint4 => 4
  | .code1 => 1 | .code2 => 2 | .code3 => 3

/-- Is it one of the CODE formats (R70)? -/
def Elem.isCode : Elem → Bool
  | .code1 | .code2 | .code3 => true
  | _ => false

/-- Which encodings of a floating-point format are infinities and NaNs (R69). -/
inductive Specials where
  | ieee
  | nanOnly
  | none
deriving DecidableEq, Repr

/-- The layout of a floating-point format (R69). -/
structure FFmt where
  ebits : Nat
  mbits : Nat
  bias : Nat
  specials : Specials
deriving DecidableEq, Repr

def fmtFP32 : FFmt := { ebits := 8, mbits := 23, bias := 127, specials := .ieee }
def fmtBF16 : FFmt := { ebits := 8, mbits := 7, bias := 127, specials := .ieee }
def fmtFP16 : FFmt := { ebits := 5, mbits := 10, bias := 15, specials := .ieee }
def fmtE5M2 : FFmt := { ebits := 5, mbits := 2, bias := 15, specials := .ieee }
def fmtE4M3 : FFmt := { ebits := 4, mbits := 3, bias := 7, specials := .nanOnly }
def fmtE2M1 : FFmt := { ebits := 2, mbits := 1, bias := 1, specials := .none }

/-- The floating-point layout of an element format. -/
def Elem.float? : Elem → Option FFmt
  | .fp32 => some fmtFP32 | .bf16 => some fmtBF16 | .fp16 => some fmtFP16
  | .e4m3 => some fmtE4M3 | .e5m2 => some fmtE5M2 | .e2m1 => some fmtE2M1
  | _ => none

/-- The range of an integer format (R70); CODE formats are unsigned codes. -/
def Elem.range : Elem → Int × Int
  | .int32 => (-2147483648, 2147483647)
  | .int8 => (-128, 127)
  | .uint8 => (0, 255)
  | .int4 => (-8, 7)
  | .uint4 => (0, 15)
  | .code1 => (0, 1)
  | .code2 => (0, 3)
  | .code3 => (0, 7)
  | _ => (0, 0)

/-- An exact value (R79): a signed zero, a nonzero real num / den, an infinity, or a NaN given by the FP32 pattern that carries its sign, payload and quiet bit. -/
inductive FVal where
  | zero (neg : Bool)
  | fin (num : Int) (den : Nat)
  | inf (neg : Bool)
  | nan (p : W32)
deriving DecidableEq, Repr

/-- The default NaN in FP32 (R84). -/
def defaultNaN : W32 := 0x7FC00000#32

/-- The sign of a value. -/
def FVal.neg : FVal → Bool
  | .zero n => n
  | .fin x _ => decide (x < 0)
  | .inf n => n
  | .nan p => p.getLsbD 31

def FVal.isNaN : FVal → Bool
  | .nan _ => true
  | _ => false

/-- A NaN whose quiet bit is 0 (R69). -/
def FVal.isSNaN : FVal → Bool
  | .nan p => !p.getLsbD 22
  | _ => false

/-- A real as a value: 0 is +0. -/
def FVal.ofInt (x : Int) : FVal := if x = 0 then .zero false else .fin x 1

/-- A nonzero multiple of a power of two, with the sign of a zero. -/
def FVal.scaled (neg : Bool) (m : Nat) (e : Int) : FVal :=
  if m = 0 then .zero neg
  else
    let n : Int := if neg then -(m : Int) else m
    if e ≥ 0 then .fin (n * 2 ^ e.toNat) 1 else .fin n (2 ^ (-e).toNat)

/-- The value of an encoding of a floating-point format (R69, R79). -/
def FFmt.value (f : FFmt) (bits : Nat) : FVal :=
  let neg := bitOf bits (f.ebits + f.mbits)
  let e := bitsOf bits (f.ebits + f.mbits - 1) f.mbits
  let m := bits % 2 ^ f.mbits
  let emax := 2 ^ f.ebits - 1
  let nanP : W32 := BitVec.ofNat 32 ((b2n neg) * 2 ^ 31 + 0xFF * 2 ^ 23 + m * 2 ^ (23 - f.mbits))
  match f.specials with
  | .ieee =>
    if e = emax then (if m = 0 then .inf neg else .nan nanP)
    else if e = 0 then .scaled neg m (1 - (f.bias : Int) - f.mbits)
    else .scaled neg (2 ^ f.mbits + m) ((e : Int) - f.bias - f.mbits)
  | .nanOnly =>
    if e = emax && m = 2 ^ f.mbits - 1 then .nan nanP
    else if e = 0 then .scaled neg m (1 - (f.bias : Int) - f.mbits)
    else .scaled neg (2 ^ f.mbits + m) ((e : Int) - f.bias - f.mbits)
  | .none =>
    if e = 0 then .scaled neg m (1 - (f.bias : Int) - f.mbits)
    else .scaled neg (2 ^ f.mbits + m) ((e : Int) - f.bias - f.mbits)

/-- Value(F, bits) (R79). -/
def elemValue (f : Elem) (bits : Nat) : FVal :=
  match f with
  | .int32 => .ofInt (BitVec.ofNat 32 bits).toInt
  | .int8 => .ofInt (BitVec.ofNat 8 bits).toInt
  | .int4 => .ofInt (BitVec.ofNat 4 bits).toInt
  | .uint8 => .ofInt (bits % 256)
  | .uint4 => .ofInt (bits % 16)
  | .code1 => .ofInt (bits % 2)
  | .code2 => .ofInt (bits % 4)
  | .code3 => .ofInt (bits % 8)
  | .fp32 => fmtFP32.value bits
  | .bf16 => fmtBF16.value bits
  | .fp16 => fmtFP16.value bits
  | .e4m3 => fmtE4M3.value bits
  | .e5m2 => fmtE5M2.value bits
  | .e2m1 => fmtE2M1.value bits

/-- Value(FP32, x). -/
def fp32 (x : W32) : FVal := fmtFP32.value x.toNat

/-- The base rounding modes (R81). -/
inductive RBase where
  | rne | rtz | rup | rdn
deriving DecidableEq, Repr

/-- A rounding mode: its base and whether it is a saturating variant (R81). -/
structure RMode where
  base : RBase
  sat : Bool
deriving DecidableEq, Repr

/-- The codes of R81. -/
def RMode.ofCode (c : Nat) : RMode :=
  { base := match c % 4 with | 0 => .rne | 1 => .rtz | 2 => .rup | _ => .rdn
    sat := decide (4 ≤ c % 8) }

def rne : RMode := { base := .rne, sat := false }

/-- RoundInt(num / den, mode), for a positive den (R81). -/
def roundInt (num : Int) (den : Nat) (m : RBase) : Int :=
  let q := Int.fdiv num den
  let r := num - q * den
  if r = 0 then q
  else match m with
    | .rdn => q
    | .rup => q + 1
    | .rtz => if num < 0 then q + 1 else q
    | .rne =>
      if 2 * r < den then q
      else if 2 * r > den then q + 1
      else if q % 2 = 0 then q else q + 1

/-- Floor(Log2(n / d)) for positive n and d. -/
def floorLog2 (n d : Nat) : Int :=
  let l : Int := (Nat.log2 n : Int) - Nat.log2 d
  let below := if l ≥ 0 then n < d * 2 ^ l.toNat else n * 2 ^ (-l).toNat < d
  if below then l - 1 else l

/-- RoundInt((num / den) / 2^k). -/
def roundScaled (num : Int) (den : Nat) (k : Int) (m : RBase) : Int :=
  if k ≥ 0 then roundInt num (den * 2 ^ k.toNat) m else roundInt (num * 2 ^ (-k).toNat) den m

/-- Is y * 2^k = num / den? -/
def scaledEq (y k num : Int) (den : Nat) : Bool :=
  if k ≥ 0 then decide (y * 2 ^ k.toNat * den = num) else decide (y * den = num * 2 ^ (-k).toNat)

/-- Biased exponent field and mantissa of the largest finite value (R69). -/
def FFmt.maxFinite (f : FFmt) : Nat × Nat :=
  match f.specials with
  | .ieee => (2 ^ f.ebits - 2, 2 ^ f.mbits - 1)
  | .nanOnly => (2 ^ f.ebits - 1, 2 ^ f.mbits - 2)
  | .none => (2 ^ f.ebits - 1, 2 ^ f.mbits - 1)

/-- Put a sign, exponent and mantissa together. -/
def FFmt.pack (f : FFmt) (neg : Bool) (e m : Nat) : Nat := (b2n neg) * 2 ^ (f.ebits + f.mbits) + e * 2 ^ f.mbits + m

def FFmt.packMax (f : FFmt) (neg : Bool) : Nat := f.pack neg f.maxFinite.1 f.maxFinite.2
def FFmt.packInf (f : FFmt) (neg : Bool) : Nat := f.pack neg (2 ^ f.ebits - 1) 0
/-- The NaN of E4M3 of a sign (R84). -/
def FFmt.packNaN (f : FFmt) (neg : Bool) : Nat := f.pack neg (2 ^ f.ebits - 1) (2 ^ f.mbits - 1)

/-- The result on overflow of a value of sign `neg` (R82). -/
def FFmt.overflow (f : FFmt) (neg : Bool) (mode : RMode) : Nat × Flags :=
  let satR := (f.packMax neg, flagOF ||| flagNX ||| flagSAT)
  let maxR := (f.packMax neg, flagOF ||| flagNX)
  let big := match f.specials with | .ieee => f.packInf neg | _ => f.packNaN neg
  let bigR := (big, flagOF ||| flagNX)
  if f.specials = .none then satR
  else if mode.sat then satR
  else match mode.base with
    | .rne => bigR
    | .rtz => maxR
    | .rup => if neg then maxR else bigR
    | .rdn => if neg then bigR else maxR

/-- A NaN converted into a format (R84). -/
def FFmt.ofNaN (f : FFmt) (p : W32) : Nat × Flags :=
  let nv := flagIf (!p.getLsbD 22) flagNV
  let neg := p.getLsbD 31
  match f.specials with
  | .ieee =>
    let m := (p.toNat % 2 ^ 23) / 2 ^ (23 - f.mbits)
    (f.pack neg (2 ^ f.ebits - 1) (m ||| 2 ^ (f.mbits - 1)), nv)
  | .nanOnly => (f.packNaN neg, nv)
  | .none => (0, nv ||| flagNV)

/-- Round a finite nonzero real into a format (R81, R82). -/
def FFmt.roundFin (f : FFmt) (num : Int) (den : Nat) (mode : RMode) : Nat × Flags :=
  let neg := decide (num < 0)
  let n := num.natAbs
  let e0 := floorLog2 n den
  let emin : Int := 1 - (f.bias : Int)
  let e := if e0 < emin then emin else e0
  let k := e - f.mbits
  let y := roundScaled num den k mode.base
  let ya := y.natAbs
  let exact := scaledEq y k num den
  let nx := flagIf (!exact) flagNX
  let uf := flagIf (decide (e0 < emin) && !exact) flagUF
  -- y may equal 2^(m+1)
  let (ya, k) := if ya = 2 ^ (f.mbits + 1) then (2 ^ f.mbits, k + 1) else (ya, k)
  if ya < 2 ^ f.mbits then (f.pack neg 0 ya, nx ||| uf)
  else
    let ef := k + f.mbits + f.bias
    let m := ya - 2 ^ f.mbits
    let (me, mm) := f.maxFinite
    if ef > me || (ef = me && m > mm) then f.overflow neg mode
    else (f.pack neg ef.toNat m, nx ||| uf)

/-- Round(x, G, mode) into a floating-point format (R81, R82, R84). -/
def FFmt.round (f : FFmt) (x : FVal) (mode : RMode) : Nat × Flags :=
  match x with
  | .zero neg => (f.pack neg 0 0, 0#6)
  | .fin n d => f.roundFin n d mode
  | .inf neg =>
    match f.specials with
    | .ieee => if mode.sat then (f.packMax neg, flagSAT) else (f.packInf neg, 0#6)
    | .nanOnly => if mode.sat then (f.packMax neg, flagSAT) else (f.packNaN neg, flagNV)
    | .none => (f.packMax neg, flagSAT)
  | .nan p => f.ofNaN p

/-- Round into an integer format (R83). -/
def roundToInt (x : FVal) (lo hi : Int) (mode : RMode) : Int × Flags :=
  match x with
  | .zero _ => (clampInt 0 lo hi, 0#6)
  | .fin n d =>
    let y := roundInt n d mode.base
    let r := clampInt y lo hi
    (r, flagIf (r ≠ y) flagSAT ||| flagIf (r * d ≠ n) flagNX)
  | .inf neg => (if neg then lo else hi, flagSAT ||| flagNX)
  | .nan _ => (0, flagNV)

/-- The pattern of an integer in `w` bits. -/
def intPattern (w : Nat) (x : Int) : Nat := (BitVec.ofInt w x).toNat

/-- Round(x, G, mode) for any format that a conversion may write (R80-R84). -/
def roundInto (g : Elem) (x : FVal) (mode : RMode) : Nat × Flags :=
  match g.float? with
  | some f => f.round x mode
  | none =>
    let (lo, hi) := g.range
    let (y, fl) := roundToInt x lo hi mode
    (intPattern g.width y, fl)

/-- Convert(bits, F, G, mode) (R80); a NaN source that signals sets NV (R84). -/
def convert (bits : Nat) (f g : Elem) (mode : RMode) : Nat × Flags := roundInto g (elemValue f bits) mode

/-- Round into FP32. -/
def roundFP32 (x : FVal) (mode : RMode) : W32 × Flags :=
  let (b, fl) := fmtFP32.round x mode
  (BitVec.ofNat 32 b, fl)

/-- Quiet(x) (R90). -/
def quiet (p : W32) : W32 := p ||| 0x400000#32

/-- The first NaN of a list of operands, quieted (R86). -/
def propagateNaN : List FVal → Option W32
  | [] => none
  | .nan p :: _ => some (quiet p)
  | _ :: r => propagateNaN r

/-- NV for a signalling operand (R86). -/
def snanFlag (xs : List FVal) : Flags := flagIf (xs.any FVal.isSNaN) flagNV

/-- The negation of a value that is no NaN. -/
def FVal.negate : FVal → FVal
  | .zero n => .zero (!n)
  | .fin n d => .fin (-n) d
  | .inf n => .inf (!n)
  | .nan p => .nan p

/-- Exact product of values that are no NaNs; `none` is the invalid operation infinity x 0 (R86). -/
def mulExact (a b : FVal) : Option FVal :=
  match a, b with
  | .inf x, .inf y => some (.inf (x != y))
  | .inf x, .fin n _ => some (.inf (x != decide (n < 0)))
  | .fin n _, .inf y => some (.inf (decide (n < 0) != y))
  | .inf _, .zero _ => none
  | .zero _, .inf _ => none
  | .zero x, .zero y => some (.zero (x != y))
  | .zero x, .fin n _ => some (.zero (x != decide (n < 0)))
  | .fin n _, .zero y => some (.zero (decide (n < 0) != y))
  | .fin n d, .fin m e => some (.fin (n * m) (d * e))
  | .nan p, _ => some (.nan p)
  | _, .nan p => some (.nan p)

/-- Exact sum of values that are no NaNs; `none` is the invalid operation infinity - infinity (R85, R86). `down` is rounding towards minus infinity. -/
def addExact (a b : FVal) (down : Bool) : Option FVal :=
  match a, b with
  | .inf x, .inf y => if x = y then some (.inf x) else none
  | .inf x, _ => some (.inf x)
  | _, .inf y => some (.inf y)
  | .zero x, .zero y => some (.zero (if x = y then x else down))
  | .zero _, b => some b
  | a, .zero _ => some a
  | .fin n d, .fin m e =>
    let s := n * e + m * d
    some (if s = 0 then .zero down else .fin s (d * e))
  | .nan p, _ => some (.nan p)
  | _, .nan p => some (.nan p)

/-- Does the mode round towards minus infinity (R85)? -/
def RMode.down (m : RMode) : Bool := m.base == .rdn

/-- Round an exact result, or the default NaN with NV for an invalid operation (R86). -/
def finish (x : Option FVal) (mode : RMode) : W32 × Flags :=
  match x with
  | none => (defaultNaN, flagNV)
  | some v => roundFP32 v mode

/-- a + b rounded once, or a - b when `sub` (R85, R86, R90 FAdd; 07 R172 VFSUB). -/
def faddOn (a b : FVal) (sub : Bool) (mode : RMode) : W32 × Flags :=
  match propagateNaN [a, b] with
  | some p => (p, snanFlag [a, b])
  | none => finish (addExact a (if sub then b.negate else b) mode.down) mode

/-- a x b rounded once (R86, R90 FMul). -/
def fmulOn (a b : FVal) (mode : RMode) : W32 × Flags :=
  match propagateNaN [a, b] with
  | some p => (p, snanFlag [a, b])
  | none => finish (mulExact a b) mode

/-- (a x b) + c with one rounding; `np` negates the product, `nc` the addend (R86, R90 FMA; 07 R172 VFMS, VFNMA). An invalid product is detected whether or not c is a NaN. -/
def fmaOn (a b c : FVal) (np nc : Bool) (mode : RMode) : W32 × Flags :=
  let badProduct := !a.isNaN && !b.isNaN && (mulExact a b).isNone
  match propagateNaN [a, b, c] with
  | some p => (p, snanFlag [a, b, c] ||| flagIf badProduct flagNV)
  | none =>
    match mulExact a b with
    | none => (defaultNaN, flagNV)
    | some x => finish (addExact (if np then x.negate else x) (if nc then c.negate else c) mode.down) mode

def fadd (a b : W32) (mode : RMode) : W32 × Flags := faddOn (fp32 a) (fp32 b) false mode
def fsub (a b : W32) (mode : RMode) : W32 × Flags := faddOn (fp32 a) (fp32 b) true mode
def fmul (a b : W32) (mode : RMode) : W32 × Flags := fmulOn (fp32 a) (fp32 b) mode
def fma (a b c : W32) (mode : RMode) : W32 × Flags := fmaOn (fp32 a) (fp32 b) (fp32 c) false false mode
def fms (a b c : W32) (mode : RMode) : W32 × Flags := fmaOn (fp32 a) (fp32 b) (fp32 c) false true mode
def fnma (a b c : W32) (mode : RMode) : W32 × Flags := fmaOn (fp32 a) (fp32 b) (fp32 c) true false mode

/-- a < b of values that are no NaNs; -0 and +0 are equal (07 R176). -/
def fltVal (a b : FVal) : Bool :=
  match a, b with
  | .inf x, .inf y => x && !y
  | .inf x, _ => x
  | _, .inf y => !y
  | .zero _, .zero _ => false
  | .zero _, .fin m _ => decide (m > 0)
  | .fin n _, .zero _ => decide (n < 0)
  | .fin n d, .fin m e => decide (n * e < m * d)
  | _, _ => false

/-- a = b of values that are no NaNs. -/
def feqVal (a b : FVal) : Bool := !fltVal a b && !fltVal b a

/-- a < b with -0 below +0 (07 R172 VFMIN, R184). -/
def fltSigned (a b : FVal) : Bool :=
  match a, b with
  | .zero x, .zero y => x && !y
  | _, _ => fltVal a b

/-- VFMIN and VFMAX (07 R172). -/
def fminmax (mx : Bool) (a b : W32) : W32 × Flags :=
  let x := fp32 a
  let y := fp32 b
  let nv := snanFlag [x, y]
  match x.isNaN, y.isNaN with
  | true, true => ((propagateNaN [x, y]).getD defaultNaN, nv)
  | true, false => (b, nv)
  | false, true => (a, nv)
  | false, false =>
    let aLess := fltSigned x y
    let bLess := fltSigned y x
    (if mx then (if aLess then b else a) else (if bLess then b else a), nv)

/-- VFCLASS (07 R175). -/
def fclass (a : W32) : W32 :=
  let neg := a.getLsbD 31
  let e := bitsOf a.toNat 30 23
  let m := a.toNat % 2 ^ 23
  let bit : Nat :=
    if e = 255 then
      if m = 0 then (if neg then 0 else 7)
      else if a.getLsbD 22 then 9 else 8
    else if e = 0 then
      if m = 0 then (if neg then 3 else 4) else (if neg then 2 else 5)
    else (if neg then 1 else 6)
  BitVec.ofNat 32 (2 ^ bit)

/-- The FP32 relations of 07 R176. -/
inductive FRel where
  | eq | lt | le | un
deriving DecidableEq, Repr

/-- A compare with its flags (07 R176). -/
def fcmp (r : FRel) (a b : W32) : Bool × Flags :=
  let x := fp32 a
  let y := fp32 b
  let anyNaN := x.isNaN || y.isNaN
  let nvS := snanFlag [x, y]
  match r with
  | .eq => (!anyNaN && feqVal x y, nvS)
  | .lt => (!anyNaN && fltVal x y, flagIf anyNaN flagNV)
  | .le => (!anyNaN && !fltVal y x, flagIf anyNaN flagNV)
  | .un => (anyNaN, nvS)

/-- The value of a scale or an element times an exact integer factor, as R73 and R74 state it: `s` is the value of the FP16 scale. The flag is NV where the consuming unit raises it. -/
def groupScaled (s : FVal) (factor : Int) : FVal × Flags :=
  match s with
  | .nan p => (.nan (quiet p), snanFlag [s])
  | .inf neg =>
    if factor = 0 then (.nan defaultNaN, flagNV)
    else (.inf (neg != decide (factor < 0)), 0#6)
  | .zero neg => (.zero (neg != decide (factor < 0)), 0#6)
  | .fin n d => if factor = 0 then (.zero (decide (n < 0)), 0#6) else (.fin (n * factor) d, 0#6)

/-- MBValue(F, e, bits) (R72, R90). -/
def mbValue (f : Elem) (e : Nat) (bits : Nat) : FVal :=
  if e = 0xFF then .nan defaultNaN
  else match elemValue f bits with
    | .fin n d => if e ≥ 127 then .fin (n * 2 ^ (e - 127)) d else .fin n (d * 2 ^ (127 - e))
    | v => v

end Sys2Proof.Machine
end

