-- ==== Sys2Proof/Machine/Blocks.lean ====
section
/-! DEFINITION. Scaled elements: values under micro-block and group scales, and the choice of a block's scale and zero point (spec/03_number_formats.md R72, R73; spec/08 R203-R205). -/

namespace Sys2Proof.Machine

open Sys2Proof

/-- The size of a block of a scaled entry: 4 for a micro-block, else the group size (08 R203). -/
def blockSize (scale group : Nat) : Nat := if scale = 1 then 4 else group
/-- Bytes of one scale. -/
def scaleBytes (scale : Nat) : Nat := if scale = 1 then 1 else 2

/-- Where the zero-point plane starts, after the scale plane (08 R203). -/
def zeroPlane (plane nblocks : Nat) : Nat := plane + 32 * ceilDiv (nblocks * 2) 32

/-- The integer of an integer element. -/
def intBits (f : Elem) (bits : Nat) : Int :=
  match f with
  | .int8 => (BitVec.ofNat 8 bits).toInt
  | .int4 => (BitVec.ofNat 4 bits).toInt
  | .int32 => (BitVec.ofNat 32 bits).toInt
  | _ => bits

/-- The value of an element under its block's scale and zero point, with the NV that the consumer raises (03 R72, R73). -/
def scaledValue (f : Elem) (scale : Nat) (bits sc zp : Nat) : FVal × Flags :=
  match scale with
  | 0 => (elemValue f bits, 0#6)
  | 1 => (mbValue f sc bits, 0#6)
  | 2 => groupScaled (elemValue .fp16 sc) (intBits f bits)
  | _ => groupScaled (elemValue .fp16 sc) (intBits f bits - intBits f zp)

/-- Magnitude of a finite value as a quotient; 0 otherwise. -/
def magnitude : FVal → Nat × Nat
  | .fin n d => (n.natAbs, d)
  | _ => (0, 1)

/-- The greater of two quotients. -/
def maxQ (a b : Nat × Nat) : Nat × Nat := if a.1 * b.2 < b.1 * a.2 then b else a

/-- Signed quotient of a finite value. -/
def signedQ : FVal → Option (Int × Nat)
  | .fin n d => some (n, d)
  | .zero _ => some (0, 1)
  | _ => none

/-- The result of the choice for one block: scale bits, zero point bits, element bits, flags (08 R205). -/
structure BlockChoice where
  scale : Nat
  zp : Nat
  elems : List Nat
  flags : Flags
deriving DecidableEq, Repr

/-- emax of the micro-block formats (08 R205). -/
def mbEmax : Elem → Int
  | .e4m3 => 8 | .e5m2 => 15 | _ => 2

/-- x times 2^k, exact. -/
def scaleBy (x : FVal) (k : Int) : FVal :=
  match x with
  | .fin n d => if k ≥ 0 then .fin (n * 2 ^ k.toNat) d else .fin n (d * 2 ^ (-k).toNat)
  | v => v

/-- A micro-block (08 R205). -/
def chooseMicro (f : Elem) (m : RMode) (xs : List FVal) : BlockChoice :=
  if xs.any FVal.isNaN then { scale := 0xFF, zp := 0, elems := xs.map fun _ => 0, flags := flagNV }
  else
    let mx := (xs.map magnitude).foldl maxQ (0, 1)
    let e : Int := if mx.1 = 0 then 127 else clampInt (floorLog2 mx.1 mx.2 - mbEmax f + 127) 0 254
    let rs := xs.map fun x => roundInto f (scaleBy x (127 - e)) m
    { scale := e.toNat, zp := 0, elems := rs.map (·.1), flags := rs.foldl (fun fl r => fl ||| r.2) 0#6 }

/-- x / (n / d) of a finite value, exact. -/
def divQ (x : FVal) (n d : Nat) : FVal :=
  match x with
  | .fin a b => .fin (a * d) (b * n)
  | v => v

/-- A group, symmetric or asymmetric (08 R205). -/
def chooseGroup (f : Elem) (asym : Bool) (m : RMode) (xs : List FVal) : BlockChoice :=
  if xs.any FVal.isNaN then { scale := 0x7E00, zp := 0, elems := xs.map fun _ => 0, flags := flagNV }
  else
    let (qmin, qmax) := f.range
    let fins := xs.filterMap signedQ
    let lo := fins.foldl (fun (a : Int × Nat) b => if b.1 * a.2 < a.1 * b.2 then b else a) (0, 1)
    let hi := fins.foldl (fun (a : Int × Nat) b => if b.1 * a.2 > a.1 * b.2 then b else a) (0, 1)
    let mx := (xs.map magnitude).foldl maxQ (0, 1)
    -- t = (hi - lo) / L, or m / qmax
    let t : Int × Nat := if asym then (hi.1 * lo.2 - lo.1 * hi.2, hi.2 * lo.2 * (qmax - qmin).toNat) else ((mx.1 : Int), mx.2 * qmax.toNat)
    let (s0, sfl) := fmtFP16.round (if t.1 = 0 then .zero false else .fin t.1 t.2) rne
    let s1 := if s0 % 0x8000 = 0 then 0x3C00 else s0
    let big := s1 == 0x7C00
    let s2 := if big then 0x7BFF else s1
    let (sn, sd) := magnitude (fmtFP16.value s2)
    let zt : Int := roundInt (qmin * lo.2 * sn - lo.1 * sd) (lo.2 * sn) .rne
    let z := if asym then clampInt zt qmin qmax else 0
    let zfl := flagIf (asym && z ≠ zt) flagSAT
    let rs := xs.map fun x =>
      match divQ x sn sd with
      | .inf neg => (intPattern f.width (if neg then qmin else qmax), flagSAT ||| flagNX)
      | .fin a b =>
        let y := roundInt a b m.base + z
        let r := clampInt y qmin qmax
        (intPattern f.width r, flagIf (r ≠ y) flagSAT ||| flagIf ((r - z) * b ≠ a) flagNX)
      | _ => (intPattern f.width (clampInt z qmin qmax), 0#6)
    { scale := s2, zp := intPattern f.width z, elems := rs.map (·.1),
      flags := rs.foldl (fun fl r => fl ||| r.2) (sfl ||| flagIf big flagSAT ||| zfl) }

/-- The choice for a block under an entry's SCALE. -/
def chooseBlock (f : Elem) (scale : Nat) (m : RMode) (xs : List FVal) : BlockChoice :=
  match scale with
  | 1 => chooseMicro f m xs
  | 2 => chooseGroup f false m xs
  | _ => chooseGroup f true m xs

end Sys2Proof.Machine
end

