-- ==== Sys2Proof/Operand.lean ====
section
/-! DEFINITION. The operand kinds of instruction words: guards, scalar specifiers, vector, mask, tile, latch and predicate fields, memory orders and scopes (spec/02_instruction_words.md R43, R46-R49, R53). -/

namespace Sys2Proof

/-- A predicate register p0-p11 (02 R49). -/
abbrev Pred := Fin 12
/-- A mask register m0-m7 (02 R49). -/
abbrev MReg := Fin 8
/-- A tile register t0-t1 (02 R49). -/
abbrev Tile := Fin 2
/-- A partial-sum latch ps0-ps3 (02 R49). -/
abbrev Latch := Fin 4

/-- The guard of a word (02 R43). -/
inductive Guard where
  /-- GP = 15, GS = 0: always issues. -/
  | always
  /-- GS = 0: guarded on when the predicate is 1. -/
  | onTrue (p : Pred)
  /-- GS = 1: guarded on when the predicate is 0. -/
  | onFalse (p : Pred)
deriving DecidableEq, Repr

/-- A scalar source specifier (02 R46). -/
inductive Scalar where
  | s (n : Fin 56)
  | sq (n : Fin 4)
  | zr
  | lr
  | sp
  /-- 63: the trailing literal word. -/
  | lit (w : W32)
deriving DecidableEq, Repr

/-- A scalar specifier in a destination field, or in a field that is both read and written: lit is illegal there (02 R47). -/
inductive SDst where
  | s (n : Fin 56)
  | sq (n : Fin 4)
  | zr
  | lr
  | sp
deriving DecidableEq, Repr

/-- A vector specifier (02 R49). -/
inductive VReg where
  | v (n : Fin 16)
  | vq (n : Fin 4)
  | vqs
deriving DecidableEq, Repr

/-- The ord field (02 R53). -/
inductive MemOrder where
  | relaxed
  | acquire
  | release
  | acqrel
deriving DecidableEq, Repr

/-- The scope field (02 R53). -/
inductive Scope where
  | unit
  | group
  | device
  | system
deriving DecidableEq, Repr

/-- The two streams of a task (02 R58). -/
inductive StreamKind where
  | access
  | execute
deriving DecidableEq, Repr

end Sys2Proof
end

