-- ==== Sys2Proof/Events.lean ====
section
/-! DEFINITION. The data that event rows carry: what comes from outside the machine, or names the unit that moves (notes/assumptions/1.md). -/

namespace Sys2Proof

/-- Which operand a shared read reads (spec/09 R255; spec/10 R295). -/
inductive ShareKind where
  | bank | denseA | denseB
deriving DecidableEq, Repr

/-- The response to a page-request group (spec/08 R229). -/
inductive PageCode where
  | success | invalid | failure
deriving DecidableEq, Repr

/-- What the thermal sensor of a column returns at an interval pulse, with the power model's estimate in units of 0.125 degrees and its power for the column in mW (spec/15 R418, R419). The report of LP memory device n comes with it as that of column 192 + n (R375, R418; notes/assumptions/98.md). -/
structure Sensor where
  col : Nat
  read : Option (BitVec 12)
  est : BitVec 12
  power : Nat
deriving DecidableEq, Repr

/-- Correctable errors of one kind of memory in one interval: their count and first location (spec/15 R420). -/
structure SoftError where
  kind : Nat
  count : Nat
  loc : Nat
deriving DecidableEq, Repr

end Sys2Proof
end

