-- ==== Sys2Proof/Syntax.lean ====
section
/-! DEFINITION. The abstract syntax of the OB3: one constructor for each row of the table of operations and events. The word rows carry their guard and the typed operand fields of their format (spec/02_instruction_words.md R41-R60); the event rows carry the data of the event itself (notes/assumptions/1.md). -/

namespace Sys2Proof

/-- An instruction word or an event of the device and its surroundings. -/
inductive Instr where
  /-- ADD (R99). Writes (a + b) mod 2^64 to d. -/
  | add (g : Guard) (d : SDst) (a : Scalar) (b : Scalar)
  /-- SUB (R99). Writes (a - b) mod 2^64 to d. -/
  | sub (g : Guard) (d : SDst) (a : Scalar) (b : Scalar)
  /-- AND (R99). Writes a AND b to d. -/
  | and (g : Guard) (d : SDst) (a : Scalar) (b : Scalar)
  /-- OR (R99). Writes a OR b to d. -/
  | or (g : Guard) (d : SDst) (a : Scalar) (b : Scalar)
  /-- XOR (R99). Writes a XOR b to d. -/
  | xor (g : Guard) (d : SDst) (a : Scalar) (b : Scalar)
  /-- SHL (R99). Shifts a left by b[5:0]. -/
  | shl (g : Guard) (d : SDst) (a : Scalar) (b : Scalar)
  /-- SHR (R99). Shifts a right logically by b[5:0]. -/
  | shr (g : Guard) (d : SDst) (a : Scalar) (b : Scalar)
  /-- SAR (R99). Shifts a right arithmetically by b[5:0]. -/
  | sar (g : Guard) (d : SDst) (a : Scalar) (b : Scalar)
  /-- MUL (R99). Writes the low 64 bits of a × b. -/
  | mul (g : Guard) (d : SDst) (a : Scalar) (b : Scalar)
  /-- MULHS (R99). Writes the high 64 bits of the signed product. -/
  | mulhs (g : Guard) (d : SDst) (a : Scalar) (b : Scalar)
  /-- MULHU (R99). Writes the high 64 bits of the unsigned product. -/
  | mulhu (g : Guard) (d : SDst) (a : Scalar) (b : Scalar)
  /-- MIN (R99). Writes the signed minimum of a and b. -/
  | min (g : Guard) (d : SDst) (a : Scalar) (b : Scalar)
  /-- MAX (R99). Writes the signed maximum of a and b. -/
  | max (g : Guard) (d : SDst) (a : Scalar) (b : Scalar)
  /-- MINU (R99). Writes the unsigned minimum of a and b. -/
  | minu (g : Guard) (d : SDst) (a : Scalar) (b : Scalar)
  /-- MAXU (R99). Writes the unsigned maximum of a and b. -/
  | maxu (g : Guard) (d : SDst) (a : Scalar) (b : Scalar)
  /-- ROL (R99). Rotates a left by b[5:0]. -/
  | rol (g : Guard) (d : SDst) (a : Scalar) (b : Scalar)
  /-- ADDI (R100). Adds a sign-extended 6-bit immediate. -/
  | addi (g : Guard) (d : SDst) (a : Scalar) (imm : BitVec 6)
  /-- ANDI (R100). ANDs a sign-extended 6-bit immediate. -/
  | andi (g : Guard) (d : SDst) (a : Scalar) (imm : BitVec 6)
  /-- ORI (R100). ORs a sign-extended 6-bit immediate. -/
  | ori (g : Guard) (d : SDst) (a : Scalar) (imm : BitVec 6)
  /-- XORI (R100). XORs a sign-extended 6-bit immediate. -/
  | xori (g : Guard) (d : SDst) (a : Scalar) (imm : BitVec 6)
  /-- SHLI (R100). Shifts left by an unsigned 6-bit immediate. -/
  | shli (g : Guard) (d : SDst) (a : Scalar) (imm : BitVec 6)
  /-- SHRI (R100). Shifts right logically by an unsigned 6-bit immediate. -/
  | shri (g : Guard) (d : SDst) (a : Scalar) (imm : BitVec 6)
  /-- SARI (R100). Shifts right arithmetically by an unsigned 6-bit immediate. -/
  | sari (g : Guard) (d : SDst) (a : Scalar) (imm : BitVec 6)
  /-- CLZ (R101). Counts the leading zero bits of a. -/
  | clz (g : Guard) (d : SDst) (a : Scalar)
  /-- CTZ (R101). Counts the trailing zero bits of a. -/
  | ctz (g : Guard) (d : SDst) (a : Scalar)
  /-- POPC (R101). Counts the one bits of a. -/
  | popc (g : Guard) (d : SDst) (a : Scalar)
  /-- BSWAP (R101). Reverses the bytes of a. -/
  | bswap (g : Guard) (d : SDst) (a : Scalar)
  /-- SEXTB (R101). Sign-extends byte a[7:0]. -/
  | sextb (g : Guard) (d : SDst) (a : Scalar)
  /-- SEXTH (R101). Sign-extends halfword a[15:0]. -/
  | sexth (g : Guard) (d : SDst) (a : Scalar)
  /-- SEXTW (R101). Sign-extends word a[31:0]. -/
  | sextw (g : Guard) (d : SDst) (a : Scalar)
  /-- ZEXTW (R101). Zero-extends word a[31:0]. -/
  | zextw (g : Guard) (d : SDst) (a : Scalar)
  /-- DIVS (R102). Signed division truncated towards zero, with fixed results for zero and overflow. -/
  | divs (g : Guard) (d : SDst) (a : Scalar) (b : Scalar)
  /-- DIVU (R102). Unsigned division, all ones for a zero divisor. -/
  | divu (g : Guard) (d : SDst) (a : Scalar) (b : Scalar)
  /-- REMS (R102). Signed remainder with the sign of a. -/
  | rems (g : Guard) (d : SDst) (a : Scalar) (b : Scalar)
  /-- REMU (R102). Unsigned remainder. -/
  | remu (g : Guard) (d : SDst) (a : Scalar) (b : Scalar)
  /-- CMP_EQ (R103). Sets pd when a equals b. -/
  | cmpEq (g : Guard) (pd : Pred) (a : Scalar) (b : Scalar)
  /-- CMP_NE (R103). Sets pd when a differs from b. -/
  | cmpNe (g : Guard) (pd : Pred) (a : Scalar) (b : Scalar)
  /-- CMP_LT (R103). Sets pd on signed less-than. -/
  | cmpLt (g : Guard) (pd : Pred) (a : Scalar) (b : Scalar)
  /-- CMP_GE (R103). Sets pd on signed greater-or-equal. -/
  | cmpGe (g : Guard) (pd : Pred) (a : Scalar) (b : Scalar)
  /-- CMP_LTU (R103). Sets pd on unsigned less-than. -/
  | cmpLtu (g : Guard) (pd : Pred) (a : Scalar) (b : Scalar)
  /-- CMP_GEU (R103). Sets pd on unsigned greater-or-equal. -/
  | cmpGeu (g : Guard) (pd : Pred) (a : Scalar) (b : Scalar)
  /-- CMP_LE (R103). Sets pd on signed less-or-equal. -/
  | cmpLe (g : Guard) (pd : Pred) (a : Scalar) (b : Scalar)
  /-- CMP_GT (R103). Sets pd on signed greater-than. -/
  | cmpGt (g : Guard) (pd : Pred) (a : Scalar) (b : Scalar)
  /-- CMP_LEU (R103). Sets pd on unsigned less-or-equal. -/
  | cmpLeu (g : Guard) (pd : Pred) (a : Scalar) (b : Scalar)
  /-- CMP_GTU (R103). Sets pd on unsigned greater-than. -/
  | cmpGtu (g : Guard) (pd : Pred) (a : Scalar) (b : Scalar)
  /-- PAND (R104). pd := pa AND pb. -/
  | pand (g : Guard) (pd : Pred) (pa : Pred) (pb : Pred)
  /-- POR (R104). pd := pa OR pb. -/
  | por (g : Guard) (pd : Pred) (pa : Pred) (pb : Pred)
  /-- PXOR (R104). pd := pa XOR pb. -/
  | pxor (g : Guard) (pd : Pred) (pa : Pred) (pb : Pred)
  /-- PANDN (R104). pd := pa AND NOT pb. -/
  | pandn (g : Guard) (pd : Pred) (pa : Pred) (pb : Pred)
  /-- PORN (R104). pd := pa OR NOT pb. -/
  | porn (g : Guard) (pd : Pred) (pa : Pred) (pb : Pred)
  /-- PNOT (R104). pd := NOT pa. -/
  | pnot (g : Guard) (pd : Pred) (pa : Pred)
  /-- PSET (R104). pd := 1. -/
  | pset (g : Guard) (pd : Pred)
  /-- PCLR (R104). pd := 0. -/
  | pclr (g : Guard) (pd : Pred)
  /-- B (R106). Branches by a signed 19-bit word offset, predicted in the execute stream when the guard is unlanded. -/
  | branch (g : Guard) (off : BitVec 19)
  /-- CALL (R106). Writes lr := pc + 4 and branches by the offset. -/
  | call (g : Guard) (off : BitVec 19)
  /-- BR (R107). Branches to the address in a. -/
  | br (g : Guard) (a : Scalar)
  /-- CALLR (R107). Writes the return address to lr and branches to a. -/
  | callr (g : Guard) (a : Scalar)
  /-- RET (R107). Branches to lr. -/
  | ret (g : Guard)
  /-- LOOP (R108). Decrements the counter a and branches while it is nonzero. -/
  | loop (g : Guard) (a : SDst) (off : BitVec 15)
  /-- CQPUSH (R110). Pushes a onto the constant queue. -/
  | cqpush (g : Guard) (a : Scalar)
  /-- CQPOP (R110). Pops the constant queue into d. -/
  | cqpop (g : Guard) (d : SDst)
  /-- PQPUSH (R111). Pushes pa onto the predicate queue. -/
  | pqpush (g : Guard) (pa : Pred)
  /-- PQPOP (R111). Pops the predicate queue into pd. -/
  | pqpop (g : Guard) (pd : Pred)
  /-- NOP (R112). Does nothing. -/
  | nop (g : Guard)
  /-- TEND (R112). Ends the issuing stream; retirement follows once both streams have ended. -/
  | tend (g : Guard)
  /-- BRK (R381). Raises the BREAK trap or stops the task at the break, as DBGCTL.BRKEN says. -/
  | brk (g : Guard)
  /-- ADR (R109). Writes pc plus a signed word offset to a. -/
  | adr (g : Guard) (a : SDst) (off : BitVec 15)
  /-- LDB (R132). Loads a byte zero-extended. -/
  | ldb (g : Guard) (d : SDst) (a : Scalar) (b : Scalar)
  /-- LDH (R132). Loads a halfword zero-extended. -/
  | ldh (g : Guard) (d : SDst) (a : Scalar) (b : Scalar)
  /-- LDW (R132). Loads a word zero-extended. -/
  | ldw (g : Guard) (d : SDst) (a : Scalar) (b : Scalar)
  /-- LDD (R132). Loads a doubleword. -/
  | ldd (g : Guard) (d : SDst) (a : Scalar) (b : Scalar)
  /-- STB (R132). Stores a byte. -/
  | stb (g : Guard) (d : Scalar) (a : Scalar) (b : Scalar)
  /-- STH (R132). Stores a halfword. -/
  | sth (g : Guard) (d : Scalar) (a : Scalar) (b : Scalar)
  /-- STW (R132). Stores a word. -/
  | stw (g : Guard) (d : Scalar) (a : Scalar) (b : Scalar)
  /-- STD (R132). Stores a doubleword. -/
  | std (g : Guard) (d : Scalar) (a : Scalar) (b : Scalar)
  /-- VLD (R134). Loads a contiguous row group into a vector queue. -/
  | vld (g : Guard) (vd : VReg) (a : Scalar) (b : Scalar)
  /-- VLDS (R134). Loads a strided row group into a vector queue. -/
  | vlds (g : Guard) (vd : VReg) (a : Scalar) (b : Scalar)
  /-- VLDX (R134). Loads an indexed row group using indices popped from vqs. -/
  | vldx (g : Guard) (vd : VReg) (a : Scalar) (b : Scalar)
  /-- VLDFF (R135). Bounded first-stop load that also pushes the element count to the paired scalar queue. -/
  | vldff (g : Guard) (vd : VReg) (a : Scalar) (b : Scalar)
  /-- VST (R134). Stores the masked elements of a vqs entry contiguously. -/
  | vst (g : Guard) (vd : VReg) (a : Scalar) (b : Scalar)
  /-- VSTS (R134). Stores the masked elements of a vqs entry with a stride. -/
  | vsts (g : Guard) (vd : VReg) (a : Scalar) (b : Scalar)
  /-- VSTX (R134). Stores a vqs entry at indexed addresses. -/
  | vstx (g : Guard) (vd : VReg) (a : Scalar) (b : Scalar)
  /-- AADD (R147). Atomic add, returning the old value. -/
  | aadd (g : Guard) (ord : MemOrder) (scope : Scope) (wide : Bool) (d : SDst) (a : Scalar)
  /-- AAND (R147). Atomic AND, returning the old value. -/
  | aand (g : Guard) (ord : MemOrder) (scope : Scope) (wide : Bool) (d : SDst) (a : Scalar)
  /-- AOR (R147). Atomic OR, returning the old value. -/
  | aor (g : Guard) (ord : MemOrder) (scope : Scope) (wide : Bool) (d : SDst) (a : Scalar)
  /-- AXOR (R147). Atomic XOR, returning the old value. -/
  | axor (g : Guard) (ord : MemOrder) (scope : Scope) (wide : Bool) (d : SDst) (a : Scalar)
  /-- AMIN (R147). Atomic signed minimum, returning the old value. -/
  | amin (g : Guard) (ord : MemOrder) (scope : Scope) (wide : Bool) (d : SDst) (a : Scalar)
  /-- AMAX (R147). Atomic signed maximum, returning the old value. -/
  | amax (g : Guard) (ord : MemOrder) (scope : Scope) (wide : Bool) (d : SDst) (a : Scalar)
  /-- ASWP (R147). Atomic swap, returning the old value. -/
  | aswp (g : Guard) (ord : MemOrder) (scope : Scope) (wide : Bool) (d : SDst) (a : Scalar)
  /-- ACAS (R147). Atomic compare and swap using d and d + 1. -/
  | acas (g : Guard) (ord : MemOrder) (scope : Scope) (wide : Bool) (d : SDst) (a : Scalar)
  /-- FENCE (R145). Orders the task's accesses within a scope, with release, acquire or both. -/
  | fence (g : Guard) (ord : MemOrder) (scope : Scope)
  /-- DOVETAIL (R146). Orders every earlier access before every later one at every home. -/
  | dovetail (g : Guard)
  /-- PUBLISH (R157). Exchanges the copies of a veneered buffer at one instant. -/
  | publish (g : Guard) (ord : MemOrder) (scope : Scope) (a : Scalar)
  /-- CMK (R337). Writes a suspension template into a cell and makes it SUSPENDED. -/
  | cmk (g : Guard) (a : Scalar) (b : Scalar)
  /-- CLD (R338). Loads 8 bytes of a cell, starting or waiting for its evaluation when needed. -/
  | cld (g : Guard) (d : SDst) (a : Scalar) (b : Scalar)
  /-- CFILL (R339). Fills an evaluating cell with a value and wakes its waiters. -/
  | cfill (g : Guard) (a : Scalar) (b : Scalar)
  /-- CFAIL (R339). Fails an evaluating cell with a code and wakes its waiters. -/
  | cfail (g : Guard) (a : Scalar) (b : Scalar)
  /-- BARINIT (R214). Sets a transfer barrier's counter and clears OVERRUN. -/
  | barinit (g : Guard) (a : Scalar) (b : Scalar)
  /-- BARX (R214). Declares pending bytes on a transfer barrier. -/
  | barx (g : Guard) (a : Scalar) (b : Scalar)
  /-- BARW (R214). Waits until a transfer barrier reaches zero or overruns. -/
  | barw (g : Guard) (a : Scalar)
  /-- BARRD (R214). Reads a transfer barrier's counter and OVERRUN. -/
  | barrd (g : Guard) (d : SDst) (a : Scalar)
  /-- JPUSH (R309). Pushes a jig record for release after a delay in ticks. -/
  | jpush (g : Guard) (d : Scalar) (a : Scalar) (b : Scalar)
  /-- QPUSH (R315). Pushes a 32-byte record onto a data queue. -/
  | qpush (g : Guard) (a : Scalar) (b : Scalar)
  /-- QPOP (R315). Pops a data-queue record, if any, into memory. -/
  | qpop (g : Guard) (d : SDst) (a : Scalar) (b : Scalar)
  /-- QDEPTH (R315). Returns the number of entries in a data queue. -/
  | qdepth (g : Guard) (d : SDst) (a : Scalar)
  /-- DARRIVE (R320). Arrives at a domain phase and waits for it to complete. -/
  | darrive (g : Guard) (d : SDst) (a : Scalar)
  /-- EVQPOP (R323). Pops a record from the cluster event queue into memory. -/
  | evqpop (g : Guard) (d : SDst) (a : Scalar)
  /-- EVQPUSH (R323). Posts a KIND 0x0C record to a cluster's event queue. -/
  | evqpush (g : Guard) (a : Scalar) (b : Scalar)
  /-- RNGINIT (R326). Initialises a reorder ring. -/
  | rnginit (g : Guard) (a : Scalar) (b : Scalar)
  /-- RNGTKT (R326). Takes the next ticket of a reorder ring. -/
  | rngtkt (g : Guard) (d : SDst) (a : Scalar)
  /-- RNGFILL (R326). Fills a ring slot for a ticket, waiting for room. -/
  | rngfill (g : Guard) (d : Scalar) (a : Scalar) (b : Scalar)
  /-- RNGGET (R326). Takes the head ticket's payload if it is filled. -/
  | rngget (g : Guard) (d : SDst) (a : Scalar) (b : Scalar)
  /-- VADD (R171). Element-wise 32-bit add. -/
  | vadd (g : Guard) (lc : BitVec 3) (vd : VReg) (va : VReg) (vb : VReg)
  /-- VSUB (R171). Element-wise 32-bit subtract. -/
  | vsub (g : Guard) (lc : BitVec 3) (vd : VReg) (va : VReg) (vb : VReg)
  /-- VMUL (R171). Element-wise low 32-bit multiply. -/
  | vmul (g : Guard) (lc : BitVec 3) (vd : VReg) (va : VReg) (vb : VReg)
  /-- VMULH (R171). Element-wise signed high multiply. -/
  | vmulh (g : Guard) (lc : BitVec 3) (vd : VReg) (va : VReg) (vb : VReg)
  /-- VAND (R171). Element-wise AND. -/
  | vand (g : Guard) (lc : BitVec 3) (vd : VReg) (va : VReg) (vb : VReg)
  /-- VOR (R171). Element-wise OR. -/
  | vor (g : Guard) (lc : BitVec 3) (vd : VReg) (va : VReg) (vb : VReg)
  /-- VXOR (R171). Element-wise XOR. -/
  | vxor (g : Guard) (lc : BitVec 3) (vd : VReg) (va : VReg) (vb : VReg)
  /-- VSHL (R171). Element-wise left shift. -/
  | vshl (g : Guard) (lc : BitVec 3) (vd : VReg) (va : VReg) (vb : VReg)
  /-- VSHR (R171). Element-wise logical right shift. -/
  | vshr (g : Guard) (lc : BitVec 3) (vd : VReg) (va : VReg) (vb : VReg)
  /-- VSAR (R171). Element-wise arithmetic right shift. -/
  | vsar (g : Guard) (lc : BitVec 3) (vd : VReg) (va : VReg) (vb : VReg)
  /-- VMIN (R171). Element-wise signed minimum. -/
  | vmin (g : Guard) (lc : BitVec 3) (vd : VReg) (va : VReg) (vb : VReg)
  /-- VMAX (R171). Element-wise signed maximum. -/
  | vmax (g : Guard) (lc : BitVec 3) (vd : VReg) (va : VReg) (vb : VReg)
  /-- VMINU (R171). Element-wise unsigned minimum. -/
  | vminu (g : Guard) (lc : BitVec 3) (vd : VReg) (va : VReg) (vb : VReg)
  /-- VMAXU (R171). Element-wise unsigned maximum. -/
  | vmaxu (g : Guard) (lc : BitVec 3) (vd : VReg) (va : VReg) (vb : VReg)
  /-- VADDS (R171). Element-wise saturating signed add. -/
  | vadds (g : Guard) (lc : BitVec 3) (vd : VReg) (va : VReg) (vb : VReg)
  /-- VSUBS (R171). Element-wise saturating signed subtract. -/
  | vsubs (g : Guard) (lc : BitVec 3) (vd : VReg) (va : VReg) (vb : VReg)
  /-- VFADD (R172). Element-wise FP32 add. -/
  | vfadd (g : Guard) (lc : BitVec 3) (vd : VReg) (va : VReg) (vb : VReg)
  /-- VFSUB (R172). Element-wise FP32 subtract. -/
  | vfsub (g : Guard) (lc : BitVec 3) (vd : VReg) (va : VReg) (vb : VReg)
  /-- VFMUL (R172). Element-wise FP32 multiply. -/
  | vfmul (g : Guard) (lc : BitVec 3) (vd : VReg) (va : VReg) (vb : VReg)
  /-- VFMA (R172). Element-wise fused multiply-add into vd. -/
  | vfma (g : Guard) (lc : BitVec 3) (vd : VReg) (va : VReg) (vb : VReg)
  /-- VFMS (R172). Element-wise fused multiply-subtract. -/
  | vfms (g : Guard) (lc : BitVec 3) (vd : VReg) (va : VReg) (vb : VReg)
  /-- VFNMA (R172). Element-wise negated fused multiply-add. -/
  | vfnma (g : Guard) (lc : BitVec 3) (vd : VReg) (va : VReg) (vb : VReg)
  /-- VFMIN (R172). Element-wise FP32 minimum. -/
  | vfmin (g : Guard) (lc : BitVec 3) (vd : VReg) (va : VReg) (vb : VReg)
  /-- VFMAX (R172). Element-wise FP32 maximum. -/
  | vfmax (g : Guard) (lc : BitVec 3) (vd : VReg) (va : VReg) (vb : VReg)
  /-- VRCPE (R173). Reciprocal estimate. -/
  | vrcpe (g : Guard) (lc : BitVec 3) (vd : VReg) (va : VReg)
  /-- VRSQE (R173). Reciprocal square-root estimate. -/
  | vrsqe (g : Guard) (lc : BitVec 3) (vd : VReg) (va : VReg)
  /-- VEXP2E (R173). Base-2 exponential estimate. -/
  | vexp2e (g : Guard) (lc : BitVec 3) (vd : VReg) (va : VReg)
  /-- VLOG2E (R173). Base-2 logarithm estimate. -/
  | vlog2e (g : Guard) (lc : BitVec 3) (vd : VReg) (va : VReg)
  /-- VTANHE (R173). Hyperbolic tangent estimate. -/
  | vtanhe (g : Guard) (lc : BitVec 3) (vd : VReg) (va : VReg)
  /-- VFABS (R175). Clears bit 31 of each element. -/
  | vfabs (g : Guard) (lc : BitVec 3) (vd : VReg) (va : VReg)
  /-- VFNEG (R175). Inverts bit 31 of each element. -/
  | vfneg (g : Guard) (lc : BitVec 3) (vd : VReg) (va : VReg)
  /-- VFCLASS (R175). Classifies each FP32 element as a one-hot integer. -/
  | vfclass (g : Guard) (lc : BitVec 3) (vd : VReg) (va : VReg)
  /-- VCMPEQ (R176). Mask bit set where patterns are equal. -/
  | vcmpeq (g : Guard) (lc : BitVec 3) (md : MReg) (va : VReg) (vb : VReg)
  /-- VCMPNE (R176). Mask bit set where patterns differ. -/
  | vcmpne (g : Guard) (lc : BitVec 3) (md : MReg) (va : VReg) (vb : VReg)
  /-- VCMPLT (R176). Mask bit set on signed less-than. -/
  | vcmplt (g : Guard) (lc : BitVec 3) (md : MReg) (va : VReg) (vb : VReg)
  /-- VCMPLTU (R176). Mask bit set on unsigned less-than. -/
  | vcmpltu (g : Guard) (lc : BitVec 3) (md : MReg) (va : VReg) (vb : VReg)
  /-- VFCMPEQ (R176). Mask bit set on FP32 equality. -/
  | vfcmpeq (g : Guard) (lc : BitVec 3) (md : MReg) (va : VReg) (vb : VReg)
  /-- VFCMPLT (R176). Mask bit set on FP32 less-than. -/
  | vfcmplt (g : Guard) (lc : BitVec 3) (md : MReg) (va : VReg) (vb : VReg)
  /-- VFCMPLE (R176). Mask bit set on FP32 less-or-equal. -/
  | vfcmple (g : Guard) (lc : BitVec 3) (md : MReg) (va : VReg) (vb : VReg)
  /-- VFCMPUN (R176). Mask bit set where either operand is a NaN. -/
  | vfcmpun (g : Guard) (lc : BitVec 3) (md : MReg) (va : VReg) (vb : VReg)
  /-- VMV (R177). Copies elements as bit patterns. -/
  | vmv (g : Guard) (lc : BitVec 3) (vd : VReg) (va : VReg)
  /-- VCVTW (R178). Widens fields of format CVTF to FP32. -/
  | vcvtw (g : Guard) (lc : BitVec 3) (vd : VReg) (va : VReg)
  /-- VCVTN (R178). Narrows FP32 elements to fields of format CVTF. -/
  | vcvtn (g : Guard) (lc : BitVec 3) (vd : VReg) (va : VReg)
  /-- VCVTFI (R177). Converts FP32 to INT32. -/
  | vcvtfi (g : Guard) (lc : BitVec 3) (vd : VReg) (va : VReg)
  /-- VCVTIF (R177). Converts INT32 to FP32. -/
  | vcvtif (g : Guard) (lc : BitVec 3) (vd : VReg) (va : VReg)
  /-- VADD_MASKED (R171). Masked form of VADD under m0. -/
  | vaddMasked (g : Guard) (lc : BitVec 3) (vd : VReg) (va : VReg) (vb : VReg)
  /-- VSUB_MASKED (R171). Masked form of VSUB under m0. -/
  | vsubMasked (g : Guard) (lc : BitVec 3) (vd : VReg) (va : VReg) (vb : VReg)
  /-- VMUL_MASKED (R171). Masked form of VMUL under m0. -/
  | vmulMasked (g : Guard) (lc : BitVec 3) (vd : VReg) (va : VReg) (vb : VReg)
  /-- VMULH_MASKED (R171). Masked form of VMULH under m0. -/
  | vmulhMasked (g : Guard) (lc : BitVec 3) (vd : VReg) (va : VReg) (vb : VReg)
  /-- VAND_MASKED (R171). Masked form of VAND under m0. -/
  | vandMasked (g : Guard) (lc : BitVec 3) (vd : VReg) (va : VReg) (vb : VReg)
  /-- VOR_MASKED (R171). Masked form of VOR under m0. -/
  | vorMasked (g : Guard) (lc : BitVec 3) (vd : VReg) (va : VReg) (vb : VReg)
  /-- VXOR_MASKED (R171). Masked form of VXOR under m0. -/
  | vxorMasked (g : Guard) (lc : BitVec 3) (vd : VReg) (va : VReg) (vb : VReg)
  /-- VSHL_MASKED (R171). Masked form of VSHL under m0. -/
  | vshlMasked (g : Guard) (lc : BitVec 3) (vd : VReg) (va : VReg) (vb : VReg)
  /-- VSHR_MASKED (R171). Masked form of VSHR under m0. -/
  | vshrMasked (g : Guard) (lc : BitVec 3) (vd : VReg) (va : VReg) (vb : VReg)
  /-- VSAR_MASKED (R171). Masked form of VSAR under m0. -/
  | vsarMasked (g : Guard) (lc : BitVec 3) (vd : VReg) (va : VReg) (vb : VReg)
  /-- VMIN_MASKED (R171). Masked form of VMIN under m0. -/
  | vminMasked (g : Guard) (lc : BitVec 3) (vd : VReg) (va : VReg) (vb : VReg)
  /-- VMAX_MASKED (R171). Masked form of VMAX under m0. -/
  | vmaxMasked (g : Guard) (lc : BitVec 3) (vd : VReg) (va : VReg) (vb : VReg)
  /-- VMINU_MASKED (R171). Masked form of VMINU under m0. -/
  | vminuMasked (g : Guard) (lc : BitVec 3) (vd : VReg) (va : VReg) (vb : VReg)
  /-- VMAXU_MASKED (R171). Masked form of VMAXU under m0. -/
  | vmaxuMasked (g : Guard) (lc : BitVec 3) (vd : VReg) (va : VReg) (vb : VReg)
  /-- VADDS_MASKED (R171). Masked form of VADDS under m0. -/
  | vaddsMasked (g : Guard) (lc : BitVec 3) (vd : VReg) (va : VReg) (vb : VReg)
  /-- VSUBS_MASKED (R171). Masked form of VSUBS under m0. -/
  | vsubsMasked (g : Guard) (lc : BitVec 3) (vd : VReg) (va : VReg) (vb : VReg)
  /-- VFADD_MASKED (R172). Masked form of VFADD under m0. -/
  | vfaddMasked (g : Guard) (lc : BitVec 3) (vd : VReg) (va : VReg) (vb : VReg)
  /-- VFSUB_MASKED (R172). Masked form of VFSUB under m0. -/
  | vfsubMasked (g : Guard) (lc : BitVec 3) (vd : VReg) (va : VReg) (vb : VReg)
  /-- VFMUL_MASKED (R172). Masked form of VFMUL under m0. -/
  | vfmulMasked (g : Guard) (lc : BitVec 3) (vd : VReg) (va : VReg) (vb : VReg)
  /-- VFMA_MASKED (R172). Masked form of VFMA under m0. -/
  | vfmaMasked (g : Guard) (lc : BitVec 3) (vd : VReg) (va : VReg) (vb : VReg)
  /-- VFMS_MASKED (R172). Masked form of VFMS under m0. -/
  | vfmsMasked (g : Guard) (lc : BitVec 3) (vd : VReg) (va : VReg) (vb : VReg)
  /-- VFNMA_MASKED (R172). Masked form of VFNMA under m0. -/
  | vfnmaMasked (g : Guard) (lc : BitVec 3) (vd : VReg) (va : VReg) (vb : VReg)
  /-- VFMIN_MASKED (R172). Masked form of VFMIN under m0. -/
  | vfminMasked (g : Guard) (lc : BitVec 3) (vd : VReg) (va : VReg) (vb : VReg)
  /-- VFMAX_MASKED (R172). Masked form of VFMAX under m0. -/
  | vfmaxMasked (g : Guard) (lc : BitVec 3) (vd : VReg) (va : VReg) (vb : VReg)
  /-- VRCPE_MASKED (R173). Masked form of VRCPE under m0. -/
  | vrcpeMasked (g : Guard) (lc : BitVec 3) (vd : VReg) (va : VReg)
  /-- VRSQE_MASKED (R173). Masked form of VRSQE under m0. -/
  | vrsqeMasked (g : Guard) (lc : BitVec 3) (vd : VReg) (va : VReg)
  /-- VEXP2E_MASKED (R173). Masked form of VEXP2E under m0. -/
  | vexp2eMasked (g : Guard) (lc : BitVec 3) (vd : VReg) (va : VReg)
  /-- VLOG2E_MASKED (R173). Masked form of VLOG2E under m0. -/
  | vlog2eMasked (g : Guard) (lc : BitVec 3) (vd : VReg) (va : VReg)
  /-- VTANHE_MASKED (R173). Masked form of VTANHE under m0. -/
  | vtanheMasked (g : Guard) (lc : BitVec 3) (vd : VReg) (va : VReg)
  /-- VFABS_MASKED (R175). Masked form of VFABS under m0. -/
  | vfabsMasked (g : Guard) (lc : BitVec 3) (vd : VReg) (va : VReg)
  /-- VFNEG_MASKED (R175). Masked form of VFNEG under m0. -/
  | vfnegMasked (g : Guard) (lc : BitVec 3) (vd : VReg) (va : VReg)
  /-- VFCLASS_MASKED (R175). Masked form of VFCLASS under m0. -/
  | vfclassMasked (g : Guard) (lc : BitVec 3) (vd : VReg) (va : VReg)
  /-- VCMPEQ_MASKED (R176). Masked form of VCMPEQ under m0. -/
  | vcmpeqMasked (g : Guard) (lc : BitVec 3) (md : MReg) (va : VReg) (vb : VReg)
  /-- VCMPNE_MASKED (R176). Masked form of VCMPNE under m0. -/
  | vcmpneMasked (g : Guard) (lc : BitVec 3) (md : MReg) (va : VReg) (vb : VReg)
  /-- VCMPLT_MASKED (R176). Masked form of VCMPLT under m0. -/
  | vcmpltMasked (g : Guard) (lc : BitVec 3) (md : MReg) (va : VReg) (vb : VReg)
  /-- VCMPLTU_MASKED (R176). Masked form of VCMPLTU under m0. -/
  | vcmpltuMasked (g : Guard) (lc : BitVec 3) (md : MReg) (va : VReg) (vb : VReg)
  /-- VFCMPEQ_MASKED (R176). Masked form of VFCMPEQ under m0. -/
  | vfcmpeqMasked (g : Guard) (lc : BitVec 3) (md : MReg) (va : VReg) (vb : VReg)
  /-- VFCMPLT_MASKED (R176). Masked form of VFCMPLT under m0. -/
  | vfcmpltMasked (g : Guard) (lc : BitVec 3) (md : MReg) (va : VReg) (vb : VReg)
  /-- VFCMPLE_MASKED (R176). Masked form of VFCMPLE under m0. -/
  | vfcmpleMasked (g : Guard) (lc : BitVec 3) (md : MReg) (va : VReg) (vb : VReg)
  /-- VFCMPUN_MASKED (R176). Masked form of VFCMPUN under m0. -/
  | vfcmpunMasked (g : Guard) (lc : BitVec 3) (md : MReg) (va : VReg) (vb : VReg)
  /-- VMV_MASKED (R177). Masked form of VMV under m0. -/
  | vmvMasked (g : Guard) (lc : BitVec 3) (vd : VReg) (va : VReg)
  /-- VCVTW_MASKED (R178). Masked form of VCVTW under m0. -/
  | vcvtwMasked (g : Guard) (lc : BitVec 3) (vd : VReg) (va : VReg)
  /-- VCVTN_MASKED (R178). Masked form of VCVTN under m0. -/
  | vcvtnMasked (g : Guard) (lc : BitVec 3) (vd : VReg) (va : VReg)
  /-- VCVTFI_MASKED (R177). Masked form of VCVTFI under m0. -/
  | vcvtfiMasked (g : Guard) (lc : BitVec 3) (vd : VReg) (va : VReg)
  /-- VCVTIF_MASKED (R177). Masked form of VCVTIF under m0. -/
  | vcvtifMasked (g : Guard) (lc : BitVec 3) (vd : VReg) (va : VReg)
  /-- VROTR (R180). Rotates the rows of a group by a scalar count. -/
  | vrotr (g : Guard) (lc : BitVec 3) (vd : VReg) (va : VReg) (s : Scalar)
  /-- VROTC (R180). Rotates the columns within each row by a scalar count. -/
  | vrotc (g : Guard) (lc : BitVec 3) (vd : VReg) (va : VReg) (s : Scalar)
  /-- VBCST (R180). Broadcasts s[31:0] to every active element. -/
  | vbcst (g : Guard) (lc : BitVec 3) (vd : VReg) (s : Scalar)
  /-- VEXTR (R180). Broadcasts the element of va selected by s. -/
  | vextr (g : Guard) (lc : BitVec 3) (vd : VReg) (va : VReg) (s : Scalar)
  /-- VSETVL (R181). Sets VL, LG, policies and CVTF and resets RGC. -/
  | vsetvl (g : Guard) (s : Scalar)
  /-- VCOMPRESS (R182). Packs the elements selected by the m0 group and returns their count. -/
  | vcompress (g : Guard) (lc : BitVec 3) (vd : VReg) (va : VReg) (s : SDst)
  /-- VEXPAND (R183). Scatters consecutive elements of va to the positions selected by m0. -/
  | vexpand (g : Guard) (lc : BitVec 3) (vd : VReg) (va : VReg) (s : Scalar)
  /-- VREDI (R184). FP32 argmax, returning the value and its index. -/
  | vredi (g : Guard) (lc : BitVec 3) (vd : VReg) (va : VReg) (s : SDst)
  /-- MAND (R179). Mask AND. -/
  | mand (g : Guard) (lc : BitVec 3) (md : MReg) (ma : MReg) (mb : MReg)
  /-- MOR (R179). Mask OR. -/
  | mor (g : Guard) (lc : BitVec 3) (md : MReg) (ma : MReg) (mb : MReg)
  /-- MXOR (R179). Mask XOR. -/
  | mxor (g : Guard) (lc : BitVec 3) (md : MReg) (ma : MReg) (mb : MReg)
  /-- MANDN (R179). Mask AND NOT. -/
  | mandn (g : Guard) (lc : BitVec 3) (md : MReg) (ma : MReg) (mb : MReg)
  /-- MNOT (R179). Mask NOT. -/
  | mnot (g : Guard) (lc : BitVec 3) (md : MReg) (ma : MReg)
  /-- MSET (R179). Sets mask bits below VL. -/
  | mset (g : Guard) (lc : BitVec 3) (md : MReg)
  /-- MCLR (R179). Clears mask bits below VL. -/
  | mclr (g : Guard) (lc : BitVec 3) (md : MReg)
  /-- MMOV (R179). Copies a mask. -/
  | mmov (g : Guard) (lc : BitVec 3) (md : MReg) (ma : MReg)
  /-- TWR (R186). Writes 16 rows of va into the next row quarter of a tile. -/
  | twr (g : Guard) (lc : BitVec 3) (t : Tile) (va : VReg)
  /-- TRD (R186). Reads the next column quarter of a tile into vd. -/
  | trd (g : Guard) (lc : BitVec 3) (vd : VReg) (t : Tile)
  /-- PSADD (R189). Adds covered rows into a partial-sum latch. -/
  | psadd (g : Guard) (lc : BitVec 3) (ps : Latch) (va : VReg)
  /-- PSRD (R189). Reads a partial-sum latch into row 0 of vd or to vqs. -/
  | psrd (g : Guard) (lc : BitVec 3) (vd : VReg) (ps : Latch)
  /-- PSCLR (R189). Clears a partial-sum latch to +0. -/
  | psclr (g : Guard) (lc : BitVec 3) (ps : Latch)
  /-- VREDADD (R185). Integer sum reduction into element 0. -/
  | vredadd (g : Guard) (lc : BitVec 3) (vd : VReg) (va : VReg)
  /-- VREDMAX (R185). Signed maximum reduction into element 0. -/
  | vredmax (g : Guard) (lc : BitVec 3) (vd : VReg) (va : VReg)
  /-- VFREDADD (R185). Fixed-tree FP32 sum reduction into element 0. -/
  | vfredadd (g : Guard) (lc : BitVec 3) (vd : VReg) (va : VReg)
  /-- KRSUM (R371). Masked column sums rescaled for absent rows. -/
  | krsum (g : Guard) (lc : BitVec 3) (vd : VReg) (va : VReg) (ms : MReg)
  /-- KRMEAN (R371). Masked column means over present rows. -/
  | krmean (g : Guard) (lc : BitVec 3) (vd : VReg) (va : VReg) (ms : MReg)
  /-- KVCNT (R372). Counts set mask bits below VL. -/
  | kvcnt (g : Guard) (lc : BitVec 3) (vd : VReg) (ms : MReg)
  /-- KMRD (R372). Expands a validity-mask bit stream into a per-element mask. -/
  | kmrd (g : Guard) (lc : BitVec 3) (md : MReg) (va : VReg)
  /-- SRRD (R384). Reads a system register. -/
  | srrd (g : Guard) (d : SDst) (n : BitVec 6)
  /-- SRWR (R384). Writes a system register; ignored for read-only ones. -/
  | srwr (g : Guard) (a : Scalar) (n : BitVec 6)
  /-- SYSCALL (R386). Posts a service request to the host and waits for its reply. -/
  | syscall (g : Guard) (d : SDst) (a : Scalar) (b : Scalar)
  /-- TICKWT (R386). Waits until the frame counter reaches a tick. -/
  | tickwt (g : Guard) (a : Scalar)
  /-- FRAMERD (R386). Reads the frame counter, frame number or tick within the frame. -/
  | framerd (g : Guard) (d : SDst) (n : BitVec 6)
  /-- CPT (R200). Issues a byte copy command. -/
  | cpt (g : Guard) (a : Scalar) (b : Scalar)
  /-- CPC (R204). Issues a format-converting copy command. -/
  | cpc (g : Guard) (a : Scalar) (b : Scalar)
  /-- CPX (R204). Issues a copy that expands block-scaled data. -/
  | cpx (g : Guard) (a : Scalar) (b : Scalar)
  /-- CPTR (R206). Issues a transposing copy command. -/
  | cptr (g : Guard) (a : Scalar) (b : Scalar)
  /-- CPM (R207). Issues a multicast copy into the unit scratchpads named by MCAST. -/
  | cpm (g : Guard) (a : Scalar) (b : Scalar)
  /-- CPZ (R230). Issues a compressing or decompressing copy command. -/
  | cpz (g : Guard) (a : Scalar) (b : Scalar)
  /-- CPD (R238). Issues a deduplicating page-write command. -/
  | cpd (g : Guard) (a : Scalar) (b : Scalar)
  /-- BKRUN (R268). Issues a bucket-engine command that expands micro-orders over a bank tile. -/
  | bkrun (g : Guard) (a : Scalar) (b : Scalar)
  /-- BKRST (R269). Clears buckets, lane accumulators, the open group and BFLAGS. -/
  | bkrst (g : Guard)
  /-- BKFIN (R269). Finishes the open bucket group, if any. -/
  | bkfin (g : Guard)
  /-- BKDRAIN (R270). Writes the lane accumulators to memory as FP32. -/
  | bkdrain (g : Guard) (a : Scalar) (b : Scalar)
  /-- BKSHAPE (R269). Sets the lane shape and resets the bucket engine. -/
  | bkshape (g : Guard) (a : Scalar)
  /-- DMMA (R286). Issues a dense product into a zeroed working bank. -/
  | dmma (g : Guard) (a : Scalar) (b : Scalar)
  /-- DMMAC (R286). Issues a dense product accumulated onto the committed bank. -/
  | dmmac (g : Guard) (a : Scalar) (b : Scalar)
  /-- DDRAIN (R287). Writes the committed bank to memory, converted, optionally filling the bypass. -/
  | ddrain (g : Guard) (a : Scalar) (b : Scalar)
  /-- DBYP (R288). Fills the bypass buffer from the committed bank. -/
  | dbyp (g : Guard) (a : Scalar)
  /-- DCLR (R288). Clears the committed bank and DFLAGS. -/
  | dclr (g : Guard)
  /-- SORTW (R252). Issues a sort of a code tile into a bank tile of the shadow half. -/
  | sortw (g : Guard) (a : Scalar) (b : Scalar)
  /-- SWAPW (R251). Moves a stack's bank selector machine to PENDING. -/
  | swapw (g : Guard) (a : Scalar)
  /-- WPIN (R251). Increments or decrements a stack's pin count. -/
  | wpin (g : Guard) (a : Scalar) (b : Scalar)
  /-- MOLOAD (R265). Stops an engine and loads its micro-order store. -/
  | moload (g : Guard) (a : Scalar) (b : Scalar)
  /-- MOBASE (R265). Stops an engine and sets its entry base. -/
  | mobase (g : Guard) (a : Scalar) (b : Scalar)
  /-- MOSTART (R265). Starts an engine accepting macro-commands, recomputing queued depths. -/
  | mostart (g : Guard) (a : Scalar)
  /-- MOSTOP (R265). Stops an engine after the command in expansion. -/
  | mostop (g : Guard) (a : Scalar)
  /-- TXFER (R187). Issues a 64x64 block move between a tile register and memory. -/
  | txfer (g : Guard) (a : Scalar) (b : Scalar)
  /-- GATHER (R256). Issues a fill of a gather-buffer half from memory. -/
  | gather (g : Guard) (a : Scalar) (b : Scalar)
  /-- GWAIT (R257). Holds the execute stream until earlier gathers into a half complete. -/
  | gwait (g : Guard) (a : Scalar)
  /-- MSEND (R359). Issues an exact-class message send. -/
  | msend (g : Guard) (a : Scalar) (b : Scalar)
  /-- KSEND (R359). Issues a kerf-class message send. -/
  | ksend (g : Guard) (a : Scalar) (b : Scalar)
  /-- AMTSET (R367). Arms an arrival matching table entry from a template. -/
  | amtset (g : Guard) (a : Scalar) (b : Scalar)
  /-- AMTCLR (R367). Returns an arrival matching table entry to IDLE. -/
  | amtclr (g : Guard) (a : Scalar)
  /-- REP (R55). Issues the next instruction CNT + 1 times, stepping chosen fields. -/
  | rep (cnt : BitVec 6) (step : BitVec 3)
  /-- INTERVAL_PULSE (R3). Every 600 arithmetic clocks opens an interval, advances INTCNT and, outside slips, the frame counter. -/
  | intervalPulse (sensors : List Sensor) (soft : List SoftError) (broken : List Nat)
  /-- SLIP_REPEAT (R307). Each further 600 × FRAMELEN clocks of a hold writes another slip event and record. -/
  | slipRepeat (p : Nat)
  /-- FRAME_COMPLETE (R307). A frame becomes complete, ending any hold so the counter advances. -/
  | frameComplete (p : Nat)
  /-- FRAME_DONE (R305). A frame-done message from another group device arrives and is relayed. -/
  | frameDone (port : Nat) (frame : Nat) (rank : Nat)
  /-- NODE_RELEASE (R306). A timetable node is released, or skipped by its predicate, at its base tick or after its last dependence retires. -/
  | nodeRelease (p : Nat) (n : Nat)
  /-- JPUSH_DUE (R309). A delayed JPUSH reaches its tick and its jig is released. -/
  | jpushDue (p : Nat)
  /-- SELECTION (R316). The scheduler fills a free staged context with a woken parked task or a claimed iteration. -/
  | selection (core : Nat)
  /-- LOADING_COMPLETE (R22). A LOADING task's window, indices and state are loaded and it becomes STAGED. -/
  | loadingComplete (core : Nat)
  /-- CONTEXT_SWITCH (R22). A STAGED task becomes RUNNING 4 clocks after the running context is free. -/
  | contextSwitch (core : Nat)
  /-- RETIREMENT (R23). A task's retirement completes once its writes, engine commands, store queue and commit buffer are done. -/
  | retirement (core : Nat)
  /-- PARK (R26). A waiting task's image is written to a park slot and the park point is marked. -/
  | park (core : Nat)
  /-- EVALUATION_START (R341). The home cluster reads the evaluator record, waits for the pool and releases the evaluator jig. -/
  | evaluationStart (g : Nat)
  /-- SUBMIT (R415). A host write submits a launch record or is rejected. -/
  | submit (fn : Nat) (v : W64)
  /-- LAUNCH_START (R21). The next launch of a partition reads and checks its structures, or is refused. -/
  | launchStart (p : Nat)
  /-- LAUNCH_ACTIVATE (R118). After zeroing and any launch exchange the launch becomes active, starting control cores and fixing F0. -/
  | launchActivate (p : Nat)
  /-- LAUNCH_EXCHANGE (R36). A neighbour's launch-exchange message is received and compared. -/
  | launchExchange (port : Nat) (rank : Nat) (pgid : Nat) (crc : BitVec 32)
  /-- PGTIMEOUT (R36). 100,000 ticks pass without every exchange and the launch is refused. -/
  | pgtimeout (p : Nat)
  /-- REFUSAL_NOTICE (R36). A refusal notice arrives, refusing and relaying for a matching launch. -/
  | refusalNotice (port : Nat) (pgid : Nat)
  /-- LAUNCH_END (R308). The launch ends and its completion status is written. -/
  | launchEnd (p : Nat)
  /-- COPY_EXECUTE (R210). A copy engine makes an active command progress beat by beat. -/
  | copyExecute (g : Nat) (e : Nat) (cmd : Nat) (n : Nat) (cached : Bool) (refused : Bool)
  /-- COPY_COMPLETE (R208). A copy command completes: writes, result block, barrier decrement, record. -/
  | copyComplete (g : Nat) (e : Nat) (cmd : Nat)
  /-- PAGE_REQUEST_GROUP (R227). A page-request group closes at 16 requests or after 512 uncore clocks and is sent. -/
  | pageRequestGroup (p : Nat)
  /-- PAGE_RESPONSE (R229). The host's response to a page-request group resumes or fails the waiting commands. -/
  | pageResponse (p : Nat) (group : Nat) (code : PageCode)
  /-- CEINV (R225). A host write invalidates cached translations of a range. -/
  | ceinv (p : Nat) (w : W64)
  /-- FRADD (R236). A host write pushes one frame onto the free-frame ring. -/
  | fradd (p : Nat) (w : W64)
  /-- SORT_COMPLETE (R254). The sorting engine finishes a bank tile, decrements its barrier and posts its record. -/
  | sortComplete (g : Nat)
  /-- GATHER_COMPLETE (R256). A gather command's last line is written and its record posted. -/
  | gatherComplete (core : Nat) (half : Nat)
  /-- TXFER_COMPLETE (R188). A tile move completes and frees its tile. -/
  | txferComplete (core : Nat)
  /-- SHARED_READ_START (R255). A shared read starts once every partner command has been accepted. -/
  | sharedReadStart (core : Nat) (kind : ShareKind)
  /-- BUCKET_EXPANSION (R264). The bucket engine expands the next accepted command's micro-orders. -/
  | bucketExpansion (core : Nat)
  /-- BUCKET_RETIRE (R271). A bucket command retires once its work and final multiplications end. -/
  | bucketRetire (core : Nat) (n : Nat)
  /-- DENSE_COMMIT (R280). A dense product reaches END and its working bank becomes the committed bank. -/
  | denseCommit (core : Nat)
  /-- PREDICTION_RESOLVE (R328). A predicted guard lands; the commit buffer is released or discarded. -/
  | predictionResolve (core : Nat)
  /-- QUEUE_REFILL (R313). A spilled entry is moved from the ring to the hardware part. -/
  | queueRefill (g : Nat) (q : Nat)
  /-- MESSAGE_HEADER (R368). A message header arrives at a port and is matched, refused or dropped. -/
  | messageHeader (port : Nat) (kerf : Bool) (tag : Nat) (len : Nat) (pgid : Nat) (rank : Nat) (seq : Nat) (dl : Nat) (data : List Byte)
  /-- ACKNOWLEDGEMENT (R362). The receiver's acknowledgement reaches the sender and the MSEND completes. -/
  | acknowledgement (g : Nat) (e : Nat) (cmd : Nat)
  /-- NOMATCH (R362). A NOMATCH or REFUSED answer ends an exact-class attempt. -/
  | nomatch (g : Nat) (e : Nat) (cmd : Nat)
  /-- ATTEMPT_TIMEOUT (R362). 256 ticks pass without an answer and the attempt ends. -/
  | attemptTimeout (g : Nat) (e : Nat) (cmd : Nat)
  /-- NEW_ATTEMPT (R362). 64 ticks after a failed attempt the message is resent, or MSGFAIL after 16. -/
  | newAttempt (g : Nat) (e : Nat) (cmd : Nat)
  /-- KERF_BLOCK (R364). A kerf block arrives and is written, or is discarded as late. -/
  | kerfBlock (port : Nat) (n : Nat) (valid : Bool) (data : List Byte)
  /-- END_MARKER (R365). A kerf end marker completes the message: zeros, status area, jig release. -/
  | endMarker (port : Nat)
  /-- KERF_DEADLINE (R365). A kerf message reaches its deadline and completes. -/
  | kerfDeadline (port : Nat)
  /-- ETICK (R368). An armed kerf entry reaches ETICK and completes with every block missing. -/
  | etick (port : Nat) (entry : Nat)
  /-- DISCARD_NOTICE (R363). A discard notice arrives, discarding and relaying for the group's launch. -/
  | discardNotice (port : Nat) (pgid : Nat)
  /-- REDIRECT_NOTICE (R404). A redirect notice arrives and held messages are resent on the named port. -/
  | redirectNotice (from_ : Nat) (port2 : Nat)
  /-- MOVED (R405). An exact message for a migrated launch is answered MOVED and held by its sender. -/
  | moved (g : Nat) (e : Nat) (cmd : Nat)
  /-- HOST_ACCESS (R353). A host or peer read or write through a BAR is performed at its home. -/
  | hostAccess (fn : Nat) (bar : Nat) (write : Bool) (off : Nat) (n : Nat) (data : List Byte)
  /-- ATOMICOP (R353). A host AtomicOp is performed as the corresponding relaxed atomic. -/
  | atomicop (fn : Nat) (kind : Nat) (n : Nat) (off : Nat) (opd : W64) (swap : W64) (owner : W64)
  /-- ATS_INVALIDATION (R354). An ATS invalidation is answered once every access using the translation is performed. -/
  | atsInvalidation (fn : Nat) (page : Nat) (n : Nat)
  /-- FUNCTION_LEVEL_RESET (R355). FLR of a virtual function withdraws or discards its launches and resets its registers. -/
  | functionLevelReset (fn : Nat)
  /-- D3HOT (R355). A function enters or leaves D3hot, holding or releasing its MSI-X messages. -/
  | d3hot (fn : Nat) (enter : Bool)
  /-- MODULE_RESET (R409). Conventional Reset or RST resets the module, increments RESETCNT and enters ROMBOOT. -/
  | moduleReset
  /-- RST (R409). A write of MSTATE.RST resets the module. -/
  | rst (w : W64)
  /-- SVC (R410). A write of MSTATE.SVC in REDUCED enters SERVICE and retrains peer ports. -/
  | svc (w : W64)
  /-- ROMBOOT (R423). The boot ROM verifies the firmware copies and enters TRAIN or FWFAIL. -/
  | romboot
  /-- TRAIN (R409). Scrubbing, LP training and port training complete and the module enters REDUCED. -/
  | train (marker : W32)
  /-- PORT_TRAINING (R356). A peer port finishes training in Yarger direct or standard mode. -/
  | portTraining (n : Nat) (direct : Bool) (width : Nat)
  /-- RETRAIN (R357). A write of PPCTLn.RETRAIN retrains a peer port. -/
  | retrain (n : Nat) (w : W64)
  /-- PREEMPT (R394). A PCTL.PREEMPT write moves an active launch to STOPPING. -/
  | preempt (p : Nat) (w : W64)
  /-- STOP_POINT (R395). Every task reaches its stop point and saving or sending begins. -/
  | stopPoint (p : Nat)
  /-- STOP_TIMEOUT (R394). PTIMEOUT elapses in STOPPING; the launch returns to ACTIVE with TOUT set. -/
  | stopTimeout (p : Nat)
  /-- SAVE_COMPLETE (R397). The save to the suspension area completes and the launch is held. -/
  | saveComplete (p : Nat)
  /-- RESUME (R400). A PCTL.RESUME write checks the suspension area and starts the restore. -/
  | resume (p : Nat) (w : W64)
  /-- RESTORE_COMPLETE (R400). The restore completes and the launch is ACTIVE again. -/
  | restoreComplete (p : Nat)
  /-- DISCARD (R394). A PCTL.DISCARD write discards the active or held launch. -/
  | discard (p : Nat) (w : W64)
  /-- DISCARD_COMPLETE (R387). A discard finishes and the completion status DISCARDED is written. -/
  | discardComplete (p : Nat)
  /-- BRKGO (R381). A host write continues a task stopped at a break. -/
  | brkgo (p : Nat) (task : W64)
  /-- SVCDONE (R382). A host write completes a service request and its SYSCALL. -/
  | svcdone (p : Nat) (slot : Nat)
  /-- MIGCTL_GO (R403). A write of MIGCTL.GO starts a migration or sets FAILED. -/
  | migctlGo (p : Nat) (w : W64) (peerOk : Bool)
  /-- HAND_OVER (R404). The target has every block and resumes the launch. -/
  | handOver (p : Nat) (data : List Byte) (last : Bool)
  /-- PAGE_PULL (R405). An access at the target to an unowned page pulls it from the source. -/
  | pagePull (p : Nat) (m : Nat) (n : Nat) (data : List Byte) (cells : List Nat)
  /-- PAGE_PUSH (R404). The source pushes a remaining page to the target. -/
  | pagePush (p : Nat) (m : Nat) (n : Nat) (data : List Byte) (cells : List Nat)
  /-- MIGRATION_DONE (R404). Every page has moved and both sides report DONE. -/
  | migrationDone (p : Nat)
  /-- MIGRATION_LINK_FAILURE (R407). A link failure fails a migration before or after hand-over. -/
  | migrationLinkFailure (p : Nat)
  /-- IMGCTL_GO (R426). A write of IMGCTL.GO starts a signed image load. -/
  | imgctlGo (fn : Nat) (w : W64)
  /-- IMAGE_LOAD_END (R427). An image load ends VERIFIED or FAILED and vector 7 is raised. -/
  | imageLoadEnd (fn : Nat) (data : List Byte) (ok : Bool)
  /-- ATTCTL_GO (R428). A write of ATTCTL.GO starts an attestation report. -/
  | attctlGo (w : W64)
  /-- ATTESTATION_REPORT (R428). The signed attestation report is ready and vector 10 is raised. -/
  | attestationReport
  /-- HWFAULT (R390). A shared-structure fault discards every launch and holds later ones. -/
  | hwfault (site : Option Nat)
  /-- LINKFATAL (R389). A fatal peer-port error discards the owning partition's launch. -/
  | linkfatal (port : Nat)
  /-- FT_WRITE (R77). A host write of a format-table entry takes effect only if consistent and no launch is active. -/
  | ftWrite (p : Nat) (n : Nat) (w : W32)
  /-- TRANS_WRITE (R374). A write of TRANSn sets the region and stamps its pages when EN becomes 1. -/
  | transWrite (p : Nat) (n : Nat) (w : W64)
  /-- REGISTER_WRITE (R13). A host write to a management register without a row of its own, per its access codes. -/
  | registerWrite (fn : Nat) (off : Nat) (w : W64)
  /-- ACCESS_PERFORMED (R140). A queued load, store, atomic or cell access is dispatched from its load or store queue and performed at its home. -/
  | accessPerformed (ctl : Bool) (n : Nat) (inStore : Bool) (entry : Nat) (elem : Nat)
  /-- DENSE_RETIRE (R287). A DDRAIN, DBYP or DCLR finishes its effect, with a DDRAIN's writes performed, and retires. -/
  | denseRetire (core : Nat) (n : Nat)
  /-- LEVEL_4_PHASE_MESSAGE (R32). An exact-class phase arrival from another device of the process group reaches this device for a level-4 domain. -/
  | level4PhaseMessage (port : Nat) (count : Nat) (rank : Nat)
  /-- MIGRATION_ABORT (R407). The abort that the source sends on PORT after a stop timeout reaches the target, whose MIGCTL reports FAILED. -/
  | migrationAbort (p : Nat)
  /-- INVALIDATION_COMPLETE (R225). An invalidation started by a CEINV write completes and BUSY returns to 0. -/
  | invalidationComplete (p : Nat)
  /-- PAGE_REQUEST_INTERFACE_ENABLE (R229). Host software clears and re-enables a function's page request interface after a Response Failure, so page requests may be sent again. -/
  | pageRequestInterfaceEnable (fn : Nat) (alloc : Nat)
  /-- AUXILIARY_POWER (R409). Auxiliary power is applied to, or removed from, the module, governing RESETCNT and the retention of the black-box record. -/
  | auxiliaryPower (on : Bool)
deriving DecidableEq, Repr

end Sys2Proof
end

