-- ==== Sys2Proof/Roles.lean ====
section
/-! DEFINITION. The tables that well-formedness and legality read: for each instruction word its operands with their roles, its literals, its guard and the streams that may issue it (spec/02_instruction_words.md R46-R49, R58). -/

namespace Sys2Proof

/-- How an instruction uses one operand field. -/
inductive Role where
  | src (x : Scalar)
  | dst (x : SDst)
  | rw (x : SDst)
  | psrc (x : Pred)
  | pdst (x : Pred)
  | vsrc (x : VReg)
  | vdst (x : VReg)
  | vrw (x : VReg)
  | msrc (x : MReg)
  | mdst (x : MReg)
  | tsrc (x : Tile)
  | tdst (x : Tile)
  | lsrc (x : Latch)
  | ldst (x : Latch)
deriving DecidableEq, Repr

/-- The operand fields of a word in field order, from bit 20 downwards, each with its role (02 R48); none for an event. -/
def Instr.roles : Instr → List Role
  | .add _ d a b => [.dst d, .src a, .src b]
  | .sub _ d a b => [.dst d, .src a, .src b]
  | .and _ d a b => [.dst d, .src a, .src b]
  | .or _ d a b => [.dst d, .src a, .src b]
  | .xor _ d a b => [.dst d, .src a, .src b]
  | .shl _ d a b => [.dst d, .src a, .src b]
  | .shr _ d a b => [.dst d, .src a, .src b]
  | .sar _ d a b => [.dst d, .src a, .src b]
  | .mul _ d a b => [.dst d, .src a, .src b]
  | .mulhs _ d a b => [.dst d, .src a, .src b]
  | .mulhu _ d a b => [.dst d, .src a, .src b]
  | .min _ d a b => [.dst d, .src a, .src b]
  | .max _ d a b => [.dst d, .src a, .src b]
  | .minu _ d a b => [.dst d, .src a, .src b]
  | .maxu _ d a b => [.dst d, .src a, .src b]
  | .rol _ d a b => [.dst d, .src a, .src b]
  | .addi _ d a _ => [.dst d, .src a]
  | .andi _ d a _ => [.dst d, .src a]
  | .ori _ d a _ => [.dst d, .src a]
  | .xori _ d a _ => [.dst d, .src a]
  | .shli _ d a _ => [.dst d, .src a]
  | .shri _ d a _ => [.dst d, .src a]
  | .sari _ d a _ => [.dst d, .src a]
  | .clz _ d a => [.dst d, .src a]
  | .ctz _ d a => [.dst d, .src a]
  | .popc _ d a => [.dst d, .src a]
  | .bswap _ d a => [.dst d, .src a]
  | .sextb _ d a => [.dst d, .src a]
  | .sexth _ d a => [.dst d, .src a]
  | .sextw _ d a => [.dst d, .src a]
  | .zextw _ d a => [.dst d, .src a]
  | .divs _ d a b => [.dst d, .src a, .src b]
  | .divu _ d a b => [.dst d, .src a, .src b]
  | .rems _ d a b => [.dst d, .src a, .src b]
  | .remu _ d a b => [.dst d, .src a, .src b]
  | .cmpEq _ pd a b => [.pdst pd, .src a, .src b]
  | .cmpNe _ pd a b => [.pdst pd, .src a, .src b]
  | .cmpLt _ pd a b => [.pdst pd, .src a, .src b]
  | .cmpGe _ pd a b => [.pdst pd, .src a, .src b]
  | .cmpLtu _ pd a b => [.pdst pd, .src a, .src b]
  | .cmpGeu _ pd a b => [.pdst pd, .src a, .src b]
  | .cmpLe _ pd a b => [.pdst pd, .src a, .src b]
  | .cmpGt _ pd a b => [.pdst pd, .src a, .src b]
  | .cmpLeu _ pd a b => [.pdst pd, .src a, .src b]
  | .cmpGtu _ pd a b => [.pdst pd, .src a, .src b]
  | .pand _ pd pa pb => [.pdst pd, .psrc pa, .psrc pb]
  | .por _ pd pa pb => [.pdst pd, .psrc pa, .psrc pb]
  | .pxor _ pd pa pb => [.pdst pd, .psrc pa, .psrc pb]
  | .pandn _ pd pa pb => [.pdst pd, .psrc pa, .psrc pb]
  | .porn _ pd pa pb => [.pdst pd, .psrc pa, .psrc pb]
  | .pnot _ pd pa => [.pdst pd, .psrc pa]
  | .pset _ pd => [.pdst pd]
  | .pclr _ pd => [.pdst pd]
  | .branch _ _ => []
  | .call _ _ => []
  | .br _ a => [.src a]
  | .callr _ a => [.src a]
  | .ret _ => []
  | .loop _ a _ => [.rw a]
  | .cqpush _ a => [.src a]
  | .cqpop _ d => [.dst d]
  | .pqpush _ pa => [.psrc pa]
  | .pqpop _ pd => [.pdst pd]
  | .nop _ => []
  | .tend _ => []
  | .brk _ => []
  | .adr _ a _ => [.dst a]
  | .ldb _ d a b => [.dst d, .src a, .src b]
  | .ldh _ d a b => [.dst d, .src a, .src b]
  | .ldw _ d a b => [.dst d, .src a, .src b]
  | .ldd _ d a b => [.dst d, .src a, .src b]
  | .stb _ d a b => [.src d, .src a, .src b]
  | .sth _ d a b => [.src d, .src a, .src b]
  | .stw _ d a b => [.src d, .src a, .src b]
  | .std _ d a b => [.src d, .src a, .src b]
  | .vld _ vd a b => [.vdst vd, .src a, .src b]
  | .vlds _ vd a b => [.vdst vd, .src a, .src b]
  | .vldx _ vd a b => [.vdst vd, .src a, .src b]
  | .vldff _ vd a b => [.vdst vd, .src a, .src b]
  | .vst _ vd a b => [.vsrc vd, .src a, .src b]
  | .vsts _ vd a b => [.vsrc vd, .src a, .src b]
  | .vstx _ vd a b => [.vsrc vd, .src a, .src b]
  | .aadd _ _ _ _ d a => [.rw d, .src a]
  | .aand _ _ _ _ d a => [.rw d, .src a]
  | .aor _ _ _ _ d a => [.rw d, .src a]
  | .axor _ _ _ _ d a => [.rw d, .src a]
  | .amin _ _ _ _ d a => [.rw d, .src a]
  | .amax _ _ _ _ d a => [.rw d, .src a]
  | .aswp _ _ _ _ d a => [.rw d, .src a]
  | .acas _ _ _ _ d a => [.rw d, .src a]
  | .fence _ _ _ => []
  | .dovetail _ => []
  | .publish _ _ _ a => [.src a]
  | .cmk _ a b => [.src a, .src b]
  | .cld _ d a b => [.dst d, .src a, .src b]
  | .cfill _ a b => [.src a, .src b]
  | .cfail _ a b => [.src a, .src b]
  | .barinit _ a b => [.src a, .src b]
  | .barx _ a b => [.src a, .src b]
  | .barw _ a => [.src a]
  | .barrd _ d a => [.dst d, .src a]
  | .jpush _ d a b => [.src d, .src a, .src b]
  | .qpush _ a b => [.src a, .src b]
  | .qpop _ d a b => [.dst d, .src a, .src b]
  | .qdepth _ d a => [.dst d, .src a]
  | .darrive _ d a => [.dst d, .src a]
  | .evqpop _ d a => [.dst d, .src a]
  | .evqpush _ a b => [.src a, .src b]
  | .rnginit _ a b => [.src a, .src b]
  | .rngtkt _ d a => [.dst d, .src a]
  | .rngfill _ d a b => [.src d, .src a, .src b]
  | .rngget _ d a b => [.dst d, .src a, .src b]
  | .vadd _ _ vd va vb => [.vdst vd, .vsrc va, .vsrc vb]
  | .vsub _ _ vd va vb => [.vdst vd, .vsrc va, .vsrc vb]
  | .vmul _ _ vd va vb => [.vdst vd, .vsrc va, .vsrc vb]
  | .vmulh _ _ vd va vb => [.vdst vd, .vsrc va, .vsrc vb]
  | .vand _ _ vd va vb => [.vdst vd, .vsrc va, .vsrc vb]
  | .vor _ _ vd va vb => [.vdst vd, .vsrc va, .vsrc vb]
  | .vxor _ _ vd va vb => [.vdst vd, .vsrc va, .vsrc vb]
  | .vshl _ _ vd va vb => [.vdst vd, .vsrc va, .vsrc vb]
  | .vshr _ _ vd va vb => [.vdst vd, .vsrc va, .vsrc vb]
  | .vsar _ _ vd va vb => [.vdst vd, .vsrc va, .vsrc vb]
  | .vmin _ _ vd va vb => [.vdst vd, .vsrc va, .vsrc vb]
  | .vmax _ _ vd va vb => [.vdst vd, .vsrc va, .vsrc vb]
  | .vminu _ _ vd va vb => [.vdst vd, .vsrc va, .vsrc vb]
  | .vmaxu _ _ vd va vb => [.vdst vd, .vsrc va, .vsrc vb]
  | .vadds _ _ vd va vb => [.vdst vd, .vsrc va, .vsrc vb]
  | .vsubs _ _ vd va vb => [.vdst vd, .vsrc va, .vsrc vb]
  | .vfadd _ _ vd va vb => [.vdst vd, .vsrc va, .vsrc vb]
  | .vfsub _ _ vd va vb => [.vdst vd, .vsrc va, .vsrc vb]
  | .vfmul _ _ vd va vb => [.vdst vd, .vsrc va, .vsrc vb]
  | .vfma _ _ vd va vb => [.vrw vd, .vsrc va, .vsrc vb]
  | .vfms _ _ vd va vb => [.vrw vd, .vsrc va, .vsrc vb]
  | .vfnma _ _ vd va vb => [.vrw vd, .vsrc va, .vsrc vb]
  | .vfmin _ _ vd va vb => [.vdst vd, .vsrc va, .vsrc vb]
  | .vfmax _ _ vd va vb => [.vdst vd, .vsrc va, .vsrc vb]
  | .vrcpe _ _ vd va => [.vdst vd, .vsrc va]
  | .vrsqe _ _ vd va => [.vdst vd, .vsrc va]
  | .vexp2e _ _ vd va => [.vdst vd, .vsrc va]
  | .vlog2e _ _ vd va => [.vdst vd, .vsrc va]
  | .vtanhe _ _ vd va => [.vdst vd, .vsrc va]
  | .vfabs _ _ vd va => [.vdst vd, .vsrc va]
  | .vfneg _ _ vd va => [.vdst vd, .vsrc va]
  | .vfclass _ _ vd va => [.vdst vd, .vsrc va]
  | .vcmpeq _ _ md va vb => [.mdst md, .vsrc va, .vsrc vb]
  | .vcmpne _ _ md va vb => [.mdst md, .vsrc va, .vsrc vb]
  | .vcmplt _ _ md va vb => [.mdst md, .vsrc va, .vsrc vb]
  | .vcmpltu _ _ md va vb => [.mdst md, .vsrc va, .vsrc vb]
  | .vfcmpeq _ _ md va vb => [.mdst md, .vsrc va, .vsrc vb]
  | .vfcmplt _ _ md va vb => [.mdst md, .vsrc va, .vsrc vb]
  | .vfcmple _ _ md va vb => [.mdst md, .vsrc va, .vsrc vb]
  | .vfcmpun _ _ md va vb => [.mdst md, .vsrc va, .vsrc vb]
  | .vmv _ _ vd va => [.vdst vd, .vsrc va]
  | .vcvtw _ _ vd va => [.vdst vd, .vsrc va]
  | .vcvtn _ _ vd va => [.vdst vd, .vsrc va]
  | .vcvtfi _ _ vd va => [.vdst vd, .vsrc va]
  | .vcvtif _ _ vd va => [.vdst vd, .vsrc va]
  | .vaddMasked _ _ vd va vb => [.vdst vd, .vsrc va, .vsrc vb]
  | .vsubMasked _ _ vd va vb => [.vdst vd, .vsrc va, .vsrc vb]
  | .vmulMasked _ _ vd va vb => [.vdst vd, .vsrc va, .vsrc vb]
  | .vmulhMasked _ _ vd va vb => [.vdst vd, .vsrc va, .vsrc vb]
  | .vandMasked _ _ vd va vb => [.vdst vd, .vsrc va, .vsrc vb]
  | .vorMasked _ _ vd va vb => [.vdst vd, .vsrc va, .vsrc vb]
  | .vxorMasked _ _ vd va vb => [.vdst vd, .vsrc va, .vsrc vb]
  | .vshlMasked _ _ vd va vb => [.vdst vd, .vsrc va, .vsrc vb]
  | .vshrMasked _ _ vd va vb => [.vdst vd, .vsrc va, .vsrc vb]
  | .vsarMasked _ _ vd va vb => [.vdst vd, .vsrc va, .vsrc vb]
  | .vminMasked _ _ vd va vb => [.vdst vd, .vsrc va, .vsrc vb]
  | .vmaxMasked _ _ vd va vb => [.vdst vd, .vsrc va, .vsrc vb]
  | .vminuMasked _ _ vd va vb => [.vdst vd, .vsrc va, .vsrc vb]
  | .vmaxuMasked _ _ vd va vb => [.vdst vd, .vsrc va, .vsrc vb]
  | .vaddsMasked _ _ vd va vb => [.vdst vd, .vsrc va, .vsrc vb]
  | .vsubsMasked _ _ vd va vb => [.vdst vd, .vsrc va, .vsrc vb]
  | .vfaddMasked _ _ vd va vb => [.vdst vd, .vsrc va, .vsrc vb]
  | .vfsubMasked _ _ vd va vb => [.vdst vd, .vsrc va, .vsrc vb]
  | .vfmulMasked _ _ vd va vb => [.vdst vd, .vsrc va, .vsrc vb]
  | .vfmaMasked _ _ vd va vb => [.vrw vd, .vsrc va, .vsrc vb]
  | .vfmsMasked _ _ vd va vb => [.vrw vd, .vsrc va, .vsrc vb]
  | .vfnmaMasked _ _ vd va vb => [.vrw vd, .vsrc va, .vsrc vb]
  | .vfminMasked _ _ vd va vb => [.vdst vd, .vsrc va, .vsrc vb]
  | .vfmaxMasked _ _ vd va vb => [.vdst vd, .vsrc va, .vsrc vb]
  | .vrcpeMasked _ _ vd va => [.vdst vd, .vsrc va]
  | .vrsqeMasked _ _ vd va => [.vdst vd, .vsrc va]
  | .vexp2eMasked _ _ vd va => [.vdst vd, .vsrc va]
  | .vlog2eMasked _ _ vd va => [.vdst vd, .vsrc va]
  | .vtanheMasked _ _ vd va => [.vdst vd, .vsrc va]
  | .vfabsMasked _ _ vd va => [.vdst vd, .vsrc va]
  | .vfnegMasked _ _ vd va => [.vdst vd, .vsrc va]
  | .vfclassMasked _ _ vd va => [.vdst vd, .vsrc va]
  | .vcmpeqMasked _ _ md va vb => [.mdst md, .vsrc va, .vsrc vb]
  | .vcmpneMasked _ _ md va vb => [.mdst md, .vsrc va, .vsrc vb]
  | .vcmpltMasked _ _ md va vb => [.mdst md, .vsrc va, .vsrc vb]
  | .vcmpltuMasked _ _ md va vb => [.mdst md, .vsrc va, .vsrc vb]
  | .vfcmpeqMasked _ _ md va vb => [.mdst md, .vsrc va, .vsrc vb]
  | .vfcmpltMasked _ _ md va vb => [.mdst md, .vsrc va, .vsrc vb]
  | .vfcmpleMasked _ _ md va vb => [.mdst md, .vsrc va, .vsrc vb]
  | .vfcmpunMasked _ _ md va vb => [.mdst md, .vsrc va, .vsrc vb]
  | .vmvMasked _ _ vd va => [.vdst vd, .vsrc va]
  | .vcvtwMasked _ _ vd va => [.vdst vd, .vsrc va]
  | .vcvtnMasked _ _ vd va => [.vdst vd, .vsrc va]
  | .vcvtfiMasked _ _ vd va => [.vdst vd, .vsrc va]
  | .vcvtifMasked _ _ vd va => [.vdst vd, .vsrc va]
  | .vrotr _ _ vd va s => [.vdst vd, .vsrc va, .src s]
  | .vrotc _ _ vd va s => [.vdst vd, .vsrc va, .src s]
  | .vbcst _ _ vd s => [.vdst vd, .src s]
  | .vextr _ _ vd va s => [.vdst vd, .vsrc va, .src s]
  | .vsetvl _ s => [.src s]
  | .vcompress _ _ vd va s => [.vdst vd, .vsrc va, .dst s]
  | .vexpand _ _ vd va s => [.vdst vd, .vsrc va, .src s]
  | .vredi _ _ vd va s => [.vdst vd, .vsrc va, .dst s]
  | .mand _ _ md ma mb => [.mdst md, .msrc ma, .msrc mb]
  | .mor _ _ md ma mb => [.mdst md, .msrc ma, .msrc mb]
  | .mxor _ _ md ma mb => [.mdst md, .msrc ma, .msrc mb]
  | .mandn _ _ md ma mb => [.mdst md, .msrc ma, .msrc mb]
  | .mnot _ _ md ma => [.mdst md, .msrc ma]
  | .mset _ _ md => [.mdst md]
  | .mclr _ _ md => [.mdst md]
  | .mmov _ _ md ma => [.mdst md, .msrc ma]
  | .twr _ _ t va => [.tdst t, .vsrc va]
  | .trd _ _ vd t => [.vdst vd, .tsrc t]
  | .psadd _ _ ps va => [.ldst ps, .vsrc va]
  | .psrd _ _ vd ps => [.vdst vd, .lsrc ps]
  | .psclr _ _ ps => [.ldst ps]
  | .vredadd _ _ vd va => [.vdst vd, .vsrc va]
  | .vredmax _ _ vd va => [.vdst vd, .vsrc va]
  | .vfredadd _ _ vd va => [.vdst vd, .vsrc va]
  | .krsum _ _ vd va ms => [.vdst vd, .vsrc va, .msrc ms]
  | .krmean _ _ vd va ms => [.vdst vd, .vsrc va, .msrc ms]
  | .kvcnt _ _ vd ms => [.vdst vd, .msrc ms]
  | .kmrd _ _ md va => [.mdst md, .vsrc va]
  | .srrd _ d _ => [.dst d]
  | .srwr _ a _ => [.src a]
  | .syscall _ d a b => [.dst d, .src a, .src b]
  | .tickwt _ a => [.src a]
  | .framerd _ d _ => [.dst d]
  | .cpt _ a b => [.src a, .src b]
  | .cpc _ a b => [.src a, .src b]
  | .cpx _ a b => [.src a, .src b]
  | .cptr _ a b => [.src a, .src b]
  | .cpm _ a b => [.src a, .src b]
  | .cpz _ a b => [.src a, .src b]
  | .cpd _ a b => [.src a, .src b]
  | .bkrun _ a b => [.src a, .src b]
  | .bkrst _ => []
  | .bkfin _ => []
  | .bkdrain _ a b => [.src a, .src b]
  | .bkshape _ a => [.src a]
  | .dmma _ a b => [.src a, .src b]
  | .dmmac _ a b => [.src a, .src b]
  | .ddrain _ a b => [.src a, .src b]
  | .dbyp _ a => [.src a]
  | .dclr _ => []
  | .sortw _ a b => [.src a, .src b]
  | .swapw _ a => [.src a]
  | .wpin _ a b => [.src a, .src b]
  | .moload _ a b => [.src a, .src b]
  | .mobase _ a b => [.src a, .src b]
  | .mostart _ a => [.src a]
  | .mostop _ a => [.src a]
  | .txfer _ a b => [.src a, .src b]
  | .gather _ a b => [.src a, .src b]
  | .gwait _ a => [.src a]
  | .msend _ a b => [.src a, .src b]
  | .ksend _ a b => [.src a, .src b]
  | .amtset _ a b => [.src a, .src b]
  | .amtclr _ a => [.src a]
  | .rep _ _ => []
  | .intervalPulse _ _ _ => []
  | .slipRepeat _ => []
  | .frameComplete _ => []
  | .frameDone _ _ _ => []
  | .nodeRelease _ _ => []
  | .jpushDue _ => []
  | .selection _ => []
  | .loadingComplete _ => []
  | .contextSwitch _ => []
  | .retirement _ => []
  | .park _ => []
  | .evaluationStart _ => []
  | .submit _ _ => []
  | .launchStart _ => []
  | .launchActivate _ => []
  | .launchExchange _ _ _ _ => []
  | .pgtimeout _ => []
  | .refusalNotice _ _ => []
  | .launchEnd _ => []
  | .copyExecute _ _ _ _ _ _ => []
  | .copyComplete _ _ _ => []
  | .pageRequestGroup _ => []
  | .pageResponse _ _ _ => []
  | .ceinv _ _ => []
  | .fradd _ _ => []
  | .sortComplete _ => []
  | .gatherComplete _ _ => []
  | .txferComplete _ => []
  | .sharedReadStart _ _ => []
  | .bucketExpansion _ => []
  | .bucketRetire _ _ => []
  | .denseCommit _ => []
  | .predictionResolve _ => []
  | .queueRefill _ _ => []
  | .messageHeader _ _ _ _ _ _ _ _ _ => []
  | .acknowledgement _ _ _ => []
  | .nomatch _ _ _ => []
  | .attemptTimeout _ _ _ => []
  | .newAttempt _ _ _ => []
  | .kerfBlock _ _ _ _ => []
  | .endMarker _ => []
  | .kerfDeadline _ => []
  | .etick _ _ => []
  | .discardNotice _ _ => []
  | .redirectNotice _ _ => []
  | .moved _ _ _ => []
  | .hostAccess _ _ _ _ _ _ => []
  | .atomicop _ _ _ _ _ _ _ => []
  | .atsInvalidation _ _ _ => []
  | .functionLevelReset _ => []
  | .d3hot _ _ => []
  | .moduleReset => []
  | .rst _ => []
  | .svc _ => []
  | .romboot => []
  | .train _ => []
  | .portTraining _ _ _ => []
  | .retrain _ _ => []
  | .preempt _ _ => []
  | .stopPoint _ => []
  | .stopTimeout _ => []
  | .saveComplete _ => []
  | .resume _ _ => []
  | .restoreComplete _ => []
  | .discard _ _ => []
  | .discardComplete _ => []
  | .brkgo _ _ => []
  | .svcdone _ _ => []
  | .migctlGo _ _ _ => []
  | .handOver _ _ _ => []
  | .pagePull _ _ _ _ _ => []
  | .pagePush _ _ _ _ _ => []
  | .migrationDone _ => []
  | .migrationLinkFailure _ => []
  | .imgctlGo _ _ => []
  | .imageLoadEnd _ _ _ => []
  | .attctlGo _ => []
  | .attestationReport => []
  | .hwfault _ => []
  | .linkfatal _ => []
  | .ftWrite _ _ _ => []
  | .transWrite _ _ _ => []
  | .registerWrite _ _ _ => []
  | .accessPerformed _ _ _ _ _ => []
  | .denseRetire _ _ => []
  | .level4PhaseMessage _ _ _ => []
  | .migrationAbort _ => []
  | .invalidationComplete _ => []
  | .pageRequestInterfaceEnable _ _ => []
  | .auxiliaryPower _ => []

/-- The guard of a word; an event and REP have none (02 R43, R56). -/
def Instr.guard : Instr → Guard
  | .add g _ _ _ => g
  | .sub g _ _ _ => g
  | .and g _ _ _ => g
  | .or g _ _ _ => g
  | .xor g _ _ _ => g
  | .shl g _ _ _ => g
  | .shr g _ _ _ => g
  | .sar g _ _ _ => g
  | .mul g _ _ _ => g
  | .mulhs g _ _ _ => g
  | .mulhu g _ _ _ => g
  | .min g _ _ _ => g
  | .max g _ _ _ => g
  | .minu g _ _ _ => g
  | .maxu g _ _ _ => g
  | .rol g _ _ _ => g
  | .addi g _ _ _ => g
  | .andi g _ _ _ => g
  | .ori g _ _ _ => g
  | .xori g _ _ _ => g
  | .shli g _ _ _ => g
  | .shri g _ _ _ => g
  | .sari g _ _ _ => g
  | .clz g _ _ => g
  | .ctz g _ _ => g
  | .popc g _ _ => g
  | .bswap g _ _ => g
  | .sextb g _ _ => g
  | .sexth g _ _ => g
  | .sextw g _ _ => g
  | .zextw g _ _ => g
  | .divs g _ _ _ => g
  | .divu g _ _ _ => g
  | .rems g _ _ _ => g
  | .remu g _ _ _ => g
  | .cmpEq g _ _ _ => g
  | .cmpNe g _ _ _ => g
  | .cmpLt g _ _ _ => g
  | .cmpGe g _ _ _ => g
  | .cmpLtu g _ _ _ => g
  | .cmpGeu g _ _ _ => g
  | .cmpLe g _ _ _ => g
  | .cmpGt g _ _ _ => g
  | .cmpLeu g _ _ _ => g
  | .cmpGtu g _ _ _ => g
  | .pand g _ _ _ => g
  | .por g _ _ _ => g
  | .pxor g _ _ _ => g
  | .pandn g _ _ _ => g
  | .porn g _ _ _ => g
  | .pnot g _ _ => g
  | .pset g _ => g
  | .pclr g _ => g
  | .branch g _ => g
  | .call g _ => g
  | .br g _ => g
  | .callr g _ => g
  | .ret g => g
  | .loop g _ _ => g
  | .cqpush g _ => g
  | .cqpop g _ => g
  | .pqpush g _ => g
  | .pqpop g _ => g
  | .nop g => g
  | .tend g => g
  | .brk g => g
  | .adr g _ _ => g
  | .ldb g _ _ _ => g
  | .ldh g _ _ _ => g
  | .ldw g _ _ _ => g
  | .ldd g _ _ _ => g
  | .stb g _ _ _ => g
  | .sth g _ _ _ => g
  | .stw g _ _ _ => g
  | .std g _ _ _ => g
  | .vld g _ _ _ => g
  | .vlds g _ _ _ => g
  | .vldx g _ _ _ => g
  | .vldff g _ _ _ => g
  | .vst g _ _ _ => g
  | .vsts g _ _ _ => g
  | .vstx g _ _ _ => g
  | .aadd g _ _ _ _ _ => g
  | .aand g _ _ _ _ _ => g
  | .aor g _ _ _ _ _ => g
  | .axor g _ _ _ _ _ => g
  | .amin g _ _ _ _ _ => g
  | .amax g _ _ _ _ _ => g
  | .aswp g _ _ _ _ _ => g
  | .acas g _ _ _ _ _ => g
  | .fence g _ _ => g
  | .dovetail g => g
  | .publish g _ _ _ => g
  | .cmk g _ _ => g
  | .cld g _ _ _ => g
  | .cfill g _ _ => g
  | .cfail g _ _ => g
  | .barinit g _ _ => g
  | .barx g _ _ => g
  | .barw g _ => g
  | .barrd g _ _ => g
  | .jpush g _ _ _ => g
  | .qpush g _ _ => g
  | .qpop g _ _ _ => g
  | .qdepth g _ _ => g
  | .darrive g _ _ => g
  | .evqpop g _ _ => g
  | .evqpush g _ _ => g
  | .rnginit g _ _ => g
  | .rngtkt g _ _ => g
  | .rngfill g _ _ _ => g
  | .rngget g _ _ _ => g
  | .vadd g _ _ _ _ => g
  | .vsub g _ _ _ _ => g
  | .vmul g _ _ _ _ => g
  | .vmulh g _ _ _ _ => g
  | .vand g _ _ _ _ => g
  | .vor g _ _ _ _ => g
  | .vxor g _ _ _ _ => g
  | .vshl g _ _ _ _ => g
  | .vshr g _ _ _ _ => g
  | .vsar g _ _ _ _ => g
  | .vmin g _ _ _ _ => g
  | .vmax g _ _ _ _ => g
  | .vminu g _ _ _ _ => g
  | .vmaxu g _ _ _ _ => g
  | .vadds g _ _ _ _ => g
  | .vsubs g _ _ _ _ => g
  | .vfadd g _ _ _ _ => g
  | .vfsub g _ _ _ _ => g
  | .vfmul g _ _ _ _ => g
  | .vfma g _ _ _ _ => g
  | .vfms g _ _ _ _ => g
  | .vfnma g _ _ _ _ => g
  | .vfmin g _ _ _ _ => g
  | .vfmax g _ _ _ _ => g
  | .vrcpe g _ _ _ => g
  | .vrsqe g _ _ _ => g
  | .vexp2e g _ _ _ => g
  | .vlog2e g _ _ _ => g
  | .vtanhe g _ _ _ => g
  | .vfabs g _ _ _ => g
  | .vfneg g _ _ _ => g
  | .vfclass g _ _ _ => g
  | .vcmpeq g _ _ _ _ => g
  | .vcmpne g _ _ _ _ => g
  | .vcmplt g _ _ _ _ => g
  | .vcmpltu g _ _ _ _ => g
  | .vfcmpeq g _ _ _ _ => g
  | .vfcmplt g _ _ _ _ => g
  | .vfcmple g _ _ _ _ => g
  | .vfcmpun g _ _ _ _ => g
  | .vmv g _ _ _ => g
  | .vcvtw g _ _ _ => g
  | .vcvtn g _ _ _ => g
  | .vcvtfi g _ _ _ => g
  | .vcvtif g _ _ _ => g
  | .vaddMasked g _ _ _ _ => g
  | .vsubMasked g _ _ _ _ => g
  | .vmulMasked g _ _ _ _ => g
  | .vmulhMasked g _ _ _ _ => g
  | .vandMasked g _ _ _ _ => g
  | .vorMasked g _ _ _ _ => g
  | .vxorMasked g _ _ _ _ => g
  | .vshlMasked g _ _ _ _ => g
  | .vshrMasked g _ _ _ _ => g
  | .vsarMasked g _ _ _ _ => g
  | .vminMasked g _ _ _ _ => g
  | .vmaxMasked g _ _ _ _ => g
  | .vminuMasked g _ _ _ _ => g
  | .vmaxuMasked g _ _ _ _ => g
  | .vaddsMasked g _ _ _ _ => g
  | .vsubsMasked g _ _ _ _ => g
  | .vfaddMasked g _ _ _ _ => g
  | .vfsubMasked g _ _ _ _ => g
  | .vfmulMasked g _ _ _ _ => g
  | .vfmaMasked g _ _ _ _ => g
  | .vfmsMasked g _ _ _ _ => g
  | .vfnmaMasked g _ _ _ _ => g
  | .vfminMasked g _ _ _ _ => g
  | .vfmaxMasked g _ _ _ _ => g
  | .vrcpeMasked g _ _ _ => g
  | .vrsqeMasked g _ _ _ => g
  | .vexp2eMasked g _ _ _ => g
  | .vlog2eMasked g _ _ _ => g
  | .vtanheMasked g _ _ _ => g
  | .vfabsMasked g _ _ _ => g
  | .vfnegMasked g _ _ _ => g
  | .vfclassMasked g _ _ _ => g
  | .vcmpeqMasked g _ _ _ _ => g
  | .vcmpneMasked g _ _ _ _ => g
  | .vcmpltMasked g _ _ _ _ => g
  | .vcmpltuMasked g _ _ _ _ => g
  | .vfcmpeqMasked g _ _ _ _ => g
  | .vfcmpltMasked g _ _ _ _ => g
  | .vfcmpleMasked g _ _ _ _ => g
  | .vfcmpunMasked g _ _ _ _ => g
  | .vmvMasked g _ _ _ => g
  | .vcvtwMasked g _ _ _ => g
  | .vcvtnMasked g _ _ _ => g
  | .vcvtfiMasked g _ _ _ => g
  | .vcvtifMasked g _ _ _ => g
  | .vrotr g _ _ _ _ => g
  | .vrotc g _ _ _ _ => g
  | .vbcst g _ _ _ => g
  | .vextr g _ _ _ _ => g
  | .vsetvl g _ => g
  | .vcompress g _ _ _ _ => g
  | .vexpand g _ _ _ _ => g
  | .vredi g _ _ _ _ => g
  | .mand g _ _ _ _ => g
  | .mor g _ _ _ _ => g
  | .mxor g _ _ _ _ => g
  | .mandn g _ _ _ _ => g
  | .mnot g _ _ _ => g
  | .mset g _ _ => g
  | .mclr g _ _ => g
  | .mmov g _ _ _ => g
  | .twr g _ _ _ => g
  | .trd g _ _ _ => g
  | .psadd g _ _ _ => g
  | .psrd g _ _ _ => g
  | .psclr g _ _ => g
  | .vredadd g _ _ _ => g
  | .vredmax g _ _ _ => g
  | .vfredadd g _ _ _ => g
  | .krsum g _ _ _ _ => g
  | .krmean g _ _ _ _ => g
  | .kvcnt g _ _ _ => g
  | .kmrd g _ _ _ => g
  | .srrd g _ _ => g
  | .srwr g _ _ => g
  | .syscall g _ _ _ => g
  | .tickwt g _ => g
  | .framerd g _ _ => g
  | .cpt g _ _ => g
  | .cpc g _ _ => g
  | .cpx g _ _ => g
  | .cptr g _ _ => g
  | .cpm g _ _ => g
  | .cpz g _ _ => g
  | .cpd g _ _ => g
  | .bkrun g _ _ => g
  | .bkrst g => g
  | .bkfin g => g
  | .bkdrain g _ _ => g
  | .bkshape g _ => g
  | .dmma g _ _ => g
  | .dmmac g _ _ => g
  | .ddrain g _ _ => g
  | .dbyp g _ => g
  | .dclr g => g
  | .sortw g _ _ => g
  | .swapw g _ => g
  | .wpin g _ _ => g
  | .moload g _ _ => g
  | .mobase g _ _ => g
  | .mostart g _ => g
  | .mostop g _ => g
  | .txfer g _ _ => g
  | .gather g _ _ => g
  | .gwait g _ => g
  | .msend g _ _ => g
  | .ksend g _ _ => g
  | .amtset g _ _ => g
  | .amtclr g _ => g
  | .rep _ _ => .always
  | .intervalPulse _ _ _ => .always
  | .slipRepeat _ => .always
  | .frameComplete _ => .always
  | .frameDone _ _ _ => .always
  | .nodeRelease _ _ => .always
  | .jpushDue _ => .always
  | .selection _ => .always
  | .loadingComplete _ => .always
  | .contextSwitch _ => .always
  | .retirement _ => .always
  | .park _ => .always
  | .evaluationStart _ => .always
  | .submit _ _ => .always
  | .launchStart _ => .always
  | .launchActivate _ => .always
  | .launchExchange _ _ _ _ => .always
  | .pgtimeout _ => .always
  | .refusalNotice _ _ => .always
  | .launchEnd _ => .always
  | .copyExecute _ _ _ _ _ _ => .always
  | .copyComplete _ _ _ => .always
  | .pageRequestGroup _ => .always
  | .pageResponse _ _ _ => .always
  | .ceinv _ _ => .always
  | .fradd _ _ => .always
  | .sortComplete _ => .always
  | .gatherComplete _ _ => .always
  | .txferComplete _ => .always
  | .sharedReadStart _ _ => .always
  | .bucketExpansion _ => .always
  | .bucketRetire _ _ => .always
  | .denseCommit _ => .always
  | .predictionResolve _ => .always
  | .queueRefill _ _ => .always
  | .messageHeader _ _ _ _ _ _ _ _ _ => .always
  | .acknowledgement _ _ _ => .always
  | .nomatch _ _ _ => .always
  | .attemptTimeout _ _ _ => .always
  | .newAttempt _ _ _ => .always
  | .kerfBlock _ _ _ _ => .always
  | .endMarker _ => .always
  | .kerfDeadline _ => .always
  | .etick _ _ => .always
  | .discardNotice _ _ => .always
  | .redirectNotice _ _ => .always
  | .moved _ _ _ => .always
  | .hostAccess _ _ _ _ _ _ => .always
  | .atomicop _ _ _ _ _ _ _ => .always
  | .atsInvalidation _ _ _ => .always
  | .functionLevelReset _ => .always
  | .d3hot _ _ => .always
  | .moduleReset => .always
  | .rst _ => .always
  | .svc _ => .always
  | .romboot => .always
  | .train _ => .always
  | .portTraining _ _ _ => .always
  | .retrain _ _ => .always
  | .preempt _ _ => .always
  | .stopPoint _ => .always
  | .stopTimeout _ => .always
  | .saveComplete _ => .always
  | .resume _ _ => .always
  | .restoreComplete _ => .always
  | .discard _ _ => .always
  | .discardComplete _ => .always
  | .brkgo _ _ => .always
  | .svcdone _ _ => .always
  | .migctlGo _ _ _ => .always
  | .handOver _ _ _ => .always
  | .pagePull _ _ _ _ _ => .always
  | .pagePush _ _ _ _ _ => .always
  | .migrationDone _ => .always
  | .migrationLinkFailure _ => .always
  | .imgctlGo _ _ => .always
  | .imageLoadEnd _ _ _ => .always
  | .attctlGo _ => .always
  | .attestationReport => .always
  | .hwfault _ => .always
  | .linkfatal _ => .always
  | .ftWrite _ _ _ => .always
  | .transWrite _ _ _ => .always
  | .registerWrite _ _ _ => .always
  | .accessPerformed _ _ _ _ _ => .always
  | .denseRetire _ _ => .always
  | .level4PhaseMessage _ _ _ => .always
  | .migrationAbort _ => .always
  | .invalidationComplete _ => .always
  | .pageRequestInterfaceEnable _ _ => .always
  | .auxiliaryPower _ => .always

/-- Is it an instruction word (and not an event)? -/
def Instr.isWord : Instr → Bool
  | .add _ _ _ _ => true
  | .sub _ _ _ _ => true
  | .and _ _ _ _ => true
  | .or _ _ _ _ => true
  | .xor _ _ _ _ => true
  | .shl _ _ _ _ => true
  | .shr _ _ _ _ => true
  | .sar _ _ _ _ => true
  | .mul _ _ _ _ => true
  | .mulhs _ _ _ _ => true
  | .mulhu _ _ _ _ => true
  | .min _ _ _ _ => true
  | .max _ _ _ _ => true
  | .minu _ _ _ _ => true
  | .maxu _ _ _ _ => true
  | .rol _ _ _ _ => true
  | .addi _ _ _ _ => true
  | .andi _ _ _ _ => true
  | .ori _ _ _ _ => true
  | .xori _ _ _ _ => true
  | .shli _ _ _ _ => true
  | .shri _ _ _ _ => true
  | .sari _ _ _ _ => true
  | .clz _ _ _ => true
  | .ctz _ _ _ => true
  | .popc _ _ _ => true
  | .bswap _ _ _ => true
  | .sextb _ _ _ => true
  | .sexth _ _ _ => true
  | .sextw _ _ _ => true
  | .zextw _ _ _ => true
  | .divs _ _ _ _ => true
  | .divu _ _ _ _ => true
  | .rems _ _ _ _ => true
  | .remu _ _ _ _ => true
  | .cmpEq _ _ _ _ => true
  | .cmpNe _ _ _ _ => true
  | .cmpLt _ _ _ _ => true
  | .cmpGe _ _ _ _ => true
  | .cmpLtu _ _ _ _ => true
  | .cmpGeu _ _ _ _ => true
  | .cmpLe _ _ _ _ => true
  | .cmpGt _ _ _ _ => true
  | .cmpLeu _ _ _ _ => true
  | .cmpGtu _ _ _ _ => true
  | .pand _ _ _ _ => true
  | .por _ _ _ _ => true
  | .pxor _ _ _ _ => true
  | .pandn _ _ _ _ => true
  | .porn _ _ _ _ => true
  | .pnot _ _ _ => true
  | .pset _ _ => true
  | .pclr _ _ => true
  | .branch _ _ => true
  | .call _ _ => true
  | .br _ _ => true
  | .callr _ _ => true
  | .ret _ => true
  | .loop _ _ _ => true
  | .cqpush _ _ => true
  | .cqpop _ _ => true
  | .pqpush _ _ => true
  | .pqpop _ _ => true
  | .nop _ => true
  | .tend _ => true
  | .brk _ => true
  | .adr _ _ _ => true
  | .ldb _ _ _ _ => true
  | .ldh _ _ _ _ => true
  | .ldw _ _ _ _ => true
  | .ldd _ _ _ _ => true
  | .stb _ _ _ _ => true
  | .sth _ _ _ _ => true
  | .stw _ _ _ _ => true
  | .std _ _ _ _ => true
  | .vld _ _ _ _ => true
  | .vlds _ _ _ _ => true
  | .vldx _ _ _ _ => true
  | .vldff _ _ _ _ => true
  | .vst _ _ _ _ => true
  | .vsts _ _ _ _ => true
  | .vstx _ _ _ _ => true
  | .aadd _ _ _ _ _ _ => true
  | .aand _ _ _ _ _ _ => true
  | .aor _ _ _ _ _ _ => true
  | .axor _ _ _ _ _ _ => true
  | .amin _ _ _ _ _ _ => true
  | .amax _ _ _ _ _ _ => true
  | .aswp _ _ _ _ _ _ => true
  | .acas _ _ _ _ _ _ => true
  | .fence _ _ _ => true
  | .dovetail _ => true
  | .publish _ _ _ _ => true
  | .cmk _ _ _ => true
  | .cld _ _ _ _ => true
  | .cfill _ _ _ => true
  | .cfail _ _ _ => true
  | .barinit _ _ _ => true
  | .barx _ _ _ => true
  | .barw _ _ => true
  | .barrd _ _ _ => true
  | .jpush _ _ _ _ => true
  | .qpush _ _ _ => true
  | .qpop _ _ _ _ => true
  | .qdepth _ _ _ => true
  | .darrive _ _ _ => true
  | .evqpop _ _ _ => true
  | .evqpush _ _ _ => true
  | .rnginit _ _ _ => true
  | .rngtkt _ _ _ => true
  | .rngfill _ _ _ _ => true
  | .rngget _ _ _ _ => true
  | .vadd _ _ _ _ _ => true
  | .vsub _ _ _ _ _ => true
  | .vmul _ _ _ _ _ => true
  | .vmulh _ _ _ _ _ => true
  | .vand _ _ _ _ _ => true
  | .vor _ _ _ _ _ => true
  | .vxor _ _ _ _ _ => true
  | .vshl _ _ _ _ _ => true
  | .vshr _ _ _ _ _ => true
  | .vsar _ _ _ _ _ => true
  | .vmin _ _ _ _ _ => true
  | .vmax _ _ _ _ _ => true
  | .vminu _ _ _ _ _ => true
  | .vmaxu _ _ _ _ _ => true
  | .vadds _ _ _ _ _ => true
  | .vsubs _ _ _ _ _ => true
  | .vfadd _ _ _ _ _ => true
  | .vfsub _ _ _ _ _ => true
  | .vfmul _ _ _ _ _ => true
  | .vfma _ _ _ _ _ => true
  | .vfms _ _ _ _ _ => true
  | .vfnma _ _ _ _ _ => true
  | .vfmin _ _ _ _ _ => true
  | .vfmax _ _ _ _ _ => true
  | .vrcpe _ _ _ _ => true
  | .vrsqe _ _ _ _ => true
  | .vexp2e _ _ _ _ => true
  | .vlog2e _ _ _ _ => true
  | .vtanhe _ _ _ _ => true
  | .vfabs _ _ _ _ => true
  | .vfneg _ _ _ _ => true
  | .vfclass _ _ _ _ => true
  | .vcmpeq _ _ _ _ _ => true
  | .vcmpne _ _ _ _ _ => true
  | .vcmplt _ _ _ _ _ => true
  | .vcmpltu _ _ _ _ _ => true
  | .vfcmpeq _ _ _ _ _ => true
  | .vfcmplt _ _ _ _ _ => true
  | .vfcmple _ _ _ _ _ => true
  | .vfcmpun _ _ _ _ _ => true
  | .vmv _ _ _ _ => true
  | .vcvtw _ _ _ _ => true
  | .vcvtn _ _ _ _ => true
  | .vcvtfi _ _ _ _ => true
  | .vcvtif _ _ _ _ => true
  | .vaddMasked _ _ _ _ _ => true
  | .vsubMasked _ _ _ _ _ => true
  | .vmulMasked _ _ _ _ _ => true
  | .vmulhMasked _ _ _ _ _ => true
  | .vandMasked _ _ _ _ _ => true
  | .vorMasked _ _ _ _ _ => true
  | .vxorMasked _ _ _ _ _ => true
  | .vshlMasked _ _ _ _ _ => true
  | .vshrMasked _ _ _ _ _ => true
  | .vsarMasked _ _ _ _ _ => true
  | .vminMasked _ _ _ _ _ => true
  | .vmaxMasked _ _ _ _ _ => true
  | .vminuMasked _ _ _ _ _ => true
  | .vmaxuMasked _ _ _ _ _ => true
  | .vaddsMasked _ _ _ _ _ => true
  | .vsubsMasked _ _ _ _ _ => true
  | .vfaddMasked _ _ _ _ _ => true
  | .vfsubMasked _ _ _ _ _ => true
  | .vfmulMasked _ _ _ _ _ => true
  | .vfmaMasked _ _ _ _ _ => true
  | .vfmsMasked _ _ _ _ _ => true
  | .vfnmaMasked _ _ _ _ _ => true
  | .vfminMasked _ _ _ _ _ => true
  | .vfmaxMasked _ _ _ _ _ => true
  | .vrcpeMasked _ _ _ _ => true
  | .vrsqeMasked _ _ _ _ => true
  | .vexp2eMasked _ _ _ _ => true
  | .vlog2eMasked _ _ _ _ => true
  | .vtanheMasked _ _ _ _ => true
  | .vfabsMasked _ _ _ _ => true
  | .vfnegMasked _ _ _ _ => true
  | .vfclassMasked _ _ _ _ => true
  | .vcmpeqMasked _ _ _ _ _ => true
  | .vcmpneMasked _ _ _ _ _ => true
  | .vcmpltMasked _ _ _ _ _ => true
  | .vcmpltuMasked _ _ _ _ _ => true
  | .vfcmpeqMasked _ _ _ _ _ => true
  | .vfcmpltMasked _ _ _ _ _ => true
  | .vfcmpleMasked _ _ _ _ _ => true
  | .vfcmpunMasked _ _ _ _ _ => true
  | .vmvMasked _ _ _ _ => true
  | .vcvtwMasked _ _ _ _ => true
  | .vcvtnMasked _ _ _ _ => true
  | .vcvtfiMasked _ _ _ _ => true
  | .vcvtifMasked _ _ _ _ => true
  | .vrotr _ _ _ _ _ => true
  | .vrotc _ _ _ _ _ => true
  | .vbcst _ _ _ _ => true
  | .vextr _ _ _ _ _ => true
  | .vsetvl _ _ => true
  | .vcompress _ _ _ _ _ => true
  | .vexpand _ _ _ _ _ => true
  | .vredi _ _ _ _ _ => true
  | .mand _ _ _ _ _ => true
  | .mor _ _ _ _ _ => true
  | .mxor _ _ _ _ _ => true
  | .mandn _ _ _ _ _ => true
  | .mnot _ _ _ _ => true
  | .mset _ _ _ => true
  | .mclr _ _ _ => true
  | .mmov _ _ _ _ => true
  | .twr _ _ _ _ => true
  | .trd _ _ _ _ => true
  | .psadd _ _ _ _ => true
  | .psrd _ _ _ _ => true
  | .psclr _ _ _ => true
  | .vredadd _ _ _ _ => true
  | .vredmax _ _ _ _ => true
  | .vfredadd _ _ _ _ => true
  | .krsum _ _ _ _ _ => true
  | .krmean _ _ _ _ _ => true
  | .kvcnt _ _ _ _ => true
  | .kmrd _ _ _ _ => true
  | .srrd _ _ _ => true
  | .srwr _ _ _ => true
  | .syscall _ _ _ _ => true
  | .tickwt _ _ => true
  | .framerd _ _ _ => true
  | .cpt _ _ _ => true
  | .cpc _ _ _ => true
  | .cpx _ _ _ => true
  | .cptr _ _ _ => true
  | .cpm _ _ _ => true
  | .cpz _ _ _ => true
  | .cpd _ _ _ => true
  | .bkrun _ _ _ => true
  | .bkrst _ => true
  | .bkfin _ => true
  | .bkdrain _ _ _ => true
  | .bkshape _ _ => true
  | .dmma _ _ _ => true
  | .dmmac _ _ _ => true
  | .ddrain _ _ _ => true
  | .dbyp _ _ => true
  | .dclr _ => true
  | .sortw _ _ _ => true
  | .swapw _ _ => true
  | .wpin _ _ _ => true
  | .moload _ _ _ => true
  | .mobase _ _ _ => true
  | .mostart _ _ => true
  | .mostop _ _ => true
  | .txfer _ _ _ => true
  | .gather _ _ _ => true
  | .gwait _ _ => true
  | .msend _ _ _ => true
  | .ksend _ _ _ => true
  | .amtset _ _ _ => true
  | .amtclr _ _ => true
  | .rep _ _ => true
  | .intervalPulse _ _ _ => false
  | .slipRepeat _ => false
  | .frameComplete _ => false
  | .frameDone _ _ _ => false
  | .nodeRelease _ _ => false
  | .jpushDue _ => false
  | .selection _ => false
  | .loadingComplete _ => false
  | .contextSwitch _ => false
  | .retirement _ => false
  | .park _ => false
  | .evaluationStart _ => false
  | .submit _ _ => false
  | .launchStart _ => false
  | .launchActivate _ => false
  | .launchExchange _ _ _ _ => false
  | .pgtimeout _ => false
  | .refusalNotice _ _ => false
  | .launchEnd _ => false
  | .copyExecute _ _ _ _ _ _ => false
  | .copyComplete _ _ _ => false
  | .pageRequestGroup _ => false
  | .pageResponse _ _ _ => false
  | .ceinv _ _ => false
  | .fradd _ _ => false
  | .sortComplete _ => false
  | .gatherComplete _ _ => false
  | .txferComplete _ => false
  | .sharedReadStart _ _ => false
  | .bucketExpansion _ => false
  | .bucketRetire _ _ => false
  | .denseCommit _ => false
  | .predictionResolve _ => false
  | .queueRefill _ _ => false
  | .messageHeader _ _ _ _ _ _ _ _ _ => false
  | .acknowledgement _ _ _ => false
  | .nomatch _ _ _ => false
  | .attemptTimeout _ _ _ => false
  | .newAttempt _ _ _ => false
  | .kerfBlock _ _ _ _ => false
  | .endMarker _ => false
  | .kerfDeadline _ => false
  | .etick _ _ => false
  | .discardNotice _ _ => false
  | .redirectNotice _ _ => false
  | .moved _ _ _ => false
  | .hostAccess _ _ _ _ _ _ => false
  | .atomicop _ _ _ _ _ _ _ => false
  | .atsInvalidation _ _ _ => false
  | .functionLevelReset _ => false
  | .d3hot _ _ => false
  | .moduleReset => false
  | .rst _ => false
  | .svc _ => false
  | .romboot => false
  | .train _ => false
  | .portTraining _ _ _ => false
  | .retrain _ _ => false
  | .preempt _ _ => false
  | .stopPoint _ => false
  | .stopTimeout _ => false
  | .saveComplete _ => false
  | .resume _ _ => false
  | .restoreComplete _ => false
  | .discard _ _ => false
  | .discardComplete _ => false
  | .brkgo _ _ => false
  | .svcdone _ _ => false
  | .migctlGo _ _ _ => false
  | .handOver _ _ _ => false
  | .pagePull _ _ _ _ _ => false
  | .pagePush _ _ _ _ _ => false
  | .migrationDone _ => false
  | .migrationLinkFailure _ => false
  | .imgctlGo _ _ => false
  | .imageLoadEnd _ _ _ => false
  | .attctlGo _ => false
  | .attestationReport => false
  | .hwfault _ => false
  | .linkfatal _ => false
  | .ftWrite _ _ _ => false
  | .transWrite _ _ _ => false
  | .registerWrite _ _ _ => false
  | .accessPerformed _ _ _ _ _ => false
  | .denseRetire _ _ => false
  | .level4PhaseMessage _ _ _ => false
  | .migrationAbort _ => false
  | .invalidationComplete _ => false
  | .pageRequestInterfaceEnable _ _ => false
  | .auxiliaryPower _ => false

/-- May a word issue in the stream (02 R58, R60)? -/
def Instr.inStream (k : StreamKind) : Instr → Bool
  | .add _ _ _ _ => k == .access
  | .sub _ _ _ _ => k == .access
  | .and _ _ _ _ => k == .access
  | .or _ _ _ _ => k == .access
  | .xor _ _ _ _ => k == .access
  | .shl _ _ _ _ => k == .access
  | .shr _ _ _ _ => k == .access
  | .sar _ _ _ _ => k == .access
  | .mul _ _ _ _ => k == .access
  | .mulhs _ _ _ _ => k == .access
  | .mulhu _ _ _ _ => k == .access
  | .min _ _ _ _ => k == .access
  | .max _ _ _ _ => k == .access
  | .minu _ _ _ _ => k == .access
  | .maxu _ _ _ _ => k == .access
  | .rol _ _ _ _ => k == .access
  | .addi _ _ _ _ => k == .access
  | .andi _ _ _ _ => k == .access
  | .ori _ _ _ _ => k == .access
  | .xori _ _ _ _ => k == .access
  | .shli _ _ _ _ => k == .access
  | .shri _ _ _ _ => k == .access
  | .sari _ _ _ _ => k == .access
  | .clz _ _ _ => k == .access
  | .ctz _ _ _ => k == .access
  | .popc _ _ _ => k == .access
  | .bswap _ _ _ => k == .access
  | .sextb _ _ _ => k == .access
  | .sexth _ _ _ => k == .access
  | .sextw _ _ _ => k == .access
  | .zextw _ _ _ => k == .access
  | .divs _ _ _ _ => k == .access
  | .divu _ _ _ _ => k == .access
  | .rems _ _ _ _ => k == .access
  | .remu _ _ _ _ => k == .access
  | .cmpEq _ _ _ _ => k == .access
  | .cmpNe _ _ _ _ => k == .access
  | .cmpLt _ _ _ _ => k == .access
  | .cmpGe _ _ _ _ => k == .access
  | .cmpLtu _ _ _ _ => k == .access
  | .cmpGeu _ _ _ _ => k == .access
  | .cmpLe _ _ _ _ => k == .access
  | .cmpGt _ _ _ _ => k == .access
  | .cmpLeu _ _ _ _ => k == .access
  | .cmpGtu _ _ _ _ => k == .access
  | .pand _ _ _ _ => true
  | .por _ _ _ _ => true
  | .pxor _ _ _ _ => true
  | .pandn _ _ _ _ => true
  | .porn _ _ _ _ => true
  | .pnot _ _ _ => true
  | .pset _ _ => true
  | .pclr _ _ => true
  | .branch _ _ => true
  | .call _ _ => k == .access
  | .br _ _ => true
  | .callr _ _ => k == .access
  | .ret _ => k == .access
  | .loop _ _ _ => true
  | .cqpush _ _ => k == .access
  | .cqpop _ _ => k == .execute
  | .pqpush _ _ => k == .execute
  | .pqpop _ _ => k == .access
  | .nop _ => true
  | .tend _ => true
  | .brk _ => true
  | .adr _ _ _ => k == .access
  | .ldb _ _ _ _ => k == .access
  | .ldh _ _ _ _ => k == .access
  | .ldw _ _ _ _ => k == .access
  | .ldd _ _ _ _ => k == .access
  | .stb _ _ _ _ => k == .access
  | .sth _ _ _ _ => k == .access
  | .stw _ _ _ _ => k == .access
  | .std _ _ _ _ => k == .access
  | .vld _ _ _ _ => k == .access
  | .vlds _ _ _ _ => k == .access
  | .vldx _ _ _ _ => k == .access
  | .vldff _ _ _ _ => k == .access
  | .vst _ _ _ _ => k == .access
  | .vsts _ _ _ _ => k == .access
  | .vstx _ _ _ _ => k == .access
  | .aadd _ _ _ _ _ _ => k == .access
  | .aand _ _ _ _ _ _ => k == .access
  | .aor _ _ _ _ _ _ => k == .access
  | .axor _ _ _ _ _ _ => k == .access
  | .amin _ _ _ _ _ _ => k == .access
  | .amax _ _ _ _ _ _ => k == .access
  | .aswp _ _ _ _ _ _ => k == .access
  | .acas _ _ _ _ _ _ => k == .access
  | .fence _ _ _ => k == .access
  | .dovetail _ => k == .access
  | .publish _ _ _ _ => k == .access
  | .cmk _ _ _ => k == .access
  | .cld _ _ _ _ => k == .access
  | .cfill _ _ _ => k == .access
  | .cfail _ _ _ => k == .access
  | .barinit _ _ _ => k == .access
  | .barx _ _ _ => k == .access
  | .barw _ _ => k == .access
  | .barrd _ _ _ => k == .access
  | .jpush _ _ _ _ => k == .access
  | .qpush _ _ _ => k == .access
  | .qpop _ _ _ _ => k == .access
  | .qdepth _ _ _ => k == .access
  | .darrive _ _ _ => k == .access
  | .evqpop _ _ _ => k == .access
  | .evqpush _ _ _ => k == .access
  | .rnginit _ _ _ => k == .access
  | .rngtkt _ _ _ => k == .access
  | .rngfill _ _ _ _ => k == .access
  | .rngget _ _ _ _ => k == .access
  | .vadd _ _ _ _ _ => k == .execute
  | .vsub _ _ _ _ _ => k == .execute
  | .vmul _ _ _ _ _ => k == .execute
  | .vmulh _ _ _ _ _ => k == .execute
  | .vand _ _ _ _ _ => k == .execute
  | .vor _ _ _ _ _ => k == .execute
  | .vxor _ _ _ _ _ => k == .execute
  | .vshl _ _ _ _ _ => k == .execute
  | .vshr _ _ _ _ _ => k == .execute
  | .vsar _ _ _ _ _ => k == .execute
  | .vmin _ _ _ _ _ => k == .execute
  | .vmax _ _ _ _ _ => k == .execute
  | .vminu _ _ _ _ _ => k == .execute
  | .vmaxu _ _ _ _ _ => k == .execute
  | .vadds _ _ _ _ _ => k == .execute
  | .vsubs _ _ _ _ _ => k == .execute
  | .vfadd _ _ _ _ _ => k == .execute
  | .vfsub _ _ _ _ _ => k == .execute
  | .vfmul _ _ _ _ _ => k == .execute
  | .vfma _ _ _ _ _ => k == .execute
  | .vfms _ _ _ _ _ => k == .execute
  | .vfnma _ _ _ _ _ => k == .execute
  | .vfmin _ _ _ _ _ => k == .execute
  | .vfmax _ _ _ _ _ => k == .execute
  | .vrcpe _ _ _ _ => k == .execute
  | .vrsqe _ _ _ _ => k == .execute
  | .vexp2e _ _ _ _ => k == .execute
  | .vlog2e _ _ _ _ => k == .execute
  | .vtanhe _ _ _ _ => k == .execute
  | .vfabs _ _ _ _ => k == .execute
  | .vfneg _ _ _ _ => k == .execute
  | .vfclass _ _ _ _ => k == .execute
  | .vcmpeq _ _ _ _ _ => k == .execute
  | .vcmpne _ _ _ _ _ => k == .execute
  | .vcmplt _ _ _ _ _ => k == .execute
  | .vcmpltu _ _ _ _ _ => k == .execute
  | .vfcmpeq _ _ _ _ _ => k == .execute
  | .vfcmplt _ _ _ _ _ => k == .execute
  | .vfcmple _ _ _ _ _ => k == .execute
  | .vfcmpun _ _ _ _ _ => k == .execute
  | .vmv _ _ _ _ => k == .execute
  | .vcvtw _ _ _ _ => k == .execute
  | .vcvtn _ _ _ _ => k == .execute
  | .vcvtfi _ _ _ _ => k == .execute
  | .vcvtif _ _ _ _ => k == .execute
  | .vaddMasked _ _ _ _ _ => k == .execute
  | .vsubMasked _ _ _ _ _ => k == .execute
  | .vmulMasked _ _ _ _ _ => k == .execute
  | .vmulhMasked _ _ _ _ _ => k == .execute
  | .vandMasked _ _ _ _ _ => k == .execute
  | .vorMasked _ _ _ _ _ => k == .execute
  | .vxorMasked _ _ _ _ _ => k == .execute
  | .vshlMasked _ _ _ _ _ => k == .execute
  | .vshrMasked _ _ _ _ _ => k == .execute
  | .vsarMasked _ _ _ _ _ => k == .execute
  | .vminMasked _ _ _ _ _ => k == .execute
  | .vmaxMasked _ _ _ _ _ => k == .execute
  | .vminuMasked _ _ _ _ _ => k == .execute
  | .vmaxuMasked _ _ _ _ _ => k == .execute
  | .vaddsMasked _ _ _ _ _ => k == .execute
  | .vsubsMasked _ _ _ _ _ => k == .execute
  | .vfaddMasked _ _ _ _ _ => k == .execute
  | .vfsubMasked _ _ _ _ _ => k == .execute
  | .vfmulMasked _ _ _ _ _ => k == .execute
  | .vfmaMasked _ _ _ _ _ => k == .execute
  | .vfmsMasked _ _ _ _ _ => k == .execute
  | .vfnmaMasked _ _ _ _ _ => k == .execute
  | .vfminMasked _ _ _ _ _ => k == .execute
  | .vfmaxMasked _ _ _ _ _ => k == .execute
  | .vrcpeMasked _ _ _ _ => k == .execute
  | .vrsqeMasked _ _ _ _ => k == .execute
  | .vexp2eMasked _ _ _ _ => k == .execute
  | .vlog2eMasked _ _ _ _ => k == .execute
  | .vtanheMasked _ _ _ _ => k == .execute
  | .vfabsMasked _ _ _ _ => k == .execute
  | .vfnegMasked _ _ _ _ => k == .execute
  | .vfclassMasked _ _ _ _ => k == .execute
  | .vcmpeqMasked _ _ _ _ _ => k == .execute
  | .vcmpneMasked _ _ _ _ _ => k == .execute
  | .vcmpltMasked _ _ _ _ _ => k == .execute
  | .vcmpltuMasked _ _ _ _ _ => k == .execute
  | .vfcmpeqMasked _ _ _ _ _ => k == .execute
  | .vfcmpltMasked _ _ _ _ _ => k == .execute
  | .vfcmpleMasked _ _ _ _ _ => k == .execute
  | .vfcmpunMasked _ _ _ _ _ => k == .execute
  | .vmvMasked _ _ _ _ => k == .execute
  | .vcvtwMasked _ _ _ _ => k == .execute
  | .vcvtnMasked _ _ _ _ => k == .execute
  | .vcvtfiMasked _ _ _ _ => k == .execute
  | .vcvtifMasked _ _ _ _ => k == .execute
  | .vrotr _ _ _ _ _ => k == .execute
  | .vrotc _ _ _ _ _ => k == .execute
  | .vbcst _ _ _ _ => k == .execute
  | .vextr _ _ _ _ _ => k == .execute
  | .vsetvl _ _ => k == .execute
  | .vcompress _ _ _ _ _ => k == .execute
  | .vexpand _ _ _ _ _ => k == .execute
  | .vredi _ _ _ _ _ => k == .execute
  | .mand _ _ _ _ _ => k == .execute
  | .mor _ _ _ _ _ => k == .execute
  | .mxor _ _ _ _ _ => k == .execute
  | .mandn _ _ _ _ _ => k == .execute
  | .mnot _ _ _ _ => k == .execute
  | .mset _ _ _ => k == .execute
  | .mclr _ _ _ => k == .execute
  | .mmov _ _ _ _ => k == .execute
  | .twr _ _ _ _ => k == .execute
  | .trd _ _ _ _ => k == .execute
  | .psadd _ _ _ _ => k == .execute
  | .psrd _ _ _ _ => k == .execute
  | .psclr _ _ _ => k == .execute
  | .vredadd _ _ _ _ => k == .execute
  | .vredmax _ _ _ _ => k == .execute
  | .vfredadd _ _ _ _ => k == .execute
  | .krsum _ _ _ _ _ => k == .execute
  | .krmean _ _ _ _ _ => k == .execute
  | .kvcnt _ _ _ _ => k == .execute
  | .kmrd _ _ _ _ => k == .execute
  | .srrd _ _ _ => true
  | .srwr _ _ _ => true
  | .syscall _ _ _ _ => k == .access
  | .tickwt _ _ => k == .access
  | .framerd _ _ _ => true
  | .cpt _ _ _ => k == .access
  | .cpc _ _ _ => k == .access
  | .cpx _ _ _ => k == .access
  | .cptr _ _ _ => k == .access
  | .cpm _ _ _ => k == .access
  | .cpz _ _ _ => k == .access
  | .cpd _ _ _ => k == .access
  | .bkrun _ _ _ => k == .execute
  | .bkrst _ => k == .execute
  | .bkfin _ => k == .execute
  | .bkdrain _ _ _ => k == .execute
  | .bkshape _ _ => k == .execute
  | .dmma _ _ _ => k == .execute
  | .dmmac _ _ _ => k == .execute
  | .ddrain _ _ _ => k == .execute
  | .dbyp _ _ => k == .execute
  | .dclr _ => k == .execute
  | .sortw _ _ _ => k == .access
  | .swapw _ _ => k == .access
  | .wpin _ _ _ => k == .access
  | .moload _ _ _ => k == .access
  | .mobase _ _ _ => k == .access
  | .mostart _ _ => k == .access
  | .mostop _ _ => k == .access
  | .txfer _ _ _ => k == .execute
  | .gather _ _ _ => k == .execute
  | .gwait _ _ => k == .execute
  | .msend _ _ _ => k == .access
  | .ksend _ _ _ => k == .access
  | .amtset _ _ _ => k == .access
  | .amtclr _ _ => k == .access
  | .rep _ _ => true
  | .intervalPulse _ _ _ => false
  | .slipRepeat _ => false
  | .frameComplete _ => false
  | .frameDone _ _ _ => false
  | .nodeRelease _ _ => false
  | .jpushDue _ => false
  | .selection _ => false
  | .loadingComplete _ => false
  | .contextSwitch _ => false
  | .retirement _ => false
  | .park _ => false
  | .evaluationStart _ => false
  | .submit _ _ => false
  | .launchStart _ => false
  | .launchActivate _ => false
  | .launchExchange _ _ _ _ => false
  | .pgtimeout _ => false
  | .refusalNotice _ _ => false
  | .launchEnd _ => false
  | .copyExecute _ _ _ _ _ _ => false
  | .copyComplete _ _ _ => false
  | .pageRequestGroup _ => false
  | .pageResponse _ _ _ => false
  | .ceinv _ _ => false
  | .fradd _ _ => false
  | .sortComplete _ => false
  | .gatherComplete _ _ => false
  | .txferComplete _ => false
  | .sharedReadStart _ _ => false
  | .bucketExpansion _ => false
  | .bucketRetire _ _ => false
  | .denseCommit _ => false
  | .predictionResolve _ => false
  | .queueRefill _ _ => false
  | .messageHeader _ _ _ _ _ _ _ _ _ => false
  | .acknowledgement _ _ _ => false
  | .nomatch _ _ _ => false
  | .attemptTimeout _ _ _ => false
  | .newAttempt _ _ _ => false
  | .kerfBlock _ _ _ _ => false
  | .endMarker _ => false
  | .kerfDeadline _ => false
  | .etick _ _ => false
  | .discardNotice _ _ => false
  | .redirectNotice _ _ => false
  | .moved _ _ _ => false
  | .hostAccess _ _ _ _ _ _ => false
  | .atomicop _ _ _ _ _ _ _ => false
  | .atsInvalidation _ _ _ => false
  | .functionLevelReset _ => false
  | .d3hot _ _ => false
  | .moduleReset => false
  | .rst _ => false
  | .svc _ => false
  | .romboot => false
  | .train _ => false
  | .portTraining _ _ _ => false
  | .retrain _ _ => false
  | .preempt _ _ => false
  | .stopPoint _ => false
  | .stopTimeout _ => false
  | .saveComplete _ => false
  | .resume _ _ => false
  | .restoreComplete _ => false
  | .discard _ _ => false
  | .discardComplete _ => false
  | .brkgo _ _ => false
  | .svcdone _ _ => false
  | .migctlGo _ _ _ => false
  | .handOver _ _ _ => false
  | .pagePull _ _ _ _ _ => false
  | .pagePush _ _ _ _ _ => false
  | .migrationDone _ => false
  | .migrationLinkFailure _ => false
  | .imgctlGo _ _ => false
  | .imageLoadEnd _ _ _ => false
  | .attctlGo _ => false
  | .attestationReport => false
  | .hwfault _ => false
  | .linkfatal _ => false
  | .ftWrite _ _ _ => false
  | .transWrite _ _ _ => false
  | .registerWrite _ _ _ => false
  | .accessPerformed _ _ _ _ _ => false
  | .denseRetire _ _ => false
  | .level4PhaseMessage _ _ _ => false
  | .migrationAbort _ => false
  | .invalidationComplete _ => false
  | .pageRequestInterfaceEnable _ _ => false
  | .auxiliaryPower _ => false

/-- The register fields of a word's format, first to third, each with its role; none where the format has no such field or the word does not use it (02 R52, R54, R56). -/
def Instr.regFields : Instr → List (Option Role)
  | .add _ d a b => [some (.dst d), some (.src a), some (.src b)]
  | .sub _ d a b => [some (.dst d), some (.src a), some (.src b)]
  | .and _ d a b => [some (.dst d), some (.src a), some (.src b)]
  | .or _ d a b => [some (.dst d), some (.src a), some (.src b)]
  | .xor _ d a b => [some (.dst d), some (.src a), some (.src b)]
  | .shl _ d a b => [some (.dst d), some (.src a), some (.src b)]
  | .shr _ d a b => [some (.dst d), some (.src a), some (.src b)]
  | .sar _ d a b => [some (.dst d), some (.src a), some (.src b)]
  | .mul _ d a b => [some (.dst d), some (.src a), some (.src b)]
  | .mulhs _ d a b => [some (.dst d), some (.src a), some (.src b)]
  | .mulhu _ d a b => [some (.dst d), some (.src a), some (.src b)]
  | .min _ d a b => [some (.dst d), some (.src a), some (.src b)]
  | .max _ d a b => [some (.dst d), some (.src a), some (.src b)]
  | .minu _ d a b => [some (.dst d), some (.src a), some (.src b)]
  | .maxu _ d a b => [some (.dst d), some (.src a), some (.src b)]
  | .rol _ d a b => [some (.dst d), some (.src a), some (.src b)]
  | .addi _ d a _ => [some (.dst d), some (.src a)]
  | .andi _ d a _ => [some (.dst d), some (.src a)]
  | .ori _ d a _ => [some (.dst d), some (.src a)]
  | .xori _ d a _ => [some (.dst d), some (.src a)]
  | .shli _ d a _ => [some (.dst d), some (.src a)]
  | .shri _ d a _ => [some (.dst d), some (.src a)]
  | .sari _ d a _ => [some (.dst d), some (.src a)]
  | .clz _ d a => [some (.dst d), some (.src a), none]
  | .ctz _ d a => [some (.dst d), some (.src a), none]
  | .popc _ d a => [some (.dst d), some (.src a), none]
  | .bswap _ d a => [some (.dst d), some (.src a), none]
  | .sextb _ d a => [some (.dst d), some (.src a), none]
  | .sexth _ d a => [some (.dst d), some (.src a), none]
  | .sextw _ d a => [some (.dst d), some (.src a), none]
  | .zextw _ d a => [some (.dst d), some (.src a), none]
  | .divs _ d a b => [some (.dst d), some (.src a), some (.src b)]
  | .divu _ d a b => [some (.dst d), some (.src a), some (.src b)]
  | .rems _ d a b => [some (.dst d), some (.src a), some (.src b)]
  | .remu _ d a b => [some (.dst d), some (.src a), some (.src b)]
  | .cmpEq _ pd a b => [some (.pdst pd), some (.src a), some (.src b)]
  | .cmpNe _ pd a b => [some (.pdst pd), some (.src a), some (.src b)]
  | .cmpLt _ pd a b => [some (.pdst pd), some (.src a), some (.src b)]
  | .cmpGe _ pd a b => [some (.pdst pd), some (.src a), some (.src b)]
  | .cmpLtu _ pd a b => [some (.pdst pd), some (.src a), some (.src b)]
  | .cmpGeu _ pd a b => [some (.pdst pd), some (.src a), some (.src b)]
  | .cmpLe _ pd a b => [some (.pdst pd), some (.src a), some (.src b)]
  | .cmpGt _ pd a b => [some (.pdst pd), some (.src a), some (.src b)]
  | .cmpLeu _ pd a b => [some (.pdst pd), some (.src a), some (.src b)]
  | .cmpGtu _ pd a b => [some (.pdst pd), some (.src a), some (.src b)]
  | .pand _ pd pa pb => [some (.pdst pd), some (.psrc pa), some (.psrc pb)]
  | .por _ pd pa pb => [some (.pdst pd), some (.psrc pa), some (.psrc pb)]
  | .pxor _ pd pa pb => [some (.pdst pd), some (.psrc pa), some (.psrc pb)]
  | .pandn _ pd pa pb => [some (.pdst pd), some (.psrc pa), some (.psrc pb)]
  | .porn _ pd pa pb => [some (.pdst pd), some (.psrc pa), some (.psrc pb)]
  | .pnot _ pd pa => [some (.pdst pd), some (.psrc pa), none]
  | .pset _ pd => [some (.pdst pd), none, none]
  | .pclr _ pd => [some (.pdst pd), none, none]
  | .branch _ _ => []
  | .call _ _ => []
  | .br _ a => [none, some (.src a), none]
  | .callr _ a => [none, some (.src a), none]
  | .ret _ => [none, none, none]
  | .loop _ a _ => [some (.rw a)]
  | .cqpush _ a => [none, some (.src a), none]
  | .cqpop _ d => [some (.dst d), none, none]
  | .pqpush _ pa => [none, some (.psrc pa), none]
  | .pqpop _ pd => [some (.pdst pd), none, none]
  | .nop _ => []
  | .tend _ => []
  | .brk _ => []
  | .adr _ a _ => [some (.dst a)]
  | .ldb _ d a b => [some (.dst d), some (.src a), some (.src b)]
  | .ldh _ d a b => [some (.dst d), some (.src a), some (.src b)]
  | .ldw _ d a b => [some (.dst d), some (.src a), some (.src b)]
  | .ldd _ d a b => [some (.dst d), some (.src a), some (.src b)]
  | .stb _ d a b => [some (.src d), some (.src a), some (.src b)]
  | .sth _ d a b => [some (.src d), some (.src a), some (.src b)]
  | .stw _ d a b => [some (.src d), some (.src a), some (.src b)]
  | .std _ d a b => [some (.src d), some (.src a), some (.src b)]
  | .vld _ vd a b => [some (.vdst vd), some (.src a), some (.src b)]
  | .vlds _ vd a b => [some (.vdst vd), some (.src a), some (.src b)]
  | .vldx _ vd a b => [some (.vdst vd), some (.src a), some (.src b)]
  | .vldff _ vd a b => [some (.vdst vd), some (.src a), some (.src b)]
  | .vst _ vd a b => [some (.vsrc vd), some (.src a), some (.src b)]
  | .vsts _ vd a b => [some (.vsrc vd), some (.src a), some (.src b)]
  | .vstx _ vd a b => [some (.vsrc vd), some (.src a), some (.src b)]
  | .aadd _ _ _ _ d a => [some (.rw d), some (.src a)]
  | .aand _ _ _ _ d a => [some (.rw d), some (.src a)]
  | .aor _ _ _ _ d a => [some (.rw d), some (.src a)]
  | .axor _ _ _ _ d a => [some (.rw d), some (.src a)]
  | .amin _ _ _ _ d a => [some (.rw d), some (.src a)]
  | .amax _ _ _ _ d a => [some (.rw d), some (.src a)]
  | .aswp _ _ _ _ d a => [some (.rw d), some (.src a)]
  | .acas _ _ _ _ d a => [some (.rw d), some (.src a)]
  | .fence _ _ _ => [none]
  | .dovetail _ => [none]
  | .publish _ _ _ a => [some (.src a)]
  | .cmk _ a b => [none, some (.src a), some (.src b)]
  | .cld _ d a b => [some (.dst d), some (.src a), some (.src b)]
  | .cfill _ a b => [none, some (.src a), some (.src b)]
  | .cfail _ a b => [none, some (.src a), some (.src b)]
  | .barinit _ a b => [none, some (.src a), some (.src b)]
  | .barx _ a b => [none, some (.src a), some (.src b)]
  | .barw _ a => [none, some (.src a), none]
  | .barrd _ d a => [some (.dst d), some (.src a), none]
  | .jpush _ d a b => [some (.src d), some (.src a), some (.src b)]
  | .qpush _ a b => [none, some (.src a), some (.src b)]
  | .qpop _ d a b => [some (.dst d), some (.src a), some (.src b)]
  | .qdepth _ d a => [some (.dst d), some (.src a), none]
  | .darrive _ d a => [some (.dst d), some (.src a), none]
  | .evqpop _ d a => [some (.dst d), some (.src a), none]
  | .evqpush _ a b => [none, some (.src a), some (.src b)]
  | .rnginit _ a b => [none, some (.src a), some (.src b)]
  | .rngtkt _ d a => [some (.dst d), some (.src a), none]
  | .rngfill _ d a b => [some (.src d), some (.src a), some (.src b)]
  | .rngget _ d a b => [some (.dst d), some (.src a), some (.src b)]
  | .vadd _ _ vd va vb => [some (.vdst vd), some (.vsrc va), some (.vsrc vb)]
  | .vsub _ _ vd va vb => [some (.vdst vd), some (.vsrc va), some (.vsrc vb)]
  | .vmul _ _ vd va vb => [some (.vdst vd), some (.vsrc va), some (.vsrc vb)]
  | .vmulh _ _ vd va vb => [some (.vdst vd), some (.vsrc va), some (.vsrc vb)]
  | .vand _ _ vd va vb => [some (.vdst vd), some (.vsrc va), some (.vsrc vb)]
  | .vor _ _ vd va vb => [some (.vdst vd), some (.vsrc va), some (.vsrc vb)]
  | .vxor _ _ vd va vb => [some (.vdst vd), some (.vsrc va), some (.vsrc vb)]
  | .vshl _ _ vd va vb => [some (.vdst vd), some (.vsrc va), some (.vsrc vb)]
  | .vshr _ _ vd va vb => [some (.vdst vd), some (.vsrc va), some (.vsrc vb)]
  | .vsar _ _ vd va vb => [some (.vdst vd), some (.vsrc va), some (.vsrc vb)]
  | .vmin _ _ vd va vb => [some (.vdst vd), some (.vsrc va), some (.vsrc vb)]
  | .vmax _ _ vd va vb => [some (.vdst vd), some (.vsrc va), some (.vsrc vb)]
  | .vminu _ _ vd va vb => [some (.vdst vd), some (.vsrc va), some (.vsrc vb)]
  | .vmaxu _ _ vd va vb => [some (.vdst vd), some (.vsrc va), some (.vsrc vb)]
  | .vadds _ _ vd va vb => [some (.vdst vd), some (.vsrc va), some (.vsrc vb)]
  | .vsubs _ _ vd va vb => [some (.vdst vd), some (.vsrc va), some (.vsrc vb)]
  | .vfadd _ _ vd va vb => [some (.vdst vd), some (.vsrc va), some (.vsrc vb)]
  | .vfsub _ _ vd va vb => [some (.vdst vd), some (.vsrc va), some (.vsrc vb)]
  | .vfmul _ _ vd va vb => [some (.vdst vd), some (.vsrc va), some (.vsrc vb)]
  | .vfma _ _ vd va vb => [some (.vrw vd), some (.vsrc va), some (.vsrc vb)]
  | .vfms _ _ vd va vb => [some (.vrw vd), some (.vsrc va), some (.vsrc vb)]
  | .vfnma _ _ vd va vb => [some (.vrw vd), some (.vsrc va), some (.vsrc vb)]
  | .vfmin _ _ vd va vb => [some (.vdst vd), some (.vsrc va), some (.vsrc vb)]
  | .vfmax _ _ vd va vb => [some (.vdst vd), some (.vsrc va), some (.vsrc vb)]
  | .vrcpe _ _ vd va => [some (.vdst vd), some (.vsrc va), none]
  | .vrsqe _ _ vd va => [some (.vdst vd), some (.vsrc va), none]
  | .vexp2e _ _ vd va => [some (.vdst vd), some (.vsrc va), none]
  | .vlog2e _ _ vd va => [some (.vdst vd), some (.vsrc va), none]
  | .vtanhe _ _ vd va => [some (.vdst vd), some (.vsrc va), none]
  | .vfabs _ _ vd va => [some (.vdst vd), some (.vsrc va), none]
  | .vfneg _ _ vd va => [some (.vdst vd), some (.vsrc va), none]
  | .vfclass _ _ vd va => [some (.vdst vd), some (.vsrc va), none]
  | .vcmpeq _ _ md va vb => [some (.mdst md), some (.vsrc va), some (.vsrc vb)]
  | .vcmpne _ _ md va vb => [some (.mdst md), some (.vsrc va), some (.vsrc vb)]
  | .vcmplt _ _ md va vb => [some (.mdst md), some (.vsrc va), some (.vsrc vb)]
  | .vcmpltu _ _ md va vb => [some (.mdst md), some (.vsrc va), some (.vsrc vb)]
  | .vfcmpeq _ _ md va vb => [some (.mdst md), some (.vsrc va), some (.vsrc vb)]
  | .vfcmplt _ _ md va vb => [some (.mdst md), some (.vsrc va), some (.vsrc vb)]
  | .vfcmple _ _ md va vb => [some (.mdst md), some (.vsrc va), some (.vsrc vb)]
  | .vfcmpun _ _ md va vb => [some (.mdst md), some (.vsrc va), some (.vsrc vb)]
  | .vmv _ _ vd va => [some (.vdst vd), some (.vsrc va), none]
  | .vcvtw _ _ vd va => [some (.vdst vd), some (.vsrc va), none]
  | .vcvtn _ _ vd va => [some (.vdst vd), some (.vsrc va), none]
  | .vcvtfi _ _ vd va => [some (.vdst vd), some (.vsrc va), none]
  | .vcvtif _ _ vd va => [some (.vdst vd), some (.vsrc va), none]
  | .vaddMasked _ _ vd va vb => [some (.vdst vd), some (.vsrc va), some (.vsrc vb)]
  | .vsubMasked _ _ vd va vb => [some (.vdst vd), some (.vsrc va), some (.vsrc vb)]
  | .vmulMasked _ _ vd va vb => [some (.vdst vd), some (.vsrc va), some (.vsrc vb)]
  | .vmulhMasked _ _ vd va vb => [some (.vdst vd), some (.vsrc va), some (.vsrc vb)]
  | .vandMasked _ _ vd va vb => [some (.vdst vd), some (.vsrc va), some (.vsrc vb)]
  | .vorMasked _ _ vd va vb => [some (.vdst vd), some (.vsrc va), some (.vsrc vb)]
  | .vxorMasked _ _ vd va vb => [some (.vdst vd), some (.vsrc va), some (.vsrc vb)]
  | .vshlMasked _ _ vd va vb => [some (.vdst vd), some (.vsrc va), some (.vsrc vb)]
  | .vshrMasked _ _ vd va vb => [some (.vdst vd), some (.vsrc va), some (.vsrc vb)]
  | .vsarMasked _ _ vd va vb => [some (.vdst vd), some (.vsrc va), some (.vsrc vb)]
  | .vminMasked _ _ vd va vb => [some (.vdst vd), some (.vsrc va), some (.vsrc vb)]
  | .vmaxMasked _ _ vd va vb => [some (.vdst vd), some (.vsrc va), some (.vsrc vb)]
  | .vminuMasked _ _ vd va vb => [some (.vdst vd), some (.vsrc va), some (.vsrc vb)]
  | .vmaxuMasked _ _ vd va vb => [some (.vdst vd), some (.vsrc va), some (.vsrc vb)]
  | .vaddsMasked _ _ vd va vb => [some (.vdst vd), some (.vsrc va), some (.vsrc vb)]
  | .vsubsMasked _ _ vd va vb => [some (.vdst vd), some (.vsrc va), some (.vsrc vb)]
  | .vfaddMasked _ _ vd va vb => [some (.vdst vd), some (.vsrc va), some (.vsrc vb)]
  | .vfsubMasked _ _ vd va vb => [some (.vdst vd), some (.vsrc va), some (.vsrc vb)]
  | .vfmulMasked _ _ vd va vb => [some (.vdst vd), some (.vsrc va), some (.vsrc vb)]
  | .vfmaMasked _ _ vd va vb => [some (.vrw vd), some (.vsrc va), some (.vsrc vb)]
  | .vfmsMasked _ _ vd va vb => [some (.vrw vd), some (.vsrc va), some (.vsrc vb)]
  | .vfnmaMasked _ _ vd va vb => [some (.vrw vd), some (.vsrc va), some (.vsrc vb)]
  | .vfminMasked _ _ vd va vb => [some (.vdst vd), some (.vsrc va), some (.vsrc vb)]
  | .vfmaxMasked _ _ vd va vb => [some (.vdst vd), some (.vsrc va), some (.vsrc vb)]
  | .vrcpeMasked _ _ vd va => [some (.vdst vd), some (.vsrc va), none]
  | .vrsqeMasked _ _ vd va => [some (.vdst vd), some (.vsrc va), none]
  | .vexp2eMasked _ _ vd va => [some (.vdst vd), some (.vsrc va), none]
  | .vlog2eMasked _ _ vd va => [some (.vdst vd), some (.vsrc va), none]
  | .vtanheMasked _ _ vd va => [some (.vdst vd), some (.vsrc va), none]
  | .vfabsMasked _ _ vd va => [some (.vdst vd), some (.vsrc va), none]
  | .vfnegMasked _ _ vd va => [some (.vdst vd), some (.vsrc va), none]
  | .vfclassMasked _ _ vd va => [some (.vdst vd), some (.vsrc va), none]
  | .vcmpeqMasked _ _ md va vb => [some (.mdst md), some (.vsrc va), some (.vsrc vb)]
  | .vcmpneMasked _ _ md va vb => [some (.mdst md), some (.vsrc va), some (.vsrc vb)]
  | .vcmpltMasked _ _ md va vb => [some (.mdst md), some (.vsrc va), some (.vsrc vb)]
  | .vcmpltuMasked _ _ md va vb => [some (.mdst md), some (.vsrc va), some (.vsrc vb)]
  | .vfcmpeqMasked _ _ md va vb => [some (.mdst md), some (.vsrc va), some (.vsrc vb)]
  | .vfcmpltMasked _ _ md va vb => [some (.mdst md), some (.vsrc va), some (.vsrc vb)]
  | .vfcmpleMasked _ _ md va vb => [some (.mdst md), some (.vsrc va), some (.vsrc vb)]
  | .vfcmpunMasked _ _ md va vb => [some (.mdst md), some (.vsrc va), some (.vsrc vb)]
  | .vmvMasked _ _ vd va => [some (.vdst vd), some (.vsrc va), none]
  | .vcvtwMasked _ _ vd va => [some (.vdst vd), some (.vsrc va), none]
  | .vcvtnMasked _ _ vd va => [some (.vdst vd), some (.vsrc va), none]
  | .vcvtfiMasked _ _ vd va => [some (.vdst vd), some (.vsrc va), none]
  | .vcvtifMasked _ _ vd va => [some (.vdst vd), some (.vsrc va), none]
  | .vrotr _ _ vd va s => [some (.vdst vd), some (.vsrc va), some (.src s)]
  | .vrotc _ _ vd va s => [some (.vdst vd), some (.vsrc va), some (.src s)]
  | .vbcst _ _ vd s => [some (.vdst vd), none, some (.src s)]
  | .vextr _ _ vd va s => [some (.vdst vd), some (.vsrc va), some (.src s)]
  | .vsetvl _ s => [none, none, some (.src s)]
  | .vcompress _ _ vd va s => [some (.vdst vd), some (.vsrc va), some (.dst s)]
  | .vexpand _ _ vd va s => [some (.vdst vd), some (.vsrc va), some (.src s)]
  | .vredi _ _ vd va s => [some (.vdst vd), some (.vsrc va), some (.dst s)]
  | .mand _ _ md ma mb => [some (.mdst md), some (.msrc ma), some (.msrc mb)]
  | .mor _ _ md ma mb => [some (.mdst md), some (.msrc ma), some (.msrc mb)]
  | .mxor _ _ md ma mb => [some (.mdst md), some (.msrc ma), some (.msrc mb)]
  | .mandn _ _ md ma mb => [some (.mdst md), some (.msrc ma), some (.msrc mb)]
  | .mnot _ _ md ma => [some (.mdst md), some (.msrc ma), none]
  | .mset _ _ md => [some (.mdst md), none, none]
  | .mclr _ _ md => [some (.mdst md), none, none]
  | .mmov _ _ md ma => [some (.mdst md), some (.msrc ma), none]
  | .twr _ _ t va => [some (.tdst t), some (.vsrc va), none]
  | .trd _ _ vd t => [some (.vdst vd), some (.tsrc t), none]
  | .psadd _ _ ps va => [some (.ldst ps), some (.vsrc va), none]
  | .psrd _ _ vd ps => [some (.vdst vd), some (.lsrc ps), none]
  | .psclr _ _ ps => [some (.ldst ps), none, none]
  | .vredadd _ _ vd va => [some (.vdst vd), some (.vsrc va), none]
  | .vredmax _ _ vd va => [some (.vdst vd), some (.vsrc va), none]
  | .vfredadd _ _ vd va => [some (.vdst vd), some (.vsrc va), none]
  | .krsum _ _ vd va ms => [some (.vdst vd), some (.vsrc va), some (.msrc ms)]
  | .krmean _ _ vd va ms => [some (.vdst vd), some (.vsrc va), some (.msrc ms)]
  | .kvcnt _ _ vd ms => [some (.vdst vd), some (.msrc ms), none]
  | .kmrd _ _ md va => [some (.mdst md), some (.vsrc va), none]
  | .srrd _ d _ => [some (.dst d), none, none]
  | .srwr _ a _ => [none, some (.src a), none]
  | .syscall _ d a b => [some (.dst d), some (.src a), some (.src b)]
  | .tickwt _ a => [none, some (.src a), none]
  | .framerd _ d _ => [some (.dst d), none, none]
  | .cpt _ a b => [some (.src a), some (.src b)]
  | .cpc _ a b => [some (.src a), some (.src b)]
  | .cpx _ a b => [some (.src a), some (.src b)]
  | .cptr _ a b => [some (.src a), some (.src b)]
  | .cpm _ a b => [some (.src a), some (.src b)]
  | .cpz _ a b => [some (.src a), some (.src b)]
  | .cpd _ a b => [some (.src a), some (.src b)]
  | .bkrun _ a b => [some (.src a), some (.src b)]
  | .bkrst _ => [none, none]
  | .bkfin _ => [none, none]
  | .bkdrain _ a b => [some (.src a), some (.src b)]
  | .bkshape _ a => [some (.src a), none]
  | .dmma _ a b => [some (.src a), some (.src b)]
  | .dmmac _ a b => [some (.src a), some (.src b)]
  | .ddrain _ a b => [some (.src a), some (.src b)]
  | .dbyp _ a => [some (.src a), none]
  | .dclr _ => [none, none]
  | .sortw _ a b => [some (.src a), some (.src b)]
  | .swapw _ a => [some (.src a), none]
  | .wpin _ a b => [some (.src a), some (.src b)]
  | .moload _ a b => [some (.src a), some (.src b)]
  | .mobase _ a b => [some (.src a), some (.src b)]
  | .mostart _ a => [some (.src a), none]
  | .mostop _ a => [some (.src a), none]
  | .txfer _ a b => [some (.src a), some (.src b)]
  | .gather _ a b => [some (.src a), some (.src b)]
  | .gwait _ a => [some (.src a), none]
  | .msend _ a b => [some (.src a), some (.src b)]
  | .ksend _ a b => [some (.src a), some (.src b)]
  | .amtset _ a b => [some (.src a), some (.src b)]
  | .amtclr _ a => [some (.src a), none]
  | .rep _ _ => []
  | .intervalPulse _ _ _ => []
  | .slipRepeat _ => []
  | .frameComplete _ => []
  | .frameDone _ _ _ => []
  | .nodeRelease _ _ => []
  | .jpushDue _ => []
  | .selection _ => []
  | .loadingComplete _ => []
  | .contextSwitch _ => []
  | .retirement _ => []
  | .park _ => []
  | .evaluationStart _ => []
  | .submit _ _ => []
  | .launchStart _ => []
  | .launchActivate _ => []
  | .launchExchange _ _ _ _ => []
  | .pgtimeout _ => []
  | .refusalNotice _ _ => []
  | .launchEnd _ => []
  | .copyExecute _ _ _ _ _ _ => []
  | .copyComplete _ _ _ => []
  | .pageRequestGroup _ => []
  | .pageResponse _ _ _ => []
  | .ceinv _ _ => []
  | .fradd _ _ => []
  | .sortComplete _ => []
  | .gatherComplete _ _ => []
  | .txferComplete _ => []
  | .sharedReadStart _ _ => []
  | .bucketExpansion _ => []
  | .bucketRetire _ _ => []
  | .denseCommit _ => []
  | .predictionResolve _ => []
  | .queueRefill _ _ => []
  | .messageHeader _ _ _ _ _ _ _ _ _ => []
  | .acknowledgement _ _ _ => []
  | .nomatch _ _ _ => []
  | .attemptTimeout _ _ _ => []
  | .newAttempt _ _ _ => []
  | .kerfBlock _ _ _ _ => []
  | .endMarker _ => []
  | .kerfDeadline _ => []
  | .etick _ _ => []
  | .discardNotice _ _ => []
  | .redirectNotice _ _ => []
  | .moved _ _ _ => []
  | .hostAccess _ _ _ _ _ _ => []
  | .atomicop _ _ _ _ _ _ _ => []
  | .atsInvalidation _ _ _ => []
  | .functionLevelReset _ => []
  | .d3hot _ _ => []
  | .moduleReset => []
  | .rst _ => []
  | .svc _ => []
  | .romboot => []
  | .train _ => []
  | .portTraining _ _ _ => []
  | .retrain _ _ => []
  | .preempt _ _ => []
  | .stopPoint _ => []
  | .stopTimeout _ => []
  | .saveComplete _ => []
  | .resume _ _ => []
  | .restoreComplete _ => []
  | .discard _ _ => []
  | .discardComplete _ => []
  | .brkgo _ _ => []
  | .svcdone _ _ => []
  | .migctlGo _ _ _ => []
  | .handOver _ _ _ => []
  | .pagePull _ _ _ _ _ => []
  | .pagePush _ _ _ _ _ => []
  | .migrationDone _ => []
  | .migrationLinkFailure _ => []
  | .imgctlGo _ _ => []
  | .imageLoadEnd _ _ _ => []
  | .attctlGo _ => []
  | .attestationReport => []
  | .hwfault _ => []
  | .linkfatal _ => []
  | .ftWrite _ _ _ => []
  | .transWrite _ _ _ => []
  | .registerWrite _ _ _ => []
  | .accessPerformed _ _ _ _ _ => []
  | .denseRetire _ _ => []
  | .level4PhaseMessage _ _ _ => []
  | .migrationAbort _ => []
  | .invalidationComplete _ => []
  | .pageRequestInterfaceEnable _ _ => []
  | .auxiliaryPower _ => []

end Sys2Proof
end

