-- ==== Sys2Proof/WellFormed.lean ====
section
/-! DEFINITION. Well-formed instructions, and the legality of a word in the stream that issues it (spec/02_instruction_words.md R47-R49, R58-R61; 04 R92). -/

namespace Sys2Proof

/-- The literal that a field names. -/
def Role.lit? : Role → Option W32
  | .src (.lit w) => some w
  | _ => none

/-- The literals of a word, in field order. -/
def Instr.lits (i : Instr) : List W32 := i.roles.filterMap Role.lit?

/-- The words an instruction occupies: 2 with a literal word, else 1 (02 R42). -/
def Instr.words (i : Instr) : Nat := 1 + i.lits.length

/-- The one word that would decode but is no instruction: all zero (02 R61 case 1). -/
def Instr.zeroWord : Instr := .add (.onTrue 0) (.s 0) (.s 0) (.s 0)

/-- A well-formed instruction word: at most one literal (02 R47), and not the word that R61 case 1 takes out. -/
def Instr.wf (i : Instr) : Bool :=
  i.isWord && decide (i.lits.length ≤ 1) && decide (i ≠ Instr.zeroWord)

/-- A queue specifier named by a field. -/
inductive QueueName where
  | sq (n : Fin 4)
  | vq (n : Fin 4)
  | vqs
deriving DecidableEq, Repr

def Scalar.queue? : Scalar → Option QueueName
  | .sq n => some (.sq n)
  | _ => none

def SDst.queue? : SDst → Option QueueName
  | .sq n => some (.sq n)
  | _ => none

def VReg.queue? : VReg → Option QueueName
  | .vq n => some (.vq n)
  | .vqs => some .vqs
  | .v _ => none

/-- The queue that a field names. -/
def Role.queue? : Role → Option QueueName
  | .src x => x.queue?
  | .dst x => x.queue?
  | .rw x => x.queue?
  | .vsrc x => x.queue?
  | .vdst x => x.queue?
  | .vrw x => x.queue?
  | _ => none

/-- Has a list no element twice? -/
def noRepeat [DecidableEq α] : List α → Bool
  | [] => true
  | x :: xs => !xs.contains x && noRepeat xs

/-- Does a stream own the scalar register (04 R91)? -/
def ownsScalar (k : StreamKind) (n : Fin 56) : Bool :=
  match k with
  | .access => decide (n.val < 48)
  | .execute => decide (48 ≤ n.val)

/-- Does a stream own the predicate register (04 R91)? -/
def ownsPred (k : StreamKind) (p : Pred) : Bool :=
  match k with
  | .access => decide (p.val < 8)
  | .execute => decide (8 ≤ p.val)

/-- May a stream write this destination (04 R92; 02 R48)? zr belongs to no stream. -/
def dstOk (k : StreamKind) : SDst → Bool
  | .s n => ownsScalar k n
  | .sq _ => k == .access
  | .zr => true
  | .lr => k == .access
  | .sp => k == .access

/-- Is the use of a field legal in the stream (02 R48, R49; 04 R92)? -/
def Role.ok (k : StreamKind) : Role → Bool
  | .src (.sq _) => k == .execute
  | .src _ => true
  | .dst x => dstOk k x
  | .rw (.sq _) => false
  | .rw x => dstOk k x
  | .psrc _ => true
  | .pdst p => ownsPred k p
  | .vsrc (.v _) => k == .execute
  | .vsrc (.vq _) => k == .execute
  | .vsrc .vqs => k == .access
  | .vdst (.v _) => k == .execute
  | .vdst (.vq _) => k == .access
  | .vdst .vqs => k == .execute
  | .vrw (.v _) => k == .execute
  | .vrw _ => false
  | _ => k == .execute

/-- Is the vector field one of v0-v15? -/
def VReg.isV : VReg → Bool
  | .v _ => true
  | _ => false

/-- System registers that a stream may name (14 R384): 0 to 8, of which FSR and VCFG belong to the execute stream. -/
def srReadable (k : StreamKind) (n : BitVec 6) : Bool := decide (n.toNat ≤ 8) && (k == .execute || (n ≠ 2#6 && n ≠ 3#6))

/-- What the descriptions of single instructions rule illegal (02 R61 case 7). -/
def Instr.shapeOk (k : StreamKind) : Instr → Bool
  | .vcvtw _ _ vd va | .vcvtn _ _ vd va | .vcvtwMasked _ _ vd va | .vcvtnMasked _ _ vd va => vd.isV && va.isV   -- 07 R178
  | .vrotr _ _ vd va _ | .vrotc _ _ vd va _ | .vextr _ _ vd va _ => vd.isV && va.isV                               -- 07 R180
  | .vcompress _ _ vd va _ | .vexpand _ _ vd va _ | .vredi _ _ vd va _ => vd.isV && va.isV                         -- 07 R182-R184
  | .vredadd _ _ vd va | .vredmax _ _ vd va | .vfredadd _ _ vd va => vd.isV && va.isV                              -- 07 R185
  | .twr _ _ _ va => va.isV                                                                                       -- 07 R186
  | .trd _ _ vd _ => vd.isV
  | .loop _ a _ => a ≠ .zr                                                                                        -- 04 R108
  | .aadd _ o c _ _ _ | .aand _ o c _ _ _ | .aor _ o c _ _ _ | .axor _ o c _ _ _
  | .amin _ o c _ _ _ | .amax _ o c _ _ _ | .aswp _ o c _ _ _ => o ≠ .relaxed || c == .unit                        -- 06 R147
  | .acas _ o c _ d _ => (o ≠ .relaxed || c == .unit) &&
      (match d with | .s n => decide (n.val % 2 = 0 ∧ n.val ≤ 46) | _ => false)
  | .fence _ o _ => o ≠ .relaxed                                                                                  -- 06 R144
  | .publish _ o _ _ => o == .release || o == .acqrel
  | .krsum _ _ vd va _ | .krmean _ _ vd va _ => vd.isV && va.isV                                                  -- 13 R370
  | .kvcnt _ _ vd _ => vd.isV
  | .kmrd _ _ _ va => va.isV
  | .srrd _ _ n => srReadable k n                                                                                 -- 14 R383, R384
  | .srwr _ _ n => srReadable k n
  | .framerd _ _ n => decide (n.toNat ≤ 2)
  | _ => true

/-- Is a word legal in the stream (02 R61 cases 6 to 8)? What a control core may issue besides stands with the words (`WordInfo.legal`). -/
def Instr.legal (k : StreamKind) (i : Instr) : Bool :=
  i.inStream k && i.roles.all (Role.ok k) && noRepeat (i.roles.filterMap Role.queue?) && i.shapeOk k

end Sys2Proof
end

