-- ==== Sys2Proof/Legal.lean ====
section
/-! DEFINITION. What a word shows to the machine before it issues: its guard, the streams that may issue it, its operands with their roles, and what its description rules illegal (spec/02_instruction_words.md R60-R62; spec/11_jigs_queues_timetables.md R324). -/

namespace Sys2Proof

/-- The facts about a word that legality, guards and holds read. -/
structure WordInfo where
  guard : Guard
  access : Bool
  execute : Bool
  /-- A cluster control core may issue it (11 R324). -/
  ctl : Bool
  roles : List Role
  /-- Nothing in its own description rules it illegal (02 R61 case 7). -/
  shape : Bool
  /-- An engine command that may issue on a predicted arm (04 R114). -/
  engine : Bool
  /-- A masked form, which reads m0 (02 R59). -/
  masked : Bool := false
deriving DecidableEq, Repr

/-- A word of the access stream that a control core may issue too. -/
def accCtl (g : Guard) (roles : List Role) : WordInfo :=
  { guard := g, access := true, execute := false, ctl := true, roles := roles, shape := true, engine := false }

/-- A word of the access stream only. -/
def acc (g : Guard) (roles : List Role) : WordInfo :=
  { guard := g, access := true, execute := false, ctl := false, roles := roles, shape := true, engine := false }

/-- A word of the execute stream only. -/
def exe (g : Guard) (roles : List Role) : WordInfo :=
  { guard := g, access := false, execute := true, ctl := false, roles := roles, shape := true, engine := false }

/-- A word of both streams and of control cores. -/
def both (g : Guard) (roles : List Role) : WordInfo :=
  { guard := g, access := true, execute := true, ctl := true, roles := roles, shape := true, engine := false }

/-- The words an instruction occupies: 2 with a literal word, else 1 (02 R42). -/
def WordInfo.words (w : WordInfo) : Nat := 1 + (w.roles.filterMap Role.lit?).length

/-- Is the use of a field legal for a control core (11 R324)? All registers are its own; every queue specifier is illegal. -/
def Role.okCtl (r : Role) : Bool :=
  r.queue?.isNone &&
  match r with
  | .src _ | .dst _ | .rw _ | .psrc _ | .pdst _ => true
  | _ => false

/-- Is a word legal for a stream, or for a control core (02 R61 cases 6 to 8)? -/
def WordInfo.legal (w : WordInfo) (k : StreamKind) (ctl : Bool) : Bool :=
  (match k with | .access => w.access | .execute => w.execute)
    && (!ctl || w.ctl)
    && w.roles.all (fun r => if ctl then r.okCtl else r.ok k)
    && noRepeat (w.roles.filterMap Role.queue?)
    && w.shape

end Sys2Proof
end

