-- ==== Sys2Proof/Config.lean ====
section
/-! DEFINITION. What the spec leaves open: the free values. Each is an opaque constant without a body, so nothing can be proved about its value (notes/assumptions/4.md, 5.md, 6.md, 12.md). -/

namespace Sys2Proof.Config

/-- An undefined 64-bit value (02 R51: a read before a bound), drawn by the counter `freeCtr` of the state. -/
opaque freeWord : Nat → W64
/-- An undefined element `e` of a vector, tile or latch read before its bound (02 R51). -/
opaque freeElem : Nat → Nat → W32
/-- An undefined bit `e` of a mask read before its bound (02 R51). -/
opaque freeBit : Nat → Nat → Bool
/-- A byte whose value the spec does not state (for example of an expired transient page, 13 R374). -/
opaque freeByte : Nat → Nat → Byte
/-- A number of clocks that the spec does not state, by which a clock counter advances (04 R116, 01 R38). -/
opaque freeClocks : Nat → Nat
/-- DEVID (15 R411): fused at manufacture. -/
opaque deviceId : W64
/-- The device's RSA-3072 identity key (15 R424): its modulus, and its private exponent, which never leaves the package. -/
opaque identityModulus : List Byte
opaque identityExponent : Nat
/-- Relzon's key, which signs the identity certificate (15 R424). -/
opaque relzonModulus : List Byte
opaque relzonExponent : Nat

end Sys2Proof.Config
end

