-- ==== Sys2Proof/Machine/Table.lean ====
section
/-! DEFINITION. Tables: the model's plain-data form of an array or a record store, a list of key and value pairs. A lookup answers the first pair of a key, or a default the reader names; putting a key keeps the order of the keys. -/

namespace Sys2Proof.Machine

/-- Pairs of a key and a value. -/
abbrev Table (α : Type) := List (Nat × α)

/-- The value of a key, if the table has one. -/
def tget? {α : Type} : Table α → Nat → Option α
  | [], _ => none
  | (j, v) :: r, k => if j = k then some v else tget? r k

/-- The value of a key, or `d`. -/
def tget {α : Type} (d : α) (t : Table α) (k : Nat) : α := (tget? t k).getD d

/-- Give a key a value. -/
def tput {α : Type} : Table α → Nat → α → Table α
  | [], k, v => [(k, v)]
  | (j, w) :: r, k, v =>
    if j = k then (k, v) :: r
    else if k < j then (k, v) :: (j, w) :: r
    else (j, w) :: tput r k v

/-- Take a key out. -/
def tdel {α : Type} : Table α → Nat → Table α
  | [], _ => []
  | (j, w) :: r, k => if j = k then tdel r k else (j, w) :: tdel r k

/-- Change the value of a key, which reads as `d` when it has none. -/
def tmod {α : Type} (d : α) (t : Table α) (k : Nat) (f : α → α) : Table α := tput t k (f (tget d t k))

/-- Put many pairs, first to last. -/
def tputAll {α : Type} (t : Table α) (kvs : List (Nat × α)) : Table α :=
  kvs.foldl (fun t kv => tput t kv.1 kv.2) t

/-- The first index of a list at which a test holds. -/
def findIdx? {α : Type} (p : α → Bool) : List α → Option Nat
  | [] => none
  | x :: xs => if p x then some 0 else (findIdx? p xs).map (· + 1)

/-- A list with its element `i` changed. -/
def lmod {α : Type} (l : List α) (i : Nat) (f : α → α) : List α :=
  match l, i with
  | [], _ => []
  | x :: xs, 0 => f x :: xs
  | x :: xs, i + 1 => x :: lmod xs i f

/-- A list without its element `i`. -/
def ldel {α : Type} (l : List α) (i : Nat) : List α :=
  match l, i with
  | [], _ => []
  | _ :: xs, 0 => xs
  | x :: xs, i + 1 => x :: ldel xs i

end Sys2Proof.Machine
end

