-- ==== Sys2Proof/Machine/TaskState.lean ====
section
/-! DEFINITION. The state of a task: its registers, streams, queues, accesses and window (spec/01 R22-R25, spec/02 R42, R55, spec/04 R91-R98, spec/05 R120-R124, spec/06 R140-R148). A cluster control core, which runs no task, holds the same record (spec/11 R324). -/

namespace Sys2Proof.Machine

/-- Who issues words: a stream of a core's running task, or a cluster control core. -/
inductive Agent where
  | access (core : Nat)
  | execute (core : Nat)
  | control (cluster : Nat)
deriving DecidableEq, Repr

/-- Target types of a window entry (05 R121). -/
inductive WinType where
  | unit | peer | clus | die | wbank | gbuf | defer | comp | veneer
deriving DecidableEq, Repr

/-- A valid entry of a window (05 R120): virtual base and target offset in 4 KiB pages. -/
structure WinEntry where
  vbase : Nat
  size : Nat
  x : Bool
  w : Bool
  rd : Bool
  toff : Nat
  typ : WinType
  index : Nat
  back : Bool
deriving DecidableEq, Repr

/-- Where a translated access goes: a byte of the flat memory space, a read that returns zeros, a veneered buffer whose copy is chosen when the access is performed (06 R156), a barrier, or a queue unit. -/
inductive Target where
  | byte (addr : Nat)
  | zeros
  | veneer (stack toff size off : Nat)
  /-- A transfer barrier, by its global number (08 R213). -/
  | barrier (b : Nat)
  /-- The queue unit of a cluster (11 R315). -/
  | queueUnit (g : Nat)
deriving DecidableEq, Repr

/-- The eight atomics (06 R147). -/
inductive AtomicOp where
  | add | and | or | xor | min | max | swp | cas
deriving DecidableEq, Repr

/-- The cell instructions (12 R336). -/
inductive CellOp where
  | mk | ld | fill | fail
deriving DecidableEq, Repr

/-- What a queued access does at its home. -/
inductive AccOp where
  | load
  | store
  | atomic (op : AtomicOp) (wide : Bool) (swap : W64)
  /-- `arg`: the 32 bytes that CMK and CFILL carry, the code of CFAIL. -/
  | cell (op : CellOp) (arg : List Byte)
  | publish
  /-- BARINIT, BARX, BARRD (08 R214). -/
  | barInit
  | barAdd
  | barRead
deriving DecidableEq, Repr

/-- One element of a queued access: number, virtual address, target, bytes, the data or operand it carries, and whether it has been performed. -/
structure AccElem where
  j : Nat
  va : W64
  tgt : Target
  n : Nat
  data : W64
  done : Bool
deriving DecidableEq, Repr

/-- Where a load or an atomic puts its result. -/
inductive LoadDst where
  | none
  | reg (k : Nat)
  | sq (n : Nat)
  | vq (n : Nat)
deriving DecidableEq, Repr

/-- What a waiting CLD receives (12 R338): the value, or the failure code. -/
inductive CellAnswer where
  | value (v : W64)
  | failed (code : Nat)
deriving DecidableEq, Repr

/-- A word waiting in the load queue or the store queue (06 R140). `fwd`: it holds a forwarding-table entry (R142). -/
structure Access where
  seq : Nat
  pc : W64
  op : AccOp
  ord : MemOrder
  scope : Scope
  dst : LoadDst
  fwd : Bool
  elems : List AccElem
  /-- A load that took a byte by forwarding (06 R160). -/
  hit : Bool
  /-- The lowest element of a store that met a cell outside VALUE, with its address (12 R335). -/
  busy : Option (Nat × W64)
  /-- A CLD that is recorded as a waiter, and the answer that a task without a running context has been given (12 R338, R348). -/
  waiting : Bool
  answer : Option CellAnswer
deriving DecidableEq, Repr

/-- A marker among the accesses: a fence or a dovetail (06 R145, R146). -/
inductive MarkKind where
  | fence (ord : MemOrder) (scope : Scope)
  | dovetail
deriving DecidableEq, Repr

/-- A marker with the order number of its word. -/
structure Mark where
  seq : Nat
  kind : MarkKind
deriving DecidableEq, Repr

/-- An entry of sq0-sq3 or of the constant queue (04 R95, R96): the value is absent until a load's data arrive. -/
structure SqEntry where
  seq : Nat
  val : Option W64
deriving DecidableEq, Repr

/-- An entry of vq0-vq3: a row group, unlisted elements 0; poppable when `ready`. -/
structure VqEntry where
  seq : Nat
  data : Table W32
  ready : Bool
deriving DecidableEq, Repr

/-- An entry of vqs: a row group with its store mask (07 R166). -/
structure VqsEntry where
  data : Table W32
  mask : BitVec 256
deriving DecidableEq, Repr

/-- The queues between the streams (04 R95). -/
structure Queues where
  sq : Table (List SqEntry)
  vq : Table (List VqEntry)
  vqs : List VqsEntry
  cq : List SqEntry
  pq : List Bool
deriving DecidableEq, Repr

/-- What a task waits on (01 R22; 14 R396). -/
inductive WaitFor where
  | barrier (b : Nat)
  /-- A CLD on the cell of this access, recorded as a waiter (12 R346). -/
  | cell (seq : Nat)
  /-- Arrived at a domain phase of a level, waiting for the count to pass `count` (01 R31). -/
  | phase (level count : Nat)
  /-- A full task queue or event queue. -/
  | queue
  /-- An empty queue between the streams (04 R95). -/
  | pop
  | ring
  /-- A service request: no slot yet, or the slot that holds it (14 R386). -/
  | service (slot : Option Nat)
  | tick (t : Nat)
deriving DecidableEq, Repr

/-- Is a task WAITING that stands on it (01 R22; 11 R320, R326; 14 R386)? -/
def WaitFor.waiting : WaitFor → Bool
  | .barrier _ | .cell _ | .phase .. | .pop | .ring | .service _ | .tick _ => true
  | .queue => false

/-- Why the execute stream's issue is held, as the rendezvous of 04 R94 reads it. -/
inductive XHold where
  | none
  | emptyQueue
  | fullQueue
  | stoppedEngine
deriving DecidableEq, Repr

/-- A predicted branch (04 R113, R114): the predicate guessed, whether it was guessed taken, the address of the other arm, and the guard's sense. -/
structure Arm where
  pred : Pred
  sense : Bool
  taken : Bool
  other : W64
deriving DecidableEq, Repr

/-- The access stream's own state. `seq` numbers its words; `pend` names registers that wait for a load or an atomic and the word that writes them (04 R98). -/
structure AccessSide where
  pc : W64
  ended : Bool
  rep : Nat
  /-- The literal word of the target of a REP, once a repeat has fetched it (02 R55). -/
  lit : Option W32
  seq : Nat
  pend : Table Nat
  loads : List Access
  stores : List Access
  marks : List Mark
  wait : Option WaitFor
  /-- A stream rendezvous has been started by the word that holds (04 R116). -/
  rdv : Bool
  /-- What the word that holds has read at its issue, and does not read again (11 R309, R315, R326; 08 R199). -/
  kept : Option (List Byte)
  /-- Exact-class messages issued and not performed: word number and command index (06 R152). -/
  exact : List (Nat × BitVec 32)
deriving DecidableEq, Repr

/-- The execute stream's own state. `clk` is the clock of its next issue slot, `ready` the clock at which each register's bound has elapsed (02 R51; notes/assumptions/5.md), `unlanded` the predicates past their bound that have not landed (04 R113). -/
structure ExecSide where
  pc : W64
  ended : Bool
  rep : Nat
  /-- The literal word of the target of a REP, once a repeat has fetched it (02 R55). -/
  lit : Option W32
  clk : Nat
  ready : Table Nat
  unlanded : List Pred
  hold : XHold
  arm : Option Arm
deriving DecidableEq, Repr

/-- A task (01 R17, R24). Register keys are the scalar fields of 02 R46: 0-55, 61 lr, 62 sp. -/
structure Task where
  ident : W64
  jig : Nat
  iter : List Nat
  regs : Table W64
  preds : BitVec 12
  entry : Table W64
  a : AccessSide
  x : ExecSide
  q : Queues
  window : List WinEntry
  sels : BitVec 4
  lineage : List Nat
  jarg : W64
  carg : W64
  cmdx : BitVec 32
  scoreboard : Bool
  /-- The number of the access stream's next word when scoreboard mode began (14 R401). -/
  sbSeq : Nat
  /-- Stopped at a break (14 R381). -/
  brk : Bool
  /-- Since the last interval pulse the task has been RUNNING, and WAITING (01 R38). -/
  acted : Bool
  waited : Bool
deriving DecidableEq, Repr

def Queues.empty : Queues := { sq := [], vq := [], vqs := [], cq := [], pq := [] }

def AccessSide.start (pc : W64) : AccessSide :=
  { pc := pc, ended := false, rep := 0, lit := none, seq := 0, pend := [], loads := [], stores := [], marks := [], wait := none, rdv := false, kept := none, exact := [] }

def ExecSide.start (pc : W64) : ExecSide :=
  { pc := pc, ended := false, rep := 0, lit := none, clk := 0, ready := [], unlanded := [], hold := .none, arm := none }

/-- A task record with every register 0 and nothing queued (04 R95, 01 R24). -/
def Task.empty : Task :=
  { ident := 0#64, jig := 0, iter := [], regs := [], preds := 0#12, entry := [], a := .start 0#64, x := .start 0#64,
    q := .empty, window := [], sels := 0#4, lineage := [], jarg := 0#64, carg := 0#64, cmdx := 0#32, scoreboard := false, sbSeq := 0, brk := false, acted := true, waited := false }

/-- The states of a context (01 R22). A WAITING task is a running one whose access stream holds a wait. -/
inductive CtxState where
  | free
  /-- LOADING; `restoring` for a parked task on its way back (01 R25, R28). -/
  | loading (restoring : Bool)
  | staged
  | running
deriving DecidableEq, Repr

end Sys2Proof.Machine
end

