-- ==== Sys2Proof/Machine/EngineState.lean ====
section
/-! DEFINITION. The state of a core's engines: bucket engine (spec/09 R258-R273), gather unit (R256, R257), dense engine (spec/10 R275-R295), tile moves (spec/07 R187, R188) and commit buffer (spec/11 R327). Commands hold virtual addresses: the window of their task stays as it is until they retire (05 R124, 01 R23). -/

namespace Sys2Proof.Machine

open Sys2Proof

/-- What every accepted command carries: its number among the core's commands, its command index, whether it posts a record, whether it waits in the commit buffer for the resolution of a prediction (11 R327), and whether it has left the buffer on a right one, so that its writes keep the order of acceptance (R328). -/
structure CmdTag where
  num : Nat
  idx : BitVec 32
  recEvt : Bool
  held : Bool
  arm : Bool
deriving DecidableEq, Repr

/-- A window through which an engine reaches memory: the agent it acts for, its window and its captured selectors. -/
structure View where
  a : Agent
  window : List WinEntry
  sels : BitVec 4
deriving DecidableEq, Repr

/-- A shared read (09 R255): mask of cores and leader. A private read has mask 0. -/
structure Share where
  mcast : BitVec 24
  lead : Nat
deriving DecidableEq, Repr

/-- The fields of a BKRUN that its expansion reads (09 R268); G of its tile, read at acceptance (R272); its tile, once it has been read before the expansion: by a shared read, or on a predicted arm (R255; 11 R327). -/
structure BkRun where
  entry : Nat
  tile : W64
  ascl : W64
  azp : W64
  afe : Nat
  half : Nat
  rowb : Nat
  share : Share
  g : Nat
  data : Option (List Byte)
deriving DecidableEq, Repr

/-- May its tile be taken: the read is private, or has been performed? -/
def BkRun.ready (r : BkRun) : Bool := r.share.mcast == 0#24 || r.data.isSome

/-- Bucket-engine commands (09 R268-R270). -/
inductive BkOp where
  | run (r : BkRun)
  | rst
  | fin
  | drain (a : W64) (stride : Nat) (clr : Bool)
  | shape (t : Bool)
deriving DecidableEq, Repr

/-- An accepted bucket command with its bucket depth (R272), and, once its work has ended, the words that it still has to write. -/
structure BkCmd where
  tag : CmdTag
  op : BkOp
  depth : Nat
  writes : List (W64 × W32)
deriving DecidableEq, Repr

/-- The bucket engine (R258). Unlisted buckets and accumulators are 0: key 8 lane + c, and lane. -/
structure BucketEng where
  buckets : Table Int
  acc : Table W32
  shapeT : Bool
  /-- The open group, with the BKRUN that opened it. -/
  openGrp : Option (Nat × BkRun)
  bflags : Flags
  store : Table W32
  base : Nat
  empc : Nat
  run : Bool
  queue : List BkCmd
  /-- Commands whose expansion has ended and that have not retired. -/
  ended : List BkCmd
deriving DecidableEq, Repr

def BucketEng.reset : BucketEng :=
  { buckets := [], acc := [], shapeT := false, openGrp := none, bflags := 0#6, store := [], base := 0, empc := 0, run := false,
    queue := [], ended := [] }

/-- A GATHER accepted and not completed (R256); the bytes of its half with their places, once they have been read on a predicted arm (11 R327). -/
structure GatherCmd where
  tag : CmdTag
  half : Nat
  src : W64
  pstr : Nat
  tstr : Nat
  nline : Nat
  llen : Nat
  idxa : Option W64
  fills : Option (List (Nat × List Byte))
deriving DecidableEq, Repr

/-- The bytes of a dense operand: its rows, its scales, its zero points (10 R278). -/
structure OperandBytes where
  rows : List (List Byte)
  scales : List Byte
  zeros : List Byte
deriving DecidableEq, Repr

/-- An operand of a dense product (10 R286); its bytes, once they have been read before the MAC work: by a shared read, or on a predicted arm (R295; 11 R327). -/
structure DenseOperand where
  base : W64
  plane : W64
  stride : Nat
  fe : Nat
  share : Share
  data : Option OperandBytes
deriving DecidableEq, Repr

/-- May it be taken: the read is private, or has been performed? -/
def DenseOperand.ready (o : DenseOperand) : Bool := o.share.mcast == 0#24 || o.data.isSome

/-- Dense commands (10 R286-R288). -/
inductive DnOp where
  /-- DMMA, or DMMAC with `keep`. -/
  | mma (keep : Bool) (entry k asrc : Nat) (atrans : Bool) (a b : DenseOperand)
  | drain (a : W64) (stride dfe : Nat) (btr byp clr : Bool)
  | byp (fe : Nat) (trans : Bool)
  | clr
deriving DecidableEq, Repr

/-- An accepted dense command with its dense depth (R294); a drain that has read the bank has its flags and the words it still has to write. -/
structure DnCmd where
  tag : CmdTag
  op : DnOp
  depth : Nat
  readDone : Bool
  flags : Flags
  writes : List (W64 × W32)
deriving DecidableEq, Repr

/-- The dense engine (R275, R276). Unlisted elements are 0: key 64 i + j. -/
structure DenseEng where
  bank : Table W32
  /-- The bypass buffer: element bits, and scale and zero point of each block, by row and place. -/
  byp : Table Nat
  bypScale : Table Nat
  bypZero : Table Nat
  bypfe : Nat
  bypt : Bool
  dflags : Flags
  store : Table W32
  base : Nat
  empc : Nat
  run : Bool
  queue : List DnCmd
deriving DecidableEq, Repr

/-- BYPFE resets to 0x1 (R276). -/
def DenseEng.reset : DenseEng :=
  { bank := [], byp := [], bypScale := [], bypZero := [], bypfe := 1, bypt := false, dflags := 0#6, store := [], base := 0,
    empc := 0, run := false, queue := [] }

/-- A tile move accepted and not completed (07 R187, R188); the elements that a move to the tile has read on a predicted arm, with their places (11 R327). -/
structure TileCmd where
  tag : CmdTag
  tile : Tile
  toMem : Bool
  trans : Bool
  base : W64
  stride : Nat
  rows : Option (List (Nat × W32))
deriving DecidableEq, Repr

/-- The engines of a core; `num` numbers the commands that they accept. -/
structure Engines where
  bk : BucketEng
  dn : DenseEng
  gathers : List GatherCmd
  tiles : List TileCmd
  num : Nat
deriving DecidableEq, Repr

def Engines.reset : Engines := { bk := .reset, dn := .reset, gathers := [], tiles := [], num := 0 }

end Sys2Proof.Machine
end

