-- ==== Sys2Proof/Machine/CopyState.lean ====
section
/-! DEFINITION. The state of copy and sorting engines, the translation cache, page requests, bank selectors and the image table (spec/08_copy_engines.md R192-R243; spec/09 R248-R254; spec/15 R427). -/

namespace Sys2Proof.Machine

/-- The seven copy commands (08 R196) and the two message sends (13 R359). -/
inductive CopyOp where
  | cpt | cpc | cpx | cptr | cpm | cpz | cpd
  | msend | ksend
deriving DecidableEq, Repr

/-- A descriptor (08 R198). -/
structure CopyDesc where
  src : W64
  dst : W64
  xn : Nat
  yn : Nat
  zn : Nat
  srs : Nat
  sps : Nat
  drs : Nat
  dps : Nat
  fmt : Nat
  mcast : BitVec 24
  plane : W64
  res : W64
deriving DecidableEq, Repr

/-- The control word of a copy command (08 R197) or the completion fields of a SORTW (09 R252). -/
structure CopyCtl where
  seq : Bool
  recEvt : Bool
  baren : Bool
  bar : Nat
deriving DecidableEq, Repr

/-- Whose command it is: what an error against it, its record and its ordering name (08 R199, R211, R212). -/
structure Issuer where
  core : Nat
  task : W64
  idx : BitVec 32
  /-- The order number of the word among the task's words. -/
  seq : Nat
  lineage : Nat
  /-- The PCs at which the streams ended, once the task has retired (14 R378). -/
  pcs : Option (W64 × W64)
deriving DecidableEq, Repr

/-- What a command waits on. -/
inductive CopyWait where
  /-- A page request for a page of D-space and a kind (08 R226). -/
  | page (page : Nat) (write : Bool)
  /-- A free frame (08 R240). -/
  | ring
deriving DecidableEq, Repr

/-- How far an exact-class message has come (13 R362; 14 R405). -/
inductive MsgPhase where
  /-- The payload is being read. -/
  | reading
  /-- An attempt is on the link since this tick. -/
  | sent (tick : Nat)
  /-- An attempt has ended at this tick without an acknowledgement. -/
  | backoff (tick : Nat)
  /-- Answered MOVED: held until a redirect notice. -/
  | moved
  | acked
deriving DecidableEq, Repr

/-- A message of MSEND or KSEND (13 R358, R360): the payload read so far, and the kerf blocks that are sent marked invalid. -/
structure Msg where
  kerf : Bool
  len : Nat
  tag : Nat
  port : Nat
  dl : Nat
  seq : Nat
  attempts : Nat
  phase : MsgPhase
  bytes : List Byte
  bad : List Nat
deriving DecidableEq, Repr

/-- A copy command accepted and not completed. `row` counts rows over all planes, `x` the elements or bytes of the row that are done. -/
structure CopyCmd where
  by_ : Issuer
  op : CopyOp
  d : CopyDesc
  ctl : CopyCtl
  view : View
  row : Nat
  x : Nat
  wait : Option CopyWait
  /-- Faults met, by page (08 R229, R243). -/
  faults : Table Nat
  flags : Flags
  ddfull : Bool
  ringwait : Bool
  faulted : Bool
  n1 : Nat
  n2 : Nat
  /-- The zero points of a CPC that fill half a byte, once written: its high half follows with the next row (08 R203). -/
  zlast : Nat
  /-- Bytes read and written, by address in the command's own space, for the checksums (08 R218). -/
  sbytes : Table Byte
  dbytes : Table Byte
  /-- The message, for MSEND and KSEND. -/
  msg : Option Msg
  /-- Captured in its queue at a stop: it does not become active (14 R395, R397, R404). -/
  captured : Bool
deriving DecidableEq, Repr

/-- A SORTW accepted and not completed (09 R252). -/
structure SortCmd where
  by_ : Issuer
  view : View
  src : W64
  slot : Nat
  ctl : CopyCtl
  /-- The size of the bank tile, once it has been written. -/
  written : Option Nat
deriving DecidableEq, Repr

/-- An entry of the translation cache (08 R224): a run of pages of one size of a partition. Pages are counted in 4 KiB of D-space. -/
structure TlbEntry where
  part : Nat
  /-- The first page, and how many 4 KiB pages make one page of the run. -/
  first : Nat
  unit : Nat
  /-- The leaf of the first page. -/
  leaf : Nat
  /-- For each page of the run, the address of the table entry that holds its A and D: of a 64 KiB page the first of the sixteen (08 R221). -/
  homes : List Nat
deriving DecidableEq, Repr

/-- A page request that a partition's commands wait for (08 R227); `group` once it has been sent. -/
structure PageReq where
  page : Nat
  write : Bool
  cluster : Nat
  group : Option Nat
deriving DecidableEq, Repr

/-- A stack whose swap is pending (09 R248): whether a record is posted, to which cluster, with which index and task. -/
structure Pending where
  recEvt : Bool
  cluster : Nat
  core : Nat
  idx : BitVec 32
  task : W64
  lseq : Nat
deriving DecidableEq, Repr

/-- An image-table entry (15 R427). -/
structure ImgEntry where
  off : Nat
  state : Nat
  result : Nat
  len : Nat
  digest : List Byte
deriving DecidableEq, Repr

def ImgEntry.empty : ImgEntry := { off := 0, state := 0, result := 0, len := 0, digest := [] }

/-- A public key slot (15 R425). -/
structure PubKey where
  modulus : List Byte
  valid : Bool
deriving DecidableEq, Repr

end Sys2Proof.Machine
end

