-- ==== Sys2Proof/Machine/Counters.lean ====
section
/-! DEFINITION. The counters, in the order in which the counter blocks number them: chapters in reading order, tables and rows in order (spec/15_module_platform.md R414). A counter block holds only the counters of its kind of unit. -/

namespace Sys2Proof.Machine

/-- Counters of a stream core (01 R38, 04 R116, 05 R136, 06 R160, 07 R191, 09 R274, 10 R296, 11 R331, 12 R351). -/
inductive CoreCtr where
  | actclk | waitclk | idleclk
  | xholdclk | xqwaitclk | rdvclk | rdvcount | pqwaitclk | predcount | mispcount | qleft
  | sploads | spstores | spbankwait | peerin | urangewait
  | fwdhits | fwdfullclk | ordholdclk | atomics | publishes
  | vinstr | vrowclk | txfers | tilewaitclk
  | bkcmds | bkaccclk | bkfinwait | bksharewait | gathers | gwaitclk
  | dmcmds | dmmacclk | dmsharewait | dmqwaitclk
  | qwaitclk | rngwaitclk | cbholdclk
  | cellwaitclk
deriving DecidableEq, Repr

/-- Number of a core counter in its block (15 R414). -/
def CoreCtr.num (c : CoreCtr) : Nat := c.ctorIdx

/-- Add to a counter, modulo 2^64. -/
def ctrAdd (t : Table Nat) (k n : Nat) : Table Nat := tput t k ((tget 0 t k + n) % 2 ^ 64)

end Sys2Proof.Machine
end

