-- ==== Sys2Proof/Machine/Trap.lean ====
section
/-! DEFINITION. Trap classes, error codes and trap records (spec/14_traps_partitions_migration.md R376-R379). -/

namespace Sys2Proof.Machine

/-- The error codes by name (R379). -/
inductive TrapCode where
  | illegal | brk | qunderrun | pcalign | fetchwin | winmiss | winperm | wintype | compressed | misalign
  | transientexpired | fmtbad | vgroup | vcfgbad | txbad | cpbad | barrange | copyfault | ptbad | cellbusy
  | cmpcorrupt | cmpcoll | barover | barunder | wbbad | sortbad | sortrange | gtbad | bkmicro | bkseq | bklimit | mobad
  | bkopen | bkdesc | bktile | dmdesc | dmmicro | dmrange | dmlimit | dmdepth | jigbad | qbad | dombad | evqbad
  | rngbad | rngdup | cellbad | selfdep | evaldepth | cellstate | cellfail | msgbad | portbad | msgfail | amtbad | sysbad
  | bkdepth | eccunc | hwfault | linkfatal | migfail | hostdiscard
deriving DecidableEq, Repr

/-- The number of an error code (R379). -/
def TrapCode.code : TrapCode → Nat
  | .illegal => 0x01 | .brk => 0x02 | .qunderrun => 0x03 | .pcalign => 0x04
  | .fetchwin => 0x05 | .winmiss => 0x06 | .winperm => 0x07 | .wintype => 0x08
  | .compressed => 0x09 | .misalign => 0x0A | .transientexpired => 0x0B | .fmtbad => 0x0C
  | .vgroup => 0x0D | .vcfgbad => 0x0E | .txbad => 0x0F | .cpbad => 0x10
  | .barrange => 0x11 | .copyfault => 0x12 | .ptbad => 0x13 | .cellbusy => 0x14
  | .cmpcorrupt => 0x15 | .cmpcoll => 0x16 | .barover => 0x17 | .barunder => 0x18
  | .wbbad => 0x19 | .sortbad => 0x1A | .sortrange => 0x1B | .gtbad => 0x1C
  | .bkmicro => 0x1D | .bkseq => 0x1E | .bklimit => 0x1F | .mobad => 0x20
  | .bkopen => 0x21 | .bkdesc => 0x22 | .bktile => 0x23 | .dmdesc => 0x24
  | .dmmicro => 0x25 | .dmrange => 0x26 | .dmlimit => 0x27 | .dmdepth => 0x28
  | .jigbad => 0x29 | .qbad => 0x2A | .dombad => 0x2B | .evqbad => 0x2C
  | .rngbad => 0x2D | .rngdup => 0x2E | .cellbad => 0x2F | .selfdep => 0x30
  | .evaldepth => 0x31 | .cellstate => 0x32 | .cellfail => 0x33 | .msgbad => 0x34
  | .portbad => 0x35 | .msgfail => 0x36 | .amtbad => 0x37 | .sysbad => 0x38
  | .bkdepth => 0x39 | .eccunc => 0x80 | .hwfault => 0x81 | .linkfatal => 0x82
  | .migfail => 0x83 | .hostdiscard => 0x84

/-- The trap classes (R376). -/
inductive TrapClass where
  | illegal | program | brk | machine | host
deriving DecidableEq, Repr

def TrapClass.code : TrapClass → Nat
  | .illegal => 1 | .program => 2 | .brk => 3 | .machine => 4 | .host => 5

/-- The class of a code; BREAK is a program-class trap unless it stops the task (R376, R381). -/
def TrapCode.cls : TrapCode → TrapClass
  | .illegal => .illegal
  | .eccunc | .hwfault | .linkfatal | .migfail => .machine
  | .hostdiscard => .host
  | _ => .program

/-- Who met the error (R377 ENGINE). -/
inductive TrapEngine where
  | none | copy | sorting | bucket | gather | dense | tile | home
deriving DecidableEq, Repr

def TrapEngine.code : TrapEngine → Nat
  | .none => 0 | .copy => 1 | .sorting => 2 | .bucket => 3 | .gather => 4 | .dense => 5 | .tile => 6 | .home => 7

/-- What an error carries into its trap record beyond the task's own state (R377). -/
structure TrapInfo where
  code : TrapCode
  addr : Nat := 0
  engine : TrapEngine := .none
  status : Nat := 0
  empc : Nat := 0
  /-- The command the error is against, if it is against one. -/
  cmd : Option (BitVec 32) := none
  /-- Raised at a home, by a word that reaches it at issue (12 R335). -/
  home : Bool := false
  /-- No error: the access waits for a page that another device owns (14 R405). -/
  wait : Bool := false
deriving DecidableEq, Repr

/-- A trap record of 64 bytes (R377). -/
structure TrapRecord where
  task : W64
  apc : W64
  xpc : W64
  cmdidx : BitVec 32
  code : Nat
  cls : TrapClass
  engine : TrapEngine
  status : Nat
  empc : Nat
  stream : Bool
  home : Bool
  repc : Nat
  lineage : Nat
  addr : Nat
  tick : Nat
  launchid : Nat
deriving DecidableEq, Repr

end Sys2Proof.Machine
end

