-- ==== Sys2Proof/Machine/CoreState.lean ====
section
/-! DEFINITION. The state of a stream core that is not a task's: contexts, vector unit, tile-move engine, counters (spec/01 R22, R30, spec/03 R87, spec/07 R161-R163, R187, R188). -/

namespace Sys2Proof.Machine

/-- The vector state of a core (07 R161). Registers, tiles and latches hold only the elements that are not 0 by omission: an unlisted element is 0. -/
structure VecState where
  /-- v0-v15: element e of register k. -/
  v : Table (Table W32)
  /-- m0-m7. -/
  m : Table (BitVec 1024)
  /-- t0-t1: row r column c at 64 r + c. -/
  t : Table (Table W32)
  /-- ps0-ps3: column c. -/
  ps : Table (Table W32)
  vcfg : W64
  fsr : W64
deriving DecidableEq, Repr

/-- VCFG after reset: VL 0x400, the rest 0 (07 R163). -/
def vcfgReset : W64 := 0x400#64

def VecState.reset : VecState := { v := [], m := [], t := [], ps := [], vcfg := vcfgReset, fsr := 0#64 }

/-- What a context image holds beside its task: vector state, engines, gather buffer (14 R398). -/
structure CoreImage where
  vec : VecState
  eng : Engines
  gbuf : List Byte
deriving DecidableEq, Repr

/-- A context with its task. `saved`: what the image of a parked task on its way back holds (01 R28). -/
structure Context where
  state : CtxState
  task : Task
  saved : Option CoreImage
deriving DecidableEq, Repr

def Context.free : Context := { state := .free, task := .empty, saved := none }

/-- The context image of a task that holds no context (14 R397; notes/assumptions/13.md). -/
structure Image where
  task : Task
  core : CoreImage
deriving DecidableEq, Repr

/-- A parked task (01 R26-R28): its core, its park slot, its image, and whether it is on its way back. It is woken once every waiting CLD has an answer. -/
structure Parked where
  core : Nat
  slot : Nat
  image : Image
  back : Bool
deriving DecidableEq, Repr

/-- The states that a core's running context has been in since the last interval pulse (01 R38). -/
structure ClockUse where
  act : Bool
  wait : Bool
  idle : Bool
deriving DecidableEq, Repr

/-- A stream core. -/
structure Core where
  ctx0 : Context
  ctx1 : Context
  /-- Number of the running context (01 R25 CTX). -/
  run : Nat
  /-- The launch whose task left the vector and engine state: partition and LSEQ (01 R24). -/
  lastLaunch : Option (Nat × Nat)
  dmr : W64
  vec : VecState
  eng : Engines
  /-- Errors that commands on a predicted arm met at acceptance, held with them (11 R327). -/
  armFaults : List TrapInfo
  /-- What the running context has been since the last interval pulse, but for the running task's own part (01 R38). -/
  use : ClockUse
  ctr : Table Nat
deriving DecidableEq, Repr

/-- The position fields and MEMB of DMR that reset leaves (01 R30): level 0 is always set. -/
def dmrReset (c : Nat) : W64 :=
  BitVec.ofNat 64 (2 ^ 24 + (c / 1152) * 2 ^ 22 + (c / 24 % 48) * 2 ^ 16 + (c % 24) * 2 ^ 11)

/-- Core `c` after reset. -/
def Core.reset (c : Nat) : Core :=
  { ctx0 := .free, ctx1 := .free, run := 0, lastLaunch := none, dmr := dmrReset c, vec := .reset, eng := .reset, armFaults := [], use := { act := false, wait := false, idle := true }, ctr := [] }

end Sys2Proof.Machine
end

