-- ==== Sys2Proof/Machine/JigState.lean ====
section
/-! DEFINITION. Jigs, timetables and launches as data (spec/11_jigs_queues_timetables.md R297-R311, spec/01_cores_tasks_domains.md R17-R21, R30-R36). -/

namespace Sys2Proof.Machine

/-- A jig record as read (11 R297). `order` holds the dimension of each nesting depth. -/
structure JigRec where
  aentry : W64
  xentry : W64
  spinit : W64
  ext : List Nat
  ndim : Nat
  prio : Nat
  window : Nat
  queue : Nat
  order : List Nat
  level : Nat
  dsel : Nat
  ufirst : Nat
  ucount : Nat
  maxdepth : Nat
  bpin : Bool
  retrec : Bool
  act : Nat
  arg : W64
deriving DecidableEq, Repr

/-- Where a released jig came from. -/
inductive JigSource where
  /-- A timetable node. -/
  | node (n : Nat)
  /-- JPUSH, or the arrival matching table. -/
  | pool
  /-- The evaluation of the cell at this flat address (12 R341). -/
  | cell (addr : Nat)
deriving DecidableEq, Repr

/-- A claim of a task that went back to its jig at STOPPING (14 R395): iteration number, SEQ and core. -/
structure Claim where
  iter : Nat
  seq : Nat
  core : Nat
deriving DecidableEq, Repr

/-- A released jig (11 R311, R316, R319). `first` and `count` are the iterations of this device, `next` the next to claim, `open_` the claimed tasks that have not retired. -/
structure Jig where
  jrec : JigRec
  source : JigSource
  /-- Its number in the jig store or in the jig pool (11 R314). -/
  slot : Nat
  sels : BitVec 4
  rtick : Nat
  frame : Nat
  /-- The home cluster (R311). -/
  home : Nat
  first : Nat
  count : Nat
  next : Nat
  open_ : Nat
  lineage : List Nat
  argp : W64
  claims : List Claim
deriving DecidableEq, Repr

/-- A delayed JPUSH (11 R309). -/
structure DelayedJig where
  jrec : JigRec
  due : Nat
  /-- The pool entry it holds (11 R310). -/
  slot : Nat
  lineage : List Nat
deriving DecidableEq, Repr

/-- A queue descriptor (11 R302). -/
structure QDesc where
  mode : Nat
  rstack : Nat
  rlog : Nat
  roff : Nat
deriving DecidableEq, Repr

/-- A timetable node (11 R303) with its jig record. -/
structure TNode where
  relt : Nat
  period : Nat
  phase : Nat
  deps : List Nat
  pwin : Nat
  cond : Bool
  pinv : Bool
  pva : W64
  jrec : JigRec
deriving DecidableEq, Repr

/-- The timetable as read at launch start (11 R301-R304). -/
structure Timetable where
  framelen : Nat
  nframe : Nat
  evqd : QDesc
  queues : List QDesc
  nodes : List TNode
deriving DecidableEq, Repr

def QDesc.none : QDesc := { mode := 0, rstack := 0, rlog := 0, roff := 0 }
def Timetable.empty : Timetable := { framelen := 1, nframe := 1, evqd := .none, queues := [], nodes := [] }

/-- How far a node has come in the current frame (11 R306). -/
inductive NodeState where
  | waiting
  | released
  | done
deriving DecidableEq, Repr

/-- A launch record (01 R19). -/
structure LaunchRec where
  launchid : Nat
  multi : Bool
  parken : Bool
  ttbase : Nat
  wsbase : Nat
  wscount : Nat
  parkslots : Nat
  pgtbase : Nat
  dmapbase : Nat
  ctlbase : W64
  parkbase : Nat
deriving DecidableEq, Repr

def LaunchRec.empty : LaunchRec :=
  { launchid := 0, multi := false, parken := false, ttbase := 0, wsbase := 0, wscount := 0, parkslots := 0, pgtbase := 0,
    dmapbase := 0, ctlbase := 0#64, parkbase := 0 }

/-- A launch submitted and not yet started: the function that submitted it and the D-space address of its record (01 R19, 15 R415). -/
structure Submission where
  num : Nat
  fn : Nat
  addr : Nat
  /-- The record, once it has been read. -/
  bytes : Option (List Byte)
  /-- The record cannot be read (01 R21). -/
  bad : Bool
deriving DecidableEq, Repr

/-- Process-group membership of a launch (01 R30, R34-R36): identifier, rank, size, the CRC of the table, and for each port the rank it reaches. -/
structure Group where
  pgid : Nat
  rank : Nat
  size : Nat
  crc : BitVec 32
  ports : List (Nat × Nat)
deriving DecidableEq, Repr

/-- Where a launch stands between its start and its end. -/
inductive LaunchPhase where
  /-- Structures read; waiting for the zeroing and the exchanges (05 R118, 01 R36). -/
  | starting
  | active
  /-- Discarding (14 R387). -/
  | discarding
deriving DecidableEq, Repr

/-- The arrivals of a domain: phase count and the members that have arrived (01 R31). Level 4 also holds the devices that have reported, each with the count it reported. -/
structure Phase where
  count : Nat
  arrived : List Nat
  ranks : List (Nat × Nat)
deriving DecidableEq, Repr

def Phase.zero : Phase := { count := 0, arrived := [], ranks := [] }

/-- A veneered buffer of the publication table, with its selector (06 R156). -/
structure Veneer where
  stack : Nat
  toff : Nat
  size : Nat
  sel : Bool
  /-- Ticks at which publication instants fell, latest first, with the selector before each (06 R159). -/
  past : List (Nat × Bool)
deriving DecidableEq, Repr

/-- A launch of a partition from its start to its end. -/
structure Launch where
  lrec : LaunchRec
  fn : Nat
  lseq : Nat
  phase : LaunchPhase
  startTick : Nat
  windows : List (List WinEntry)
  /-- Membership bits of levels 4 to 1 for each core of the partition (01 R19, R30). -/
  dmap : Table (BitVec 5)
  group : Option Group
  /-- Ports whose launch exchange has matched (01 R36). -/
  exchanged : List Nat
  /-- Its completion status is not reported (13 R355). -/
  silent : Bool
  /-- Streams that have raised a trap, each with the number of its word: they issue nothing more, and no access of that word or of a later one is performed (06 R153; 14 R387). -/
  stops : List (Agent × Nat)
  /-- INTCNT when its discard began (14 R387). -/
  fade : Option Nat
  parkPages : List Nat
  tt : Timetable
  f0 : Nat
  frame : Nat
  /-- The current frame is complete (11 R307). -/
  complete : Bool
  /-- INTCNT at the last slip event of a hold (11 R307). -/
  slipAt : Option Nat
  nodes : Table NodeState
  /-- Devices of the group whose frame-done for a frame has arrived: (frame, rank). -/
  frameDone : List (Nat × Nat)
  jigs : Table Jig
  nextJig : Nat
  delayed : List DelayedJig
  phases : Table Phase
  veneers : List Veneer
  parked : List Parked
deriving DecidableEq, Repr

def Launch.empty : Launch :=
  { lrec := .empty, fn := 0, lseq := 0, phase := .starting, startTick := 0, windows := [], dmap := [], group := none,
    exchanged := [], silent := false, stops := [], fade := none, parkPages := [], tt := .empty, f0 := 0, frame := 0, complete := false, slipAt := none, nodes := [], frameDone := [], jigs := [],
    nextJig := 0, delayed := [], phases := [], veneers := [], parked := [] }

end Sys2Proof.Machine
end

