-- ==== Sys2Proof/Machine/ClusterState.lean ====
section
/-! DEFINITION. The state of a cluster: task queues, event queue, transfer barriers, control core, counters (spec/08 R213, spec/11 R312-R324). -/

namespace Sys2Proof.Machine

/-- An entry of a dispatch queue (11 R314): the jig it names, if it names one, its PRIO, SEL, FRAME and RTICK; in the hardware part, its age and when it reached age 16 (R317). -/
structure DEntry where
  jig : Option Nat
  prio : Nat
  sel : BitVec 4
  frame : Nat
  rtick : Nat
  age : Nat
  agedAt : Nat
deriving DecidableEq, Repr

/-- A task queue (11 R312, R313): the hardware part, and the ring by its head position and its number of entries. Entries of a ring stand in die memory; of a dispatch queue's the OB3 keeps which jigs were pushed (notes/assumptions/30.md). -/
structure TaskQueue where
  disp : List DEntry
  /-- The jigs of the entries of the ring, in order; none for an entry that the OB3 has removed. -/
  dispRing : List (Option Nat)
  /-- Pushes that wait for room (11 R313). -/
  dispWait : List DEntry
  data : List (List Byte)
  head : Nat
  count : Nat
deriving DecidableEq, Repr

def TaskQueue.empty : TaskQueue := { disp := [], dispRing := [], dispWait := [], data := [], head := 0, count := 0 }

/-- A record of the event queue (11 R321). -/
structure EvRec where
  kind : Nat
  src : Nat
  stat : Nat
  idx : Nat
  data : W64
deriving DecidableEq, Repr

/-- Who posts a record (11 R322): the OB3 itself, a word that holds until it is posted, or a command that does not complete until then, with the barrier that it decrements before its record, and by how much (08 R208). -/
inductive Poster where
  | ob3
  | word (a : Agent)
  | command (bar : Option (Nat × Nat))
deriving DecidableEq, Repr

/-- A record on its way into the event queue, with its poster. -/
structure EvPost where
  rec_ : EvRec
  poster : Poster
deriving DecidableEq, Repr

/-- The event queue (11 R321): hardware part, ring head and count, and records whose posters wait (R322). -/
structure EvQueue where
  hw : List EvRec
  head : Nat
  count : Nat
deriving DecidableEq, Repr

def EvQueue.empty : EvQueue := { hw := [], head := 0, count := 0 }

/-- A transfer barrier (08 R213). -/
structure Barrier where
  count : Int
  overrun : Bool
deriving DecidableEq, Repr

/-- Where a waiter of a cell stands (12 R346): in the table, at a place of the spill ring, or held at the home. -/
inductive WaiterPlace where
  | table
  | ring (slot : Nat)
  | held
deriving DecidableEq, Repr

/-- A waiting loader (12 R346): the cell's flat address, the loader's core and task, and its word; its number in the order of arrival, and whether NWAIT counts it. -/
structure Waiter where
  cell : Nat
  core : Nat
  task : W64
  seq : Nat
  place : WaiterPlace
  arrival : Nat
  counted : Bool
deriving DecidableEq, Repr

/-- An evaluation started at this home cluster and not yet released (12 R341): the cell, its record as the CLD found it, the first loader's cluster, its CLD's virtual address and its lineage. -/
structure Evaluation where
  cell : Nat
  rec_ : List Byte
  /-- The jig record, once it has been read and checked (12 R341). -/
  jig : Option (List Byte)
  loader : Nat
  va : W64
  lineage : List Nat
deriving DecidableEq, Repr

/-- Counters of a cluster, in the order of 15 R414. -/
inductive ClusCtr where
  | parks | resumes | parkrefused
  | cpcmds | cpbytes | cpqfullclk | cpwalks | cpfaults | cpprgs | barwclk | ddhits | ddcows | cmpraw
  | sorts | swaps | swapheld
  | selects | aged | qspills | qrefills
  | cellevals | cellfails | cwspills
deriving DecidableEq, Repr

def ClusCtr.num (c : ClusCtr) : Nat := c.ctorIdx

/-- A cluster. -/
structure Cluster where
  queues : Table TaskQueue
  evq : EvQueue
  /-- Records that wait for room, oldest first (11 R322), and those that have been posted from this line while their poster has not gone on yet. -/
  evWait : List EvPost
  evDone : List EvPost
  barriers : Table Barrier
  ctl : Option Task
  /-- Release sequence number of the launch (01 R18). -/
  seq : Nat
  /-- Queue of the last selection, 15 before the first of a launch (11 R317). -/
  lastq : Nat
  waiters : List Waiter
  evals : List Evaluation
  /-- Copy engines 0-3: their commands in order of acceptance (08 R192). -/
  copies : Table (List CopyCmd)
  sorts : List SortCmd
  /-- The translation cache, newest entry first (08 R224). -/
  tlb : List TlbEntry
  ctr : Table Nat
deriving DecidableEq, Repr

def Cluster.reset : Cluster :=
  { queues := [], evq := .empty, evWait := [], evDone := [], barriers := [], ctl := none, seq := 0, lastq := 15, waiters := [], evals := [], copies := [], sorts := [], tlb := [], ctr := [] }

end Sys2Proof.Machine
end

