-- ==== Sys2Proof/Machine/MemAttr.lean ====
section
/-! DEFINITION. What memory holds beside its bytes: cell states (spec/12_deferred_cells.md R332), write stamps and undefined bytes of transient pages (spec/13_links_and_kerf.md R374), units in error (spec/14_traps_partitions_migration.md R389), words before their last store (spec/02 R42), pages owned by another device (spec/14 R405). -/

namespace Sys2Proof.Machine

open Sys2Proof

/-- Cell states (12 R332). -/
inductive CellSt where
  | value | suspended | evaluating | failed
deriving DecidableEq, Repr

/-- The 2-bit code of a cell state. -/
def CellSt.code : CellSt → Nat
  | .value => 0 | .suspended => 1 | .evaluating => 2 | .failed => 3

/-- Bytes `lo` to `hi` - 1 whose values are undefined; `k` numbers the free values that they read as (notes/assumptions/16.md). -/
structure UndefRange where
  lo : Nat
  hi : Nat
  k : Nat
deriving DecidableEq, Repr

/-- The attributes of memory, by flat address. -/
structure MemAttr where
  /-- Key: address / 32; unlisted units are in VALUE. -/
  cells : Table CellSt
  /-- Key: address / 4096; INTCNT of the last write to a page of a transient region. -/
  stamps : Table Nat
  undef : List UndefRange
  /-- Units, address / 32, with an uncorrectable error. -/
  ecc : List Nat
  /-- Key: address / 4; the word before each store of a launch to it, the last store's first (02 R42). -/
  prior : Table (List W32)
  /-- Ranges of pages, first page (address / 4096) and the page after the last, that this device does not own (14 R405). -/
  away : List (Nat × Nat)
deriving DecidableEq, Repr

def MemAttr.reset : MemAttr := { cells := [], stamps := [], undef := [], ecc := [], prior := [], away := [] }

end Sys2Proof.Machine
end

