-- ==== Sys2Proof/Machine/PortState.lean ====
section
/-! DEFINITION. The state of a peer port: its control register, its arrival matching table, what its channels are receiving, its counters (spec/13_links_and_kerf.md R356-R369). -/

namespace Sys2Proof.Machine

/-- States of an arrival entry (13 R368). `waiting`: the message has completed and the jig waits for the jig pool (11 R310). -/
inductive AmtState where
  | idle | armed | receiving | waiting
deriving DecidableEq, Repr

/-- An entry of an arrival matching table (13 R367), with the window entries it captured and the jig record it read. -/
structure AmtEntry where
  state : AmtState
  tag : Nat
  len : Nat
  buf : W64
  maska : W64
  jrec : Option JigRec
  arg : W64
  etick : Nat
  kerf : Bool
  persist : Bool
  view : View
deriving DecidableEq, Repr

/-- A kerf message being received (13 R364, R365): its entry, the tick H, DL, the sender's rank, and the valid blocks so far. -/
structure KerfIn where
  entry : Nat
  h : Nat
  dl : Nat
  rank : Nat
  got : List Nat
deriving DecidableEq, Repr

/-- What the kerf channel of a port is receiving. -/
inductive KerfChannel where
  /-- No message, or the blocks of a lost header: they are dropped. -/
  | idle
  | receiving (m : KerfIn)
  /-- The blocks of a header that was refused or matched nothing. -/
  | dropping
  /-- The message has completed and its end marker is still to come: its blocks are late. -/
  | ended
deriving DecidableEq, Repr

/-- Counters of a port (13 R366). -/
inductive PortCtr where
  | msgsent | ksent | msgtries | msgdup | kblklost | klate | knomatch
deriving DecidableEq, Repr

def PortCtr.num (c : PortCtr) : Nat := c.ctorIdx

/-- A peer port (13 R356, R357). -/
structure Port where
  ctl : W64
  amt : Table AmtEntry
  kerf : KerfChannel
  /-- The sequence number of the last exact message acknowledged (R362). -/
  lastAck : Option Nat
  /-- The next sequence numbers of this port's exact and kerf messages (R358). -/
  seqX : Nat
  seqK : Nat
  ctr : Table Nat
deriving DecidableEq, Repr

/-- After module reset: YALLOW is 1, the rest 0 (R357). -/
def Port.reset : Port := { ctl := 4#64, amt := [], kerf := .idle, lastAck := none, seqX := 0, seqK := 0, ctr := [] }

end Sys2Proof.Machine
end

