-- ==== Sys2Proof/Machine/PartState.lean ====
section
/-! DEFINITION. The state of a partition: its controls, format table, trap log, launches, service slots and counters (spec/03 R76-R78, spec/08 R223-R236, spec/12 R347, spec/13 R373, spec/14 R380-R402, spec/15 R413, R425, R427). -/

namespace Sys2Proof.Machine

/-- An allotment of memory: base and size in bytes (14 R391). -/
structure Allot where
  base : Nat
  size : Nat
deriving DecidableEq, Repr

def Allot.none : Allot := { base := 0, size := 0 }

/-- Counters of a partition in the order of 15 R414 (11 R331, 14 R408). -/
inductive PartCtr where
  | jigsrel | jigsret | poolwaitclk
  | preempts | resumes | stopclk | migpulls | migpushes | moved | traps
deriving DecidableEq, Repr

def PartCtr.num (c : PartCtr) : Nat := c.ctorIdx

/-- The states of PCTL (14 R394). -/
inductive PState where
  | idle | active | stopping | saving | restoring | sending | serving
deriving DecidableEq, Repr

def PState.code : PState → Nat
  | .idle => 0 | .active => 1 | .stopping => 2 | .saving => 3 | .restoring => 5 | .sending => 6 | .serving => 7

/-- The format table after reset (03 R78). -/
def ftReset : List W32 :=
  [0x80#32, 0x81#32, 0x82#32, 0xC83#32, 0xC84#32, 0xC85#32, 0x86#32, 0x3886#32, 0x1889#32, 0x508D#32, 0x483#32, 0x18A#32,
   0#32, 0#32, 0#32, 0#32]

/-- A service slot that holds a request (14 R382): the core of the requester and its task. -/
structure SvcReq where
  slot : Nat
  core : Option Nat
  task : W64
  arg : W64
  code : Nat
  /-- SVCDONE has been written: the SYSCALL may complete. -/
  done : Bool
deriving DecidableEq, Repr

/-- The controls of a partition that the host writes (15 R413). -/
structure PartRegs where
  ft : List W32
  dptroot : W64
  ceinvBusy : Bool
  ddtab : W64
  ddring : W64
  ddOvf : Bool
  ddCount : Nat
  ddHead : Nat
  /-- HDR of the compression-mode register (08 R235). -/
  hdr : Bool
  cwspill : W64
  trans : Table W64
  /-- INTCNT when EN of each region last became 1 (13 R374). -/
  transStamp : Table Nat
  brken : Bool
  svcq : W64
  ptimeout : Nat
  rerr : Nat
  tout : Bool
  susparea : W64
  /-- PCLUS0-2: bit g owns global cluster g. -/
  pclus : BitVec 192
  pdie : List Allot
  pwb : List Allot
  plp : Allot
deriving DecidableEq, Repr

def PartRegs.reset : PartRegs :=
  { ft := ftReset, dptroot := 0#64, ceinvBusy := false, ddtab := 0#64, ddring := 0#64, ddOvf := false, ddCount := 0, ddHead := 0, hdr := true, cwspill := 0#64, trans := [], transStamp := [],
    brken := false, svcq := 0#64, ptimeout := 0, rerr := 0, tout := false, susparea := 0#64, pclus := 0#192,
    pdie := [.none, .none, .none, .none], pwb := [.none, .none, .none, .none], plp := .none }

/-- Who waits on a D-space read of its own (01 R21; 12 R341; 13 R367). -/
inductive Reader where
  | submission (n : Nat)
  | evaluation (cell : Nat)
  | arrival (core : Nat)
deriving DecidableEq, Repr

/-- A read that waits on a page request; `failed` once its response has failed (08 R229). -/
structure DRead where
  who : Reader
  page : Nat
  failed : Bool
deriving DecidableEq, Repr

/-- A launch that does not run here now: pre-empted (14 R394-R400), or received (R404). It stands with its clusters and cores, the state of the banks, the arrival entries by port, the cells in EVALUATING, the service requests that travel with it, the next place of its spill ring and number of its waiters, and the tick at which STOPPING began. -/
structure Held where
  launch : Launch
  clus : Table Cluster
  cores : Table Core
  sel : BitVec 4
  swap : Table Pending
  pins : Table Nat
  amt : Table (Table AmtEntry)
  evaluating : List Nat
  svc : List SvcReq
  cwTail : Nat
  cwSeq : Nat
  stopTick : Nat
deriving DecidableEq, Repr

/-- States of MIGCTL (14 R402). -/
inductive MigState where
  | idle | stopping | drain | sending | serving | done | failed | receiving | owning
deriving DecidableEq, Repr

def MigState.code : MigState → Nat
  | .idle => 0 | .stopping => 1 | .drain => 2 | .sending => 3 | .serving => 4 | .done => 5 | .failed => 6 | .receiving => 8 | .owning => 9

/-- MIGCTL and MIGPMAP (14 R402), and at the source the launch that has left in SERVING. -/
structure Migration where
  state : MigState
  port : Nat
  role : Nat
  pmap : Nat
  left : Option Launch
deriving DecidableEq, Repr

def Migration.none : Migration := { state := .idle, port := 0, role := 0, pmap := 0, left := .none }

/-- A partition. -/
structure Part where
  regs : PartRegs
  /-- Trap log, oldest first, at most 8 (14 R380). -/
  traplog : List TrapRecord
  trapcnt : Nat
  /-- The log and the count clear at the next trap (14 R380). -/
  logStale : Bool
  /-- Bank selectors of the four stacks (09 R247). -/
  sel : BitVec 4
  /-- Stacks in PENDING (09 R248), and pin counts (R250). -/
  swap : Table Pending
  pins : Table Nat
  /-- Homes of raw blocks whose last or first word is stored inverted (08 R232): address / 256. -/
  collisions : List Nat
  preqs : List PageReq
  prgNext : Nat
  /-- Pages whose invalidation is under way (08 R225): first page and number. -/
  inval : List (Nat × Nat)
  images : Table ImgEntry
  pubkeys : Table PubKey
  /-- The function that submitted last (15 R416). -/
  lastFn : Option Nat
  /-- LSEQ of the last launch (01 R18); the first launch takes 0. -/
  lseq : Nat
  waiting : List Submission
  launch : Option Launch
  pstate : PState
  stopTick : Nat
  svc : List SvcReq
  /-- Frames pushed that wait for the ring's page, which another device owns (08 R236; 14 R405). -/
  pushes : List Nat
  /-- The suspension area's launch: HELD (14 R394). -/
  held : Option Held
  mig : Migration
  dreads : List DRead
  /-- Submissions made, which number the waiting ones. -/
  submitted : Nat
  /-- The next place of the waiter spill ring, and the number of the next waiter (12 R346). -/
  cwTail : Nat
  cwSeq : Nat
  ctr : Table Nat
deriving DecidableEq, Repr

def Part.reset : Part :=
  { regs := .reset, traplog := [], trapcnt := 0, logStale := false, sel := 0#4, swap := [], pins := [], collisions := [], preqs := [], prgNext := 0, inval := [],
    images := [], pubkeys := [], lastFn := none, lseq := 2 ^ 19 - 1, waiting := [], launch := none,
    pstate := .idle, stopTick := 0, svc := [], pushes := [], held := none, mig := .none, dreads := [], submitted := 0, cwTail := 0, cwSeq := 0, ctr := [] }

end Sys2Proof.Machine
end

