-- ==== Sys2Proof/Machine/PlatState.lean ====
section
/-! DEFINITION. The state of the module outside its clusters: black-box record, functions and their images, power and thermal state, firmware and attestation, and what the module has sent (spec/15_module_platform.md R409-R428; spec/13 R352-R355; spec/08 R226-R229). -/

namespace Sys2Proof.Machine

/-- A black-box event (15 R422). -/
structure BbEvent where
  seq : Nat
  kind : Nat
  /-- 0-23, or 0xFF. -/
  part : Nat
  resetLow : Nat
  frame : Nat
  data : List Byte
deriving DecidableEq, Repr

/-- The black-box record (15 R421): entries by their place in the ring. -/
structure BlackBox where
  ring : Table BbEvent
  seq : Nat
  head : Nat
  freeze : Bool
  lost : Nat
deriving DecidableEq, Repr

def BlackBox.empty : BlackBox := { ring := [], seq := 0, head := 0, freeze := false, lost := 0 }

/-- A load of a signed image in progress (15 R426, R427): the slot, the bytes read so far. -/
structure ImgLoad where
  part : Nat
  slot : Nat
  src : W64
  dst : Nat
  len : Nat
  bytes : List Byte
deriving DecidableEq, Repr

/-- What Advanced Error Reporting has recorded for a function: an Unsupported Request, a Completer Abort, an advisory non-fatal error (13 R352, R353). -/
structure Aer where
  unsupported : Bool
  abort : Bool
  advisory : Bool
deriving DecidableEq, Repr

/-- A function: virtual function n is number n, the physical function is 128 (13 R352; 15 R415, R426). -/
structure Fn where
  lstat : W64
  imgsrc : W64
  imgdst : W64
  imglen : W64
  imgslot : Nat
  load : Option ImgLoad
  d3 : Bool
  /-- MSI-X messages held in D3hot (13 R355). -/
  held : List Nat
  /-- Page requests that may be outstanding (08 R228); none until the host grants them. -/
  priAlloc : Nat
  /-- No page request until the interface is enabled again (08 R229). -/
  priOff : Bool
  /-- The function's PASID, and whether ATS is enabled (13 R352, R354). -/
  pasid : BitVec 20
  ats : Bool
  aer : Aer
deriving DecidableEq, Repr

def Fn.reset : Fn :=
  { lstat := 0#64, imgsrc := 0#64, imgdst := 0#64, imglen := 0#64, imgslot := 0, load := none, d3 := false, held := [], priAlloc := 0, priOff := false,
    pasid := 0#20, ats := false, aer := { unsupported := false, abort := false, advisory := false } }

/-- A thermal column (15 R418, R419) with the history of its checks. -/
structure TCol where
  failed : Bool
  cause : Nat
  cap : Nat
  est : BitVec 12
  read : BitVec 12
  /-- The model's power for the column, in mW, in the intervals for which the reading has been the same code, latest first, at most 1,000. -/
  same : List Nat
  /-- Intervals for which the reading has been implausible. -/
  odd : Nat
deriving DecidableEq, Repr

def TCol.reset : TCol := { failed := false, cause := 0, cap := 16, est := 0#12, read := 0#12, same := [], odd := 0 }

/-- A firmware copy in flash (15 R423). -/
structure Firmware where
  svn : Nat
  body : List Byte
  signature : List Byte
deriving DecidableEq, Repr

/-- Traffic of the Yarger direct mode (01 R36; 11 R305; 13 R358-R365; 14 R404-R407). -/
inductive PortKind where
  | exact | kerfHeader | kerfBlock | endMarker | acknowledgement | noMatch | refused | moved
  | exchange | refusalNotice | frameDone | phase | discardNotice | redirect | migrationBlocks | migrationPage | migrationAbort | forwardAtomic
deriving DecidableEq, Repr

/-- What the module sends (13 R353-R370; 15 R416; 08 R227): newest first. -/
inductive OutMsg where
  | msix (fn vec : Nat)
  /-- A page request: function and its PASID, page of D-space, write, group, last in its group. -/
  | pageReq (fn : Nat) (pasid : BitVec 20) (page : Nat) (write : Bool) (group : Nat) (last : Bool)
  /-- A write to host memory in a function's PASID: a Translated Request with ATS, else an Untranslated one (13 R354). -/
  | hostWrite (fn : Nat) (pasid : BitVec 20) (translated : Bool) (addr : Nat) (data : List Byte)
  /-- Answers to requests of the host: Unsupported Request, Completer Abort, a completion with data, an invalidation completion. -/
  | unsupported (fn : Nat)
  | abort (fn : Nat)
  | completion (fn : Nat) (data : List Byte)
  | invalidated (fn : Nat)
  /-- Traffic on a peer port: its kind, its words and its bytes. -/
  | port (n : Nat) (kind : PortKind) (words : List Nat) (data : List Byte)
deriving DecidableEq, Repr

/-- The platform state of the module. -/
structure Plat where
  resetcnt : Nat
  bb : BlackBox
  fns : Table Fn
  budget : Nat
  /-- PWRGNT0-3: the shares of each stack as they were written last; and the shares in force, which were written one pulse before (15 R417). -/
  bshare : Table Nat
  dshare : Table Nat
  forceB : Table Nat
  forceD : Table Nat
  afr : Table W64
  tcol : Table TCol
  ecccor : Table Nat
  /-- Transient regions are being refreshed (13 R375). -/
  lpRefresh : Bool
  /-- Device counters (11 R331 SLIPS, SLIPCLK). -/
  slips : Nat
  slipclk : Nat
  marker : W32
  flash : List Firmware
  /-- The modulus of the firmware key, whose SHA-256 is fused (log entry 12), and the fused minimum SVN (15 R423). -/
  keyModulus : List Byte
  minSvn : Nat
  running : Option Nat
  nonce : List Byte
  attBusy : Bool
  report : List Byte
  auxPower : Bool
  /-- VDBIND registers (14 R393). -/
  vdbind : Table W64
  ports : Table Port
  out : List OutMsg
deriving DecidableEq, Repr

/-- After the first module reset since auxiliary power was applied (15 R409; notes/assumptions/9.md for what the spec does not give). -/
def Plat.reset : Plat :=
  { resetcnt := 1, bb := .empty, fns := [], budget := 1800, bshare := [], dshare := [], forceB := [], forceD := [], afr := [], tcol := [],
    ecccor := [], lpRefresh := false, slips := 0, slipclk := 0, marker := 0#32, flash := [], keyModulus := [], minSvn := 0, running := none,
    nonce := [], attBusy := false, report := [], auxPower := true, vdbind := [], ports := [], out := [] }

/-- The number of the physical function. -/
def physFn : Nat := 128

end Sys2Proof.Machine
end

