-- ==== Sys2Proof/Machine/State.lean ====
section
/-! DEFINITION. The state of the whole module, its faults and refusals, and the state after reset. -/

namespace Sys2Proof.Machine

/-- Why a step stops with a fault. -/
inductive Fault where
  /-- Raised by a word whose agent has no stream that could issue it: no running task, an ended stream, a control core that is not running. Safe: the machine has no such step. -/
  | noStream
  /-- Raised by an agenda entry that names an instruction word as an event. Safe: the machine has no such step. -/
  | notAnEvent
deriving DecidableEq, Repr

/-- Why a step is refused. -/
inductive Refusal where
  /-- Raised by an arm of the dispatch that has no meaning yet. Safe: nothing is proved about the instruction. -/
  | notModelled (mnemonic : String)
deriving DecidableEq, Repr

/-- What moves next (notes/assumptions/1.md): a word issue of an agent, with the choices that the spec leaves to the machine at that issue, or an event. -/
inductive Turn where
  /-- `old`, word by word for those at the PC and after it: how many stores of the launch ago a fetched word is seen (02 R42); 0 is the word as it stands. `late`: a predicate that the word writes passes its bound before it lands (04 R113). -/
  | issue (a : Agent) (old : List Nat) (late : Bool)
  | event (e : Instr)
deriving DecidableEq, Repr

/-- Module state (00 R3; 15 R409). -/
structure Module where
  mstate : Nat
  intcnt : Nat
  frame : Nat
  slip : Bool
  hwHeld : Bool
deriving DecidableEq, Repr

def Module.reset : Module := { mstate := 0, intcnt := 0, frame := 0, slip := false, hwHeld := false }

/-- The state of the OB3 module. -/
structure State where
  agenda : List Turn
  cur : Agent
  old : List Nat
  late : Bool
  freeCtr : Nat
  modl : Module
  plat : Plat
  parts : Table Part
  clus : Table Cluster
  cores : Table Core
  mem : List Host.Cell
  attr : MemAttr
deriving DecidableEq, Repr

/-- The module right after reset. -/
def State.reset : State :=
  { agenda := [], cur := .access 0, old := [], late := false, freeCtr := 0, modl := .reset, plat := .reset, parts := [], clus := [],
    cores := [], mem := [], attr := .reset }

end Sys2Proof.Machine
end

