-- ==== Sys2Proof/Machine/Homes.lean ====
section
/-! DEFINITION. The flat memory space of the model, the home of each byte, and the homes within a scope (spec/00_scope.md R7, R429; spec/06_ordering_and_publication.md R138, R143). Every memory of the package stands at one place of one space of natural numbers (notes/assumptions/3.md). -/

namespace Sys2Proof.Machine

def dieBase (st : Nat) : Nat := st * 2 ^ 31
def bankBase (st half : Nat) : Nat := 2 ^ 36 + (st * 2 + half) * 2 ^ 32
def clusBase (g : Nat) : Nat := 2 ^ 37 + g * 2 ^ 24
def unitBase (c : Nat) : Nat := 2 ^ 38 + c * 2 ^ 19
def gbufBase (c : Nat) : Nat := 2 ^ 39 + c * 2 ^ 15
def lpBase : Nat := 2 ^ 40

/-- The places where an access is performed (06 R138). -/
inductive Home where
  | die (st : Nat)
  | bank (st : Nat)
  | clus (g : Nat)
  | unit (c : Nat)
  | gbuf (c : Nat)
  | lp (channel : Nat)
  | barriers (g : Nat)
  | queues (g : Nat)
deriving DecidableEq, Repr

/-- The home of a byte of the flat space (06 R138; 00 R429 for LP memory). -/
def homeOf (a : Nat) : Home :=
  if a < 2 ^ 36 then .die (a / 2 ^ 31)
  else if a < 2 ^ 37 then .bank ((a - 2 ^ 36) / 2 ^ 33)
  else if a < 2 ^ 38 then .clus ((a - 2 ^ 37) / 2 ^ 24)
  else if a < 2 ^ 39 then .unit ((a - 2 ^ 38) / 2 ^ 19)
  else if a < 2 ^ 40 then .gbuf ((a - 2 ^ 39) / 2 ^ 15)
  else .lp ((a - lpBase) / 256 % 64)

/-- Does a byte of the flat space exist (00 R7)? -/
def memExists (a : Nat) : Bool :=
  (a < 4 * 2 ^ 31) || (2 ^ 36 ≤ a && a < 2 ^ 36 + 8 * 2 ^ 32) || (2 ^ 37 ≤ a && a < 2 ^ 37 + 192 * 2 ^ 24)
    || (2 ^ 38 ≤ a && a < 2 ^ 38 + 4608 * 2 ^ 19) || (2 ^ 39 ≤ a && a < 2 ^ 39 + 4608 * 2 ^ 15)
    || (lpBase ≤ a && a < lpBase + 768 * 2 ^ 30)

/-- The stack a home is attached to (00 R429), for rules that name it. -/
def stackOf : Home → Nat
  | .die st => st
  | .bank st => st
  | .clus g => g / 48
  | .unit c => c / 1152
  | .gbuf c => c / 1152
  | .lp ch => ch / 16
  | .barriers g => g / 48
  | .queues g => g / 48

def clusterOfCore (c : Nat) : Nat := c / 24
def stackOfCluster (g : Nat) : Nat := g / 48
def stackOfCore (c : Nat) : Nat := c / 1152

/-- The home of a target; a veneered buffer and its selector stand at the die memory of its stack, and a read of zeros at the bank view is at the weight banks. -/
def targetHome (st : Nat) : Target → Home
  | .byte a => homeOf a
  | .zeros => .bank st
  | .veneer st' _ _ _ => .die st'
  | .barrier b => .barriers (b / 64)
  | .queueUnit g => .queues g

/-- The cluster of an agent. -/
def Agent.cluster : Agent → Nat
  | .access c => clusterOfCore c
  | .execute c => clusterOfCore c
  | .control g => g

/-- The stack of an agent (11 R324 for a control core). -/
def Agent.stack (a : Agent) : Nat := stackOfCluster a.cluster

/-- The number of the core of an agent, if it is a stream of a core. -/
def Agent.core? : Agent → Option Nat
  | .access c => some c
  | .execute c => some c
  | .control _ => none

/-- The stream of an agent; a control core is a single access stream. -/
def Agent.kind : Agent → StreamKind
  | .execute _ => .execute
  | _ => .access

/-- Does the home lie within the scope, for the agent (06 R143, 11 R324)? -/
def inScope (a : Agent) (sc : Scope) (h : Home) : Bool :=
  match sc with
  | .unit => match a.core? with | some c => h == .unit c | none => false
  | .group =>
    match h with
    | .unit c => clusterOfCore c == a.cluster
    | .clus g => g == a.cluster
    | .barriers g => g == a.cluster
    | .queues g => g == a.cluster
    | _ => false
  | .device => true
  | .system => true

end Sys2Proof.Machine
end

