-- ==== Sys2Proof/Machine/Ops.lean ====
section
/-! DEFINITION. The named operations over the parts of the state: lookup and update of cores, tasks, clusters and partitions, and taking a trap (spec/14_traps_partitions_migration.md R376-R381, R387). -/

namespace Sys2Proof.Machine

open Sys2Proof

/-! Lookup and update. -/

def State.core (s : State) (c : Nat) : Core := tget (Core.reset c) s.cores c
def State.setCore (s : State) (c : Nat) (x : Core) : State := { s with cores := tput s.cores c x }
def State.modCore (s : State) (c : Nat) (f : Core → Core) : State := s.setCore c (f (s.core c))
def State.cluster (s : State) (g : Nat) : Cluster := tget Cluster.reset s.clus g
def State.setCluster (s : State) (g : Nat) (x : Cluster) : State := { s with clus := tput s.clus g x }
def State.modCluster (s : State) (g : Nat) (f : Cluster → Cluster) : State := s.setCluster g (f (s.cluster g))
def State.part (s : State) (p : Nat) : Part := tget Part.reset s.parts p
def State.setPart (s : State) (p : Nat) (x : Part) : State := { s with parts := tput s.parts p x }
def State.modPart (s : State) (p : Nat) (f : Part → Part) : State := s.setPart p (f (s.part p))

/-- LSEQ of a partition's launch (01 R18). -/
def State.seqOf (s : State) (p : Nat) : Nat := match (s.part p).launch with | some l => l.lseq | none => (s.part p).lseq

/-- Change the launch of a partition, if it has one. -/
def State.modLaunch (s : State) (p : Nat) (f : Launch → Launch) : State :=
  s.modPart p fun pt => { pt with launch := pt.launch.map f }

def Core.ctx (k : Core) (n : Nat) : Context := if n = 0 then k.ctx0 else k.ctx1
def Core.setCtx (k : Core) (n : Nat) (x : Context) : Core := if n = 0 then { k with ctx0 := x } else { k with ctx1 := x }
/-- The running context (01 R22). -/
def Core.running (k : Core) : Context := k.ctx k.run
/-- The staged context. -/
def Core.stagedCtx (k : Core) : Context := k.ctx (1 - k.run)

/-- What the running context has been since the last interval pulse (01 R38). -/
def Core.used (k : Core) : ClockUse :=
  match k.running.state with
  | .running => { k.use with act := k.use.act || k.running.task.acted, wait := k.use.wait || k.running.task.waited }
  | _ => { k.use with idle := true }

/-- Is a task WAITING (01 R22): its access stream stands on a wait, or it is stopped at a break (14 R381)? -/
def Task.isWaiting (t : Task) : Bool := t.brk || match t.a.wait with | some w => w.waiting | none => false

/-- What a task that stays, or comes back, counts from now on: it is RUNNING or WAITING (01 R38). -/
def Task.useNow (t : Task) : Task := { t with acted := !t.isWaiting, waited := t.isWaiting }

/-- The running context becomes free. -/
def Core.freed (k : Core) : Core := { k.setCtx k.run .free with use := { k.used with idle := true } }

/-- Add to a counter of a core (15 R414). -/
def State.coreCtr (s : State) (c : Nat) (k : CoreCtr) (n : Nat) : State :=
  s.modCore c fun x => { x with ctr := ctrAdd x.ctr k.num n }
def State.partCtr (s : State) (p : Nat) (k : PartCtr) (n : Nat) : State :=
  s.modPart p fun x => { x with ctr := ctrAdd x.ctr k.num n }
def State.clusCtr (s : State) (g : Nat) (k : ClusCtr) (n : Nat) : State :=
  s.modCluster g fun x => { x with ctr := ctrAdd x.ctr k.num n }
/-- Add to a counter of the core of an agent; a control core keeps none. -/
def State.agentCtr (s : State) (a : Agent) (k : CoreCtr) (n : Nat) : State :=
  match a.core? with
  | some c => s.coreCtr c k n
  | none => s

/-- The partition that owns a cluster (14 R391). -/
def State.partOf? (s : State) (g : Nat) : Option Nat :=
  (List.range 24).find? fun p => (s.part p).regs.pclus.getLsbD g

/-- Draw a free value's number (notes/assumptions/4.md). -/
def State.drawn (s : State) : State := { s with freeCtr := s.freeCtr + 1 }

/-- A clock counter of a core advances by an amount that the spec does not state (04 R116; notes/assumptions/6.md). -/
def State.coreClk (s : State) (c : Nat) (k : CoreCtr) : State := (s.coreCtr c k (Config.freeClocks s.freeCtr)).drawn
def State.clusClk (s : State) (g : Nat) (k : ClusCtr) : State := (s.clusCtr g k (Config.freeClocks s.freeCtr)).drawn
def State.partClk (s : State) (p : Nat) (k : PartCtr) : State := (s.partCtr p k (Config.freeClocks s.freeCtr)).drawn
def State.agentClk (s : State) (a : Agent) (k : CoreCtr) : State :=
  match a.core? with
  | some c => s.coreClk c k
  | none => s

/-- The task record of an agent: the running task of its core, or its control core's. -/
def State.task? (s : State) (a : Agent) : Option Task :=
  match a with
  | .access c | .execute c =>
    let x := (s.core c).running
    if x.state = .running then some x.task else none
  | .control g => (s.cluster g).ctl

/-- Put the task record of an agent back. -/
def State.setTask (s : State) (a : Agent) (t : Task) : State :=
  match a with
  | .access c | .execute c => s.modCore c fun k => k.setCtx k.run { state := .running, task := t, saved := none }
  | .control g => s.modCluster g fun x => { x with ctl := some t }

/-- The task record of an agent that has one. -/
def State.task (s : State) (a : Agent) : Task := (s.task? a).getD .empty

def State.modTask (s : State) (a : Agent) (f : Task → Task) : State := s.setTask a (f (s.task a))

/-- PC, ended bit and repeat counter of the agent's stream. -/
def Task.pcOf (t : Task) : StreamKind → W64
  | .access => t.a.pc
  | .execute => t.x.pc
def Task.endedOf (t : Task) : StreamKind → Bool
  | .access => t.a.ended
  | .execute => t.x.ended
def Task.repOf (t : Task) : StreamKind → Nat
  | .access => t.a.rep
  | .execute => t.x.rep
/-- The literal that the repeats of a stream share (02 R55). -/
def Task.litOf (t : Task) : StreamKind → Option W32
  | .access => t.a.lit
  | .execute => t.x.lit
def Task.setLit (t : Task) (k : StreamKind) (l : Option W32) : Task :=
  match k with
  | .access => { t with a := { t.a with lit := l } }
  | .execute => { t with x := { t.x with lit := l } }
def Task.setPc (t : Task) (k : StreamKind) (pc : W64) : Task :=
  match k with
  | .access => { t with a := { t.a with pc := pc } }
  | .execute => { t with x := { t.x with pc := pc } }
def Task.setRep (t : Task) (k : StreamKind) (n : Nat) : Task :=
  match k with
  | .access => { t with a := { t.a with rep := n } }
  | .execute => { t with x := { t.x with rep := n } }
def Task.setEnded (t : Task) (k : StreamKind) : Task :=
  match k with
  | .access => { t with a := { t.a with ended := true } }
  | .execute => { t with x := { t.x with ended := true } }

/-- May words of the partition's launch issue (14 R387, R395)? -/
def State.issuing (s : State) (p : Nat) : Bool :=
  match (s.part p).launch with
  | some l => l.phase == .active && (s.part p).pstate == .active
  | none => false

/-- Is the agent's stream one that can issue: a running task, not ended, not stopped at a break, its launch active? -/
def State.live (s : State) (a : Agent) : Bool :=
  match s.partOf? a.cluster, s.task? a with
  | some p, some t => s.issuing p && !t.endedOf a.kind && !t.brk
  | _, _ => false

/-! The black-box record and interrupts (15 R416, R421, R422). -/

def State.modPlat (s : State) (f : Plat → Plat) : State := { s with plat := f s.plat }

/-- Write a black-box event, or count it as lost while the record is frozen. -/
def State.bbEvent (s : State) (kind part : Nat) (data : List Byte) : State :=
  let b := s.plat.bb
  if b.freeze then s.modPlat fun x => { x with bb := { b with lost := Nat.min (b.lost + 1) (2 ^ 19 - 1) } }
  else
    let e : BbEvent :=
      { seq := b.seq, kind := kind, part := part, resetLow := s.plat.resetcnt % 256, frame := s.modl.frame,
        data := (data ++ List.replicate 16 0#8).take 16 }
    s.modPlat fun x => { x with bb := { b with ring := tput b.ring b.head e, seq := (b.seq + 1) % 2 ^ 32, head := (b.head + 1) % 4096 } }

def State.fn (s : State) (n : Nat) : Fn := tget Fn.reset s.plat.fns n
def State.modFn (s : State) (n : Nat) (f : Fn → Fn) : State := s.modPlat fun x => { x with fns := tput x.fns n (f (s.fn n)) }

/-- Send a message. -/
def State.send (s : State) (m : OutMsg) : State := s.modPlat fun x => { x with out := m :: x.out }

/-- A peer port. -/
def State.port (s : State) (n : Nat) : Port := tget .reset s.plat.ports n
def State.modPort (s : State) (n : Nat) (f : Port → Port) : State := s.modPlat fun x => { x with ports := tput x.ports n (f (s.port n)) }
def State.portCtr (s : State) (n : Nat) (k : PortCtr) (i : Nat) : State := s.modPort n fun x => { x with ctr := ctrAdd x.ctr k.num i }

/-- MODE, OWNV and OWNER of a port (13 R357). -/
def Port.mode (x : Port) : Nat := bitsOf x.ctl.toNat 7 6
def Port.direct (x : Port) : Bool := x.mode == 2
def Port.owner? (x : Port) : Option Nat := if bitOf x.ctl.toNat 15 then some (bitsOf x.ctl.toNat 14 10) else none

/-- Send traffic on a peer port: it travels in Yarger direct mode only (13 R356). -/
def State.sendPort (s : State) (n : Nat) (kind : PortKind) (words : List Nat) (data : List Byte) : State :=
  if (s.port n).direct then s.send (.port n kind words data) else s

/-- The partition that traffic on a peer port reaches, in Yarger direct mode only (13 R356, R358). -/
def State.reaches? (s : State) (n : Nat) : Option Nat := if (s.port n).direct then (s.port n).owner? else none

/-- Raise a vector of a function; its message is held in D3hot (13 R355). -/
def State.raiseVec (s : State) (fn vec : Nat) : State :=
  if (s.fn fn).d3 then s.modFn fn fun f => { f with held := f.held ++ [vec] } else s.send (.msix fn vec)

/-- The function of a partition: that of its launch or its held one, else the last to submit, else the physical function (15 R416). -/
def State.fnOf (s : State) (p : Nat) : Nat :=
  match (s.part p).launch, (s.part p).held, (s.part p).mig.left with
  | some l, _, _ => l.fn
  | none, some h, _ => h.launch.fn
  | none, none, some l => l.fn
  | none, none, none => (s.part p).lastFn.getD physFn

/-- Raise a vector of a partition. -/
def State.raisePart (s : State) (p vec : Nat) : State := s.raiseVec (s.fnOf p) vec

/-! Page requests (08 R227, R228). -/

/-- A fault joins the request for its page and kind, or makes one. -/
def requestPage (p g page : Nat) (write : Bool) (s : State) : State :=
  s.modPart p fun pt =>
    if pt.preqs.any fun r => r.page == page && r.write == write then pt
    else { pt with preqs := pt.preqs ++ [{ page := page, write := write, cluster := g, group := none }] }

/-! Traps. -/

/-- The location of a flat address in the form of 08 R220, with the offset in the page in bits [11:0]; offsets are relative to the partition's allotment. 0 for a memory that R220 has no target for. -/
def State.location (s : State) (p a : Nat) : Nat :=
  let r := (s.part p).regs
  let form (tgt loc off : Nat) : Nat := tgt * 2 ^ 60 + loc * 2 ^ 47 + off % 2 ^ 47
  match homeOf a with
  | .die st => form 3 st (a - dieBase st - (r.pdie.getD st .none).base)
  | .bank st => form 5 st ((a - bankBase st 0) % 2 ^ 32 - (r.pwb.getD st .none).base)
  | .clus g => form 2 g (a - clusBase g)
  | .unit c => form 1 c (a - unitBase c)
  | .lp _ => form 4 0 (a - lpBase - r.plp.base)
  | _ => 0

/-- DATA of the black-box event of a trap (15 R422). -/
def trapData (r : TrapRecord) : List Byte :=
  leBytes 8 r.task.toNat ++ leBytes 2 r.code ++ leBytes 1 r.cls.code ++ leBytes 1 r.engine.code ++ leBytes 4 r.cmdidx.toNat

/-- Write a trap record into the partition's log (14 R380): the log and its count are cleared before the first trap after an activation, eight records are held, every trap is counted. A black-box event is written, and vector 1 raised for a record that is logged (15 R416, R422). -/
def logTrap (p : Nat) (r : TrapRecord) (s : State) : State :=
  let pt := s.part p
  let log := if pt.logStale then [] else pt.traplog
  let cnt := if pt.logStale then 0 else pt.trapcnt
  let s := s.setPart p { pt with
    logStale := false
    traplog := if log.length < 8 then log ++ [r] else log
    trapcnt := (cnt + 1) % 2 ^ 32 }
  let s := (s.bbEvent 1 p (trapData r)).partCtr p .traps 1
  if log.length < 8 then s.raisePart p 1 else s

/-- The launch of a partition is discarded from now on; when that began is kept (14 R387 step 1). -/
def startDiscard (p : Nat) (s : State) : State :=
  s.modLaunch p fun l => { l with phase := .discarding, fade := some (l.fade.getD s.modl.intcnt) }

/-- A stream has raised a trap at its word `seq`: it issues nothing more, and no access of that word or of a later one is performed (06 R153). -/
def stopStream (p : Nat) (a : Agent) (seq : Nat) (s : State) : State := s.modLaunch p fun l => { l with stops := (a, seq) :: l.stops }

/-- LAUNCHID for a trap record (14 R377). -/
def State.launchId (s : State) (p : Nat) : Nat :=
  match (s.part p).launch with
  | some l => l.lrec.launchid
  | none => 0

/-- The trap record of an error that an agent's word or command raised (14 R377, R378). `home`: raised at a home after issue. `pc`: the address of the word, when it is not the stream's own PC. -/
def trapRecord (a : Agent) (info : TrapInfo) (cls : TrapClass) (home : Bool) (pc : Option W64) (p : Nat) (s : State) : TrapRecord :=
  let t := s.task a
  let ctl := a.core?.isNone
  { task := t.ident
    apc := if a.kind == .access then pc.getD t.a.pc else t.a.pc
    xpc := if ctl then 0#64 else if a.kind == .execute then pc.getD t.x.pc else t.x.pc
    cmdidx := if ctl then 0#32 else info.cmd.getD t.cmdx
    code := info.code.code
    cls := cls
    engine := if home then .home else info.engine
    status := info.status
    empc := info.empc
    stream := a.kind == .execute
    home := home
    repc := if ctl then 0 else t.repOf a.kind
    lineage := t.lineage.length
    addr := if info.code = .eccunc then s.location p info.addr else info.addr
    tick := s.modl.frame
    launchid := s.launchId p }

/-- The black-box event of a charged fault (14 R390; 15 R422). -/
def logMachine (p : Nat) (info : TrapInfo) (s : State) : State :=
  if info.code = .eccunc || info.code = .hwfault || info.code = .linkfatal then s.bbEvent 5 p (leBytes 2 info.code.code ++ leBytes 8 (s.location p info.addr)) else s

/-- Raising a trap that discards the launch: the record is logged and the discard begins (14 R376-R380, R387). The one operation by which a word, a home or an engine of a core raises an error. An access that only waits for a page raises none. Traps raised before the discard completes are logged in the same way, in the order of the turns (log entry 84). -/
def raiseTrap (a : Agent) (info : TrapInfo) (home : Bool) (pc : Option W64) (s : State) : State :=
  match s.partOf? a.cluster with
  | none => s
  | some p => if info.wait then s else startDiscard p (logMachine p info (logTrap p (trapRecord a info info.code.cls home pc p s) s))

/-- Taking a trap at a word: it is raised, and the word's stream issues nothing more. -/
def takeTrap (a : Agent) (info : TrapInfo) (home : Bool) (pc : Option W64) (s : State) : State :=
  match s.partOf? a.cluster with
  | none => s
  | some p => if info.wait then s else stopStream p a (s.task a).a.seq (raiseTrap a info home pc s)

/-- The home of an access raises an error (14 R377, R378): the access, and those of later words of its stream, are not performed, and the stream issues nothing more (06 R153). -/
def homeTrap (a : Agent) (x : Access) (info : TrapInfo) (s : State) : State :=
  match s.partOf? a.cluster with
  | none => s
  | some p => if info.wait then s else stopStream p a x.seq (raiseTrap a info true (some x.pc) s)

/-! A trap with no task (14 R378). -/

/-- A trap record of class MACHINE or HOST that concerns no task. -/
def bareRecord (p : Nat) (info : TrapInfo) (s : State) : TrapRecord :=
  { task := 0#64, apc := 0#64, xpc := 0#64, cmdidx := 0#32, code := info.code.code, cls := info.code.cls, engine := info.engine, status := info.status,
    empc := 0, stream := false, home := false, repc := 0, lineage := 0,
    addr := if info.code = .eccunc then s.location p info.addr else info.addr, tick := s.modl.frame, launchid := s.launchId p }

/-- An error charged to a partition (14 R389): it discards the active launch; without one there is only the event. -/
def chargePart (p : Nat) (info : TrapInfo) (s : State) : State :=
  let s' := logMachine p info s
  match (s.part p).launch with
  | some l => if l.phase = .starting then s' else startDiscard p (logTrap p (bareRecord p info s) s')
  | none => s'

/-- The task with an identifier that a core holds: in a context, or parked. -/
def heldTask? (s : State) (p core : Nat) (id : W64) : Option Task :=
  let k := s.core core
  let inCtx (c : Context) : Option Task := if c.state ≠ .free && c.task.ident = id then some c.task else none
  let parked := match (s.part p).launch with | some l => l.parked | none => []
  ((inCtx k.ctx0).or (inCtx k.ctx1)).or ((parked.find? fun x => x.core == core && x.image.task.ident == id).map (·.image.task))

/-- Taking a trap for an error against a command of the access stream, whose task may have gone (14 R377, R378; 08 R211). -/
def trapCommand (b : Issuer) (info : TrapInfo) (s : State) : State :=
  let a : Agent := .access b.core
  match s.partOf? a.cluster with
  | none => s
  | some p =>
    if info.wait then s else
    let t := heldTask? s p b.core b.task
    let pcs := match t with | some t => (t.a.pc, t.x.pc) | none => b.pcs.getD (0#64, 0#64)
    let r : TrapRecord :=
      { task := b.task, apc := pcs.1, xpc := pcs.2, cmdidx := b.idx, code := info.code.code, cls := info.code.cls, engine := info.engine,
        status := info.status, empc := info.empc, stream := false, home := false, repc := match t with | some t => t.a.rep | none => 0,
        lineage := b.lineage, addr := if info.code = .eccunc then s.location p info.addr else info.addr, tick := s.modl.frame,
        launchid := s.launchId p }
    startDiscard p (logMachine p info (logTrap p r s))

/-- Stopping at a break (14 R381, BRKEN = 1): a record of class BREAK is logged, vector 2 is raised (15 R416), the word's stream stands after the BRK word, and the task is stopped. -/
def takeBreak (a : Agent) (next : W64) (s : State) : State :=
  match s.partOf? a.cluster with
  | none => s
  | some p =>
    ((logTrap p (trapRecord a { code := .brk } .brk false none p s) s).raisePart p 2).modTask a fun t =>
      { t.setPc a.kind next with brk := true, waited := true }

end Sys2Proof.Machine
end

