-- ==== Sys2Proof/Machine/Order.lean ====
section
/-! DEFINITION. Order among a task's queued accesses (spec/06_ordering_and_publication.md R140-R148, R150, R154): which accesses lie before which, and when a release's condition holds. -/

namespace Sys2Proof.Machine

open Sys2Proof

/-- Does an ord release? -/
def releases : MemOrder → Bool
  | .release | .acqrel => true
  | _ => false

/-- Does an ord acquire? -/
def acquires : MemOrder → Bool
  | .acquire | .acqrel => true
  | _ => false

/-- The elements of an access not yet performed whose homes lie within a scope. -/
def Access.openIn (a : Agent) (sc : Scope) (x : Access) : Bool :=
  x.elems.any fun e => !e.done && inScope a sc (targetHome a.stack e.tgt)

/-- Is any access that a task issued before the word `seq`, of those that `which` names, unperformed within a scope? -/
def openBefore (a : Agent) (t : Task) (seq : Nat) (sc : Scope) (which : Access → Bool) : Bool :=
  (t.a.loads ++ t.a.stores).any fun x => decide (x.seq < seq) && which x && x.openIn a sc

/-- Is an exact-class message that the task sent before the word `seq` not performed yet (06 R152)? -/
def messagesBefore (t : Task) (seq : Nat) : Bool := t.a.exact.any fun k => decide (k.1 < seq)

/-- Is the condition of a release at a scope met by what the task issued before the word `seq`: every access within the scope is performed, and at system scope every exact-class message (06 R145, R152)? -/
def releaseMet (a : Agent) (t : Task) (seq : Nat) (sc : Scope) : Bool :=
  !openBefore a t seq sc (fun _ => true) && (sc ≠ .system || !messagesBefore t seq)

/-- Does the condition of every release before the word `seq` hold (06 R145, R148, R150 item 1)? -/
def releasesMet (a : Agent) (t : Task) (seq : Nat) : Bool :=
  (t.a.marks.all fun m =>
    match m.kind with
    | .fence o sc => !(releases o && decide (m.seq < seq)) || releaseMet a t m.seq sc
    | .dovetail => true) &&
  (t.a.stores.all fun x => !(releases x.ord && decide (x.seq < seq)) || releaseMet a t x.seq x.scope)

/-- The agent whose accesses a stream's task makes: its access stream. -/
def Agent.accessSide : Agent → Agent
  | .execute c => .access c
  | a => a

/-- May the head entry of an access-to-execute queue be popped (04 R96; 06 R150 item 1)? -/
def entryReady (a : Agent) (t : Task) (seq : Nat) (arrived : Bool) : Bool :=
  arrived && releasesMet a.accessSide t seq

end Sys2Proof.Machine
end

