-- ==== Sys2Proof/Machine/Operands.lean ====
section
/-! DEFINITION. Operand forms: what reading and writing each specifier does in each stream, when an operand holds issue, and the bounds of the execute stream (spec/02 R44-R51; spec/04 R92-R98; spec/07 R168). -/

namespace Sys2Proof.Machine

open Sys2Proof

/-- A word at issue: its agent, its address, the address after it and its literal, and its number among its stream's words. -/
structure Ctx where
  a : Agent
  pc : W64
  next : W64
  seq : Nat
deriving DecidableEq, Repr

/-- Why a word does not issue now. -/
inductive HoldWhy where
  /-- A pop of an empty queue, or a push to a full one (02 R48). -/
  | emptyQueue
  | fullQueue
  /-- PQPOP of an empty predicate queue. -/
  | pqEmpty
  /-- A result or a queue entry has not arrived (04 R98, 02 R51). -/
  | landing
  /-- A busy tile (07 R188). -/
  | tile
  /-- A stream rendezvous (04 R94). -/
  | rendezvous
  /-- On a predicted arm (04 R114). -/
  | prediction
  /-- The commit buffer has no room (11 R327). -/
  | commit
  /-- The load or store queue is full (06 R140), or an inner access must wait its turn. -/
  | accesses
  /-- A copy engine's queue is full (08 R193). -/
  | engineQueue
  /-- A swap is pending, shadow writes are outstanding, or the sorting engine's queue is full (09 R249, R251, R252). -/
  | swap
  /-- A bucket or dense engine's queue is full, or the engine is stopped by the access stream (09 R265). -/
  | bucketFull
  | engineFull
  | stoppedEngine
  | stoppedDense
  /-- A queue unit that holds QPUSH, QPOP or EVQPOP. -/
  | queueUnit
  /-- Commands of the task that TEND waits for (01 R23; 09 R271; 10 R291), or drains that a dense command's reads wait for (10 R290). -/
  | commands
  | gather
  /-- The jig pool is full (11 R310). -/
  | pool
  /-- A read of D-space by the word meets a page that must be requested (13 R367). -/
  | page (page : Nat)
  /-- A wait that makes the task WAITING (01 R22). -/
  | wait (w : WaitFor)
  /-- A record takes its place in the line of a cluster's event queue, or stands there (11 R322). -/
  | place (g : Nat) (r : EvRec)
  | line
  /-- The turn of the word at a queue unit, as fences, releases and acquires go (06 R145, R148). -/
  | turn
deriving DecidableEq, Repr

/-- Why a word has no effect: it holds, or it traps. -/
inductive Stop where
  | hold (w : HoldWhy)
  /-- A hold of a word that has read its operand in memory, and does not read it again (08 R199; 11 R309, R315, R326). -/
  | keep (bs : List Byte) (w : HoldWhy)
  | trap (i : TrapInfo)
deriving DecidableEq, Repr

/-- Raise a program error at the word. -/
def err {α : Type} (c : TrapCode) : Except Stop α := .error (.trap { code := c })
def errAt {α : Type} (c : TrapCode) (addr : Nat) : Except Stop α := .error (.trap { code := c, addr := addr })
def holdFor {α : Type} (w : HoldWhy) : Except Stop α := .error (.hold w)
def keepFor {α : Type} (bs : List Byte) (w : HoldWhy) : Except Stop α := .error (.keep bs w)

/-- A word that has read `bs` keeps them while it holds. -/
def keeping {α : Type} (bs : List Byte) : Except Stop α → Except Stop α
  | .error (.hold w) => .error (.keep bs w)
  | r => r

/-! Keys of the execute stream's bound table. -/

def keyReg (k : Nat) : Nat := k
def keyPred (p : Pred) : Nat := 100 + p.val
def keyV (r row : Nat) : Nat := 1000 + 16 * r + row
def keyM (m row : Nat) : Nat := 2000 + 16 * m + row
def keyT (t row : Nat) : Nat := 3000 + 64 * t + row
def keyL (l : Nat) : Nat := 4000 + l
/-- The landing of the last TRD of a tile (07 R188). -/
def keyTrd (t : Nat) : Nat := 5000 + t

/-- Is a read of the resource at clock `at_` before its bound (02 R51)? Never in interlocked scoreboard mode. -/
def early (t : Task) (key at_ : Nat) : Bool := !t.scoreboard && decide (at_ < tget 0 t.x.ready key)

/-- The result of a word lands by clock `by_` at the latest: a register written twice is undefined until both bounds have elapsed (02 R51). -/
def bound (t : Task) (key by_ : Nat) : Task :=
  { t with x := { t.x with ready := tput t.x.ready key (max by_ (tget 0 t.x.ready key)) } }

/-- The bound of a latency code (02 R50). -/
def lcBound (lc : BitVec 3) : Nat :=
  match lc.toNat with
  | 0 => 1 | 1 => 2 | 2 => 3 | 3 => 4 | 4 => 6 | 5 => 8 | 6 => 12 | _ => 16

/-! Reading. -/

/-- Keys of the scalar register file: 0-55, 61 lr, 62 sp (02 R46). -/
def keyLr : Nat := 61
def keySp : Nat := 62

/-- Is the scalar register owned by the execute stream (04 R91)? -/
def execOwned (k : Nat) : Bool := decide (48 ≤ k) && decide (k < 56)

/-- Read a scalar register (04 R93, R94; 02 R51). -/
def readReg (c : Ctx) (k : Nat) (s : State) : W64 × State :=
  let t := s.task c.a
  match c.a with
  | .execute _ =>
    if execOwned k then
      if early t (keyReg k) t.x.clk then (Config.freeWord s.freeCtr, s.drawn) else (tget 0#64 t.regs k, s)
    else (tget 0#64 t.entry k, s)
  | _ => (tget 0#64 t.regs k, s)

/-- Pop the head of sq n; the hold checks have seen that it is present. -/
def popSq (c : Ctx) (n : Nat) (s : State) : W64 × State :=
  let t := s.task c.a
  match tget [] t.q.sq n with
  | [] => (0#64, s)
  | e :: r => (e.val.getD 0#64, s.setTask c.a { t with q := { t.q with sq := tput t.q.sq n r } })

/-- Read a scalar source (02 R46). -/
def readScalar (c : Ctx) (x : Scalar) (s : State) : W64 × State :=
  match x with
  | .lit w => (w.signExtend 64, s)
  | .zr => (0#64, s)
  | .s n => readReg c n.val s
  | .lr => readReg c keyLr s
  | .sp => readReg c keySp s
  | .sq n => popSq c n.val s

/-- Read the old value of a field that is read and written (02 R47). -/
def readDst (c : Ctx) (x : SDst) (s : State) : W64 × State :=
  match x with
  | .s n => readReg c n.val s
  | .lr => readReg c keyLr s
  | .sp => readReg c keySp s
  | .zr | .sq _ => (0#64, s)

/-- Read a predicate as an operand or guard: the execute stream reads p0-p7 as their entry value 0, and p8-p11 under R51 (04 R93). -/
def readPred (c : Ctx) (p : Pred) (s : State) : Bool × State :=
  let t := s.task c.a
  match c.a with
  | .execute _ =>
    if p.val < 8 then (false, s)
    else if early t (keyPred p) t.x.clk then (Config.freeBit s.freeCtr 0, s.drawn)
    else (t.preds.getLsbD p.val, s)
  | _ => (t.preds.getLsbD p.val, s)

/-! Writing. -/

/-- A push into sq n by a word of the access stream; discarded when the execute stream has ended (04 R97). -/
def pushSq (c : Ctx) (n : Nat) (v : Option W64) (s : State) : State :=
  let t := s.task c.a
  if t.x.ended then s
  else s.setTask c.a { t with q := { t.q with sq := tput t.q.sq n (tget [] t.q.sq n ++ [{ seq := c.seq, val := v }]) } }

/-- Write a scalar register: at once in the access stream, by a bound of `b` clocks in the execute stream (02 R50). -/
def writeReg (c : Ctx) (k b : Nat) (v : W64) (s : State) : State :=
  let t := s.task c.a
  match c.a with
  | .execute _ => s.setTask c.a (bound { t with regs := tput t.regs k v } (keyReg k) (t.x.clk + b))
  | _ => s.setTask c.a { t with regs := tput t.regs k v, a := { t.a with pend := tdel t.a.pend k } }

/-- Write a scalar destination (02 R46): zr discards, sq0-sq3 push. -/
def writeDst (c : Ctx) (d : SDst) (b : Nat) (v : W64) (s : State) : State :=
  match d with
  | .zr => s
  | .s n => writeReg c n.val b v s
  | .lr => writeReg c keyLr b v s
  | .sp => writeReg c keySp b v s
  | .sq n => pushSq c n.val (some v) s

/-- Write a predicate: at once in the access stream; by a bound of 1 in the execute stream, where it may pass its bound unlanded (04 R104, R113). -/
def writePred (c : Ctx) (p : Pred) (v : Bool) (s : State) : State :=
  let t := s.task c.a
  let preds := if v then t.preds ||| (1#12 <<< p.val) else t.preds &&& ~~~(1#12 <<< p.val)
  match c.a with
  | .execute _ =>
    let t := bound { t with preds := preds } (keyPred p) (t.x.clk + 1)
    let rest := t.x.unlanded.filter (· ≠ p)
    s.setTask c.a { t with x := { t.x with unlanded := if s.late then p :: rest else rest } }
  | _ => s.setTask c.a { t with preds := preds }

/-! Holds. -/

/-- Is the execute stream quiescent (04 R94)? -/
def quiescent (t : Task) : Bool := t.x.ended || (t.x.hold ≠ .none && t.x.arm.isNone)

/-- Does a field make a word of the access stream read an execute-owned register (04 R94)? A control core owns all its registers. -/
def needsRendezvous (a : Agent) (r : Role) : Bool :=
  match a with
  | .access _ =>
    match r with
    | .src (.s n) => execOwned n.val
    | .psrc p => decide (8 ≤ p.val)
    | _ => false
  | _ => false

/-- Does the guard make a word of the access stream rendezvous (04 R94)? -/
def guardRendezvous (a : Agent) (g : Guard) : Bool :=
  match g with
  | .always => false
  | .onTrue p | .onFalse p => needsRendezvous a (.psrc p)

/-- Room in a queue between the streams, for a push by the other stream's consumer state: a push to a queue whose consumer has ended never holds (04 R97). -/
def pushRoom (consumerEnded : Bool) (len depth : Nat) : Except Stop Unit :=
  if consumerEnded || len < depth then .ok () else holdFor .fullQueue

/-- A pop of a queue: QUNDERRUN when it is empty and its producer has ended, a hold when it is empty, a hold on landing when its head has not arrived (04 R96, R97; 02 R48). -/
def popCheck (producerEnded empty ready : Bool) : Except Stop Unit :=
  if empty then (if producerEnded then err .qunderrun else holdFor .emptyQueue)
  else if ready then .ok () else holdFor .landing

/-- Does the access stream hold on a register that waits for a load (04 R98)? -/
def pendCheck (t : Task) (k : Nat) : Except Stop Unit :=
  if (tget? t.a.pend k).isSome then holdFor .landing else .ok ()

/-- Is a tile busy with a tile move (07 R188)? -/
def tileBusy (k : Core) (t : Tile) : Bool := k.eng.tiles.any (·.tile == t)

/-- The hold or error that one operand field raises at issue. -/
def roleStop (a : Agent) (s : State) (r : Role) : Except Stop Unit :=
  let t := s.task a
  match a with
  | .execute core =>
    match r with
    | .src (.sq n) =>
      let q := tget [] t.q.sq n.val
      popCheck t.a.ended q.isEmpty ((q.head?.map fun e => entryReady a t e.seq e.val.isSome).getD false)
    | .vsrc (.vq n) =>
      let q := tget [] t.q.vq n.val
      popCheck t.a.ended q.isEmpty ((q.head?.map fun e => entryReady a t e.seq e.ready).getD false)
    | .vdst .vqs => pushRoom t.a.ended t.q.vqs.length 4
    | .tsrc tl | .tdst tl => if tileBusy (s.core core) tl then holdFor .tile else .ok ()
    | .psrc p => if t.x.arm.isSome && t.x.unlanded.contains p then holdFor .prediction else .ok ()
    | _ => .ok ()
  | _ =>
    if needsRendezvous a r && !quiescent t then holdFor .rendezvous
    else match r with
    | .src (.s n) => pendCheck t n.val
    | .src .lr => pendCheck t keyLr
    | .src .sp => pendCheck t keySp
    | .rw (.s n) => pendCheck t n.val
    | .rw .lr => pendCheck t keyLr
    | .rw .sp => pendCheck t keySp
    | .dst (.sq n) => pushRoom t.x.ended (tget [] t.q.sq n.val).length 16
    | .vdst (.vq n) => pushRoom t.x.ended (tget [] t.q.vq n.val).length 4
    | .vsrc .vqs => popCheck t.x.ended t.q.vqs.isEmpty true
    | _ => .ok ()

/-- The holds of all fields, in field order. -/
def rolesStop (a : Agent) (s : State) : List Role → Except Stop Unit
  | [] => .ok ()
  | r :: rs => do roleStop a s r; rolesStop a s rs

end Sys2Proof.Machine
end

