-- ==== Sys2Proof/Machine/Issue.lean ====
section
/-! DEFINITION. Issuing a word (spec/02_instruction_words.md R43-R45, R55, R57, R60-R62; spec/04 R94, R98, R113-R116): legality, the guard, the holds of its operands, its effect, and the step past it. Every word's meaning goes through `issue`. -/

namespace Sys2Proof.Machine

open Sys2Proof

/-- What a step of the model answers. -/
abbrev Answer := Host.Outcome State Fault Refusal

/-- The hold counters that a hold of the execute stream advances (04 R116, 07 R191, 10 R296, 11 R331). -/
def xHoldCtr : HoldWhy → List CoreCtr
  | .emptyQueue | .fullQueue | .landing => [.xqwaitclk]
  | .tile => [.xholdclk, .tilewaitclk]
  | .commit => [.cbholdclk]
  | .stoppedEngine | .bucketFull => [.xholdclk]
  | .engineFull | .stoppedDense => [.xholdclk, .dmqwaitclk]
  | .gather => [.gwaitclk]
  | _ => []

/-- The core counters that a hold of the access stream advances (04 R116, 11 R331, 12 R351). -/
def aHoldCtr : HoldWhy → List CoreCtr
  | .rendezvous => [.rdvclk]
  | .pqEmpty => [.pqwaitclk]
  | .queueUnit => [.qwaitclk]
  | .wait .queue => [.qwaitclk]
  | .wait .ring => [.rngwaitclk]
  | .wait (.cell _) => [.cellwaitclk]
  | _ => []

/-- The cluster counters that a hold of the access stream advances (08 R243). -/
def aHoldClus : HoldWhy → List ClusCtr
  | .engineQueue => [.cpqfullclk]
  | .wait (.barrier _) => [.barwclk]
  | _ => []

/-- The hold that a rendezvous sees (04 R94). -/
def xHoldKind : HoldWhy → XHold
  | .emptyQueue => .emptyQueue
  | .fullQueue => .fullQueue
  | .stoppedEngine | .stoppedDense => .stoppedEngine
  | _ => .none

/-- What a hold of the access stream waits for, if it is a wait. -/
def waitOf : HoldWhy → Option WaitFor
  | .wait f => some f
  | .emptyQueue | .pqEmpty => some .pop
  | .place .. | .line => some .queue
  | _ => none

/-- The access stream holds; its task is WAITING or RUNNING for it (01 R22, R38; log entry 85). -/
def standing (w : HoldWhy) (t : Task) : Task :=
  match waitOf w with
  | some f => { t with a := { t.a with wait := some f }, acted := t.acted || !f.waiting, waited := t.waited || f.waiting }
  | none => { t with acted := true }

/-- A turn in which the agent's word does not issue: clocks pass, and what the word waits on is remembered (01 R22, 04 R94, R116). -/
def holdStep (a : Agent) (w : HoldWhy) (s : State) : State :=
  match a with
  | .execute c =>
    let s := (xHoldCtr w).foldl (fun s k => s.coreClk c k) s
    s.modTask a fun t => { t with x := { t.x with clk := t.x.clk + 1, hold := xHoldKind w } }
  | _ =>
    let t := s.task a
    let s := (aHoldCtr w).foldl (fun s k => s.agentClk a k) s
    let s := (aHoldClus w).foldl (fun s k => s.clusClk a.cluster k) s
    let s := if w = .pool then s.partClk ((s.partOf? a.cluster).getD 0) .poolwaitclk else s
    let s := s.modTask a (standing w)
    match w with
    | .place g r => s.modCluster g fun k => { k with evWait := k.evWait ++ [{ rec_ := r, poster := .word a }] }
    | .page n =>
      let p := (s.partOf? a.cluster).getD 0
      ((requestPage p a.cluster n false s).clusCtr a.cluster .cpwalks 1).modPart p fun pt =>
        { pt with dreads := pt.dreads ++ [{ who := .arrival (a.core?.getD 0), page := n, failed := false }] }
    | .rendezvous =>
      let s := if t.a.rdv then s else s.agentCtr a .rdvcount 1
      s.modTask a fun t => { t with a := { t.a with rdv := true } }
    | _ => s

/-- A word that holds, or traps: it has no effect of its own (02 R62, 14 R378). On a predicted arm an error waits for the resolution (11 R327). -/
def stopStep (a : Agent) (st : Stop) (s : State) : State :=
  match st with
  | .hold w => holdStep a w s
  | .keep bs w => (holdStep a w s).modTask a fun t => { t with a := { t.a with kept := some bs } }
  | .trap i => if (s.task a).x.arm.isSome && a.kind == .execute then holdStep a .prediction s else takeTrap a i i.home none s

/-- The hold of a guard (02 R44; 04 R94): a rendezvous of the access stream, or a predicted predicate of the execute stream. -/
def guardStop (a : Agent) (g : Guard) (s : State) : Except Stop Unit :=
  match g with
  | .always => .ok ()
  | .onTrue p | .onFalse p => roleStop a s (.psrc p)

/-- Is the word guarded on (02 R43, R44)? -/
def guardOn (c : Ctx) (g : Guard) (s : State) : Bool × State :=
  match g with
  | .always => (true, s)
  | .onTrue p => readPred c p s
  | .onFalse p => let (v, s) := readPred c p s; (!v, s)

/-- The address of the word that the stream issues: the target of a REP while repeats are left (02 R55). -/
def wordAddr (t : Task) (k : StreamKind) : W64 := if t.repOf k = 0 then t.pcOf k else t.pcOf k + 4#64

/-- Step past a word of `n` words: under REP the counter falls, and the PC moves only after the last repeat (02 R55). -/
def stepPast (k : StreamKind) (n : Nat) (t : Task) : Task :=
  if t.repOf k = 0 then t.setPc k (t.pcOf k + BitVec.ofNat 64 (4 * n))
  else if t.repOf k = 1 then (t.setPc k (t.pcOf k + 4#64 + BitVec.ofNat 64 (4 * n))).setRep k 0
  else t.setRep k (t.repOf k - 1)

/-- Does a scalar or predicate field, or the guard, read the bounded register with this key? -/
def readsKey (w : WordInfo) (k : Nat) : Bool :=
  w.roles.any (fun r => match r with
    | .src (.s n) => execOwned n.val && k == keyReg n.val
    | .rw (.s n) => k == keyReg n.val
    | .psrc p => k == keyPred p
    | _ => false) ||
  (match w.guard with | .always => false | .onTrue p | .onFalse p => k == keyPred p)

/-- Does a vector, mask, tile or latch field read the row with this key, in groups of `g` registers (07 R165)? m0 is read by the masked forms (02 R59). -/
def readsRow (w : WordInfo) (g k : Nat) : Bool :=
  let row (base n m : Nat) : Bool := decide (base + m * n ≤ k) && decide (k < base + m * (n + g))
  w.roles.any (fun r => match r with
    | .vsrc (.v n) | .vrw (.v n) => row (keyV 0 0) n.val 16
    | .msrc m => row (keyM 0 0) m.val 16
    | .tsrc t => decide (keyT t.val 0 ≤ k) && decide (k < keyT t.val 64)
    | .lsrc l => k == keyL l.val
    | _ => false) ||
  (w.masked && row (keyM 0 0) 0 16)

/-- Has a word no field that reads rows? -/
def rowless (w : WordInfo) : Bool :=
  !w.masked && w.roles.all fun r => match r with | .vsrc (.v _) | .vrw (.v _) | .msrc _ | .tsrc _ | .lsrc _ => false | _ => true

/-- Results whose bound has elapsed and that are read have landed: a read at or after the bound freezes issue until then (02 R51). A landed result stands with clock 0. -/
def landKeys (reads : Nat → Bool) (t : Task) : Task :=
  { t with x := { t.x with ready := t.x.ready.map fun e => if reads e.1 && decide (e.2 ≤ t.x.clk) then (e.1, 0) else e } }

/-- Registers and predicates that a word or its guard reads after their bound are landed by the freeze of 02 R51; a rendezvous lands all predicates. -/
def landReads (a : Agent) (w : WordInfo) (t : Task) : Task :=
  match a with
  | .execute _ =>
    let reads := (w.roles.filterMap fun | .psrc p => some p | _ => none) ++
      (match w.guard with | .always => [] | .onTrue p | .onFalse p => [p])
    landKeys (readsKey w) { t with x := { t.x with unlanded := t.x.unlanded.filter fun p => !reads.contains p || early t (keyPred p) t.x.clk } }
  | .access _ =>
    if guardRendezvous a w.guard || w.roles.any (needsRendezvous a) then { t with x := { t.x with unlanded := [] } } else t
  | .control _ => t

/-- G of a core's VCFG (07 R162). -/
def State.groupSize (s : State) (c : Nat) : Nat := 2 ^ bitsOf (s.core c).vec.vcfg.toNat 33 32

/-- Rows that a word reads after their bound are landed, in the same way (02 R51; 07 R168). -/
def landRows (a : Agent) (w : WordInfo) (s : State) : State :=
  match a with
  | .execute c => if rowless w then s else s.modTask a (landKeys (readsRow w (s.groupSize c)))
  | _ => s

/-- Does the word read a result that may not have landed by its bound, so that issue may freeze (02 R51)? -/
def freezes (a : Agent) (w : WordInfo) (s : State) : Bool :=
  match a with
  | .execute c =>
    let t := s.task a
    t.x.ready.any (fun e => e.2 ≠ 0 && decide (e.2 ≤ t.x.clk) && (readsKey w e.1 || (!rowless w && readsRow w (s.groupSize c) e.1))) ||
      t.x.unlanded.any fun p => readsKey w (keyPred p) && !early t (keyPred p) t.x.clk
  | _ => false

/-- The clocks of such a freeze are counted (04 R116): an amount that the spec does not state, which may be 0 (log entry 6). -/
def countFreeze (a : Agent) (w : WordInfo) (s : State) : State := if freezes a w s then s.agentClk a .xholdclk else s

/-- Is a task in scoreboard mode still waiting for a register write of before its stop? One of the access stream's loads and atomics: a write of the execute stream from before a break has landed when the host continues the task (log entry 82). -/
def boardOn (t : Task) : Bool := t.scoreboard && t.a.pend.any fun x => decide (x.2 < t.sbSeq)

/-- A task runs in interlocked scoreboard mode from now on, in which no read of what was written before is early (14 R401). -/
def scoreboardTask (t : Task) : Task := { t with scoreboard := true, sbSeq := t.a.seq, x := { t.x with ready := [], unlanded := [] } }

/-- After a word has issued: the clock of the execute stream moves on by its slot; the access stream's waits end with what its word kept, and what held the execute stream may have changed; scoreboard mode ends once nothing is outstanding from before the stop (04 R94, R98; 14 R401). -/
def afterIssue (a : Agent) (s : State) : State :=
  s.modTask a fun t =>
    match a with
    | .execute _ => { t with x := { t.x with clk := t.x.clk + 1, hold := .none }, scoreboard := boardOn t }
    | _ => { t with a := { t.a with wait := none, rdv := false, kept := none }, x := { t.x with hold := .none }, scoreboard := boardOn t, acted := true }

/-- Count a rendezvous that found the execute stream quiescent at once, and the 2 clocks that each one holds (04 R94, R116). -/
def countRendezvous (a : Agent) (w : WordInfo) (s : State) : State :=
  if guardRendezvous a w.guard || w.roles.any (needsRendezvous a) then
    (if (s.task a).a.rdv then s else s.agentCtr a .rdvcount 1).agentCtr a .rdvclk 2
  else s

/-- The word at issue, numbered among its stream's words. Under REP the address of the word is that of the target, so that an error which a home raises for a repeat after its issue is recorded at the target, with the REPC of that moment (log entry 100, DEDUCED). -/
def ctxOf (a : Agent) (w : WordInfo) (s : State) : Ctx :=
  let t := s.task a
  let pc := wordAddr t a.kind
  { a := a, pc := pc, next := pc + BitVec.ofNat 64 (4 * w.words), seq := t.a.seq }

/-- The state in which a word's effect takes place: the reads have landed, and a freeze for them is counted; the stream has stepped past the word, and the access stream's next word has the next number. -/
def atIssue (a : Agent) (w : WordInfo) (s : State) : State :=
  (landRows a w (countFreeze a w (countRendezvous a w s))).modTask a fun t =>
    let t := stepPast a.kind w.words (landReads a w t)
    if a.kind == .access then { t with a := { t.a with seq := t.a.seq + 1 } } else t

/-- Issue a word of a live stream: nothing while a CLD of the task waits (12 R338); legality first, then the guard, then the holds, then the effect (02 R45, R62). -/
def issueLive (w : WordInfo) (body : Ctx → State → Except Stop State) (a : Agent) (s : State) : State :=
  let t := s.task a
  let onArm := t.x.arm.isSome && a.kind == .execute
  if a.kind == .access && t.a.loads.any (·.waiting) then
    holdStep a (.wait (.cell ((t.a.loads.find? (·.waiting)).map (·.seq) |>.getD 0))) s
  else if !w.legal a.kind a.core?.isNone then stopStep a (.trap { code := .illegal }) s
  else if onArm && (!w.engine || w.roles.any fun r => r.queue?.isSome) then holdStep a .prediction s
  else
    match guardStop a w.guard s with
    | .error st => stopStep a st s
    | .ok _ =>
      let c := ctxOf a w s
      let (on, s1) := guardOn c w.guard s
      if !on then afterIssue a (atIssue a { w with roles := w.roles.filter fun r => r.lit?.isSome, masked := false } s1)
      else
        match rolesStop a s1 w.roles with
        | .error st => stopStep a st s
        | .ok _ =>
          match body c (atIssue a w s1) with
          | .error st => stopStep a st s
          | .ok s2 => afterIssue a s2

/-- The meaning of a word: what issuing it does at the agent whose turn it is. -/
def issue (w : WordInfo) (s : State) (body : Ctx → State → Except Stop State) : Answer :=
  if s.live s.cur then .next (issueLive w body s.cur s) else .fault .noStream

/-- A word whose body cannot stop. -/
def issuePure (w : WordInfo) (s : State) (body : Ctx → State → State) : Answer :=
  issue w s fun c s => .ok (body c s)

end Sys2Proof.Machine
end

