-- ==== Sys2Proof/Machine/Memory.lean ====
section
/-! DEFINITION. Bytes of memory: the canonical list, reads and writes of any width, and what a write does beside its bytes (spec/00_scope.md R11; spec/02 R42; spec/12 R332, R335; spec/13 R373-R375; spec/14 R389, R405). -/

namespace Sys2Proof.Machine

open Sys2Proof

/-! The list of bytes: addresses strictly rising, no byte 0. An unlisted byte reads as 0 (15 R409 scrubs every memory; notes/assumptions/3.md). -/

/-- What an unlisted address reads as. -/
def unlistedByte : Byte := 0#8

/-- The byte at an address. -/
def readCell : List Host.Cell → Nat → Byte
  | [], _ => unlistedByte
  | (j, b) :: r, a => if j = a then b else readCell r a

/-- Write a byte; a byte equal to what an unlisted address reads as is not listed. -/
def writeCell : List Host.Cell → Nat → Byte → List Host.Cell
  | [], a, b => if b = unlistedByte then [] else [(a, b)]
  | (j, c) :: r, a, b =>
    if j = a then (if b = unlistedByte then r else (a, b) :: r)
    else if a < j then (if b = unlistedByte then (j, c) :: r else (a, b) :: (j, c) :: r)
    else (j, c) :: writeCell r a b

/-- The canonical form: every address above the bound before it, no byte 0. -/
def memWfFrom : Nat → List Host.Cell → Bool
  | _, [] => true
  | lo, (a, b) :: r => decide (lo ≤ a) && decide (b ≠ unlistedByte) && memWfFrom (a + 1) r

/-- The memory of a state is in canonical form. -/
def Memory.wf (m : List Host.Cell) : Bool := memWfFrom 0 m

/-! Undefined bytes. -/

/-- The free byte that an undefined address reads as. -/
def undefByte (l : List UndefRange) (a : Nat) : Option Byte :=
  (l.find? fun r => decide (r.lo ≤ a) && decide (a < r.hi)).map fun r => Config.freeByte r.k a

/-- Take an address out of the undefined ranges. -/
def undefCut (l : List UndefRange) (a : Nat) : List UndefRange :=
  l.flatMap fun r =>
    if r.lo ≤ a && a < r.hi then
      (if r.lo < a then [{ r with hi := a }] else []) ++ (if a + 1 < r.hi then [{ r with lo := a + 1 }] else [])
    else [r]

/-! Bytes of the state. -/

/-- The byte at a flat address. -/
def State.byte (s : State) (a : Nat) : Byte := (undefByte s.attr.undef a).getD (readCell s.mem a)

/-- `n` bytes from a flat address. -/
def State.bytes (s : State) (a n : Nat) : List Byte := (List.range n).map fun i => s.byte (a + i)

/-- Write one byte, with no further effect. -/
def State.putByte (s : State) (a : Nat) (b : Byte) : State :=
  { s with mem := writeCell s.mem a b, attr := { s.attr with undef := undefCut s.attr.undef a } }

/-- Write bytes from an address on, with no further effect. -/
def State.putBytes : State → Nat → List Byte → State
  | s, _, [] => s
  | s, a, b :: r => (s.putByte a b).putBytes (a + 1) r

/-! Transient regions of LP memory (13 R373, R374). -/

/-- The partition whose LP allotment holds an address. -/
def State.lpPart (s : State) (a : Nat) : Option Nat :=
  (List.range 24).find? fun p =>
    let al := (s.part p).regs.plp
    decide (lpBase + al.base ≤ a) && decide (a < lpBase + al.base + al.size)

/-- FIRST, NPAGE and EN of a region register. -/
def regionHas (w : W64) (page : Nat) : Bool :=
  bitOf w.toNat 0 && decide (bitsOf w.toNat 63 36 ≤ page) && decide (page < bitsOf w.toNat 63 36 + bitsOf w.toNat 35 8)

/-- Stamps that bear on a page: those of the enabled regions that hold it, and its own last write. None for a page of no enabled region. -/
def State.stampsOf (s : State) (a : Nat) : List Nat :=
  if a < lpBase then []
  else match s.lpPart a with
  | none => []
  | some p =>
    let r := (s.part p).regs
    let page := (a - lpBase - r.plp.base) / 4096
    let es := (List.range 8).filterMap fun i => if regionHas (tget 0#64 r.trans i) page then some (tget 0 r.transStamp i) else none
    if es.isEmpty then [] else es ++ (tget? s.attr.stamps (a / 4096)).toList

/-- Intervals since a stamp (INTCNT wraps at 2^48). -/
def State.age (s : State) (stamp : Nat) : Nat := (s.modl.intcnt + 2 ^ 48 - stamp) % 2 ^ 48

/-- Is the page of an address in an enabled transient region? -/
def State.transient (s : State) (a : Nat) : Bool := !(s.stampsOf a).isEmpty

/-- Has the page expired: is its youngest stamp at least 32,000 intervals old? -/
def State.expired (s : State) (a : Nat) : Bool := s.transient a && (s.stampsOf a).all fun st => decide (32000 ≤ s.age st)

/-- The bytes of a range become undefined. -/
def State.makeUndef (s : State) (lo hi : Nat) : State :=
  { s with attr := { s.attr with undef := { lo := lo, hi := hi, k := s.freeCtr } :: s.attr.undef } }.drawn

/-- A write reaches the page of an address: an expired page's bytes are undefined but for those written, and the page is current again. -/
def State.stampPage (s : State) (a : Nat) : State :=
  if s.transient a then
    let s := if s.expired a then s.makeUndef (a / 4096 * 4096) (a / 4096 * 4096 + 4096) else s
    { s with attr := { s.attr with stamps := tput s.attr.stamps (a / 4096) s.modl.intcnt } }
  else s

/-- Is the byte in memory that the partition owns (14 R391)? -/
def State.holdsByte (s : State) (p a : Nat) : Bool :=
  let r := (s.part p).regs
  let within (al : Allot) (off : Nat) : Bool := decide (al.base ≤ off) && decide (off < al.base + al.size)
  match homeOf a with
  | .die st => within (r.pdie.getD st .none) (a - dieBase st)
  | .bank st => within (r.pwb.getD st .none) ((a - bankBase st 0) % 2 ^ 32)
  | .clus g => r.pclus.getLsbD g
  | .unit c | .gbuf c => r.pclus.getLsbD (clusterOfCore c)
  | .lp _ => within r.plp (a - lpBase)
  | _ => false

/-! Units in error (14 R389). -/

/-- Does a read of the bytes meet an uncorrectable error? -/
def State.eccHit (s : State) (a n : Nat) : Bool := s.attr.ecc.any fun u => decide (u * 32 < a + n) && decide (a < u * 32 + 32)

/-- A write that covers whole units takes them out of error. -/
def eccCover (l : List Nat) (a n : Nat) : List Nat := l.filter fun u => !(decide (a ≤ u * 32) && decide (u * 32 + 32 ≤ a + n))

/-! Signed images (15 R427). -/

/-- Does a write of a partition's LP memory meet the range of an image that is LOADING or VERIFIED? -/
def imgHit (base a n : Nat) (e : ImgEntry) : Bool :=
  (e.state == 1 || e.state == 2) && decide (base + e.off < a + n) && decide (a < base + e.off + e.len)

/-- DATA of the event of an image-table change (15 R422). -/
def imgData (slot : Nat) (e : ImgEntry) : List Byte := leBytes 1 slot ++ leBytes 1 e.state ++ leBytes 1 e.result

/-- A write to a byte of an image that is not the image's own load: the entry becomes FAILED with WRITTEN. -/
def State.touchImages (s : State) (a n : Nat) : State :=
  if a < lpBase then s
  else match s.lpPart a with
  | none => s
  | some p =>
    let base := lpBase + (s.part p).regs.plp.base
    (s.part p).images.foldl (fun s e =>
      if imgHit base a n e.2 then
        let e' := { e.2 with state := 3, result := 6 }
        (s.modPart p fun pt => { pt with images := tput pt.images e.1 e' }).bbEvent 0xB p (imgData e.1 e')
      else s) s

/-- A write reaches these words: nothing older may be fetched from them (02 R42; notes/assumptions/10.md). -/
def priorCover (l : Table (List W32)) (a n : Nat) : Table (List W32) := l.filter fun x => !(decide (4 * x.1 < a + n) && decide (a < 4 * x.1 + 4))

/-- A write of bytes at their home: the images it meets, the page's stamp, the units in error, the bytes. The bytes of one write lie in one page. -/
def State.write (s : State) (a : Nat) (bs : List Byte) : State :=
  let s := (s.touchImages a bs.length).stampPage a
  ({ s with attr := { s.attr with ecc := eccCover s.attr.ecc a bs.length, prior := priorCover s.attr.prior a bs.length } }).putBytes a bs

/-- The words that a store of a launch changes, each with what it has held before its stores, the last first (02 R42). -/
def State.priorWords (s : State) (a n : Nat) : Table (List W32) :=
  (List.range ((a + n - 1) / 4 + 1 - a / 4)).map fun i =>
    (a / 4 + i, BitVec.ofNat 32 (leValue (s.bytes ((a / 4 + i) * 4) 4)) :: tget [] s.attr.prior (a / 4 + i))

/-- Words that may still be fetched as they were. -/
def State.keepPrior (s : State) (ws : Table (List W32)) : State := { s with attr := { s.attr with prior := tputAll s.attr.prior ws } }

/-- A write by a launch: the words it changes may still be fetched as they were. -/
def State.store (s : State) (a : Nat) (bs : List Byte) : State := (s.write a bs).keepPrior (s.priorWords a bs.length)

/-- A new launch of a partition fetches every word of its memory as it stands (02 R42). -/
def State.forgetPrior (s : State) (p : Nat) : State :=
  { s with attr := { s.attr with prior := s.attr.prior.filter fun x => !s.holdsByte p (4 * x.1) } }

/-- A write by a launch of bytes that may pass from one page to the next: each page's part is a write of its own. -/
def State.storePages : Nat → State → Nat → List Byte → State
  | 0, s, _, _ => s
  | n + 1, s, a, bs =>
    if bs.isEmpty then s else State.storePages n (s.store a (bs.take (4096 - a % 4096))) (a + (4096 - a % 4096)) (bs.drop (4096 - a % 4096))
def State.storeRange (s : State) (a : Nat) (bs : List Byte) : State := State.storePages (bs.length / 4096 + 2) s a bs

/-- A little-endian value of `n` bytes. -/
def State.value (s : State) (a n : Nat) : Nat := leValue (s.bytes a n)

/-- Cell state of the unit that holds a byte (12 R332). -/
def State.cellSt (s : State) (a : Nat) : CellSt := tget .value s.attr.cells (a / 32)

/-- Set a cell's state. -/
def State.setCellSt (s : State) (a : Nat) (c : CellSt) : State :=
  { s with attr := { s.attr with cells := if c = .value then tdel s.attr.cells (a / 32) else tput s.attr.cells (a / 32) c } }

/-- Does this device own the page of the address (14 R405)? -/
def State.owned (s : State) (a : Nat) : Bool := !s.attr.away.any fun r => decide (r.1 ≤ a / 4096) && decide (a / 4096 < r.2)

/-- Does it own every page of a range? -/
def State.ownedRange (s : State) (a n : Nat) : Bool :=
  !s.attr.away.any fun r => decide (r.1 * 4096 < a + n) && decide (a < r.2 * 4096)

end Sys2Proof.Machine
end

