-- ==== Sys2Proof/Machine/Window.lean ====
section
/-! DEFINITION. Translation through the locked window (spec/05_scratchpads_and_window.md R120-R124; spec/09 R247; spec/11 R324). -/

namespace Sys2Proof.Machine

open Sys2Proof

/-- Kinds of access (R123). `engineStore` is the store of an engine or copy engine, which may name a veneered buffer. -/
inductive AccKind where
  | load | store | engineStore | atomic | fetch | cell | publish | zread | zwrite
deriving DecidableEq, Repr

/-- Types allowed for a kind (R121, R123). -/
def kindAllows : AccKind → WinType → Bool
  | .load, .unit | .load, .peer | .load, .clus | .load, .die | .load, .wbank | .load, .gbuf | .load, .veneer => true
  | .store, .unit | .store, .peer | .store, .clus | .store, .die => true
  | .engineStore, .unit | .engineStore, .peer | .engineStore, .clus | .engineStore, .die | .engineStore, .veneer => true
  | .atomic, .unit | .atomic, .peer | .atomic, .clus | .atomic, .die => true
  | .fetch, .unit | .fetch, .clus | .fetch, .die => true
  | .cell, .defer => true
  | .publish, .veneer => true
  | .zread, .comp | .zwrite, .comp => true
  | _, _ => false

/-- Permissions needed (R123). -/
def kindPermits (k : AccKind) (e : WinEntry) : Bool :=
  match k with
  | .load | .publish | .zread => e.rd
  | .store | .zwrite => e.w
  | .engineStore => if e.typ == .veneer then e.rd else e.w
  | .atomic | .cell => e.rd && e.w
  | .fetch => e.x

/-- The error of a type that is not allowed (R123). -/
def typeError (k : AccKind) (ty : WinType) : TrapCode :=
  match k with
  | .fetch => .fetchwin
  | .load | .store | .engineStore | .atomic => if ty == .comp then .compressed else .wintype
  | .zread | .zwrite => .compressed
  | _ => .wintype

/-- Size of an entry in bytes. -/
def WinEntry.bytes (e : WinEntry) : Nat := 2 ^ (e.size + 12)

/-- Does an entry match an address (R123)? -/
def WinEntry.covers (e : WinEntry) (va : W64) : Bool :=
  decide (e.vbase * 4096 ≤ va.toNat) && decide (va.toNat < e.vbase * 4096 + e.bytes)

/-- Where the byte of an entry at offset `off` of its target stands for an agent whose task captured the selectors `sels`. -/
def entryTarget (s : State) (a : Agent) (p : Nat) (sels : BitVec 4) (e : WinEntry) (off : Nat) : Target :=
  let r := (s.part p).regs
  let st := a.stack
  match e.typ with
  | .unit => .byte (unitBase (a.core?.getD 0) + off)
  | .peer => .byte (unitBase (24 * a.cluster + e.index) + off)
  | .clus => .byte (clusBase a.cluster + off)
  | .die | .comp =>
    if e.back then .byte (lpBase + r.plp.base + off) else .byte (dieBase e.index + (r.pdie.getD e.index .none).base + off)
  | .wbank =>
    let al := r.pwb.getD st .none
    if off < al.size then .byte (bankBase st (b2n (sels.getLsbD st)) + al.base + off) else .zeros
  | .gbuf => .byte (gbufBase (a.core?.getD 0) + off)
  | .defer =>
    if e.back then .byte (lpBase + r.plp.base + off) else .byte (dieBase st + (r.pdie.getD st .none).base + off)
  | .veneer => .veneer e.index (e.toff * 4096) e.bytes (off - e.toff * 4096)

/-- Types that name memory of a core's own, which a control core does not have (11 R324; notes/assumptions/15.md for the gather buffer). -/
def ownType : WinType → Bool
  | .unit | .gbuf => true
  | _ => false

/-- The entry and the target offset of an address, or the error (R123). -/
def translateEntry (window : List WinEntry) (ctl : Bool) (va : W64) (k : AccKind) : Except TrapCode (WinEntry × Nat) :=
  match window.find? (·.covers va) with
  | none => .error (if k == .fetch then .fetchwin else .winmiss)
  | some e =>
    if !kindAllows k e.typ || (ctl && ownType e.typ) then .error (typeError k e.typ)
    else if !kindPermits k e then .error (if k == .fetch then .fetchwin else .winperm)
    else .ok (e, e.toff * 4096 + (va.toNat - e.vbase * 4096))

/-- Translate for an agent's task (R123). -/
def translate (s : State) (a : Agent) (t : Task) (va : W64) (k : AccKind) : Except TrapCode Target := do
  let (e, off) ← translateEntry t.window a.core?.isNone va k
  return entryTarget s a (s.partOf? a.cluster |>.getD 0) t.sels e off

/-- The copy of a veneered buffer that observers read (06 R156). -/
def Launch.selector (l : Launch) (stack toff size : Nat) : Bool :=
  match l.veneers.find? fun v => v.stack == stack && v.toff == toff && v.size == size with
  | some v => v.sel
  | none => false

/-- The flat address of copy `c` of a veneered buffer of partition `p`. -/
def veneerAddr (s : State) (p stack toff size off : Nat) (c : Bool) : Nat :=
  dieBase stack + ((s.part p).regs.pdie.getD stack .none).base + toff + (if c then size else 0) + off

/-- The flat address that a load reads: the published copy of a veneered buffer (06 R156). None reads zeros. -/
def loadAddr (s : State) (p : Nat) : Target → Option Nat
  | .byte a => some a
  | .zeros => none
  | .barrier _ => none
  | .queueUnit _ => none
  | .veneer st toff size off =>
    let c := match (s.part p).launch with | some l => l.selector st toff size | none => false
    some (veneerAddr s p st toff size off c)

/-- The flat address that an engine's write reaches: the veneer as named now (06 R156). -/
def engineAddr (s : State) (p : Nat) : Target → Option Nat
  | .byte a => some a
  | .zeros => none
  | .barrier _ => none
  | .queueUnit _ => none
  | .veneer st toff size off =>
    let c := match (s.part p).launch with | some l => l.selector st toff size | none => false
    some (veneerAddr s p st toff size off (!c))

end Sys2Proof.Machine
end

