-- ==== Sys2Proof/Machine/Perform.lean ====
section
/-! DEFINITION. Performing queued accesses at their homes: which may be performed, forwarding, and delivery (spec/06_ordering_and_publication.md R138-R148, R152, R154, R160; spec/05 R130-R136). -/

namespace Sys2Proof.Machine

open Sys2Proof

/-- The partition of an agent. -/
def State.partOf (s : State) (a : Agent) : Nat := (s.partOf? a.cluster).getD 0

/-- Why an element may not be performed now. -/
inductive Blocked where
  /-- Same home, same queue (R140), an earlier element of the word (05 R133), same bytes (R141), a page of another device (14 R405), a cell access (R154), or not at the head of its queue. -/
  | order
  /-- The load at the head of its queue waits for a store or an atomic without a forwarding-table entry (R142). -/
  | dispatch
  /-- The head of a queue is held by a fence, DOVETAIL, a release or acquire atomic, or PUBLISH (R145, R146, R148, R157). -/
  | fence
deriving DecidableEq, Repr

/-- Do two byte ranges meet? -/
def meet (a n b m : Nat) : Bool := decide (a < b + m) && decide (b < a + n)

/-- Elements of an access that have not been performed. -/
def Access.open_ (x : Access) : List AccElem := x.elems.filter fun e => !e.done

/-- Elements whose home has not answered: none for a waiting CLD (12 R338). -/
def Access.pending (x : Access) : List AccElem := if x.waiting then [] else x.open_

/-- The home of an element, as its agent reaches it. -/
def elemHome (a : Agent) (e : AccElem) : Home := targetHome a.stack e.tgt

/-- Does an unperformed element of `x` read or write a byte of `e`? -/
def touches (s : State) (p : Nat) (x : Access) (e : AccElem) : Bool :=
  match loadAddr s p e.tgt with
  | none => false
  | some b => x.pending.any fun f => match loadAddr s p f.tgt with | some c => meet b e.n c f.n | none => false

/-- Is the access a plain store, whose data a later load may take? -/
def Access.isStore (x : Access) : Bool := match x.op with | .store => true | _ => false
/-- Is it an atomic (R145 counts atomics with loads for an acquire)? -/
def Access.isAtomic (x : Access) : Bool := match x.op with | .atomic .. => true | _ => false
/-- Does it hold later loads of its bytes: an atomic, or a cell access that may write (R141; notes/assumptions/17.md)? -/
def Access.holdsLoads (x : Access) : Bool := match x.op with | .atomic .. => true | .cell .. => true | _ => false
def Access.isLoad (x : Access) : Bool := match x.op with | .load | .barRead => true | .cell .ld _ => true | _ => false

/-- Does a store or an atomic before a word hold no forwarding-table entry (R142)? -/
def unforwarded (t : Task) (seq : Nat) : Bool := t.a.stores.any fun z => decide (z.seq < seq) && !z.fwd && (z.isStore || z.isAtomic)

/-- May a load be dispatched, as far as earlier stores and atomics of its task go (R141, R142)? -/
def dispatchable (s : State) (p : Nat) (t : Task) (y : Access) : Bool :=
  t.a.stores.all fun z =>
    !decide (z.seq < y.seq) || (z.fwd || !(z.isStore || z.isAtomic)) && (!z.holdsLoads || !(y.open_.any fun e => touches s p z e))

/-- Is anything open in a scope before a word? -/
def openAny (a : Agent) (t : Task) (seq : Nat) (sc : Scope) : Bool := openBefore a t seq sc fun _ => true

/-- Do the markers before an access let one of its elements be performed (R145, R146)? A FENCE orders accesses within its scope only, on both sides (R143; log entry 83). -/
def marksAllow (a : Agent) (t : Task) (x : Access) (e : AccElem) : Bool :=
  t.a.marks.all fun m =>
    !decide (m.seq < x.seq) ||
    match m.kind with
    | .dovetail => !openAny a t m.seq .system
    | .fence o sc =>
      !inScope a sc (elemHome a e) ||
        ((x.isLoad || !releases o || releaseMet a t m.seq sc) &&
         (!acquires o || !openBefore a t m.seq sc fun y => y.isLoad || y.isAtomic))

/-- Do acquiring accesses before it, and its own release, let an element be performed (R148, R154, R157)? A CLD acquires until it has its value. -/
def accessesAllow (a : Agent) (t : Task) (x : Access) (e : AccElem) : Bool :=
  ((t.a.loads ++ t.a.stores).all fun y =>
    !(decide (y.seq < x.seq) && acquires y.ord && !y.open_.isEmpty && inScope a y.scope (elemHome a e))) &&
  (!releases x.ord || releaseMet a t x.seq x.scope)

/-- A CLD on a cell that has no value yet only joins the cell's waiters, so that no earlier waiting CLD has to come first (12 R338; log entry 86). -/
def joinsWaiters (s : State) (p : Nat) (x : Access) (e : AccElem) : Bool :=
  match x.op, loadAddr s p e.tgt with
  | .cell .ld _, some b => s.cellSt b == .suspended || s.cellSt b == .evaluating
  | _, _ => false

/-- The accesses of a task that bear on an element: a CLD that only joins the waiters passes those that wait already. -/
def bearing (s : State) (p : Nat) (t : Task) (x : Access) (e : AccElem) : Task :=
  if joinsWaiters s p x e then { t with a := { t.a with loads := t.a.loads.filter fun y => !y.waiting } } else t

/-- Is an access held for a cell access of its task, which is no cause that R160 counts? -/
def heldForCell (t : Task) (x : Access) : Bool :=
  (match x.op with | .cell .. => true | _ => false) ||
    (t.a.loads ++ t.a.stores).any fun y => decide (y.seq < x.seq) && acquires y.ord && match y.op with | .cell .. => true | _ => false

/-- Does this device own the bytes of an element (14 R405)? -/
def ownedElem (s : State) (p : Nat) (e : AccElem) : Bool :=
  match loadAddr s p e.tgt with
  | some b => s.owned b
  | none => true

/-- What keeps an element of `x` from being performed, if anything does; `earlier` are the accesses before it in its queue. The elements of a word are performed in ascending number (05 R133). -/
def elemBlocked (s : State) (a : Agent) (t : Task) (inStore : Bool) (earlier : List Access) (x : Access) (e : AccElem) : Option Blocked :=
  let p := s.partOf a
  if earlier.any fun y => y.pending.any fun f => elemHome a f == elemHome a e then some .order
  else if x.open_.any (fun f => decide (f.j < e.j)) || !ownedElem s p e then some .order
  else if !inStore && (earlier ++ [x]).any (fun y => !dispatchable s p t y) then some (if earlier.isEmpty && unforwarded t x.seq then .dispatch else .order)
  else if inStore && t.a.loads.any (fun y => decide (y.seq < x.seq) && touches s p y e) then some .order
  else if !marksAllow a t x e then some (if earlier.isEmpty then .fence else .order)
  else if !accessesAllow a (bearing s p t x e) x e then some (if earlier.isEmpty && !heldForCell t x then .fence else .order)
  else none

/-- The byte that a load of word `seq` takes from the youngest earlier unperformed store of its task (R141). -/
def forwardByte (t : Task) (seq b : Nat) : Option Byte :=
  (t.a.stores.filter fun z => z.isStore && decide (z.seq < seq)).reverse.findSome? fun z =>
    z.open_.reverse.findSome? fun f =>
      match f.tgt with
      | .byte c => if c ≤ b && b < c + f.n then some (BitVec.ofNat 8 (f.data.toNat / 2 ^ (8 * (b - c)))) else none
      | _ => none

/-- The bytes that a load element returns, and whether one of them was forwarded. -/
def loadBytes (s : State) (a : Agent) (t : Task) (seq : Nat) (e : AccElem) : List Byte × Bool :=
  match loadAddr s (s.partOf a) e.tgt with
  | none => (List.replicate e.n 0#8, false)
  | some b =>
    let fs := (List.range e.n).map fun i => forwardByte t seq (b + i)
    ((fs.zip (s.bytes b e.n)).map fun fb => fb.1.getD fb.2, fs.any Option.isSome)

/-- What a read of an element's bytes at their home meets: an expired page (05 R131), a unit in error (14 R389). -/
def readTrap (s : State) (a : Agent) (e : AccElem) : Option TrapInfo :=
  match loadAddr s (s.partOf a) e.tgt with
  | none => none
  | some b =>
    if s.eccHit b e.n then some { code := .eccunc, addr := b }
    else if s.expired b then some { code := .transientexpired, addr := e.va.toNat }
    else none

/-- The unit scratchpad of another core that an access reaches counts it (05 R136 PEERIN); a wait for a bank of the own one is of unstated length (SPBANKWAIT). An access through a PEER entry that names the core's own number counts as one of its own, which is the model's choice (log entry 88). -/
def countHome (a : Agent) (h : Home) (s : State) : State :=
  match h with
  | .unit c => if a.core? = some c then s.coreClk c .spbankwait else s.coreCtr c .peerin 1
  | _ => s

/-! The queues. -/

/-- Change access `i` of a queue of the agent's task. -/
def modAccess (a : Agent) (inStore : Bool) (i : Nat) (f : Access → Access) (s : State) : State :=
  s.modTask a fun t =>
    if inStore then { t with a := { t.a with stores := lmod t.a.stores i f } }
    else { t with a := { t.a with loads := lmod t.a.loads i f } }

/-- An element has been performed. -/
def elemDone (j : Nat) (x : Access) : Access := { x with elems := x.elems.map fun e => if e.j = j then { e with done := true } else e }

/-- Does a marker order messages: a fence that releases at system scope (R152)? -/
def Mark.ordersMessages (m : Mark) : Bool := match m.kind with | .fence o .system => releases o | _ => false

/-- Markers are done with once their earlier accesses, and the messages that they order, have all been performed. -/
def pruneMarks (t : Task) : Task :=
  let open_ (seq : Nat) := (t.a.loads ++ t.a.stores).any fun x => decide (x.seq < seq) && !x.open_.isEmpty
  { t with a := { t.a with marks := t.a.marks.filter fun m => open_ m.seq || m.ordersMessages && messagesBefore t m.seq } }

/-- The virtual address of the cell that holds an address (14 R377). -/
def cellVa (va : W64) : Nat := va.toNat / 32 * 32

/-- Take out an access whose elements have all been performed: its entries are free. A store word that met a busy cell raises CELLBUSY once, naming its lowest such element (12 R335). -/
def retireAccess (a : Agent) (inStore : Bool) (i : Nat) (s : State) : State :=
  let t := s.task a
  match (if inStore then t.a.stores else t.a.loads)[i]? with
  | none => s
  | some x =>
    if !x.open_.isEmpty then s
    else
      let s := s.modTask a fun t =>
        pruneMarks (if inStore then { t with a := { t.a with stores := ldel t.a.stores i } }
          else { t with a := { t.a with loads := ldel t.a.loads i } })
      let s := match x.op with
        | .load => (s.agentCtr a .sploads 1).agentCtr a .fwdhits (b2n x.hit)
        | .store => s.agentCtr a .spstores 1
        | .atomic .. => s.agentCtr a .atomics 1
        | .publish => s.agentCtr a .publishes 1
        | .cell .. | .barInit | .barAdd | .barRead => s
      match x.busy with
      | some (_, va) => homeTrap a x { code := .cellbusy, addr := cellVa va } s
      | none => s

/-- Deliver element `j` of a load: to its register, its scalar entry or its place in a row group (05 R133; 04 R96, R98). -/
def deliver (x : Access) (j : Nat) (v : W64) (t : Task) : Task :=
  match x.dst with
  | .none => t
  | .reg k =>
    if tget? t.a.pend k = some x.seq then { t with regs := tput t.regs k v, a := { t.a with pend := tdel t.a.pend k } } else t
  | .sq n => { t with q := { t.q with sq := tput t.q.sq n ((tget [] t.q.sq n).map fun q => if q.seq = x.seq then { q with val := some v } else q) } }
  | .vq n =>
    let last := (x.open_.length == 1)
    { t with q := { t.q with vq := tput t.q.vq n ((tget [] t.q.vq n).map fun q =>
        if q.seq = x.seq then { q with data := tput q.data j (v.truncate 32), ready := last } else q) } }

/-- Perform one element of a load. -/
def performLoad (a : Agent) (i : Nat) (x : Access) (e : AccElem) (s : State) : State :=
  match readTrap s a e with
  | some info => homeTrap a x info s
  | none =>
    let t := s.task a
    let (bs, fwd) := loadBytes s a t x.seq e
    let s := countHome a (elemHome a e) s
    let s := s.modTask a (deliver x e.j (BitVec.ofNat 64 (leValue bs)))
    retireAccess a false i (modAccess a false i (fun y => { elemDone e.j y with hit := y.hit || fwd }) s)

/-- Is the unit of an address one that a store may write (12 R335)? Only die and LP memory carry cell states. -/
def storable (s : State) (b : Nat) : Bool := s.cellSt b == .value

/-- Does a byte lie in a memory that keeps cell states (12 R332)? -/
def keepsCells (b : Nat) : Bool := decide (b < 2 ^ 36) || decide (lpBase ≤ b)

/-- A write looks at the state of the unit that it changes, which is an error of a unit in error (14 R389); a write of whole units takes them out of it (log entry 87). -/
def stateTrap (s : State) (b n : Nat) : Option TrapInfo :=
  let inPart (u : Nat) : Bool := !(decide (b ≤ 32 * u) && decide (32 * u + 32 ≤ b + n))
  match ((List.range ((b + n - 1) / 32 + 1 - b / 32)).map fun i => b / 32 + i).find? fun u => keepsCells (32 * u) && inPart u && s.attr.ecc.contains u with
  | some u => some { code := .eccunc, addr := 32 * u }
  | none => none

/-- Perform one element of a store. -/
def performStore (a : Agent) (i : Nat) (x : Access) (e : AccElem) (s : State) : State :=
  match e.tgt with
  | .byte b =>
    match stateTrap s b e.n with
    | some info => homeTrap a x info s
    | none =>
      let s := countHome a (elemHome a e) s
      if storable s b then
        retireAccess a true i (modAccess a true i (elemDone e.j) (s.store b (leBytes e.n e.data.toNat)))
      else
        retireAccess a true i (modAccess a true i (fun y => { elemDone e.j y with busy := some (y.busy.getD (e.j, e.va)) }) s)
  | _ => s

/-- What an atomic writes, if it writes (R147): `old` and `opd` are `w`-bit values, `cas` the compare value's fellow. -/
def atomicNew (op : AtomicOp) (w : Nat) (old opd swap : Nat) : Option Nat :=
  let sg (x : Nat) : Int := (BitVec.ofNat w x).toInt
  match op with
  | .add => some ((old + opd) % 2 ^ w)
  | .and => some (old &&& opd)
  | .or => some (old ||| opd)
  | .xor => some (old ^^^ opd)
  | .min => some (if sg old ≤ sg opd then old else opd)
  | .max => some (if sg old ≤ sg opd then opd else old)
  | .swp => some opd
  | .cas => if old = opd then some (swap % 2 ^ w) else none

/-- Perform an atomic (R147, R149). -/
def performAtomic (a : Agent) (i : Nat) (x : Access) (e : AccElem) (op : AtomicOp) (swap : W64) (s : State) : State :=
  match e.tgt with
  | .byte b =>
    match readTrap s a e with
    | some info => homeTrap a x info s
    | none =>
      if !storable s b then homeTrap a x { code := .cellbusy, addr := cellVa e.va } s
      else
        let w := 8 * e.n
        let old := s.value b e.n
        let s := countHome a (elemHome a e) s
        let s := match atomicNew op w old (e.data.toNat % 2 ^ w) swap.toNat with
          | some v => s.store b (leBytes e.n v)
          | none => s
        retireAccess a true i (modAccess a true i (elemDone e.j) (s.modTask a (deliver x e.j (BitVec.ofNat 64 old))))
  | _ => s

/-- The publication instant of a veneered buffer (R157): its selector is exchanged for every observer. -/
def publishBuffer (p stack toff size : Nat) (s : State) : State :=
  let now := s.modl.frame
  s.modLaunch p fun l =>
    { l with veneers := l.veneers.map fun v =>
        if v.stack = stack && v.toff = toff && v.size = size then { v with sel := !v.sel, past := (now, v.sel) :: v.past } else v }

/-- An element that is blocked: the clocks of its wait are counted (R160). -/
def blockedStep (a : Agent) (w : Blocked) (s : State) : State :=
  match w with
  | .dispatch => s.agentClk a .fwdfullclk
  | .fence => s.agentClk a .ordholdclk
  | .order => s

/-! Accesses that a word makes at its issue. -/

/-- An access of one word, made at issue, as the last of its queue. -/
def innerAccess (c : Ctx) (ord : MemOrder) (scope : Scope) (e : AccElem) : Access :=
  { seq := c.seq, pc := c.pc, op := .load, ord := ord, scope := scope, dst := .none, fwd := true, elems := [e], hit := false, busy := none, waiting := false, answer := none }

def innerElem (va : W64) (tgt : Target) (n : Nat) : AccElem := { j := 0, va := va, tgt := tgt, n := n, data := 0#64, done := false }

/-- Read bytes at issue, in the order of the task's accesses; holds while an earlier one must come first. -/
def innerRead (c : Ctx) (va : W64) (tgt : Target) (n : Nat) (s : State) : Except Stop (List Byte) :=
  let t := s.task c.a
  let e := innerElem va tgt n
  let x := innerAccess c .relaxed .unit e
  match elemBlocked s c.a t false t.a.loads x e with
  | some _ => holdFor .accesses
  | none =>
    match readTrap s c.a e with
    | some info => .error (.trap info)
    | none => .ok (loadBytes s c.a t c.seq e).1

/-- A read that a word has made at its issue is counted by the unit scratchpad of another core that served it (05 R136). -/
def countRead (c : Ctx) (va : W64) (s : State) : State :=
  match translate s c.a (s.task c.a) va .load with
  | .ok tgt =>
    match targetHome c.a.stack tgt with
    | .unit k => if c.a.core? = some k then s else s.coreCtr k .peerin 1
    | _ => s
  | .error _ => s

/-- The turn of bytes that a word writes at its issue, in the order of the task's accesses: holds while an earlier one must come first. -/
def innerTurn (c : Ctx) (va : W64) (tgt : Target) (n : Nat) (s : State) : Except Stop Unit :=
  let t := s.task c.a
  let e := innerElem va tgt n
  let x := { innerAccess c .relaxed .unit e with op := .store }
  match elemBlocked s c.a t true t.a.stores x e with
  | some _ => holdFor .accesses
  | none => .ok ()

/-- The first unit of a range that is no VALUE cell (12 R335). -/
def busyUnit (s : State) (a n : Nat) : Option Nat :=
  ((List.range ((a + n - 1) / 32 + 1 - a / 32)).map fun i => (a / 32 + i) * 32).find? fun u => s.cellSt u ≠ .value

/-- May these bytes be written at their home by a word that reaches it at issue? `va` and `b` are the address of the word and the flat address that it names; ECCUNC for a unit in error, CELLBUSY for a unit outside VALUE, both at the home (12 R335; 14 R377, R389). -/
def writableAt (va : W64) (b lo n : Nat) (s : State) : Except Stop Unit :=
  match stateTrap s lo n with
  | some i => .error (.trap { i with home := true })
  | none =>
    match busyUnit s lo n with
    | some u => .error (.trap { code := .cellbusy, addr := (va.toNat + (u - b)) / 32 * 32, home := true })
    | none => .ok ()

end Sys2Proof.Machine
end

