-- ==== Sys2Proof/Machine/LoadStore.lean ====
section
/-! DEFINITION. Scalar and vector loads and stores, majors 0x10 to 0x12 (spec/05_scratchpads_and_window.md R131-R135; spec/06 R140-R142). -/

namespace Sys2Proof.Machine

open Sys2Proof

/-- Entries of the load queue in use: its accesses and the DOVETAIL markers (06 R140, R146). -/
def loadsUsed (t : Task) : Nat := t.a.loads.length + (t.a.marks.filter fun m => m.kind == .dovetail).length
/-- Entries of the store queue in use. -/
def storesUsed (t : Task) : Nat := t.a.stores.length + (t.a.marks.filter fun m => m.kind == .dovetail).length

/-- A full queue holds issue (06 R140). -/
def loadRoom (c : Ctx) (s : State) : Except Stop Unit := if loadsUsed (s.task c.a) < 32 then .ok () else holdFor .accesses
def storeRoom (c : Ctx) (s : State) : Except Stop Unit := if storesUsed (s.task c.a) < 32 then .ok () else holdFor .accesses

/-- Does a word take a forwarding-table entry: is it a store or an atomic (06 R142)? -/
def AccOp.forwards : AccOp → Bool
  | .store | .atomic .. => true
  | _ => false

/-- Is a forwarding-table entry free (06 R142)? -/
def fwdRoom (t : Task) : Bool := decide ((t.a.stores.filter (·.fwd)).length < 16)

/-- Claim the destination of a load: the register waits, the queue entry is claimed (04 R96, R98). -/
def claim (c : Ctx) (dst : LoadDst) (ready : Bool) (s : State) : State :=
  match dst with
  | .none => s
  | .reg k => s.modTask c.a fun t => { t with a := { t.a with pend := tput t.a.pend k c.seq } }
  | .sq n => pushSq c n none s
  | .vq n =>
    if (s.task c.a).x.ended then s
    else s.modTask c.a fun t =>
      { t with q := { t.q with vq := tput t.q.vq n (tget [] t.q.vq n ++ [{ seq := c.seq, data := [], ready := ready }]) } }

/-- Where a scalar destination receives its load. -/
def loadDst : SDst → LoadDst
  | .s n => .reg n.val
  | .sq n => .sq n.val
  | .zr => .none
  | .lr => .reg keyLr
  | .sp => .reg keySp

/-- An access of the word at issue. -/
def accessOf (c : Ctx) (op : AccOp) (ord : MemOrder) (scope : Scope) (dst : LoadDst) (fwd : Bool) (es : List AccElem) : Access :=
  { seq := c.seq, pc := c.pc, op := op, ord := ord, scope := scope, dst := dst, fwd := fwd, elems := es, hit := false, busy := none, waiting := false, answer := none }

/-- Put a load into the load queue; one without elements is complete at once. -/
def pushLoad (c : Ctx) (op : AccOp) (ord : MemOrder) (scope : Scope) (dst : LoadDst) (es : List AccElem) (s : State) : State :=
  let s := claim c dst es.isEmpty s
  if es.isEmpty then s.agentCtr c.a .sploads 1
  else s.modTask c.a fun t => { t with a := { t.a with loads := t.a.loads ++ [accessOf c op ord scope dst false es] } }

/-- Put a store into the store queue; a store or an atomic takes a forwarding-table entry if one is free. -/
def pushStore (c : Ctx) (op : AccOp) (ord : MemOrder) (scope : Scope) (dst : LoadDst) (es : List AccElem) (s : State) : State :=
  let s := claim c dst es.isEmpty s
  if es.isEmpty then s.agentCtr c.a .spstores 1
  else s.modTask c.a fun t => { t with a := { t.a with stores := t.a.stores ++ [accessOf c op ord scope dst (op.forwards && fwdRoom t) es] } }

/-- Does an access read an expired page (R131; 13 R374)? -/
def deadRead (s : State) (p : Nat) (k : AccKind) (tgt : Target) : Bool :=
  match k, loadAddr s p tgt with
  | .load, some b => s.expired b
  | .atomic, some b => s.expired b
  | _, _ => false

/-- Check and translate one access of `n` bytes (R131): MISALIGN, the errors of R123, then TRANSIENTEXPIRED for a read. -/
def checkAccess (c : Ctx) (va : W64) (n align : Nat) (k : AccKind) (s : State) : Except TrapInfo AccElem :=
  if va.toNat % align ≠ 0 then .error { code := .misalign, addr := va.toNat }
  else
    match translate s c.a (s.task c.a) va k with
    | .error e => .error { code := e, addr := va.toNat }
    | .ok tgt =>
      if deadRead s (s.partOf c.a) k tgt then .error { code := .transientexpired, addr := va.toNat }
      else .ok { j := 0, va := va, tgt := tgt, n := n, data := 0#64, done := false }

/-- An error of R131 stops the word. -/
def orTrap {α : Type} : Except TrapInfo α → Except Stop α
  | .ok x => .ok x
  | .error i => .error (.trap i)

/-- A scalar load of `n` bytes (R132). -/
def scalarLoad (g : Guard) (d : SDst) (a b : Scalar) (n : Nat) (s : State) : Answer :=
  issue (accCtl g [.dst d, .src a, .src b]) s fun c s => do
    loadRoom c s
    let (x, s) := readScalar c a s
    let (y, s) := readScalar c b s
    let e ← orTrap (checkAccess c (x + y) n n .load s)
    return pushLoad c .load .relaxed .unit (loadDst d) [e] s

/-- A scalar store of `n` bytes (R132). -/
def scalarStore (g : Guard) (d a b : Scalar) (n : Nat) (s : State) : Answer :=
  issue (accCtl g [.src d, .src a, .src b]) s fun c s => do
    storeRoom c s
    let (v, s) := readScalar c d s
    let (x, s) := readScalar c a s
    let (y, s) := readScalar c b s
    let e ← orTrap (checkAccess c (x + y) n n .store s)
    return pushStore c .store .relaxed .unit .none [{ e with data := v }] s

/-- LDB (R132) -/
def execLdb (g : Guard) (d : SDst) (a b : Scalar) (s : State) : Answer := scalarLoad g d a b 1 s
/-- LDH (R132) -/
def execLdh (g : Guard) (d : SDst) (a b : Scalar) (s : State) : Answer := scalarLoad g d a b 2 s
/-- LDW (R132) -/
def execLdw (g : Guard) (d : SDst) (a b : Scalar) (s : State) : Answer := scalarLoad g d a b 4 s
/-- LDD (R132) -/
def execLdd (g : Guard) (d : SDst) (a b : Scalar) (s : State) : Answer := scalarLoad g d a b 8 s
/-- STB (R132) -/
def execStb (g : Guard) (d a b : Scalar) (s : State) : Answer := scalarStore g d a b 1 s
/-- STH (R132) -/
def execSth (g : Guard) (d a b : Scalar) (s : State) : Answer := scalarStore g d a b 2 s
/-- STW (R132) -/
def execStw (g : Guard) (d a b : Scalar) (s : State) : Answer := scalarStore g d a b 4 s
/-- STD (R132) -/
def execStd (g : Guard) (d a b : Scalar) (s : State) : Answer := scalarStore g d a b 8 s

/-! Vector loads and stores. -/

/-- Check the elements that take part, lowest first (R131, R133). -/
def checkElems (c : Ctx) (k : AccKind) (s : State) : List (Nat × W64) → Except TrapInfo (List AccElem)
  | [] => .ok []
  | (j, va) :: r =>
    match checkAccess c va 4 4 k s with
    | .error i => .error i
    | .ok e =>
      match checkElems c k s r with
      | .error i => .error i
      | .ok es => .ok ({ e with j := j } :: es)

/-- Address of element j of a contiguous or strided row group (R134). -/
def addrStep (a : W64) (step : Int) (j : Nat) : W64 := a + BitVec.ofInt 64 (step * j)

/-- All 256 elements with their addresses. -/
def strided (a : W64) (step : Int) : List (Nat × W64) := (List.range 256).map fun j => (j, addrStep a step j)

/-- The elements that an index row group lets take part, with their addresses (R134). -/
def indexed (idx : VqsEntry) (a limit : W64) : List (Nat × W64) :=
  (List.range 256).filterMap fun j =>
    let i := (tget 0#32 idx.data j).toNat
    if idx.mask.getLsbD j && i < limit.toNat then some (j, a + BitVec.ofNat 64 (4 * i)) else none

/-- A stride or base of a strided access that is no multiple of 4 (R134). MISALIGN is raised before any other error of an element, which is the model's choice (log entry 96). -/
def strideCheck (a stride : W64) : Except Stop Unit :=
  if a.toNat % 4 ≠ 0 then errAt .misalign a.toNat
  else if stride.toNat % 4 ≠ 0 then errAt .misalign (a + stride).toNat
  else .ok ()

/-- The number of a vector queue. -/
def vqIndex : VReg → Nat
  | .vq n => n.val
  | _ => 0

/-- The head of vqs; the hold checks have seen that it is present. -/
def headVqs (t : Task) (i : Nat) : VqsEntry := (t.q.vqs[i]?).getD { data := [], mask := 0#256 }
def dropVqs (c : Ctx) (n : Nat) (s : State) : State := s.modTask c.a fun t => { t with q := { t.q with vqs := t.q.vqs.drop n } }

/-- A vector load word whose element addresses are known (R133). -/
def vecLoad (c : Ctx) (vd : VReg) (es : List (Nat × W64)) (s : State) : Except Stop State := do
  let es ← orTrap (checkElems c .load s es)
  return pushLoad c .load .relaxed .unit (.vq (vqIndex vd)) es s

/-- A vector store word whose element addresses are known: element j carries element j of `data`. -/
def vecStore (c : Ctx) (data : VqsEntry) (es : List (Nat × W64)) (s : State) : Except Stop State := do
  let es ← orTrap (checkElems c .store s (es.filter fun x => data.mask.getLsbD x.1))
  return pushStore c .store .relaxed .unit .none (es.map fun e => { e with data := (tget 0#32 data.data e.j).zeroExtend 64 }) s

/-- A vector load or store word: only vq0-vq3 are destinations and only vqs is a source (R133), which the roles say. -/
def vmInfo (g : Guard) (v : Role) (a b : Scalar) : WordInfo := acc g [v, .src a, .src b]

/-- VLD (R134) -/
def execVld (g : Guard) (vd : VReg) (a b : Scalar) (s : State) : Answer :=
  issue (vmInfo g (.vdst vd) a b) s fun c s => do
    loadRoom c s
    let (x, s) := readScalar c a s
    let (y, s) := readScalar c b s
    vecLoad c vd (strided (x + y) 4) s
/-- VLDS (R134) -/
def execVlds (g : Guard) (vd : VReg) (a b : Scalar) (s : State) : Answer :=
  issue (vmInfo g (.vdst vd) a b) s fun c s => do
    loadRoom c s
    let (x, s) := readScalar c a s
    let (y, s) := readScalar c b s
    strideCheck x y
    vecLoad c vd (strided x y.toInt) s
/-- VLDX (R134) -/
def execVldx (g : Guard) (vd : VReg) (a b : Scalar) (s : State) : Answer :=
  issue (vmInfo g (.vdst vd) a b) s fun c s => do
    let t := s.task c.a
    popCheck t.x.ended t.q.vqs.isEmpty true
    loadRoom c s
    let (x, s) := readScalar c a s
    let (y, s) := readScalar c b s
    vecLoad c vd (indexed (headVqs t 0) x y) (dropVqs c 1 s)

/-- The elements that VLDFF loads: those from 0 on that lie within the limit and would not fail; and the error of the element that stopped it (R135). -/
def firstStop (c : Ctx) (a : W64) (limit : Int) (s : State) : Nat → Nat → List AccElem × Option TrapInfo
  | 0, _ => ([], none)
  | fuel + 1, j =>
    if (4 * j : Int) < limit then
      match checkAccess c (addrStep a 4 j) 4 4 .load s with
      | .error i => ([], some i)
      | .ok e =>
        let (es, i) := firstStop c a limit s fuel (j + 1)
        ({ e with j := j } :: es, i)
    else ([], none)

/-- VLDFF (R135) -/
def execVldff (g : Guard) (vd : VReg) (a b : Scalar) (s : State) : Answer :=
  issue (vmInfo g (.vdst vd) a b) s fun c s => do
    let t := s.task c.a
    pushRoom t.x.ended (tget [] t.q.sq (vqIndex vd)).length 16
    loadRoom c s
    let (x, s) := readScalar c a s
    let (y, s) := readScalar c b s
    let (es, stop) := firstStop c x y.toInt s 256 0
    match es, stop with
    | [], some i => .error (.trap i)
    | _, _ =>
      let s := pushLoad c .load .relaxed .unit (.vq (vqIndex vd)) es s
      return pushSq c (vqIndex vd) (some (BitVec.ofNat 64 es.length)) s

/-- VST (R134) -/
def execVst (g : Guard) (vd : VReg) (a b : Scalar) (s : State) : Answer :=
  issue (vmInfo g (.vsrc vd) a b) s fun c s => do
    storeRoom c s
    let data := headVqs (s.task c.a) 0
    let (x, s) := readScalar c a s
    let (y, s) := readScalar c b s
    vecStore c data (strided (x + y) 4) (dropVqs c 1 s)
/-- VSTS (R134) -/
def execVsts (g : Guard) (vd : VReg) (a b : Scalar) (s : State) : Answer :=
  issue (vmInfo g (.vsrc vd) a b) s fun c s => do
    storeRoom c s
    let data := headVqs (s.task c.a) 0
    let (x, s) := readScalar c a s
    let (y, s) := readScalar c b s
    strideCheck x y
    vecStore c data (strided x y.toInt) (dropVqs c 1 s)
/-- VSTX (R134): two pops claimed together, first the indices, then the data. -/
def execVstx (g : Guard) (vd : VReg) (a b : Scalar) (s : State) : Answer :=
  issue (vmInfo g (.vsrc vd) a b) s fun c s => do
    let t := s.task c.a
    popCheck t.x.ended (decide (t.q.vqs.length < 2)) true
    storeRoom c s
    let (x, s) := readScalar c a s
    let (y, s) := readScalar c b s
    vecStore c (headVqs t 1) (indexed (headVqs t 0) x y) (dropVqs c 2 s)

end Sys2Proof.Machine
end

