-- ==== Sys2Proof/Machine/Cells.lean ====
section
/-! DEFINITION. Deferred cells: the cell instructions, what they do at a cell's home, waiters and wakes (spec/12_deferred_cells.md R332-R350). -/

namespace Sys2Proof.Machine

open Sys2Proof

/-- A little-endian field of a byte list. -/
def fieldOf (bs : List Byte) (off n : Nat) : Nat := leValue ((bs.drop off).take n)

/-- Does a template keep R333: reserved bits, EVAL, CLASS, PLACE, and the fields that the OB3 writes (R337)? -/
def templateOk (bs : List Byte) : Bool :=
  let eval := fieldOf bs 0 8
  let hint := fieldOf bs 0x10 4
  let place := bitsOf hint 1 0
  (eval % 64 == 0) && decide (eval < 2 ^ 48) &&
    decide (bitsOf hint 31 18 = 0) && place != 3 && (place == 2 || decide (bitsOf hint 17 2 = 0)) &&
    (place != 2 || decide (bitsOf hint 4 2 ≤ 3)) &&
    decide (fieldOf bs 0x14 1 < 8) && fieldOf bs 0x15 1 == 0 &&
    fieldOf bs 0x16 2 == 0 && fieldOf bs 0x18 4 == 0 && fieldOf bs 0x1C 2 == 0 && fieldOf bs 0x1E 2 == 0

/-- The flat address of the cell that holds a byte. -/
def cellOf (b : Nat) : Nat := b / 32 * 32

/-- The clusters of a partition, ascending. -/
def State.clustersOf (s : State) (p : Nat) : List Nat := (List.range 192).filter fun g => (s.part p).regs.pclus.getLsbD g

/-- The home cluster of a cell (R334). -/
def homeCluster (s : State) (p cell : Nat) : Nat :=
  let r := (s.part p).regs
  let st := stackOf (homeOf cell)
  let off := if cell < lpBase then cell - dieBase st - (r.pdie.getD st .none).base else cell - lpBase - r.plp.base
  let all := s.clustersOf p
  let here := all.filter fun g => stackOfCluster g == st
  let l := if here.isEmpty then all else here
  l.getD (off / 32 % l.length) 0

/-- A field of the suspension record written by the OB3, beside the state. -/
def putField (s : State) (cell off n v : Nat) : State := s.putBytes (cell + off) (leBytes n v)

/-! Waiters (R346). -/

/-- LOGN and EN of CWSPILL (R347). -/
def spillSize (w : W64) : Nat := if bitOf w.toNat 0 then 2 ^ bitsOf w.toNat 5 1 else 0

/-- The flat address of entry `i` of the spill ring (R347). -/
def spillAddr (s : State) (p i : Nat) : Nat :=
  let r := (s.part p).regs
  let st := bitsOf r.cwspill.toNat 59 47
  dieBase st + (r.pdie.getD st .none).base + bitsOf r.cwspill.toNat 46 12 * 4096 + 16 * i

/-- CELLW of a waiter entry (R346). -/
def cellWord (s : State) (p : Nat) (w : Waiter) (parked : Bool) : Nat :=
  let r := (s.part p).regs
  let st := stackOf (homeOf w.cell)
  let off := if w.cell < lpBase then w.cell - dieBase st - (r.pdie.getD st .none).base else w.cell - lpBase - r.plp.base
  (if w.cell < lpBase then 3 else 4) * 2 ^ 60 + st * 2 ^ 58 + (off / 32) * 2 ^ 23 + w.core * 2 ^ 10 + b2n parked * 2 + 1

/-- The bytes of a waiter's entry in the ring. -/
def waiterBytes (s : State) (p : Nat) (w : Waiter) (parked : Bool) : List Byte :=
  leBytes 8 w.task.toNat ++ leBytes 8 (cellWord s p w parked)

/-- The waiters of a partition, with the cluster where each stands. -/
def State.waitersOf (s : State) (p : Nat) : List (Nat × Waiter) := (s.clustersOf p).flatMap fun g => (s.cluster g).waiters.map fun w => (g, w)

/-- The place of the spill ring for the next waiter: the first one free, on a page of this device. -/
def ringPlace (s : State) (p : Nat) : Option Nat :=
  let size := spillSize (s.part p).regs.cwspill
  let free (i : Nat) : Bool := (s.waitersOf p).all fun w => w.2.place ≠ .ring i
  match ((List.range size).map fun k => ((s.part p).cwTail + k) % size).find? free with
  | some i => if s.owned (spillAddr s p i) then some i else none
  | none => none

/-- Where a waiter of a cluster is recorded now: in the table of 64 entries, else in the spill ring. -/
def placeFor (s : State) (p g : Nat) : Option WaiterPlace :=
  if ((s.cluster g).waiters.filter (·.place == .table)).length < 64 then some .table else (ringPlace s p).map .ring

/-- Is a waiter's task parked (R348)? -/
def waiterParked (s : State) (p : Nat) (w : Waiter) : Bool :=
  match (s.part p).launch with | some l => l.parked.any fun x => x.core == w.core && x.image.task.ident == w.task | none => false

/-- A waiter takes a place: those recorded stand before those held at the home, each in its order. -/
def seatWaiter (g : Nat) (w : Waiter) (s : State) : State :=
  s.modCluster g fun k => { k with waiters := k.waiters.filter (·.place ≠ .held) ++ [w] ++ k.waiters.filter (·.place == .held) }

/-- Record a waiter at a place: NWAIT counts it, and its entry in the ring is written (R333, R346). -/
def recordAt (p g : Nat) (w : Waiter) (pl : WaiterPlace) (s : State) : State :=
  let s := if w.counted then s else putField s w.cell 0x16 2 (Nat.min (s.value (w.cell + 0x16) 2 + 1) 0xFFFF)
  let w := { w with place := pl, counted := true }
  match pl with
  | .ring i =>
    let s := (s.write (spillAddr s p i) (waiterBytes s p w (waiterParked s p w))).modPart p fun x =>
      { x with cwTail := (i + 1) % spillSize x.regs.cwspill }
    seatWaiter g w (s.clusCtr g .cwspills 1)
  | _ => seatWaiter g w s

/-- The waiter held at a home that is recorded next: the one that came first, of those for which an entry is free. -/
def heldNext (s : State) (p : Nat) : Option (Nat × Waiter × WaiterPlace) :=
  ((s.waitersOf p).filter (·.2.place == .held)).foldl (fun m x =>
    match placeFor s p x.1 with
    | none => m
    | some pl => match m with | some y => if x.2.arrival < y.2.1.arrival then some (x.1, x.2, pl) else m | none => some (x.1, x.2, pl)) none

/-- As entries become free, the waiters held at the partition's homes are recorded in order (R346). -/
def recordHeld (p : Nat) : Nat → State → State
  | 0, s => s
  | n + 1, s =>
    match heldNext s p with
    | none => s
    | some (g, w, pl) => recordHeld p n (recordAt p g w pl (s.modCluster g fun k => { k with waiters := k.waiters.filter (· ≠ w) }))

/-- A loader starts to wait: it is recorded, or held at the home behind those that are held already. -/
def recordWaiter (p g : Nat) (w : Waiter) (s : State) : State :=
  let w := { w with place := .held, arrival := (s.part p).cwSeq }
  let s := seatWaiter g w (s.modPart p fun x => { x with cwSeq := x.cwSeq + 1 })
  recordHeld p ((s.waitersOf p).filter (·.2.place == .held)).length s

/-! Delivery. -/

/-- The first waiting CLD of a task. -/
def waitingCld (t : Task) : Option Access := t.a.loads.find? (·.waiting)

/-- Complete the first waiting CLD of an agent's task that has its answer (R338): the value, or CELLFAIL. -/
def deliverOne (a : Agent) (s : State) : State :=
  let t := s.task a
  match findIdx? (fun (x : Access) => x.waiting && x.answer.isSome) t.a.loads with
  | none => s
  | some i =>
    match t.a.loads[i]? with
    | none => s
    | some x =>
      match x.answer, x.elems with
      | some (.value v), e :: _ =>
        let s := s.modTask a (deliver x e.j v)
        let s := retireAccess a false i (modAccess a false i (fun y => { elemDone e.j y with waiting := false }) s)
        s.modTask a fun t => { t with a := { t.a with wait := (waitingCld t).map fun y => .cell y.seq }, acted := t.acted || (waitingCld t).isNone }
      | some (.failed code), e :: _ =>
        homeTrap a x { code := .cellfail, addr := cellVa e.va, status := code }
          (s.modTask a fun t => { t with a := { t.a with loads := ldel t.a.loads i } })
      | _, _ => s

/-- Complete the waiting CLDs that have their answers. -/
def deliverAll : Nat → Agent → State → State
  | 0, _, s => s
  | n + 1, a, s => deliverAll n a (deliverOne a s)

/-- Change the task with an identifier that a core holds: in a context or parked (R348). -/
def modHeldTask (p core : Nat) (id : W64) (f : Task → Task) (s : State) : State :=
  let fix (t : Task) := if t.ident = id then f t else t
  let s := s.modCore core fun k =>
    { k with ctx0 := { k.ctx0 with task := fix k.ctx0.task }, ctx1 := { k.ctx1 with task := fix k.ctx1.task } }
  s.modLaunch p fun l =>
    { l with parked := l.parked.map fun q => if q.core = core then { q with image := { q.image with task := fix q.image.task } } else q }

/-- Wake one waiter: its CLD has its answer, and completes at once in a running context; the clocks of its wait are counted (R351). -/
def wakeOne (p : Nat) (w : Waiter) (ans : Access → CellAnswer) (s : State) : State :=
  let give (t : Task) : Task :=
    { t with a := { t.a with loads := t.a.loads.map fun x => if x.waiting && x.seq = w.seq then { x with answer := some (ans x) } else x } }
  let s := (modHeldTask p w.core w.task give s).coreClk w.core .cellwaitclk
  match s.task? (.access w.core) with
  | some t => if t.ident = w.task then deliverOne (.access w.core) s else s
  | none => s

/-- Wake every waiter of a cell, in the order recorded (R339). -/
def wakeAll (p cell : Nat) (ans : Access → CellAnswer) (s : State) : State :=
  let g := homeCluster s p cell
  let ws := (s.cluster g).waiters.filter (·.cell = cell)
  let s := s.modCluster g fun k => { k with waiters := k.waiters.filter (·.cell ≠ cell) }
  let s := ws.foldl (fun s w => wakeOne p w ans s) s
  recordHeld p ((s.waitersOf p).filter (·.2.place == .held)).length s

/-- The value that a CLD takes from a filled cell. -/
def cellValue (s : State) (p : Nat) (x : Access) : CellAnswer :=
  match x.elems with
  | e :: _ => match loadAddr s p e.tgt with
    | some b => .value (BitVec.ofNat 64 (s.value b 8))
    | none => .value 0#64
  | [] => .value 0#64

/-- A cell fails with a code, and its waiters are woken (R339, R342). -/
def failCell (p cell code : Nat) (s : State) : State :=
  let s := (putField s cell 0x18 4 code).setCellSt cell .failed
  wakeAll p cell (fun _ => .failed code) (s.clusCtr (homeCluster s p cell) .cellfails 1)

/-! What the home does. -/

/-- A CLD at its home (R338). -/
def performCld (a : Agent) (i : Nat) (x : Access) (e : AccElem) (s : State) : State :=
  let p := s.partOf a
  let t := s.task a
  match loadAddr s p e.tgt with
  | none => s
  | some b =>
    let cell := cellOf b
    let g := homeCluster s p cell
    let wait (s : State) : State :=
      let s := modAccess a false i (fun y => { y with waiting := true }) s
      s.modTask a (standing (.wait (.cell x.seq)))
    let me : Waiter := { cell := cell, core := a.core?.getD 0, task := t.ident, seq := x.seq, place := .held, arrival := 0, counted := false }
    match readTrap s a e with
    | some info => homeTrap a x info s
    | none =>
      match s.cellSt b with
      | .value =>
        let v := BitVec.ofNat 64 (s.value b 8)
        retireAccess a false i (modAccess a false i (elemDone e.j) (s.modTask a (deliver x e.j v)))
      | .suspended =>
        if t.lineage.length = 8 then homeTrap a x { code := .evaldepth, addr := cellVa e.va } s
        else
          let ev : Evaluation := { cell := cell, rec_ := s.bytes cell 32, jig := none, loader := a.cluster, va := BitVec.ofNat 64 (e.va.toNat / 32 * 32), lineage := t.lineage ++ [cell] }
          let s := (putField (putField s cell 0x16 2 1) cell 0x1C 2 a.cluster).setCellSt cell .evaluating
          let s := (s.clusCtr g .cellevals 1).modCluster g fun k => { k with evals := k.evals ++ [ev] }
          wait (recordWaiter p g { me with counted := true } s)
      | .evaluating => wait (recordWaiter p g me s)
      | .failed => homeTrap a x { code := .cellfail, addr := cellVa e.va, status := s.value (cell + 0x18) 4 } s

/-- CMK, CFILL and CFAIL at the home (R337, R339); each reads the cell's state first, which is an error of a unit in error (14 R389). -/
def performCell (a : Agent) (i : Nat) (x : Access) (e : AccElem) (op : CellOp) (arg : List Byte) (s : State) : State :=
  let p := s.partOf a
  let t := s.task a
  match e.tgt with
  | .byte cell =>
    let fin (s : State) : State := retireAccess a true i (modAccess a true i (elemDone e.j) s)
    let bad (s : State) : State := homeTrap a x { code := .cellstate, addr := cellVa e.va } s
    if s.eccHit cell 32 then homeTrap a x { code := .eccunc, addr := cell } s
    else
      match op with
      | .mk => if s.cellSt cell = .evaluating then bad s else fin ((s.store cell arg).setCellSt cell .suspended)
      | .fill =>
        if s.cellSt cell ≠ .evaluating || !t.lineage.contains cell then bad s
        else
          let s := (s.store cell arg).setCellSt cell .value
          fin (wakeAll p cell (cellValue s p) s)
      | .fail =>
        if s.cellSt cell ≠ .evaluating || !t.lineage.contains cell then bad s
        else fin (failCell p cell (leValue arg) s)
      | .ld => s
  | _ => s

/-- Does a flat address of die or LP memory lie in the partition's allotments? -/
def inAllotment (s : State) (p a : Nat) : Bool :=
  let r := (s.part p).regs
  if a < lpBase then
    let al := r.pdie.getD (stackOf (homeOf a)) .none
    decide (dieBase (stackOf (homeOf a)) + al.base ≤ a) && decide (a < dieBase (stackOf (homeOf a)) + al.base + al.size)
  else decide (lpBase + r.plp.base ≤ a) && decide (a < lpBase + r.plp.base + r.plp.size)

/-- The cells of a partition in EVALUATING, by flat address, but for those of a held launch. -/
def evaluatingCells (s : State) (p : Nat) : List Nat :=
  let held := match (s.part p).held with | some h => h.evaluating | none => []
  (s.attr.cells.filter fun x => x.2 == .evaluating && inAllotment s p (32 * x.1) && !held.contains (32 * x.1)).map (32 * ·.1)

/-- A cell in EVALUATING returns to SUSPENDED, with NWAIT and LCLUS 0 (R350). -/
def suspendCell (s : State) (cell : Nat) : State :=
  if s.cellSt cell = .evaluating then (putField (putField s cell 0x16 2 0) cell 0x1C 2 0).setCellSt cell .suspended else s

/-- R350: the cells that a launch left in EVALUATING return to SUSPENDED when it ends or is discarded; those of a held launch stay. -/
def revertCells (p : Nat) (s : State) : State :=
  let s := (evaluatingCells s p).foldl suspendCell s
  (s.clustersOf p).foldl (fun s g => s.modCluster g fun k => { k with waiters := [], evals := [] }) s

/-! The instructions. -/

/-- CMK (R337) -/
def execCmk (g : Guard) (a b : Scalar) (s : State) : Answer :=
  issue (acc g [.src a, .src b]) s fun c s => do
    storeRoom c s
    let (x, s) := readScalar c a s
    let (y, s) := readScalar c b s
    if x.toNat % 32 ≠ 0 then errAt .misalign x.toNat
    else if y.toNat % 32 ≠ 0 then errAt .misalign y.toNat
    else
      let e ← orTrap (checkAccess c x 32 32 .cell s)
      let src ← orTrap (checkAccess c y 32 32 .load s)
      let tpl ← innerRead c y src.tgt 32 s
      if !templateOk tpl then errAt .cellbad x.toNat
      else return pushStore c (.cell .mk tpl) .relaxed .unit .none [e] (countRead c y s)
/-- CLD (R338) -/
def execCld (g : Guard) (d : SDst) (a b : Scalar) (s : State) : Answer :=
  issue (acc g [.dst d, .src a, .src b]) s fun c s => do
    loadRoom c s
    let (x, s) := readScalar c a s
    let (y, s) := readScalar c b s
    let e ← orTrap (checkAccess c (x + y) 8 8 .cell s)
    let own := match e.tgt with | .byte b => (s.task c.a).lineage.contains (cellOf b) | _ => false
    if own then errAt .selfdep (cellVa (x + y))
    else return pushLoad c (.cell .ld []) .acquire .device (loadDst d) [e] s
/-- CFILL (R339) -/
def execCfill (g : Guard) (a b : Scalar) (s : State) : Answer :=
  issue (acc g [.src a, .src b]) s fun c s => do
    storeRoom c s
    let (x, s) := readScalar c a s
    let (y, s) := readScalar c b s
    let e ← orTrap (checkAccess c x 32 32 .cell s)
    let src ← orTrap (checkAccess c y 32 32 .load s)
    let val ← innerRead c y src.tgt 32 s
    return pushStore c (.cell .fill val) .release .device .none [e] (countRead c y s)
/-- CFAIL (R339) -/
def execCfail (g : Guard) (a b : Scalar) (s : State) : Answer :=
  issue (acc g [.src a, .src b]) s fun c s => do
    storeRoom c s
    let (x, s) := readScalar c a s
    let (y, s) := readScalar c b s
    let e ← orTrap (checkAccess c x 32 32 .cell s)
    if y.toNat ≥ 2 ^ 32 || y.toNat < 0x100 then errAt .cellbad x.toNat
    else return pushStore c (.cell .fail (leBytes 4 y.toNat)) .release .device .none [e] s

end Sys2Proof.Machine
end

