-- ==== Sys2Proof/Machine/Crc.lean ====
section
/-! DEFINITION. CRC-32C (spec/08_copy_engines.md R217). -/

namespace Sys2Proof.Machine

open Sys2Proof

/-- The polynomial 0x1EDC6F41, reflected. -/
def crcPoly : W32 := 0x82F63B78#32

/-- `n` bits of the register. -/
def crcBits : Nat → W32 → W32
  | 0, c => c
  | n + 1, c => crcBits n (if c.getLsbD 0 then (c >>> 1) ^^^ crcPoly else c >>> 1)

/-- One byte, least significant bit first. -/
def crcByte (c : W32) (b : Byte) : W32 := crcBits 8 (c ^^^ b.zeroExtend 32)

/-- The checksum of a list of bytes. -/
def crc32c (bs : List Byte) : W32 := bs.foldl crcByte 0xFFFFFFFF#32 ^^^ 0xFFFFFFFF#32

end Sys2Proof.Machine
end

