-- ==== Sys2Proof/Machine/EventQueue.lean ====
section
/-! DEFINITION. Spill rings and the event queue of a cluster (spec/11_jigs_queues_timetables.md R302, R313, R321, R322). -/

namespace Sys2Proof.Machine

open Sys2Proof

/-- Entries of a spill ring (R302). -/
def ringSize (q : QDesc) : Nat := if q.rlog = 0 then 0 else 2 ^ q.rlog

/-- Flat address of place `i` of cluster g's ring with entries of `e` bytes (R302). -/
def ringAddr (s : State) (p : Nat) (q : QDesc) (g e i : Nat) : Nat :=
  dieBase q.rstack + ((s.part p).regs.pdie.getD q.rstack .none).base + q.roff + g * e * 2 ^ q.rlog + e * i

/-- EVQD of the partition's launch. -/
def State.evqd (s : State) (p : Nat) : QDesc := match (s.part p).launch with | some l => l.tt.evqd | none => .none

/-- The bytes of an event record (R321). -/
def EvRec.bytes (r : EvRec) : List Byte := leBytes 1 r.kind ++ leBytes 1 r.src ++ leBytes 2 r.stat ++ leBytes 4 r.idx ++ leBytes 8 r.data.toNat

/-- A record from its bytes. -/
def EvRec.ofBytes (bs : List Byte) : EvRec :=
  { kind := leValue (bs.take 1), src := leValue ((bs.drop 1).take 1), stat := leValue ((bs.drop 2).take 2),
    idx := leValue ((bs.drop 4).take 4), data := BitVec.ofNat 64 (leValue ((bs.drop 8).take 8)) }

/-- Can a record be posted to a cluster's event queue now (R313, R322)? -/
def evqRoom (s : State) (p g : Nat) : Bool :=
  let q := (s.cluster g).evq
  let d := s.evqd p
  (q.count == 0 && decide (q.hw.length < 128)) || (decide (q.count < ringSize d) && s.owned (ringAddr s p d g 16 ((q.head + q.count) % ringSize d)))

/-- Post a record: to the hardware part while the ring is empty and there is room, else to the tail of the ring (R313). -/
def evqPost (p g : Nat) (r : EvRec) (s : State) : State :=
  let q := (s.cluster g).evq
  if q.count = 0 && q.hw.length < 128 then s.modCluster g fun k => { k with evq := { q with hw := q.hw ++ [r] } }
  else
    let d := s.evqd p
    let s := s.write (ringAddr s p d g 16 ((q.head + q.count) % ringSize d)) r.bytes
    (s.clusCtr g .qspills 1).modCluster g fun k => { k with evq := { q with count := q.count + 1 } }

/-- The ring's head record, its bytes found in memory, goes to the hardware part (R313). -/
def evqTake (p g : Nat) (bs : List Byte) (s : State) : State :=
  let q := (s.cluster g).evq
  (s.clusCtr g .qrefills 1).modCluster g fun k =>
    { k with evq := { hw := q.hw ++ [EvRec.ofBytes bs], head := (q.head + 1) % Nat.max 1 (ringSize (s.evqd p)), count := q.count - 1 } }

/-- Is it a record's turn, with room for it: does nothing wait before it (R322)? -/
def evqTurn (s : State) (p g : Nat) : Bool := (s.cluster g).evWait.isEmpty && evqRoom s p g

/-- Put a record behind those that wait. -/
def evqStand (g : Nat) (q : EvPost) (s : State) : State := s.modCluster g fun k => { k with evWait := k.evWait ++ [q] }

/-- Post a record that nothing else waits on, or leave it in the line until there is room (R322). -/
def evqSend (p g : Nat) (r : EvRec) (s : State) : State :=
  if evqTurn s p g then evqPost p g r s else evqStand g { rec_ := r, poster := .ob3 } s

/-- Decrement a barrier (08 R208, R215). -/
def barDecrement (b n : Nat) (s : State) : State :=
  s.modCluster (b / 64) fun k => { k with barriers := tmod { count := 0, overrun := false } k.barriers (b % 64) fun x =>
    if x.count < n then { count := 0, overrun := true } else { x with count := x.count - n } }

/-- The decrement of a command that names a barrier. -/
def barApply (bar : Option (Nat × Nat)) (s : State) : State := match bar with | some (b, n) => barDecrement b n s | none => s

/-- The oldest record of the line is posted, after the decrement of its command; its poster, unless it is the OB3, goes on in its next turn. -/
def evqAdvance (p g : Nat) (s : State) : State :=
  match (s.cluster g).evWait with
  | [] => s
  | q :: rest =>
    let bar := match q.poster with | .command b => b | _ => none
    evqPost p g q.rec_ (barApply bar (s.modCluster g fun k => { k with evWait := rest, evDone := if q.poster = .ob3 then k.evDone else k.evDone ++ [q] }))

/-- Waiting records are posted, oldest first, as far as there is room for at most `n`. -/
def evqFlush (p g : Nat) : Nat → State → State
  | 0, s => s
  | n + 1, s => if !(s.cluster g).evWait.isEmpty && evqRoom s p g then evqFlush p g n (evqAdvance p g s) else s

/-- All of them. -/
def evqFlushAll (p g : Nat) (s : State) : State := evqFlush p g (s.cluster g).evWait.length s

/-- How far a poster's record has come. -/
inductive PostStage where
  | fresh
  | line
  | posted
deriving DecidableEq, Repr

def postStage (s : State) (g : Nat) (q : EvPost) : PostStage :=
  if (s.cluster g).evDone.contains q then .posted else if (s.cluster g).evWait.contains q then .line else .fresh

/-- A poster goes on with its record posted. -/
def postTaken (g : Nat) (q : EvPost) (s : State) : State := s.modCluster g fun k => { k with evDone := k.evDone.erase q }

/-- A command ends (08 R208; R322): its work, which takes place once; then the decrement of its barrier; then, if it asks for one, its record in the event queue of cluster `g`; then its completion `fin`. A full queue delays the decrement and the completion until the record is posted. -/
def completeBar (recEvt : Bool) (bar : Option (Nat × Nat)) (g : Nat) (r : EvRec) (work : State → State) (fin : State → State) (s : State) : State :=
  let p := (s.partOf? g).getD 0
  let q : EvPost := { rec_ := r, poster := .command bar }
  if !recEvt then fin (barApply bar (work s))
  else match postStage s g q with
    | .line => s
    | .posted => fin (postTaken g q s)
    | .fresh =>
      let s := work s
      if evqTurn s p g then fin (evqPost p g r (barApply bar s)) else evqStand g q s

/-- A command of an engine of the core ends: it names no barrier. -/
def completeWith (recEvt : Bool) (g : Nat) (r : EvRec) (work : State → State) (fin : State → State) (s : State) : State := completeBar recEvt none g r work fin s

/-- Has a command done its work, so that only its record or its completion is left? -/
def workedBar (s : State) (recEvt : Bool) (bar : Option (Nat × Nat)) (g : Nat) (r : EvRec) : Bool := recEvt && postStage s g { rec_ := r, poster := .command bar } ≠ .fresh
def worked (s : State) (recEvt : Bool) (g : Nat) (r : EvRec) : Bool := workedBar s recEvt none g r

/-- The completion record of a command of a task (R321): its kind, the core within the cluster, its index, the task. -/
def commandRecord (kind core : Nat) (idx : BitVec 32) (task : W64) : EvRec :=
  { kind := kind, src := core % 24, stat := 0, idx := idx.toNat, data := task }

/-- That of a command of the task that a core runs. -/
def State.ownRecord (s : State) (kind core : Nat) (idx : BitVec 32) : EvRec := commandRecord kind core idx (s.task (.access core)).ident

end Sys2Proof.Machine
end

