-- ==== Sys2Proof/Machine/VecOps.lean ====
section
/-! DEFINITION. What all vector instructions share (spec/07_vector_unit.md R162-R170; spec/03 R87, R88): configuration, register groups, row groups of queue operands, active, inactive and tail elements, rows and bounds, flags. -/

namespace Sys2Proof.Machine

open Sys2Proof

/-! VCFG by field (R163). -/

def cfgVL (c : W64) : Nat := bitsOf c.toNat 13 0
def cfgRGC (c : W64) : Nat := bitsOf c.toNat 20 16
def cfgLG (c : W64) : Nat := bitsOf c.toNat 33 32
def cfgTZ (c : W64) : Bool := bitOf c.toNat 34
def cfgMZ (c : W64) : Bool := bitOf c.toNat 35
def cfgCVTF (c : W64) : Nat := bitsOf c.toNat 39 36
/-- Write cursor of tile `t`: [41:40] and [45:44]. -/
def cfgTWC (c : W64) (t : Nat) : Nat := bitsOf c.toNat (41 + 4 * t) (40 + 4 * t)
/-- Read cursor of tile `t`: [43:42] and [47:46]. -/
def cfgTRC (c : W64) (t : Nat) : Nat := bitsOf c.toNat (43 + 4 * t) (42 + 4 * t)
/-- A field replaced. -/
def cfgSet (c : W64) (hi lo v : Nat) : W64 :=
  BitVec.ofNat 64 (c.toNat - bitsOf c.toNat hi lo * 2 ^ lo + (v % 2 ^ (hi + 1 - lo)) * 2 ^ lo)

/-- G = 2^LG registers in a group. -/
def cfgG (c : W64) : Nat := 2 ^ cfgLG c
/-- VLMAX = 1,024 x G (R162). -/
def cfgVLMax (c : W64) : Nat := 1024 * cfgG c
/-- NRG: the row groups that hold an element below VL, at least 1 (R166). -/
def cfgNRG (c : W64) : Nat := max 1 (ceilDiv (cfgVL c) 256)
/-- RGC steps after a word with a queue operand (R166). -/
def cfgStepRGC (c : W64) : W64 := cfgSet c 20 16 ((cfgRGC c + 1) % cfgNRG c)

/-- FSR.FRM (03 R87). -/
def fsrMode (f : W64) : RMode := RMode.ofCode (bitsOf f.toNat 10 8)
/-- Flags are ORed into FSR (03 R88). -/
def fsrOr (f : W64) (fl : Flags) : W64 := f ||| fl.zeroExtend 64

/-! Groups and operands. -/

/-- The fields that name registers or masks must name multiples of G (R165). -/
def groupOk (gsz : Nat) : VReg → Bool
  | .v n => n.val % gsz == 0
  | _ => true

/-- Does a field name a vector queue? -/
def vIsQueue : VReg → Bool
  | .v _ => false
  | _ => true

/-- A source operand of a vector word: a register group, with the number its undefined elements are drawn by, or the row group popped from a queue. -/
inductive VSrc where
  | grp (r fr : Nat)
  | row (base : Nat) (data : Table W32)
deriving DecidableEq, Repr

/-- Element e of register group r, read at clock `at_` (R162, R168; 02 R51). -/
def vread (t : Task) (v : VecState) (r e at_ fr : Nat) : W32 :=
  if early t (keyV (r + e / 1024) (e % 1024 / 64)) at_ then Config.freeElem fr e
  else tget 0#32 (tget [] v.v (r + e / 1024)) (e % 1024)

/-- Element e of an operand. -/
def VSrc.get (t : Task) (v : VecState) (x : VSrc) (e at_ : Nat) : W32 :=
  match x with
  | .grp r fr => vread t v r e at_ fr
  | .row base d => tget 0#32 d (e - base)

/-- Bit e of mask group m, read at clock `at_`. -/
def mread (t : Task) (v : VecState) (m e at_ fr : Nat) : Bool :=
  if early t (keyM (m + e / 1024) (e % 1024 / 64)) at_ then Config.freeBit fr e
  else (tget 0#1024 v.m (m + e / 1024)).getLsbD (e % 1024)

/-- Write elements of register group r. -/
def vwrite (v : VecState) (r : Nat) (ws : List (Nat × W32)) : VecState :=
  { v with v := ws.foldl (fun tb w => tmod [] tb (r + w.1 / 1024) fun k => tput k (w.1 % 1024) w.2) v.v }

/-- A bit of a mask register set or cleared. -/
def setBit (m : BitVec 1024) (i : Nat) (b : Bool) : BitVec 1024 :=
  if b then m ||| (1#1024 <<< i) else m &&& ~~~(1#1024 <<< i)

/-- Write bits of mask group m. -/
def mwrite (v : VecState) (m : Nat) (ws : List (Nat × Bool)) : VecState :=
  { v with m := ws.foldl (fun tb w => tmod 0#1024 tb (m + w.1 / 1024) fun k => setBit k (w.1 % 1024) w.2) v.m }

/-! The vector state of the issuing core. -/

def State.vecOf (s : State) (a : Agent) : VecState := (s.core (a.core?.getD 0)).vec
def State.modVec (s : State) (a : Agent) (f : VecState → VecState) : State :=
  match a.core? with
  | some c => s.modCore c fun k => { k with vec := f k.vec }
  | none => s

/-- Pop the head of vq n. -/
def popVq (c : Ctx) (n : Nat) (s : State) : Table W32 × State :=
  let t := s.task c.a
  match tget [] t.q.vq n with
  | [] => ([], s)
  | e :: r => (e.data, s.setTask c.a { t with q := { t.q with vq := tput t.q.vq n r } })

/-- Read a source field: a group, or a popped row group (R166). `fr` numbers its free values. -/
def vsource (c : Ctx) (x : VReg) (base fr : Nat) (s : State) : VSrc × State :=
  match x with
  | .v n => (.grp n.val fr, s)
  | .vq n => let (d, s) := popVq c n.val s; (.row base d, s)
  | .vqs => (.row base [], s)

/-- Push an entry onto vqs; discarded when the access stream has ended (04 R97). -/
def pushVqs (c : Ctx) (data : Table W32) (mask : BitVec 256) (s : State) : State :=
  let t := s.task c.a
  if t.a.ended then s else s.setTask c.a { t with q := { t.q with vqs := t.q.vqs ++ [{ data := data, mask := mask }] } }

/-- The range of elements of a word: its first element and its number of elements (R164, R166). -/
structure VRange where
  base : Nat
  count : Nat
deriving DecidableEq, Repr

def vrange (cfg : W64) (queue : Bool) : VRange :=
  if queue then { base := 256 * cfgRGC cfg, count := 256 } else { base := 0, count := cfgVLMax cfg }

/-- Elements of the range below VL. -/
def VRange.below (r : VRange) (vl : Nat) : List Nat := (List.range (min vl (r.base + r.count) - r.base)).map (r.base + ·)
/-- Elements of the range from VL on. -/
def VRange.tail (r : VRange) (vl : Nat) : List Nat :=
  let n := min vl (r.base + r.count) - r.base
  (List.range (r.count - n)).map (r.base + n + ·)
/-- C: rows of the range that hold an element below VL (R167). -/
def VRange.rows (r : VRange) (vl : Nat) : Nat := ceilDiv (min vl (r.base + r.count) - r.base) 64

/-- How a word reads and lands its rows (R168). -/
inductive RowKind where
  | rowWise
  | crossRow
deriving DecidableEq, Repr

/-- The clock at which row `i` of the range is read: T + i, or T (R168); wholly tail rows go with the last covered row (R167). -/
def readClock (k : RowKind) (T C i : Nat) : Nat :=
  match k with
  | .rowWise => T + min i (C - 1)
  | .crossRow => T

/-- The clock by which row `i` of a result has landed (R168). -/
def landClock (k : RowKind) (T C i B : Nat) : Nat :=
  match k with
  | .rowWise => T + min i (C - 1) + B
  | .crossRow => T + max 1 C - 1 + B

/-- The values that kept elements take: only those of a row read before an earlier write's bound change, to undefined values (R164). -/
def keptWrites (t : Task) (r : VRange) (d : Nat) (kind : RowKind) (T C fr : Nat) (es : List Nat) : List (Nat × W32) :=
  es.filterMap fun e =>
    if early t (keyV (d + e / 1024) (e % 1024 / 64)) (readClock kind T C ((e - r.base) / 64)) then some (e, Config.freeElem fr e) else none

/-- Rows of a range. -/
def VRange.allRows (r : VRange) : List Nat := List.range (ceilDiv r.count 64)

/-- Bounds of the rows of register group `d` that a word writes: all rows of its range, also those whose elements keep their values (R164, R167, R168). -/
def boundRows (d : Nat) (r : VRange) (kind : RowKind) (T C B : Nat) (t : Task) : Task :=
  r.allRows.foldl (fun t i =>
    bound t (keyV (d + (r.base + 64 * i) / 1024) ((r.base + 64 * i) % 1024 / 64)) (landClock kind T C i B)) t

/-- Bounds of the rows of mask group `m` that a word writes. -/
def boundMaskRows (m : Nat) (r : VRange) (kind : RowKind) (T C B : Nat) (t : Task) : Task :=
  r.allRows.foldl (fun t i =>
    bound t (keyM (m + (r.base + 64 * i) / 1024) ((r.base + 64 * i) % 1024 / 64)) (landClock kind T C i B)) t

/-- Cursor, slots and counters after a vector word of C rows (R166, R167, R191). -/
def vecDone (c : Ctx) (queue : Bool) (C : Nat) (s : State) : State :=
  let s := if queue then s.modVec c.a fun v => { v with vcfg := cfgStepRGC v.vcfg } else s
  let s := s.modTask c.a fun t => { t with x := { t.x with clk := t.x.clk + (max 1 C - 1) } }
  { (s.agentCtr c.a .vinstr 1).agentCtr c.a .vrowclk C with freeCtr := s.freeCtr + 4 }

/-- Write elements of register group `d`: new values, and kept elements. -/
def groupResult (c : Ctx) (d : Nat) (r : VRange) (kind : RowKind) (C B fr : Nat)
    (ws : List (Nat × W32)) (kept : List Nat) (s : State) : State :=
  let t := s.task c.a
  let T := t.x.clk
  (s.modVec c.a fun v => vwrite v d (ws ++ keptWrites t r d kind T C fr kept)).modTask c.a (boundRows d r kind T C B)

/-- Write the result of a word to its vector destination (R164, R166): active elements receive results, inactive ones follow MZ, tail ones TZ. -/
def vecResult (c : Ctx) (vd : VReg) (cfg : W64) (r : VRange) (kind : RowKind) (C B fr : Nat)
    (act : List (Nat × W32)) (inact : List Nat) (s : State) : State :=
  match vd with
  | .v d =>
    let tail := r.tail (cfgVL cfg)
    let kept := (if cfgMZ cfg then [] else inact) ++ (if cfgTZ cfg then [] else tail)
    let zeroed := (if cfgMZ cfg then inact else []) ++ (if cfgTZ cfg then tail else [])
    groupResult c d.val r kind C B fr (act ++ zeroed.map (fun e => (e, 0#32))) kept s
  | _ =>
    let data : Table W32 := act.map fun w => (w.1 - r.base, w.2)
    let mask : BitVec 256 := act.foldl (fun m w => m ||| (1#256 <<< (w.1 - r.base))) 0#256
    pushVqs c data mask s

/-- Write bits to a mask destination (R164, R176). -/
def maskResult (c : Ctx) (md : MReg) (cfg : W64) (r : VRange) (kind : RowKind) (C B fr : Nat)
    (act : List (Nat × Bool)) (inact : List Nat) (s : State) : State :=
  let t := s.task c.a
  let T := t.x.clk
  let tail := r.tail (cfgVL cfg)
  let kept := (if cfgMZ cfg then [] else inact) ++ (if cfgTZ cfg then [] else tail)
  let zeroed := (if cfgMZ cfg then inact else []) ++ (if cfgTZ cfg then tail else [])
  let undef := kept.filterMap fun e =>
    if early t (keyM (md.val + e / 1024) (e % 1024 / 64)) (readClock kind T C ((e - r.base) / 64)) then some (e, Config.freeBit fr e) else none
  (s.modVec c.a fun v => mwrite v md.val (act ++ zeroed.map (fun e => (e, false)) ++ undef)).modTask c.a
    (boundMaskRows md.val r kind T C B)

/-- The active and the inactive elements of a word (R164): those below VL, split by m0 for a masked form. -/
def activeOf (t : Task) (v : VecState) (r : VRange) (masked : Bool) (kind : RowKind) (T C fr : Nat) : List Nat × List Nat :=
  let below := r.below (cfgVL v.vcfg)
  if masked then below.partition fun e => mread t v 0 e (readClock kind T C ((e - r.base) / 64)) fr else (below, [])

/-- Read an element at the clock of its row. -/
def elemAt (t : Task) (v : VecState) (x : VSrc) (r : VRange) (kind : RowKind) (T C e : Nat) : W32 :=
  x.get t v e (readClock kind T C ((e - r.base) / 64))

/-- An element operation: the rounding mode FRM, then a, b and the old destination d. -/
abbrev ElemOp := RMode → W32 → W32 → W32 → W32 × Flags

/-- A row-wise instruction of one to three vector operands with a vector result (R164-R168, R171-R177). `useB`, `useD`: whether vb and the old vd are sources. -/
def rowOp (g : Guard) (lc : BitVec 3) (vd va : VReg) (vb : Option VReg) (useD masked : Bool) (f : ElemOp) (s : State) : Answer :=
  issue { exe g ([if useD then .vrw vd else .vdst vd, .vsrc va] ++ vb.toList.map .vsrc) with masked := masked } s fun c s =>
    let v := s.vecOf c.a
    let cfg := v.vcfg
    let gsz := cfgG cfg
    if !(groupOk gsz vd && groupOk gsz va && (vb.map (groupOk gsz)).getD true) then err .vgroup
    else
      let queue := vIsQueue vd || vIsQueue va || (vb.map vIsQueue).getD false
      let r := vrange cfg queue
      let C := r.rows (cfgVL cfg)
      let fr := s.freeCtr
      let (a, s) := vsource c va r.base fr s
      let (b, s) := match vb with | some x => vsource c x r.base (fr + 1) s | none => (.row r.base [], s)
      let t := s.task c.a
      let T := t.x.clk
      let d : VSrc := match vd with | .v n => .grp n.val (fr + 2) | _ => .row r.base []
      let (act, inact) := activeOf t v r masked .rowWise T C (fr + 3)
      let res := act.map fun e =>
        let at_ (x : VSrc) := elemAt t v x r .rowWise T C e
        (e, f (fsrMode v.fsr) (at_ a) (at_ b) (if useD then at_ d else 0#32))
      let flags := res.foldl (fun fl x => fl ||| x.2.2) 0#6
      let s := s.modVec c.a fun v => { v with fsr := fsrOr v.fsr flags }
      .ok (vecDone c queue C (vecResult c vd cfg r .rowWise C (lcBound lc) (fr + 2) (res.map fun x => (x.1, x.2.1)) inact s))

/-- A compare: a row-wise instruction with a mask result (R176). -/
def rowCmp (g : Guard) (lc : BitVec 3) (md : MReg) (va vb : VReg) (masked : Bool) (f : W32 → W32 → Bool × Flags) (s : State) : Answer :=
  issue { exe g [.mdst md, .vsrc va, .vsrc vb] with masked := masked } s fun c s =>
    let v := s.vecOf c.a
    let cfg := v.vcfg
    let gsz := cfgG cfg
    if !(md.val % gsz == 0 && groupOk gsz va && groupOk gsz vb) then err .vgroup
    else
      let queue := vIsQueue va || vIsQueue vb
      let r := vrange cfg queue
      let C := r.rows (cfgVL cfg)
      let fr := s.freeCtr
      let (a, s) := vsource c va r.base fr s
      let (b, s) := vsource c vb r.base (fr + 1) s
      let t := s.task c.a
      let T := t.x.clk
      let (act, inact) := activeOf t v r masked .rowWise T C (fr + 3)
      let res := act.map fun e => (e, f (elemAt t v a r .rowWise T C e) (elemAt t v b r .rowWise T C e))
      let flags := res.foldl (fun fl x => fl ||| x.2.2) 0#6
      let s := s.modVec c.a fun v => { v with fsr := fsrOr v.fsr flags }
      .ok (vecDone c queue C (maskResult c md cfg r .rowWise C (lcBound lc) (fr + 2) (res.map fun x => (x.1, x.2.1)) inact s))

end Sys2Proof.Machine
end

