-- ==== Sys2Proof/Machine/VecInt.lean ====
section
/-! DEFINITION. Integer element operations, majors 0x20, 0x21 and their masked forms 0x26, 0x27 (spec/07_vector_unit.md R171). -/

namespace Sys2Proof.Machine

open Sys2Proof

/-- A result without flags. -/
def noFlags (f : W32 → W32 → W32) : ElemOp := fun _ a b _ => (f a b, 0#6)
/-- The shift count vb[4:0]. -/
def vcount (b : W32) : Nat := b.toNat % 32
/-- SignedSat(x, 32) with SAT when it clamps (R171; 03 R90). -/
def signedSat32 (x : Int) : W32 × Flags :=
  let y := clampInt x (-2 ^ 31) (2 ^ 31 - 1)
  (BitVec.ofInt 32 y, flagIf (y ≠ x) flagSAT)
def vopMulh (a b : W32) : W32 := BitVec.ofInt 32 (Int.fdiv (a.toInt * b.toInt) (2 ^ 32))
def vopShl (a b : W32) : W32 := a <<< vcount b
def vopShr (a b : W32) : W32 := a >>> vcount b
def vopSar (a b : W32) : W32 := a.sshiftRight (vcount b)
def vopMin (a b : W32) : W32 := if a.toInt ≤ b.toInt then a else b
def vopMax (a b : W32) : W32 := if a.toInt ≤ b.toInt then b else a
def vopMinu (a b : W32) : W32 := if a.toNat ≤ b.toNat then a else b
def vopMaxu (a b : W32) : W32 := if a.toNat ≤ b.toNat then b else a
def vopAdds : ElemOp := fun _ a b _ => signedSat32 (a.toInt + b.toInt)
def vopSubs : ElemOp := fun _ a b _ => signedSat32 (a.toInt - b.toInt)

/-- VADD (R171) -/
def execVadd (g : Guard) (lc : BitVec 3) (vd va vb : VReg) (s : State) : Answer := rowOp g lc vd va (some vb) false false (noFlags (· + ·)) s
/-- VSUB (R171) -/
def execVsub (g : Guard) (lc : BitVec 3) (vd va vb : VReg) (s : State) : Answer := rowOp g lc vd va (some vb) false false (noFlags (· - ·)) s
/-- VMUL (R171) -/
def execVmul (g : Guard) (lc : BitVec 3) (vd va vb : VReg) (s : State) : Answer := rowOp g lc vd va (some vb) false false (noFlags (· * ·)) s
/-- VMULH (R171) -/
def execVmulh (g : Guard) (lc : BitVec 3) (vd va vb : VReg) (s : State) : Answer := rowOp g lc vd va (some vb) false false (noFlags vopMulh) s
/-- VAND (R171) -/
def execVand (g : Guard) (lc : BitVec 3) (vd va vb : VReg) (s : State) : Answer := rowOp g lc vd va (some vb) false false (noFlags (· &&& ·)) s
/-- VOR (R171) -/
def execVor (g : Guard) (lc : BitVec 3) (vd va vb : VReg) (s : State) : Answer := rowOp g lc vd va (some vb) false false (noFlags (· ||| ·)) s
/-- VXOR (R171) -/
def execVxor (g : Guard) (lc : BitVec 3) (vd va vb : VReg) (s : State) : Answer := rowOp g lc vd va (some vb) false false (noFlags (· ^^^ ·)) s
/-- VSHL (R171) -/
def execVshl (g : Guard) (lc : BitVec 3) (vd va vb : VReg) (s : State) : Answer := rowOp g lc vd va (some vb) false false (noFlags vopShl) s
/-- VSHR (R171) -/
def execVshr (g : Guard) (lc : BitVec 3) (vd va vb : VReg) (s : State) : Answer := rowOp g lc vd va (some vb) false false (noFlags vopShr) s
/-- VSAR (R171) -/
def execVsar (g : Guard) (lc : BitVec 3) (vd va vb : VReg) (s : State) : Answer := rowOp g lc vd va (some vb) false false (noFlags vopSar) s
/-- VMIN (R171) -/
def execVmin (g : Guard) (lc : BitVec 3) (vd va vb : VReg) (s : State) : Answer := rowOp g lc vd va (some vb) false false (noFlags vopMin) s
/-- VMAX (R171) -/
def execVmax (g : Guard) (lc : BitVec 3) (vd va vb : VReg) (s : State) : Answer := rowOp g lc vd va (some vb) false false (noFlags vopMax) s
/-- VMINU (R171) -/
def execVminu (g : Guard) (lc : BitVec 3) (vd va vb : VReg) (s : State) : Answer := rowOp g lc vd va (some vb) false false (noFlags vopMinu) s
/-- VMAXU (R171) -/
def execVmaxu (g : Guard) (lc : BitVec 3) (vd va vb : VReg) (s : State) : Answer := rowOp g lc vd va (some vb) false false (noFlags vopMaxu) s
/-- VADDS (R171) -/
def execVadds (g : Guard) (lc : BitVec 3) (vd va vb : VReg) (s : State) : Answer := rowOp g lc vd va (some vb) false false vopAdds s
/-- VSUBS (R171) -/
def execVsubs (g : Guard) (lc : BitVec 3) (vd va vb : VReg) (s : State) : Answer := rowOp g lc vd va (some vb) false false vopSubs s
/-- VADD under m0 (R171) -/
def execVaddMasked (g : Guard) (lc : BitVec 3) (vd va vb : VReg) (s : State) : Answer := rowOp g lc vd va (some vb) false true (noFlags (· + ·)) s
/-- VSUB under m0 (R171) -/
def execVsubMasked (g : Guard) (lc : BitVec 3) (vd va vb : VReg) (s : State) : Answer := rowOp g lc vd va (some vb) false true (noFlags (· - ·)) s
/-- VMUL under m0 (R171) -/
def execVmulMasked (g : Guard) (lc : BitVec 3) (vd va vb : VReg) (s : State) : Answer := rowOp g lc vd va (some vb) false true (noFlags (· * ·)) s
/-- VMULH under m0 (R171) -/
def execVmulhMasked (g : Guard) (lc : BitVec 3) (vd va vb : VReg) (s : State) : Answer := rowOp g lc vd va (some vb) false true (noFlags vopMulh) s
/-- VAND under m0 (R171) -/
def execVandMasked (g : Guard) (lc : BitVec 3) (vd va vb : VReg) (s : State) : Answer := rowOp g lc vd va (some vb) false true (noFlags (· &&& ·)) s
/-- VOR under m0 (R171) -/
def execVorMasked (g : Guard) (lc : BitVec 3) (vd va vb : VReg) (s : State) : Answer := rowOp g lc vd va (some vb) false true (noFlags (· ||| ·)) s
/-- VXOR under m0 (R171) -/
def execVxorMasked (g : Guard) (lc : BitVec 3) (vd va vb : VReg) (s : State) : Answer := rowOp g lc vd va (some vb) false true (noFlags (· ^^^ ·)) s
/-- VSHL under m0 (R171) -/
def execVshlMasked (g : Guard) (lc : BitVec 3) (vd va vb : VReg) (s : State) : Answer := rowOp g lc vd va (some vb) false true (noFlags vopShl) s
/-- VSHR under m0 (R171) -/
def execVshrMasked (g : Guard) (lc : BitVec 3) (vd va vb : VReg) (s : State) : Answer := rowOp g lc vd va (some vb) false true (noFlags vopShr) s
/-- VSAR under m0 (R171) -/
def execVsarMasked (g : Guard) (lc : BitVec 3) (vd va vb : VReg) (s : State) : Answer := rowOp g lc vd va (some vb) false true (noFlags vopSar) s
/-- VMIN under m0 (R171) -/
def execVminMasked (g : Guard) (lc : BitVec 3) (vd va vb : VReg) (s : State) : Answer := rowOp g lc vd va (some vb) false true (noFlags vopMin) s
/-- VMAX under m0 (R171) -/
def execVmaxMasked (g : Guard) (lc : BitVec 3) (vd va vb : VReg) (s : State) : Answer := rowOp g lc vd va (some vb) false true (noFlags vopMax) s
/-- VMINU under m0 (R171) -/
def execVminuMasked (g : Guard) (lc : BitVec 3) (vd va vb : VReg) (s : State) : Answer := rowOp g lc vd va (some vb) false true (noFlags vopMinu) s
/-- VMAXU under m0 (R171) -/
def execVmaxuMasked (g : Guard) (lc : BitVec 3) (vd va vb : VReg) (s : State) : Answer := rowOp g lc vd va (some vb) false true (noFlags vopMaxu) s
/-- VADDS under m0 (R171) -/
def execVaddsMasked (g : Guard) (lc : BitVec 3) (vd va vb : VReg) (s : State) : Answer := rowOp g lc vd va (some vb) false true vopAdds s
/-- VSUBS under m0 (R171) -/
def execVsubsMasked (g : Guard) (lc : BitVec 3) (vd va vb : VReg) (s : State) : Answer := rowOp g lc vd va (some vb) false true vopSubs s

end Sys2Proof.Machine
end

