-- ==== Sys2Proof/Machine/VecMisc.lean ====
section
/-! DEFINITION. Moves, conversions, rotate, broadcast, extract, VSETVL, compress, expand, argmax and reductions (spec/07_vector_unit.md R177-R185). -/

namespace Sys2Proof.Machine

open Sys2Proof

/-- INT32 bounds. -/
def opCvtfi : ElemOp := fun m a _ _ =>
  let (y, fl) := roundToInt (fp32 a) (-2 ^ 31) (2 ^ 31 - 1) m
  (BitVec.ofInt 32 y, fl)
def opCvtif : ElemOp := fun m a _ _ => roundFP32 (FVal.ofInt a.toInt) m
def opMove : ElemOp := fun _ a _ _ => (a, 0#6)

/-! The format table (03 R76, R77). -/

/-- A valid format-table entry as its user reads it. -/
structure FtEntry where
  elem : Elem
  scale : Nat
  group : Nat
  mode : RMode
deriving DecidableEq, Repr

/-- The fields of an entry, if it is VALID. -/
def ftEntry? (w : W32) : Option FtEntry :=
  if bitOf w.toNat 7 then
    (Elem.ofCode (bitsOf w.toNat 3 0)).map fun e =>
      { elem := e, scale := bitsOf w.toNat 12 11, group := 32 * 2 ^ bitsOf w.toNat 14 13, mode := RMode.ofCode (bitsOf w.toNat 10 8) }
  else none

/-- Entry `n` of the partition's format table. -/
def State.ftEntry (s : State) (p n : Nat) : Option FtEntry := ftEntry? ((s.part p).regs.ft.getD n 0#32)

/-- The format that a vector conversion may use (R169 FMTBAD): VALID, without a scale, and no CODE format. -/
def cvtFormat (s : State) (a : Agent) : Option (Elem × RMode) :=
  match s.ftEntry (s.partOf a) (cfgCVTF (s.vecOf a).vcfg) with
  | some e => if e.scale = 0 && !e.elem.isCode then some (e.elem, e.mode) else none
  | none => none

/-- Field e, of `b` bits, of the bit stream whose element k is `get k` (R178). -/
def streamField (b : Nat) (get : Nat → W32) (e : Nat) : Nat := (get (b * e / 32)).toNat / 2 ^ (b * e % 32) % 2 ^ b

/-- Convert into FP32; between FP32 and FP32 the value is copied, and a signalling NaN quietened with NV (R178; notes/assumptions/14.md). -/
def cvtElem (bits : Nat) (f g : Elem) (m : RMode) : Nat × Flags :=
  if f = .fp32 && g = .fp32 then
    let p := BitVec.ofNat 32 bits
    if (fp32 p).isNaN then ((quiet p).toNat, snanFlag [fp32 p]) else (bits, 0#6)
  else convert bits f g m

/-- A cross-row word on register groups without queue operands: VGROUP, then the effect with the range of the group (R165, R167, R168). `body` reads at the clock of the task it is given. -/
def groupWord (w : WordInfo) (fields : List VReg) (body : Ctx → W64 → VRange → Nat → State → Except Stop State) (s : State) : Answer :=
  issue w s fun c s =>
    let cfg := (s.vecOf c.a).vcfg
    if !(fields.all (groupOk (cfgG cfg))) then err .vgroup
    else
      let r := vrange cfg false
      let C := r.rows (cfgVL cfg)
      match body c cfg r C s with
      | .error st => .error st
      | .ok s => .ok (vecDone c false C s)

/-- The index of a v0-v15 field; the word's legality has refused the others. -/
def vIndex : VReg → Nat
  | .v n => n.val
  | _ => 0

/-- Flags of a list of results ORed into FSR (03 R88). -/
def orFlags (c : Ctx) (fl : Flags) (s : State) : State := s.modVec c.a fun v => { v with fsr := fsrOr v.fsr fl }

/-- A word whose vd and va are registers. -/
def vvInfo (g : Guard) (vd va : VReg) (more : List Role) : WordInfo :=
  { exe g ([.vdst vd, .vsrc va] ++ more) with shape := vd.isV && va.isV }

/-- VCVTW (R178). -/
def cvtWiden (masked : Bool) (g : Guard) (lc : BitVec 3) (vd va : VReg) (s : State) : Answer :=
  groupWord { vvInfo g vd va [] with masked := masked } [vd, va] (fun c cfg r C s =>
    match cvtFormat s c.a with
    | none => err .fmtbad
    | some (f, m) =>
      let v := s.vecOf c.a
      let t := s.task c.a
      let T := t.x.clk
      let fr := s.freeCtr
      let (act, inact) := activeOf t v r masked .crossRow T C (fr + 3)
      let res := act.map fun e => (e, cvtElem (streamField f.width (fun k => vread t v (vIndex va) k T fr) e) f .fp32 m)
      let s := orFlags c (res.foldl (fun fl x => fl ||| x.2.2) 0#6) s
      .ok (vecResult c vd cfg r .crossRow C (lcBound lc) (fr + 2) (res.map fun x => (x.1, BitVec.ofNat 32 x.2.1)) inact s)) s

/-- The value of element k of a narrowed destination: fields replaced, zeroed or kept, each under its own class (R178, R164). -/
def packFields (b : Nat) (old : W32) (k : Nat) (field : Nat → Option Nat) : W32 :=
  BitVec.ofNat 32 (((List.range (32 / b)).map fun i =>
    let e := k * (32 / b) + i
    ((field e).getD (old.toNat / 2 ^ (b * i) % 2 ^ b)) * 2 ^ (b * i)).foldl (· + ·) 0)

/-- VCVTN (R178). -/
def cvtNarrow (masked : Bool) (g : Guard) (lc : BitVec 3) (vd va : VReg) (s : State) : Answer :=
  groupWord { vvInfo g vd va [] with masked := masked } [vd, va] (fun c cfg r C s =>
    match cvtFormat s c.a with
    | none => err .fmtbad
    | some (f, m) =>
      let v := s.vecOf c.a
      let t := s.task c.a
      let T := t.x.clk
      let fr := s.freeCtr
      let vl := min (cfgVL cfg) r.count
      let b := f.width
      let (act, inact) := activeOf t v r masked .crossRow T C (fr + 3)
      let res : List (Nat × Nat × Flags) := act.map fun e => (e, cvtElem (vread t v (vIndex va) e T fr).toNat .fp32 f m)
      let fields : Table Nat := res.map fun x => (x.1, x.2.1)
      let field (e : Nat) : Option Nat :=
        if e < vl then (if inact.contains e then (if cfgMZ cfg then some 0 else none) else tget? fields e)
        else if cfgTZ cfg then some 0 else none
      let touched := List.range (if cfgTZ cfg then r.count else ceilDiv (vl * b) 32)
      let ws := touched.map fun k => (k, packFields b (vread t v (vIndex vd) k T (fr + 2)) k field)
      let kept := (List.range (r.count - touched.length)).map (touched.length + ·)
      let s := orFlags c (res.foldl (fun fl x => fl ||| x.2.2) 0#6) s
      .ok (groupResult c (vIndex vd) r .crossRow C (lcBound lc) (fr + 2) ws kept s)) s

/-- VROTR, VROTC and VEXTR (R180): element e of the result is element `pick s e` of the source; no masked form. -/
def permute (g : Guard) (lc : BitVec 3) (vd va : VReg) (x : Scalar) (kind : RowKind) (pick : W64 → Nat → Nat → Nat) (s : State) : Answer :=
  groupWord (vvInfo g vd va [.src x]) [vd, va] (fun c cfg r C s =>
    let (k, s) := readScalar c x s
    let v := s.vecOf c.a
    let t := s.task c.a
    let T := t.x.clk
    let fr := s.freeCtr
    let res := (r.below (cfgVL cfg)).map fun e => (e, vread t v (vIndex va) (pick k (cfgG cfg) e) (readClock kind T C (e / 64)) fr)
    .ok (vecResult c vd cfg r kind C (lcBound lc) (fr + 2) res [] s)) s

/-- The row 64 x ((e div 64 + k) mod 16 G) + e mod 64 (R180). -/
def rotRow (k : W64) (gsz e : Nat) : Nat := 64 * ((e / 64 + k.toNat) % (16 * gsz)) + e % 64
/-- The column rotated within its row. -/
def rotCol (k : W64) (_gsz e : Nat) : Nat := 64 * (e / 64) + (e % 64 + k.toNat) % 64
/-- One element for all. -/
def pickOne (k : W64) (gsz _e : Nat) : Nat := k.toNat % (1024 * gsz)

/-- VSETVL's configuration (R181): the cursors of the tiles stay. -/
def setvl (old v : W64) : W64 :=
  let lg := bitsOf v.toNat 33 32
  let vl := Nat.min (v.toNat % 2 ^ 32) (1024 * 2 ^ lg)
  cfgSet (cfgSet (cfgSet old 39 32 (bitsOf v.toNat 39 32)) 20 16 0) 13 0 vl

/-- Elements below VL whose m0 bit is 1, ascending. -/
def selected (t : Task) (v : VecState) (r : VRange) (C fr : Nat) : List Nat :=
  (activeOf t v r true .crossRow t.x.clk C fr).1

/-- The bound of a scalar result of a cross-row word: T + Max(1, C) - 1 + B (R168, R182). -/
def scalarBound (C : Nat) (lc : BitVec 3) : Nat := Nat.max 1 C - 1 + lcBound lc

/-- The tail policy for the elements from `n` on: zeroed or kept ones (R182, R184, R185). -/
def tailFrom (cfg : W64) (r : VRange) (n : Nat) : List (Nat × W32) × List Nat :=
  let es := (List.range (r.count - n)).map (n + ·)
  if cfgTZ cfg then (es.map (fun e => (e, 0#32)), []) else ([], es)

/-- Elements 0 to n - 1 written, the others under the tail policy. -/
def prefixResult (c : Ctx) (d : Nat) (cfg : W64) (r : VRange) (C B fr : Nat) (vals : List W32) (s : State) : State :=
  let n := vals.length
  let (z, kept) := tailFrom cfg r n
  let ws := (List.range n).zip vals
  groupResult c d r .crossRow C B fr (ws ++ z) kept s

/-- The place and pattern of the greatest element that is no NaN, -0 below +0, the lowest place on a tie (R184). -/
def argmax : List (Nat × W32) → Option (Nat × W32)
  | [] => none
  | (e, x) :: r =>
    match argmax r with
    | none => if (fp32 x).isNaN then none else some (e, x)
    | some (e', y) => if (fp32 x).isNaN || fltSigned (fp32 x) (fp32 y) then some (e', y) else some (e, x)

/-- One round of the tree of VFREDADD (R185). -/
def treeRound (m : RMode) : List (Option W32) → List (Option W32) × Flags
  | a :: b :: r =>
    let (rest, fl) := treeRound m r
    match a, b with
    | some x, some y => let (z, f) := fadd x y m; (some z :: rest, fl ||| f)
    | some x, none => (some x :: rest, fl)
    | none, y => (y :: rest, fl)
  | l => (l, 0#6)

/-- `n` rounds. -/
def treeSum (m : RMode) : Nat → List (Option W32) → W32 × Flags
  | 0, l => ((l.head?.join).getD 0#32, 0#6)
  | n + 1, l =>
    let (l', fl) := treeRound m l
    let (z, f) := treeSum m n l'
    (z, fl ||| f)

/-- A reduction into element 0 (R185). -/
def reduce (g : Guard) (lc : BitVec 3) (vd va : VReg) (f : RMode → Nat → List W32 → W32 × Flags) (s : State) : Answer :=
  groupWord (vvInfo g vd va []) [vd, va] (fun c cfg r C s =>
    let v := s.vecOf c.a
    let t := s.task c.a
    let fr := s.freeCtr
    let xs := (r.below (cfgVL cfg)).map fun e => vread t v (vIndex va) e t.x.clk fr
    let (z, fl) := f (fsrMode v.fsr) (cfgLG cfg) xs
    .ok (prefixResult c (vIndex vd) cfg r C (lcBound lc) (fr + 2) [z] (orFlags c fl s))) s

def redAdd (xs : List W32) : W32 := xs.foldl (· + ·) 0#32
def redMax (xs : List W32) : W32 := xs.foldl vopMax 0x80000000#32
def redTree (m : RMode) (lg : Nat) (xs : List W32) : W32 × Flags :=
  treeSum m (10 + lg) (xs.map some ++ List.replicate (1024 * 2 ^ lg - xs.length) none)

/-- VMV (R177) -/
def execVmv (g : Guard) (lc : BitVec 3) (vd va : VReg) (s : State) : Answer := rowOp g lc vd va none false false opMove s
/-- VCVTFI (R177) -/
def execVcvtfi (g : Guard) (lc : BitVec 3) (vd va : VReg) (s : State) : Answer := rowOp g lc vd va none false false opCvtfi s
/-- VCVTIF (R177) -/
def execVcvtif (g : Guard) (lc : BitVec 3) (vd va : VReg) (s : State) : Answer := rowOp g lc vd va none false false opCvtif s
/-- VCVTW (R178) -/
def execVcvtw (g : Guard) (lc : BitVec 3) (vd va : VReg) (s : State) : Answer := cvtWiden false g lc vd va s
/-- VCVTN (R178) -/
def execVcvtn (g : Guard) (lc : BitVec 3) (vd va : VReg) (s : State) : Answer := cvtNarrow false g lc vd va s
/-- VMV under m0 (R177) -/
def execVmvMasked (g : Guard) (lc : BitVec 3) (vd va : VReg) (s : State) : Answer := rowOp g lc vd va none false true opMove s
/-- VCVTFI under m0 (R177) -/
def execVcvtfiMasked (g : Guard) (lc : BitVec 3) (vd va : VReg) (s : State) : Answer := rowOp g lc vd va none false true opCvtfi s
/-- VCVTIF under m0 (R177) -/
def execVcvtifMasked (g : Guard) (lc : BitVec 3) (vd va : VReg) (s : State) : Answer := rowOp g lc vd va none false true opCvtif s
/-- VCVTW under m0 (R178) -/
def execVcvtwMasked (g : Guard) (lc : BitVec 3) (vd va : VReg) (s : State) : Answer := cvtWiden true g lc vd va s
/-- VCVTN under m0 (R178) -/
def execVcvtnMasked (g : Guard) (lc : BitVec 3) (vd va : VReg) (s : State) : Answer := cvtNarrow true g lc vd va s
/-- VROTR (R180) -/
def execVrotr (g : Guard) (lc : BitVec 3) (vd va : VReg) (x : Scalar) (s : State) : Answer := permute g lc vd va x .crossRow rotRow s
/-- VROTC (R180) -/
def execVrotc (g : Guard) (lc : BitVec 3) (vd va : VReg) (x : Scalar) (s : State) : Answer := permute g lc vd va x .rowWise rotCol s
/-- VEXTR (R180) -/
def execVextr (g : Guard) (lc : BitVec 3) (vd va : VReg) (x : Scalar) (s : State) : Answer := permute g lc vd va x .crossRow pickOne s
/-- VBCST (R180): vd may be vqs, under R166. -/
def execVbcst (g : Guard) (lc : BitVec 3) (vd : VReg) (x : Scalar) (s : State) : Answer :=
  issue (exe g [.vdst vd, .src x]) s fun c s =>
    let cfg := (s.vecOf c.a).vcfg
    if !groupOk (cfgG cfg) vd then err .vgroup
    else
      let (k, s) := readScalar c x s
      let r := vrange cfg (vIsQueue vd)
      let C := r.rows (cfgVL cfg)
      .ok (vecDone c (vIsQueue vd) C (vecResult c vd cfg r .rowWise C (lcBound lc) (s.freeCtr + 2)
        ((r.below (cfgVL cfg)).map fun e => (e, k.truncate 32)) [] s))
/-- VSETVL (R181) -/
def execVsetvl (g : Guard) (x : Scalar) (s : State) : Answer :=
  issue (exe g [.src x]) s fun c s =>
    let (v, s) := readScalar c x s
    if bitsOf v.toNat 63 40 ≠ 0 then err .vcfgbad
    else .ok (vecDone c false 1 (s.modVec c.a fun k => { k with vcfg := setvl k.vcfg v }))
/-- VCOMPRESS (R182) -/
def execVcompress (g : Guard) (lc : BitVec 3) (vd va : VReg) (x : SDst) (s : State) : Answer :=
  groupWord (vvInfo g vd va [.dst x]) [vd, va] (fun c cfg r C s =>
    let v := s.vecOf c.a
    let t := s.task c.a
    let fr := s.freeCtr
    let vals := (selected t v r C (fr + 3)).map fun e => vread t v (vIndex va) e t.x.clk fr
    .ok (writeDst c x (scalarBound C lc) (BitVec.ofNat 64 vals.length) (prefixResult c (vIndex vd) cfg r C (lcBound lc) (fr + 2) vals s))) s
/-- VEXPAND (R183) -/
def execVexpand (g : Guard) (lc : BitVec 3) (vd va : VReg) (x : Scalar) (s : State) : Answer :=
  groupWord (vvInfo g vd va [.src x]) [vd, va] (fun c cfg r C s =>
    let (k, s) := readScalar c x s
    let v := s.vecOf c.a
    let t := s.task c.a
    let fr := s.freeCtr
    let (act, inact) := activeOf t v r true .crossRow t.x.clk C (fr + 3)
    let src (i : Nat) : W32 := if k.toNat + i < cfgVLMax cfg then vread t v (vIndex va) (k.toNat + i) t.x.clk fr else 0#32
    let res := act.zip ((List.range act.length).map src)
    .ok (vecResult c vd cfg r .crossRow C (lcBound lc) (fr + 2) res inact s)) s
/-- VREDI (R184) -/
def execVredi (g : Guard) (lc : BitVec 3) (vd va : VReg) (x : SDst) (s : State) : Answer :=
  groupWord (vvInfo g vd va [.dst x]) [vd, va] (fun c cfg r C s =>
    let v := s.vecOf c.a
    let t := s.task c.a
    let fr := s.freeCtr
    let xs := (r.below (cfgVL cfg)).map fun e => (e, vread t v (vIndex va) e t.x.clk fr)
    let (z, n) : W32 × W64 := match argmax xs with
      | some (e, y) => (y, BitVec.ofNat 64 e)
      | none => (0x7FC00000#32, BitVec.allOnes 64)
    let s := orFlags c (snanFlag (xs.map fun y => fp32 y.2)) s
    .ok (writeDst c x (scalarBound C lc) n (prefixResult c (vIndex vd) cfg r C (lcBound lc) (fr + 2) [z] s))) s
/-- VREDADD (R185) -/
def execVredadd (g : Guard) (lc : BitVec 3) (vd va : VReg) (s : State) : Answer := reduce g lc vd va (fun _ _ xs => (redAdd xs, 0#6)) s
/-- VREDMAX (R185) -/
def execVredmax (g : Guard) (lc : BitVec 3) (vd va : VReg) (s : State) : Answer := reduce g lc vd va (fun _ _ xs => (redMax xs, 0#6)) s
/-- VFREDADD (R185) -/
def execVfredadd (g : Guard) (lc : BitVec 3) (vd va : VReg) (s : State) : Answer := reduce g lc vd va redTree s

end Sys2Proof.Machine
end

