-- ==== Sys2Proof/Machine/EngineOps.lean ====
section
/-! DEFINITION. What the engines of a core share: reads and writes through the task's window, acceptance of commands, the commit buffer, errors against a command, completion records (spec/06 R151; spec/09 R255, R267; spec/10 R285, R290; spec/11 R321, R327; spec/14 R377, R378). -/

namespace Sys2Proof.Machine

open Sys2Proof

/-! Memory through a window. -/

/-- A range of virtual addresses cut at 4 KiB: start and length of each piece. -/
def pieces (va n : Nat) : List (Nat × Nat) :=
  if n = 0 then []
  else
    let first := va / 4096
    (List.range ((va + n - 1) / 4096 + 1 - first)).map fun i =>
      let lo := Nat.max va ((first + i) * 4096)
      let hi := Nat.min (va + n) ((first + i + 1) * 4096)
      (lo, hi - lo)

/-- The view of an agent's task. -/
def State.view (s : State) (a : Agent) : View := { a := a, window := (s.task a).window, sels := (s.task a).sels }

/-- Translate through a view (05 R123). -/
def View.translate (v : View) (s : State) (va : W64) (k : AccKind) : Except TrapCode Target := do
  let (e, off) ← translateEntry v.window v.a.core?.isNone va k
  return entryTarget s v.a (s.partOf v.a) v.sels e off

/-- The error of a piece of a range, if it has one (05 R131). -/
def View.pieceError (v : View) (s : State) (k : AccKind) (lo : Nat) : Option TrapInfo :=
  let va := BitVec.ofNat 64 lo
  match v.translate s va k with
  | .error e => some { code := e, addr := va.toNat }
  | .ok tgt =>
    match k, loadAddr s (s.partOf v.a) tgt with
    | .load, some b => if s.expired b then some { code := .transientexpired, addr := va.toNat } else none
    | _, _ => none

/-- Check that every byte of a range translates (05 R123, R131). Addresses are formed modulo 2^64. -/
def View.check (v : View) (s : State) (va n : Nat) (k : AccKind) : Except TrapInfo Unit :=
  match (pieces va n).findSome? fun x => v.pieceError s k (x.1 % 2 ^ 64) with
  | some i => .error i
  | none => .ok ()

/-- The bytes of one piece. -/
def View.piece (v : View) (s : State) (lo n : Nat) : Except TrapInfo (List Byte) :=
  let va := BitVec.ofNat 64 lo
  match v.translate s va .load with
  | .error e => .error { code := e, addr := va.toNat }
  | .ok tgt =>
    match loadAddr s (s.partOf v.a) tgt with
    | none => .ok (List.replicate n 0#8)
    | some b =>
      if !s.owned b then .error { code := .eccunc, wait := true }
      else if s.eccHit b n then .error { code := .eccunc, addr := b }
      else if s.expired b then .error { code := .transientexpired, addr := va.toNat }
      else .ok (s.bytes b n)

/-- Read pieces, first to last. -/
def View.readPieces (v : View) (s : State) : List (Nat × Nat) → Except TrapInfo (List Byte)
  | [] => .ok []
  | (lo, n) :: r => do
    let x ← v.piece s (lo % 2 ^ 64) n
    let y ← v.readPieces s r
    return x ++ y

/-- Read a range of virtual addresses (06 R151). -/
def View.read (v : View) (s : State) (va n : Nat) : Except TrapInfo (List Byte) := v.readPieces s (pieces va n)

/-- Write bytes that lie in one 4 KiB piece, to the veneer of a veneered buffer (06 R151, R156); a unit outside VALUE is written as plain bytes (log entry 104, DEDUCED). -/
def View.write (v : View) (va : Nat) (bs : List Byte) (s : State) : State :=
  match v.translate s (BitVec.ofNat 64 va) .engineStore with
  | .error _ => s
  | .ok tgt =>
    match engineAddr s (s.partOf v.a) tgt with
    | some b => s.store b bs
    | none => s

/-- Does this device own every page of a range that is written (14 R405)? -/
def viewOwned (v : View) (s : State) (va n : Nat) : Bool :=
  (pieces va n).all fun x =>
    match v.translate s (BitVec.ofNat 64 (x.1 % 2 ^ 64)) .engineStore with
    | .ok t => match engineAddr s (s.partOf v.a) t with | some b => s.owned b | none => true
    | .error _ => true

/-- Does it own the pages of the words that an engine is to write? -/
def wordsOwned (v : View) (s : State) (ws : List (W64 × W32)) : Bool := ws.all fun w => viewOwned v s w.1.toNat 4

/-- The unit scratchpads of other cores that ranges of a view reach. -/
def View.peers (v : View) (s : State) (k : AccKind) (rs : List (Nat × Nat)) : List Nat :=
  (rs.flatMap fun r => (pieces r.1 r.2).filterMap fun x =>
    match v.translate s (BitVec.ofNat 64 (x.1 % 2 ^ 64)) k with
    | .ok t => match targetHome v.a.stack t with | .unit c => if v.a.core? = some c then none else some c | _ => none
    | .error _ => none).eraseDups

/-- Accesses that an engine makes at the unit scratchpads of other cores are counted there (05 R136): how many a range takes, the spec does not state (log entry 6). -/
def countPeers (v : View) (k : AccKind) (rs : List (Nat × Nat)) (s : State) : State := (v.peers s k rs).foldl (fun s c => s.coreClk c .peerin) s

/-- Write words, each in its place. -/
def View.writeWords (v : View) (ws : List (W64 × W32)) (s : State) : State :=
  countPeers v .engineStore (ws.map fun w => (w.1.toNat, 4)) (ws.foldl (fun s w => v.write w.1.toNat (leBytes 4 w.2.toNat) s) s)

/-! Acceptance. -/

def State.engOf (s : State) (core : Nat) : Engines := (s.core core).eng
def State.modEng (s : State) (core : Nat) (f : Engines → Engines) : State := s.modCore core fun k => { k with eng := f k.eng }
def State.modBk (s : State) (core : Nat) (f : BucketEng → BucketEng) : State := s.modEng core fun e => { e with bk := f e.bk }
def State.modDn (s : State) (core : Nat) (f : DenseEng → DenseEng) : State := s.modEng core fun e => { e with dn := f e.dn }

/-- Take the task's next command index (14 R384 CMDX): the index, and the state after it. -/
def takeIndex (a : Agent) (s : State) : BitVec 32 × State :=
  ((s.task a).cmdx, s.modTask a fun t => { t with cmdx := t.cmdx + 1 })

/-- Is the execute stream of the core on a predicted arm? -/
def onArm (core : Nat) (s : State) : Bool := (s.task (.execute core)).x.arm.isSome

/-- Held commands of a core: how many, and the bytes of writes that they hold (11 R327). -/
def heldCommands (e : Engines) : Nat :=
  (e.bk.queue.filter (·.tag.held)).length + (e.dn.queue.filter (·.tag.held)).length +
    (e.gathers.filter (·.tag.held)).length + (e.tiles.filter (·.tag.held)).length
def heldBytes (e : Engines) : Nat :=
  (e.bk.queue.filter fun x => x.tag.held && (match x.op with | .drain .. => true | _ => false)).length * 8192 +
    (e.dn.queue.filter fun x => x.tag.held && (match x.op with | .drain .. => true | _ => false)).length * 16384 +
    ((e.gathers.filter (·.tag.held)).length + (e.tiles.filter (·.tag.held)).length) * 16384

/-- The commit buffer has 8 commands and 48 KiB of data (11 R327). -/
def commitRoom (core bytes : Nat) (s : State) : Except Stop Unit :=
  let e := s.engOf core
  if onArm core s && (heldCommands e ≥ 8 || heldBytes e + bytes > 49152) then holdFor .commit else .ok ()

/-- The tag of the next command of a core. -/
def nextTag (core : Nat) (idx : BitVec 32) (recEvt : Bool) (s : State) : CmdTag :=
  { num := (s.engOf core).num, idx := idx, recEvt := recEvt, held := onArm core s, arm := false }

/-- Count an accepted command. -/
def countCmd (core : Nat) (s : State) : State := s.modEng core fun e => { e with num := e.num + 1 }

/-- An error against a command: raised now, or held with the command on a predicted arm (11 R327). -/
def commandError (core : Nat) (info : TrapInfo) (s : State) : State :=
  if onArm core s then s.modCore core fun k => { k with armFaults := k.armFaults ++ [info] }
  else raiseTrap (.execute core) info false none s

/-- A word that sends a command (09 R267; 10 R285): the word issues and takes an index; the command is accepted, or an error is raised against it. -/
def engineWord (w : WordInfo) (s : State) (hold : Nat → Ctx → State → Except Stop Unit)
    (accept : Nat → Ctx → BitVec 32 → State → Except TrapInfo State) : Answer :=
  issue w s fun c s => do
    let core := c.a.core?.getD 0
    hold core c s
    let (idx, s1) := takeIndex c.a s
    match accept core c idx s1 with
    | .ok s2 => return countCmd core s2
    | .error info => if info.wait then holdFor .accesses else return commandError core { info with cmd := some idx } s1

/-- The word of a command: sources a and b, execute stream; it may issue on a predicted arm when `armOk`. -/
def cmdInfo (g : Guard) (srcs : List Scalar) (armOk : Bool) : WordInfo := { exe g (srcs.map .src) with engine := armOk }

/-- DETAIL of a status word for an error of R131 (09 R273, 10 R291). -/
def detailOf : TrapCode → Nat
  | .winmiss => 1 | .winperm => 2 | .wintype => 3 | .compressed => 4 | .misalign => 5 | .transientexpired => 6
  | _ => 0

/-- Is every core of a shared read's mask able to be in it: the leader and the issuer are in MCAST; a private read has LEAD 0 (09 R255, R268)? -/
def shareOk (word me : Nat) : Bool :=
  let mcast := BitVec.ofNat 24 (bitsOf word 23 0)
  let lead := bitsOf word 28 24
  bitsOf word 31 29 == 0 && (if mcast = 0#24 then lead == 0 else mcast.getLsbD lead && mcast.getLsbD me)

def shareOf (word : Nat) : Share :=
  let mcast := BitVec.ofNat 24 (bitsOf word 23 0)
  { mcast := mcast, lead := bitsOf word 28 24 }

/-! Commands at work. -/

/-- May the engines of a core start work: is the launch of its partition active (14 R387 step 2)? -/
def State.engineLive (s : State) (core : Nat) : Bool :=
  match (s.part (s.partOf (.execute core))).launch with | some l => l.phase == .active | none => false

/-- An engine raises an error against a command, which is dropped: it does nothing more (10 R292; 14 R387). -/
def failCommand (core : Nat) (idx : BitVec 32) (i : TrapInfo) (drop : State → State) (s : State) : State :=
  if i.wait then s else raiseTrap (.execute core) { i with cmd := some idx } false none (drop s)

/-- A wait for a page of another device is no error of a command. -/
def waitPage : TrapInfo := { code := .eccunc, wait := true }

/-- Is it the turn of a command's writes? Commands that leave the commit buffer together write in the order of their acceptance (11 R328). -/
def armTurn (e : Engines) (t : CmdTag) : Bool :=
  let before (x : CmdTag) : Bool := x.arm && decide (x.num < t.num)
  !t.arm ||
    !(e.bk.queue.any (fun c => before c.tag && match c.op with | .drain .. => true | _ => false) ||
      e.bk.ended.any (fun c => before c.tag && !c.writes.isEmpty) ||
      e.dn.queue.any (fun c => before c.tag && match c.op with | .drain .. => true | _ => false) ||
      e.gathers.any (fun c => before c.tag) || e.tiles.any fun c => before c.tag)

end Sys2Proof.Machine
end

