-- ==== Sys2Proof/Machine/Dspace.lean ====
section
/-! DEFINITION. Device page tables: the walk, the translation cache, accessed and dirty bits, page requests, frames and fingerprints of deduplicated pages (spec/08_copy_engines.md R194, R219-R229, R236-R241). -/

namespace Sys2Proof.Machine

open Sys2Proof

/-! Locations (R220, R223, R236). -/

/-- Does a partition hold a core, a cluster (14 R391)? -/
def State.hasCluster (s : State) (p g : Nat) : Bool := (s.part p).regs.pclus.getLsbD g
def State.hasCore (s : State) (p c : Nat) : Bool := s.hasCluster p (clusterOfCore c)

/-- Where a page of D-space stands. -/
inductive Place where
  | flat (a : Nat)
  /-- Shadow half of a stack: offset in the partition's range (09 R247). -/
  | shadow (st off : Nat)
  | host (a : Nat)
deriving DecidableEq, Repr

/-- The place of `n` bytes at offset `off` of a target, if they lie inside the partition (R220). -/
def placeOf (s : State) (p tgt loc off n : Nat) : Option Place :=
  let r := (s.part p).regs
  let inside (al : Allot) : Bool := decide (off + n ≤ al.size)
  match tgt with
  | 1 => if s.hasCore p loc && decide (off + n ≤ 2 ^ 19) && decide (loc < 4608) then some (.flat (unitBase loc + off)) else none
  | 2 => if s.hasCluster p loc && decide (off + n ≤ 2 ^ 24) then some (.flat (clusBase loc + off)) else none
  | 3 => let al := r.pdie.getD loc .none; if decide (loc < 4) && inside al then some (.flat (dieBase loc + al.base + off)) else none
  | 4 => if inside r.plp then some (.flat (lpBase + r.plp.base + off)) else none
  | 5 => let al := r.pwb.getD loc .none; if decide (loc < 4) && inside al then some (.shadow loc off) else none
  | 6 => some (.host off)
  | _ => none

/-- Target, location and offset of an entry or a location register. -/
def locTgt (e : Nat) : Nat := bitsOf e 63 60
def locLoc (e : Nat) : Nat := bitsOf e 59 47
def locOff (e : Nat) : Nat := bitsOf e 46 12 * 4096

/-- The flat address that a location names in die or LP memory, for `n` bytes. -/
def locFlat (s : State) (p e n : Nat) : Option Nat :=
  match placeOf s p (locTgt e) (locLoc e) (locOff e) n with
  | some (.flat a) => if locTgt e = 3 || locTgt e = 4 then some a else none
  | _ => none

/-! The walk (R219-R221). -/

/-- The leaf that translates a 4 KiB page of D-space: its bits, its level, the address of the entry that holds its A and D, and the address of its own entry, which differ in a 64 KiB page (R221). -/
structure Leaf where
  leaf : Nat
  level : Nat
  entry : Nat
  own : Nat
deriving DecidableEq, Repr

/-- What a walk finds. -/
inductive Walk where
  | leaf (e : Leaf)
  | absent
  | bad
  /-- D-space is not enabled (R223). -/
  | disabled
  /-- A table's page is owned by another device (14 R405). -/
  | away
deriving DecidableEq, Repr

/-- Bytes of a page at a level. -/
def levelSize : Nat → Nat
  | 0 => 4096
  | 1 => 2 ^ 21
  | _ => 2 ^ 30

/-- Is LOC 0 where the target takes none? -/
def locOk (e : Nat) : Bool := match locTgt e with | 4 | 6 => locLoc e == 0 | _ => true

/-- Is a present leaf sound at its level (R220)? -/
def leafOk (s : State) (p e level : Nat) : Bool :=
  decide (1 ≤ locTgt e) && decide (locTgt e ≤ 6) && locOk e && bitsOf e 11 10 == 0 &&
    locOff e % levelSize level == 0 &&
    (level == 0 || bitsOf e 9 7 == 0) &&
    (!bitOf e 4 || locTgt e == 3 || locTgt e == 4) &&
    (placeOf s p (locTgt e) (locLoc e) (locOff e) (levelSize level)).isSome &&
    (locTgt e ≠ 5 || (!bitOf e 4 && !bitOf e 8 && !bitOf e 7))

/-- A run of sixteen entries of a 64 KiB page: all alike but for A and D, frames rising from a multiple of 16 (R221). -/
def runOk (s : State) (first : Nat) : Bool :=
  let e0 := s.value first 8
  let body (e : Nat) : Nat := e / 2 ^ 47 * 2 ^ 47 + e % 32 + bitsOf e 11 7 * 128
  bitsOf e0 46 12 % 16 == 0 &&
    (List.range 16).all fun i =>
      let e := s.value (first + 8 * i) 8
      body e == body e0 && bitsOf e 46 12 == bitsOf e0 46 12 + i

/-- Walk from a table of a level. -/
def walkFrom (s : State) (p dva : Nat) : Nat → Nat → Walk
  | 0, tab => walkLeaf 0 tab
  | level + 1, tab =>
    let a := tab + 8 * bitsOf dva (12 + 9 * (level + 1) + 8) (12 + 9 * (level + 1))
    let e := s.value a 8
    if !s.owned a then .away
    else if !bitOf e 0 then .absent
    else if bitOf e 1 then (if level + 1 = 3 then .bad else walkLeaf (level + 1) tab)
    else if (locTgt e ≠ 3 && locTgt e ≠ 4) || !locOk e || bitsOf e 11 2 ≠ 0 then .bad
    else match locFlat s p e 4096 with
      | some t => walkFrom s p dva level t
      | none => .bad
where
  /-- The leaf of a table at a level. -/
  walkLeaf (level tab : Nat) : Walk :=
    let a := tab + 8 * bitsOf dva (12 + 9 * level + 8) (12 + 9 * level)
    let e := s.value a 8
    if !s.owned a then .away
    else if !bitOf e 0 then .absent
    else if !bitOf e 1 || !leafOk s p e level then .bad
    else if bitOf e 9 then
      let first := a - 8 * (bitsOf dva 15 12)
      if runOk s first then .leaf { leaf := e / 128 * 128 + bitsOf (s.value first 8) 6 5 * 32 + e % 32, level := 0, entry := first, own := a } else .bad
    else .leaf { leaf := e, level := level, entry := a, own := a }

/-- Walk a partition's page table (R219, R223). -/
def walk (s : State) (p dva : Nat) : Walk :=
  let r := (s.part p).regs.dptroot.toNat
  if !bitOf r 0 then .disabled
  else match locFlat s p r 4096 with
    | some t => walkFrom s p dva 3 t
    | none => .bad

/-! The translation cache (R224, R225). -/

/-- 4 KiB pages of D-space that an entry covers. -/
def TlbEntry.pages (t : TlbEntry) : Nat := t.unit * t.homes.length

def TlbEntry.covers (t : TlbEntry) (p page : Nat) : Bool := t.part == p && decide (t.first ≤ page) && decide (page < t.first + t.pages)

/-- Does an entry cover one of `n` pages? -/
def TlbEntry.meets (t : TlbEntry) (p page n : Nat) : Bool := t.part == p && decide (t.first < page + n) && decide (page < t.first + t.pages)

/-- The leaf of a page that the entry covers. -/
def TlbEntry.leafAt (t : TlbEntry) (page : Nat) : Leaf :=
  let i := (page - t.first) / t.unit
  let home := t.homes.getD i 0
  if t.unit ≤ 16 then { leaf := t.leaf + (page - t.first) * 4096, level := 0, entry := home, own := home + 8 * ((page - t.first) % t.unit) }
  else { leaf := t.leaf + i * t.unit * 4096, level := if t.unit = 512 then 1 else 2, entry := home, own := home }

/-- The entry of one page. -/
def TlbEntry.ofLeaf (p page : Nat) (e : Leaf) : TlbEntry :=
  let unit := match e.level with | 0 => if bitOf e.leaf 9 then 16 else 1 | 1 => 512 | _ => 2 ^ 18
  { part := p, first := page / unit * unit, unit := unit, leaf := if unit = 16 then e.leaf - page % 16 * 4096 else e.leaf, homes := [e.entry] }

/-- Are two runs the halves of an aligned one of at most 64 pages, with the same TGT, LOC and bits [9:2]? -/
def TlbEntry.joins (a b : TlbEntry) : Bool :=
  a.part == b.part && a.unit == b.unit && a.homes.length == b.homes.length && decide (a.homes.length < 64) && a.first % (2 * a.pages) == 0 &&
    b.first == a.first + a.pages && b.leaf == a.leaf + a.pages * 4096 && b.leaf / 2 ^ 47 == a.leaf / 2 ^ 47

/-- Put an entry into a cache, coalesced with the entries held that complete a run, up to `n` times. -/
def coalesce : Nat → List TlbEntry → TlbEntry → List TlbEntry
  | 0, l, t => t :: l
  | n + 1, l, t =>
    match l.find? fun u => u.joins t || t.joins u with
    | none => t :: l
    | some u => coalesce n (l.erase u) (if u.joins t then { u with homes := u.homes ++ t.homes } else { t with homes := t.homes ++ u.homes })

/-- Put the translation of a page into a cache of 1,024 entries, in place of what it held for the page (R192, R224). That the cache drops its oldest entry, and coalesces what it holds and nothing more, is the model's choice (log entry 90). -/
def tlbPut (p page : Nat) (e : Leaf) (l : List TlbEntry) : List TlbEntry :=
  let t := TlbEntry.ofLeaf p page e
  (coalesce 6 (l.filter fun u => !u.meets p t.first t.pages) t).take 1024

def tlbFind (p page : Nat) (l : List TlbEntry) : Option Leaf := (l.find? (·.covers p page)).map (·.leafAt page)

/-- Take entries out of every cache. -/
def State.filterTlb (s : State) (keep : TlbEntry → Bool) : State :=
  { s with clus := s.clus.map fun c => (c.1, { c.2 with tlb := c.2.tlb.filter keep }) }

/-- Take translations of a range of pages out of every cache of a partition (R225). -/
def dropTlb (p first n : Nat) (s : State) : State := s.filterTlb fun t => !t.meets p first n

/-! Accesses (R222, R224, R226). -/

/-- What an access to a page of D-space meets. -/
inductive DAccess where
  | ok (e : Leaf) (pl : Place) (s : State)
  | fault (s : State)
  | bad (c : TrapCode) (s : State)
  /-- It waits for a page of the tables (14 R405). -/
  | hold
deriving DecidableEq, Repr

/-- Set a bit of an entry at its home (R222). -/
def setLeafBit (entry i : Nat) (s : State) : State :=
  let v := s.value entry 8
  if bitOf v i then s else s.write entry (leBytes 8 (v + 2 ^ i))

/-- The place of an address under a leaf. -/
def leafPlace (s : State) (p dva : Nat) (e : Leaf) : Option Place :=
  placeOf s p (locTgt e.leaf) (locLoc e.leaf) (locOff e.leaf + dva % levelSize e.level) 1

/-- A leaf with a bit set. -/
def Leaf.withBit (e : Leaf) (i : Nat) : Leaf := { e with leaf := if bitOf e.leaf i then e.leaf else e.leaf + 2 ^ i }

/-- Use a leaf: A is set before the first access through a translation that has been walked, D before the first write; the translation stays in the cluster's cache. -/
def useLeaf (p g dva : Nat) (write walked : Bool) (e : Leaf) (s : State) : DAccess :=
  match leafPlace s p dva e with
  | none => .bad .ptbad s
  | some pl =>
    let dirty := write && !bitOf e.leaf 6
    if dirty && !s.owned e.entry then .hold else
    let s := if walked then setLeafBit e.entry 5 s else s
    let s := if dirty then setLeafBit e.entry 6 s else s
    let e' := if dirty then (e.withBit 5).withBit 6 else e.withBit 5
    .ok e' pl (if walked || dirty then s.modCluster g fun k => { k with tlb := tlbPut p (dva / 4096) e' k.tlb } else s)

/-- Does a leaf permit an access? -/
def Leaf.permits (e : Leaf) (write : Bool) : Bool := if write then bitOf e.leaf 3 else bitOf e.leaf 2

/-- Is D-space enabled (R223)? -/
def dspaceOn (s : State) (p : Nat) : Bool := bitOf (s.part p).regs.dptroot.toNat 0

/-- An access by a walk (R219-R224). `refused`: the host's answer to a Translation Request, which is made with ATS enabled, refuses (13 R354). -/
def walkedAccess (p g dva : Nat) (write refused : Bool) (s : State) : DAccess :=
  let s1 := s.clusCtr g .cpwalks 1
  match walk s p dva with
  | .leaf e => if !e.permits write || (locTgt e.leaf == 6 && refused && (s.fn (s.fnOf p)).ats) then .fault s1 else useLeaf p g dva write true e s1
  | .absent => .fault s1
  | .bad => .bad .ptbad s1
  | .disabled => .bad .copyfault s
  | .away => .hold

/-- Access a page of D-space by a copy engine of cluster g: through a cached translation when there is one that permits it and `cached` says so, else by a walk (R224, R226). With D-space disabled every access is COPYFAULT, a cached one too (R223). -/
def dAccess (p g dva : Nat) (write cached refused : Bool) (s : State) : DAccess :=
  if !dspaceOn s p then .bad .copyfault s
  else
    let hit := if cached then (tlbFind p (dva / 4096) (s.cluster g).tlb).filter (·.permits write) else none
    match hit with
    | some e => useLeaf p g dva write false e s
    | none => walkedAccess p g dva write refused s

/-! Deduplication (R236-R239). -/

/-- FP of a page (R237). -/
def fingerprint (bs : List Byte) : Nat :=
  ((List.range 1024).foldl (fun n i => n + leValue ((bs.drop (4 * i)).take 4) * (2 * i + 1)) 0) % 2 ^ 32

/-- A table or ring register: its flat address and number of entries. -/
def ddTable (s : State) (p : Nat) (r : W64) (size : Nat) : Option (Nat × Nat) :=
  let n := 2 ^ bitsOf r.toNat 5 1
  (locFlat s p r.toNat (n * size)).map fun a => (a, n)

/-- Is a register fit for CPD (R238)? -/
def ddOk (s : State) (p : Nat) (r : W64) (size : Nat) : Bool :=
  bitOf r.toNat 0 && locTgt r.toNat == 3 && decide (locLoc r.toNat < 4) && decide (4 ≤ bitsOf r.toNat 5 1) && decide (bitsOf r.toNat 5 1 ≤ 20) &&
    (ddTable s p r size).isSome

/-- Does this device own a table or ring (14 R405)? -/
def ddOwned (s : State) (p : Nat) (r : W64) (size : Nat) : Bool :=
  match ddTable s p r size with
  | some (a, n) => s.ownedRange a (n * size)
  | none => true

/-- Does it own the deduplication table and the free-frame ring? -/
def dedupOwned (s : State) (p : Nat) : Bool := ddOwned s p (s.part p).regs.ddtab 16 && ddOwned s p (s.part p).regs.ddring 8

/-- The entries of a fingerprint's window, in window order: flat addresses. -/
def ddWindow (s : State) (p f : Nat) : List Nat :=
  match ddTable s p (s.part p).regs.ddtab 16 with
  | some (a, n) => (List.range 16).map fun j => a + 16 * ((f % n + j) % n)
  | none => []

def ddRef (s : State) (e : Nat) : Nat := s.value (e + 4) 4
def ddFrame (s : State) (e : Nat) : Nat := s.value (e + 8) 8

/-- The contents of a frame. -/
def frameBytes (s : State) (p fr : Nat) : List Byte :=
  match locFlat s p fr 4096 with
  | some a => s.bytes a 4096
  | none => []

/-- The entry of a frame in the window of its contents (R238 Release, R239). -/
def ddEntry (s : State) (p fr : Nat) : Option Nat :=
  (ddWindow s p (fingerprint (frameBytes s p fr))).find? fun e => ddRef s e > 0 && ddFrame s e == fr

/-- Push a frame onto the free-frame ring; a full ring records nothing and sets OVF. -/
def pushRing (p fr : Nat) (s : State) : State :=
  let r := (s.part p).regs
  match ddTable s p r.ddring 8 with
  | none => s
  | some (a, m) =>
    if r.ddCount ≥ m then s.modPart p fun pt => { pt with regs := { pt.regs with ddOvf := true } }
    else (s.write (a + 8 * ((r.ddHead + r.ddCount) % m)) (leBytes 8 fr)).modPart p fun pt =>
      { pt with regs := { pt.regs with ddCount := pt.regs.ddCount + 1 } }

/-- Take a frame from the ring; none when it is empty. -/
def popRing (p : Nat) (s : State) : Option (Nat × State) :=
  let r := (s.part p).regs
  match ddTable s p r.ddring 8 with
  | none => none
  | some (a, m) =>
    if r.ddCount = 0 then none
    else some (s.value (a + 8 * (r.ddHead % m)) 8, s.modPart p fun pt =>
      { pt with regs := { pt.regs with ddHead := (pt.regs.ddHead + 1) % m, ddCount := pt.regs.ddCount - 1 } })

/-- Release a frame (R238); none when it has no entry. -/
def releaseFrame (p fr : Nat) (s : State) : Option State :=
  match ddEntry s p fr with
  | none => none
  | some e =>
    let n := ddRef s e - 1
    let s := s.write (e + 4) (leBytes 4 n)
    some (if n = 0 then pushRing p fr s else s)

/-- The frame of a leaf, in the location form. -/
def leafFrame (leaf : Nat) : Nat := leaf / 4096 * 4096

/-- Does a cached run hold a translation that the entry at `own` gives? -/
def TlbEntry.uses (t : TlbEntry) (own : Nat) : Bool := t.homes.any fun h => decide (h ≤ own) && decide (own < h + (if t.unit = 16 then 128 else 8))

/-- Write the leaf whose entry stands at `own`; every translation that it gave leaves the caches of the partition, whichever page it was reached by (R225, R241). -/
def writeLeaf (p own leaf : Nat) (s : State) : State := (s.write own (leBytes 8 leaf)).filterTlb fun t => !(t.part == p && t.uses own)

/-- A copy-on-write of a leaf (R239): the new leaf. -/
inductive Cow where
  | done (leaf : Nat) (s : State)
  | wait
  | bad
  /-- A frame is elsewhere (14 R405). -/
  | away
deriving DecidableEq, Repr

/-- COW, DUP of a leaf. -/
def bitCOW : Nat := 2 ^ 8
def bitDUP : Nat := 2 ^ 7

/-- The low bits of a leaf without COW and DUP. -/
def plainBits (leaf : Nat) : Nat := bitsOf leaf 11 9 * 512 + leaf % 128

/-- Does this device own frames (14 R405)? -/
def framesHere (s : State) (p : Nat) (frs : List Nat) : Bool := frs.all fun fr => match locFlat s p fr 4096 with | some a => s.owned a | none => true

/-- Copy-on-write before a write through the leaf whose entry stands at `own` (R239). -/
def copyOnWrite (p g own : Nat) (s : State) : Cow :=
  let leaf := s.value own 8
  let fr := leafFrame leaf
  let done (new : Nat) (s : State) : Cow := .done (new + plainBits leaf) ((writeLeaf p own (new + plainBits leaf) s).clusCtr g .ddcows 1)
  if !framesHere s p [fr] then .away else
  match ddEntry s p fr with
  | none => .bad
  | some e =>
    if ddRef s e ≥ 2 then
      match popRing p s with
      | none => .wait
      | some (new, s1) =>
        match locFlat s1 p new 4096 with
        | none => .bad
        | some a =>
          if !s1.owned a then .away
          else done (leafFrame new) ((s1.store a (frameBytes s p fr)).write (e + 4) (leBytes 4 (ddRef s e - 1)))
    else done fr (s.write (e + 4) (leBytes 4 0))

end Sys2Proof.Machine
end

