-- ==== Sys2Proof/Machine/Copy.lean ====
section
/-! DEFINITION. Copy commands: their words, their checks at issue, their progress and completion (spec/08_copy_engines.md R192-R212, R218, R230-R241). -/

namespace Sys2Proof.Machine

open Sys2Proof

/-! Descriptors (R197, R198). -/

/-- A descriptor from its 64 bytes. -/
def CopyDesc.ofBytes (bs : List Byte) : CopyDesc :=
  let f (o n : Nat) := fieldOf bs o n
  { src := BitVec.ofNat 64 (f 0 8), dst := BitVec.ofNat 64 (f 8 8), xn := f 0x10 2, yn := f 0x12 2, zn := f 0x14 2,
    srs := f 0x18 4, sps := f 0x1C 4, drs := f 0x20 4, dps := f 0x24 4, fmt := f 0x28 4, mcast := BitVec.ofNat 24 (f 0x2C 4),
    plane := BitVec.ofNat 64 (f 0x30 8), res := BitVec.ofNat 64 (f 0x38 8) }

def CopyDesc.ssp (d : CopyDesc) : Bool := bitOf d.fmt 8
def CopyDesc.dsp (d : CopyDesc) : Bool := bitOf d.fmt 9
def CopyDesc.psp (d : CopyDesc) : Bool := bitOf d.fmt 10
def CopyDesc.scrc (d : CopyDesc) : Bool := bitOf d.fmt 11
def CopyDesc.dcrc (d : CopyDesc) : Bool := bitOf d.fmt 12
def CopyDesc.resen (d : CopyDesc) : Bool := bitOf d.fmt 13
/-- CPZ: 1 decompresses. -/
def CopyDesc.dir (d : CopyDesc) : Bool := bitOf d.fmt 14
def CopyDesc.esz (d : CopyDesc) : Nat := 2 ^ bitsOf d.fmt 17 16
def CopyDesc.sfe (d : CopyDesc) : Nat := bitsOf d.fmt 3 0
def CopyDesc.dfe (d : CopyDesc) : Nat := bitsOf d.fmt 7 4

/-- Is it a command that names formats? -/
def CopyOp.formats : CopyOp → Bool
  | .cpc | .cpx => true
  | _ => false

/-- Entries of both sides, for CPC and CPX. -/
def copyEntry (s : State) (p n : Nat) : Option FtEntry :=
  match s.ftEntry p n with
  | some f => if f.elem.isCode then none else some f
  | none => none

/-- Widths of the elements of both sides in bits. -/
def copyWidths (s : State) (p : Nat) (op : CopyOp) (d : CopyDesc) : Option (Nat × Nat) :=
  match op with
  | .cpc | .cpx =>
    match copyEntry s p d.sfe, copyEntry s p d.dfe with
    | some f, some g => some (f.elem.width, g.elem.width)
    | _, _ => none
  | .cptr => some (8 * d.esz, 8 * d.esz)
  | _ => some (8, 8)

/-- DBYTES (R200). -/
def dbytesOf (s : State) (p : Nat) (op : CopyOp) (d : CopyDesc) : Nat :=
  match op with
  | .cpm => d.xn * d.yn * d.zn * popcount 24 d.mcast.toNat
  | .cpd => 4096 * d.yn * d.zn
  | .cptr => d.xn * d.yn * d.zn * d.esz
  | .cpc | .cpx => match copyWidths s p op d with | some (_, w) => d.yn * d.zn * (d.xn * w / 8) | none => 0
  | _ => d.xn * d.yn * d.zn

/-- Is every DVA of a descriptor at most 48 bits (R194)? -/
def dvaOk (space : Bool) (a : W64) : Bool := !space || decide (a.toNat < 2 ^ 48)

/-- Fields that must be 0 hold 0, and fields hold values of their range (R198, R200, R201). -/
def fieldsOk (bs : List Byte) (op : CopyOp) (d : CopyDesc) : Bool :=
  fieldOf bs 0x16 2 == 0 && bitsOf d.fmt 31 18 == 0 && !bitOf d.fmt 15 && fieldOf bs 0x2F 1 == 0 &&
    (if op = .cptr then bitsOf d.fmt 17 16 ≠ 3 else bitsOf d.fmt 17 16 == 0) &&
    (op == .cpz || !d.dir) &&
    (op.formats || bitsOf d.fmt 7 0 == 0) &&
    (if op = .cpm then d.mcast ≠ 0#24 else d.mcast == 0#24) &&
    (if d.resen then d.res.toNat % 32 == 0 else d.res == 0#64) &&
    dvaOk d.ssp d.src && dvaOk d.dsp d.dst && dvaOk d.psp d.plane

/-- Is `x` a multiple of the bytes of an element of `w` bits? -/
def elemAligned (w : Nat) (xs : List Nat) : Bool := xs.all fun x => x % (Nat.max 1 (w / 8)) == 0

/-- Rows, alignments and the rules of the single commands (R201, R206, R207, R230, R238). -/
def shapeOk (s : State) (p : Nat) (op : CopyOp) (d : CopyDesc) : Bool :=
  decide (dbytesOf s p op d < 2 ^ 36) &&
  match op with
  | .cpc | .cpx =>
    match copyWidths s p op d with
    | some (w, v) =>
      d.xn * w % 8 == 0 && d.xn * v % 8 == 0 && elemAligned w [d.src.toNat, d.srs, d.sps] && elemAligned v [d.dst.toNat, d.drs, d.dps]
    | none => true
  | .cptr =>
    elemAligned (8 * d.esz) [d.src.toNat, d.srs, d.sps, d.dst.toNat, d.drs, d.dps] && decide (d.yn * d.esz ≤ d.drs) && decide (d.xn * d.esz ≤ d.srs)
  | .cpz =>
    let l := if d.dir then [d.src.toNat, d.srs, d.sps, d.xn] else [d.dst.toNat, d.drs, d.dps, d.xn]
    l.all fun x => x % 256 == 0
  | .cpd =>
    d.xn == 4096 && d.dsp && d.dst.toNat % 4096 == 0 && d.drs % 4096 == 0 && (decide (d.zn ≤ 1) || d.dps % 4096 == 0) &&
      ddOk s p (s.part p).regs.ddtab 16 && ddOk s p (s.part p).regs.ddring 8
  | _ => true

/-- Is every W-space destination byte of a CPM in a UNIT or PEER entry (R207)? -/
def multicastOk (w : List WinEntry) (d : CopyDesc) : Bool :=
  d.dsp || (List.range (if d.xn = 0 then 0 else d.yn * d.zn)).all fun r =>
    let a := d.dst.toNat + r / d.yn * d.dps + r % d.yn * d.drs
    (pieces a d.xn).all fun x =>
      match w.find? (·.covers (BitVec.ofNat 64 x.1)) with
      | some e => e.typ == .unit || e.typ == .peer
      | none => false

/-- Are the entries fit for the command (R203)? -/
def entriesOk (s : State) (p : Nat) (op : CopyOp) (d : CopyDesc) : Bool :=
  match op with
  | .cpc => match copyEntry s p d.sfe, copyEntry s p d.dfe with | some f, some _ => f.scale == 0 | _, _ => false
  | .cpx => match copyEntry s p d.sfe, copyEntry s p d.dfe with | some f, some g => f.scale ≠ 0 && g.scale == 0 | _, _ => false
  | _ => true

/-- The entry of the scaled side, if there is one. -/
def scaledSide (s : State) (p : Nat) (op : CopyOp) (d : CopyDesc) : Option FtEntry :=
  match op with
  | .cpc => match copyEntry s p d.dfe with | some g => if g.scale = 0 then none else some g | none => none
  | .cpx => copyEntry s p d.sfe
  | _ => none

/-- The block of a scaled side divides XN, and PLANE is 0 where it has no use (R198, R203). -/
def planeOk (s : State) (p : Nat) (op : CopyOp) (d : CopyDesc) : Bool :=
  match scaledSide s p op d with
  | some f => d.xn % blockSize f.scale f.group == 0
  | none => d.plane == 0#64

/-- May the task's partition name a barrier (R213)? -/
def barOk (s : State) (p b : Nat) : Bool := decide (b < 12288) && s.hasCluster p (b / 64)

/-! Queues (R192, R193, R210). -/

def State.copyQueue (s : State) (g e : Nat) : List CopyCmd := tget [] (s.cluster g).copies e
def State.setCopyQueue (s : State) (g e : Nat) (l : List CopyCmd) : State := s.modCluster g fun k => { k with copies := tput k.copies e l }

/-- How many commands of an engine are active: up to four, in order; a command with SEQ waits for the earlier ones of its task, and those behind it with it. -/
def activeLen (l : List CopyCmd) : Nat := go 4 [] l
where
  /-- `n` places are left; `seen` are the tasks before. -/
  go : Nat → List W64 → List CopyCmd → Nat
    | 0, _, _ => 0
    | _, _, [] => 0
    | n + 1, seen, c :: r => if c.ctl.seq && seen.contains c.by_.task then 0 else 1 + go n (c.by_.task :: seen) r

/-- Free entries of the queue of 16 (R192). -/
def freeEntries (s : State) (g e : Nat) : Nat :=
  let l := s.copyQueue g e
  16 - (l.length - activeLen l)

/-- The engine of a command: ENG, or with AUTO the one with the most free entries, the lowest on a tie (R197). -/
def chooseEngine (s : State) (g b : Nat) : Nat :=
  if bitOf b 18 then
    (List.range 4).foldl (fun m e => if freeEntries s g m < freeEntries s g e then e else m) 0
  else bitsOf b 17 16

/-- Who issues a command. -/
def issuerOf (c : Ctx) (idx : BitVec 32) (s : State) : Issuer :=
  { core := c.a.core?.getD 0, task := (s.task c.a).ident, idx := idx, seq := c.seq, lineage := (s.task c.a).lineage.length, pcs := none }

/-- Read `n` bytes at an aligned address of the task's window, as a load of the word (06 R140-R142). -/
def readBlock (c : Ctx) (va : W64) (n : Nat) (s : State) : Except Stop (List Byte) := do
  if va.toNat % n ≠ 0 then errAt .misalign va.toNat
  match translate s c.a (s.task c.a) va .load with
  | .error e => errAt e va.toNat
  | .ok tgt => innerRead c va tgt n s

/-- The checks of a copy word (R197-R203). -/
def copyChecked (c : Ctx) (op : CopyOp) (bs : List Byte) (s : State) : Except Stop Unit := do
  let p := s.partOf c.a
  let d := CopyDesc.ofBytes bs
  if !fieldsOk bs op d || !shapeOk s p op d || (op = .cpm && !multicastOk (s.task c.a).window d) then err .cpbad
  if !entriesOk s p op d then err .fmtbad
  if !planeOk s p op d then err .cpbad

/-- A word that sends a command to a copy engine (R199; 13 R359): its descriptor of `len` bytes is read, the checks are made and the engine is chosen once, before the wait for a free entry; then the command that `make` builds joins the queue. -/
def queueWord (g : Guard) (a b : Scalar) (len : Nat) (check : Ctx → List Byte → State → Except Stop Unit) (make : Issuer → CopyCtl → View → List Byte → CopyCmd)
    (s : State) : Answer :=
  issue (acc g [.src a, .src b]) s fun c s => do
    let (x, s) := readScalar c a s
    let (y, s) := readScalar c b s
    let cl := c.a.cluster
    let n := y.toNat
    let ctl : CopyCtl := { seq := bitOf n 19, recEvt := bitOf n 15, baren := bitOf n 14, bar := bitsOf n 13 0 }
    let (bs, e) ← match (s.task c.a).a.kept with
      | some k => pure (k.take len, leValue (k.drop len))
      | none => do
        let bs ← readBlock c x len s
        if n ≥ 2 ^ 20 || (bitOf n 18 && bitsOf n 17 16 ≠ 0) then err .cpbad
        check c bs s
        if ctl.baren && !barOk s (s.partOf c.a) ctl.bar then err .barrange
        pure (bs, chooseEngine s cl n)
    if freeEntries s cl e = 0 then keepFor (bs ++ leBytes 1 e) .engineQueue
    let s := countRead c x s
    let view := s.view c.a
    let (idx, s) := takeIndex c.a s
    let cmd := make (issuerOf c idx s) ctl view bs
    let s := s.setCopyQueue cl e (s.copyQueue cl e ++ [cmd])
    return match cmd.msg with
      | some m => if m.kerf then s else s.modTask c.a fun t => { t with a := { t.a with exact := t.a.exact ++ [(c.seq, idx)] } }
      | none => s

/-- A copy command that has not begun. -/
def newCopy (op : CopyOp) (by_ : Issuer) (ctl : CopyCtl) (view : View) (bs : List Byte) : CopyCmd :=
  { by_ := by_, op := op, d := CopyDesc.ofBytes bs, ctl := ctl, view := view, row := 0, x := 0, wait := none, faults := [], flags := 0#6,
    ddfull := false, ringwait := false, faulted := false, n1 := 0, n2 := 0, zlast := 0, sbytes := [], dbytes := [], msg := none, captured := false }

/-- A copy word (R196, R199). -/
def copyWord (op : CopyOp) (g : Guard) (a b : Scalar) (s : State) : Answer := queueWord g a b 64 (copyChecked · op) (newCopy op) s

/-- CPT (R200) -/
def execCpt (g : Guard) (a b : Scalar) (s : State) : Answer := copyWord .cpt g a b s
/-- CPC (R200, R204) -/
def execCpc (g : Guard) (a b : Scalar) (s : State) : Answer := copyWord .cpc g a b s
/-- CPX (R200, R204) -/
def execCpx (g : Guard) (a b : Scalar) (s : State) : Answer := copyWord .cpx g a b s
/-- CPTR (R206) -/
def execCptr (g : Guard) (a b : Scalar) (s : State) : Answer := copyWord .cptr g a b s
/-- CPM (R207) -/
def execCpm (g : Guard) (a b : Scalar) (s : State) : Answer := copyWord .cpm g a b s
/-- CPZ (R230) -/
def execCpz (g : Guard) (a b : Scalar) (s : State) : Answer := copyWord .cpz g a b s
/-- CPD (R238) -/
def execCpd (g : Guard) (a b : Scalar) (s : State) : Answer := copyWord .cpd g a b s

/-! Accesses of a command (R194, R195, R211). -/

/-- Why a command does not go on. -/
inductive CpStop where
  | fault (page : Nat) (write : Bool) (s : State)
  | ring (s : State)
  /-- Nothing can be done now: a swap is pending (09 R249), or a page is elsewhere (14 R405). -/
  | hold (s : State)
  | err (i : TrapInfo) (s : State)
deriving DecidableEq, Repr

/-- How a command accesses memory: its partition, its cluster, its window, and the choices of the step. -/
structure CpEnv where
  p : Nat
  g : Nat
  view : View
  cached : Bool
  refused : Bool
deriving DecidableEq, Repr

/-- An access that its leaf does not suit sets no A or D and leaves the cache as it was (R222, R224); its walk has been counted. -/
def refusedWalk (v : CpEnv) (before after : State) : State := before.modCluster v.g fun k => { k with ctr := (after.cluster v.g).ctr }

/-- Resolve one piece of D-space or W-space to its place. `z`: the compressed side of a CPZ. -/
def cpPlace (v : CpEnv) (space write z : Bool) (addr : Nat) (s0 : State) : Except CpStop (Option Place × State) :=
  let bad (c : TrapCode) (s : State) : CpStop := .err { code := c, addr := if c = .copyfault || c = .ptbad then 0 else addr, engine := .copy } s
  if space then
    match dAccess v.p v.g addr write v.cached v.refused s0 with
    | .fault s => .error (.fault (addr / 4096) write s)
    | .bad c s => .error (bad c s)
    | .hold => .error (.hold s0)
    | .ok e pl s =>
      if bitOf e.leaf 4 != z then .error (bad .ptbad (refusedWalk v s0 s))
      else if write && bitOf e.leaf 8 then
        if !dedupOwned s v.p || !s.owned e.own then .error (.hold s) else
        match copyOnWrite v.p v.g e.own s with
        | .bad => .error (bad .ptbad s)
        | .wait => .error (.ring s)
        | .away => .error (.hold s)
        | .done leaf s =>
          match leafPlace s v.p addr { e with leaf := leaf } with
          | some pl => .ok (some pl, s)
          | none => .error (bad .ptbad s)
      else .ok (some pl, s)
  else
    let va := BitVec.ofNat 64 addr
    let k : AccKind := if z then (if write then .zwrite else .zread) else if write then .engineStore else .load
    match v.view.translate s0 va k with
    | .error c => .error (bad c s0)
    | .ok t =>
      match if write then engineAddr s0 v.p t else loadAddr s0 v.p t with
      | some b => .ok (some (.flat b), countPeers v.view k [(addr, 1)] s0)
      | none => .ok (none, s0)

/-- The flat address of a place of the module; an access holds while the page is elsewhere, a write while a swap is pending (09 R249). -/
def placeAddr (v : CpEnv) (write : Bool) (pl : Place) (s : State) : Except CpStop (Option Nat) :=
  match pl with
  | .flat a => if s.owned a then .ok (some a) else .error (.hold s)
  | .shadow st off =>
    if write && (tget? (s.part v.p).swap st).isSome then .error (.hold s)
    else
      let a := bankBase st (1 - b2n ((s.part v.p).sel.getLsbD st)) + ((s.part v.p).regs.pwb.getD st .none).base + off
      if s.owned a then .ok (some a) else .error (.hold s)
  | .host _ => .ok none

/-- Addresses of a space: D-space addresses have 48 bits, W-space addresses 64. -/
def wrapAddr (space : Bool) (a : Nat) : Nat := if space then a % 2 ^ 48 else a % 2 ^ 64

/-- Read one piece. -/
def cpReadPiece (v : CpEnv) (space z : Bool) (addr n : Nat) (s : State) : Except CpStop (List Byte × State) := do
  let addr := wrapAddr space addr
  let (pl, s) ← cpPlace v space false z addr s
  match pl with
  | none => return (List.replicate n 0#8, s)
  | some (.host a) => return ((List.range n).map fun i => Config.freeByte s.freeCtr (a + i), s.drawn)
  | some pl =>
    match ← placeAddr v false pl s with
    | none => return ([], s)
    | some a =>
      if s.eccHit a n then .error (.err { code := .eccunc, addr := a, engine := .copy } s)
      else if s.expired a then .error (.err { code := .transientexpired, addr := addr, engine := .copy } s)
      else return (s.bytes a n, s)

/-- Read pieces, first to last. -/
def cpReadAll (v : CpEnv) (space z : Bool) : List (Nat × Nat) → State → Except CpStop (List Byte × State)
  | [], s => .ok ([], s)
  | (a, n) :: r, s => do
    let (x, s) ← cpReadPiece v space z a n s
    let (y, s) ← cpReadAll v space z r s
    return (x ++ y, s)

def cpRead (v : CpEnv) (space z : Bool) (addr n : Nat) (s : State) : Except CpStop (List Byte × State) := cpReadAll v space z (pieces addr n) s

/-- The places of the pieces that a write covers: place, address, length. -/
def cpPlaces (v : CpEnv) (space z : Bool) : List (Nat × Nat) → State → Except CpStop (List (Place × Nat × Nat) × State)
  | [], s => .ok ([], s)
  | (a, n) :: r, s => do
    let a := wrapAddr space a
    let (pl, s) ← cpPlace v space true z a s
    let (l, s) ← cpPlaces v space z r s
    return (((pl.getD (.host 0)), a, n) :: l, s)

/-- Write bytes to a place. -/
def cpWriteAt (v : CpEnv) (fn : Nat) (pl : Place) (addr : Nat) (bs : List Byte) (s : State) : Except CpStop State :=
  match pl with
  | .host a => .ok (s.send (.hostWrite fn (s.fn fn).pasid (s.fn fn).ats a bs))
  | pl => do
    match ← placeAddr v true pl s with
    | none => return s
    | some a =>
      match busyUnit s a bs.length with
      | some u => .error (.err { code := .cellbusy, addr := (addr + u - a) / 32 * 32, engine := .copy } s)
      | none => return s.store a bs

/-- Write to resolved places, first to last. -/
def cpWriteAll (v : CpEnv) (fn : Nat) : List (Place × Nat × Nat) → List Byte → State → Except CpStop State
  | [], _, s => .ok s
  | (pl, a, n) :: r, bs, s => do
    let s ← cpWriteAt v fn pl a (bs.take n) s
    cpWriteAll v fn r (bs.drop n) s

/-- Write a range: every piece is resolved before the first byte is written. -/
def cpWrite (v : CpEnv) (space z : Bool) (addr : Nat) (bs : List Byte) (s : State) : Except CpStop State := do
  let (l, s) ← cpPlaces v space z (pieces addr bs.length) s
  cpWriteAll v (s.fnOf v.p) l bs s

/-- Write a multicast range: the same offset of the unit scratchpad of every core of the mask (R207). -/
def cpMulticast (v : CpEnv) (space : Bool) (mcast : BitVec 24) (addr : Nat) (bs : List Byte) (s0 : State) : Except CpStop State := do
  let (l, s) ← cpPlaces v space false (pieces addr bs.length) s0
  let copies ← l.mapM fun x => match x.1 with
    | .flat a =>
      match homeOf a with
      | .unit c => .ok (((List.range 24).filter fun i => mcast.getLsbD i).map fun i => (Place.flat (unitBase (c / 24 * 24 + i) + (a - unitBase c)), x.2.1, x.2.2))
      | _ => .error (.err { code := .ptbad, engine := .copy } (refusedWalk v s0 s))
    | _ => .error (.err { code := .ptbad, engine := .copy } (refusedWalk v s0 s))
  let rec run (ls : List (List (Place × Nat × Nat))) (bs : List Byte) (s : State) : Except CpStop State :=
    match ls with
    | [] => .ok s
    | cs :: r => do
      let n := match cs with | x :: _ => x.2.2 | [] => 0
      let s ← cs.foldlM (fun s x => cpWriteAt v 0 x.1 x.2.1 (bs.take n) s) s
      run r (bs.drop n) s
  run copies bs s

/-- Put bytes into a checksum table. -/
def noteBytes (on : Bool) (t : Table Byte) (addr : Nat) (bs : List Byte) : Table Byte :=
  if on then tputAll t ((List.range bs.length).zip bs |>.map fun x => (addr + x.1, x.2)) else t

/-! Progress (R201-R207). -/

/-- Rows of a command over all planes, in its destination's shape. -/
def CopyCmd.rows (c : CopyCmd) : Nat :=
  if c.d.xn = 0 || c.d.yn = 0 || c.d.zn = 0 then 0 else if c.op = .cptr then c.d.xn * c.d.zn else c.d.yn * c.d.zn

/-- Rows of one plane. -/
def CopyCmd.planeRows (c : CopyCmd) : Nat := if c.op = .cptr then c.d.xn else c.d.yn

/-- Has a command moved everything? -/
def CopyCmd.done (c : CopyCmd) : Bool := decide (c.rows ≤ c.row)

/-- Addresses of the current row: source row (not for CPTR) and destination row. -/
def CopyCmd.srcRow (c : CopyCmd) : Nat := c.d.src.toNat + c.row / c.planeRows * c.d.sps + c.row % c.planeRows * c.d.srs
def CopyCmd.dstRow (c : CopyCmd) : Nat := c.d.dst.toNat + c.row / c.planeRows * c.d.dps + c.row % c.planeRows * c.d.drs

/-- Step past `n` bytes of a row of `len`. -/
def CopyCmd.past (c : CopyCmd) (n len : Nat) : CopyCmd :=
  if c.x + n ≥ len then { c with row := c.row + 1, x := 0 } else { c with x := c.x + n }

/-- Bytes of the next piece of a row: about `n`, up to the row's end, ending on an aligned word of the destination (R202). -/
def pieceLen (dst x len n : Nat) : Nat :=
  let stop := (dst + x + Nat.max 1 n + 3) / 4 * 4
  Nat.min (len - x) (stop - (dst + x))

/-- CPT and CPM: a piece of a row. -/
def stepBytes (v : CpEnv) (c : CopyCmd) (n : Nat) (s : State) : Except CpStop (CopyCmd × State) := do
  let len := pieceLen c.dstRow c.x c.d.xn n
  let (bs, s) ← cpRead v c.d.ssp false (c.srcRow + c.x) len s
  let s ← if c.op = .cpm then cpMulticast v c.d.dsp c.d.mcast (c.dstRow + c.x) bs s else cpWrite v c.d.dsp false (c.dstRow + c.x) bs s
  return ({ c with sbytes := noteBytes c.d.scrc c.sbytes (c.srcRow + c.x) bs, dbytes := noteBytes c.d.dcrc c.dbytes (c.dstRow + c.x) bs }.past len c.d.xn, s)

/-- CPTR: one destination row (R206). -/
def stepTranspose (v : CpEnv) (c : CopyCmd) (s : State) : Except CpStop (CopyCmd × State) := do
  let e := c.d.esz
  let plane := c.row / c.d.xn
  let col := c.row % c.d.xn
  let at_ (y : Nat) := c.d.src.toNat + plane * c.d.sps + y * c.d.srs + col * e
  let rec go (ys : List Nat) (s : State) : Except CpStop (List (Nat × List Byte) × State) :=
    match ys with
    | [] => .ok ([], s)
    | y :: r => do
      let (b, s) ← cpRead v c.d.ssp false (at_ y) e s
      let (l, s) ← go r s
      return ((at_ y, b) :: l, s)
  let (els, s) ← go (List.range c.d.yn) s
  let bs := els.flatMap (·.2)
  let s ← cpWrite v c.d.dsp false c.dstRow bs s
  return ({ c with sbytes := els.foldl (fun t x => noteBytes c.d.scrc t x.1 x.2) c.sbytes
                   dbytes := noteBytes c.d.dcrc c.dbytes c.dstRow bs, row := c.row + 1 }, s)

/-- Pack elements of `w` bits into bytes (03 R71). -/
def packBits (w : Nat) (xs : List Nat) : List Byte :=
  leBytes (ceilDiv (w * xs.length) 8) (((List.range xs.length).zip xs).foldl (fun n x => n + x.2 % 2 ^ w * 2 ^ (w * x.1)) 0)

/-- The plane addresses of a row: first block, scales, first bit of the zero points. -/
def planeRow (c : CopyCmd) (f : FtEntry) : Nat × Nat × Nat :=
  let nb := c.d.xn / blockSize f.scale f.group
  let first := c.row * nb
  (nb, c.d.plane.toNat + first * scaleBytes f.scale, first * f.elem.width)

/-- Where the zero points start. -/
def planeZeros (c : CopyCmd) (f : FtEntry) : Nat := zeroPlane c.d.plane.toNat (c.rows * (c.d.xn / blockSize f.scale f.group))

/-- CPC: one row (R204, R205). The zero points of an odd number of blocks before the row end in half a byte, which is written again with the first of this row. -/
def stepConvert (v : CpEnv) (c : CopyCmd) (f g : FtEntry) (s : State) : Except CpStop (CopyCmd × State) := do
  let (bs, s) ← cpRead v c.d.ssp false c.srcRow (c.d.xn * f.elem.width / 8) s
  let el (i : Nat) := packed bs f.elem.width i
  let put (xs : List Nat) (fl : Flags) (s : State) : Except CpStop (CopyCmd × State) := do
    let out := packBits g.elem.width xs
    let s ← cpWrite v c.d.dsp false c.dstRow out s
    return ({ c with flags := c.flags ||| fl, sbytes := noteBytes c.d.scrc c.sbytes c.srcRow bs
                     dbytes := noteBytes c.d.dcrc c.dbytes c.dstRow out, row := c.row + 1 }, s)
  if g.scale = 0 then
    let rs := (List.range c.d.xn).map fun i => convert (el i) f.elem g.elem g.mode
    put (rs.map (·.1)) (rs.foldl (fun a r => a ||| r.2) 0#6) s
  else
    let (nb, pl, zb) := planeRow c g
    let b := blockSize g.scale g.group
    let w := g.elem.width
    let cs := (List.range nb).map fun k => chooseBlock g.elem g.scale g.mode ((List.range b).map fun j => elemValue f.elem (el (k * b + j)))
    let fl := cs.foldl (fun a r => a ||| r.flags) 0#6
    let zs := (if zb % 8 = 0 then [] else [c.zlast]) ++ cs.map (·.zp)
    let z0 := planeZeros c g
    let (c, s) ← put (cs.flatMap (·.elems)) fl s
    let s ← cpWrite v c.d.psp false pl (cs.flatMap fun r => leBytes (scaleBytes g.scale) r.scale) s
    let s ← if g.scale = 3 then cpWrite v c.d.psp false (z0 + zb / 8) (packBits w zs) s else pure s
    return ({ c with zlast := zs.getLastD 0 }, s)

/-- CPX: one row (R204). -/
def stepExpand (v : CpEnv) (c : CopyCmd) (f g : FtEntry) (s : State) : Except CpStop (CopyCmd × State) := do
  let (bs, s) ← cpRead v c.d.ssp false c.srcRow (c.d.xn * f.elem.width / 8) s
  let (nb, pl, zb) := planeRow c f
  let b := blockSize f.scale f.group
  let sz := scaleBytes f.scale
  let (sc, s) ← cpRead v c.d.psp false pl (nb * sz) s
  let z0 := planeZeros c f
  let (zs, s) ← if f.scale = 3 then cpRead v c.d.psp false (z0 + zb / 8) (ceilDiv (zb % 8 + nb * f.elem.width) 8) s else .ok ([], s)
  let zbits := leValue zs / 2 ^ (zb % 8)
  let rs := (List.range c.d.xn).map fun i =>
    let k := i / b
    let (x, f1) := scaledValue f.elem f.scale (packed bs f.elem.width i) (leValue ((sc.drop (k * sz)).take sz)) (zbits / 2 ^ (f.elem.width * k) % 2 ^ f.elem.width)
    let (y, f2) := roundInto g.elem x g.mode
    (y, f1 ||| f2)
  let out := packBits g.elem.width (rs.map (·.1))
  let s ← cpWrite v c.d.dsp false c.dstRow out s
  return ({ c with flags := rs.foldl (fun a r => a ||| r.2) c.flags, sbytes := noteBytes c.d.scrc c.sbytes c.srcRow bs
                   dbytes := noteBytes c.d.dcrc c.dbytes c.dstRow out, row := c.row + 1 }, s)

/-! Compression (R231-R234). -/

/-- The header marker (R234). -/
def headerMarker : Nat := 0x5A0FC3E1

/-- What a block is stored as: first byte of the slot, bytes; whether it is raw, and whether a word was inverted. -/
structure Stored where
  off : Nat
  bytes : List Byte
  raw : Bool
  inverted : Bool
deriving DecidableEq, Repr

/-- Encode a block of 256 bytes. -/
def encodeBlock (hdr : Bool) (marker : W32) (bs : List Byte) : Stored :=
  let ws := (List.range 64).map fun i => leValue ((bs.drop (4 * i)).take 4)
  let nz := ws.filter (· ≠ 0)
  let n := nz.length
  let k := ceilDiv (16 + 4 * n) 32
  let mask := (List.range 64).foldl (fun m i => if ws.getD i 0 ≠ 0 then m + 2 ^ i else m) 0
  let body := leBytes 8 mask ++ nz.flatMap fun w => leBytes 4 w
  let pad := List.replicate (32 * k - 16 - 4 * n) 0#8
  let ctrl := leBytes 4 (k + 16 * n)
  if k ≤ 7 then
    if hdr then { off := 0, bytes := leBytes 4 headerMarker ++ ctrl ++ body ++ pad, raw := false, inverted := false }
    else { off := 256 - 32 * k, bytes := body ++ pad ++ ctrl ++ leBytes 4 marker.toNat, raw := false, inverted := false }
  else if hdr then
    let inv := ws.getD 0 0 == headerMarker
    { off := 0, bytes := if inv then leBytes 4 (2 ^ 32 - 1 - headerMarker) ++ bs.drop 4 else bs, raw := true, inverted := inv }
  else
    let inv := ws.getD 63 0 == marker.toNat
    { off := 0, bytes := if inv then bs.take 252 ++ leBytes 4 (2 ^ 32 - 1 - marker.toNat) else bs, raw := true, inverted := inv }

/-- A decoded block, with the range of the slot that was read. -/
structure Decoded where
  bytes : List Byte
  off : Nat
  len : Nat
deriving DecidableEq, Repr

/-- Place words by a mask. -/
def placeWords (mask : Nat) (ws : List Nat) : Nat → List Nat
  | 0 => []
  | n + 1 =>
    if bitOf mask (63 - n) then
      match ws with
      | [] => 0 :: placeWords mask [] n
      | w :: r => w :: placeWords mask r n
    else 0 :: placeWords mask ws n

/-- Decode a slot of 256 bytes; none is CMPCORRUPT (R233, R234). `hit`: the block is in the collision table. -/
def decodeBlock (hdr : Bool) (marker : W32) (hit : Bool) (slot : List Byte) : Option Decoded :=
  let word (o : Nat) := leValue ((slot.drop o).take 4)
  let mark := if hdr then headerMarker else marker.toNat
  let lead := if hdr then word 0 else word 252
  if lead = mark then
    let ctrl := if hdr then word 4 else word 248
    let k := bitsOf ctrl 3 0
    let n := bitsOf ctrl 10 4
    let base := if hdr then 8 else 256 - 32 * k
    let mask := leValue ((slot.drop base).take 8)
    if k = 0 || k > 7 || n > 52 || ceilDiv (16 + 4 * n) 32 ≠ k || popcount 64 mask ≠ n || bitsOf ctrl 31 11 ≠ 0 then none
    else
      let ws := (List.range n).map fun i => word (base + 8 + 4 * i)
      some { bytes := (placeWords mask ws 64).flatMap fun w => leBytes 4 w, off := if hdr then 0 else 256 - 32 * k, len := 32 * k }
  else
    let fix (o : Nat) : List Byte := slot.take o ++ leBytes 4 (2 ^ 32 - 1 - word o) ++ slot.drop (o + 4)
    some { bytes := if hit then fix (if hdr then 0 else 252) else slot, off := 0, len := 256 }

/-- The sector that a reader takes first: its offset in the slot (R233, R234). -/
def leadSector (hdr : Bool) : Nat := if hdr then 0 else 224

/-- What a reader takes of the slot after the first sector `lead`: offset and length; none is CMPCORRUPT. -/
def restOfSlot (hdr : Bool) (marker : W32) (lead : List Byte) : Option (Nat × Nat) :=
  let word (o : Nat) := leValue ((lead.drop o).take 4)
  let ctrl := word (if hdr then 4 else 24)
  let k := bitsOf ctrl 3 0
  let n := bitsOf ctrl 10 4
  if word (if hdr then 0 else 28) = (if hdr then headerMarker else marker.toNat) then
    if k = 0 || k > 7 || n > 52 || ceilDiv (16 + 4 * n) 32 ≠ k || bitsOf ctrl 31 11 ≠ 0 then none
    else some (if hdr then 32 else 256 - 32 * k, 32 * k - 32)
  else some (if hdr then 32 else 0, 224)

/-- Read a slot: the first sector, then the sectors that it calls for; bytes that are not read stand as 0. -/
def readSlot (v : CpEnv) (hdr : Bool) (marker : W32) (space : Bool) (sa : Nat) (s : State) : Except CpStop (List Byte × State) := do
  let (lead, s) ← cpRead v space true (sa + leadSector hdr) 32 s
  match restOfSlot hdr marker lead with
  | none => .error (.err { code := .cmpcorrupt, engine := .copy } s)
  | some (o, n) =>
    let (rest, s) ← cpRead { v with cached := true } space true (sa + o) n s
    return (if hdr then lead ++ rest ++ List.replicate (224 - n) 0#8 else List.replicate o 0#8 ++ rest ++ lead, s)

/-- CPZ: one block (R230, R231-R234). The collision table follows the block as it is stored. -/
def stepCompress (v : CpEnv) (c : CopyCmd) (s : State) : Except CpStop (CopyCmd × State) := do
  let hdr := (s.part v.p).regs.hdr
  let marker := s.plat.marker
  let sa := c.srcRow + c.x
  let da := c.dstRow + c.x
  if c.d.dir then
    let (slot, s1) ← readSlot v hdr marker c.d.ssp sa s
    let (pl, s1) ← cpPlace { v with cached := true } c.d.ssp false true (wrapAddr c.d.ssp sa) s1
    let loc ← match pl with | some pl => placeAddr v false pl s1 | none => .ok none
    match decodeBlock hdr marker ((s1.part v.p).collisions.contains (loc.getD 0 / 256)) slot with
    | none => .error (.err { code := .cmpcorrupt, engine := .copy } s1)
    | some d =>
      let s2 ← cpWrite v c.d.dsp false da d.bytes s1
      return ({ c with n2 := c.n2 + d.len / 32, sbytes := noteBytes c.d.scrc c.sbytes (sa + d.off) ((slot.drop d.off).take d.len)
                       dbytes := noteBytes c.d.dcrc c.dbytes da d.bytes }.past 256 c.d.xn, s2)
  else
    let (bs, s1) ← cpRead v c.d.ssp false sa 256 s
    let (l, s1) ← cpPlaces v c.d.dsp true [(da, 256)] s1
    match l with
    | (pl, a, _) :: _ =>
      match ← placeAddr v true pl s1 with
      | none => return (c.past 256 c.d.xn, s1)
      | some b =>
        let e := encodeBlock hdr marker bs
        let tab := (s1.part v.p).collisions.filter (· ≠ b / 256)
        if e.inverted && tab.length ≥ 64 then .error (.err { code := .cmpcoll, engine := .copy } s1)
        else
          let s2 ← cpWriteAt v 0 (.flat (b + e.off)) (a + e.off) e.bytes s1
          let s2 := s2.modPart v.p fun pt => { pt with collisions := if e.inverted then b / 256 :: tab else tab }
          let s2 := if e.raw then s2.clusCtr v.g .cmpraw 1 else s2
          return ({ c with n2 := c.n2 + e.bytes.length / 32, sbytes := noteBytes c.d.scrc c.sbytes sa bs
                           dbytes := noteBytes c.d.dcrc c.dbytes (da + e.off) e.bytes }.past 256 c.d.xn, s2)
    | [] => return (c.past 256 c.d.xn, s1)

/-! Deduplication (R238). -/

/-- Is a leaf fit for a page step? -/
def Leaf.fitsDedup (e : Leaf) : Bool := e.level == 0 && !bitOf e.leaf 9 && !bitOf e.leaf 4 && bitOf e.leaf 3 && (locTgt e.leaf == 3 || locTgt e.leaf == 4)

/-- The destination leaf of a page step: any page that is not a present, fit 4 KiB leaf is PTBAD, and nothing of it has changed. -/
def dedupLeaf (v : CpEnv) (dva : Nat) (s : State) : Except CpStop (Leaf × State) :=
  let s1 := s.clusCtr v.g .cpwalks 1
  let hit := if v.cached then (tlbFind v.p (dva / 4096) (s.cluster v.g).tlb).filter Leaf.fitsDedup else none
  if !dspaceOn s v.p then .error (.err { code := .copyfault, engine := .copy } s)
  else match hit with
    | some e => .ok (e, s)
    | none =>
      match walk s v.p dva with
      | .leaf e => if e.fitsDedup then .ok (e, s1) else .error (.err { code := .ptbad, engine := .copy } s1)
      | .away => .error (.hold s)
      | _ => .error (.err { code := .ptbad, engine := .copy } s1)

/-- The page step on the destination leaf whose entry stands at `own`, the source bytes read: the command and the state after it. -/
def pageStep (v : CpEnv) (c : CopyCmd) (page own : Nat) (S : List Byte) (s : State) : Except CpStop (CopyCmd × State) :=
  let bad : CpStop := .err { code := .ptbad, engine := .copy } s
  let leaf := s.value own 8
  let old := leafFrame leaf
  let dup := bitOf leaf 7
  let plain := plainBits leaf ||| 0x60
  let win := ddWindow s v.p (fingerprint S)
  let alike := win.filter fun e => ddRef s e > 0 && s.value e 4 == fingerprint S
  if !framesHere s v.p (alike.map (ddFrame s)) || (dup && !framesHere s v.p [old]) then .error (.hold s) else
  match alike.find? fun e => frameBytes s v.p (ddFrame s e) == S with
  | some e =>
    let fr := ddFrame s e
    let s1 := s.write (e + 4) (leBytes 4 (ddRef s e + 1))
    let s1 := writeLeaf v.p own (leafFrame fr + 0x1EF) s1
    match (if dup then releaseFrame v.p old s1 else some (pushRing v.p old s1)) with
    | none => .error bad
    | some s2 => .ok ({ c with n1 := c.n1 + 1, row := c.row + 1 }, s2.clusCtr v.g .ddhits 1)
  | none =>
    let mine : Except CpStop (Nat × State) := if dup then
        match releaseFrame v.p old s with
        | none => .error bad
        | some s1 => match popRing v.p s1 with | some x => .ok x | none => .error (.ring s)
      else .ok (old, s)
    match mine with
    | .error x => .error x
    | .ok (fr, s1) =>
      match locFlat s1 v.p fr 4096 with
      | none => .error bad
      | some a =>
        if !s1.owned a then .error (.hold s)
        else match busyUnit s1 a 4096 with
        | some u => .error (.err { code := .cellbusy, addr := page * 4096 + (u - a) / 32 * 32, engine := .copy } s)
        | none =>
          let s2 := s1.store a S
          match win.find? fun e => ddRef s2 e == 0 with
          | some e =>
            let s3 := s2.write e (leBytes 4 (fingerprint S) ++ leBytes 4 1 ++ leBytes 8 (leafFrame fr))
            .ok ({ c with n2 := c.n2 + 1, row := c.row + 1 }, writeLeaf v.p own (leafFrame fr + (plain ||| 0x180)) s3)
          | none => .ok ({ c with ddfull := true, row := c.row + 1 }, writeLeaf v.p own (leafFrame fr + plain) s2)

/-- CPD: one page step (R238, R241). -/
def stepDedup (v : CpEnv) (c : CopyCmd) (s : State) : Except CpStop (CopyCmd × State) := do
  let (bs, s) ← cpRead v c.d.ssp false c.srcRow 4096 s
  let da := wrapAddr true c.dstRow
  let (e, s) ← dedupLeaf v da s
  if !dedupOwned s v.p || !s.owned e.own then .error (.hold s)
  let c := { c with sbytes := noteBytes c.d.scrc c.sbytes c.srcRow bs, dbytes := noteBytes c.d.dcrc c.dbytes c.dstRow bs }
  pageStep v c (da / 4096) e.own bs s

/-! Messages (13 R358-R364). -/

/-- The process group of a partition's launch. -/
def State.group? (s : State) (p : Nat) : Option Group := match (s.part p).launch with | some l => l.group | none => none

/-- The words of a message's header (13 R358): TAG, LEN, PGID, rank, sequence number, DL. -/
def Msg.words (s : State) (p : Nat) (m : Msg) : List Nat :=
  match s.group? p with
  | some g => [m.tag, m.len, g.pgid, g.rank, m.seq, m.dl]
  | none => [m.tag, m.len, 0, 0, m.seq, m.dl]

/-- Put a message on the link: an attempt of an exact message, or a kerf message with its blocks and end marker (13 R362, R364). -/
def putMessage (p : Nat) (m : Msg) (s : State) : State :=
  if m.kerf then
    let s := s.sendPort m.port .kerfHeader (m.words s p) []
    let s := (List.range (m.len / 256)).foldl (fun s i =>
      s.sendPort m.port .kerfBlock [i, b2n (!m.bad.contains i)] (if m.bad.contains i then [] else (m.bytes.drop (256 * i)).take 256)) s
    s.sendPort m.port .endMarker [] []
  else s.sendPort m.port .exact (m.words s p) m.bytes

/-- MSEND and KSEND (13 R361): read a piece of the payload, or put the message on the link once it has been read whole. -/
def stepMessage (v : CpEnv) (c : CopyCmd) (m : Msg) (n : Nat) (s : State) : Except CpStop (CopyCmd × State) :=
  if m.phase ≠ .reading then .error (.hold s)
  else if c.x ≥ m.len then
    let q := s.port m.port
    let m := { m with seq := if m.kerf then q.seqK else q.seqX, attempts := 1, phase := .sent s.modl.frame }
    let s := putMessage v.p m (s.modPort m.port fun q => if m.kerf then { q with seqK := q.seqK + 1 } else { q with seqX := q.seqX + 1 })
    .ok ({ c with msg := some m, row := if m.kerf then 1 else 0 }, s)
  else
    let len := if m.kerf then 256 else pieceLen c.d.src.toNat c.x m.len n
    match cpRead v false false (c.d.src.toNat + c.x) len s with
    | .ok (bs, s) => .ok ({ c with x := c.x + len, msg := some { m with bytes := m.bytes ++ bs } }, s)
    | .error (.err i s') =>
      let other := (pieces (c.d.src.toNat + c.x) len).any fun x => match v.view.pieceError s .load x.1 with | some j => j.code ≠ .transientexpired | none => false
      if m.kerf && i.code = .transientexpired && !other then
        .ok ({ c with x := c.x + len, msg := some { m with bytes := m.bytes ++ List.replicate 256 0#8, bad := m.bad ++ [c.x / 256] } }, s)
      else .error (.err i s')
    | .error e => .error e

/-- One step of a command that has not moved everything. -/
def copyWork (v : CpEnv) (c : CopyCmd) (n : Nat) (s : State) : Except CpStop (CopyCmd × State) :=
  match c.op with
  | .cpt | .cpm => stepBytes v c n s
  | .cptr => stepTranspose v c s
  | .cpz => stepCompress v c s
  | .cpd => stepDedup v c s
  | .msend | .ksend => match c.msg with | some m => stepMessage v c m n s | none => .error (.hold s)
  | .cpc | .cpx =>
    match copyEntry s v.p c.d.sfe, copyEntry s v.p c.d.dfe with
    | some f, some g => if c.op = .cpc then stepConvert v c f g s else stepExpand v c f g s
    | _, _ => .error (.err { code := .fmtbad, engine := .copy } s)

/-! The engine's events (R210, R212, R226-R229, R240). -/

/-- Have the accesses that a command's task issued before its word been performed, and its exact-class messages (R212)? A PUBLISH is no access that R212 names: it waits for the command instead (06 R157). -/
def issuerReady (b : Issuer) (s : State) : Bool :=
  match heldTask? s (s.partOf (.access b.core)) b.core b.task with
  | none => true
  | some t => ((t.a.loads ++ t.a.stores).all fun x => !decide (x.seq < b.seq) || x.open_.isEmpty || x.op == .publish) && (t.a.exact.all fun k => !decide (k.1 < b.seq))

/-- STATUS of a result block (R209). -/
def CopyCmd.status (c : CopyCmd) : Nat := c.flags.toNat + b2n c.ddfull * 2 ^ 8 + b2n c.ringwait * 2 ^ 9 + b2n c.faulted * 2 ^ 10

/-- Replace command `i` of an engine. -/
def setCopy (g e i : Nat) (c : CopyCmd) (s : State) : State := s.setCopyQueue g e (lmod (s.copyQueue g e) i fun _ => c)

/-- The cluster of a command's issuer, whose event queue takes its record. -/
def Issuer.cluster (b : Issuer) : Nat := clusterOfCore b.core

/-- An error against a copy command: it is dropped. -/
def copyTrap (c : CopyCmd) (i : TrapInfo) (s : State) : State :=
  let s := trapCommand c.by_ { i with engine := .copy, status := c.status } s
  s.modCluster c.by_.cluster fun k => { k with copies := k.copies.map fun q => (q.1, q.2.filter fun x => x.by_ ≠ c.by_) }

/-- A fault of a command on a page (R226, R229): the fourth on one page, by reads and writes together, is COPYFAULT. -/
def copyFault (p g e i : Nat) (c : CopyCmd) (page : Nat) (write : Bool) (s : State) : State :=
  let n := tget 0 c.faults page + 1
  let s := if n = 1 then s.clusCtr g .cpfaults 1 else s
  let c := { c with faulted := true, faults := tput c.faults page n }
  if n ≥ 4 then copyTrap c { code := .copyfault } (setCopy g e i c s)
  else requestPage p g page write (setCopy g e i { c with wait := some (.page page write) } s)

/-- A command waits for a free frame: the host is told once (R240). -/
def copyRing (p g e i : Nat) (c : CopyCmd) (s : State) : State :=
  let s1 := setCopy g e i { c with wait := some .ring, ringwait := true } s
  if c.wait = some .ring then s1
  else (s1.bbEvent 0xA p (leBytes 4 c.by_.idx.toNat ++ leBytes 8 c.by_.task.toNat)).raisePart p 6

/-- N2 of a command other than CPD and CPZ counts its copy-on-writes (R209, R239): those between two states of its step. -/
def noteCows (g : Nat) (s s1 : State) (c : CopyCmd) : CopyCmd :=
  let cows (s : State) : Nat := tget 0 (s.cluster g).ctr ClusCtr.ddcows.num
  match c.op with
  | .cpd | .cpz => c
  | _ => { c with n2 := c.n2 + (cows s1 + 2 ^ 64 - cows s) % 2 ^ 64 }

/-- COPY_EXECUTE (R210): command `i` of engine `e` of cluster `g` makes progress, by about `n` bytes or by one row, block or page. -/
def copyExecute (g e i n : Nat) (cached refused : Bool) (s : State) : State :=
  let l := s.copyQueue g e
  match l[i]? with
  | none => s
  | some c =>
    let waits := match c.wait with | some (.page _ _) => true | _ => false
    if i ≥ activeLen l || c.captured || waits || c.done || !issuerReady c.by_ s then s
    else
      let p := (s.partOf? g).getD 0
      match copyWork { p := p, g := g, view := c.view, cached := cached, refused := refused } c n s with
      | .ok (c, s1) => setCopy g e i { noteCows g s s1 c with wait := none } s1
      | .error (.fault page w s1) => copyFault p g e i (noteCows g s s1 c) page w s1
      | .error (.ring s1) => copyRing p g e i (noteCows g s s1 c) s1
      | .error (.hold s1) => setCopy g e i (noteCows g s s1 c) s1
      | .error (.err x s1) => copyTrap c x s1

/-- The result block (R209). -/
def resultBlock (c : CopyCmd) (dbytes : Nat) : List Byte :=
  let crc (on : Bool) (t : Table Byte) : Nat := if on then (crc32c (t.map (·.2))).toNat else 0
  leBytes 4 c.status ++ leBytes 4 0 ++ leBytes 8 dbytes ++ leBytes 4 (crc c.d.scrc c.sbytes) ++ leBytes 4 (crc c.d.dcrc c.dbytes) ++
    leBytes 4 c.n1 ++ leBytes 4 c.n2

/-- The record of a command of the access stream (11 R321). -/
def Issuer.record (b : Issuer) (kind stat : Nat) : EvRec := { commandRecord kind b.core b.idx b.task with stat := stat % 2 ^ 16 }

/-- The barrier that a control word names, with what it is decremented by. -/
def CopyCtl.decrement (k : CopyCtl) (n : Nat) : Option (Nat × Nat) := if k.baren then some (k.bar, n) else none

/-- COPY_COMPLETE (R208): the result block, the barrier, the record; the command leaves its engine. -/
def copyComplete (g e i : Nat) (s : State) : State :=
  let l := s.copyQueue g e
  match l[i]? with
  | none => s
  | some c =>
    if i ≥ activeLen l || c.captured || !c.done || !issuerReady c.by_ s then s
    else
      let p := (s.partOf? g).getD 0
      let v : CpEnv := { p := p, g := g, view := c.view, cached := false, refused := false }
      let db := dbytesOf s p c.op c.d
      let h := c.by_.cluster
      let r := c.by_.record 1 c.status
      let bar := c.ctl.decrement db
      let gone (s : State) : State :=
        let s := match c.msg with | some m => s.portCtr m.port (if m.kerf then .ksent else .msgsent) 1 | none => s
        ((s.setCopyQueue g e (ldel l i)).clusCtr g .cpcmds 1).clusCtr g .cpbytes db
      if !c.d.resen || workedBar s c.ctl.recEvt bar h r then completeBar c.ctl.recEvt bar h r id gone s
      else match cpWrite v false false c.d.res.toNat (resultBlock c db) s with
        | .error (.err x s) => copyTrap c x s
        | .error _ => s
        | .ok s1 => completeBar c.ctl.recEvt bar h r id gone s1

/-- COPY_EXECUTE (R210) -/
def execCopyExecute (g e i n : Nat) (cached refused : Bool) (s : State) : Answer := .next (copyExecute g e i n cached refused s)
/-- COPY_COMPLETE (R208) -/
def execCopyComplete (g e i : Nat) (s : State) : Answer := .next (copyComplete g e i s)

/-! Page requests and invalidation. -/

/-- Change every copy command of a partition. -/
def mapCopies (p : Nat) (f : CopyCmd → CopyCmd) (s : State) : State :=
  { s with clus := s.clus.map fun k => if s.hasCluster p k.1 then (k.1, { k.2 with copies := k.2.copies.map fun q => (q.1, q.2.map f) }) else k }

/-- The copy commands of a partition, in order of cluster, engine and queue. -/
def allCopies (p : Nat) (s : State) : List CopyCmd :=
  (s.clus.filter fun k => s.hasCluster p k.1).flatMap fun k => k.2.copies.flatMap (·.2)

/-- The first free group index from `n` on (R227); none while the responses of all 512 are outstanding. -/
def freeGroup (used : List Nat) : Nat → Nat → Option Nat
  | 0, _ => none
  | k + 1, n => if used.contains (n % 512) then freeGroup used k (n + 1) else some (n % 512)

/-- PAGE_REQUEST_GROUP (R227, R228): the oldest requests that the allocation has room for are sent, up to 16. -/
def sendGroup (p : Nat) (s : State) : State :=
  let fn := s.fnOf p
  let f := s.fn fn
  let rs := (s.part p).preqs
  let used := rs.filterMap (·.group)
  let room := Nat.min 16 (f.priAlloc - used.length)
  let new := (rs.filter fun r => r.group.isNone).take room
  match new, freeGroup used 512 (s.part p).prgNext with
  | [], _ | _, none => s
  | r0 :: _, some idx =>
    if f.priOff then s
    else
      let s := s.modPart p fun pt =>
        { pt with prgNext := (idx + 1) % 512, preqs := pt.preqs.map fun r => if new.contains r then { r with group := some idx } else r }
      let s := ((List.range new.length).zip new).foldl (fun s x => s.send (.pageReq fn f.pasid x.2.page x.2.write idx (x.1 + 1 == new.length))) s
      s.clusCtr r0.cluster .cpprgs 1
/-- PAGE_REQUEST_GROUP (R227) -/
def execPageRequestGroup (p : Nat) (s : State) : Answer := .next (sendGroup p s)

/-- PAGE_RESPONSE (R229). -/
def pageResponse (p group : Nat) (code : PageCode) (s : State) : State :=
  let rs := (s.part p).preqs.filter fun r => r.group = some group
  let waits (c : CopyCmd) : Bool := rs.any fun r => c.wait = some (.page r.page r.write)
  let bad := (allCopies p s).filter waits
  let pages := (rs.filter fun r => !r.write).map (·.page)
  let s := s.modPart p fun pt =>
    { pt with
      preqs := pt.preqs.filter fun r => r.group ≠ some group
      dreads := if code = .success then pt.dreads.filter fun d => !pages.contains d.page
        else pt.dreads.map fun d => if pages.contains d.page then { d with failed := true } else d }
  match code with
  | .success => mapCopies p (fun c => if waits c then { c with wait := none } else c) s
  | _ =>
    let s := if code = .failure then s.modFn (s.fnOf p) fun f => { f with priOff := true } else s
    bad.foldl (fun s c => copyTrap c { code := .copyfault } s) s
/-- PAGE_RESPONSE (R229) -/
def execPageResponse (p group : Nat) (code : PageCode) (s : State) : Answer := .next (pageResponse p group code s)

/-- PAGE_REQUEST_INTERFACE_ENABLE (R228, R229): the host enables a function's page request interface. `alloc` is its settings of the function in one word: [31:0] the allocation of page requests, [51:32] the PASID, [52] ATS enabled (13 R352, R354; log entry 98). -/
def execPageRequestInterfaceEnable (fn alloc : Nat) (s : State) : Answer :=
  .next (s.modFn fn fun f => { f with priOff := false, priAlloc := alloc % 2 ^ 32, pasid := BitVec.ofNat 20 (alloc / 2 ^ 32), ats := bitOf alloc 52 })

/-- CEINV (R225): an invalidation starts. -/
def execCeinv (p : Nat) (w : W64) (s : State) : Answer :=
  let span := Nat.min 36 (bitsOf w.toNat 5 0)
  let r := if span = 36 then (0, 2 ^ 36) else (bitsOf w.toNat 47 12, 2 ^ span)
  .next (s.modPart p fun pt => { pt with inval := pt.inval ++ [r], regs := { pt.regs with ceinvBusy := true } })

/-- INVALIDATION_COMPLETE (R225): the old translations are gone, and BUSY is 0. -/
def execInvalidationComplete (p : Nat) (s : State) : Answer :=
  let rs := (s.part p).inval
  let s := rs.foldl (fun s r => dropTlb p r.1 r.2 s) s
  .next (s.modPart p fun pt => { pt with inval := [], regs := { pt.regs with ceinvBusy := false } })

/-- Does this device own the free-frame ring? -/
def ringOwned (s : State) (p : Nat) : Bool := ddOwned s p (s.part p).regs.ddring 8

/-- The pushes that have waited for the ring's page are made once it is here. -/
def flushPushes (p : Nat) (s : State) : State :=
  if ringOwned s p then (s.part p).pushes.foldl (fun s fr => pushRing p fr s) (s.modPart p fun pt => { pt with pushes := [] }) else s

/-- FRADD (R236, R240): a frame is pushed; commands that wait for one go on when their engine works next. A push waits for a ring whose page has not arrived; one at the source, whose ring has moved, is not performed (14 R405). -/
def fradd (p : Nat) (w : W64) (s : State) : State :=
  if ringOwned s p then pushRing p w.toNat s
  else if (s.part p).mig.state = .serving then s.partCtr p .moved 1
  else s.modPart p fun pt => { pt with pushes := pt.pushes ++ [w.toNat] }
def execFradd (p : Nat) (w : W64) (s : State) : Answer := .next (fradd p w s)

end Sys2Proof.Machine
end

