-- ==== Sys2Proof/Machine/Barriers.lean ====
section
/-! DEFINITION. Transfer barriers, major 0x19 (spec/08_copy_engines.md R213-R216). -/

namespace Sys2Proof.Machine

open Sys2Proof

def Barrier.zero : Barrier := { count := 0, overrun := false }

/-- A barrier by its global number. -/
def State.barrier (s : State) (b : Nat) : Barrier := tget .zero (s.cluster (b / 64)).barriers (b % 64)
def State.setBarrier (s : State) (b : Nat) (x : Barrier) : State :=
  s.modCluster (b / 64) fun k => { k with barriers := tput k.barriers (b % 64) x }

/-- The barrier that a word names (R214): BARRANGE outside the partition (R213). -/
def barrierOf (c : Ctx) (x : W64) (s : State) : Except Stop Nat :=
  let b := bitsOf x.toNat 13 0
  if barOk s (s.partOf c.a) b then .ok b else err .barrange

/-- The access of a barrier word. -/
def barElem (b : Nat) (v : W64) : AccElem := { j := 0, va := BitVec.ofNat 64 b, tgt := .barrier b, n := 8, data := v, done := false }

/-- BARINIT and BARX: a store-queue entry, with BAROVER at issue for a value of more than 36 bits. -/
def barWrite (op : AccOp) (g : Guard) (a b : Scalar) (s : State) : Answer :=
  issue (acc g [.src a, .src b]) s fun c s => do
    storeRoom c s
    let (x, s) := readScalar c a s
    let (y, s) := readScalar c b s
    let n ← barrierOf c x s
    if y.toNat ≥ 2 ^ 36 then err .barover
    return s.modTask c.a fun t => { t with a := { t.a with stores := t.a.stores ++ [accessOf c op .relaxed .unit .none false [barElem n y]] } }

/-- BARINIT (R214) -/
def execBarinit (g : Guard) (a b : Scalar) (s : State) : Answer := barWrite .barInit g a b s
/-- BARX (R214) -/
def execBarx (g : Guard) (a b : Scalar) (s : State) : Answer := barWrite .barAdd g a b s
/-- BARRD (R214) -/
def execBarrd (g : Guard) (d : SDst) (a : Scalar) (s : State) : Answer :=
  issue (acc g [.dst d, .src a]) s fun c s => do
    loadRoom c s
    let (x, s) := readScalar c a s
    let n ← barrierOf c x s
    return pushLoad c .barRead .relaxed .unit (loadDst d) [barElem n 0#64] s

/-- Is a BARINIT or BARX of the task not performed yet? -/
def barsOpen (t : Task) : Bool := t.a.stores.any fun x => match x.op with | .barInit | .barAdd => true | _ => false

/-- BARW (R214, R215): waits until the barrier is at zero, or has overrun: then BARUNDER. -/
def execBarw (g : Guard) (a : Scalar) (s : State) : Answer :=
  issue (acc g [.src a]) s fun c s => do
    let (x, s) := readScalar c a s
    let n ← barrierOf c x s
    if barsOpen (s.task c.a) then holdFor (.wait (.barrier n))
    if (s.barrier n).overrun then err .barunder
    if (s.barrier n).count ≠ 0 then holdFor (.wait (.barrier n))
    return s

/-- A barrier access is performed at its home (R214). -/
def performBarrier (a : Agent) (inStore : Bool) (i : Nat) (x : Access) (e : AccElem) (s : State) : State :=
  let done (s : State) : State := retireAccess a inStore i (modAccess a inStore i (elemDone e.j) s)
  match e.tgt with
  | .barrier b =>
    let k := s.barrier b
    let v := e.data.toNat
    match x.op with
    | .barInit => done (s.setBarrier b { count := v, overrun := false })
    | .barAdd =>
      if k.count + v ≥ 2 ^ 36 then homeTrap a x { code := .barover } s
      else done (s.setBarrier b { k with count := k.count + v })
    | _ => done (s.modTask a (deliver x e.j (BitVec.ofNat 64 (b2n k.overrun * 2 ^ 63 + k.count.toNat))))
  | _ => s

end Sys2Proof.Machine
end

