-- ==== Sys2Proof/Machine/Bucket.lean ====
section
/-! DEFINITION. The bucket engine: its commands, their checks, expansion, final multiplication and retirement, and the gather unit (spec/09_weight_banks_bucket_engine.md R244-R246, R255-R273). -/

namespace Sys2Proof.Machine

open Sys2Proof

/-! Tiles (R244, R245). -/

/-- The fields of a tile header. -/
structure TileHeader where
  kind : Nat
  bits : Nat
  g : Nat
  ncb : Nat
deriving DecidableEq, Repr

/-- Groups of a tile. -/
def TileHeader.ng (h : TileHeader) : Nat := 128 / h.g

/-- Sizes of the two forms (R244). -/
def bankTileSize (ng : Nat) : Nat := 0x80 + 192 * ng + 64 * (112 + 8 * ng)
def codeTileSize (ng b : Nat) : Nat := 0x80 + 192 * ng + 64 * 16 * b

/-- Read a header; none when R245 refuses it, or it is not of the kind asked for. Reserved bytes are 0 (00 R14). -/
def tileHeader? (kind : Nat) (bs : List Byte) : Option TileHeader :=
  let f (o n : Nat) := leValue ((bs.drop o).take n)
  let b := f 1 1
  let gsz := f 2 1
  let ncb := f 3 1
  let g := 32 * 2 ^ gsz
  let ok := f 0 1 == kind && decide (1 ≤ b) && decide (b ≤ 3) && decide (gsz ≤ 2) && decide (1 ≤ ncb) && decide (ncb ≤ 8) &&
    (f 4 4 == (if kind = 1 then codeTileSize (128 / g) b else bankTileSize (128 / g))) && f 0x10 48 == 0
  if ok then some { kind := kind, bits := b, g := g, ncb := ncb } else none

/-! Status words (R273). -/

def bkStatus (err mop grp stage row detail : Nat) : Nat :=
  err * 2 ^ 24 + mop * 2 ^ 20 + grp * 2 ^ 18 + stage * 2 ^ 16 + row * 2 ^ 8 + detail

/-- An error of a bucket or gather command outside an expansion. A gather unit has no micro-PC (14 R377). -/
def bkInfo (engine : TrapEngine) (e : BucketEng) (code : TrapCode) (err stage detail addr : Nat) : TrapInfo :=
  { code := code, addr := addr, engine := engine, status := bkStatus err 0xF 0 stage 0 detail, empc := if engine = .gather then 0 else e.empc }

/-- An error of R131 met by a bucket or gather command: ERR 0x07; a machine error keeps its own record. -/
def bkAccess (engine : TrapEngine) (e : BucketEng) (stage : Nat) (i : TrapInfo) : TrapInfo :=
  if detailOf i.code = 0 then { i with engine := engine, empc := if engine = .gather then 0 else e.empc } else bkInfo engine e i.code 7 stage (detailOf i.code) i.addr

/-- Turn an error of an access into one against the command. -/
def bkTry {α : Type} (engine : TrapEngine) (e : BucketEng) (stage : Nat) : Except TrapInfo α → Except TrapInfo α
  | .ok x => .ok x
  | .error i => .error (bkAccess engine e stage i)

def misaligned (va : W64) : TrapInfo := { code := .misalign, addr := va.toNat }

/-! Depth (R272). -/

/-- The depth of the micro-orders from entry `pos` on, for group size `g`. -/
def walkDepth (store : Table W32) (g : Nat) : Nat → Nat → Nat
  | 0, _ => 0
  | n + 1, pos =>
    let w := (tget 0#32 store pos).toNat
    match bitsOf w 31 28 with
    | 0 => 0
    | 1 => g + walkDepth store g n ((pos + 1) % 256)
    | 2 => 36 + walkDepth store g n ((pos + 1) % 256)
    | 3 => g + 36 + walkDepth store g n ((pos + 1) % 256)
    | 4 => walkDepth store g n (bitsOf w 7 0)
    | _ => walkDepth store g n ((pos + 1) % 256)

/-- MAXDEPTH of the task's jig. -/
def maxDepth (core : Nat) (s : State) : Nat :=
  match (s.part (s.partOf (.access core))).launch with
  | some l => match tget? l.jigs (s.task (.access core)).jig with | some j => j.jrec.maxdepth | none => 0
  | none => 0

/-- Depth of the accepted and unretired bucket commands. -/
def bkDepth (e : BucketEng) : Nat := ((e.queue ++ e.ended).map (·.depth)).foldl (· + ·) 0

/-- The shape that the commands accepted so far leave (R259). -/
def shapeAfter (e : BucketEng) : Bool :=
  e.queue.foldl (fun t c => match c.op with | .shape x => x | _ => t) e.shapeT

/-- Tokens of a shape. -/
def tokens (t : Bool) : Nat := if t then 32 else 128

/-! Acceptance (R268-R270). -/

/-- Hold while the engine is stopped, which a rendezvous counts as quiescent (04 R94), its queue of four is full, or the commit buffer is (R267; 11 R327). -/
def bkHold (bytes : Nat) (core : Nat) (_c : Ctx) (s : State) : Except Stop Unit := do
  let e := (s.engOf core).bk
  if !e.run then holdFor .stoppedEngine
  if e.queue.length ≥ 4 then holdFor .bucketFull
  commitRoom core bytes s

/-- Enter a command, unless the task's bucket depth would exceed MAXDEPTH (R272). -/
def bkEnter (core : Nat) (idx : BitVec 32) (recEvt : Bool) (op : BkOp) (depth : Nat) (s : State) : Except TrapInfo State :=
  let e := (s.engOf core).bk
  if bkDepth e + depth > maxDepth core s then .error (bkInfo .bucket e .bkdepth 9 0 0 0)
  else
    let tag := nextTag core idx recEvt s
    .ok (s.modBk core fun e => { e with queue := e.queue ++ [{ tag := tag, op := op, depth := depth, writes := [] }] })

/-- BKRUN at acceptance (R268). -/
def acceptRun (core : Nat) (c : Ctx) (idx : BitVec 32) (a b : W64) (s : State) : Except TrapInfo State := do
  let e := (s.engOf core).bk
  let v := s.view c.a
  let bad (code : TrapCode) (err : Nat) : Except TrapInfo Unit := .error (bkInfo .bucket e code err 0 0 0)
  let acc {α : Type} (x : Except TrapInfo α) : Except TrapInfo α := bkTry .bucket e 0 x
  let shape := shapeAfter e
  -- the descriptor
  if a.toNat % 64 ≠ 0 then acc (.error (misaligned a))
  let d ← acc (v.read s a.toNat 64)
  let f (o n : Nat) := leValue ((d.drop o).take n)
  -- its own fields
  let tile := BitVec.ofNat 64 (f 0 8)
  let ascl := BitVec.ofNat 64 (f 8 8)
  let azp := BitVec.ofNat 64 (f 0x10 8)
  let ctl := f 0x1D 1
  if b.toNat ≥ 256 || f 0x1C 1 ≥ 16 || ctl ≥ 16 || f 0x1E 34 ≠ 0 || (shape && bitsOf ctl 2 1 ≠ 0) || !shareOk (f 0x18 4) (core % 24) then
    bad .bkdesc 1
  -- the tile header
  if tile.toNat % 64 ≠ 0 then acc (.error (misaligned tile))
  match translateEntry v.window false tile .load with
  | .error x => acc (.error { code := x, addr := tile.toNat })
  | .ok (en, _) => if en.typ ≠ .wbank then acc (.error { code := .wintype, addr := tile.toNat })
  let hb ← acc (v.read s tile.toNat 64)
  match tileHeader? 2 hb with
  | none => .error (bkInfo .bucket e .bktile 3 0 0 0)
  | some h =>
    -- the activation format
    match s.ftEntry (s.partOf c.a) (f 0x1C 1) with
    | none => .error (bkInfo .bucket e .fmtbad 2 0 0 0)
    | some ft =>
      let okElem := match ft.elem with | .int8 | .uint8 | .int4 | .uint4 => true | _ => false
      if !okElem || !(ft.scale == 2 || ft.scale == 3) || ft.group ≠ h.g then bad .fmtbad 2
      if ft.scale = 2 && azp ≠ 0#64 then bad .bkdesc 1
      -- the ranges
      if ascl.toNat % 2 ≠ 0 then acc (.error (misaligned ascl))
      let n := h.ng * tokens shape
      acc (v.check s tile.toNat (bankTileSize h.ng) .load)
      acc (v.check s ascl.toNat (2 * n) .load)
      if ft.scale = 3 then acc (v.check s azp.toNat (ceilDiv (n * ft.elem.width) 8) .load)
      let run : BkRun :=
        { entry := b.toNat, tile := tile, ascl := ascl, azp := azp, afe := f 0x1C 1, half := b2n (bitOf ctl 0), rowb := bitsOf ctl 2 1,
          share := shareOf (f 0x18 4), g := h.g, data := none }
      bkEnter core idx (bitOf ctl 3) (.run run) (walkDepth e.store h.g 1024 ((e.base + b.toNat) % 256)) (countPeers v .load [(a.toNat, 64)] s)

/-- BKDRAIN at acceptance (R270). -/
def acceptDrain (core : Nat) (c : Ctx) (idx : BitVec 32) (a b : W64) (s : State) : Except TrapInfo State := do
  let e := (s.engOf core).bk
  let v := s.view c.a
  let stride := bitsOf b.toNat 39 16
  if bitsOf b.toNat 63 40 ≠ 0 || bitsOf b.toNat 15 2 ≠ 0 || stride % 4 ≠ 0 then .error (bkInfo .bucket e .bkdesc 1 0 0 0)
  if a.toNat % 4 ≠ 0 then bkTry .bucket e 0 (.error (misaligned a))
  let nt := tokens (shapeAfter e)
  let rs := if stride = 0 then 4 * nt else stride
  bkTry .bucket e 0 ((List.range (2048 / nt)).foldl (fun (r : Except TrapInfo Unit) i => r.bind fun _ => v.check s (a.toNat + i * rs) (4 * nt) .engineStore) (.ok ()))
  bkEnter core idx (bitOf b.toNat 1) (.drain a stride (bitOf b.toNat 0)) 64 s

/-- BKRUN (R268) -/
def execBkrun (g : Guard) (a b : Scalar) (s : State) : Answer :=
  engineWord (cmdInfo g [a, b] true) s (bkHold 0) fun core c idx s =>
    let (x, s) := readScalar c a s
    let (y, s) := readScalar c b s
    acceptRun core c idx x y s
/-- BKRST (R269) -/
def execBkrst (g : Guard) (s : State) : Answer :=
  engineWord (cmdInfo g [] false) s (bkHold 0) fun core _ idx s => bkEnter core idx false .rst 1 s
/-- BKFIN (R269) -/
def execBkfin (g : Guard) (s : State) : Answer :=
  engineWord (cmdInfo g [] false) s (bkHold 0) fun core _ idx s => bkEnter core idx false .fin 36 s
/-- BKDRAIN (R270) -/
def execBkdrain (g : Guard) (a b : Scalar) (s : State) : Answer :=
  engineWord (cmdInfo g [a, b] true) s (bkHold 8192) fun core c idx s =>
    let (x, s) := readScalar c a s
    let (y, s) := readScalar c b s
    acceptDrain core c idx x y s
/-- BKSHAPE (R269) -/
def execBkshape (g : Guard) (a : Scalar) (s : State) : Answer :=
  engineWord (cmdInfo g [a] false) s (bkHold 0) fun core c idx s =>
    let (x, s) := readScalar c a s
    if x.toNat ≥ 2 then .error (bkInfo .bucket (s.engOf core).bk .bkdesc 1 0 0 0)
    else bkEnter core idx false (.shape (bitOf x.toNat 0)) 1 s

/-! Work (R259-R264). -/

/-- What an expansion works on: the tile, the gather half, the format of the activations. -/
structure BkData where
  h : TileHeader
  tile : List Byte
  half : List Byte
  elem : Elem
  asym : Bool
deriving DecidableEq, Repr

/-- The bytes of a tile, as its header gives its size; a header that R245 refuses stands alone. -/
def tileBytes (v : View) (s : State) (tile : W64) : Except TrapInfo (List Byte) := do
  let hb ← v.read s tile.toNat 64
  match tileHeader? 2 hb with
  | none => return hb
  | some h => v.read s tile.toNat (bankTileSize h.ng)

/-- The bytes of a BKRUN's tile: those read before, or those in memory now (R255). -/
def runTile (core : Nat) (r : BkRun) (s : State) : Except TrapInfo (List Byte) :=
  match r.data with
  | some bs => .ok bs
  | none => tileBytes (s.view (.execute core)) s r.tile

/-- The data of a BKRUN. -/
def bkData (core : Nat) (r : BkRun) (s : State) : Except TrapInfo BkData := do
  let bs ← runTile core r s
  match tileHeader? 2 (bs.take 64), s.ftEntry (s.partOf (.access core)) r.afe with
  | none, _ => .error { code := .bktile }
  | _, none => .error { code := .fmtbad }
  | some h, some ft => return { h := h, tile := bs, half := s.bytes (gbufBase core + r.half * 16384) 16384, elem := ft.elem, asym := ft.scale == 3 }

/-- A byte of a list, as a number. -/
def byteAt (bs : List Byte) (i : Nat) : Nat := (bs.getD i 0#8).toNat

/-- The row record of tile row `r` (R244). -/
def rowRecord (d : BkData) (r : Nat) : List Byte :=
  (d.tile.drop (0x80 + 192 * d.h.ng + (112 + 8 * d.h.ng) * r)).take (112 + 8 * d.h.ng)
/-- e[g][c], and e[g][-1] as c = 0's start (R246). -/
def bound8 (recd : List Byte) (g c : Nat) : Nat := byteAt recd (112 + 8 * g + c)
def bound8Before (d : BkData) (recd : List Byte) (g c : Nat) : Nat := if c = 0 then d.h.g * g else bound8 recd g (c - 1)
/-- Codebook index of (row, group) and weight scale (R244). -/
def cbIndex (d : BkData) (r g : Nat) : Nat := byteAt d.tile (0x80 + 128 * d.h.ng + r * d.h.ng + g)
def wScale (d : BkData) (r g : Nat) : Nat := leValue ((d.tile.drop (0x80 + 2 * (r * d.h.ng + g))).take 2)
/-- Entry c of codebook j, signed. -/
def cbEntry (d : BkData) (j c : Nat) : Int := (d.tile.getD (0x40 + 8 * j + c) 0#8).toInt

/-- Is the segment of a row well-formed (R246)? -/
def segmentOk (d : BkData) (recd : List Byte) (g : Nat) : Bool :=
  let G := d.h.g
  ((List.range 8).all fun c => decide (bound8Before d recd g c ≤ bound8 recd g c)) &&
    bound8 recd g 7 == G * (g + 1) &&
    ((List.range G).all fun i => let k := packed recd 7 (G * g + i); decide (G * g ≤ k) && decide (k < G * g + G)) &&
    ((List.range 8).all fun c => decide (c < 2 ^ d.h.bits) || bound8Before d recd g c == bound8 recd g c)

/-- An integer element of a width, signed or not. -/
def intElem (f : Elem) (bits : Nat) : Int :=
  match f with
  | .int8 => (BitVec.ofNat 8 bits).toInt
  | .int4 => (BitVec.ofNat 4 bits).toInt
  | _ => bits

/-- Rows of a command: tile row of each row i of the shape (R259). -/
def shapeRows (t : Bool) (rowb : Nat) : List (Nat × Nat) :=
  if t then (List.range 64).map fun i => (i, i) else (List.range 16).map fun i => (i, 16 * rowb + i)

/-- The activation in slot t of line k (R259). -/
def slotValue (d : BkData) (k t : Nat) : Int :=
  intElem d.elem (packed ((d.half.drop (128 * k)).take 128) d.elem.width t)

/-- Add one code's positions to the bucket of every token of a row. -/
def addCode (d : BkData) (recd : List Byte) (g c nt lane0 : Nat) (bs : Table Int) : Table Int :=
  let ks := (List.range (bound8 recd g c - bound8Before d recd g c)).map fun i => packed recd 7 (bound8Before d recd g c + i)
  if ks.isEmpty then bs
  else (List.range nt).foldl (fun bs t =>
    tmod 0 bs (8 * (lane0 + t) + c) fun q => q + (ks.map fun k => slotValue d k t).foldl (· + ·) 0) bs

/-- ACC of group g (R260); the tile row of the first list that breaks R246, if one does. -/
def accGroup (d : BkData) (t : Bool) (rowb g : Nat) (bs : Table Int) : Except Nat (Table Int) :=
  let nt := tokens t
  (shapeRows t rowb).foldl (fun (x : Except Nat (Table Int)) ir => x.bind fun bs =>
    let recd := rowRecord d ir.2
    if !segmentOk d recd g then .error ir.2
    else .ok ((List.range 8).foldl (fun bs c => addCode d recd g c nt (nt * ir.1) bs) bs)) (.ok bs)

/-- The activation scales and zero points of one group, as FIN reads them (R261): `z0` is the place of the first zero point in its bytes. -/
structure FinData where
  ascl : List Byte
  azp : List Byte
  z0 : Nat
deriving DecidableEq, Repr

/-- Where they stand. -/
def finRanges (r : BkRun) (d : BkData) (g nt : Nat) : List (Nat × Nat) :=
  let w := d.elem.width
  let lo := g * nt * w / 8
  (r.ascl.toNat + 2 * (g * nt), 2 * nt) :: if d.asym then [(r.azp.toNat + lo, ceilDiv ((g + 1) * nt * w) 8 - lo)] else []

/-- Read them. -/
def finData (core : Nat) (r : BkRun) (d : BkData) (g nt : Nat) (s : State) : Except TrapInfo FinData := do
  let v := s.view (.execute core)
  let w := d.elem.width
  let lo := g * nt * w / 8
  let ascl ← v.read s (r.ascl.toNat + 2 * (g * nt)) (2 * nt)
  let azp ← if d.asym then v.read s (r.azp.toNat + lo) (ceilDiv ((g + 1) * nt * w) 8 - lo) else .ok []
  return { ascl := ascl, azp := azp, z0 := g * nt - 8 * lo / w }

/-- The final value of one lane (R261): the new accumulator and its flags. -/
def finLane (d : BkData) (x : FinData) (buckets : Table Int) (acc : Table W32) (recd : List Byte) (row g lane t : Nat) : W32 × Flags :=
  let z : Int := if d.asym then intElem d.elem (packed x.azp d.elem.width (x.z0 + t)) else 0
  let cb := cbIndex d row g
  let n (c : Nat) : Int := ((bound8 recd g c : Int) - (bound8Before d recd g c : Int))
  let D : Int := ((List.range (2 ^ d.h.bits)).map fun c => cbEntry d cb c * (tget 0 buckets (8 * lane + c) - n c * z)).foldl (· + ·) 0
  let sw := elemValue .fp16 (wScale d row g)
  let sa := elemValue .fp16 (leValue ((x.ascl.drop (2 * t)).take 2))
  let (sc, f0) := fmulOn sw sa rne
  let (dv, _) := roundFP32 (FVal.ofInt D) rne
  let (p, f1) := fmul dv sc rne
  let (a, f2) := fadd (tget 0#32 acc lane) p rne
  (a, f0 ||| f1 ||| f2)

/-- FIN of group g (R261); the tile row of the first codebook index of NCB or more, if there is one. -/
def finGroup (d : BkData) (x : FinData) (t : Bool) (rowb g : Nat) (e : BucketEng) : Except Nat BucketEng :=
  let nt := tokens t
  let r := (shapeRows t rowb).foldl (fun (acc : Except Nat (Table W32 × Flags)) ir => acc.bind fun af =>
    if cbIndex d ir.2 g ≥ d.h.ncb then .error ir.2
    else
      let recd := rowRecord d ir.2
      .ok ((List.range nt).foldl (fun (af : Table W32 × Flags) k =>
        let lane := nt * ir.1 + k
        let (v, fl) := finLane d x e.buckets e.acc recd ir.2 g lane k
        (tput af.1 lane v, af.2 ||| fl)) af)) (.ok (e.acc, e.bflags))
  r.map fun af => { e with acc := af.1, bflags := af.2, buckets := [], openGrp := none }

/-- An error at a micro-order. -/
def moInfo (e : BucketEng) (code : TrapCode) (err mop grp stage row : Nat) : TrapInfo :=
  { code := code, engine := .bucket, status := bkStatus err mop grp stage row 0, empc := e.empc }

/-- Do the fields of a bucket micro-order that must be 0 hold 0, and is OP assigned (R263)? -/
def moOk (w : Nat) : Bool :=
  bitsOf w 25 8 == 0 &&
  match bitsOf w 31 28 with
  | 0 => decide (w = 0)
  | 1 | 2 | 3 => bitsOf w 7 0 == 0
  | 4 => bitsOf w 27 26 == 0
  | _ => false

/-- An error of R131 at a micro-order: ERR 0x07; a machine error keeps its own record. -/
def moAccess (e : BucketEng) (mop grp stage : Nat) (i : TrapInfo) : TrapInfo :=
  if detailOf i.code = 0 then { i with engine := .bucket, empc := e.empc }
  else { code := i.code, addr := i.addr, engine := .bucket, status := bkStatus 7 mop grp stage 0 (detailOf i.code), empc := e.empc }

/-- The error of a tile or format that is not as it was at acceptance. -/
def moData (e : BucketEng) (mop grp stage : Nat) (i : TrapInfo) : TrapInfo :=
  if i.code = .bktile then moInfo e .bktile 3 mop grp stage 0
  else if i.code = .fmtbad then moInfo e .fmtbad 2 mop grp stage 0
  else moAccess e mop grp stage i

/-- FIN of the open group, with the tile and the descriptor of the command that opened it (R263). -/
def runFin (core mop : Nat) (s : State) (e : BucketEng) : Except TrapInfo BucketEng :=
  match e.openGrp with
  | none => .ok e
  | some (g, r) =>
    match bkData core r s with
    | .error i => .error (moData e mop g 2 i)
    | .ok d =>
      match finData core r d g (tokens e.shapeT) s with
      | .error i => .error (moAccess e mop g 2 i)
      | .ok x =>
        match finGroup d x e.shapeT r.rowb g e with
        | .error row => .error (moInfo e .bktile 3 mop g 2 row)
        | .ok e => .ok e

/-- ACC of a group; the command keeps the tile that it has read. -/
def runAcc (core : Nat) (r : BkRun) (d : BkData) (mop g : Nat) (s : State) (e : BucketEng) : Except TrapInfo BucketEng :=
  if s.eccHit (gbufBase core + r.half * 16384) 16384 then .error { moInfo e .eccunc 0 mop g 1 0 with addr := gbufBase core + r.half * 16384, status := 0 }
  else match accGroup d e.shapeT r.rowb g e.buckets with
  | .error row => .error (moInfo e .bktile 3 mop g 1 row)
  | .ok bs => .ok { e with buckets := bs, openGrp := some (g, { r with data := some d.tile }) }

/-- What an expansion has done: its engine or its error, the groups that it has accumulated, and whether an ACC stopped it. -/
structure Expansion where
  res : Except TrapInfo BucketEng
  groups : Nat
  cut : Bool

/-- Expand micro-orders from EMPC on, at most 1,024 of them (R264); `k` groups have been accumulated. -/
def expand (core : Nat) (r : BkRun) (d : BkData) (s : State) : Nat → Nat → BucketEng → Expansion
  | 0, k, e => { res := .error (moInfo e .bklimit 6 (bitsOf (tget 0#32 e.store e.empc).toNat 31 28) (bitsOf (tget 0#32 e.store e.empc).toNat 27 26) 0 0), groups := k, cut := false }
  | n + 1, k, e =>
    let w := (tget 0#32 e.store e.empc).toNat
    let op := bitsOf w 31 28
    let g := bitsOf w 27 26
    let next (e : BucketEng) : BucketEng := { e with empc := (e.empc + 1) % 256 }
    let stop (i : TrapInfo) : Expansion := { res := .error i, groups := k, cut := false }
    if !moOk w || (op ≠ 0 && op ≠ 4 && g ≥ d.h.ng) then stop (moInfo e .bkmicro 4 op g 0 0)
    else match op with
    | 0 => { res := .ok e, groups := k, cut := false }
    | 4 => expand core r d s n k { e with empc := bitsOf w 7 0 }
    | 1 =>
      if e.openGrp.isSome then stop (moInfo e .bkseq 5 op g 1 0)
      else match runAcc core r d op g s e with
      | .error i => { stop i with cut := true }
      | .ok e => expand core r d s n (k + 1) (next e)
    | 2 =>
      if e.openGrp.map (·.1) ≠ some g then stop (moInfo e .bkseq 5 op g 2 0)
      else match runFin core op s e with
      | .error i => stop i
      | .ok e => expand core r d s n k (next e)
    | _ =>
      if e.openGrp.isSome then stop (moInfo e .bkseq 5 op g 1 0)
      else match runAcc core r d op g s e with
      | .error i => { stop i with cut := true }
      | .ok e => match runFin core op s e with
        | .error i => { res := .error i, groups := k + 1, cut := false }
        | .ok e => expand core r d s n (k + 1) (next e)

/-- BKRST's effect (R269). -/
def bkClear (e : BucketEng) : BucketEng := { e with buckets := [], acc := [], openGrp := none, bflags := 0#6 }

/-- The words that a BKDRAIN writes, in ascending lanes (R270). -/
def drainWords (e : BucketEng) (a : W64) (stride : Nat) : List (W64 × W32) :=
  let nt := tokens e.shapeT
  let rs := if stride = 0 then 4 * nt else stride
  (List.range 2048).map fun l => (a + BitVec.ofNat 64 (l / nt * rs + 4 * (l % nt)), tget 0#32 e.acc l)

/-- Does a GATHER issued before a command still fill the half that it reads (R257)? -/
def gatherPending (e : Engines) (num half : Nat) : Bool := e.gathers.any fun x => x.half == half && decide (x.tag.num < num)

/-- The scales and zero points of a BKRUN, which an expansion reads at the most. -/
def runRanges (r : BkRun) (d : BkData) (nt : Nat) : List (Nat × Nat) := (List.range d.h.ng).flatMap fun g => finRanges r d g nt

/-- The clocks in which ACC worked are counted, those of a failing command too: G for each group, and an unstated part of one that an error cut short (R262, R274). -/
def countAcc (core g : Nat) (x : Expansion) (s : State) : State :=
  let s := s.coreCtr core .bkaccclk (x.groups * g)
  if x.cut then s.coreClk core .bkaccclk else s

/-- The reads of a BKFIN are counted at other cores' scratchpads. -/
def openPeers (core : Nat) (e : BucketEng) (s : State) : State :=
  match e.openGrp with
  | none => s
  | some (g, r) => match bkData core r s with
    | .ok d => countPeers (s.view (.execute core)) .load (finRanges r d g (tokens e.shapeT)) s
    | .error _ => s

/-- The read that a BKRUN on a predicted arm makes: its tile (R267; 11 R327). An error of it is found once the prediction has resolved. -/
def armTile (core : Nat) (c : BkCmd) (s : State) : State :=
  match c.op with
  | .run r =>
    if !r.ready || r.data.isSome then s
    else match runTile core r s with
      | .error _ => s
      | .ok bs => s.modBk core fun e => { e with queue := { c with op := .run { r with data := some bs } } :: e.queue.tail }
  | _ => s

/-- The bucket engine performs its next accepted command (R264, R267-R270): the engine is started, its shared read has been performed, and the gathers before it are complete. Of a command on a predicted arm only the tile is read. -/
def bucketStep (core : Nat) (s : State) : State :=
  let e := (s.engOf core).bk
  match e.queue with
  | [] => s
  | c :: rest =>
    if !s.engineLive core || !e.run then s
    else if c.tag.held then armTile core c s
    else
      let fin (e' : BucketEng) (ws : List (W64 × W32)) : State :=
        s.modBk core fun _ => { e' with queue := rest, ended := e.ended ++ [{ c with writes := ws }] }
      let fail (i : TrapInfo) : State := failCommand core c.tag.idx i (fun s => s.modBk core fun e => { e with queue := rest }) s
      match c.op with
      | .rst => fin (bkClear e) []
      | .shape t => fin { bkClear e with shapeT := t } []
      | .fin => match runFin core 0xF s e with | .ok e' => openPeers core e (fin e' []) | .error i => fail i
      | .drain a stride clr => fin { e with acc := if clr then [] else e.acc } (drainWords e a stride)
      | .run r =>
        if !r.ready || gatherPending (s.engOf core) c.tag.num r.half then s
        else
          let e0 := { e with empc := (e.base + r.entry) % 256 }
          match bkData core r s with
          | .error i => fail (moData e0 0xF 0 1 i)
          | .ok d =>
            let x := expand core r d s 1024 0 e0
            match x.res with
            | .error i => if i.wait then s else countAcc core d.h.g x (fail i)
            | .ok e' => countPeers (s.view (.execute core)) .load (runRanges r d (tokens e.shapeT)) ((countAcc core d.h.g x (fin e' [])).coreClk core .bkfinwait)

/-- Is a command a BKDRAIN, which retires once its writes are performed (R271)? -/
def BkCmd.isDrain (c : BkCmd) : Bool := match c.op with | .drain .. => true | _ => false

/-- May an ended command retire (R271): its writes are performed, and no group is open, or it is a BKDRAIN? -/
def bkRetirable (e : BucketEng) (c : BkCmd) : Bool := c.writes.isEmpty && (c.isDrain || e.openGrp.isNone)

/-- The kind of an event record of a bucket command (11 R321). -/
def bkRecordKind : BkOp → Nat
  | .drain .. => 6
  | _ => 5

/-- The record of an ended bucket command. -/
def bkRecord (core : Nat) (c : BkCmd) (s : State) : EvRec := s.ownRecord (bkRecordKind c.op) core c.tag.idx

/-- The oldest ended command that can go on: it has words to write, or may retire and does not stand in the line of the event queue (R271). -/
def bkNext (core : Nat) (s : State) : Option Nat :=
  let e := (s.engOf core).bk
  findIdx? (fun c => !c.writes.isEmpty || bkRetirable e c &&
    !(c.tag.recEvt && postStage s (clusterOfCore core) { rec_ := bkRecord core c s, poster := .command none } == .line)) e.ended

/-- An ended command goes on: `n` of the words that it still has to write are written, in its turn; then it retires, once its record is posted (R271). -/
def bucketRetire (core n : Nat) (s : State) : State :=
  let e := (s.engOf core).bk
  match bkNext core s with
  | none => s
  | some i =>
    match e.ended[i]? with
    | none => s
    | some c =>
      let v := s.view (.execute core)
      if !c.writes.isEmpty && !(armTurn (s.engOf core) c.tag && wordsOwned v s (c.writes.take n)) then s else
      let s := v.writeWords (c.writes.take n) s
      let c := { c with writes := c.writes.drop n }
      let s := s.modBk core fun e => { e with ended := lmod e.ended i fun _ => c }
      if bkRetirable e c then
        completeWith c.tag.recEvt (clusterOfCore core) (bkRecord core c s) id
          (fun s => (s.modBk core fun e => { e with ended := ldel e.ended i }).coreCtr core .bkcmds 1) s
      else s

/-! The gather unit (R256, R257). -/

/-- Addresses of the bytes that a GATHER reads, with their places in the half. -/
def gatherReads (c : GatherCmd) (idx : List Byte) : List (Nat × Nat × Nat) :=
  (List.range c.nline).flatMap fun k =>
    let p := match c.idxa with | none => k | some _ => leValue ((idx.drop (2 * k)).take 2)
    if c.tstr = 1 then [(128 * k, (c.src.toNat + p * c.pstr) % 2 ^ 64, c.llen)]
    else (List.range c.llen).map fun j => (128 * k + j, (c.src.toNat + p * c.pstr + j * c.tstr) % 2 ^ 64, 1)

/-- GATHER at acceptance (R256): the descriptor, the index list and the data translate; the fields are as they must be. -/
def acceptGather (core : Nat) (c : Ctx) (idx : BitVec 32) (a b : W64) (s : State) : Except TrapInfo State := do
  let e := (s.engOf core).bk
  let v := s.view c.a
  let bad : Except TrapInfo Unit := .error (bkInfo .gather e .gtbad 8 0 0 0)
  let acc {α : Type} (x : Except TrapInfo α) : Except TrapInfo α := bkTry .gather e 0 x
  if a.toNat % 32 ≠ 0 || b.toNat ≥ 4 then bad
  let d ← acc (v.read s a.toNat 32)
  let f (o n : Nat) := leValue ((d.drop o).take n)
  let nline := f 0x10 2
  let llen := f 0x12 1
  let flags := f 0x13 1
  let idxa := f 0x18 8
  if nline = 0 || nline > 128 || llen = 0 || llen > 128 || flags ≥ 2 || f 0x14 4 ≠ 0 || (flags = 0 && idxa ≠ 0) || idxa % 2 ≠ 0 then bad
  let cmd : GatherCmd :=
    { tag := nextTag core idx (bitOf b.toNat 1) s, half := b2n (bitOf b.toNat 0), src := BitVec.ofNat 64 (f 0 8), pstr := f 8 4,
      tstr := f 0xC 4, nline := nline, llen := llen, idxa := if flags = 1 then some (BitVec.ofNat 64 idxa) else none, fills := none }
  let ix ← acc (if flags = 1 then v.read s idxa (2 * nline) else .ok [])
  acc ((gatherReads cmd ix).foldl (fun (r : Except TrapInfo Unit) x => r.bind fun _ => v.check s x.2.1 x.2.2 .load) (.ok ()))
  return (countPeers v .load [(a.toNat, 32)] s).modEng core fun e => { e with gathers := e.gathers ++ [cmd] }

/-- GATHER (R256) -/
def execGather (g : Guard) (a b : Scalar) (s : State) : Answer :=
  engineWord (cmdInfo g [a, b] true) s (fun core _ s => commitRoom core 16384 s) fun core c idx s =>
    let (x, s) := readScalar c a s
    let (y, s) := readScalar c b s
    acceptGather core c idx x y s
/-- GWAIT (R257): holds until every earlier GATHER into the half has completed. -/
def execGwait (g : Guard) (a : Scalar) (s : State) : Answer :=
  issue (cmdInfo g [a] false) s fun c s =>
    let (x, s) := readScalar c a s
    let half := b2n (bitOf x.toNat 0)
    if (s.engOf (c.a.core?.getD 0)).gathers.any (·.half == half) then holdFor .gather else .ok s

/-- The bytes of a half as a GATHER leaves it (R256). -/
def gatherFill (v : View) (s : State) (c : GatherCmd) : Except TrapInfo (List (Nat × List Byte)) := do
  let ix ← match c.idxa with | some a => v.read s a.toNat (2 * c.nline) | none => .ok []
  (gatherReads c ix).foldl (fun (r : Except TrapInfo (List (Nat × List Byte))) x => do
    let l ← r
    let bs ← v.read s x.2.1 x.2.2
    return l ++ [(x.1, bs)]) (.ok [])

/-- Is a bucket command issued before a GATHER still reading the half (R257)? -/
def bucketReads (e : Engines) (num half : Nat) : Bool :=
  e.bk.queue.any fun c => decide (c.tag.num < num) && (match c.op with | .run r => r.half == half | _ => false)

/-- The ranges of its activations. -/
def gatherRanges (core : Nat) (c : GatherCmd) (s : State) : List (Nat × Nat) :=
  let ix := match c.idxa with | some a => (match (s.view (.execute core)).read s a.toNat (2 * c.nline) with | .ok bs => bs | .error _ => []) | none => []
  (gatherReads c ix).map fun x => (x.2.1, x.2.2)

/-- The bytes that a GATHER has read, or reads now. -/
def gatherFills (core : Nat) (c : GatherCmd) (s : State) : Except TrapInfo (List (Nat × List Byte)) :=
  match c.fills with
  | some l => .ok l
  | none => gatherFill (s.view (.execute core)) s c

/-- Write the half of a GATHER. -/
def gatherWrite (core : Nat) (c : GatherCmd) (fills : List (Nat × List Byte)) (s : State) : State :=
  let base := gbufBase core + c.half * 16384
  fills.foldl (fun s x => s.write (base + x.1) x.2) (s.write base (List.replicate 16384 0#8))

/-- Take a GATHER out, or change it. -/
def dropGather (core num : Nat) (s : State) : State := s.modEng core fun e => { e with gathers := e.gathers.filter (·.tag.num ≠ num) }
def setGather (core : Nat) (c : GatherCmd) (s : State) : State :=
  s.modEng core fun e => { e with gathers := e.gathers.map fun x => if x.tag.num = c.tag.num then c else x }

/-- The gather unit completes its oldest GATHER into a half (R256, R257): the half is written in its turn, the record posted. One on a predicted arm makes its reads only (11 R327). Errors of its reads are those of STAGE 3. -/
def gatherStep (core half : Nat) (s : State) : State :=
  match (s.engOf core).gathers.find? (·.half == half) with
  | none => s
  | some c =>
    if !s.engineLive core then s
    else
      let g := clusterOfCore core
      let r := s.ownRecord 4 core c.tag.idx
      let done (s : State) : State := (dropGather core c.tag.num s).coreCtr core .gathers 1
      if worked s c.tag.recEvt g r then completeWith c.tag.recEvt g r id done s
      else match gatherFills core c s with
      | .error i => if c.tag.held then s else failCommand core c.tag.idx (bkAccess .gather (s.engOf core).bk 3 i) (dropGather core c.tag.num) s
      | .ok fills =>
        if c.tag.held then setGather core { c with fills := some fills } s
        else if bucketReads (s.engOf core) c.tag.num half || !armTurn (s.engOf core) c.tag then s
        else
          let reads := match c.idxa with | some a => [(a.toNat, 2 * c.nline)] | none => []
          completeWith c.tag.recEvt g r (fun s => gatherWrite core c fills (countPeers (s.view (.execute core)) .load (reads ++ gatherRanges core c s) s)) done s

end Sys2Proof.Machine
end

