-- ==== Sys2Proof/Machine/Dense.lean ====
section
/-! DEFINITION. The dense engine: operands, MAC work, commit, bypass, drains, its commands and their checks (spec/10_dense_engine.md R275-R296). -/

namespace Sys2Proof.Machine

open Sys2Proof

/-! Status words (R291). -/

def dnStatus (err mop stage oper detail pos : Nat) : Nat :=
  err * 2 ^ 24 + mop * 2 ^ 20 + stage * 2 ^ 18 + oper * 2 ^ 16 + detail * 2 ^ 13 + pos

/-- An error of a dense command outside an expansion. -/
def dnInfo (e : DenseEng) (code : TrapCode) (err stage oper detail pos addr : Nat) : TrapInfo :=
  { code := code, addr := addr, engine := .dense, status := dnStatus err 0xF stage oper detail pos, empc := e.empc }

/-- An error of R131 against a dense command: ERR 0x07; a machine error keeps its own record. -/
def dnAccess (e : DenseEng) (stage oper pos : Nat) (i : TrapInfo) : TrapInfo :=
  if detailOf i.code = 0 then { i with engine := .dense, empc := e.empc } else dnInfo e i.code 7 stage oper (detailOf i.code) pos i.addr

def dnTry {α : Type} (e : DenseEng) (stage oper pos : Nat) : Except TrapInfo α → Except TrapInfo α
  | .ok x => .ok x
  | .error i => .error (dnAccess e stage oper pos i)

/-! Operand formats (R277, R281). -/

/-- W of an element format, for the formats that an operand may have. -/
def dotWidth : Elem → Option Nat
  | .bf16 | .fp16 => some 8
  | .e4m3 | .e5m2 | .int8 | .uint8 => some 16
  | .e2m1 | .int4 | .uint4 => some 32
  | _ => none

/-- A legal operand entry. -/
def legalOperand (s : State) (p fe : Nat) : Option FtEntry :=
  match s.ftEntry p fe with
  | some f => if (dotWidth f.elem).isSome then some f else none
  | none => none

/-- The block size along K of an entry; 1 when it has no scale. -/
def FtEntry.block (f : FtEntry) : Nat := if f.scale = 0 then 1 else blockSize f.scale f.group

/-- A legal operand entry whose blocks divide 64 (R281, R288). -/
def chainOperand (s : State) (p fe : Nat) : Option FtEntry :=
  match legalOperand s p fe with
  | some f => if 64 % f.block = 0 then some f else none
  | none => none

/-- W of a command: the wider format sets it. -/
def commandWidth (f g : FtEntry) : Nat := Nat.min ((dotWidth f.elem).getD 8) ((dotWidth g.elem).getD 8)

/-! The bytes of an operand (R278). -/

/-- The ranges of an operand: row number, address, length; rows first, then its scales, then its zero points, each in ascending row (R286). `isA`: 64 rows of K, else K rows of 64. -/
def operandRanges (o : DenseOperand) (f : FtEntry) (isA : Bool) (k : Nat) : List (Nat × Nat × Nat) :=
  let w := f.elem.width
  let rows : List (Nat × Nat × Nat) :=
    if isA then (List.range 64).map fun i => (i, o.base.toNat + i * o.stride, ceilDiv (k * w) 8)
    else (List.range k).map fun i => (i, o.base.toNat + i * o.stride, 8 * w)
  if f.scale = 0 then rows
  else
    let bs := f.block
    let nb := k / bs
    let sz := scaleBytes f.scale
    let pl := o.plane.toNat
    let scales : List (Nat × Nat × Nat) :=
      if isA then (List.range 64).map fun i => (i, pl + i * nb * sz, nb * sz)
      else (List.range nb).map fun i => (i * bs, pl + i * 64 * sz, 64 * sz)
    let zp := zeroPlane pl (64 * nb)
    let zeros : List (Nat × Nat × Nat) :=
      if f.scale ≠ 3 then []
      else if isA then (List.range 64).map fun i => (i, zp + i * nb * w / 8, ceilDiv ((i + 1) * nb * w) 8 - i * nb * w / 8)
      else (List.range nb).map fun i => (i * bs, zp + i * 8 * w, 8 * w)
    rows ++ scales ++ zeros

/-- The ranges of an operand's bytes as numbers of bytes. -/
def byteRanges (o : DenseOperand) (f : FtEntry) (isA : Bool) (k : Nat) : List (Nat × Nat) := (operandRanges o f isA k).map (·.2)

/-- Check an operand's ranges at acceptance. -/
def checkOperand (e : DenseEng) (v : View) (s : State) (oper : Nat) (rs : List (Nat × Nat × Nat)) : Except TrapInfo Unit :=
  rs.foldl (fun (r : Except TrapInfo Unit) x => r.bind fun _ => dnTry e 0 oper x.1 (v.check s x.2.1 x.2.2 .load)) (.ok ())

/-- Read the row bytes of an operand. -/
def readRanges (e : DenseEng) (v : View) (s : State) (oper : Nat) : List (Nat × Nat × Nat) → Except TrapInfo (List (List Byte))
  | [] => .ok []
  | x :: r => do
    let b ← dnTry e 1 oper x.1 (v.read s x.2.1 x.2.2)
    let bs ← readRanges e v s oper r
    return b :: bs

/-- The data of an operand: its bytes, with its format and its side. -/
structure OperandData where
  f : FtEntry
  isA : Bool
  k : Nat
  bytes : OperandBytes
deriving DecidableEq, Repr

/-- The bytes of a plane, row by row of the operand; rows of a zero-point plane may share a byte. -/
def readPlane (e : DenseEng) (v : View) (s : State) (oper base n : Nat) (rs : List (Nat × Nat × Nat)) : Except TrapInfo (List Byte) := do
  let _ ← readRanges e v s oper rs
  dnTry e 1 oper 0 (v.read s base n)

/-- Read an operand from memory: its rows, its scales, its zero points. -/
def operandBytes (e : DenseEng) (v : View) (s : State) (o : DenseOperand) (f : FtEntry) (isA : Bool) (k : Nat) : Except TrapInfo OperandBytes := do
  let oper := if isA then 1 else 2
  let rs := operandRanges o f isA k
  let n := if isA then 64 else k
  let nb := k / f.block
  let np := if isA then 64 else nb
  let pl := o.plane.toNat
  let rows ← readRanges e v s oper (rs.take n)
  let scales ← if f.scale = 0 then .ok [] else readPlane e v s oper pl (64 * nb * scaleBytes f.scale) ((rs.drop n).take np)
  let zeros ← if f.scale = 3 then readPlane e v s oper (zeroPlane pl (64 * nb)) (ceilDiv (64 * nb * f.elem.width) 8) (rs.drop (n + np)) else .ok []
  return { rows := rows, scales := scales, zeros := zeros }

/-- The data of an operand: those read before, or those in memory now (R295). -/
def operandData (core : Nat) (e : DenseEng) (s : State) (o : DenseOperand) (f : FtEntry) (isA : Bool) (k : Nat) : Except TrapInfo OperandData := do
  let bs ← match o.data with | some b => .ok b | none => operandBytes e (s.view (.execute core)) s o f isA k
  return { f := f, isA := isA, k := k, bytes := bs }

/-- The value of element (r, c) of an operand: row r of the operand, place c in the row (R278). -/
def OperandData.value (d : OperandData) (r c : Nat) : FVal × Flags :=
  let w := d.f.elem.width
  let bits := packed (d.bytes.rows.getD r []) w c
  let nb := d.k / d.f.block
  let b := if d.isA then r * nb + c / d.f.block else r / d.f.block * 64 + c
  let sz := scaleBytes d.f.scale
  scaledValue d.f.elem d.f.scale bits (leValue ((d.bytes.scales.drop (b * sz)).take sz)) (packed d.bytes.zeros w b)

/-! The down-converter (R281, R282, R288). -/

/-- A converted tile: element bits by 64 i + k; scales and zero points by 64 i + block. -/
structure ChainTile where
  elems : Table Nat
  scales : Table Nat
  zeros : Table Nat
  flags : Flags
deriving DecidableEq, Repr

/-- Element (i, k) of the committed bank, transposed or not. -/
def bankAt (e : DenseEng) (trans : Bool) (i k : Nat) : W32 := tget 0#32 e.bank (if trans then 64 * k + i else 64 * i + k)

/-- One block of a row of the converted tile: `b` elements from place `k` on. -/
def chainBlock (e : DenseEng) (f : FtEntry) (trans : Bool) (i kb b : Nat) (t : ChainTile) : ChainTile :=
  let xs := (List.range b).map fun j => fp32 (bankAt e trans i (kb * b + j))
  let c := chooseBlock f.elem f.scale f.mode xs
  { elems := tputAll t.elems ((List.range b).map fun j => (64 * i + kb * b + j, c.elems.getD j 0))
    scales := tput t.scales (64 * i + kb) c.scale
    zeros := tput t.zeros (64 * i + kb) c.zp
    flags := t.flags ||| c.flags }

/-- The committed bank converted to an entry's format. -/
def downConvert (e : DenseEng) (f : FtEntry) (trans : Bool) : ChainTile :=
  let t0 : ChainTile := { elems := [], scales := [], zeros := [], flags := 0#6 }
  if f.scale = 0 then
    (List.range 4096).foldl (fun t n =>
      let (x, fl) := convert (bankAt e trans (n / 64) (n % 64)).toNat .fp32 f.elem f.mode
      { t with elems := tput t.elems n x, flags := t.flags ||| fl }) t0
  else
    (List.range 64).foldl (fun t i => (List.range (64 / f.block)).foldl (fun t kb => chainBlock e f trans i kb f.block t) t) t0

/-- The value of element (i, k) of a converted tile. -/
def ChainTile.value (t : ChainTile) (f : FtEntry) (i k : Nat) : FVal × Flags :=
  let b := 64 * i + k / f.block
  scaledValue f.elem f.scale (tget 0 t.elems (64 * i + k)) (tget 0 t.scales b) (tget 0 t.zeros b)

/-- The bypass buffer as a converted tile. -/
def DenseEng.bypass (e : DenseEng) : ChainTile := { elems := e.byp, scales := e.bypScale, zeros := e.bypZero, flags := 0#6 }

/-- Fill the bypass (R282, R288). -/
def fillBypass (t : ChainTile) (fe : Nat) (trans : Bool) (e : DenseEng) : DenseEng :=
  { e with byp := t.elems, bypScale := t.scales, bypZero := t.zeros, bypfe := fe, bypt := trans }

/-! MAC work (R279). -/

/-- Infinities of one sign among values. -/
def hasInf (neg : Bool) (xs : List FVal) : Bool := xs.any fun | .inf n => n == neg | _ => false

/-- DotRound: the accumulator and the products of one chunk, summed exactly and rounded once. -/
def dotRound (acc : W32) (ts : List (FVal × FVal)) : W32 × Flags :=
  let av := fp32 acc
  let ops := av :: ts.flatMap fun t => [t.1, t.2]
  let ps := ts.map fun t => if t.1.isNaN || t.2.isNaN then some (.nan defaultNaN) else mulExact t.1 t.2
  let vals := av :: ps.filterMap id
  let bad := ps.any Option.isNone || (hasInf true vals && hasInf false vals)
  if ops.any FVal.isNaN || bad then (defaultNaN, flagIf (ops.any FVal.isSNaN || bad) flagNV)
  else if hasInf true vals then (roundFP32 (.inf true) rne)
  else if hasInf false vals then (roundFP32 (.inf false) rne)
  else roundFP32 ((ps.filterMap id).foldl (fun x p => (addExact x p false).getD x) av) rne

/-- One element of the working bank over the chunks of positions p to p + n - 1. -/
def macElem (a b : Nat → Nat → FVal × Flags) (w p n i j : Nat) (acc : W32) : W32 × Flags :=
  (List.range (n / w)).foldl (fun (r : W32 × Flags) c =>
    let ks := (List.range w).map fun x => p + c * w + x
    let fl := ks.foldl (fun fl k => fl ||| (a i k).2 ||| (b k j).2) r.2
    let (z, fz) := dotRound r.1 (ks.map fun k => ((a i k).1, (b k j).1))
    (z, fl ||| fz)) (acc, 0#6)

/-- MAC work on the whole working bank. -/
def macWork (a b : Nat → Nat → FVal × Flags) (w p n : Nat) (bank : Table W32) : Table W32 × Flags :=
  (List.range 4096).foldl (fun (r : Table W32 × Flags) x =>
    let (z, fl) := macElem a b w p n (x / 64) (x % 64) (tget 0#32 r.1 x)
    (tput r.1 x z, r.2 ||| fl)) (bank, 0#6)

/-- The working state of an expansion: working bank, flags, K cursor, micro-PC. -/
structure DnWork where
  bank : Table W32
  flags : Flags
  p : Nat
  empc : Nat
  /-- Positions of K that MAC orders worked on. -/
  macs : Nat
deriving DecidableEq, Repr

/-- An error at a micro-order (R284). -/
def dnMicro (x : DnWork) (code : TrapCode) (err mop : Nat) : TrapInfo :=
  { code := code, engine := .dense, status := dnStatus err mop 1 0 0 0, empc := x.empc }

/-- Do the fields of a dense micro-order hold what they must (R283, R284)? -/
def dnMoOk (w : Nat) : Bool :=
  bitsOf w 27 16 == 0 &&
  match bitsOf w 31 28 with
  | 0 => bitsOf w 15 0 == 0
  | 1 | 2 => bitsOf w 15 0 ≠ 0 && bitsOf w 15 0 % 32 == 0
  | 3 => bitsOf w 15 8 == 0
  | _ => false

/-- Expand micro-orders, at most 1,024 of them (R284). -/
def dnExpand (store : Table W32) (k : Nat) (mac : Nat → Nat → Table W32 → Table W32 × Flags) : Nat → DnWork → Except TrapInfo DnWork
  | 0, x => .error (dnMicro x .dmlimit 5 (bitsOf (tget 0#32 store x.empc).toNat 31 28))
  | m + 1, x =>
    let w := (tget 0#32 store x.empc).toNat
    let op := bitsOf w 31 28
    let n := bitsOf w 15 0
    let next := (x.empc + 1) % 256
    if !dnMoOk w then .error (dnMicro x .dmmicro 3 op)
    else match op with
    | 0 => .ok x
    | 3 => dnExpand store k mac m { x with empc := n }
    | 2 => if x.p + n > k then .error (dnMicro x .dmrange 4 op) else dnExpand store k mac m { x with p := x.p + n, empc := next }
    | _ =>
      if x.p + n > k then .error (dnMicro x .dmrange 4 op)
      else
        let (b, fl) := mac x.p n x.bank
        dnExpand store k mac m { bank := b, flags := x.flags ||| fl, p := x.p + n, empc := next, macs := x.macs + n }

/-! Acceptance (R285-R288, R294). -/

/-- Hold while the engine is stopped, which a rendezvous counts as quiescent (04 R94), four dense commands are unretired, or the commit buffer is full. -/
def dnHold (bytes : Nat) (core : Nat) (_c : Ctx) (s : State) : Except Stop Unit := do
  let e := (s.engOf core).dn
  if !e.run then holdFor .stoppedDense
  if e.queue.length ≥ 4 then holdFor .engineFull
  commitRoom core bytes s

/-- A product reads its descriptor once every earlier drain has written (R290). -/
def mmaHold (core : Nat) (c : Ctx) (s : State) : Except Stop Unit := do
  dnHold 0 core c s
  if (s.engOf core).dn.queue.any fun k => match k.op with | .drain .. => true | _ => false then holdFor .commands

/-- Enter a command, unless the task's dense depth would exceed MAXDEPTH (R294). -/
def dnEnter (core : Nat) (idx : BitVec 32) (recEvt : Bool) (op : DnOp) (depth : Nat) (s : State) : Except TrapInfo State :=
  let e := (s.engOf core).dn
  if (e.queue.map (·.depth)).foldl (· + ·) 0 + depth > maxDepth core s then .error (dnInfo e .dmdepth 6 0 0 0 0 0)
  else
    let tag := nextTag core idx recEvt s
    .ok (s.modDn core fun e => { e with queue := e.queue ++ [{ tag := tag, op := op, depth := depth, readDone := false, flags := 0#6, writes := [] }] })

/-- BYPFE as the commands accepted so far leave it (R282). -/
def bypfeAfter (e : DenseEng) : Nat :=
  e.queue.foldl (fun n c => match c.op with | .byp fe _ => fe | .drain _ _ fe _ true _ => fe | _ => n) e.bypfe

/-- The entry of operand A for a source of A: memory, the down-converter, the bypass (R277, R281). -/
def entryA (s : State) (p asrc fe : Nat) (e : DenseEng) : Option FtEntry :=
  match asrc with
  | 0 => legalOperand s p fe
  | 1 => chainOperand s p fe
  | _ => chainOperand s p (bypfeAfter e)

/-- DMMA and DMMAC at acceptance (R286). -/
def acceptMma (keep : Bool) (core : Nat) (c : Ctx) (idx : BitVec 32) (a b : W64) (s : State) : Except TrapInfo State := do
  let e := (s.engOf core).dn
  let v := s.view c.a
  let p := s.partOf c.a
  let bad (code : TrapCode) (err : Nat) : Except TrapInfo Unit := .error (dnInfo e code err 0 0 0 0 0)
  -- 1. the descriptor
  if a.toNat % 64 ≠ 0 then dnTry e 0 0 0 (.error (misaligned a))
  let d ← dnTry e 0 0 0 (v.read s a.toNat 64)
  let f (o n : Nat) := leValue ((d.drop o).take n)
  -- 2. its fields and the entries
  let k := f 0x28 2
  let fea := f 0x2A 1 % 16
  let feb := f 0x2A 1 / 16
  let ctl := f 0x2B 1
  let asrc := bitsOf ctl 1 0
  let mem := asrc == 0
  let fieldsOk := decide (b.toNat < 256) && decide (asrc ≠ 3) && decide (ctl < 16) && f 0x34 12 == 0 &&
    f 0x20 4 % 4 == 0 && f 0x24 4 % 4 == 0 && decide (32 ≤ k) && decide (k ≤ 8192) && k % 32 == 0 &&
    (if mem then !bitOf ctl 2 && shareOk (f 0x2C 4) (core % 24)
     else f 0 8 == 0 && f 0x10 8 == 0 && f 0x20 4 == 0 && f 0x2C 4 == 0 && k == 64) &&
    (decide (asrc ≠ 2) || fea == 0) && shareOk (f 0x30 4) (core % 24)
  if !fieldsOk then bad .dmdesc 1
  match entryA s p asrc fea e, legalOperand s p feb with
  | some fa, some fb =>
    if (mem && (k % fa.block ≠ 0 || (fa.scale = 0 && f 0x10 8 ≠ 0))) || k % fb.block ≠ 0 || (fb.scale = 0 && f 0x18 8 ≠ 0) then bad .dmdesc 1
    let oa : DenseOperand := { base := BitVec.ofNat 64 (f 0 8), plane := BitVec.ofNat 64 (f 0x10 8), stride := f 0x20 4, fe := fea, share := shareOf (f 0x2C 4), data := none }
    let ob : DenseOperand := { base := BitVec.ofNat 64 (f 8 8), plane := BitVec.ofNat 64 (f 0x18 8), stride := f 0x24 4, fe := feb, share := shareOf (f 0x30 4), data := none }
    -- 3. every byte that it can read
    if mem then checkOperand e v s 1 (operandRanges oa fa true k)
    checkOperand e v s 2 (operandRanges ob fb false k)
    -- 4. the depth
    dnEnter core idx (bitOf ctl 3) (.mma keep b.toNat k asrc (bitOf ctl 2) oa ob) (64 * k / commandWidth fa fb) (countPeers v .load [(a.toNat, 64)] s)
  | _, _ => .error (dnInfo e .fmtbad 2 0 0 0 0 0)

/-- Bytes of a packed row of 64 elements (R287). -/
def rowBytes (f : FtEntry) : Nat := 8 * f.elem.width

/-- DDRAIN at acceptance (R287). -/
def acceptDDrain (core : Nat) (c : Ctx) (idx : BitVec 32) (a b : W64) (s : State) : Except TrapInfo State := do
  let e := (s.engOf core).dn
  let v := s.view c.a
  let p := s.partOf c.a
  let n := b.toNat
  let stride := bitsOf n 39 16
  let byp := bitOf n 2
  if bitsOf n 63 40 ≠ 0 || bitsOf n 15 12 ≠ 0 || bitsOf n 7 4 ≠ 0 || stride % 4 ≠ 0 || (bitOf n 3 && !byp) then
    .error (dnInfo e .dmdesc 1 0 0 0 0 0)
  match s.ftEntry p (bitsOf n 11 8) with
  | none => .error (dnInfo e .fmtbad 2 0 0 0 0 0)
  | some f =>
    if f.scale ≠ 0 || f.elem.isCode || (byp && (dotWidth f.elem).isNone) then .error (dnInfo e .fmtbad 2 0 0 0 0 0)
    if a.toNat % 4 ≠ 0 then dnTry e 0 3 0 (.error (misaligned a))
    let rs := if stride = 0 then rowBytes f else stride
    (List.range 64).foldl (fun (r : Except TrapInfo Unit) i => r.bind fun _ => dnTry e 0 3 i (v.check s (a.toNat + i * rs) (rowBytes f) .engineStore)) (.ok ())
    dnEnter core idx (bitOf n 1) (.drain a stride (bitsOf n 11 8) (bitOf n 3) byp (bitOf n 0)) 64 s

/-- DBYP at acceptance (R288). -/
def acceptDbyp (core : Nat) (c : Ctx) (idx : BitVec 32) (a : W64) (s : State) : Except TrapInfo State :=
  let e := (s.engOf core).dn
  if a.toNat ≥ 32 then .error (dnInfo e .dmdesc 1 0 0 0 0 0)
  else match chainOperand s (s.partOf c.a) (bitsOf a.toNat 3 0) with
  | none => .error (dnInfo e .fmtbad 2 0 0 0 0 0)
  | some _ => dnEnter core idx false (.byp (bitsOf a.toNat 3 0) (bitOf a.toNat 4)) 64 s

/-- DMMA (R286) -/
def execDmma (g : Guard) (a b : Scalar) (s : State) : Answer :=
  engineWord (cmdInfo g [a, b] true) s mmaHold fun core c idx s =>
    let (x, s) := readScalar c a s
    let (y, s) := readScalar c b s
    acceptMma false core c idx x y s
/-- DMMAC (R286) -/
def execDmmac (g : Guard) (a b : Scalar) (s : State) : Answer :=
  engineWord (cmdInfo g [a, b] true) s mmaHold fun core c idx s =>
    let (x, s) := readScalar c a s
    let (y, s) := readScalar c b s
    acceptMma true core c idx x y s
/-- DDRAIN (R287) -/
def execDdrain (g : Guard) (a b : Scalar) (s : State) : Answer :=
  engineWord (cmdInfo g [a, b] true) s (dnHold 16384) fun core c idx s =>
    let (x, s) := readScalar c a s
    let (y, s) := readScalar c b s
    acceptDDrain core c idx x y s
/-- DBYP (R288) -/
def execDbyp (g : Guard) (a : Scalar) (s : State) : Answer :=
  engineWord (cmdInfo g [a] false) s (dnHold 0) fun core c idx s =>
    let (x, s) := readScalar c a s
    acceptDbyp core c idx x s
/-- DCLR (R288) -/
def execDclr (g : Guard) (s : State) : Answer :=
  engineWord (cmdInfo g [] false) s (dnHold 0) fun core _ idx s => dnEnter core idx false .clr 64 s

/-! Work (R280, R284, R287-R289). -/

/-- The values of operand A (R281), with the flags of its down-conversion. ATRANS applies to the bypass as to the bank; an element is taken as it is stored, with the scale of its own block (log entry 89). -/
def sourceA (core : Nat) (e : DenseEng) (asrc : Nat) (trans : Bool) (a : DenseOperand) (k : Nat) (s : State) :
    Except TrapInfo (FtEntry × (Nat → Nat → FVal × Flags) × Flags) :=
  let p := s.partOf (.execute core)
  let none' : Except TrapInfo (FtEntry × (Nat → Nat → FVal × Flags) × Flags) := .error (dnInfo e .fmtbad 2 2 1 0 0 0)
  match asrc with
  | 0 =>
    match legalOperand s p a.fe with
    | none => none'
    | some f => do
      let d ← operandData core e s a f true k
      return (f, d.value, 0#6)
  | 1 =>
    match chainOperand s p a.fe with
    | none => none'
    | some f => let t := downConvert e f trans; .ok (f, t.value f, t.flags)
  | _ =>
    match chainOperand s p e.bypfe with
    | none => none'
    | some f => .ok (f, (fun i k => if trans then e.bypass.value f k i else e.bypass.value f i k), 0#6)

/-- A product up to its END: the new bank, the flags, the micro-PC (R280), and the clocks of its MAC work (R289). -/
def runMma (core : Nat) (e : DenseEng) (keep : Bool) (entry k asrc : Nat) (trans : Bool) (a b : DenseOperand) (s : State) : Except TrapInfo (DnWork × Nat) := do
  let p := s.partOf (.execute core)
  let (fa, va, fl) ← sourceA core e asrc trans a k s
  match legalOperand s p b.fe with
  | none => .error (dnInfo e .fmtbad 2 1 2 0 0 0)
  | some fb =>
    let d ← operandData core e s b fb false k
    let x ← dnExpand e.store k (macWork va d.value (commandWidth fa fb)) 1024
      { bank := if keep then e.bank else [], flags := fl, p := 0, empc := (e.base + entry) % 256, macs := 0 }
    .ok (x, 64 * x.macs / commandWidth fa fb)

/-- An operand whose bytes are read now, unless they have been, it is not in memory, or its read is shared and has not started. -/
def takeOperand (core : Nat) (e : DenseEng) (s : State) (o : DenseOperand) (isA : Bool) (k : Nat) : DenseOperand :=
  match legalOperand s (s.partOf (.execute core)) o.fe with
  | none => o
  | some f =>
    if !o.ready || o.data.isSome then o
    else match operandBytes e (s.view (.execute core)) s o f isA k with
      | .ok b => { o with data := some b }
      | .error _ => o

/-- The reads that a product on a predicted arm makes (R285; 11 R327). An error of one is found once the prediction has resolved. -/
def armReads (core : Nat) (c : DnCmd) (s : State) : State :=
  let e := (s.engOf core).dn
  match c.op with
  | .mma keep entry k asrc tr a b =>
    let a := if asrc = 0 then takeOperand core e s a true k else a
    s.modDn core fun e => { e with queue := { c with op := .mma keep entry k asrc tr a (takeOperand core e s b false k) } :: e.queue.tail }
  | _ => s

/-- The ranges that a product reads. -/
def mmaRanges (s : State) (core k asrc : Nat) (a b : DenseOperand) : List (Nat × Nat) :=
  let p := s.partOf (.execute core)
  let of (o : DenseOperand) (isA : Bool) : List (Nat × Nat) := match legalOperand s p o.fe with | some f => byteRanges o f isA k | none => []
  (if asrc = 0 then of a true else []) ++ of b false

/-- The record of a dense command (11 R321). -/
def dnRecordKind : DnOp → Nat
  | .mma .. => 7
  | _ => 8
def dnRecord (core : Nat) (c : DnCmd) (s : State) : EvRec := s.ownRecord (dnRecordKind c.op) core c.tag.idx

/-- The product at the head of the queue does its work and is committed (R280): its bank and its micro-PC are the engine's. -/
def commitMma (core : Nat) (c : DnCmd) (x : DnWork) (n : Nat) (s : State) : State :=
  (s.modDn core fun e => { e with bank := x.bank, empc := x.empc, queue := { c with flags := x.flags } :: e.queue.tail }).coreCtr core .dmmacclk n

/-- Drop the command at the head of the dense queue. -/
def dropDense (core : Nat) (s : State) : State := s.modDn core fun e => { e with queue := e.queue.tail }

/-- It retires: its flags enter DFLAGS (R276). -/
def retireDense (core : Nat) (s : State) : State :=
  (s.modDn core fun e =>
    { e with queue := e.queue.tail, dflags := e.dflags ||| ((e.queue.head?.map (·.flags)).getD 0#6) }).coreCtr core .dmcmds 1

/-- The dense engine performs its product at the head of its queue and commits it (R280): the engine is started and the shared reads have been performed. Of a product on a predicted arm only the operands are read. -/
def denseCommit (core : Nat) (s : State) : State :=
  let e := (s.engOf core).dn
  match e.queue with
  | [] => s
  | c :: _ =>
    match c.op with
    | .mma keep entry k asrc tr a b =>
      let g := clusterOfCore core
      let r := dnRecord core c s
      if !s.engineLive core then s
      else if worked s c.tag.recEvt g r then completeWith c.tag.recEvt g r id (retireDense core) s
      else if !e.run then s
      else if c.tag.held then armReads core c s
      else if !a.ready || !b.ready then s.coreClk core .dmsharewait
      else
        match runMma core e keep entry k asrc tr a b s with
        | .error i => failCommand core c.tag.idx i (dropDense core) s
        | .ok (x, n) =>
          completeWith c.tag.recEvt g r (fun s => commitMma core c x n (countPeers (s.view (.execute core)) .load (mmaRanges s core k asrc a b) s)) (retireDense core) s
    | _ => s

/-- The words that a DDRAIN writes, in ascending rows, with its flags (R287). -/
def dnDrain (e : DenseEng) (f : FtEntry) (a : W64) (stride : Nat) : List (W64 × W32) × ChainTile :=
  let t := downConvert e f false
  let rs := if stride = 0 then rowBytes f else stride
  let w := f.elem.width
  ((List.range 64).flatMap fun i =>
    let bits := (List.range 64).foldl (fun n j => n + tget 0 t.elems (64 * i + j) % 2 ^ w * 2 ^ (w * j)) 0
    (List.range (rowBytes f / 4)).map fun x => (a + BitVec.ofNat 64 (i * rs + 4 * x), BitVec.ofNat 32 (bits / 2 ^ (32 * x))), t)

/-- The transpose of a converted tile without scales (R287 BTR). -/
def ChainTile.transpose (t : ChainTile) : ChainTile :=
  { t with elems := tputAll [] ((List.range 4096).map fun n => (n, tget 0 t.elems (64 * (n % 64) + n / 64))) }

/-- A DDRAIN, DBYP or DCLR at the head has its effect on the engine: the bank is read, the bypass filled, the bank cleared. -/
def dnEffect (core : Nat) (c : DnCmd) (s : State) : State :=
  let e := (s.engOf core).dn
  let p := s.partOf (.execute core)
  let put (e' : DenseEng) (ws : List (W64 × W32)) (fl : Flags) : State :=
    s.modDn core fun _ => { e' with queue := { c with readDone := true, writes := ws, flags := fl } :: e.queue.tail }
  match c.op with
  | .mma .. => s
  | .clr => put { e with bank := [], dflags := 0#6 } [] 0#6
  | .byp fe tr =>
    match chainOperand s p fe with
    | none => failCommand core c.tag.idx (dnInfo e .fmtbad 2 2 0 0 0 0) (dropDense core) s
    | some f => let t := downConvert e f tr; put (fillBypass t fe tr e) [] t.flags
  | .drain a stride dfe btr byp clr =>
    match s.ftEntry p dfe with
    | none => failCommand core c.tag.idx (dnInfo e .fmtbad 2 2 0 0 0 0) (dropDense core) s
    | some f =>
      let (ws, t) := dnDrain e f a stride
      let e1 := if byp then fillBypass (if btr then t.transpose else t) dfe btr e else e
      put { e1 with bank := if clr then [] else e.bank } ws t.flags

/-- May a DDRAIN, DBYP or DCLR at the head go on: its prediction has resolved, and either it has begun, for the engine stops only between commands (R284), or the engine is started and its launch active? -/
def drainOn (core : Nat) (e : DenseEng) (c : DnCmd) (s : State) : Bool := !c.tag.held && (c.readDone || e.run && s.engineLive core)

/-- A DDRAIN, DBYP or DCLR at the head of the queue: it has its effect, `n` of its words are written, in its turn; once nothing is left to write it retires, and its flags enter DFLAGS (R276, R287, R288). -/
def denseRetire (core n : Nat) (s : State) : State :=
  let e := (s.engOf core).dn
  match e.queue with
  | [] => s
  | c :: _ =>
    if !drainOn core e c s || (match c.op with | .mma .. => true | _ => false) then s
    else
      let s := if c.readDone then s else dnEffect core c s
      match (s.engOf core).dn.queue with
      | [] => s
      | c :: rest =>
        if !c.readDone then s
        else
          let v := s.view (.execute core)
          if !c.writes.isEmpty && !(armTurn (s.engOf core) c.tag && wordsOwned v s (c.writes.take n)) then s else
          let s := v.writeWords (c.writes.take n) s
          let c := { c with writes := c.writes.drop n }
          let s := s.modDn core fun e => { e with queue := c :: rest }
          if c.writes.isEmpty then
            completeWith c.tag.recEvt (clusterOfCore core) (dnRecord core c s) id (retireDense core) s
          else s

end Sys2Proof.Machine
end

