-- ==== Sys2Proof/Machine/TileMove.lean ====
section
/-! DEFINITION. Tile moves (spec/07_vector_unit.md R187, R188), the start of shared reads (spec/09 R255, spec/10 R295), and the resolution of predictions (spec/04 R113, R114, spec/11 R327, R328). -/

namespace Sys2Proof.Machine

open Sys2Proof

/-! Tile moves. -/

/-- Has every earlier TWR and TRD of a tile landed (R188)? -/
def tileLanded (t : Task) (tl : Tile) : Bool := (List.range 64).all (fun r => !early t (keyT tl.val r) t.x.clk) && !early t (keyTrd tl.val) t.x.clk

/-- The ranges of a tile move in memory. -/
def tileRanges (base : W64) (stride : Nat) : List (Nat × Nat) := (List.range 64).map fun i => ((base.toNat + i * stride) % 2 ^ 64, 256)

/-- TXFER at acceptance: the descriptor, the address, then all 64 rows (R187, R188). -/
def acceptTxfer (core : Nat) (c : Ctx) (idx : BitVec 32) (a b : W64) (s : State) : Except TrapInfo State := do
  let n := b.toNat
  let stride := bitsOf n 39 16
  let v := s.view c.a
  if bitsOf n 63 40 ≠ 0 || bitsOf n 15 4 ≠ 0 || stride % 4 ≠ 0 then .error { code := .txbad }
  if a.toNat % 4 ≠ 0 then .error (misaligned a)
  let k : AccKind := if bitOf n 1 then .engineStore else .load
  match (tileRanges a stride).findSome? fun r => match v.check s r.1 r.2 k with | .error x => some x | .ok _ => none with
  | some x => .error x
  | none =>
    let cmd : TileCmd := { tag := nextTag core idx (bitOf n 3) s, tile := BitVec.ofNat 1 n |>.toFin, toMem := bitOf n 1, trans := bitOf n 2, base := a, stride := stride, rows := none }
    return s.modEng core fun e => { e with tiles := e.tiles ++ [cmd] }

/-- TXFER (R187): freezes while its tile is busy or a TWR or TRD of it has not landed, and holds while two are in hand. Its errors are raised at the word (R169). -/
def execTxfer (g : Guard) (a b : Scalar) (s : State) : Answer :=
  issue (cmdInfo g [a, b] true) s fun c s => do
    let core := c.a.core?.getD 0
    let (x, s) := readScalar c a s
    let (y, s) := readScalar c b s
    let tl : Tile := (BitVec.ofNat 1 y.toNat).toFin
    if tileBusy (s.core core) tl || !tileLanded (s.task c.a) tl then holdFor .tile
    if (s.engOf core).tiles.length ≥ 2 then holdFor .landing
    commitRoom core 16384 s
    let (idx, s) := takeIndex c.a s
    match acceptTxfer core c idx x y s with
    | .ok s => return countCmd core s
    | .error info => if info.wait then holdFor .accesses else .error (.trap info)

/-- Place in a tile of memory row i, element c. -/
def tilePlace (trans : Bool) (i c : Nat) : Nat := if trans then 64 * c + i else 64 * i + c

/-- The rows of a tile move read from memory. -/
def tileRead (v : View) (s : State) (c : TileCmd) : Except TrapInfo (List (Nat × W32)) :=
  (List.range 64).foldl (fun (r : Except TrapInfo (List (Nat × W32))) i => do
    let l ← r
    let bs ← v.read s ((c.base.toNat + i * c.stride) % 2 ^ 64) 256
    return l ++ (List.range 64).map fun k => (tilePlace c.trans i k, BitVec.ofNat 32 (leValue ((bs.drop (4 * k)).take 4)))) (.ok [])

/-- The rows of a tile written to memory, in ascending order. -/
def tileWrite (v : View) (t : Table W32) (c : TileCmd) (s : State) : State :=
  (List.range 4096).foldl (fun s n =>
    v.write ((c.base.toNat + n / 64 * c.stride + 4 * (n % 64)) % 2 ^ 64) (leBytes 4 (tget 0#32 t (tilePlace c.trans (n / 64) (n % 64))).toNat) s) s

/-- The elements that a move to a tile has read, or reads now. -/
def tileRows (core : Nat) (c : TileCmd) (s : State) : Except TrapInfo (List (Nat × W32)) :=
  match c.rows with
  | some r => .ok r
  | none => tileRead (s.view (.execute core)) s c

/-- The tile register takes its elements. -/
def tileFill (core : Nat) (c : TileCmd) (ws : List (Nat × W32)) (s : State) : State :=
  s.modCore core fun k => { k with vec := { k.vec with t := tput k.vec.t c.tile.val (tputAll [] ws) } }

/-- The oldest tile move of a core is taken out. -/
def dropTile (core : Nat) (s : State) : State := s.modEng core fun e => { e with tiles := e.tiles.tail }

/-- TXFER_COMPLETE (R188): the oldest tile move of a core is performed, in the turn of its writes; then its record is posted, and its tile is free. One on a predicted arm makes its reads only (11 R327). -/
def tileStep (core : Nat) (s : State) : State :=
  match (s.engOf core).tiles with
  | [] => s
  | c :: rest =>
    let g := clusterOfCore core
    let r := s.ownRecord 3 core c.tag.idx
    let v := s.view (.execute core)
    let done (s : State) : State := (dropTile core s).coreCtr core .txfers 1
    let rs := tileRanges c.base c.stride
    if !s.engineLive core then s
    else if worked s c.tag.recEvt g r then completeWith c.tag.recEvt g r id done s
    else if c.toMem then
      if c.tag.held || !armTurn (s.engOf core) c.tag || !rs.all (fun x => viewOwned v s x.1 x.2) then s
      else completeWith c.tag.recEvt g r (fun s => countPeers v .engineStore rs (tileWrite v (tget [] (s.core core).vec.t c.tile.val) c s)) done s
    else match tileRows core c s with
      | .error i => if c.tag.held then s else failCommand core c.tag.idx { i with engine := .tile } (dropTile core) s
      | .ok ws =>
        if c.tag.held then s.modEng core fun e => { e with tiles := { c with rows := some ws } :: rest }
        else if !armTurn (s.engOf core) c.tag then s
        else completeWith c.tag.recEvt g r (fun s => tileFill core c ws (countPeers v .load rs s)) done s

/-- TXFER_COMPLETE (R188) -/
def execTxferComplete (core : Nat) (s : State) : Answer := .next (tileStep core s)

/-! Engine events. -/

/-- GATHER_COMPLETE (09 R256) -/
def execGatherComplete (core half : Nat) (s : State) : Answer := .next (gatherStep core half s)
/-- BUCKET_EXPANSION (09 R264) -/
def execBucketExpansion (core : Nat) (s : State) : Answer := .next (bucketStep core s)
/-- BUCKET_RETIRE (09 R271): `n` of the words that the oldest ended command still has to write are written first. -/
def execBucketRetire (core n : Nat) (s : State) : Answer := .next (bucketRetire core n s)
/-- DENSE_COMMIT (10 R280) -/
def execDenseCommit (core : Nat) (s : State) : Answer := .next (denseCommit core s)
/-- DENSE_RETIRE (10 R287): `n` of the words that a DDRAIN still has to write are written first. -/
def execDenseRetire (core n : Nat) (s : State) : Answer := .next (denseRetire core n s)

/-! Shared reads. -/

/-- What the partners of a shared read must name alike (09 R255; 10 R295). -/
structure ShareKey where
  mcast : BitVec 24
  lead : Nat
  names : List Nat
deriving DecidableEq, Repr

/-- The bank offset that a tile's address names, through the window of its core (05 R121, R123). -/
def tileOffset (s : State) (core : Nat) (va : W64) : Nat :=
  match translateEntry (s.view (.execute core)).window false va .load with
  | .ok (_, off) => off
  | .error _ => 0

def operandKey (o : DenseOperand) : ShareKey :=
  { mcast := o.share.mcast, lead := o.share.lead, names := [o.base.toNat, o.plane.toNat, o.stride, o.fe] }

/-- The shared reads of a core's commands that have not started, with the number of each command. -/
def openShares (s : State) (core : Nat) (kind : ShareKind) : List (Nat × ShareKey) :=
  let e := s.engOf core
  match kind with
  | .bank => e.bk.queue.filterMap fun c => match c.op with
    | .run r => if r.ready then none else some (c.tag.num, { mcast := r.share.mcast, lead := r.share.lead, names := [tileOffset s core r.tile] })
    | _ => none
  | .denseA => e.dn.queue.filterMap fun c => match c.op with
    | .mma _ _ k _ _ a _ => if a.ready then none else some (c.tag.num, { operandKey a with names := k :: (operandKey a).names })
    | _ => none
  | .denseB => e.dn.queue.filterMap fun c => match c.op with
    | .mma _ _ k _ _ _ b => if b.ready then none else some (c.tag.num, { operandKey b with names := k :: (operandKey b).names })
    | _ => none

/-- What a shared read delivers: the bytes of a tile, or of an operand. -/
inductive SharedBytes where
  | tile (bs : List Byte)
  | operand (b : OperandBytes)
deriving DecidableEq, Repr

/-- One command of a shared read receives its bytes. -/
def BkCmd.receive (c : BkCmd) (x : SharedBytes) : BkCmd :=
  match c.op, x with
  | .run r, .tile bs => { c with op := .run { r with data := some bs } }
  | _, _ => c
def DnCmd.receive (c : DnCmd) (isA : Bool) (x : SharedBytes) : DnCmd :=
  match c.op, x with
  | .mma p n k y t a b, .operand d => { c with op := if isA then .mma p n k y t { a with data := some d } b else .mma p n k y t a { b with data := some d } }
  | _, _ => c

/-- Deliver a shared read to the command with a number. -/
def deliverShare (core num : Nat) (kind : ShareKind) (x : SharedBytes) (s : State) : State :=
  match kind with
  | .bank => s.modBk core fun e => { e with queue := e.queue.map fun c => if c.tag.num = num then c.receive x else c }
  | .denseA => s.modDn core fun e => { e with queue := e.queue.map fun c => if c.tag.num = num then c.receive true x else c }
  | .denseB => s.modDn core fun e => { e with queue := e.queue.map fun c => if c.tag.num = num then c.receive false x else c }

/-- An operand read through the window of its core. -/
def readOperand (core : Nat) (s : State) (o : DenseOperand) (isA : Bool) (k : Nat) : Except TrapInfo OperandBytes :=
  match legalOperand s (s.partOf (.execute core)) o.fe with
  | none => .error (dnInfo (s.engOf core).dn .fmtbad 2 1 (if isA then 1 else 2) 0 0 0)
  | some f => operandBytes (s.engOf core).dn (s.view (.execute core)) s o f isA k

/-- The leader's read for its command with a number (09 R255; 10 R295). -/
def leaderRead (core num : Nat) (kind : ShareKind) (s : State) : Except TrapInfo SharedBytes :=
  let e := s.engOf core
  match kind with
  | .bank =>
    match e.bk.queue.findSome? fun c => match c.op with | .run r => if c.tag.num = num then some r else none | _ => none with
    | some r => (bkTry .bucket e.bk 1 (tileBytes (s.view (.execute core)) s r.tile)).map .tile
    | none => .error waitPage
  | .denseA =>
    match e.dn.queue.findSome? fun c => match c.op with | .mma _ _ k _ _ a _ => if c.tag.num = num then some (a, k) else none | _ => none with
    | some (a, k) => (readOperand core s a true k).map .operand
    | none => .error waitPage
  | .denseB =>
    match e.dn.queue.findSome? fun c => match c.op with | .mma _ _ k _ _ _ b => if c.tag.num = num then some (b, k) else none | _ => none with
    | some (b, k) => (readOperand core s b false k).map .operand
    | none => .error waitPage

/-- Index of the command with a number, if it is no longer on a predicted arm. -/
def shareIndex (core num : Nat) (s : State) : Option (BitVec 32) :=
  let e := s.engOf core
  ((e.bk.queue.map (·.tag) ++ e.dn.queue.map (·.tag)).find? fun t => t.num == num && !t.held).map (·.idx)

/-- The command with a number leaves its queue. -/
def dropShare (core num : Nat) (s : State) : State :=
  (s.modBk core fun e => { e with queue := e.queue.filter (·.tag.num ≠ num) }).modDn core fun e => { e with queue := e.queue.filter (·.tag.num ≠ num) }

/-- SHARED_READ_START (09 R255; 10 R295): the oldest shared read of a core that has not been performed is performed, once every core in its mask has accepted a command that names the same: the leader reads, and all receive the same bytes. An error of the read is raised against the leader's command. -/
def sharedStart (core : Nat) (kind : ShareKind) (s : State) : State :=
  match openShares s core kind with
  | [] => s
  | (_, key) :: _ =>
    let base := core / 24 * 24
    let cores := ((List.range 24).filter fun i => key.mcast.getLsbD i).map fun i => base + i
    let found := cores.map fun c => (c, ((openShares s c kind).find? fun x => x.2 == key).map (·.1))
    let lead := base + key.lead
    if !s.engineLive core then s
    else if found.all fun x => x.2.isSome then
      let num := ((found.find? fun x => x.1 == lead).bind (·.2)).getD 0
      match leaderRead lead num kind s with
      | .ok b => found.foldl (fun s x => deliverShare x.1 (x.2.getD 0) kind b s) s
      | .error i => match shareIndex lead num s with | some idx => failCommand lead idx i (dropShare lead num) s | none => s
    else match kind with
      | .bank => s.coreClk core .bksharewait
      | _ => s.coreClk core .dmsharewait
/-- SHARED_READ_START (09 R255) -/
def execSharedReadStart (core : Nat) (kind : ShareKind) (s : State) : Answer := .next (sharedStart core kind s)

/-! Predictions. -/

/-- The commands of an arm stand; their writes take place in the order of their acceptance (11 R328). -/
def releaseTag (t : CmdTag) : CmdTag := { t with held := false, arm := t.arm || t.held }
def releaseHeld (e : Engines) : Engines :=
  { e with
    bk := { e.bk with queue := e.bk.queue.map fun c => { c with tag := releaseTag c.tag } }
    dn := { e.dn with queue := e.dn.queue.map fun c => { c with tag := releaseTag c.tag } }
    gathers := e.gathers.map fun c => { c with tag := releaseTag c.tag }
    tiles := e.tiles.map fun c => { c with tag := releaseTag c.tag } }
/-- The commands of an arm are dropped. -/
def dropHeld (e : Engines) : Engines :=
  { e with
    bk := { e.bk with queue := e.bk.queue.filter (!·.tag.held) }
    dn := { e.dn with queue := e.dn.queue.filter (!·.tag.held) }
    gathers := e.gathers.filter (!·.tag.held)
    tiles := e.tiles.filter (!·.tag.held) }

/-- The predicate of a prediction lands: the guess stands, with its commands and the errors held with them, or the stream goes on at the other arm 4 clocks later (04 R114; 11 R328). -/
def resolvePrediction (core : Nat) (s : State) : State :=
  let a : Agent := .execute core
  match s.task? a with
  | none => s
  | some t =>
    match t.x.arm with
    | none => s
    | some m =>
      let rest := t.x.unlanded.filter (· ≠ m.pred)
      let right := ((t.preds.getLsbD m.pred.val == m.sense) == m.taken)
      let faults := (s.core core).armFaults
      let s := s.modCore core fun k => { k with armFaults := [] }
      if right then
        let s := (s.modTask a fun t => { t with x := { t.x with unlanded := rest, arm := none } }).modEng core releaseHeld
        faults.foldl (fun s i => raiseTrap a i false none s) s
      else
        (((s.modTask a fun t => { t with x := { t.x with unlanded := rest, arm := none, pc := m.other, rep := 0, clk := t.x.clk + 4, hold := .none } }).modEng
          core dropHeld).coreCtr core .mispcount 1)
/-- PREDICTION_RESOLVE (11 R328) -/
def execPredictionResolve (core : Nat) (s : State) : Answer := .next (resolvePrediction core s)

end Sys2Proof.Machine
end

