-- ==== Sys2Proof/Machine/Accesses.lean ====
section
/-! DEFINITION. Queued accesses performed at their homes, and what a publication waits for (spec/06_ordering_and_publication.md R138-R148, R153, R157, R158, R160). -/

namespace Sys2Proof.Machine

open Sys2Proof

/-- A veneered buffer by its place (06 R156). -/
structure BufKey where
  stack : Nat
  toff : Nat
  size : Nat
deriving DecidableEq, Repr

/-- Does a range of a view's addresses lie in a veneered buffer, in part? -/
def rangeHits (v : View) (s : State) (b : BufKey) (va n : Nat) : Bool :=
  (pieces va n).any fun x =>
    match v.translate s (BitVec.ofNat 64 x.1) .engineStore with
    | .ok (.veneer st toff size _) => st == b.stack && toff == b.toff && size == b.size
    | _ => false

/-- Do `n` rows of a stride lie in it? -/
def rowsHit (v : View) (s : State) (b : BufKey) (va n stride len : Nat) : Bool :=
  (List.range n).any fun i => rangeHits v s b (va + i * stride) len

/-- Does a queued bucket drain write the buffer? The shape is followed along the queue. -/
def bkHits (v : View) (s : State) (b : BufKey) : Bool → List BkCmd → Bool
  | _, [] => false
  | shape, c :: r =>
    match c.op with
    | .shape t => bkHits v s b t r
    | .drain a stride _ =>
      let nt := tokens shape
      rowsHit v s b a.toNat (2048 / nt) (if stride = 0 then 4 * nt else stride) (4 * nt) || bkHits v s b shape r
    | _ => bkHits v s b shape r

/-- Does a dense drain write the buffer? -/
def dnHits (v : View) (s : State) (b : BufKey) (c : DnCmd) : Bool :=
  match c.op with
  | .drain a stride dfe _ _ _ =>
    match s.ftEntry (s.partOf v.a) dfe with
    | some f => rowsHit v s b a.toNat 64 (if stride = 0 then rowBytes f else stride) (rowBytes f)
    | none => false
  | _ => false

/-- Has a core a command in hand whose destination lies in the buffer? -/
def coreHits (s : State) (b : BufKey) (core : Nat) : Bool :=
  let e := s.engOf core
  let v := s.view (.execute core)
  bkHits v s b e.bk.shapeT e.bk.queue || e.bk.ended.any (fun c => c.writes.any fun w => rangeHits v s b w.1.toNat 4) ||
    e.dn.queue.any (dnHits v s b) || e.tiles.any fun c => c.toMem && rowsHit v s b c.base.toNat 64 c.stride 256

/-- Bytes of a destination row of a copy command. -/
def copyRowBytes (s : State) (p : Nat) (c : CopyCmd) : Nat :=
  match c.op with
  | .cptr => c.d.yn * c.d.esz
  | .cpc | .cpx => match copyWidths s p c.op c.d with | some (_, w) => c.d.xn * w / 8 | none => 0
  | _ => c.d.xn

/-- Bytes that a conversion writes to its scale plane, at most. -/
def planeSpan (s : State) (p : Nat) (c : CopyCmd) : Nat :=
  match scaledSide s p c.op c.d with
  | some f => let nb := c.rows * (c.d.xn / blockSize f.scale f.group); zeroPlane 0 nb + nb
  | none => 0

/-- Does a copy command write the buffer: its rows, the plane of a CPC, its result block? -/
def copyHits (s : State) (p : Nat) (b : BufKey) (c : CopyCmd) : Bool :=
  let rows := !c.d.dsp && c.op ≠ .cpd && c.msg.isNone && (List.range c.rows).any fun r =>
    let c := { c with row := r }
    rangeHits c.view s b c.dstRow (copyRowBytes s p c)
  let plane := c.op == .cpc && !c.d.psp && rangeHits c.view s b c.d.plane.toNat (planeSpan s p c)
  rows || plane || (c.d.resen && rangeHits c.view s b c.d.res.toNat 32)

/-- Does a command accepted and not completed write the buffer (R157, R158)? -/
def bufferBusy (s : State) (p : Nat) (b : BufKey) : Bool :=
  (allCopies p s).any (copyHits s p b) ||
    s.cores.any fun k => s.hasCore p k.1 && k.2.running.state == .running && coreHits s b k.1

/-- PUBLISH at the buffer's home (R157): it waits for the commands that write the buffer, then exchanges the copies. -/
def performPublish (a : Agent) (i : Nat) (e : AccElem) (s : State) : State :=
  match e.tgt with
  | .veneer st toff size _ =>
    let p := s.partOf a
    if bufferBusy s p { stack := st, toff := toff, size := size } then s
    else retireAccess a true i (modAccess a true i (elemDone e.j) (publishBuffer p st toff size s))
  | _ => s

/-- Perform an element that nothing blocks. -/
def performElem (a : Agent) (inStore : Bool) (i : Nat) (x : Access) (e : AccElem) (s : State) : State :=
  match x.op with
  | .load => performLoad a i x e s
  | .store => performStore a i x e s
  | .atomic op _ swap => performAtomic a i x e op swap s
  | .cell .ld _ => performCld a i x e s
  | .cell op arg => performCell a i x e op arg s
  | .publish => performPublish a i e s
  | .barInit | .barAdd | .barRead => performBarrier a inStore i x e s

/-- May word `seq`'s access of an agent be performed: has its partition an active launch, or one that is being discarded and whose stream raised no trap at that word or before it (06 R153; 14 R387)? -/
def State.accessing (s : State) (a : Agent) (seq : Nat) : Bool :=
  match s.partOf? a.cluster with
  | some p => match (s.part p).launch with
    | some l => l.phase == .active || l.phase == .discarding && l.stops.all fun x => x.1 ≠ a || decide (seq < x.2)
    | none => false
  | none => false

/-- ACCESS_PERFORMED (R140): element `j` of entry `i` of the load or store queue of an agent is performed at its home, unless an earlier access must come first. -/
def accessPerformed (a : Agent) (inStore : Bool) (i j : Nat) (s : State) : State :=
  match s.task? a with
  | none => s
  | some t =>
    let q := if inStore then t.a.stores else t.a.loads
    match q[i]? with
    | none => s
    | some x =>
      if !s.accessing a x.seq || x.waiting then s
      else
        match x.elems.find? fun e => e.j == j && !e.done with
        | none => s
        | some e =>
          match elemBlocked s a t inStore (q.take i) x e with
          | some w => blockedStep a w s
          | none => performElem a inStore i x e s

/-- ACCESS_PERFORMED (R140): of the control core of cluster `n`, or of the access stream of core `n`. -/
def execAccessPerformed (ctl : Bool) (n : Nat) (inStore : Bool) (entry elem : Nat) (s : State) : Answer :=
  .next (accessPerformed (if ctl then .control n else .access n) inStore entry elem s)

end Sys2Proof.Machine
end

