-- ==== Sys2Proof/Machine/Atomics.lean ====
section
/-! DEFINITION. Fences, DOVETAIL, atomics and PUBLISH, majors 0x13 and 0x14 (spec/06_ordering_and_publication.md R143-R149, R157). -/

namespace Sys2Proof.Machine

open Sys2Proof

/-- The order number of the word after `seq`: a marker orders words before it with words after it. -/
def addMark (c : Ctx) (k : MarkKind) (s : State) : State :=
  s.modTask c.a fun t => pruneMarks { t with a := { t.a with marks := t.a.marks ++ [{ seq := c.seq, kind := k }] } }

/-- FENCE (R144, R145): it takes no entry and holds no issue. -/
def execFence (g : Guard) (ord : MemOrder) (scope : Scope) (s : State) : Answer :=
  issuePure { accCtl g [] with shape := ord ≠ .relaxed } s fun c s => addMark c (.fence ord scope) s
/-- DOVETAIL (R146): one entry in each queue. -/
def execDovetail (g : Guard) (s : State) : Answer :=
  issue (accCtl g []) s fun c s => do
    loadRoom c s
    storeRoom c s
    return addMark c .dovetail s
/-- PUBLISH (R157): one store-queue entry. -/
def execPublish (g : Guard) (ord : MemOrder) (scope : Scope) (a : Scalar) (s : State) : Answer :=
  issue { accCtl g [.src a] with shape := releases ord } s fun c s => do
    storeRoom c s
    let (va, s) := readScalar c a s
    let e ← orTrap (checkAccess c va 0 1 .publish s)
    return s.modTask c.a fun t => { t with a := { t.a with stores := t.a.stores ++ [accessOf c .publish ord scope .none false [e]] } }

/-- The register of an atomic's operand and result. -/
def atomicDst : SDst → LoadDst
  | .s n => .reg n.val
  | .lr => .reg keyLr
  | .sp => .reg keySp
  | _ => .none

/-- An atomic (R147, R148): `pair` names the second operand of ACAS. -/
def atomicWord (g : Guard) (op : AtomicOp) (ord : MemOrder) (scope : Scope) (wide : Bool) (d : SDst) (a : Scalar) (pair : Option Nat) (shape : Bool) (s : State) : Answer :=
  issue { accCtl g [.rw d, .src a] with shape := shape && (ord ≠ .relaxed || scope == .unit) } s fun c s => do
    match pair with | some k => pendCheck (s.task c.a) k | none => .ok ()
    storeRoom c s
    let (opd, s) := readDst c d s
    let (va, s) := readScalar c a s
    let (swap, s) := match pair with | some k => readReg c k s | none => (0#64, s)
    let n := if wide then 8 else 4
    let e ← orTrap (checkAccess c va n n .atomic s)
    return pushStore c (.atomic op wide swap) ord scope (atomicDst d) [{ e with data := opd }] s

/-- AADD (R147) -/
def execAadd (g : Guard) (ord : MemOrder) (scope : Scope) (wide : Bool) (d : SDst) (a : Scalar) (s : State) : Answer := atomicWord g .add ord scope wide d a none true s
/-- AAND (R147) -/
def execAand (g : Guard) (ord : MemOrder) (scope : Scope) (wide : Bool) (d : SDst) (a : Scalar) (s : State) : Answer := atomicWord g .and ord scope wide d a none true s
/-- AOR (R147) -/
def execAor (g : Guard) (ord : MemOrder) (scope : Scope) (wide : Bool) (d : SDst) (a : Scalar) (s : State) : Answer := atomicWord g .or ord scope wide d a none true s
/-- AXOR (R147) -/
def execAxor (g : Guard) (ord : MemOrder) (scope : Scope) (wide : Bool) (d : SDst) (a : Scalar) (s : State) : Answer := atomicWord g .xor ord scope wide d a none true s
/-- AMIN (R147) -/
def execAmin (g : Guard) (ord : MemOrder) (scope : Scope) (wide : Bool) (d : SDst) (a : Scalar) (s : State) : Answer := atomicWord g .min ord scope wide d a none true s
/-- AMAX (R147) -/
def execAmax (g : Guard) (ord : MemOrder) (scope : Scope) (wide : Bool) (d : SDst) (a : Scalar) (s : State) : Answer := atomicWord g .max ord scope wide d a none true s
/-- ASWP (R147) -/
def execAswp (g : Guard) (ord : MemOrder) (scope : Scope) (wide : Bool) (d : SDst) (a : Scalar) (s : State) : Answer := atomicWord g .swp ord scope wide d a none true s
/-- ACAS (R147): d is an even register from s0 to s46, and d + 1 supplies the swap value. -/
def execAcas (g : Guard) (ord : MemOrder) (scope : Scope) (wide : Bool) (d : SDst) (a : Scalar) (s : State) : Answer :=
  match d with
  | .s n => atomicWord g .cas ord scope wide d a (some (n.val + 1)) (decide (n.val % 2 = 0 ∧ n.val ≤ 46)) s
  | _ => atomicWord g .cas ord scope wide d a none false s

end Sys2Proof.Machine
end

