-- ==== Sys2Proof/Machine/Crypto.lean ====
section
/-! DEFINITION. SHA-256 and RSASSA-PKCS1-v1_5 signatures, which the spec names and does not write out (spec/15_module_platform.md R423-R428; notes/assumptions/19.md). -/

namespace Sys2Proof.Machine

open Sys2Proof

/-! SHA-256. -/

/-- The round constants. -/
def shaK : List Nat :=
    [0x428a2f98, 0x71374491, 0xb5c0fbcf, 0xe9b5dba5, 0x3956c25b, 0x59f111f1, 0x923f82a4, 0xab1c5ed5] ++
    [0xd807aa98, 0x12835b01, 0x243185be, 0x550c7dc3, 0x72be5d74, 0x80deb1fe, 0x9bdc06a7, 0xc19bf174] ++
    [0xe49b69c1, 0xefbe4786, 0x0fc19dc6, 0x240ca1cc, 0x2de92c6f, 0x4a7484aa, 0x5cb0a9dc, 0x76f988da] ++
    [0x983e5152, 0xa831c66d, 0xb00327c8, 0xbf597fc7, 0xc6e00bf3, 0xd5a79147, 0x06ca6351, 0x14292967] ++
    [0x27b70a85, 0x2e1b2138, 0x4d2c6dfc, 0x53380d13, 0x650a7354, 0x766a0abb, 0x81c2c92e, 0x92722c85] ++
    [0xa2bfe8a1, 0xa81a664b, 0xc24b8b70, 0xc76c51a3, 0xd192e819, 0xd6990624, 0xf40e3585, 0x106aa070] ++
    [0x19a4c116, 0x1e376c08, 0x2748774c, 0x34b0bcb5, 0x391c0cb3, 0x4ed8aa4a, 0x5b9cca4f, 0x682e6ff3] ++
    [0x748f82ee, 0x78a5636f, 0x84c87814, 0x8cc70208, 0x90befffa, 0xa4506ceb, 0xbef9a3f7, 0xc67178f2]

/-- The initial hash value. -/
def shaInit : List W32 := [0x6a09e667#32, 0xbb67ae85#32, 0x3c6ef372#32, 0xa54ff53a#32, 0x510e527f#32, 0x9b05688c#32, 0x1f83d9ab#32, 0x5be0cd19#32]

/-- A message with its padding: one bit 1, zeros, the length in bits, most significant byte first. -/
def shaPad (bs : List Byte) : List Byte :=
  let n := bs.length
  let z := (119 - n % 64) % 64
  bs ++ [0x80#8] ++ List.replicate z 0#8 ++ (leBytes 8 (8 * n)).reverse

/-- A word of four bytes, most significant first. -/
def beWord (bs : List Byte) : W32 := BitVec.ofNat 32 (leValue (bs.take 4).reverse)

/-- Words 16 to 63 of the schedule; `ws` holds the words so far, latest first. -/
def shaSchedule : Nat → List W32 → List W32
  | 0, ws => ws
  | n + 1, ws =>
    let w (i : Nat) : W32 := ws.getD (i - 1) 0#32
    let x := w 15
    let y := w 2
    let s0 := x.rotateRight 7 ^^^ x.rotateRight 18 ^^^ x >>> 3
    let s1 := y.rotateRight 17 ^^^ y.rotateRight 19 ^^^ y >>> 10
    shaSchedule n ((w 16 + s0 + w 7 + s1) :: ws)

/-- The working variables a to h. -/
structure ShaVars where
  a : W32
  b : W32
  c : W32
  d : W32
  e : W32
  f : W32
  g : W32
  h : W32
deriving DecidableEq, Repr

/-- One round with its constant and its schedule word. -/
def shaRound (v : ShaVars) (kw : Nat × W32) : ShaVars :=
  let s1 := v.e.rotateRight 6 ^^^ v.e.rotateRight 11 ^^^ v.e.rotateRight 25
  let ch := (v.e &&& v.f) ^^^ (~~~v.e &&& v.g)
  let t1 := v.h + s1 + ch + BitVec.ofNat 32 kw.1 + kw.2
  let s0 := v.a.rotateRight 2 ^^^ v.a.rotateRight 13 ^^^ v.a.rotateRight 22
  let maj := (v.a &&& v.b) ^^^ (v.a &&& v.c) ^^^ (v.b &&& v.c)
  { a := t1 + (s0 + maj), b := v.a, c := v.b, d := v.c, e := v.d + t1, f := v.e, g := v.f, h := v.g }

/-- One block of 64 bytes. -/
def shaBlock (h : List W32) (block : List Byte) : List W32 :=
  let ws := (shaSchedule 48 ((List.range 16).map fun i => beWord (block.drop (4 * i))).reverse).reverse
  let i (n : Nat) : W32 := h.getD n 0#32
  let v0 : ShaVars := { a := i 0, b := i 1, c := i 2, d := i 3, e := i 4, f := i 5, g := i 6, h := i 7 }
  let v := (shaK.zip ws).foldl shaRound v0
  [i 0 + v.a, i 1 + v.b, i 2 + v.c, i 3 + v.d, i 4 + v.e, i 5 + v.f, i 6 + v.g, i 7 + v.h]

/-- SHA-256: 32 bytes. -/
def sha256 (bs : List Byte) : List Byte :=
  let p := shaPad bs
  let h := (List.range (p.length / 64)).foldl (fun h i => shaBlock h ((p.drop (64 * i)).take 64)) shaInit
  h.flatMap fun w => (leBytes 4 w.toNat).reverse

/-! RSA-3072 with exponent 65,537. -/

/-- `n` squarings modulo `m`. -/
def squarings : Nat → Nat → Nat → Nat
  | 0, _, x => x
  | n + 1, m, x => squarings n m (x * x % m)

/-- x^65537 modulo m. -/
def rsaPublic (m x : Nat) : Nat := squarings 16 m (x % m) * x % m

/-- DigestInfo of SHA-256 before its digest. -/
def digestInfo : List Byte :=
  [0x30#8, 0x31#8, 0x30#8, 0x0D#8, 0x06#8, 0x09#8, 0x60#8, 0x86#8, 0x48#8, 0x01#8] ++
    [0x65#8, 0x03#8, 0x04#8, 0x02#8, 0x01#8, 0x05#8, 0x00#8, 0x04#8, 0x20#8]

/-- The encoded message of 384 bytes. -/
def encodedMessage (msg : List Byte) : List Byte := [0#8, 1#8] ++ List.replicate 330 0xFF#8 ++ [0#8] ++ digestInfo ++ sha256 msg

/-- Does a signature of 384 bytes, most significant first, verify over a message under a modulus, least significant byte first? -/
def rsaVerifies (modulus msg signature : List Byte) : Bool :=
  let m := leValue modulus
  let x := leValue signature.reverse
  signature.length == 384 && decide (x < m) && rsaPublic m x == leValue (encodedMessage msg).reverse

/-- x^d modulo m, for an exponent of 3,072 bits. -/
def rsaPrivate (m d x : Nat) : Nat := (List.range 3072).foldr (fun i y => let z := y * y % m; if d.testBit i then z * x % m else z) (1 % m)

/-- The signature of a message under a key: its modulus, least significant byte first, and its private exponent. -/
def rsaSign (modulus : List Byte) (d : Nat) (msg : List Byte) : List Byte :=
  let m := leValue modulus
  (leBytes 384 (rsaPrivate m d (leValue (encodedMessage msg).reverse % m))).reverse

end Sys2Proof.Machine
end

