-- ==== Sys2Proof/Machine/JigRead.lean ====
section
/-! DEFINITION. Reads of D-space that the OB3 makes itself, and jig records as read and checked (spec/01_cores_tasks_domains.md R21, R29; spec/11_jigs_queues_timetables.md R297, R298; spec/08 R226-R229). -/

namespace Sys2Proof.Machine

open Sys2Proof

/-! Reads of D-space. -/

/-- What a read of D-space by the OB3 meets. -/
inductive DResult where
  | ok (bs : List Byte) (s : State)
  /-- It waits on a page request. -/
  | wait (s : State)
  | failed (s : State)
  /-- An uncorrectable error at an address (14 R389). -/
  | ecc (addr : Nat) (s : State)
deriving DecidableEq, Repr

/-- A view for accesses that go through no window. -/
def noView (g : Nat) : View := { a := .control g, window := [], sels := 0#4 }

/-- Read `n` bytes of a partition's D-space for `who`, by cluster g's translation (01 R21). -/
def dRead (p g : Nat) (who : Reader) (addr n : Nat) (s : State) : DResult :=
  let mine := (s.part p).dreads.filter (·.who == who)
  if mine.any (·.failed) then .failed (s.modPart p fun pt => { pt with dreads := pt.dreads.filter fun d => d.who ≠ who })
  else if !mine.isEmpty then .wait s
  else
    match cpRead { p := p, g := g, view := noView g, cached := false, refused := false } true false addr n s with
    | .ok (bs, s) => .ok bs s
    | .error (.fault page _ s) =>
      .wait ((requestPage p g page false s).modPart p fun pt => { pt with dreads := pt.dreads ++ [{ who := who, page := page, failed := false }] })
    | .error (.ring s) | .error (.hold s) => .wait s
    | .error (.err i s) => if i.code = .eccunc then .ecc i.addr s else .failed s

/-- The lowest-numbered cluster of a partition. -/
def State.lowCluster (s : State) (p : Nat) : Nat := (s.clustersOf p).headD 0

/-! Domains (01 R29). -/

/-- The cores of a partition that are members of a domain. -/
def members (s : State) (p : Nat) (l : Launch) (level dsel : Nat) : List Nat :=
  let cores := match level with
    | 0 => if s.hasCore p dsel && decide (dsel < 4608) then [dsel] else []
    | 1 => if s.hasCluster p dsel then (List.range 24).map (24 * dsel + ·) else []
    | 2 => ((s.clustersOf p).filter fun g => stackOfCluster g == dsel).flatMap fun g => (List.range 24).map (24 * g + ·)
    | _ => (s.clustersOf p).flatMap fun g => (List.range 24).map (24 * g + ·)
  cores.filter fun c => level == 0 || (tget 1#5 l.dmap c).getLsbD level

/-- The clusters that hold a member, ascending. -/
def memberClusters (s : State) (p : Nat) (l : Launch) (level dsel : Nat) : List Nat :=
  (s.clustersOf p).filter fun g => (members s p l level dsel).any fun c => clusterOfCore c == g

/-- Is a domain's name in range for the partition (R298), and has it a member here (01 R29)? A level-4 domain without a member on this device counts as one without members (log entry 95, DEDUCED). -/
def domainOk (s : State) (p : Nat) (l : Launch) (level dsel : Nat) : Bool :=
  decide (level ≤ 4) && (level ≤ 2 || dsel == 0) && (level ≠ 2 || decide (dsel < 4)) && (level ≠ 4 || l.lrec.multi) &&
    !(members s p l level dsel).isEmpty

/-! Jig records (R297, R298). -/

/-- A record from its 64 bytes. -/
def JigRec.ofBytes (bs : List Byte) : JigRec :=
  let f (o n : Nat) := fieldOf bs o n
  { aentry := BitVec.ofNat 64 (f 0 8), xentry := BitVec.ofNat 64 (f 8 8), spinit := BitVec.ofNat 64 (f 0x10 8),
    ext := (List.range 6).map fun i => f (0x18 + 2 * i) 2, ndim := f 0x24 1, prio := f 0x25 1, window := f 0x26 1, queue := f 0x27 1,
    order := (List.range 6).map fun i => bitsOf (f 0x28 4) (3 * i + 2) (3 * i), level := bitsOf (f 0x2C 2) 2 0, dsel := bitsOf (f 0x2C 2) 15 3,
    ufirst := bitsOf (f 0x2E 2) 5 0, ucount := bitsOf (f 0x2E 2) 12 6, maxdepth := f 0x30 4,
    bpin := bitOf (f 0x34 4) 0, retrec := bitOf (f 0x34 4) 1, act := bitsOf (f 0x34 4) 3 2, arg := BitVec.ofNat 64 (f 0x38 8) }

/-- Reserved bits of a record are 0. -/
def jigReserved (bs : List Byte) : Bool :=
  let f (o n : Nat) := fieldOf bs o n
  decide (f 0x25 1 < 8) && decide (f 0x27 1 < 16) && decide (f 0x28 4 < 2 ^ 18) && decide (f 0x2E 2 < 2 ^ 13) && decide (f 0x34 4 < 16)

/-- The declared extents. -/
def JigRec.extents (j : JigRec) : List Nat := j.ext.take j.ndim

/-- The number of iterations in the whole space. -/
def JigRec.space (j : JigRec) : Nat := j.extents.foldl (· * ·) 1

/-- Is a record consistent for a launch (R298)? -/
def jigOk (s : State) (p : Nat) (l : Launch) (bs : List Byte) (j : JigRec) : Bool :=
  jigReserved bs && j.aentry.toNat % 4 == 0 && j.xentry.toNat % 4 == 0 &&
    decide (1 ≤ j.ndim) && decide (j.ndim ≤ 6) && j.extents.all (fun e => decide (1 ≤ e)) && (j.ext.drop j.ndim).all (· == 0) &&
    decide (j.space ≤ 2 ^ 32 - 1) &&
    ((List.range j.ndim).all fun d => (j.order.take j.ndim).contains d) && (j.order.drop j.ndim).all (· == 0) &&
    decide (j.window < l.lrec.wscount) && (l.tt.queues.getD j.queue .none).mode == 1 &&
    decide (j.ufirst + j.ucount ≤ 64) && domainOk s p l j.level j.dsel

/-- The iterations of this device (R299; 01 R37): first and count of the outermost dimension's share. -/
def levelShare (l : Launch) (n : Nat) : Nat × Nat :=
  match l.group with
  | none => (0, n)
  | some g =>
    let q := n / g.size
    let m := n % g.size
    (g.rank * q + Nat.min g.rank m, q + (if g.rank < m then 1 else 0))

/-- First iteration number and number of iterations of a jig on this device. -/
def iterations (l : Launch) (j : JigRec) : Nat × Nat :=
  if j.level ≠ 4 then (0, j.space)
  else
    let outer := j.ext.getD (j.order.getD 0 0) 1
    let (start, len) := levelShare l outer
    let inner := j.space / outer
    (start * inner, len * inner)

/-- The indices of iteration `n` by dimension (R299). -/
def indices (j : JigRec) (n : Nat) : List Nat :=
  let go : List Nat → Nat → List (Nat × Nat) := fun ds n =>
    (ds.reverse.foldl (fun (acc : List (Nat × Nat) × Nat) d =>
      let e := j.ext.getD d 1
      ((d, acc.2 % e) :: acc.1, acc.2 / e)) ([], n)).1
  let xs := go (j.order.take j.ndim) n
  (List.range 6).map fun d => tget 0 xs d

end Sys2Proof.Machine
end

