-- ==== Sys2Proof/Machine/LaunchRead.lean ====
section
/-! DEFINITION. The structures of a launch as the OB3 reads and checks them: launch record, window set, domain map, process-group table, timetable, park area (spec/01_cores_tasks_domains.md R19-R21, R34, R35; spec/05 R119-R122; spec/06 R156; spec/11 R301-R304). -/

namespace Sys2Proof.Machine

open Sys2Proof

/-- A field of a record as a 64-bit word. -/
def fieldW (bs : List Byte) (off : Nat) : W64 := BitVec.ofNat 64 (fieldOf bs off 8)

/-- Is an address a 64-byte aligned D-space address (01 R20; 08 R194)? -/
def dspaceOk (a al : Nat) : Bool := a % al == 0 && decide (a < 2 ^ 48)

/-! The launch record (01 R19). -/

def LaunchRec.ofBytes (bs : List Byte) : LaunchRec :=
  let f (o n : Nat) := fieldOf bs o n
  { launchid := f 0 4, multi := bitOf (f 4 4) 0, parken := bitOf (f 4 4) 1, ttbase := f 8 8, wsbase := f 0x10 8, wscount := f 0x18 2,
    parkslots := f 0x1A 2, pgtbase := f 0x20 8, dmapbase := f 0x28 8, ctlbase := fieldW bs 0x30, parkbase := f 0x38 8 }

/-- The checks of the record that need nothing else (01 R20). -/
def recordOk (bs : List Byte) : Bool :=
  let r := LaunchRec.ofBytes bs
  decide (fieldOf bs 4 4 < 4) && fieldOf bs 0x1C 4 == 0 &&
    dspaceOk r.ttbase 64 && dspaceOk r.wsbase 64 && dspaceOk r.pgtbase 64 && dspaceOk r.dmapbase 64 && dspaceOk r.parkbase 4096 &&
    decide (1 ≤ r.wscount) && decide (r.wscount ≤ 256) && decide (r.parkslots ≤ 64) &&
    (r.multi || r.pgtbase == 0) && ((r.parken && r.parkslots ≠ 0) || r.parkbase == 0)

/-! Windows (05 R120-R122). -/

/-- The capacity that an entry of a type is checked against (05 R121; R122 item 4 for DEFER). -/
def winCapacity (s : State) (p : Nat) (ty : WinType) (index : Nat) (back : Bool) : Nat :=
  let r := (s.part p).regs
  let die (st : Nat) : Nat := (r.pdie.getD st .none).size
  match ty with
  | .unit | .peer => 2 ^ 19
  | .clus => 2 ^ 24
  | .wbank => 2 ^ 32
  | .gbuf => 2 ^ 15
  | .die | .comp => if back then r.plp.size else die index
  | .veneer => die index
  | .defer =>
    if back then r.plp.size
    else (((List.range 4).filter fun st => (s.clustersOf p).any fun g => stackOfCluster g == st).map die).foldl Nat.min (2 ^ 31)

/-- The types by number (05 R121). -/
def winTypes : List WinType := [.unit, .peer, .clus, .die, .wbank, .gbuf, .defer, .comp, .veneer]

/-- INDEX and BACK as a type allows them (R122 item 3). -/
def winPlaceOk (ty : WinType) (index : Nat) (back : Bool) : Bool :=
  match ty with
  | .peer => decide (index ≤ 23) && !back
  | .die => if back then index == 0 else decide (index ≤ 3)
  | .comp | .veneer => decide (index ≤ 3) && !back
  | .defer => index == 0
  | _ => index == 0 && !back

/-- Permissions as a type allows them (R122 item 5). -/
def winPermOk (ty : WinType) (x w rd : Bool) : Bool :=
  match ty with
  | .unit | .clus | .die => true
  | .peer => !x
  | .wbank | .gbuf | .veneer => !x && !w
  | .defer | .comp => rd && w && !x

/-- An entry from its two words: none when it breaks R122, `some none` when it is not in use. -/
def winEntry? (s : State) (p : Nat) (w0 w1 : Nat) : Option (Option WinEntry) :=
  if !bitOf w0 0 then (if w0 = 0 && w1 = 0 then some none else none)
  else
    let size := bitsOf w0 11 7
    let bytes := 2 ^ (size + 12)
    match winTypes[bitsOf w1 11 8]? with
    | none => none
    | some ty =>
      let e : WinEntry :=
        { vbase := bitsOf w0 63 12, size := size, x := bitOf w0 6, w := bitOf w0 5, rd := bitOf w0 4, toff := bitsOf w1 63 12, typ := ty,
          index := bitsOf w1 7 3, back := bitOf w1 2 }
      let span := if ty = .veneer then 2 * bytes else bytes
      if bitsOf w0 3 1 = 0 && bitsOf w1 1 0 = 0 && size ≤ 24 && e.vbase * 4096 % bytes = 0 && e.toff * 4096 % bytes = 0 &&
          winPlaceOk ty e.index e.back && e.toff * 4096 + span ≤ winCapacity s p ty e.index e.back && winPermOk ty e.x e.w e.rd
      then some (some e) else none

/-- Do no two entries of a window overlap (R122 item 6)? -/
def winApart : List WinEntry → Bool
  | [] => true
  | e :: r => r.all (fun f => !meet (e.vbase * 4096) e.bytes (f.vbase * 4096) f.bytes) && winApart r

/-- A window from its 2 KiB. -/
def window? (s : State) (p : Nat) (bs : List Byte) : Option (List WinEntry) :=
  let es := (List.range 128).map fun i => winEntry? s p (fieldOf bs (16 * i) 8) (fieldOf bs (16 * i + 8) 8)
  if es.all Option.isSome then
    let l := es.filterMap fun e => e.getD none
    if winApart l then some l else none
  else none

/-- The window set. -/
def windows? (s : State) (p n : Nat) (bs : List Byte) : Option (List (List WinEntry)) :=
  (List.range n).mapM fun w => window? s p ((bs.drop (2048 * w)).take 2048)

/-- The veneered buffers that the windows name (06 R156). -/
def veneersOf (ws : List (List WinEntry)) : List Veneer :=
  (ws.flatMap fun w => w.filter (·.typ == .veneer)).foldl (fun l e =>
    if l.any fun v => v.stack == e.index && v.toff == e.toff * 4096 && v.size == e.bytes then l
    else l ++ [{ stack := e.index, toff := e.toff * 4096, size := e.bytes, sel := false, past := [] }]) []

/-- Is the publication table sound (06 R156)? -/
def veneersOk (l : List Veneer) : Bool := apart l && (List.range 4).all fun st => decide ((l.filter (·.stack == st)).length ≤ 64)
where
  /-- No two buffers overlap. -/
  apart : List Veneer → Bool
    | [] => true
    | v :: r => r.all (fun u => u.stack ≠ v.stack || !meet v.toff (2 * v.size) u.toff (2 * u.size)) && apart r

/-! The domain map (01 R19). -/

/-- Membership bits of the partition's cores; none for a reserved bit. -/
def domainMap? (s : State) (p : Nat) (bs : List Byte) : Option (Table (BitVec 5)) :=
  (((s.clustersOf p).flatMap fun g => (List.range 24).map (24 * g + ·)).mapM fun c =>
    let b := (bs.getD c 0#8).toNat
    if b < 32 then some (c, BitVec.ofNat 5 (b ||| 1)) else none)

/-! The process-group table (01 R34, R35). -/

/-- An entry: DEVID, PORTRANK bytes, PORTV; `clear` when its reserved bytes are 0. -/
structure PgEntry where
  dev : W64
  ranks : List Nat
  portv : Nat
  clear : Bool
deriving DecidableEq, Repr

def PgEntry.ofBytes (bs : List Byte) : PgEntry :=
  { dev := fieldW bs 0, ranks := (List.range 8).map fun i => fieldOf bs (8 + i) 1, portv := fieldOf bs 0x10 1, clear := (bs.drop 0x11).all (· == 0#8) }

/-- The ranks that an entry's ports reach: (port, rank). -/
def PgEntry.ports (e : PgEntry) : List (Nat × Nat) := (List.range 8).filterMap fun i => if bitOf e.portv i then some (i, e.ranks.getD i 0) else none

/-- The entries of a table. -/
def pgEntries (bs : List Byte) : List PgEntry := (List.range (fieldOf bs 2 2)).map fun i => PgEntry.ofBytes ((bs.drop (32 + 32 * i)).take 32)

/-- Is the table sound (R35)? -/
def pgOk (bs : List Byte) : Bool :=
  let n := fieldOf bs 2 2
  let es := pgEntries bs
  let names (a b : Nat) : Bool := match es[a]? with | some e => e.ports.any (·.2 == b) | none => false
  fieldOf bs 0 2 ≠ 0 && decide (1 ≤ n) && decide (n ≤ 256) && ((bs.drop 4).take 28).all (· == 0#8) && es.all (·.clear) &&
    (List.range n).all (fun i => (List.range i).all fun j => (es[i]?.map (·.dev)) != (es[j]?.map (·.dev))) &&
    (List.range n).all fun k =>
      match es[k]? with
      | none => true
      | some e =>
        (List.range 8).all (fun i => if bitOf e.portv i then decide (e.ranks.getD i 0 < n) && e.ranks.getD i 0 ≠ k else e.ranks.getD i 0 == 0xFF) &&
          e.ports.all fun x => names x.2 k

/-- Membership of this device (R34): none when it is absent. -/
def pgGroup (bs : List Byte) : Option Group :=
  let es := pgEntries bs
  match findIdx? (fun (e : PgEntry) => e.dev == Config.deviceId) es with
  | none => none
  | some k => some { pgid := fieldOf bs 0 2, rank := k, size := fieldOf bs 2 2, crc := crc32c bs, ports := (es[k]?.map (·.ports)).getD [] }

/-! The timetable (11 R301-R304). -/

def QDesc.ofBytes (bs : List Byte) : QDesc := { mode := fieldOf bs 0 1, rstack := fieldOf bs 1 1, rlog := fieldOf bs 2 1, roff := fieldOf bs 8 8 }

/-- Is a descriptor sound (R302)? `task`: it is a task queue's. -/
def qdescOk (bs : List Byte) (task : Bool) : Bool :=
  let d := QDesc.ofBytes bs
  decide (d.rstack ≤ 3) && fieldOf bs 3 5 == 0 && d.roff % 4096 == 0 && (d.rlog == 0 || (decide (5 ≤ d.rlog) && decide (d.rlog ≤ 20))) &&
    (d.rlog ≠ 0 || (d.rstack == 0 && d.roff == 0)) &&
    (if task then decide (d.mode ≤ 2) && (d.mode ≠ 0 || d.rlog == 0) else d.mode == 0)

/-- The spill rings of a partition: stack, start, length. -/
def spillRings (gs : List Nat) (e : Nat) (d : QDesc) : List (Nat × Nat × Nat) :=
  if d.rlog = 0 then [] else gs.map fun g => (d.rstack, d.roff + g * e * 2 ^ d.rlog, e * 2 ^ d.rlog)

/-- Do rings lie in their allotments, and apart (R304)? -/
def ringsOk (s : State) (p : Nat) (evqd : QDesc) (qs : List QDesc) : Bool :=
  let gs := s.clustersOf p
  let rs := (evqd, 16) :: qs.map fun d => (d, 32)
  let all := rs.flatMap fun d => spillRings gs d.2 d.1
  all.all (fun r => decide (r.2.1 + r.2.2 ≤ ((s.part p).regs.pdie.getD r.1 .none).size)) && apart all
where
  /-- No two rings overlap. -/
  apart : List (Nat × Nat × Nat) → Bool
    | [] => true
    | r :: rest => rest.all (fun q => q.1 ≠ r.1 || !meet r.2.1 r.2.2 q.2.1 q.2.2) && apart rest

/-- The header is sound (R301). -/
def timetableOk (bs : List Byte) : Bool :=
  let f (o n : Nat) := fieldOf bs o n
  decide (1 ≤ f 0 4) && decide (f 0 4 ≤ 16777216) && decide (1 ≤ f 4 4) && decide (f 8 2 ≤ 4096) && fieldOf bs 0xA 6 == 0 &&
    ((bs.drop 0x20).take 32).all (· == 0#8) && qdescOk ((bs.drop 0x10).take 16) false &&
    (List.range 16).all fun q => qdescOk ((bs.drop (0x40 + 16 * q)).take 16) true

/-- The timetable without its nodes. -/
def Timetable.ofBytes (bs : List Byte) : Timetable :=
  { framelen := fieldOf bs 0 4, nframe := fieldOf bs 4 4, evqd := QDesc.ofBytes ((bs.drop 0x10).take 16),
    queues := (List.range 16).map fun q => QDesc.ofBytes ((bs.drop (0x40 + 16 * q)).take 16), nodes := [] }

/-- Dependences of a node. -/
def nodeDeps (bs : List Byte) : List Nat := ((List.range 3).map fun i => fieldOf bs (0x10 + 2 * i) 2).filter (· ≠ 0xFFFF)

/-- Is node `i` sound, but for its jig record (R303, R304)? -/
def nodeOk (i framelen : Nat) (windows : List (List WinEntry)) (bs : List Byte) : Bool :=
  let f (o n : Nat) := fieldOf bs o n
  let fl := f 0x17 1
  let cond := bitOf fl 0
  dspaceOk (f 0 8) 64 && decide (f 8 4 < framelen) && decide (1 ≤ f 0xC 2) && decide (f 0xE 2 < f 0xC 2) &&
    (nodeDeps bs).all (fun d => decide (d < i)) && decide (fl < 4) &&
    (if cond then
      (nodeDeps bs).isEmpty && f 0x18 8 % 4 == 0 &&
        (match windows[f 0x16 1]? with
         | some w => match translateEntry w false (fieldW bs 0x18) .load with | .ok _ => true | .error _ => false
         | none => false)
     else f 0x16 1 == 0 && f 0x18 8 == 0)

/-- A node with its record. -/
def TNode.ofBytes (bs : List Byte) (j : JigRec) : TNode :=
  let f (o n : Nat) := fieldOf bs o n
  { relt := f 8 4, period := f 0xC 2, phase := f 0xE 2, deps := nodeDeps bs, pwin := f 0x16 1, cond := bitOf (f 0x17 1) 0, pinv := bitOf (f 0x17 1) 1,
    pva := fieldW bs 0x18, jrec := j }

/-! The park area (01 R19). -/

/-- The flat addresses of the pages of the park area; none when a page breaks R19. A page whose leaf has the compressed bit breaks it too: R19 does not speak of that bit (log entry 94, DESIGN CHOICE). -/
def parkPages? (s : State) (p : Nat) (r : LaunchRec) : Option (List Nat) :=
  if !r.parken then some []
  else (List.range (192 * r.parkslots * 0x44)).mapM fun i =>
    match walk s p (r.parkbase + 4096 * i) with
    | .leaf e =>
      if locTgt e.leaf = 3 && bitOf e.leaf 2 && bitOf e.leaf 3 && !bitOf e.leaf 4 then
        match leafPlace s p (r.parkbase + 4096 * i) e with
        | some (.flat a) => some (a / 4096 * 4096)
        | _ => none
      else none
    | _ => none

end Sys2Proof.Machine
end

