-- ==== Sys2Proof/Machine/QueueUnit.lean ====
section
/-! DEFINITION. Data queues and the event queue, major 0x1C, and refills (spec/11_jigs_queues_timetables.md R312-R315, R321-R323). -/

namespace Sys2Proof.Machine

open Sys2Proof

/-- An access of a word at the queue unit of a cluster, made at issue (R315, R323). -/
def unitAccess (c : Ctx) (store : Bool) (ord : MemOrder) (g : Nat) : Access × AccElem :=
  let e := innerElem 0#64 (.queueUnit g) 0
  ({ innerAccess c ord .device e with op := if store then .store else .load }, e)

/-- May the word be performed at the queue unit now, as its task's fences, acquires and releases go (06 R145, R148)? -/
def unitReady (c : Ctx) (store : Bool) (ord : MemOrder) (g : Nat) (s : State) : Except Stop Unit :=
  let t := s.task c.a
  let (x, e) := unitAccess c store ord g
  if marksAllow c.a t x e && accessesAllow c.a t x e then .ok () else holdFor .turn

/-- A release of a word at issue: it holds until every access of its task before it is performed within the scope, at system scope its exact-class messages too (06 R145, R152). -/
def releaseReady (c : Ctx) (sc : Scope) (s : State) : Except Stop Unit := if releaseMet c.a (s.task c.a) c.seq sc then .ok () else holdFor .turn

/-- What QPUSH, QPOP and EVQPOP hold on is counted as theirs (R331). -/
def queueHold {α : Type} : Except Stop α → Except Stop α
  | .error (.hold .turn) | .error (.hold .accesses) => .error (.hold .queueUnit)
  | .error (.keep bs .turn) | .error (.keep bs .accesses) => .error (.keep bs .queueUnit)
  | r => r

/-- The operand that a word reads in memory: what it has kept of it while it held, or what `read` finds. The rest of the word is tried with it, and keeps it while it holds. -/
def withOperand (c : Ctx) (s : State) (read : Except Stop (List Byte)) (rest : List Byte → Except Stop State) : Except Stop State := do
  let bs ← match (s.task c.a).a.kept with | some k => pure k | none => read
  keeping bs (rest bs)

/-- The descriptor of task queue q of the partition's launch (R302). -/
def State.qdesc (s : State) (p q : Nat) : QDesc :=
  match (s.part p).launch with | some l => l.tt.queues.getD q .none | none => .none

def State.queue (s : State) (g q : Nat) : TaskQueue := tget .empty (s.cluster g).queues q
def State.setQueue (s : State) (g q : Nat) (x : TaskQueue) : State := s.modCluster g fun k => { k with queues := tput k.queues q x }

/-- The queue that a word names: QBAD for a nonzero bit of a[63:4], or a queue that is not in data mode. -/
def dataQueue (c : Ctx) (x : W64) (s : State) : Except Stop (Nat × QDesc) :=
  let q := x.toNat
  if q ≥ 16 || (s.qdesc (s.partOf c.a) q).mode ≠ 2 then err .qbad else .ok (q, s.qdesc (s.partOf c.a) q)

/-- Store bytes at an aligned address, as a store of the word (06 R140): the elements of eight bytes, checked before the queue or ring is looked at (R330; log entry 103, DEDUCED). -/
def checkStore (c : Ctx) (va : W64) (n : Nat) (s : State) : Except Stop (List AccElem) := do
  let e ← orTrap (checkAccess c va n n .store s)
  return (List.range (n / 8)).map fun i =>
    { e with j := i, va := va + BitVec.ofNat 64 (8 * i), n := 8, tgt := match e.tgt with | .byte b => .byte (b + 8 * i) | t => t }

/-- Give the elements their data. -/
def withBytes (es : List AccElem) (bs : List Byte) : List AccElem :=
  es.map fun e => { e with data := BitVec.ofNat 64 (leValue ((bs.drop (8 * e.j)).take 8)) }

/-- QPUSH (R315): a release at device scope; the 32 bytes are read once, then the push waits while queue and ring are full (R313). -/
def execQpush (g : Guard) (a b : Scalar) (s : State) : Answer :=
  issue (accCtl g [.src a, .src b]) s fun c s =>
    let (x, s) := readScalar c a s
    let (y, s) := readScalar c b s
    queueHold (withOperand c s (readBlock c y 32 s) fun bs => do
      let (q, d) ← dataQueue c x s
      let cl := c.a.cluster
      unitReady c true .release cl s
      let s := countRead c y s
      let k := s.queue cl q
      let at_ := ringAddr s (s.partOf c.a) d cl 32 ((k.head + k.count) % ringSize d)
      if k.count = 0 && k.data.length < 32 then return s.setQueue cl q { k with data := k.data ++ [bs] }
      if k.count ≥ ringSize d || !s.owned at_ then holdFor (.wait .queue)
      return ((s.write at_ bs).setQueue cl q { k with count := k.count + 1 }).clusCtr cl .qspills 1)

/-- QPOP (R315): 0 from an empty queue; else 1, with the head entry stored. It holds while a refill is due. -/
def execQpop (g : Guard) (d : SDst) (a b : Scalar) (s : State) : Answer :=
  issue (accCtl g [.dst d, .src a, .src b]) s fun c s => queueHold do
    storeRoom c s
    let (x, s) := readScalar c a s
    let (y, s) := readScalar c b s
    let es ← checkStore c y 32 s
    let (q, _) ← dataQueue c x s
    let cl := c.a.cluster
    unitReady c false .relaxed cl s
    let k := s.queue cl q
    match k.data with
    | [] => if k.count > 0 then holdFor .queueUnit else return writeDst c d 1 0#64 s
    | bs :: rest =>
      let s := s.setQueue cl q { k with data := rest }
      return pushStore c .store .relaxed .unit .none (withBytes es bs) (writeDst c d 1 1#64 s)

/-- QDEPTH (R315) -/
def execQdepth (g : Guard) (d : SDst) (a : Scalar) (s : State) : Answer :=
  issue (accCtl g [.dst d, .src a]) s fun c s => do
    let (x, s) := readScalar c a s
    let (q, _) ← dataQueue c x s
    let cl := c.a.cluster
    unitReady c false .relaxed cl s
    let k := s.queue cl q
    return writeDst c d 1 (BitVec.ofNat 64 (k.data.length + k.count)) s

/-- EVQPOP (R323): the room that it makes is the oldest waiting poster's (R322). -/
def execEvqpop (g : Guard) (d : SDst) (a : Scalar) (s : State) : Answer :=
  issue (accCtl g [.dst d, .src a]) s fun c s => queueHold do
    storeRoom c s
    let (x, s) := readScalar c a s
    let es ← checkStore c x 16 s
    let cl := c.a.cluster
    unitReady c false .relaxed cl s
    let q := (s.cluster cl).evq
    match q.hw with
    | [] => if q.count > 0 then holdFor .queueUnit else return writeDst c d 1 0#64 s
    | r :: rest =>
      let s := evqFlushAll (s.partOf c.a) cl (s.modCluster cl fun k => { k with evq := { q with hw := rest } })
      return pushStore c .store .relaxed .unit .none (withBytes es r.bytes) (writeDst c d 1 1#64 s)

/-- EVQPUSH (R323): a release at device scope. Its record takes its place behind those that wait at the queue (R322), and the word completes once it has been posted. -/
def execEvqpush (g : Guard) (a b : Scalar) (s : State) : Answer :=
  issue (accCtl g [.src a, .src b]) s fun c s => do
    let (x, s) := readScalar c a s
    let (y, s) := readScalar c b s
    let p := s.partOf c.a
    let cl := x.toNat
    if cl ≥ 256 || !s.hasCluster p cl then err .evqbad
    let q : EvPost := { rec_ := { kind := 0xC, src := match c.a.core? with | some k => k % 24 | none => 31, stat := 0, idx := 0, data := y }, poster := .word c.a }
    match postStage s cl q with
    | .posted => return postTaken cl q s
    | .line => holdFor .line
    | .fresh =>
      unitReady c true .release cl s
      if evqTurn s p cl then return evqPost p cl q.rec_ s else holdFor (.place cl q.rec_)

/-! Queues of jig entries (R312-R314). -/

/-- The bytes of a jig entry as it stands in a ring (R314). -/
def entryBytes (l : Launch) (e : DEntry) : List Byte :=
  let jix := match e.jig.bind (tget? l.jigs ·) with | some j => j.slot | none => 0
  leBytes 2 jix ++ leBytes 1 e.prio ++ leBytes 1 e.sel.toNat ++ leBytes 4 e.frame ++ leBytes 8 e.rtick ++ leBytes 16 0

/-- The jig that a refilled entry names: `kept`, the one that was pushed, while its number still stands in the entry; else one of that number, if there is one (log entry 30). -/
def jigOfIndex (l : Launch) (kept : Option Nat) (jix : Nat) : Option Nat :=
  match kept.bind (tget? l.jigs ·) with
  | some j => if j.slot = jix then kept else other
  | none => other
where
  /-- The first jig with the number. -/
  other : Option Nat := (l.jigs.find? fun x => x.2.slot == jix).map (·.1)

/-- A refilled entry holds the bytes it finds (R313). -/
def DEntry.ofBytes (l : Launch) (kept : Option Nat) (bs : List Byte) : DEntry :=
  { jig := jigOfIndex l kept (fieldOf bs 0 2), prio := fieldOf bs 2 1, sel := BitVec.ofNat 4 (fieldOf bs 3 1), frame := fieldOf bs 4 4, rtick := fieldOf bs 8 8, age := 0, agedAt := 0 }

/-- Push entries that wait, as far as there is room: to the hardware part while the ring is empty, else to the ring (R313). -/
def settle (p g q : Nat) (l : Launch) : Nat → State → State
  | 0, s => s
  | n + 1, s =>
    let k := s.queue g q
    let d := l.tt.queues.getD q .none
    let at_ := ringAddr s p d g 32 ((k.head + k.count) % ringSize d)
    match k.dispWait with
    | [] => s
    | e :: rest =>
      if k.dispRing.isEmpty && k.disp.length < 32 then
        settle p g q l n (s.setQueue g q { k with disp := k.disp ++ [e], dispWait := rest })
      else if k.count < ringSize d && s.owned at_ then
        settle p g q l n (((s.write at_ (entryBytes l e)).setQueue g q { k with dispRing := k.dispRing ++ [e.jig], count := k.count + 1, dispWait := rest }).clusCtr g .qspills 1)
      else s

/-- Push a jig's entry onto a queue of a cluster. -/
def pushEntry (p q id : Nat) (j : Jig) (l : Launch) (s : State) (g : Nat) : State :=
  let k := s.queue g q
  let e : DEntry := { jig := some id, prio := j.jrec.prio, sel := j.sels, frame := j.frame % 2 ^ 32, rtick := j.rtick, age := 0, agedAt := 0 }
  settle p g q l (k.dispWait.length + 1) (s.setQueue g q { k with dispWait := k.dispWait ++ [e] })

/-- Places at the head of a ring whose entries the OB3 has removed are free again. -/
def TaskQueue.trim (d : QDesc) (k : TaskQueue) : TaskQueue :=
  let gone := (k.dispRing.takeWhile Option.isNone).length
  { k with dispRing := k.dispRing.drop gone, head := (k.head + gone) % Nat.max 1 (ringSize d), count := k.count - gone }

/-- Take a jig's entry out of a queue (R316 item 3). In the ring its place is passed over (log entry 30). -/
def dropEntry (p q id : Nat) (l : Launch) (s : State) (g : Nat) : State :=
  let k := s.queue g q
  let keep (x : List DEntry) : List DEntry := x.filter fun e => e.jig ≠ some id
  let k := { k with disp := keep k.disp, dispRing := k.dispRing.map fun e => if e = some id then none else e, dispWait := keep k.dispWait }
  settle p g q l k.dispWait.length (s.setQueue g q (k.trim (l.tt.queues.getD q .none)))

/-- The bytes of the head of a queue's ring, for a refill that has room for them: none while their page is elsewhere (14 R405); an uncorrectable error in them is charged to the partition (14 R389). -/
def ringHead (p g n : Nat) (d : QDesc) (head : Nat) (take : List Byte → State) (s : State) : State :=
  let a := ringAddr s p d g n (head % Nat.max 1 (ringSize d))
  if !s.owned a then s
  else if s.eccHit a n then (if s.issuing p then chargePart p { code := .eccunc, addr := a } s else s)
  else take (s.bytes a n)

/-- QUEUE_REFILL (R313): the head entry of a ring goes to the tail of the hardware part that has room, and waiting pushes follow it; queue 16 is the event queue. -/
def refill (g q : Nat) (s : State) : State :=
  let p := (s.partOf? g).getD 0
  if q = 16 then
    let v := (s.cluster g).evq
    if v.count = 0 || v.hw.length ≥ 128 then s
    else ringHead p g 16 (s.evqd p) v.head (fun bs => evqFlushAll p g (evqTake p g bs s)) s
  else
    let d := s.qdesc p q
    let k := s.queue g q
    let next (k : TaskQueue) : TaskQueue := { k with head := (k.head + 1) % Nat.max 1 (ringSize d), count := k.count - 1 }
    match d.mode, (s.part p).launch, k.dispRing with
    | 1, some l, e :: rest =>
      if k.disp.length ≥ 32 then s
      else ringHead p g 32 d k.head (fun bs =>
        settle p g q l k.dispWait.length
          ((s.setQueue g q ((next { k with disp := k.disp ++ [DEntry.ofBytes l e bs], dispRing := rest }).trim d)).clusCtr g .qrefills 1)) s
    | 2, _, _ =>
      if k.count = 0 || k.data.length ≥ 32 then s
      else ringHead p g 32 d k.head (fun bs => (s.setQueue g q (next { k with data := k.data ++ [bs] })).clusCtr g .qrefills 1) s
    | _, _, _ => s
/-- QUEUE_REFILL (R313) -/
def execQueueRefill (g q : Nat) (s : State) : Answer := .next (refill g q s)

end Sys2Proof.Machine
end

