-- ==== Sys2Proof/Machine/Weights.lean ====
section
/-! DEFINITION. Bank selectors, pins and the sorting engine, majors 0x32 and 0x33 (spec/09_weight_banks_bucket_engine.md R247-R254). -/

namespace Sys2Proof.Machine

open Sys2Proof

/-! Selectors (R248-R251). -/

/-- Does a partition hold a core of a stack (R251)? -/
def State.hasStack (s : State) (p st : Nat) : Bool := (List.range 48).any fun i => s.hasCluster p (48 * st + i)

/-- The ranges of a space that a copy command has still to write, in whole rows: its destination, its scales, its zero points (08 R201, R203). -/
def toWrite (s : State) (p : Nat) (c : CopyCmd) : List (Bool × Nat × Nat) :=
  let n := match copyWidths s p c.op c.d with | some (_, w) => (if c.op = .cptr then c.d.yn else c.d.xn) * w / 8 | none => 0
  let planes (r : Nat) : List (Bool × Nat × Nat) :=
    match c.op, copyEntry s p c.d.dfe with
    | .cpc, some f =>
      if f.scale = 0 then [] else
      let c := { c with row := r }
      let (nb, pl, zb) := planeRow c f
      (c.d.psp, pl, nb * scaleBytes f.scale) :: if f.scale = 3 then [(c.d.psp, planeZeros c f + zb / 8, ceilDiv (zb % 8 + nb * f.elem.width) 8)] else []
    | _, _ => []
  (List.range (c.rows - c.row)).flatMap fun i => (c.d.dsp, { c with row := c.row + i }.dstRow, n) :: planes (c.row + i)

/-- Can a copy command still write the shadow half of a stack: does a page that it has to write lead to a WSHADOW leaf of it, or is its leaf not known (R249)? -/
def copyShadow (s : State) (p st : Nat) (c : CopyCmd) : Bool :=
  let led (dva : Nat) : Bool := match walk s p dva with | .leaf e => locTgt e.leaf == 5 && locLoc e.leaf == st | .absent | .away => true | _ => false
  c.op ≠ .msend && c.op ≠ .ksend && (toWrite s p c).any fun r => r.1 && (pieces r.2.1 r.2.2).any fun x => led (wrapAddr true x.1)

/-- Has a write to a stack's shadow half been accepted and not performed (R249)? -/
def shadowOpen (s : State) (p st : Nat) : Bool :=
  (s.clus.any fun k => s.hasCluster p k.1 && k.2.sorts.any fun c => c.written.isNone && stackOfCore c.by_.core == st) ||
    (allCopies p s).any (copyShadow s p st)

/-- SWAPW (R251): waits for STEADY and for the writes accepted before it, then the stack is PENDING. -/
def execSwapw (g : Guard) (a : Scalar) (s : State) : Answer :=
  issue (acc g [.src a]) s fun c s => do
    let (x, s) := readScalar c a s
    let p := s.partOf c.a
    let st := bitsOf x.toNat 1 0
    if x.toNat ≥ 8 || !s.hasStack p st then err .wbbad
    if (tget? (s.part p).swap st).isSome || shadowOpen s p st then holdFor .swap
    let (idx, s) := takeIndex c.a s
    let core := c.a.core?.getD 0
    let pend : Pending :=
      { recEvt := bitOf x.toNat 2, cluster := c.a.cluster, core := core, idx := idx, task := (s.task c.a).ident, lseq := s.seqOf p }
    return s.modPart p fun pt => { pt with swap := tput pt.swap st pend }

/-- WPIN (R251) -/
def execWpin (g : Guard) (a b : Scalar) (s : State) : Answer :=
  issue (acc g [.src a, .src b]) s fun c s => do
    let (x, s) := readScalar c a s
    let (y, s) := readScalar c b s
    let p := s.partOf c.a
    let st := x.toNat
    let n := tget 0 (s.part p).pins st
    if st ≥ 4 || y.toNat ≥ 2 || !s.hasStack p (st % 4) || (if y = 1#64 then n ≥ 255 else n = 0) then err .wbbad
    return s.modPart p fun pt => { pt with pins := tput pt.pins st (if y = 1#64 then n + 1 else n - 1) }

/-- The selectors that a released jig captures (R248): the old one with the bank-pin flag, a pin, or no swap pending; else the new one. -/
def captureSels (pt : Part) (bpin : Bool) : BitVec 4 :=
  (List.range 4).foldl (fun v st =>
    let old := pt.sel.getLsbD st
    let b := if (tget? pt.swap st).isSome && !bpin && tget 0 pt.pins st = 0 then !old else old
    if b then v ||| (1#4 <<< st) else v) 0#4

/-- At a tick, a pending stack whose old selector no unretired jig holds, and that is not pinned, swaps (R248). -/
def swapTick (p st : Nat) (s : State) : State :=
  let pt := s.part p
  match tget? pt.swap st with
  | none => s
  | some w =>
    let old := pt.sel.getLsbD st
    let holds := match pt.launch with
      | some l => l.phase == .active && l.jigs.any fun j => j.2.sels.getLsbD st == old
      | none => false
    if holds || tget 0 pt.pins st > 0 then s.clusCtr w.cluster .swapheld 1
    else
      let s := s.modPart p fun pt => { pt with sel := pt.sel ^^^ (1#4 <<< st), swap := tdel pt.swap st }
      let s := (s.bbEvent 9 p (leBytes 1 st ++ leBytes 1 (b2n (!old)))).clusCtr w.cluster .swaps 1
      let here := match pt.launch with | some l => l.lseq == w.lseq | none => false
      if w.recEvt && here then evqSend p w.cluster (commandRecord 9 w.core w.idx w.task) s else s

/-! The sorting engine (R252-R254). -/

/-- SORTW (R252). -/
def execSortw (g : Guard) (a b : Scalar) (s : State) : Answer :=
  issue (acc g [.src a, .src b]) s fun c s => do
    let (x, s) := readScalar c a s
    let (y, s) := readScalar c b s
    let p := s.partOf c.a
    let n := y.toNat
    let bs ← match (s.task c.a).a.kept with | some k => pure k | none => readBlock c x 64 s
    let s := countRead c x s
    match tileHeader? 1 bs with
    | none => err .sortbad
    | some h =>
      if n ≥ 2 ^ 42 then err .sortbad
      let slot := bitsOf n 41 16
      if slot * 64 + bankTileSize h.ng > ((s.part p).regs.pwb.getD c.a.stack .none).size then err .sortrange
      let ctl : CopyCtl := { seq := false, recEvt := bitOf n 15, baren := bitOf n 14, bar := bitsOf n 13 0 }
      if ctl.baren && !barOk s p ctl.bar then err .barrange
      if (s.cluster c.a.cluster).sorts.length ≥ 16 then keepFor bs .swap
      let view := s.view c.a
      let (idx, s) := takeIndex c.a s
      return s.modCluster c.a.cluster fun k =>
        { k with sorts := k.sorts ++ [{ by_ := issuerOf c idx s, view := view, src := x, slot := slot, ctl := ctl, written := none }] }

/-- Codes of row r of a code tile, by position. -/
def rowCodes (h : TileHeader) (tile : List Byte) (r : Nat) : List Nat :=
  let row := (tile.drop (0x80 + 192 * h.ng + 16 * h.bits * r)).take (16 * h.bits)
  (List.range 128).map fun k => packed row h.bits k

/-- The row record that the engine builds (R253): positions of each group in order of code, then position; then the end offsets. -/
def sortedRow (h : TileHeader) (codes : List Nat) : List Byte :=
  let grp (g : Nat) : List Nat := (List.range h.g).map (h.g * g + ·)
  let perm := (List.range h.ng).flatMap fun g => (List.range 8).flatMap fun c => (grp g).filter fun k => codes.getD k 0 == c
  let ends := (List.range h.ng).flatMap fun g => (List.range 8).map fun c =>
    BitVec.ofNat 8 (h.g * g + ((grp g).filter fun k => codes.getD k 0 ≤ c).length)
  leBytes 112 (((List.range 128).zip perm).foldl (fun n x => n + x.2 % 128 * 2 ^ (7 * x.1)) 0) ++ ends

/-- The bank tile of a code tile (R253). -/
def bankTile (h : TileHeader) (tile : List Byte) : List Byte :=
  [2#8] ++ (tile.drop 1).take 3 ++ leBytes 4 (bankTileSize h.ng) ++ (tile.drop 8).take (0x78 + 192 * h.ng) ++
    (List.range 64).flatMap fun r => sortedRow h (rowCodes h tile r)

/-- SORT_COMPLETE (R253, R254): the oldest command of a cluster's sorting engine is performed, once its task's earlier accesses have been and no swap is pending; it completes once its record is posted. The header is read and checked again with the tile (log entry 107). -/
def sortStep (g : Nat) (s : State) : State :=
  match (s.cluster g).sorts with
  | [] => s
  | c :: rest =>
    let p := (s.partOf? g).getD 0
    let st := stackOfCluster g
    let fail (i : TrapInfo) : State := if i.wait then s else (trapCommand c.by_ { i with engine := .sorting } s).modCluster g fun k => { k with sorts := rest }
    let finish (n : Nat) : State → State :=
      completeBar c.ctl.recEvt (c.ctl.decrement n) g (c.by_.record 2 0) id fun s => (s.modCluster g fun k => { k with sorts := rest }).clusCtr g .sorts 1
    match c.written with
    | some n => finish n s
    | none =>
      if (tget? (s.part p).swap st).isSome || !issuerReady c.by_ s then s
      else
        match c.view.read s c.src.toNat 64 with
        | .error i => fail i
        | .ok hb =>
          match tileHeader? 1 hb with
          | none => fail { code := .sortbad }
          | some h =>
            match c.view.read s c.src.toNat (codeTileSize h.ng h.bits) with
            | .error i => fail i
            | .ok tile =>
              let n := bankTileSize h.ng
              let half := 1 - b2n ((s.part p).sel.getLsbD st)
              let a := bankBase st half + ((s.part p).regs.pwb.getD st .none).base + c.slot * 64
              if c.slot * 64 + n > ((s.part p).regs.pwb.getD st .none).size then fail { code := .sortrange }
              else if !s.ownedRange a n then s
              else finish n (countPeers c.view .load [(c.src.toNat, codeTileSize h.ng h.bits)]
                ((s.store a (bankTile h tile)).modCluster g fun k => { k with sorts := { c with written := some n } :: rest }))
/-- SORT_COMPLETE (R254) -/
def execSortComplete (g : Nat) (s : State) : Answer := .next (sortStep g s)

end Sys2Proof.Machine
end

