-- ==== Sys2Proof/Machine/Jigs.lean ====
section
/-! DEFINITION. Releasing and retiring jigs: the pool, the queues of jig entries, timetable nodes, JPUSH, evaluators (spec/11_jigs_queues_timetables.md R305-R319; spec/12 R341, R342; spec/06 R159). -/

namespace Sys2Proof.Machine

open Sys2Proof

/-! Ticks. -/

/-- Has the frame counter reached a tick? It wraps at 2^48 (00 R2). -/
def State.reached (s : State) (t : Nat) : Bool := decide ((s.modl.frame + 2 ^ 48 - t % 2 ^ 48) % 2 ^ 48 < 2 ^ 47)

/-- First tick of frame f (11 R305). -/
def Launch.frameStart (l : Launch) (f : Nat) : Nat := (l.f0 + f * l.tt.framelen) % 2 ^ 48

/-- Change jig `id` of a launch. -/
def modJig (p id : Nat) (f : Jig → Jig) (s : State) : State :=
  s.modLaunch p fun l => { l with jigs := l.jigs.map fun x => if x.1 = id then (id, f x.2) else x }

/-! The jig pool (R310). -/

/-- Entries of the pool in use: jigs of other sources than the timetable, and delayed pushes. -/
def Launch.poolUsed (l : Launch) : Nat := (l.jigs.filter fun x => match x.2.source with | .node _ => false | _ => true).length + l.delayed.length

/-- Is there a free entry among 4,096? -/
def Launch.poolFree (l : Launch) : Bool := decide (l.poolUsed < 4096)

/-- The lowest free entry of the pool (log entry 30). -/
def Launch.poolSlot (l : Launch) : Nat :=
  let used := (l.jigs.filterMap fun x => match x.2.source with | .node _ => none | _ => some x.2.slot) ++ l.delayed.map (·.slot)
  ((List.range 4096).find? fun i => !used.contains i).getD 0

/-! Release (R311) and retirement (R319). -/

/-- A jig retires: its record is posted, a cell left in EVALUATING fails with NOFILL, its entry is freed. -/
def retireJig (p id : Nat) (s : State) : State :=
  match (s.part p).launch with
  | none => s
  | some l =>
    match tget? l.jigs id with
    | none => s
    | some j =>
      let s := if j.jrec.retrec then evqSend p j.home { kind := 0xA, src := 31, stat := 0, idx := j.frame % 2 ^ 32, data := j.jrec.arg } s else s
      let s := s.modLaunch p fun l => { l with jigs := tdel l.jigs id }
      let s := s.partCtr p .jigsret 1
      match j.source with
      | .node n => s.modLaunch p fun l => { l with nodes := tput l.nodes n .done }
      | .pool => s
      | .cell c =>
        let newer := l.jigs.any fun x => decide (id < x.1) && x.2.source == .cell c
        let again := (s.cluster (homeCluster s p c)).evals.any (·.cell == c)
        if s.cellSt c = .evaluating && !newer && !again then failCell p c 3 s else s

/-- Release a jig with its number in the jig store or the pool (R311): it captures the selectors, takes the tick, belongs to the current frame, and its entry goes to every cluster with a member; a jig with no iteration on this device retires at once. -/
def releaseAt (p slot : Nat) (rec_ : JigRec) (src : JigSource) (lineage : List Nat) (argp : W64) (s : State) : State :=
  match (s.part p).launch with
  | none => s
  | some l =>
    let (first, count) := iterations l rec_
    let gs := memberClusters s p l rec_.level rec_.dsel
    let id := l.nextJig
    let j : Jig :=
      { jrec := rec_, source := src, slot := slot, sels := captureSels (s.part p) rec_.bpin, rtick := s.modl.frame, frame := l.frame, home := gs.headD 0,
        first := first, count := count, next := 0, open_ := 0, lineage := lineage, argp := argp, claims := [] }
    let s := (s.modLaunch p fun l =>
      { l with
        jigs := tput l.jigs id j, nextJig := id + 1
        nodes := match src with | .node n => tput l.nodes n .released | _ => l.nodes }).partCtr p .jigsrel 1
    if count = 0 then retireJig p id s
    else match (s.part p).launch with
      | some l => gs.foldl (pushEntry p rec_.queue id j l) s
      | none => s

/-- Release a jig that takes its number now: a node's, or a free entry of the pool. -/
def releaseJig (p : Nat) (rec_ : JigRec) (src : JigSource) (lineage : List Nat) (argp : W64) (s : State) : State :=
  let slot := match src, (s.part p).launch with | .node n, _ => n | _, some l => l.poolSlot | _, none => 0
  releaseAt p slot rec_ src lineage argp s

/-- Messages that have completed and whose jigs wait for the pool (R310; 13 R368): port, entry. -/
def waitingArrivals (p : Nat) (s : State) : List (Nat × Nat × AmtEntry) :=
  (List.range 8).filterMap fun n =>
    if (s.port n).owner? = some p then ((s.port n).amt.find? fun e => e.2.state == .waiting).map fun e => (n, e.1, e.2) else none

/-- The first of them is released. -/
def flushArrival (p : Nat) (s : State) : State :=
  match (s.part p).launch with
  | none => s
  | some l =>
    if !l.poolFree then s
    else
      match waitingArrivals p s with
      | [] => s
      | (n, i, e) :: _ =>
        let s := (s.partClk p .poolwaitclk).modPort n fun q => { q with amt := tput q.amt i { e with state := if e.persist then .armed else .idle } }
        match e.jrec with
        | some j => releaseJig p { j with arg := e.arg } .pool [] 0#64 s
        | none => s

/-- A jig retires when it has no iteration left to claim, none claimed back, and none running (R319). -/
def retireIfDone (p id : Nat) (s : State) : State :=
  match (s.part p).launch with
  | none => s
  | some l =>
    match tget? l.jigs id with
    | some j => if j.next = j.count && j.open_ = 0 && j.claims.isEmpty then flushArrival p (retireJig p id s) else s
    | none => s

/-! Timetable nodes (R306, R159). -/

/-- The selector of a veneered buffer as left by the publications before tick t (06 R159). -/
def selectorBefore (v : Veneer) (t : Nat) : Bool :=
  let since (x : Nat) : Bool := decide ((x + 2 ^ 48 - t % 2 ^ 48) % 2 ^ 48 < 2 ^ 47)
  match (v.past.filter fun x => since x.1).getLast? with
  | some x => x.2
  | none => v.sel

/-- The predicate word of a conditional node at tick t (06 R159; 11 R306): its flat address for the reading core. -/
def predicateAddr (s : State) (p : Nat) (l : Launch) (n : TNode) (t : Nat) : Option Nat :=
  let core := (members s p l n.jrec.level n.jrec.dsel).headD 0
  let a : Agent := .access core
  match translateEntry (l.windows.getD n.pwin []) false n.pva .load with
  | .error _ => none
  | .ok (e, off) =>
    match entryTarget s a p (s.part p).sel e off with
    | .byte b => some b
    | .veneer st toff size off =>
      match l.veneers.find? fun v => v.stack == st && v.toff == toff && v.size == size with
      | some v => some (veneerAddr s p st toff size off (selectorBefore v t))
      | none => none
    | _ => none

/-- Does a node run in frame f (R303)? -/
def TNode.runs (n : TNode) (f : Nat) : Bool := f % n.period == n.phase

/-- Are a node's dependences met in frame f (R306)? -/
def depsMet (l : Launch) (n : TNode) : Bool :=
  n.deps.all fun d => match l.tt.nodes[d]? with | some m => !m.runs l.frame || tget .waiting l.nodes d == .done | none => true

/-- NODE_RELEASE (R306): node `i` is released once its base tick has come and its dependences have retired; a conditional node reads its predicate, and is released or skipped. -/
def nodeRelease (p i : Nat) (s : State) : State :=
  match (s.part p).launch with
  | none => s
  | some l =>
    match l.tt.nodes[i]? with
    | none => s
    | some n =>
      let base := (l.frameStart l.frame + n.relt) % 2 ^ 48
      if l.phase ≠ .active || !n.runs l.frame || tget .waiting l.nodes i ≠ .waiting || !s.reached base || !depsMet l n then s
      else if !n.cond then releaseJig p n.jrec (.node i) [] 0#64 s
      else
        let take (v : Nat) (s : State) : State :=
          if (v == 0) == n.pinv then releaseJig p n.jrec (.node i) [] 0#64 s else s.modLaunch p fun l => { l with nodes := tput l.nodes i .done }
        match predicateAddr s p l n base with
        | none => take 0 s
        | some b =>
          if !s.owned b then s
          else if s.eccHit b 4 then chargePart p { code := .eccunc, addr := b } s
          else if s.expired b then take (leValue ((List.range 4).map fun k => Config.freeByte s.freeCtr (b + k))) s.drawn
          else take (s.value b 4) s
/-- NODE_RELEASE (R306) -/
def execNodeRelease (p n : Nat) (s : State) : Answer := .next (nodeRelease p n s)

/-! JPUSH (R309). -/

/-- JPUSH: a release at device scope. The record is read and checked once; then the word waits for the pool. Without a delay the jig is released at once. -/
def execJpush (g : Guard) (d a b : Scalar) (s : State) : Answer :=
  issue (accCtl g [.src d, .src a, .src b]) s fun c s =>
    let (t, s) := readScalar c d s
    let (x, s) := readScalar c a s
    let (y, s) := readScalar c b s
    let p := s.partOf c.a
    let l := (s.part p).launch.getD .empty
    let checked : Except Stop (List Byte) := do
      let bs ← readBlock c x 64 s
      if t.toNat ≥ 2 ^ 32 || !jigOk s p l bs (JigRec.ofBytes bs) then err .jigbad
      return bs
    withOperand c s checked fun bs => do
      releaseReady c .device s
      if !l.poolFree then holdFor .pool
      let s := countRead c x s
      let j := { JigRec.ofBytes bs with arg := y }
      let lineage := (s.task c.a).lineage
      if t = 0#64 then return releaseJig p j .pool lineage 0#64 s
      else return s.modLaunch p fun l => { l with delayed := l.delayed ++ [{ jrec := j, due := (s.modl.frame + t.toNat) % 2 ^ 48, slot := l.poolSlot, lineage := lineage }] }

/-- JPUSH_DUE (R309): the oldest delayed push whose tick has come is released. -/
def jpushDue (p : Nat) (s : State) : State :=
  match (s.part p).launch with
  | none => s
  | some l =>
    if l.phase ≠ .active then s
    else match findIdx? (fun (d : DelayedJig) => s.reached d.due) l.delayed with
      | none => s
      | some i =>
        match l.delayed[i]? with
        | none => s
        | some d => releaseAt p d.slot d.jrec .pool d.lineage 0#64 (s.modLaunch p fun l => { l with delayed := ldel l.delayed i })
/-- JPUSH_DUE (R309) -/
def execJpushDue (p : Nat) (s : State) : Answer := .next (jpushDue p s)

/-! Evaluators (12 R341, R342). -/

/-- The domain that a cell's hint names (12 R341 item 2): level and DSEL. -/
def hintDomain (hint home lclus : Nat) : Nat × Nat :=
  match bitsOf hint 1 0 with
  | 0 => (1, home)
  | 1 => (1, lclus)
  | _ => (bitsOf hint 4 2, bitsOf hint 17 5)

/-- EVALUATION_START (12 R341, R345): the oldest evaluation of a home cluster, by the cell's record as it stood when the evaluation started, reads its jig record, waits for the pool, and releases the evaluator; a record that cannot be read or checked fails the cell. -/
def evaluationStart (g : Nat) (s : State) : State :=
  match (s.cluster g).evals with
  | [] => s
  | ev :: rest =>
    let p := (s.partOf? g).getD 0
    match (s.part p).launch with
    | none => s
    | some l =>
      if l.phase ≠ .active then s
      else
        let done (s : State) : State := s.modCluster g fun k => { k with evals := rest }
        let f (o n : Nat) : Nat := fieldOf ev.rec_ o n
        let read := match ev.jig with | some bs => DResult.ok bs s | none => dRead p g (.evaluation ev.cell) (f 0 8) 64 s
        match read with
        | .wait s => s.modCluster g fun k => { k with evals := rest ++ [ev] }
        | .failed s => failCell p ev.cell 1 (done s)
        | .ecc a s => chargePart p { code := .eccunc, addr := a } s
        | .ok bs s =>
          let (level, dsel) := hintDomain (f 0x10 4) g ev.loader
          let j := { JigRec.ofBytes bs with level := level, dsel := dsel }
          if !jigOk s p l bs j then failCell p ev.cell 2 (done s)
          else if !l.poolFree then (s.partClk p .poolwaitclk).modCluster g fun k => { k with evals := { ev with jig := some bs } :: rest }
          else releaseJig p { j with prio := bitsOf (f 0x14 1) 2 0, arg := ev.va } (.cell ev.cell) ev.lineage (BitVec.ofNat 64 (f 8 8)) (done s)
/-- EVALUATION_START (12 R341) -/
def execEvaluationStart (g : Nat) (s : State) : Answer := .next (evaluationStart g s)

end Sys2Proof.Machine
end

