-- ==== Sys2Proof/Machine/Images.lean ====
section
/-! DEFINITION. Context images in memory (spec/14_traps_partitions_migration.md R398; spec/01 R26, R28): the parts whose layout the spec gives are written and read back, the rest of an image is the OB3's own (notes/assumptions/13.md). -/

namespace Sys2Proof.Machine

open Sys2Proof

/-- Pages of a context image. -/
def imagePages : Nat := 0x44

/-- The control section of a context image (R398). -/
def imageControl (t : Task) (v : VecState) : List Byte :=
  leBytes 8 t.ident.toNat ++ leBytes 8 t.a.pc.toNat ++ leBytes 8 t.x.pc.toNat ++
    ((List.range 56).flatMap fun i => leBytes 8 (tget 0#64 t.regs i).toNat) ++
    leBytes 8 (tget 0#64 t.regs keyLr).toNat ++ leBytes 8 (tget 0#64 t.regs keySp).toNat ++ leBytes 8 t.preds.toNat ++
    leBytes 8 v.fsr.toNat ++ leBytes 8 v.vcfg.toNat ++ leBytes 4 (t.a.rep % 2 ^ 7 + t.x.rep % 2 ^ 7 * 2 ^ 8) ++ leBytes 4 t.cmdx.toNat

/-- `n` words of an array. -/
def wordBytes (n : Nat) (f : Nat → Nat) : List Byte := (List.range n).flatMap fun i => leBytes 4 (f i)

/-- The parts of an image, by offset: v0-v15, t0 and t1, gather buffer, buckets, lane accumulators, committed dense bank. -/
def imageParts (t : Task) (x : CoreImage) : List (Nat × List Byte) :=
  [(0, imageControl t x.vec),
   (0x7000, wordBytes 16384 fun i => (tget 0#32 (tget [] x.vec.v (i / 1024)) (i % 1024)).toNat),
   (0x17000, wordBytes 8192 fun i => (tget 0#32 (tget [] x.vec.t (i / 4096)) (i % 4096)).toNat),
   (0x1F000, x.gbuf),
   (0x27000, wordBytes 16384 fun i => (BitVec.ofInt 32 (tget 0 x.eng.bk.buckets i)).toNat),
   (0x37000, wordBytes 2048 fun i => (tget 0#32 x.eng.bk.acc i).toNat),
   (0x39000, wordBytes 4096 fun i => (tget 0#32 x.eng.dn.bank i).toNat)]

/-- Write bytes at an offset of a run of pages. -/
def writePages (pages : List Nat) (off : Nat) (bs : List Byte) (s : State) : State :=
  (List.range (ceilDiv bs.length 4096)).foldl (fun s i => s.write (pages.getD (off / 4096 + i) 0) ((bs.drop (4096 * i)).take 4096)) s

/-- Read bytes at an offset of a run of pages. -/
def readPages (pages : List Nat) (off n : Nat) (s : State) : List Byte :=
  (List.range n).map fun i => s.byte (pages.getD ((off + i) / 4096) 0 + (off + i) % 4096)

/-- The gather buffer of a core. -/
def gatherBytes (s : State) (core : Nat) : List Byte := s.bytes (gbufBase core) 0x8000

/-- Zeros in a range of memory: its units leave error, and nothing older may be fetched from it. -/
def zeroRange (lo hi : Nat) (s : State) : State :=
  let out (a : Nat) : Bool := decide (a < lo) || decide (hi ≤ a)
  { s with
    mem := s.mem.filter fun c => out c.1
    attr := { s.attr with
      ecc := s.attr.ecc.filter fun u => out (32 * u), prior := s.attr.prior.filter fun x => out (4 * x.1)
      undef := s.attr.undef.filter fun r => out r.lo } }

/-- What an image holds of a core. -/
def coreImage (s : State) (core : Nat) : CoreImage := { vec := (s.core core).vec, eng := (s.core core).eng, gbuf := gatherBytes s core }

/-- The gather buffer of a core is 0 (01 R24; 05 R118). -/
def zeroGather (core : Nat) (s : State) : State := zeroRange (gbufBase core) (gbufBase (core + 1)) s

/-- Put the gather buffer of an image back. -/
def putGather (core : Nat) (bs : List Byte) (s : State) : State :=
  (List.range 8).foldl (fun s i => s.write (gbufBase core + 4096 * i) ((bs.drop (4096 * i)).take 4096)) s

/-- Write an image to its pages; bytes of the OB3's own are free. -/
def writeImage (pages : List Nat) (t : Task) (x : CoreImage) (s : State) : State :=
  let s := pages.foldl (fun s a => s.makeUndef a (a + 4096)) s
  (imageParts t x).foldl (fun s q => writePages pages q.1 q.2 s) s

/-- The array of words that stands at an offset: words that are not 0, by place. -/
def wordTable (bs : List Byte) (n : Nat) : Table W32 :=
  (List.range n).filterMap fun i => let w := fieldOf bs (4 * i) 4; if w = 0 then none else some (i, BitVec.ofNat 32 w)

/-- A task as its control section says. The identifier, and what is the OB3's own, stay. -/
def readControl (bs : List Byte) (t : Task) : Task :=
  let w (o : Nat) : W64 := BitVec.ofNat 64 (fieldOf bs o 8)
  let keys := (List.range 56) ++ [keyLr, keySp]
  let regs := (List.range 58).foldl (fun r i => if w (0x18 + 8 * i) = 0#64 then tdel r (keys.getD i 0) else tput r (keys.getD i 0) (w (0x18 + 8 * i))) t.regs
  let rep := fieldOf bs 0x200 4
  { t with
    regs := regs, preds := BitVec.ofNat 12 (fieldOf bs 0x1E8 8), cmdx := BitVec.ofNat 32 (fieldOf bs 0x204 4)
    a := { t.a with pc := w 0x08, rep := bitsOf rep 6 0 }, x := { t.x with pc := w 0x10, rep := bitsOf rep 14 8 } }

/-- A unit of an image's pages that is in error (R389). -/
def imageError (pages : List Nat) (s : State) : Option Nat := pages.find? fun a => s.eccHit a 4096

/-- What an image's parts say of a core; the rest stays. -/
def readImage (pages : List Nat) (x : CoreImage) (s : State) : CoreImage :=
  let part (off n : Nat) : List Byte := readPages pages off n s
  let ctl := part 0 0x208
  let regs (off n size : Nat) : Table (Table W32) := (List.range n).map fun k => (k, wordTable (part (off + 4 * size * k) (4 * size)) size)
  { vec := { x.vec with
      v := regs 0x7000 16 1024, t := regs 0x17000 2 4096, fsr := BitVec.ofNat 64 (fieldOf ctl 0x1F0 8), vcfg := BitVec.ofNat 64 (fieldOf ctl 0x1F8 8) }
    eng := { x.eng with
      bk := { x.eng.bk with
        buckets := (wordTable (part 0x27000 0x10000) 16384).map fun b => (b.1, b.2.toInt)
        acc := wordTable (part 0x37000 0x2000) 2048 }
      dn := { x.eng.dn with bank := wordTable (part 0x39000 0x4000) 4096 } }
    gbuf := part 0x1F000 0x8000 }

end Sys2Proof.Machine
end

