-- ==== Sys2Proof/Machine/Sched.lean ====
section
/-! DEFINITION. The scheduler and the contexts: selection, loading, context switch, retirement, parking, domain phases (spec/01_cores_tasks_domains.md R18, R22-R33; spec/11_jigs_queues_timetables.md R316-R320; spec/14 R398). -/

namespace Sys2Proof.Machine

open Sys2Proof

/-! Candidates (11 R316, R317; 05 R126; 12 R343). -/

/-- The tasks that a core holds: in its contexts, and parked. -/
def heldTasks (s : State) (l : Launch) (core : Nat) : List Task :=
  let k := s.core core
  let ctx (c : Context) : List Task := if c.state = .free then [] else [c.task]
  ctx k.ctx0 ++ ctx k.ctx1 ++ ((l.parked.filter fun x => x.core == core && !x.back).map (·.image.task))

/-- Do two unit ranges overlap (05 R125, R126)? -/
def rangesMeet (a b : JigRec) : Bool := a.ucount ≠ 0 && b.ucount ≠ 0 && meet a.ufirst a.ucount b.ufirst b.ucount

/-- Can the core hold a jig's unit range (05 R126)? -/
def rangeFree (s : State) (l : Launch) (core : Nat) (j : Jig) : Bool :=
  (heldTasks s l core).all fun t => match tget? l.jigs t.jig with | some k => !rangesMeet j.jrec k.jrec | none => true

/-- Is the jig an evaluator's, and does the core's running task wait in a CLD on a cell of its lineage (12 R343)? -/
def waitsOnLineage (s : State) (p core : Nat) (j : Jig) : Bool :=
  match j.source, s.task? (.access core) with
  | .node _, _ | .pool, _ | .cell _, none => false
  | .cell _, some t => t.a.loads.any fun x => x.waiting && x.elems.any fun e =>
      match loadAddr s p e.tgt with | some b => j.lineage.contains (cellOf b) | none => false

/-- Is a jig one that the core can take a task of (R316)? -/
def eligible (s : State) (p core : Nat) (l : Launch) (j : Jig) : Bool :=
  (members s p l j.jrec.level j.jrec.dsel).contains core && rangeFree s l core j && decide (j.next < j.count) && !waitsOnLineage s p core j

/-- A candidate: its queue, its entry, its jig. -/
structure Candidate where
  q : Nat
  entry : DEntry
  jig : Jig
deriving DecidableEq, Repr

/-- The candidates for a core, by queue. -/
def candidates (s : State) (p core : Nat) (l : Launch) : List Candidate :=
  (List.range 16).filterMap fun q =>
    if (l.tt.queues.getD q .none).mode ≠ 1 then none
    else (s.queue (clusterOfCore core) q).disp.findSome? fun e =>
      match e.jig.bind (tget? l.jigs ·) with
      | some j => if eligible s p core l j then some { q := q, entry := e, jig := j } else none
      | none => none

/-- How long ago a tick was. -/
def State.since (s : State) (t : Nat) : Nat := (s.modl.frame + 2 ^ 48 - t % 2 ^ 48) % 2 ^ 48

/-- Is candidate `a` to be taken before `b` (R317)? -/
def before (s : State) (lastq : Nat) (a b : Candidate) : Bool :=
  let ta := s.since a.entry.rtick
  let tb := s.since b.entry.rtick
  let ra := (a.q + 15 - lastq) % 16
  let rb := (b.q + 15 - lastq) % 16
  if a.entry.age = 16 then
    b.entry.age ≠ 16 || decide (a.entry.agedAt < b.entry.agedAt) ||
      (a.entry.agedAt == b.entry.agedAt && (decide (tb < ta) || (ta == tb && decide (a.q < b.q))))
  else
    b.entry.age ≠ 16 &&
      (decide (b.entry.prio < a.entry.prio) ||
        (a.entry.prio == b.entry.prio && (decide (tb < ta) || (ta == tb && decide (ra < rb)))))

/-- The best candidate. -/
def best (s : State) (lastq : Nat) : List Candidate → Option Candidate
  | [] => none
  | c :: r => match best s lastq r with | some d => if before s lastq c d then some c else some d | none => some c

/-- Has a parked task been woken: has every waiting CLD its answer (01 R28)? That one with several waiting CLDs waits for all of them is the model's choice (log entry 91). -/
def Parked.woken (x : Parked) : Bool := !x.back && x.image.task.a.loads.all fun y => !y.waiting || y.answer.isSome

/-- The priority of a task's jig. -/
def Launch.prioOf (l : Launch) (t : Task) : Nat := match tget? l.jigs t.jig with | some j => j.jrec.prio | none => 0

/-- The woken parked task of a core that is resumed first: of the highest priority, the one parked earliest, which is the model's choice (log entry 92); an evaluator's only when the core's running task does not wait on its lineage (12 R343). -/
def wokenTask (s : State) (p : Nat) (l : Launch) (core : Nat) : Option Parked :=
  let may (t : Task) : Bool := match tget? l.jigs t.jig with | some j => !waitsOnLineage s p core j | none => true
  (l.parked.filter fun x => x.core == core && x.woken && may x.image.task).foldl (fun m x =>
    match m with | some y => if l.prioOf y.image.task < l.prioOf x.image.task then some x else some y | none => some x) none

/-! Selection (R316). -/

/-- The identifier of a task (01 R18). -/
def taskIdent (p lseq g seq : Nat) : W64 := BitVec.ofNat 64 (p * 2 ^ 59 + (lseq % 2 ^ 19) * 2 ^ 40 + g * 2 ^ 32 + seq % 2 ^ 32)

/-- A task of iteration `n` of a jig, in its first state (01 R24). -/
def newTask (l : Launch) (ident : W64) (id : Nat) (j : Jig) (n : Nat) : Task :=
  let idx := indices j.jrec n
  let regs : Table W64 := ((List.range 6).zip idx).foldl (fun t x => if x.2 = 0 then t else tput t x.1 (BitVec.ofNat 64 x.2)) []
  let regs := if j.jrec.spinit = 0#64 then regs else tput regs keySp j.jrec.spinit
  { Task.empty with
    ident := ident, jig := id, iter := [n], regs := regs, entry := regs, a := .start j.jrec.aentry, x := .start j.jrec.xentry,
    window := l.windows.getD j.jrec.window [], sels := j.sels, lineage := j.lineage, jarg := j.jrec.arg, carg := j.argp }

/-- Put a task into the staged context of a core as LOADING. -/
def loadTask (core : Nat) (t : Task) (saved : Option CoreImage) (s : State) : State :=
  s.modCore core fun k => k.setCtx (1 - k.run) { state := .loading saved.isSome, task := t, saved := saved }

/-- Candidates that a selection passes over grow older (R317). -/
def passOver (g : Nat) (cs : List Candidate) (s : State) : State :=
  let now := tget 0 (s.cluster g).ctr ClusCtr.selects.num
  cs.foldl (fun s c =>
    let k := s.queue g c.q
    s.setQueue g c.q { k with disp := k.disp.map fun e =>
      if e = c.entry && e.age < 16 then { e with age := e.age + 1, agedAt := if e.age = 15 then now else e.agedAt } else e }) s

/-- Claim an iteration for a candidate (R316): the task has the selectors of its entry (R314); its entry's age starts again, and it leaves the queues with the last iteration. -/
def claimFor (p core : Nat) (l : Launch) (c : Candidate) (s : State) : State :=
  let g := clusterOfCore core
  let k := s.queue g c.q
  let s := s.setQueue g c.q { k with disp := k.disp.map fun e => if e = c.entry then { e with age := 0, agedAt := 0 } else e }
  let n := c.jig.first + c.jig.next
  let seq := (s.cluster g).seq
  let s := s.modCluster g fun x => { x with seq := (x.seq + 1) % 2 ^ 32, lastq := c.q }
  let id := c.entry.jig.getD 0
  let s := modJig p id (fun j => { j with next := j.next + 1, open_ := j.open_ + 1 }) s
  let s := loadTask core { newTask l (taskIdent p (s.seqOf p) g seq) id c.jig n with sels := c.entry.sel } none s
  if c.jig.next + 1 = c.jig.count then
    (memberClusters s p l c.jig.jrec.level c.jig.jrec.dsel).foldl (dropEntry p c.jig.jrec.queue id l) s
  else s

/-- A claim that went back to its jig for this core (14 R395), of a jig that the core may take (12 R343): jig and claim. -/
def claimBack (s : State) (p : Nat) (l : Launch) (core : Nat) : Option (Nat × Jig × Claim) :=
  (l.jigs.filter fun x => !waitsOnLineage s p core x.2).findSome? fun x => (x.2.claims.find? (·.core == core)).map fun c => (x.1, x.2, c)

/-- SELECTION (R316): the free staged context of a core is filled with a claim that went back, a woken parked task, or a claimed iteration. -/
def selection (core : Nat) (s : State) : State :=
  let g := clusterOfCore core
  match s.partOf? g with
  | none => s
  | some p =>
    match (s.part p).launch with
    | none => s
    | some l =>
      let k := s.core core
      if l.phase ≠ .active || (s.part p).pstate ≠ .active || k.stagedCtx.state ≠ .free then s
      else
        match claimBack s p l core with
        | some (id, j, c) =>
          let s := modJig p id (fun j => { j with claims := j.claims.filter (· ≠ c), open_ := j.open_ + 1 }) s
          loadTask core (newTask l (taskIdent p (s.seqOf p) g c.seq) id j c.iter) none (s.clusCtr g .selects 1)
        | none =>
          let cs := candidates s p core l
          let b := best s (s.cluster g).lastq cs
          match wokenTask s p l core with
          | some x =>
            let first := match b with | some c => c.entry.age ≠ 16 && decide (c.entry.prio ≤ l.prioOf x.image.task) | none => true
            if first then
              let s := passOver g cs (s.clusCtr g .selects 1)
              let s := s.modLaunch p fun l => { l with parked := l.parked.map fun y => if y = x then { y with back := true } else y }
              loadTask core x.image.task (some x.image.core) s
            else take p g l cs b s
          | none => take p g l cs b s
where
  /-- Take the best candidate, if there is one. -/
  take (p g : Nat) (l : Launch) (cs : List Candidate) (b : Option Candidate) (s : State) : State :=
    match b with
    | none => s
    | some c =>
      let s := (s.clusCtr g .selects 1).clusCtr g .aged (b2n (c.entry.age == 16))
      claimFor p core l c (passOver g (cs.filter (· ≠ c)) s)
/-- SELECTION (R316) -/
def execSelection (core : Nat) (s : State) : Answer := .next (selection core s)

/-- The pages of a park slot (01 R26). -/
def slotPages (l : Launch) (g slot : Nat) : List Nat := (l.parkPages.drop ((g * l.lrec.parkslots + slot) * imagePages)).take imagePages

/-- A parked task that is loaded again is restored from its park slot, whose bytes it finds, and frees the slot (01 R28); an uncorrectable error in the slot is charged to the partition (14 R389), a page that is elsewhere is waited for (R405). -/
def unpark (core : Nat) (c : Context) (x : Parked) (p : Nat) (l : Launch) (s : State) : State :=
  let g := clusterOfCore core
  let pages := slotPages l g x.slot
  if !pages.all s.owned then s
  else match imageError pages s with
    | some a => if s.issuing p then chargePart p { code := .eccunc, addr := a } s else s
    | none =>
      let c := { c with state := .staged, task := readControl (readPages pages 0 0x208 s) c.task, saved := some (readImage pages x.image.core s) }
      ((s.modCore core fun k => k.setCtx (1 - k.run) c).modLaunch p fun l => { l with parked := l.parked.filter (· ≠ x) }).clusCtr g .resumes 1

/-- LOADING_COMPLETE (01 R22): the staged task is STAGED. -/
def loadingComplete (core : Nat) (s : State) : State :=
  let c := (s.core core).stagedCtx
  match c.state with
  | .loading false => s.modCore core fun k => k.setCtx (1 - k.run) { c with state := .staged }
  | .loading true =>
    match s.partOf? (clusterOfCore core) with
    | none => s
    | some p =>
      match (s.part p).launch with
      | none => s
      | some l =>
        match l.parked.find? fun x => x.core == core && x.image.task.ident == c.task.ident with
        | some x => unpark core c x p l s
        | none => s
  | _ => s
/-- LOADING_COMPLETE (01 R22) -/
def execLoadingComplete (core : Nat) (s : State) : Answer := .next (loadingComplete core s)

/-- Engines as a task finds them when it first becomes RUNNING: stopped (09 R265). -/
def Engines.stopped (e : Engines) : Engines := { e with bk := { e.bk with run := false }, dn := { e.dn with run := false } }

/-- CONTEXT_SWITCH (01 R22, R24): the staged task of a core whose running context is free becomes RUNNING. What another launch has left in the core is 0. -/
def contextSwitch (core : Nat) (s : State) : State :=
  let k := s.core core
  if k.running.state ≠ .free || k.stagedCtx.state ≠ .staged then s
  else
    match s.partOf? (clusterOfCore core) with
    | none => s
    | some p =>
      let c := k.stagedCtx
      let mine := (p, s.seqOf p)
      let k := { k with run := 1 - k.run, lastLaunch := some mine, armFaults := [], use := k.used }
      match c.saved with
      | some x =>
        let k := { k.setCtx k.run { state := .running, task := scoreboardTask c.task, saved := none } with vec := x.vec, eng := x.eng }
        deliverAll (c.task.a.loads.length + 1) (.access core) (putGather core x.gbuf (s.setCore core k))
      | none =>
        let same := (s.core core).lastLaunch == some mine
        let vec := if same then k.vec else .reset
        let eng := if same then k.eng.stopped else .reset
        let s := if same then s else zeroGather core s
        s.setCore core { k.setCtx k.run { state := .running, task := c.task, saved := none } with vec := { vec with vcfg := vcfgReset, fsr := 0#64 }, eng := eng }
/-- CONTEXT_SWITCH (01 R22) -/
def execContextSwitch (core : Nat) (s : State) : Answer := .next (contextSwitch core s)

/-! Retirement (01 R23). -/

/-- Has every engine command of a core retired: no accumulator is open, no tile move and no gather outstanding? -/
def enginesIdle (e : Engines) : Bool :=
  e.bk.queue.isEmpty && e.bk.ended.isEmpty && e.dn.queue.isEmpty && e.gathers.isEmpty && e.tiles.isEmpty

/-- Has a task an open accumulator (01 R23; 10 R293)? -/
def openAccumulator (e : Engines) : Bool := !(e.bk.queue.isEmpty && e.bk.ended.isEmpty && e.dn.queue.isEmpty)

/-- Is retirement complete (R23)? -/
def retired (k : Core) (t : Task) : Bool :=
  t.a.ended && t.x.ended && t.a.loads.isEmpty && t.a.stores.isEmpty && t.a.pend.isEmpty && t.x.arm.isNone && enginesIdle k.eng

/-- Entries left in the queues between the streams (04 R97). -/
def queueLeft (q : Queues) : Nat :=
  ((q.sq.map (·.2.length)) ++ (q.vq.map (·.2.length))).foldl (· + ·) (q.vqs.length + q.cq.length + q.pq.length)

/-- The stream PCs of a task that is gone stay with its commands (14 R378). -/
def keepPcs (core : Nat) (t : Task) (s : State) : State :=
  let fix (b : Issuer) : Issuer := if b.core = core && b.task = t.ident then { b with pcs := some (t.a.pc, t.x.pc) } else b
  s.modCluster (clusterOfCore core) fun k =>
    { k with copies := k.copies.map fun q => (q.1, q.2.map fun c => { c with by_ := fix c.by_ }), sorts := k.sorts.map fun c => { c with by_ := fix c.by_ } }

/-- Can a released jig be placed on no core of its domain for want of its unit range (05 R126)? -/
def rangeWaits (s : State) (p : Nat) (l : Launch) (j : Jig) : Bool :=
  decide (j.next < j.count) && (members s p l j.jrec.level j.jrec.dsel).all fun c => !rangeFree s l c j

/-- The wait of released tasks for a unit range is counted once per cluster of their domains, on its lowest core (05 R136 URANGEWAIT); of unstated length (log entry 6). -/
def countRanges (p : Nat) (s : State) : State :=
  match (s.part p).launch with
  | none => s
  | some l =>
    let js := (l.jigs.map (·.2)).filter (rangeWaits s p l)
    ((s.clustersOf p).filter fun g => js.any fun j => (memberClusters s p l j.jrec.level j.jrec.dsel).contains g).foldl (fun s g => s.coreClk (24 * g) .urangewait) s

/-- Free the running context of a core. -/
def freeRunning (core : Nat) (s : State) : State := s.modCore core Core.freed

/-- RETIREMENT (01 R23; 11 R319): the running task of a core retires, and its jig with its last task. -/
def retirement (core : Nat) (s : State) : State :=
  match s.task? (.access core), s.partOf? (clusterOfCore core) with
  | some t, some p =>
    if !retired (s.core core) t || !s.issuing p then s
    else
      let s := (keepPcs core t (countRanges p s)).coreCtr core .qleft (queueLeft t.q)
      let s := modJig p t.jig (fun j => { j with open_ := j.open_ - 1 }) (freeRunning core s)
      retireIfDone p t.jig s
  | _, _ => s
/-- RETIREMENT (01 R23) -/
def execRetirement (core : Nat) (s : State) : Answer := .next (retirement core s)

/-! Parking (01 R26; 14 R398). -/

/-- The lowest free park slot of a cluster. -/
def freeSlot (l : Launch) (g : Nat) : Option Nat :=
  (List.range l.lrec.parkslots).find? fun i => !l.parked.any fun x => clusterOfCore x.core == g && x.slot == i

/-- Mark a task's spilled waiter entries as parked (12 R346, R348). -/
def markParked (p core : Nat) (id : W64) (s : State) : State :=
  (s.clustersOf p).foldl (fun s g => (s.cluster g).waiters.foldl (fun s w =>
    match w.place with
    | .ring i => if w.core = core && w.task = id then s.write (spillAddr s p i) (waiterBytes s p w true) else s
    | _ => s) s) s

/-- Is every access that a task has open a CLD that waits, or one behind it, which its acquire holds (06 R153, R154; log entry 86)? -/
def restsOnCld (t : Task) : Bool :=
  match waitingCld t with
  | some y => (t.a.loads ++ t.a.stores).all fun x => x.waiting || decide (y.seq < x.seq)
  | none => t.a.loads.isEmpty && t.a.stores.isEmpty

/-- Does the scheduler hold a released task for a domain of a core (01 R26 item 4)? -/
def releasedFor (s : State) (p core : Nat) (l : Launch) : Bool :=
  l.jigs.any fun x => (decide (x.2.next < x.2.count) && (members s p l x.2.jrec.level x.2.jrec.dsel).contains core) || x.2.claims.any (·.core == core)

/-- PARK (01 R26): the WAITING task of a core is parked. -/
def park (core : Nat) (s : State) : State :=
  let g := clusterOfCore core
  match s.task? (.access core), s.partOf? g with
  | some t, some p =>
    match (s.part p).launch with
    | none => s
    | some l =>
      let k := s.core core
      let waits := (waitingCld t).isSome && restsOnCld t && t.a.loads.all fun x => !x.waiting || x.answer.isNone
      let next := k.stagedCtx.state == .staged || releasedFor s p core l
      if !s.issuing p || !l.lrec.parken || !waits || !enginesIdle k.eng || t.x.arm.isSome || t.brk || !next then s
      else
        match (freeSlot l g).filter fun i => (slotPages l g i).all s.owned with
        | none => s.clusCtr g .parkrefused 1
        | some i =>
          let s := markParked p core t.ident (writeImage (slotPages l g i) t (coreImage s core) s)
          let x : Parked := { core := core, slot := i, image := { task := t, core := coreImage s core }, back := false }
          freeRunning core ((s.modLaunch p fun l => { l with parked := l.parked ++ [x] }).clusCtr g .parks 1)
  | _, _ => s
/-- PARK (01 R26) -/
def execPark (core : Nat) (s : State) : Answer := .next (park core s)

/-! Domain phases (01 R31, R32; 11 R320). -/

/-- The number of a core's domain at a level, for the table of phases. -/
def phaseKey (level core : Nat) : Nat :=
  match level with
  | 1 => 1000 + clusterOfCore core
  | 2 => 2000 + stackOfCore core
  | n => 1000 * n

def Launch.phaseOf (l : Launch) (key : Nat) : Phase := tget .zero l.phases key

/-- Its members on this device: DSEL of the domain of a core at a level. -/
def phaseMembers (s : State) (p : Nat) (l : Launch) (level core : Nat) : List Nat :=
  members s p l level (match level with | 1 => clusterOfCore core | 2 => stackOfCore core | _ => 0)

/-- Send to every port of the group but one, as relays do (01 R36; 11 R305; 13 R363). -/
def sendGroupPorts (g : Group) (except : Option Nat) (kind : PortKind) (words : List Nat) (s : State) : State :=
  (g.ports.filter fun x => some x.1 ≠ except).foldl (fun s x => s.sendPort x.1 kind words []) s

/-- The device reports to the group once all its members have arrived at the level-4 phase. -/
def reportPhase (p : Nat) (s : State) : State :=
  match (s.part p).launch with
  | none => s
  | some l =>
    match l.group with
    | none => s
    | some g =>
      let x := l.phaseOf 4000
      if (members s p l 4 0).all (fun c => x.arrived.contains c) && !x.ranks.contains (x.count, g.rank) then
        sendGroupPorts g none .phase [x.count, g.rank] (s.modLaunch p fun l => { l with phases := tput l.phases 4000 { x with ranks := (x.count, g.rank) :: x.ranks } })
      else s

/-- Complete a phase whose members have all arrived (R31), of level 4 on every device of the group if there is one: the count rises, and the arrived tasks leave their wait. -/
def completePhase (p level core : Nat) (s : State) : State :=
  match (s.part p).launch with
  | none => s
  | some l =>
    let key := phaseKey level core
    let x := l.phaseOf key
    let here := (phaseMembers s p l level core).all fun c => x.arrived.contains c
    let there := level ≠ 4 || (match l.group with | some g => (List.range g.size).all fun r => x.ranks.contains (x.count, r) | none => true)
    if here && there then
      let s := s.modLaunch p fun l => { l with phases := tput l.phases key { count := (x.count + 1) % 2 ^ 32, arrived := [], ranks := x.ranks.filter fun r => r.1 ≠ x.count } }
      if level = 4 then reportPhase p s else s
    else s

/-- A task arrives at its domain of a level. -/
def arrive (p level core : Nat) (s : State) : State :=
  let key := phaseKey level core
  let s := s.modLaunch p fun l => { l with phases := tmod .zero l.phases key fun x => { x with arrived := core :: x.arrived } }
  completePhase p level core (if level = 4 then reportPhase p s else s)

/-- The level and count of the phase that a task has arrived at and waits for. -/
def phaseWait (t : Task) : Option (Nat × Nat) := match t.a.wait with | some (.phase l c) => some (l, c) | _ => none

/-- The scope of the phases of a level (01 R29, R32). -/
def phaseScope : Nat → Scope
  | 0 => .unit
  | 1 => .group
  | 4 => .system
  | _ => .device

/-- The issue of DARRIVE: holds with the phase it waits for. -/
def issueDarrive (g : Guard) (d : SDst) (a : Scalar) (s : State) : Answer :=
  issue (acc g [.dst d, .src a]) s fun c s => do
    let (x, s) := readScalar c a s
    let core := c.a.core?.getD 0
    let level := x.toNat
    if level ≥ 5 || !(s.core core).dmr.getLsbD (24 + level) then err .dombad
    if level = 0 then
      releaseReady c (phaseScope level) s
      return writeDst c d 1 0#64 s
    let l := (s.part (s.partOf c.a)).launch.getD .empty
    let now := (l.phaseOf (phaseKey level core)).count
    match phaseWait (s.task c.a) with
    | some (_, n) => if now = n then holdFor (.wait (.phase level n)) else return writeDst c d 1 (BitVec.ofNat 64 now) s
    | none =>
      releaseReady c (phaseScope level) s
      holdFor (.wait (.phase level now))

/-- DARRIVE (R320): the first turn that nothing holds arrives at the phase; the word completes once the phase has. -/
def execDarrive (g : Guard) (d : SDst) (a : Scalar) (s : State) : Answer :=
  match issueDarrive g d a s with
  | .next s' =>
    match phaseWait (s.task s.cur), phaseWait (s'.task s'.cur), s.cur with
    | none, some (level, _), .access core => .next (arrive (s'.partOf s'.cur) level core s')
    | _, _, _ => .next s'
  | r => r

/-- LEVEL_4_PHASE_MESSAGE (01 R31): a device of the group reports that all its members have arrived at phase `count`; the report is relayed. -/
def level4Phase (port count rank : Nat) (s : State) : State :=
  match s.reaches? port with
  | none => s
  | some p =>
    match (s.part p).launch with
    | none => s
    | some l =>
      match l.group with
      | none => s
      | some g =>
        let x := l.phaseOf 4000
        if l.phase = .discarding || x.ranks.contains (count, rank) || !(decide (rank < g.size)) || rank = g.rank then s
        else
          let s := s.modLaunch p fun l => { l with phases := tput l.phases 4000 { x with ranks := (count, rank) :: x.ranks } }
          completePhase p 4 0 (completePhase p 4 0 (sendGroupPorts g (some port) .phase [count, rank] s))
/-- LEVEL_4_PHASE_MESSAGE (01 R31) -/
def execLevel4PhaseMessage (port count rank : Nat) (s : State) : Answer := .next (level4Phase port count rank s)

end Sys2Proof.Machine
end

