-- ==== Sys2Proof/Machine/LaunchRun.lean ====
section
/-! DEFINITION. Launches from submission to their end (spec/01_cores_tasks_domains.md R17-R21, R30-R36; spec/05 R118; spec/06 R156; spec/11 R304, R308; spec/15 R415, R416). -/

namespace Sys2Proof.Machine

open Sys2Proof

/-! Submission (15 R415). -/

/-- The partition that a function is bound to (14 R393). -/
def State.boundTo (s : State) (fn : Nat) : Option Nat :=
  let w := tget 0#64 s.plat.vdbind fn
  if decide (fn < 128) && bitOf w.toNat 5 && decide (bitsOf w.toNat 4 0 < 24) then some (bitsOf w.toNat 4 0) else none

/-- Is the module in REDUCED or SERVICE (15 R409)? -/
def State.serving (s : State) : Bool := s.modl.mstate == 3 || s.modl.mstate == 4

/-- Read a submitted record (01 R21): it stays unread while it waits on a page request. -/
def readRecord (p : Nat) (x : Submission) (s : State) : Submission × State :=
  if x.bytes.isSome || x.bad then (x, s)
  else
    match dRead p (s.lowCluster p) (.submission x.num) x.addr 64 s with
    | .ok bs s => ({ x with bytes := some bs }, s)
    | .wait s => (x, s)
    | .failed s => ({ x with bad := true }, s)
    | .ecc a s => ({ x with bad := true }, logMachine p { code := .eccunc, addr := a } s)

/-- A write to SUBMIT (15 R415): rejected, or the launch waits its turn and its record is read. -/
def submit (fn : Nat) (v : W64) (s : State) : State :=
  let reject : State := s.modFn fn fun f => { f with lstat := f.lstat ||| (1#64 <<< 30) }
  match s.boundTo fn with
  | none => reject
  | some p =>
    if !s.serving || !dspaceOk v.toNat 64 || ((s.part p).waiting.filter (·.fn == fn)).length ≥ 16 then reject
    else
      let x : Submission := { num := (s.part p).submitted, fn := fn, addr := v.toNat, bytes := none, bad := false }
      let (x, s) := readRecord p x s
      s.modPart p fun pt => { pt with waiting := pt.waiting ++ [x], submitted := pt.submitted + 1, lastFn := some fn }
/-- SUBMIT (15 R415) -/
def execSubmit (fn : Nat) (v : W64) (s : State) : Answer := .next (submit fn v s)

/-! Completion (01 R20). -/

/-- Write a completion status (15 R415) and raise vector 0 (R416). -/
def completion (fn launchid code : Nat) (s : State) : State :=
  (s.modFn fn fun f => { f with lstat := BitVec.ofNat 64 (launchid * 2 ^ 32 + 2 ^ 31 + code) }).raiseVec fn 0

/-- The completion of a launch, unless its function has been reset (13 R355). -/
def completeLaunch (l : Launch) (code : Nat) (s : State) : State := if l.silent then s else completion l.fn l.lrec.launchid code s

/-- The ports of a partition in Yarger direct mode. -/
def State.directPorts (s : State) (p : Nat) : List Nat := (List.range 8).filter fun n => (s.port n).owner? == some p && (s.port n).direct

/-- A refusal notice on every port of the partition but one (01 R36). -/
def refusalNotices (p pgid : Nat) (except : Option Nat) (s : State) : State :=
  ((s.directPorts p).filter fun n => some n ≠ except).foldl (fun s n => s.sendPort n .refusalNotice [pgid] []) s

/-- Refuse the launch that is starting (01 R36). -/
def refuseStarting (p code : Nat) (except : Option Nat) (s : State) : State :=
  match (s.part p).launch with
  | none => s
  | some l =>
    let s := completeLaunch l code (s.modPart p fun pt => { pt with launch := none })
    if l.lrec.multi then refusalNotices p ((l.group.map (·.pgid)).getD 0) except s else s

/-! Launch start (01 R21; 11 R304). -/

/-- Why a start goes no further: it waits, or the launch is refused. -/
inductive StartStop where
  | wait (s : State)
  /-- `pgid` is the PGID of the process-group table, once it has been read and passes R35 (01 R36); else 0. -/
  | refuse (code pgid : Nat) (s : State)
deriving DecidableEq, Repr

/-- Read a structure at launch start; a read that cannot be made refuses with LAUNCHBAD. -/
def startRead (p num addr n : Nat) (s : State) : Except StartStop (List Byte × State) :=
  match dRead p (s.lowCluster p) (.submission num) addr n s with
  | .ok bs s => .ok (bs, s)
  | .wait s => .error (.wait s)
  | .failed s => .error (.refuse 1 0 s)
  | .ecc a s => .error (.refuse 1 0 (logMachine p { code := .eccunc, addr := a } s))

/-- Refuse unless a check holds. -/
def check (ok : Bool) (code : Nat) (s : State) : Except StartStop Unit := if ok then .ok () else .error (.refuse code 0 s)

/-- Read the nodes and their records (11 R303, R304). -/
def readNodes (p num : Nat) (l : Launch) (bs : List Byte) : List Nat → State → Except StartStop (List TNode × State)
  | [], s => .ok ([], s)
  | i :: r, s => do
    let nb := (bs.drop (32 * i)).take 32
    check (nodeOk i l.tt.framelen l.windows nb) 1 s
    let (jb, s) ← startRead p num (fieldOf nb 0 8) 64 s
    let j := JigRec.ofBytes jb
    check (jigOk s p l jb j) 1 s
    let (ns, s) ← readNodes p num l bs r s
    return (TNode.ofBytes nb j :: ns, s)

/-- The process-group table, when the launch has one: its bytes. -/
def readGroup (p num : Nat) (r : LaunchRec) (s : State) : Except StartStop (List Byte × State) :=
  if !r.multi then .ok ([], s)
  else do
    let (h, s) ← startRead p num r.pgtbase 32 s
    if fieldOf h 2 2 = 0 || fieldOf h 2 2 > 256 then return (h, s)
    startRead p num r.pgtbase (32 + 32 * fieldOf h 2 2) s

/-- Read and check every structure of a launch (01 R20, R21), the process-group table last (log entry 51). A port that the table names and the partition does not own counts as not trained for it (13 R357). -/
def startLaunch (p : Nat) (x : Submission) (s : State) : Except StartStop (Launch × State) := do
  match x.bytes with
  | none => if x.bad then .error (.refuse 1 0 s) else .error (.wait s)
  | some bs =>
    check (recordOk bs) 1 s
    let r := LaunchRec.ofBytes bs
    let (wb, s) ← startRead p x.num r.wsbase (2048 * r.wscount) s
    let (db, s) ← startRead p x.num r.dmapbase 4608 s
    let (hb, s) ← startRead p x.num r.ttbase 0x140 s
    check (timetableOk hb) 1 s
    let tt := Timetable.ofBytes hb
    check (ringsOk s p tt.evqd tt.queues) 1 s
    match windows? s p r.wscount wb, domainMap? s p db with
    | some ws, some dm =>
      let vs := veneersOf ws
      check (veneersOk vs) 1 s
      check (match translateEntry (ws.headD []) false r.ctlbase .fetch with | .ok _ => true | .error _ => false) 1 s
      let l := { Launch.empty with lrec := r, fn := x.fn, startTick := s.modl.frame, windows := ws, dmap := dm, tt := tt, veneers := vs }
      let (nb, s) ← startRead p x.num (r.ttbase + 0x140) (32 * fieldOf hb 8 2) s
      let (nodes, s) ← readNodes p x.num l nb (List.range (fieldOf hb 8 2)) s
      match parkPages? s p r with
      | none => .error (.refuse 1 0 s)
      | some pages =>
        let l := { l with tt := { tt with nodes := nodes }, parkPages := pages }
        let (gb, s) ← readGroup p x.num r s
        if !r.multi then return (l, s)
        check (pgOk gb) 2 s
        match pgGroup gb with
        | none => .error (.refuse 3 (fieldOf gb 0 2) s)
        | some g =>
          if g.ports.all fun q => (s.port q.1).owner? == some p && (s.port q.1).direct then return ({ l with group := some g }, s)
          else .error (.refuse 4 g.pgid s)
    | _, _ => .error (.refuse 1 0 s)

/-- LAUNCH_START (01 R21, 05 R118): the oldest submission of a partition starts, waits on a page request, or is refused. It stays unstarted while the partition has no cluster (14 R391), while another launch is there, and after an HWFAULT (R390). A launch that starts takes the next LSEQ, though it be refused later; one refused here takes none (R18 does not say: log entry 93, DESIGN CHOICE). -/
def launchStart (p : Nat) (s : State) : State :=
  match (s.part p).waiting with
  | [] => s
  | x :: rest =>
    if (s.part p).launch.isSome || (s.part p).pstate ≠ .idle || (s.part p).mig.state = .receiving || (s.clustersOf p).isEmpty || s.modl.hwHeld || !s.serving then s
    else
      let (x, s) := readRecord p x s
      let s := s.modPart p fun pt => { pt with waiting := x :: rest }
      match startLaunch p x s with
      | .error (.wait s) => s
      | .error (.refuse code pgid s) =>
        let bs := x.bytes.getD []
        let s := s.modPart p fun pt => { pt with waiting := rest }
        let s := completion x.fn (fieldOf bs 0 4) code s
        if bitOf (fieldOf bs 4 4) 0 then refusalNotices p pgid none s else s
      | .ok (l, s) =>
        let seq := ((s.part p).lseq + 1) % 2 ^ 19
        let s := s.modPart p fun pt => { pt with waiting := rest, lseq := seq, launch := some { l with lseq := seq } }
        match l.group with
        | none => s
        | some g => g.ports.foldl (fun s q => s.sendPort q.1 .exchange [g.rank, g.pgid, g.crc.toNat] []) s
/-- LAUNCH_START (01 R21) -/
def execLaunchStart (p : Nat) (s : State) : Answer := .next (launchStart p s)

/-! The launch exchange (01 R36). -/

/-- The starting launch with a group of the partition that owns a port. -/
def startingOn (port : Nat) (s : State) : Option (Nat × Launch × Group) :=
  match s.reaches? port with
  | none => none
  | some p =>
    match (s.part p).launch with
    | some l => match l.group with | some g => if l.phase == .starting then some (p, l, g) else none | none => none
    | none => none

/-- LAUNCH_EXCHANGE (01 R36): the peer on a port reports its rank, PGID and CRC. -/
def launchExchange (port rank pgid : Nat) (crc : BitVec 32) (s : State) : State :=
  match startingOn port s with
  | none => s
  | some (p, _, g) =>
    match tget? g.ports port with
    | none => s
    | some want =>
      if rank = want && pgid = g.pgid && crc = g.crc then s.modLaunch p fun l => { l with exchanged := port :: l.exchanged.filter (· ≠ port) }
      else refuseStarting p 4 none s
/-- LAUNCH_EXCHANGE (01 R36) -/
def execLaunchExchange (port rank pgid : Nat) (crc : BitVec 32) (s : State) : Answer := .next (launchExchange port rank pgid crc s)

/-- Have all exchanges matched? -/
def exchanged (l : Launch) : Bool := match l.group with | some g => g.ports.all fun q => l.exchanged.contains q.1 | none => true

/-- PGTIMEOUT (01 R36): an exchange is not complete 100,000 ticks after the start. -/
def pgTimeout (p : Nat) (s : State) : State :=
  match (s.part p).launch with
  | some l => if l.phase = .starting && !exchanged l && s.reached (l.startTick + 100000) then refuseStarting p 5 none s else s
  | none => s
/-- PGTIMEOUT (01 R36) -/
def execPgtimeout (p : Nat) (s : State) : Answer := .next (pgTimeout p s)

/-- REFUSAL_NOTICE (01 R36): a notice on a named port that carries this PGID or 0 refuses the starting launch, and is relayed. -/
def refusalNotice (port pgid : Nat) (s : State) : State :=
  match startingOn port s with
  | none => s
  | some (p, _, g) => if (tget? g.ports port).isSome && (pgid = g.pgid || pgid = 0) then refuseStarting p 4 none s else s
/-- REFUSAL_NOTICE (01 R36) -/
def execRefusalNotice (port pgid : Nat) (s : State) : Answer := .next (refusalNotice port pgid s)

/-! Activation (05 R118). -/

/-- The scratchpads and gather buffers of a cluster (05 R118). -/
def zeroCluster (s : State) (g : Nat) : State :=
  zeroRange (gbufBase (24 * g)) (gbufBase (24 * g + 24)) (zeroRange (unitBase (24 * g)) (unitBase (24 * g + 24)) (zeroRange (clusBase g) (clusBase g + 2 ^ 24) s))

/-- The control core of a cluster at the start of a launch (11 R324). -/
def controlTask (p g : Nat) (l : Launch) : Task :=
  { Task.empty with
    ident := taskIdent p l.lseq g 0xFFFFFFFF, regs := if g = 0 then [] else [(0, BitVec.ofNat 64 g)]
    a := .start l.lrec.ctlbase, window := l.windows.headD [] }

/-- DMR of a core for a launch (01 R30). -/
def launchDmr (p : Nat) (l : Launch) (c : Nat) : W64 :=
  let g := l.group
  (dmrReset c &&& ~~~(0x1F000000#64)) ||| BitVec.ofNat 64
    (p + (tget 1#5 l.dmap c ||| 1#5).toNat * 2 ^ 24 + ((g.map (·.pgid)).getD 0) * 2 ^ 32 + ((g.map fun x => x.size - 1).getD 0) * 2 ^ 48 + ((g.map (·.rank)).getD 0) * 2 ^ 56)

/-- Every arrival entry of the partition's ports becomes IDLE (13 R368). -/
def idleArrivals (p : Nat) (s : State) : State :=
  (List.range 8).foldl (fun s n => if (s.port n).owner? = some p then
    s.modPort n fun q => { q with amt := q.amt.map fun e => (e.1, { e.2 with state := .idle }), kerf := match q.kerf with | .receiving _ => .dropping | k => k } else s) s

/-- LAUNCH_ACTIVATE (05 R118; 01 R30, R31; 08 R213; 11 R305, R312, R324): a started launch whose exchanges have matched becomes active. -/
def launchActivate (p : Nat) (s : State) : State :=
  match (s.part p).launch with
  | none => s
  | some l =>
    if l.phase ≠ .starting || !exchanged l then s
    else
      let gs := s.clustersOf p
      let s := (gs.foldl zeroCluster s).forgetPrior p
      let s := gs.foldl (fun s g => s.modCluster g fun k =>
        { k with queues := [], evq := .empty, evWait := [], evDone := [], barriers := [], ctl := some (controlTask p g l), seq := 0, lastq := 15, waiters := [], evals := [] }) s
      let s := gs.foldl (fun s g => (List.range 24).foldl (fun s i => s.modCore (24 * g + i) fun k => { k with dmr := launchDmr p l (24 * g + i) }) s) s
      let fl := l.tt.framelen
      let l := { l with phase := .active, f0 := ((s.modl.frame / fl + 1) * fl) % 2 ^ 48 }
      let s := s.modPart p fun pt => { pt with launch := some l, pins := [], logStale := true, pstate := .active, cwTail := 0 }
      reportPhase p (idleArrivals p s)
/-- LAUNCH_ACTIVATE (05 R118) -/
def execLaunchActivate (p : Nat) (s : State) : Answer := .next (launchActivate p s)

/-! The end of a launch (11 R308). -/

/-- Is the timetable finished (R308)? -/
def Launch.finished (l : Launch) : Bool := l.complete && decide (l.tt.nframe ≤ l.frame + 1)

/-- Has every command of the partition's tasks and control cores completed, and has every control core ended (R308)? -/
def quietPart (s : State) (p : Nat) : Bool :=
  (s.clustersOf p).all fun g =>
    let k := s.cluster g
    k.copies.all (fun q => q.2.isEmpty) && k.sorts.isEmpty &&
      (match k.ctl with | some t => t.a.ended && t.a.loads.isEmpty && t.a.stores.isEmpty | none => true) &&
      (List.range 24).all fun i =>
        let c := s.core (24 * g + i)
        c.ctx0.state == .free && c.ctx1.state == .free && enginesIdle c.eng

/-- What a launch leaves when it ends or is discarded (09 R250; 12 R350; 13 R368; 01 R30). -/
def clearLaunch (p : Nat) (s : State) : State :=
  let s := idleArrivals p (revertCells p s)
  let s := (s.clustersOf p).foldl (fun s g => s.modCluster g fun k => { k with ctl := none }) s
  s.modPart p fun pt =>
    { pt with launch := none, pstate := .idle, pins := [], dreads := pt.dreads.filter fun d => match d.who with | .submission _ => true | _ => false }

/-- LAUNCH_END (11 R308; 01 R20): the launch ends normally. -/
def launchEnd (p : Nat) (s : State) : State :=
  match (s.part p).launch with
  | none => s
  | some l =>
    if l.phase ≠ .active || (s.part p).pstate ≠ .active || !l.finished || !l.jigs.isEmpty || !l.delayed.isEmpty || !quietPart s p then s
    else completeLaunch l 0 (clearLaunch p s)
/-- LAUNCH_END (11 R308) -/
def execLaunchEnd (p : Nat) (s : State) : Answer := .next (launchEnd p s)

end Sys2Proof.Machine
end

