-- ==== Sys2Proof/Machine/Power.lean ====
section
/-! DEFINITION. What acts on interval pulses: the activity forecast, the power manager, the thermal columns, soft errors, the clock counters of the cores (spec/00_scope.md R3; spec/01 R38; spec/11 R329; spec/15_module_platform.md R417-R420). -/

namespace Sys2Proof.Machine

open Sys2Proof

/-! The forecast (11 R329). -/

/-- Activity classes and iterations of the nodes whose base tick falls within the next 8 ticks, by home stack. -/
def comingNodes (s : State) (p : Nat) (l : Launch) : List (Nat × Nat × Nat) :=
  if l.phase ≠ .active then []
  else (List.range 8).flatMap fun k =>
    let d := (s.modl.frame + k + 1 + 2 ^ 48 - l.f0) % 2 ^ 48
    let f := d / l.tt.framelen
    if d < 2 ^ 47 && f < l.tt.nframe then
      l.tt.nodes.filterMap fun n =>
        if n.relt == d % l.tt.framelen && n.runs f then
          some (n.jrec.act, (iterations l n.jrec).2, stackOfCluster ((memberClusters s p l n.jrec.level n.jrec.dsel).headD 0))
        else none
    else []

/-- Activity classes and unclaimed iterations of released jigs, by home stack. -/
def unclaimed (l : Launch) : List (Nat × Nat × Nat) :=
  l.jigs.map fun x => (x.2.jrec.act, x.2.count - x.2.next + x.2.claims.length, stackOfCluster x.2.home)

/-- The tasks of a launch that are STAGED, RUNNING or WAITING, by stack. -/
def placedTasks (s : State) (p : Nat) (l : Launch) : List (Nat × Nat × Nat) :=
  s.cores.flatMap fun k =>
    if s.hasCore p k.1 then
      [k.2.ctx0, k.2.ctx1].filterMap fun c =>
        if c.state = .staged || c.state = .running then (tget? l.jigs c.task.jig).map fun j => (j.jrec.act, 1, stackOfCore k.1) else none
    else []

/-- The forecast register of a stack. -/
def forecast (s : State) (st : Nat) : W64 :=
  let all := (List.range 24).flatMap fun p => match (s.part p).launch with
    | some l => placedTasks s p l ++ unclaimed l ++ comingNodes s p l
    | none => []
  let sum (cs : List Nat) : Nat := Nat.min 1152 ((all.filter fun x => x.2.2 == st && cs.contains x.1).foldl (fun n x => n + x.2.1) 0)
  BitVec.ofNat 64 (sum [0] * 2 ^ 33 + sum [2, 3] * 2 ^ 22 + sum [1, 3] * 2 ^ 11 + s.modl.intcnt % 2 ^ 11)

/-! The power manager (R417). -/

/-- The share of a stack, in sixteenths: E and C of R417 in exact arithmetic. -/
def shareOfStack (budget : Nat) (reduced : Bool) (afr : W64) : Nat :=
  let b := bitsOf afr.toNat 21 11
  let d := bitsOf afr.toNat 32 22
  let c := 4 * (220 * b + 260 * d)
  let e := 1152 * (budget - 600)
  let g := if c ≤ e then 16 else Nat.max 1 (16 * e / c)
  if reduced && g > 8 then 8 else g

/-- Forecast and grants at a pulse: the grants of the last pulse take effect, and new ones are written (PWRGNT reads these: log entry 101). -/
def powerPulse (s : State) : State :=
  let afr : Table W64 := (List.range 4).map fun st => (st, forecast s st)
  let share : Table Nat := afr.map fun x => (x.1, shareOfStack s.plat.budget (s.modl.mstate == 3) x.2)
  s.modPlat fun x => { x with afr := afr, bshare := share, dshare := share, forceB := x.bshare, forceD := x.dshare }

/-! Thermal columns (R418, R419). -/

/-- Signed value of a 12-bit temperature. -/
def degrees (x : BitVec 12) : Int := x.toInt

/-- The neighbours of a column: clusters n ± 1 and n ± 8 of the same die in a grid of 6 rows by 8 columns. -/
def neighbours (col : Nat) : List Nat :=
  let d := col / 48 * 48
  let n := col % 48
  (((if n % 8 ≠ 0 then [n - 1] else []) ++ (if n % 8 ≠ 7 then [n + 1] else []) ++ (if 8 ≤ n then [n - 8] else []) ++
    (if n < 40 then [n + 8] else [])).map (d + ·))

def absDiff (a b : Int) : Nat := (a - b).natAbs

/-- Does a reading differ too much from the estimate and from its healthy neighbours (R419)? -/
def implausible (t : Table TCol) (col : Nat) (x : TCol) : Bool :=
  let ns := ((neighbours col).map fun n => tget .reset t n).filter fun y => !y.failed
  let r := degrees x.read
  let e := degrees x.est
  if ns.length < 2 then decide (200 < absDiff r e)
  else
    let k : Int := ns.length
    let sum := ns.foldl (fun a y => a + degrees y.read) 0
    decide (120 < absDiff r e) && decide (120 * ns.length < absDiff (r * k) sum)

/-- The cause for which a sensor is declared failed now, 0 for none: range, stuck, implausible, in this order. -/
def failCause (read : Option (BitVec 12)) (x : TCol) : Nat :=
  let out := match read with | none => true | some r => decide (degrees r < -320) || decide (1200 < degrees r)
  let hi := x.same.foldl Nat.max 0
  let lo := x.same.foldl Nat.min hi
  if out then 1
  else if x.same.length ≥ 1000 && hi - lo > 3000 then 2
  else if x.odd ≥ 100 then 3
  else 0

/-- The cap of a column at its temperature (R418; log entry 105). -/
def newCap (cap : Nat) (failed : Bool) (t : Int) : Nat :=
  let normal := if failed then 12 else 16
  if 840 ≤ t then 0
  else if 760 ≤ t then 8
  else if cap = 8 || cap = 0 then (if t < 720 then normal else cap)
  else normal

/-- A column takes its reading: READ, EST and the histories. -/
def takeReading (v : Sensor) (x : TCol) : TCol :=
  let r := v.read.getD x.read
  { x with read := r, est := v.est, same := if r = x.read then (v.power :: x.same).take 1000 else [v.power] }

/-- The check of a column after all readings, and its cap; its neighbours are as they stand in `t`, before the checks of the interval (log entry 53). -/
def columnPulse (t : Table TCol) (s : State) (v : Sensor) : State :=
  let x := tget TCol.reset s.plat.tcol v.col
  let x := { x with odd := if implausible t v.col x then x.odd + 1 else 0 }
  let cause := if x.failed then 0 else failCause v.read x
  let p := (s.partOf? v.col).getD 0xFF
  let put (y : TCol) (s : State) : State := s.modPlat fun z => { z with tcol := tput z.tcol v.col y }
  let y := if cause = 0 then x else { x with failed := true, cause := cause }
  let s := put y s
  let s := if cause = 0 then s
    else (s.bbEvent 6 p (leBytes 2 v.col ++ leBytes 1 cause ++ leBytes 2 y.read.toNat ++ leBytes 2 y.est.toNat)).raiseVec physFn 8
  let cap := newCap y.cap y.failed (if y.failed then degrees y.est + 80 else degrees y.read)
  if cap = y.cap then s
  else ((put { y with cap := cap } s).bbEvent 7 p (leBytes 2 v.col ++ leBytes 1 y.cap ++ leBytes 1 cap)).raiseVec physFn 8

/-- A column whose sensor the pulse does not name reads as before. -/
def asBefore (s : State) (col : Nat) : Sensor :=
  let x := tget TCol.reset s.plat.tcol col
  { col := col, read := some x.read, est := x.est, power := x.same.headD 0 }

/-- The thermal sensors at a pulse. -/
def thermalPulse (vs : List Sensor) (s : State) : State :=
  let cols := (List.range 192).filter fun c => vs.any (·.col == c) || (tget? s.plat.tcol c).isSome
  let all := cols.map fun c => (vs.find? (·.col == c)).getD (asBefore s c)
  let s := all.foldl (fun s v => s.modPlat fun z => { z with tcol := tmod .reset z.tcol v.col (takeReading v) }) s
  all.foldl (columnPulse s.plat.tcol) s

/-- Is issue held on a core of a column with a cap of 0 (R418)? -/
def State.tooHot (s : State) (g : Nat) : Bool := match tget? s.plat.tcol g with | some x => x.cap == 0 | none => false

/-! Soft errors (R420; 14 R389). -/

/-- Correctable errors of an interval are counted, with one event for each kind. -/
def softPulse (es : List SoftError) (s : State) : State :=
  es.foldl (fun s e =>
    (s.modPlat fun z => { z with ecccor := ctrAdd z.ecccor e.kind e.count }).bbEvent 4 0xFF (leBytes 1 e.kind ++ leBytes 4 e.count ++ leBytes 8 e.loc)) s

/-- Units of memory go into error. -/
def breakUnits (us : List Nat) (s : State) : State := { s with attr := { s.attr with ecc := us ++ s.attr.ecc } }

/-! Refresh of transient regions (13 R375). -/

/-- What the LP memory devices report, in units of 0.125 °C. -/
def lpReports (vs : List Sensor) : List Int := (vs.filter fun v => decide (192 ≤ v.col)).filterMap fun v => v.read.map (·.toInt)

/-- Transient regions are refreshed from the report of a device above 85 °C until every report is of 80 °C or less. The deadlines do not change. -/
def lpPulse (vs : List Sensor) (s : State) : State :=
  let r := lpReports vs
  s.modPlat fun x => { x with lpRefresh := if r.any (680 < ·) then true else if !r.isEmpty && r.all (· ≤ 640) then false else x.lpRefresh }

/-! Clocks of the cores (01 R38). -/

/-- The 600 clocks of an interval among the states that a running context has been in: the shares are free where there were several (log entry 6). -/
def splitClocks (u : ClockUse) (s : State) : Nat × Nat :=
  let a := if !u.act then 0 else if !u.wait && !u.idle then 600 else Config.freeClocks s.freeCtr % 601
  (a, if !u.wait then 0 else if !u.idle then 600 - a else Config.freeClocks (s.freeCtr + 1) % (601 - a))

/-- A core at the start of an interval: what its context is now. -/
def Core.nextUse (k : Core) : Core :=
  let run := k.running.state == .running
  let k := { k with use := { act := false, wait := false, idle := !run } }
  if run then k.setCtx k.run { k.running with task := k.running.task.useNow } else k

/-- The clocks of an interval fall to ACTCLK and WAITCLK as the running context was RUNNING or WAITING in it; IDLECLK is the rest. -/
def coreClocks (s : State) : State :=
  (s.cores.map (·.1)).foldl (fun s c =>
    let x := splitClocks (s.core c).used s
    ((((s.coreCtr c .actclk x.1).coreCtr c .waitclk x.2).drawn).drawn).modCore c Core.nextUse) s

/-- Waits that no turn of a stream sees are counted at the pulses: CLDs that wait (12 R351), jigs that wait for a unit range (05 R136), arrivals that wait for the jig pool (11 R331). Their lengths are not stated (log entry 6). -/
def countWaits (s : State) : State :=
  let s := s.clus.foldl (fun s k => k.2.waiters.foldl (fun s w => s.coreClk w.core .cellwaitclk) s) s
  (List.range 24).foldl (fun s p =>
    match (s.part p).launch with
    | none => s
    | some l =>
      let s := countRanges p s
      if !l.poolFree && !(waitingArrivals p s).isEmpty then s.partClk p .poolwaitclk else s) s

end Sys2Proof.Machine
end

