-- ==== Sys2Proof/Machine/Frames.lean ====
section
/-! DEFINITION. Intervals, ticks, frames and slips (spec/00_scope.md R2, R3; spec/11_jigs_queues_timetables.md R305, R307; spec/09 R248). -/

namespace Sys2Proof.Machine

open Sys2Proof

/-- Has the current frame of a launch ended on this device: it is complete, and every other device of the group is done with it (R305)? -/
def Launch.frameEnded (l : Launch) : Bool :=
  l.complete && match l.group with
    | some g => (List.range g.size).all fun r => r == g.rank || l.frameDone.contains (l.frame, r)
    | none => true

/-- Does a launch hold the frame counter: is it at the last tick of a frame that has not ended (R307)? -/
def Launch.holds (l : Launch) (now : Nat) : Bool :=
  l.phase == .active && (now + 1) % 2 ^ 48 == l.frameStart (l.frame + 1) && !l.frameEnded

/-- The partitions whose launches hold the counter. -/
def holders (s : State) : List Nat :=
  (List.range 24).filter fun p => match (s.part p).launch with | some l => l.holds s.modl.frame | none => false

/-- Jigs of the frame that have not retired, and nodes not released (R321). -/
def openJigs (l : Launch) : Nat :=
  (l.jigs.filter fun x => x.2.frame == l.frame).length +
    ((List.range l.tt.nodes.length).filter fun i =>
      (match l.tt.nodes[i]? with | some n => n.runs l.frame | none => false) && tget .waiting l.nodes i == .waiting).length

/-- The event and the record of a slip (R307). -/
def slipRecord (p : Nat) (s : State) : State :=
  match (s.part p).launch with
  | none => s
  | some l =>
    let s := s.bbEvent 2 p (leBytes 8 l.frame)
    let s := evqSend p (s.lowCluster p) { kind := 0xB, src := 31, stat := 0, idx := openJigs l, data := BitVec.ofNat 64 l.frame } s
    s.modLaunch p fun l => { l with slipAt := some s.modl.intcnt }

/-- The launch enters its next frame when the counter reaches the frame's first tick. -/
def stepFrame (now : Nat) (l : Launch) : Launch :=
  if l.phase == .active && now == l.frameStart (l.frame + 1) && l.frame + 1 < l.tt.nframe then
    { l with frame := l.frame + 1, complete := false, nodes := [], frameDone := l.frameDone.filter fun x => decide (l.frame < x.1), slipAt := none }
  else { l with slipAt := none }

/-- The frame counter advances by one tick: frames begin, and pending swaps take effect (R248). -/
def tick (s : State) : State :=
  let now := (s.modl.frame + 1) % 2 ^ 48
  let s := { s with modl := { s.modl with frame := now } }
  let s := (List.range 24).foldl (fun s p => if (s.part p).launch.isSome then s.modLaunch p (stepFrame now) else s) s
  (List.range 24).foldl (fun s p => (List.range 4).foldl (fun s st => swapTick p st s) s) s

/-- What the tick that ends still holds: delayed pushes and nodes that are due are released (R306, R309, 06 R159). -/
def releaseDue (s : State) : State :=
  (List.range 24).foldl (fun s p => match (s.part p).launch with
    | some l => (List.range l.tt.nodes.length).foldl (fun s i => nodeRelease p i s) ((List.range l.delayed.length).foldl (fun s _ => jpushDue p s) s)
    | none => s) s

/-- Is a frame complete (R307)? -/
def frameQuiet (l : Launch) : Bool :=
  (List.range l.tt.nodes.length).all (fun i =>
    (match l.tt.nodes[i]? with | some n => !n.runs l.frame | none => true) || tget .waiting l.nodes i == .done) &&
    l.jigs.all fun x => x.2.frame ≠ l.frame

/-- Does the current frame of a launch become complete now (R307)? A delayed push whose tick has come is a jig of the frame (R309). -/
def Launch.closes (l : Launch) (s : State) : Bool :=
  l.phase == .active && !l.complete && s.reached (l.frameStart l.frame) && frameQuiet l && l.delayed.all fun d => !s.reached d.due

/-- The current frame of a partition's launch is marked when it has become complete (R307), and the group is told (R305). -/
def closeFrame (p : Nat) (s : State) : State :=
  match (s.part p).launch with
  | none => s
  | some l =>
    if !l.closes s then s
    else
      let s := s.modLaunch p fun l => { l with complete := true }
      match l.group with | some g => sendGroupPorts g none .frameDone [l.frame, g.rank] s | none => s

/-- The end of a hold (R307): once no launch holds the counter, it advances by one tick. -/
def endHold (s : State) : State :=
  if s.modl.slip && (holders s).isEmpty then
    let s := { s with modl := { s.modl with slip := false } }
    let s := s.modPlat fun x => { x with slipclk := (x.slipclk + Config.freeClocks s.freeCtr % 601) % 2 ^ 64 }
    tick s.drawn
  else s

/-- The counter advances, or a slip begins, lasts or ends (R307): what the tick holds is done first. Each launch that holds slips on its own (log entry 102, DEDUCED). -/
def tickOrSlip (s : State) : State :=
  let s := (List.range 24).foldl (fun s p => closeFrame p s) (releaseDue s)
  if s.modl.slip then if (holders s).isEmpty then endHold s else s.modPlat fun x => { x with slipclk := (x.slipclk + 600) % 2 ^ 64 }
  else
    match holders s with
    | [] => tick s
    | ps =>
      let s := { s with modl := { s.modl with slip := true } }
      ps.foldl (fun s p => (slipRecord p s).modPlat fun x => { x with slips := (x.slips + 1) % 2 ^ 64 }) s

/-- INTERVAL_PULSE (00 R3): an interval opens. The sensors and the LP memory devices return `sensors`; correctable errors `soft` were met, and the units `broken` went into error, in the interval that ends. -/
def execIntervalPulse (sensors : List Sensor) (soft : List SoftError) (broken : List Nat) (s : State) : Answer :=
  let s := countWaits (coreClocks (breakUnits broken (softPulse soft s)))
  let s := { s with modl := { s.modl with intcnt := (s.modl.intcnt + 1) % 2 ^ 48 } }
  .next (thermalPulse sensors (lpPulse sensors (powerPulse (tickOrSlip s))))

/-- SLIP_REPEAT (R307): a further 600 × FRAMELEN clocks of a hold have passed. -/
def slipRepeat (p : Nat) (s : State) : State :=
  match (s.part p).launch with
  | none => s
  | some l =>
    match l.slipAt with
    | some t => if s.modl.slip && l.holds s.modl.frame && l.tt.framelen ≤ s.age t then slipRecord p s else s
    | none => s
/-- SLIP_REPEAT (R307) -/
def execSlipRepeat (p : Nat) (s : State) : Answer := .next (slipRepeat p s)

/-- FRAME_COMPLETE (R307): the current frame of a launch is complete, and a hold may end. -/
def frameComplete (p : Nat) (s : State) : State :=
  match (s.part p).launch with
  | none => s
  | some l => if l.closes s then endHold (closeFrame p s) else s
/-- FRAME_COMPLETE (R307) -/
def execFrameComplete (p : Nat) (s : State) : Answer := .next (frameComplete p s)

/-- FRAME_DONE (R305): another device of the group has completed a frame; the message is relayed. -/
def frameDone (port frame rank : Nat) (s : State) : State :=
  match s.reaches? port with
  | none => s
  | some p =>
    match (s.part p).launch with
    | none => s
    | some l =>
      match l.group with
      | none => s
      | some g =>
        if l.phase = .discarding || l.frameDone.contains (frame, rank) || rank = g.rank || !(decide (rank < g.size)) then s
        else endHold (sendGroupPorts g (some port) .frameDone [frame, rank] (s.modLaunch p fun l => { l with frameDone := (frame, rank) :: l.frameDone }))
/-- FRAME_DONE (R305) -/
def execFrameDone (port frame rank : Nat) (s : State) : Answer := .next (frameDone port frame rank s)

end Sys2Proof.Machine
end

