-- ==== Sys2Proof/Machine/Messages.lean ====
section
/-! DEFINITION. Messages between devices: MSEND and KSEND, arrival entries, the exact class and the kerf class, major 0x38 (spec/13_links_and_kerf.md R358-R369; spec/14 R405). -/

namespace Sys2Proof.Machine

open Sys2Proof

/-! Sending (R359-R362). -/

/-- May the partition's launch use a port (R360)? -/
def portOk (s : State) (p port : Nat) : Bool :=
  (s.port port).owner? == some p && (s.port port).direct &&
    (match s.group? p with | some g => (tget? g.ports port).isSome | none => false)

/-- Is a length one of the class (R360)? -/
def lenOk (kerf : Bool) (len : Nat) : Bool :=
  let unit := if kerf then 256 else 4
  decide (unit ≤ len) && decide (len ≤ 16777216) && len % unit == 0

/-- Does a message descriptor keep the table of R360? -/
def msgDescOk (kerf : Bool) (bs : List Byte) : Bool :=
  let f (o n : Nat) := fieldOf bs o n
  f 0 8 % 4 == 0 && lenOk kerf (f 8 4) && decide (f 0x10 1 < 8) && f 0x11 1 == 0 && (if kerf then f 0x12 2 ≠ 0 else f 0x12 2 == 0) && f 0x14 12 == 0

/-- The copy command of a message (R359): DBYTES is LEN. -/
def messageCmd (kerf : Bool) (by_ : Issuer) (ctl : CopyCtl) (view : View) (bs : List Byte) : CopyCmd :=
  let f (o n : Nat) := fieldOf bs o n
  { by_ := by_, op := if kerf then .ksend else .msend
    d := { src := BitVec.ofNat 64 (f 0 8), dst := 0#64, xn := f 8 4, yn := 1, zn := 1, srs := 0, sps := 0, drs := 0, dps := 0, fmt := 0, mcast := 0#24, plane := 0#64, res := 0#64 }
    ctl := ctl, view := view, row := 0, x := 0, wait := none, faults := [], flags := 0#6, ddfull := false, ringwait := false, faulted := false
    n1 := 0, n2 := 0, zlast := 0, sbytes := [], dbytes := []
    msg := some { kerf := kerf, len := f 8 4, tag := f 0xC 4, port := f 0x10 1, dl := f 0x12 2, seq := 0, attempts := 0, phase := .reading, bytes := [], bad := [] }
    captured := false }

/-- MSEND and KSEND at issue (R359, R360). -/
def messageWord (kerf : Bool) (g : Guard) (a b : Scalar) (s : State) : Answer :=
  queueWord g a b 32 (fun c bs s => do
    if !msgDescOk kerf bs then err .msgbad
    if !portOk s (s.partOf c.a) (fieldOf bs 0x10 1) then err .portbad) (messageCmd kerf) s

/-- MSEND (R359-R361) -/
def execMsend (g : Guard) (a b : Scalar) (s : State) : Answer := messageWord false g a b s
/-- KSEND (R359-R361) -/
def execKsend (g : Guard) (a b : Scalar) (s : State) : Answer := messageWord true g a b s

/-- Command `i` of an engine, when it is a message that is under way. -/
def messageAt (s : State) (g e i : Nat) : Option (CopyCmd × Msg) :=
  match (s.copyQueue g e)[i]? with
  | some c => c.msg.map fun m => (c, m)
  | none => none

/-- Put a message back. -/
def setMessage (g e i : Nat) (c : CopyCmd) (m : Msg) (s : State) : State := setCopy g e i { c with msg := some m } s

/-- The exact-class message of a task's command has been performed (06 R152). -/
def messageDone (p : Nat) (b : Issuer) (s : State) : State :=
  modHeldTask p b.core b.task (fun t => pruneMarks { t with a := { t.a with exact := t.a.exact.filter fun x => x.2 ≠ b.idx } }) s

/-- ACKNOWLEDGEMENT (R362): the attempt on the link has been acknowledged. -/
def acknowledgement (g e i : Nat) (s : State) : State :=
  match messageAt s g e i with
  | some (c, m) =>
    match m.phase with
    | .sent _ => if !(s.port m.port).direct then s else messageDone ((s.partOf? g).getD 0) c.by_ (setMessage g e i { c with row := 1 } { m with phase := .acked } s)
    | _ => s
  | none => s
/-- ACKNOWLEDGEMENT (R362) -/
def execAcknowledgement (g e i : Nat) (s : State) : Answer := .next (acknowledgement g e i s)

/-- NOMATCH (R362): the attempt has been answered NOMATCH or REFUSED. -/
def noMatch (g e i : Nat) (s : State) : State :=
  match messageAt s g e i with
  | some (c, m) => match m.phase with | .sent _ => if (s.port m.port).direct then setMessage g e i c { m with phase := .backoff s.modl.frame } s else s | _ => s
  | none => s
/-- NOMATCH (R362) -/
def execNomatch (g e i : Nat) (s : State) : Answer := .next (noMatch g e i s)

/-- ATTEMPT_TIMEOUT (R362): 256 ticks have passed without an answer. -/
def attemptTimeout (g e i : Nat) (s : State) : State :=
  match messageAt s g e i with
  | some (c, m) =>
    match m.phase with
    | .sent t => if s.reached (t + 256) then setMessage g e i c { m with phase := .backoff s.modl.frame } s else s
    | _ => s
  | none => s
/-- ATTEMPT_TIMEOUT (R362) -/
def execAttemptTimeout (g e i : Nat) (s : State) : Answer := .next (attemptTimeout g e i s)

/-- NEW_ATTEMPT (R362): 64 ticks after an attempt has failed the message is sent again; after 16 attempts the command raises MSGFAIL. -/
def newAttempt (g e i : Nat) (s : State) : State :=
  match messageAt s g e i with
  | some (c, m) =>
    match m.phase with
    | .backoff t =>
      if !s.reached (t + 64) then s
      else if m.attempts ≥ 16 then copyTrap c { code := .msgfail } s
      else
        let m := { m with attempts := m.attempts + 1, phase := .sent s.modl.frame }
        (putMessage ((s.partOf? g).getD 0) m (setMessage g e i c m s)).portCtr m.port .msgtries 1
    | _ => s
  | none => s
/-- NEW_ATTEMPT (R362) -/
def execNewAttempt (g e i : Nat) (s : State) : Answer := .next (newAttempt g e i s)

/-- MOVED (14 R405): the message is held until a redirect notice, without spending an attempt. -/
def movedAnswer (g e i : Nat) (s : State) : State :=
  match messageAt s g e i with
  | some (c, m) => match m.phase with | .sent _ => if (s.port m.port).direct then setMessage g e i c { m with phase := .moved } s else s | _ => s
  | none => s
/-- MOVED (14 R405) -/
def execMoved (g e i : Nat) (s : State) : Answer := .next (movedAnswer g e i s)

/-- Messages of a partition that are held after a MOVED, on a port: cluster, engine, place. -/
def movedOn (s : State) (p port : Nat) : List (Nat × Nat × Nat) :=
  (s.clustersOf p).flatMap fun g => (List.range 4).flatMap fun e =>
    (List.range (s.copyQueue g e).length).filterMap fun i =>
      match messageAt s g e i with
      | some (_, m) => if m.phase = .moved && m.port = port then some (g, e, i) else none
      | none => none

/-- REDIRECT_NOTICE (14 R404, R405): a notice arrives on port `dest` for the launch that was reached by port `from_`; held messages are sent again on the named port. -/
def redirectNotice (from_ dest : Nat) (s : State) : State :=
  match s.reaches? dest with
  | none => s
  | some p =>
    (movedOn s p from_).foldl (fun s x =>
      match messageAt s x.1 x.2.1 x.2.2 with
      | some (c, m) =>
        let m := { m with port := dest, phase := .sent s.modl.frame }
        putMessage p m (setMessage x.1 x.2.1 x.2.2 c m s)
      | none => s) s
/-- REDIRECT_NOTICE (14 R404) -/
def execRedirectNotice (from_ dest : Nat) (s : State) : Answer := .next (redirectNotice from_ dest s)

/-! Arrival entries (R367, R368). -/

/-- A word on an arrival entry is a store at system scope (R367): it waits its turn as the task's fences and acquires go. -/
def entryTurn (c : Ctx) (s : State) : Except Stop Unit :=
  let e := innerElem 0#64 (.byte lpBase) 0
  let x := { innerAccess c .relaxed .system e with op := .store }
  if marksAllow c.a (s.task c.a) x e && accessesAllow c.a (s.task c.a) x e then .ok () else holdFor .accesses

/-- Is the entry one that a message is being received into? It waits for its jig's pool entry too. -/
def entryBusy (s : State) (port i : Nat) : Bool :=
  match tget? (s.port port).amt i with
  | some e => e.state == .receiving || e.state == .waiting
  | none => false

/-- Bytes of a status area (R367). -/
def statusSize (len : Nat) : Nat := 32 + 32 * ceilDiv (ceilDiv len 256) 256

/-- Do the fields of a template keep R367? -/
def templateFieldsOk (bs : List Byte) : Bool :=
  let f (o n : Nat) := fieldOf bs o n
  let kerf := bitOf (f 0x30 1) 0
  lenOk kerf (f 4 4) && f 8 8 % 4 == 0 && f 0x10 8 % 32 == 0 && dspaceAddr (f 0x18 8) && decide (f 0x30 1 < 4) && f 0x31 15 == 0 &&
    (f 0x28 8 == 0 || (kerf && !bitOf (f 0x30 1) 1))
where
  /-- A 64-byte aligned D-space address. -/
  dspaceAddr (a : Nat) : Bool := a % 64 == 0 && decide (a < 2 ^ 48)

/-- The jig record of a template, read from D-space for a core (R367; 01 R21): the word holds while it waits for a page, and a read that fails raises AMTBAD. -/
def arrivalRecord (p : Nat) (c : Ctx) (addr : Nat) (s : State) : Except Stop (Option JigRec × State) :=
  if addr = 0 then .ok (none, s)
  else
    let who : Reader := .arrival (c.a.core?.getD 0)
    let asked := (s.part p).dreads.any fun d => d.who == who && !d.failed
    match dRead p c.a.cluster who addr 64 s with
    | .ok bs s =>
      let j := JigRec.ofBytes bs
      match (s.part p).launch with
      | some l => if jigOk s p l bs j then .ok (some j, s) else err .amtbad
      | none => err .amtbad
    | .wait s' =>
      if asked then holdFor .accesses
      else match (s'.part p).dreads.find? (·.who == who) with
        | some d => holdFor (.page d.page)
        | none => holdFor .accesses
    | .failed _ => err .amtbad
    | .ecc a _ => errAt .eccunc a

/-- A 64-bit field. -/
def fieldBits (bs : List Byte) (o : Nat) : W64 := BitVec.ofNat 64 (fieldOf bs o 8)

/-- The entry of a template (R367). -/
def AmtEntry.ofBytes (bs : List Byte) (j : Option JigRec) (v : View) : AmtEntry :=
  let f (o n : Nat) := fieldOf bs o n
  { state := .armed, tag := f 0 4, len := f 4 4, buf := fieldBits bs 8, maska := fieldBits bs 0x10, jrec := j, arg := fieldBits bs 0x20, etick := f 0x28 8
    kerf := bitOf (f 0x30 1) 0, persist := bitOf (f 0x30 1) 1, view := v }

/-- Every byte of a range must translate for an engine's store, and a COMP entry is one of the types that raise WINTYPE (R367). -/
def storable? (v : View) (va len : Nat) (s : State) : Except Stop Unit :=
  match v.check s va len .engineStore with
  | .ok _ => .ok ()
  | .error i => .error (.trap (if i.code = .compressed then { i with code := .wintype } else i))

/-- Bits of a word that names a port and an entry (R367). -/
def entryNameOk (n : Nat) : Bool := n == bitsOf n 2 0 + bitsOf n 15 8 * 256

/-- AMTSET (R367, R368): the template is read once; then the word holds until its entry is free and the jig record is here. -/
def execAmtset (g : Guard) (a b : Scalar) (s : State) : Answer :=
  issue (acc g [.src a, .src b]) s fun c s =>
    let (x, s) := readScalar c a s
    let (y, s) := readScalar c b s
    withOperand c s (readBlock c x 64 s) fun bs => do
      let p := s.partOf c.a
      let n := y.toNat
      let v := s.view c.a
      storable? v (fieldOf bs 8 8) (fieldOf bs 4 4) s
      if fieldOf bs 0x10 8 ≠ 0 then storable? v (fieldOf bs 0x10 8) (statusSize (fieldOf bs 4 4)) s
      let port := bitsOf n 2 0
      if !portOk s p port then err .portbad
      if !entryNameOk n || !templateFieldsOk bs then err .amtbad
      entryTurn c s
      if entryBusy s port (bitsOf n 15 8) then holdFor .accesses
      let (j, s) ← arrivalRecord p c (fieldOf bs 0x18 8) s
      return (countRead c x s).modPort port fun q => { q with amt := tput q.amt (bitsOf n 15 8) (AmtEntry.ofBytes bs j v) }

/-- AMTCLR (R367, R368). -/
def execAmtclr (g : Guard) (a : Scalar) (s : State) : Answer :=
  issue (acc g [.src a]) s fun c s => do
    let (x, s) := readScalar c a s
    let n := x.toNat
    if !entryNameOk n then err .amtbad
    let port := bitsOf n 2 0
    entryTurn c s
    if entryBusy s port (bitsOf n 15 8) then holdFor .accesses
    return s.modPort port fun q => { q with amt := q.amt.map fun e => if e.1 = bitsOf n 15 8 then (e.1, { e.2 with state := .idle }) else e }

/-! Receiving (R358, R362-R369). -/

/-- Write bytes at virtual addresses of an entry's view. -/
def viewWrite (v : View) (va : Nat) (bs : List Byte) (s : State) : State :=
  (pieces va bs.length).foldl (fun s x => v.write (x.1 % 2 ^ 64) ((bs.drop (x.1 - va)).take x.2) s) s

/-- The status area (R369). -/
def statusBytes (rank n endtick : Nat) (got : List Nat) : List Byte :=
  let mask := (List.range n).foldl (fun m i => if got.contains i then m + 2 ^ i else m) 0
  leBytes 8 (2 ^ 63 + rank % 2 ^ 16 * 2 ^ 32 + got.length) ++ leBytes 4 n ++ leBytes 4 0 ++ leBytes 8 endtick ++ leBytes 8 0 ++ leBytes (32 * ceilDiv n 256) mask

/-- Does this device own the pages of an entry's buffer and status area (14 R405)? -/
def entryOwned (e : AmtEntry) (s : State) : Bool :=
  viewOwned e.view s e.buf.toNat e.len && (e.maska == 0#64 || viewOwned e.view s e.maska.toNat (statusSize e.len))

/-- Change an arrival entry. -/
def putEntry (port i : Nat) (e : AmtEntry) (s : State) : State := s.modPort port fun q => { q with amt := tput q.amt i e }

/-- The message of an entry has completed: its jig is released, once the pool has room (R368; 11 R310), and the entry is armed again or IDLE. -/
def finishEntry (p port i : Nat) (e : AmtEntry) (s : State) : State :=
  let next : AmtState := if e.persist then .armed else .idle
  match e.jrec, (s.part p).launch with
  | some j, some l =>
    if l.poolFree then releaseJig p { j with arg := e.arg } .pool [] 0#64 (putEntry port i { e with state := next } s)
    else putEntry port i { e with state := .waiting } s
  | _, _ => putEntry port i { e with state := next } s

/-- The partition that owns a port, when its active launch has this PGID (R358). -/
def receiver (s : State) (port pgid : Nat) : Option Nat :=
  match s.reaches? port with
  | none => none
  | some p =>
    match (s.part p).launch with
    | some l => match l.group with | some g => if l.phase == .active && (s.part p).pstate ≠ .sending && g.pgid = pgid then some p else none | none => none
    | none => none

/-- Has the launch of this PGID left the owner of a port for another device (14 R405)? -/
def hasLeft (s : State) (port pgid : Nat) : Bool :=
  match s.reaches? port with
  | none => false
  | some p => match (s.part p).mig.left with | some l => (l.group.map (·.pgid)) == some pgid | none => false

/-- An exact message that is answered MOVED is counted by the partition (14 R405, R408). -/
def countMoved (port : Nat) (s : State) : State :=
  match s.reaches? port with
  | some p => s.partCtr p .moved 1
  | none => s

/-- ETICK of an entry that has one (R367). -/
def AmtEntry.etick? (e : AmtEntry) : Option Nat := if e.kerf && e.etick ≠ 0 && decide (e.etick < 2 ^ 48) then some e.etick else none

/-- Has an entry's ETICK come? -/
def AmtEntry.overdue (e : AmtEntry) (s : State) : Bool := match e.etick? with | some t => s.reached t | none => false

/-- The lowest-numbered armed entry that a header matches; one whose ETICK has come is armed no more (R368). -/
def matchEntry (s : State) (port : Nat) (kerf : Bool) (tag len : Nat) : Option (Nat × AmtEntry) :=
  (s.port port).amt.find? fun x => x.2.state == .armed && x.2.kerf == kerf && x.2.tag == tag && x.2.len == len && !x.2.overdue s

/-- Is a channel of a port in the middle of a message (R358)? -/
def channelBusy (s : State) (port : Nat) (kerf : Bool) : Bool :=
  (s.port port).amt.any (fun x => x.2.kerf == kerf && x.2.state == .waiting) ||
    (kerf && match (s.port port).kerf with | .receiving _ => true | _ => false)

/-- An exact message arrives whole (R362): it is written at the matched entry, completes, and is acknowledged. -/
def exactArrives (port tag len pgid rank seq : Nat) (data : List Byte) (s : State) : State :=
  let answer (k : PortKind) (s : State) : State := s.sendPort port k [seq] []
  if (s.port port).lastAck = some seq then answer .acknowledgement (s.portCtr port .msgdup 1)
  else
    match receiver s port pgid with
    | none => if hasLeft s port pgid then answer .moved (countMoved port s) else answer .refused s
    | some p =>
      match matchEntry s port false tag len with
      | none => answer .noMatch s
      | some (i, e) =>
        if !entryOwned e s then s
        else
          let n := ceilDiv len 256
          let s := viewWrite e.view e.buf.toNat (data.take len) s
          let s := if e.maska = 0#64 then s else viewWrite e.view e.maska.toNat (statusBytes rank n s.modl.frame (List.range n)) s
          let s := finishEntry p port i e s
          answer .acknowledgement (s.modPort port fun q => { q with lastAck := some seq })

/-- A kerf header arrives (R364, R365): it matches an entry, or the message is dropped. -/
def kerfArrives (port tag len pgid rank dl : Nat) (s : State) : State :=
  let drop (s : State) : State := (s.modPort port fun q => { q with kerf := .dropping }).portCtr port .knomatch 1
  match receiver s port pgid with
  | none => drop s
  | some _ =>
    match matchEntry s port true tag len with
    | none => drop s
    | some (i, e) =>
      (putEntry port i { e with state := .receiving } s).modPort port fun q =>
        { q with kerf := .receiving { entry := i, h := s.modl.frame, dl := dl, rank := rank, got := [] } }

/-- MESSAGE_HEADER (R358, R368): a header arrives, for the exact class with its payload. The next header of a channel waits until the message before it has completed. -/
def execMessageHeader (port : Nat) (kerf : Bool) (tag len pgid rank seq dl : Nat) (data : List Byte) (s : State) : Answer :=
  .next (if !(s.port port).direct || channelBusy s port kerf then s
    else if kerf then kerfArrives port tag len pgid rank dl s
    else exactArrives port tag len pgid rank seq data s)

/-- A kerf message completes at its receiver (R365), at tick `endtick`: zeros for the missing blocks, the status area, the black-box event of a loss (15 R422), the jig. -/
def kerfComplete (p port i : Nat) (e : AmtEntry) (rank endtick : Nat) (got : List Nat) (s : State) : State :=
  let n := ceilDiv e.len 256
  let missing := (List.range n).filter fun k => !got.contains k
  let s := missing.foldl (fun s k => viewWrite e.view (e.buf.toNat + 256 * k) (List.replicate 256 0#8) s) s
  let s := if e.maska = 0#64 then s else viewWrite e.view e.maska.toNat (statusBytes rank n endtick got) s
  let s := if missing.isEmpty then s
    else (s.bbEvent 3 p (leBytes 1 port ++ leBytes 4 e.tag ++ leBytes 4 missing.length)).portCtr port .kblklost missing.length
  finishEntry p port i e s

/-- The message that a port's kerf channel is receiving completes; `rest`: how its channel goes on. -/
def channelComplete (port : Nat) (m : KerfIn) (endtick : Nat) (rest : KerfChannel) (s : State) : State :=
  let s' := s.modPort port fun q => { q with kerf := rest }
  match (s.port port).owner?, tget? (s.port port).amt m.entry with
  | some p, some e => if entryOwned e s then kerfComplete p port m.entry e m.rank endtick m.got s' else s
  | _, _ => s'

/-- The tick at which a message in reception has completed without an end marker, if it has come (R365): its deadline H + DL, or ETICK of its entry if that is earlier. -/
def kerfDue (port : Nat) (m : KerfIn) (s : State) : Option Nat :=
  let d := (m.h + m.dl) % 2 ^ 48
  match (tget? (s.port port).amt m.entry).bind (·.etick?) with
  | some t => if s.reached t && (!s.reached d || decide ((d + 2 ^ 48 - t) % 2 ^ 48 < 2 ^ 47)) then some t else if s.reached d then some d else none
  | none => if s.reached d then some d else none

/-- A message whose tick has come has completed at that tick, before anything that arrives after it. -/
def kerfExpire (port : Nat) (s : State) : State :=
  match (s.port port).kerf with
  | .receiving m => match kerfDue port m s with | some t => channelComplete port m t .ended s | none => s
  | _ => s

/-- KERF_BLOCK (R364): block `i` has passed on the link; `valid`: every flit passed its check and it was not sent marked invalid. -/
def kerfBlock (port i : Nat) (valid : Bool) (data : List Byte) (s : State) : State :=
  match (s.port port).kerf with
  | .receiving m =>
    match tget? (s.port port).amt m.entry with
    | some e =>
      if !valid || m.got.contains i || i ≥ ceilDiv e.len 256 || (kerfDue port m s).isSome || !entryOwned e s then s
      else (viewWrite e.view (e.buf.toNat + 256 * i) (data.take 256) s).modPort port fun q => { q with kerf := .receiving { m with got := i :: m.got } }
    | none => s
  | .ended => s.portCtr port .klate 1
  | .idle | .dropping => s
def execKerfBlock (port i : Nat) (valid : Bool) (data : List Byte) (s : State) : Answer :=
  .next (if (s.port port).direct then kerfBlock port i valid data (kerfExpire port s) else s)

/-- END_MARKER (R365) -/
def endMarker (port : Nat) (s : State) : State :=
  match (s.port port).kerf with
  | .receiving m => if (kerfDue port m s).isSome then s else channelComplete port m s.modl.frame .idle s
  | _ => s.modPort port fun q => { q with kerf := .idle }
def execEndMarker (port : Nat) (s : State) : Answer := .next (if (s.port port).direct then endMarker port (kerfExpire port s) else s)

/-- KERF_DEADLINE (R365): the receiver's tick H + DL has come. -/
def execKerfDeadline (port : Nat) (s : State) : Answer := .next (kerfExpire port s)

/-- ETICK (R365, R368): an entry's tick has come: a message in reception completes, and an armed entry completes with every block missing and no sender. -/
def execEtick (port entry : Nat) (s : State) : Answer :=
  .next (match (s.port port).owner?, tget? (s.port port).amt entry with
    | some p, some e =>
      if !e.overdue s then s
      else match e.state, (s.port port).kerf with
        | .armed, _ => if entryOwned e s then kerfComplete p port entry e 0xFFFF e.etick [] s else s
        | .receiving, .receiving m => if m.entry = entry then kerfExpire port s else s
        | _, _ => s
    | _, _ => s)

end Sys2Proof.Machine
end

