-- ==== Sys2Proof/Machine/System.lean ====
section
/-! DEFINITION. System registers and service requests, major 0x3C, with the host's answers to breaks and requests (spec/14_traps_partitions_migration.md R381-R386; spec/01 R25, R30; spec/03 R89; spec/07 R190; spec/09 R266; spec/10 R276). -/

namespace Sys2Proof.Machine

open Sys2Proof

/-! The registers. -/

/-- STAGEDST (01 R25). -/
def CtxState.code : CtxState → Nat
  | .free => 0
  | .loading back => if back then 3 else 1
  | .staged => 2
  | .running => 0

/-- TSR (01 R25). A control core has no core, no jig and no engine: its fields but SEQ and CLUSTER are 0. -/
def tsr (s : State) (a : Agent) : W64 :=
  let t := s.task a
  let base := bitsOf t.ident.toNat 31 0 * 2 ^ 32 + bitsOf t.ident.toNat 39 32 * 2 ^ 24
  match a.core? with
  | none => BitVec.ofNat 64 base
  | some c =>
    let k := s.core c
    let prio := match (s.part (s.partOf a)).launch with | some l => l.prioOf t | none => 0
    BitVec.ofNat 64 (base + prio % 8 * 2 ^ 21 + k.run % 2 * 2 ^ 20 + k.stagedCtx.state.code * 2 ^ 18 + b2n t.scoreboard * 2 ^ 17 +
      b2n (openAccumulator k.eng) * 2 ^ 16 + t.lineage.length % 16 * 2 ^ 12)

/-- EMPC (09 R266). -/
def empcReg (e : Engines) : W64 :=
  BitVec.ofNat 64 (e.bk.bflags.toNat * 2 ^ 40 + e.dn.empc % 256 * 2 ^ 32 + e.dn.base % 256 * 2 ^ 24 + b2n e.dn.run * 2 ^ 23 + b2n e.bk.run * 2 ^ 22 +
    b2n e.bk.shapeT * 2 ^ 21 + b2n e.bk.openGrp.isSome * 2 ^ 20 + ((e.bk.openGrp.map (·.1)).getD 0) % 4 * 2 ^ 18 + e.bk.base % 256 * 2 ^ 8 + e.bk.empc % 256)

/-- May a product be in MAC work now (10 R276 WORK, R280): does the head of the dense queue hold one that has not ended, that nothing holds, and whose shared reads have been performed? Whether it then still reads its operands or works is a question of clocks (log entry 6). -/
def macAble (s : State) (core : Nat) : Bool :=
  let e := (s.core core).eng.dn
  match e.queue with
  | c :: _ => match c.op with
    | .mma _ _ _ _ _ a b => s.engineLive core && e.run && !c.tag.held && a.ready && b.ready && !worked s c.tag.recEvt (clusterOfCore core) (dnRecord core c s)
    | _ => false
  | [] => false

/-- DSR (10 R276). -/
def dsrReg (s : State) (core : Nat) : W64 :=
  let e := (s.core core).eng.dn
  let work := macAble s core && Config.freeBit s.freeCtr 0
  BitVec.ofNat 64 (e.bypfe % 16 * 2 ^ 20 + b2n e.bypt * 2 ^ 19 + e.queue.length % 8 * 2 ^ 16 + b2n work * 2 ^ 15 + e.dflags.toNat)

/-- The value of a system register (R384). A control core stands at no core, so its DMR, EMPC and DSR are free values (notes/assumptions/18.md). -/
def sysReg (s : State) (a : Agent) (n : Nat) : W64 :=
  let t := s.task a
  match n, a.core? with
  | 0, _ => tsr s a
  | 1, some c => (s.core c).dmr
  | 2, some c => (s.core c).vec.fsr
  | 3, some c => (s.core c).vec.vcfg
  | 4, some c => empcReg (s.core c).eng
  | 5, some c => dsrReg s c
  | 6, _ => t.jarg
  | 7, _ => t.carg
  | 8, some _ => t.cmdx.zeroExtend 64
  | 8, none => 0#64
  | _, _ => Config.freeWord s.freeCtr

/-- A freeze until everything that the execute stream has issued has landed (03 R89): the clock of the next slot passes every bound. -/
def landAll (a : Agent) (s : State) : State :=
  s.modTask a fun t => { t with x := { t.x with clk := t.x.ready.foldl (fun m x => Nat.max m x.2) t.x.clk, unlanded := [] } }

/-- SRRD (R383-R385). -/
def execSrrd (g : Guard) (d : SDst) (n : BitVec 6) (s : State) : Answer :=
  issuePure { both g [.dst d] with shape := srReadable s.cur.kind n } s fun c s =>
    let s := if n = 2#6 || n = 3#6 then landAll c.a s else s
    (writeDst c d 1 (sysReg s c.a n.toNat) s).drawn

/-- VCFG as SRWR stores it (07 R190): VL at most VLMAX, RGC modulo NRG, reserved bits 0. -/
def vcfgWrite (v : W64) : W64 :=
  let w := v &&& 0xFFFF#64 <<< 32 ||| v &&& 0x1F3FFF#64
  let w := cfgSet w 13 0 (Nat.min (cfgVL w) (cfgVLMax w))
  cfgSet w 20 16 (cfgRGC w % cfgNRG w)

/-- SRWR (R383-R385): FSR and VCFG are written, after everything before has landed; a write of another register changes nothing. -/
def execSrwr (g : Guard) (a : Scalar) (n : BitVec 6) (s : State) : Answer :=
  issuePure { both g [.src a] with shape := srReadable s.cur.kind n } s fun c s =>
    let (v, s) := readScalar c a s
    if n = 2#6 then (landAll c.a s).modVec c.a fun k => { k with fsr := v &&& 0x73F#64 }
    else if n = 3#6 then (landAll c.a s).modVec c.a fun k => { k with vcfg := vcfgWrite v }
    else s

/-! Service requests (R382, R386). -/

/-- The flat address of service slot `i`. -/
def slotAddr (s : State) (p i : Nat) : Option Nat := (locFlat s p (s.part p).regs.svcq.toNat 2048).map (· + 32 * i)

/-- Are service requests allowed: SVCQ.EN is 1 and SVCQ names memory of the partition? -/
def serviceOn (s : State) (p : Nat) : Bool := bitOf (s.part p).regs.svcq.toNat 0 && (slotAddr s p 0).isSome

/-- The lowest free slot. -/
def freeService (s : State) (p : Nat) : Option Nat := (List.range 64).find? fun i => (s.part p).svc.all (·.slot ≠ i)

/-- The slot that holds a task's request. -/
def heldSlot (t : Task) : Option Nat := match t.a.wait with | some (.service (some i)) => some i | _ => none

/-- The issue of SYSCALL: it holds with the slot that its request takes, and completes once that has been answered. -/
def issueSyscall (g : Guard) (d : SDst) (a b : Scalar) (s : State) : Answer :=
  issue (accCtl g [.dst d, .src a, .src b]) s fun c s => do
    let (x, s) := readScalar c a s
    let (_, s) := readScalar c b s
    let p := s.partOf c.a
    if !serviceOn s p || x.toNat ≥ 2 ^ 16 then err .sysbad
    match heldSlot (s.task c.a) with
    | some i =>
      match (s.part p).svc.find? (·.slot == i) with
      | some r =>
        if !r.done || !s.owned ((slotAddr s p i).getD 0) then holdFor (.wait (.service (some i)))
        let at_ := (slotAddr s p i).getD 0 + 0x18
        if s.eccHit at_ 8 then .error (.trap { code := .eccunc, addr := at_ })
        return writeDst c d 1 (BitVec.ofNat 64 (s.value at_ 8)) (s.modPart p fun pt => { pt with svc := pt.svc.filter (·.slot ≠ i) })
      | none => holdFor (.wait (.service (some i)))
    | none =>
      let e := innerElem 0#64 (.byte lpBase) 0
      let m := { innerAccess c .release .system e with op := .store }
      if !(marksAllow c.a (s.task c.a) m e && accessesAllow c.a (s.task c.a) m e) then holdFor .accesses
      match (freeService s p).filter fun i => s.owned ((slotAddr s p i).getD 0) with
      | none => holdFor (.wait (.service none))
      | some i => holdFor (.wait (.service (some i)))

/-- The bytes of a request before REPLY (R382). -/
def slotBytes (r : SvcReq) : List Byte := leBytes 8 r.task.toNat ++ leBytes 8 r.arg.toNat ++ leBytes 2 r.code ++ leBytes 2 r.slot ++ leBytes 4 0

/-- Post a request in its slot: TASK, ARG, CODE and SLOT are written, PEND is set, vector 3 is raised (15 R416). -/
def postService (p : Nat) (r : SvcReq) (s : State) : State :=
  match slotAddr s p r.slot with
  | some at_ => ((if s.owned at_ then s.write at_ (slotBytes r) else s).modPart p fun pt => { pt with svc := pt.svc ++ [r] }).raisePart p 3
  | none => s

/-- SYSCALL (R386). -/
def execSyscall (g : Guard) (d : SDst) (a b : Scalar) (s : State) : Answer :=
  match issueSyscall g d a b s with
  | .next s' =>
    match heldSlot (s.task s.cur), heldSlot (s'.task s'.cur) with
    | none, some i =>
      let c := ctxOf s.cur (accCtl g [.dst d, .src a, .src b]) s
      let r : SvcReq :=
        { slot := i, core := s.cur.core?, task := (s.task s.cur).ident, arg := (readScalar c b s).1, code := (readScalar c a s).1.toNat, done := false }
      .next (postService (s.partOf s.cur) r s')
    | _, _ => .next s'
  | r => r

/-- TICKWT (R386) -/
def execTickwt (g : Guard) (a : Scalar) (s : State) : Answer :=
  issue (accCtl g [.src a]) s fun c s => do
    let (x, s) := readScalar c a s
    if x.toNat ≥ 2 ^ 48 then err .sysbad
    if s.modl.frame < x.toNat then holdFor (.wait (.tick x.toNat))
    return s

/-- What FRAMERD reads (R386): the frame counter, the launch's frame number, the ticks since that frame began. -/
def frameReg (s : State) (p n : Nat) : Nat :=
  match n, (s.part p).launch with
  | 0, _ => s.modl.frame
  | 1, some l => l.frame
  | 2, some l => if s.reached (l.frameStart l.frame) then s.since (l.frameStart l.frame) else 0
  | _, _ => 0

/-- FRAMERD (R386) -/
def execFramerd (g : Guard) (d : SDst) (n : BitVec 6) (s : State) : Answer :=
  issuePure { both g [.dst d] with shape := decide (n.toNat ≤ 2) } s fun c s =>
    writeDst c d 1 (BitVec.ofNat 64 (frameReg s (s.partOf c.a) n.toNat)) s

/-! What the host answers. -/

/-- Continue a task that has stopped at a break: its streams go on in scoreboard mode (R381, R401). -/
def continueTask (id : W64) (t : Task) : Task :=
  if t.ident = id && t.brk then
    let t := scoreboardTask { t with brk := false }
    { t with acted := t.acted || !t.isWaiting }
  else t

/-- BRKGO (R381): the host continues the task with this identifier, if it has stopped at a break. -/
def execBrkgo (p : Nat) (task : W64) (s : State) : Answer :=
  .next ((s.clustersOf p).foldl (fun s g =>
    let s := (List.range 24).foldl (fun s i => s.modCore (24 * g + i) fun k => { k with ctx0 := { k.ctx0 with task := continueTask task k.ctx0.task }, ctx1 := { k.ctx1 with task := continueTask task k.ctx1.task } }) s
    s.modCluster g fun k => { k with ctl := k.ctl.map (continueTask task) }) s)

/-- SVCDONE (R382): the reply in a pending slot is complete. A reply at the source of a migration, after its slots have been captured in SENDING, is ignored (R404). -/
def execSvcdone (p slot : Nat) (s : State) : Answer :=
  .next (if (s.part p).mig.state = .sending || (s.part p).mig.state = .serving then s
    else s.modPart p fun pt => { pt with svc := pt.svc.map fun r => if r.slot = slot then { r with done := true } else r })

end Sys2Proof.Machine
end

