-- ==== Sys2Proof/Machine/Stop.lean ====
section
/-! DEFINITION. Discarding launches, machine errors, pre-emption: stopping, saving, holding, restoring (spec/14_traps_partitions_migration.md R387-R401; spec/13 R363, R368). -/

namespace Sys2Proof.Machine

open Sys2Proof

/-! Discarding (R387). -/

/-- Discard notices on every port of a launch's process-group table (13 R363). -/
def discardNotices (l : Launch) (s : State) : State :=
  match l.group with
  | some g => sendGroupPorts g none .discardNotice [g.pgid] s
  | none => s

/-- LSEQ of a task identifier (01 R18). -/
def seqOfIdent (w : W64) : Nat := bitsOf w.toNat 58 40

/-- The service requests of a launch are dropped (R382). -/
def dropService (p lseq : Nat) (s : State) : State := s.modPart p fun pt => { pt with svc := pt.svc.filter fun r => seqOfIdent r.task ≠ lseq }

/-- A trap record for a held launch with no task (R380, R394). -/
def heldRecord (p : Nat) (h : Held) (info : TrapInfo) (s : State) : TrapRecord := { bareRecord p info s with launchid := h.launch.lrec.launchid }

/-- Discard the held launch of a partition (R394, R363): its cells in EVALUATING go back to SUSPENDED, its requests are dropped, its completion status is DISCARDED. -/
def discardHeld (p : Nat) (s : State) : State :=
  match (s.part p).held with
  | none => s
  | some h =>
    let s := discardNotices h.launch (dropService p h.launch.lseq (h.evaluating.foldl suspendCell s))
    let s := completeLaunch h.launch 0x10 s
    s.modPart p fun pt => { pt with held := none, pstate := if pt.pstate = .restoring then .idle else pt.pstate }

/-- An error charged to a partition (R389): it discards the active launch, or the one that is being restored (R394); else there is only the event. -/
def chargeFault (p : Nat) (info : TrapInfo) (s : State) : State :=
  match (s.part p).launch, (s.part p).held with
  | none, some h => if (s.part p).pstate = .restoring then discardHeld p (logTrap p (heldRecord p h info s) (logMachine p info s)) else logMachine p info s
  | _, _ => chargePart p info s

/-- Is the launch of a partition active (not one that is starting)? -/
def activeLaunch (s : State) (p : Nat) : Bool := match (s.part p).launch with | some l => l.phase ≠ .starting | none => false

/-- Is it active and not being discarded? -/
def runningLaunch (s : State) (p : Nat) : Bool := match (s.part p).launch with | some l => l.phase == .active | none => false

/-- A HOST record of code HOSTDISCARD, and the discard of the active launch, or of the held one if none is active (R394). -/
def hostDiscard (p : Nat) (s : State) : State :=
  if activeLaunch s p then startDiscard p (logTrap p (bareRecord p { code := .hostdiscard } s) s)
  else match (s.part p).held with
    | some h => discardHeld p (logTrap p (heldRecord p h { code := .hostdiscard } s) s)
    | none => s

/-- DISCARD_NOTICE (13 R363): the launch of this PGID is discarded here, with no record, and the notice goes on. -/
def discardNotice (port pgid : Nat) (s : State) : State :=
  match s.reaches? port with
  | none => s
  | some p =>
    let mine (l : Launch) : Bool := (l.group.map (·.pgid)) == some pgid
    match (s.part p).launch, (s.part p).held with
    | some l, h =>
      if mine l then startDiscard p s
      else match h with | some h => if mine h.launch then discardHeld p s else s | none => s
    | none, some h => if mine h.launch then discardHeld p s else s
    | none, none => s
/-- DISCARD_NOTICE (13 R363) -/
def execDiscardNotice (port pgid : Nat) (s : State) : Answer := .next (discardNotice port pgid s)

/-- The cores of a partition. -/
def State.coresOf (s : State) (p : Nat) : List Nat := (s.clustersOf p).flatMap fun g => (List.range 24).map (24 * g + ·)

/-- The contexts and engines of a partition's cores are free (R387 steps 1 and 2). -/
def clearCores (p : Nat) (s : State) : State :=
  (s.coresOf p).foldl (fun s c => s.modCore c fun k => { k with ctx0 := .free, ctx1 := .free, eng := .reset, armFaults := [], use := k.used }) s

/-- The commands of a partition's copy and sorting engines are dropped (R387 steps 2 and 3), and the records that wait. -/
def clearCommands (p : Nat) (s : State) : State :=
  (s.clustersOf p).foldl (fun s g => s.modCluster g fun k => { k with copies := [], sorts := [], evWait := [], evDone := [] }) s

/-- Change the state of a migration, with its event (R402; 15 R422 kind 8). -/
def migState (p : Nat) (m : MigState) (pages : Nat) (s : State) : State :=
  (s.modPart p fun pt => { pt with mig := { pt.mig with state := m } }).bbEvent 8 p (leBytes 1 m.code ++ leBytes 4 pages)

/-- A migration that has not handed its launch over fails when the launch is discarded. -/
def failMigration (p : Nat) (s : State) : State :=
  match (s.part p).mig.state with
  | .stopping | .drain | .sending =>
    (migState p .failed 0 (s.sendPort (s.part p).mig.port .migrationAbort [] [])).raisePart p 5
  | _ => s

/-- DISCARD_COMPLETE (R387): what the launch leaves is cleared, and the completion status DISCARDED is written. -/
def discardComplete (p : Nat) (s : State) : State :=
  match (s.part p).launch with
  | none => s
  | some l =>
    if l.phase ≠ .discarding then s
    else
      let s := discardNotices l (dropService p l.lseq (clearCommands p (clearCores p (failMigration p s))))
      endHold (completeLaunch l 0x10 (clearLaunch p s))
/-- DISCARD_COMPLETE (R387) -/
def execDiscardComplete (p : Nat) (s : State) : Answer := .next (discardComplete p s)

/-! Machine errors (R389, R390). -/

/-- HWFAULT (R389, R390): a fault of a unit of a cluster is charged to its owner; a fault of a shared structure is charged to every partition (log entry 42): it discards every active launch, and later ones are held unstarted. -/
def hwFault (site : Option Nat) (s : State) : State :=
  match site with
  | some g =>
    match s.partOf? g with
    | some p => chargeFault p { code := .eccunc, addr := clusBase g } s
    | none => s.bbEvent 5 0xFF (leBytes 2 TrapCode.eccunc.code)
  | none =>
    let s := (List.range 24).foldl (fun s p => chargeFault p { code := .hwfault } s) s
    { s with modl := { s.modl with hwHeld := true } }.raiseVec physFn 9
/-- HWFAULT (R390) -/
def execHwfault (site : Option Nat) (s : State) : Answer := .next (hwFault site s)

/-- LINKFATAL (R389): a fatal error of a peer port is charged to its owner. -/
def linkFatal (port : Nat) (s : State) : State :=
  match (s.port port).owner? with
  | some p => chargeFault p { code := .linkfatal } s
  | none => s.bbEvent 5 0xFF (leBytes 2 TrapCode.linkfatal.code)
/-- LINKFATAL (R389) -/
def execLinkfatal (port : Nat) (s : State) : Answer := .next (linkFatal port s)

/-! Stopping (R394, R395). -/

/-- Bytes of the suspension area of a partition (R397). -/
def areaSize (s : State) (p : Nat) : Nat := 0x100000 + (s.clustersOf p).length * 0x2400000

/-- The flat address of the suspension area, when SUSPAREA names one inside the allotment. -/
def suspArea (s : State) (p : Nat) : Option Nat :=
  let w := (s.part p).regs.susparea.toNat
  if bitOf w 0 then locFlat s p w (areaSize s p) else none

/-- Tasks that are LOADING or STAGED, but for those on their way back from a park slot, go back to their jigs as claims (R395). -/
def stageBack (p core : Nat) (s : State) : State :=
  let c := (s.core core).stagedCtx
  if c.state = .free || c.saved.isSome then s
  else
    let cl : Claim := { iter := c.task.iter.headD 0, seq := bitsOf c.task.ident.toNat 31 0, core := core }
    (modJig p c.task.jig (fun j => { j with claims := j.claims ++ [cl], open_ := j.open_ - 1 }) s).modCore core fun k => k.setCtx (1 - k.run) .free

/-- Commands that are not active stay captured in their queues (R397, R404). -/
def captureQueue (l : List CopyCmd) : List CopyCmd :=
  let n := activeLen l
  ((List.range l.length).zip l).map fun x => if n ≤ x.1 then { x.2 with captured := true } else x.2

/-- Capture, or release, the copy commands of a partition. -/
def mapQueues (p : Nat) (f : List CopyCmd → List CopyCmd) (s : State) : State :=
  (s.clustersOf p).foldl (fun s g => s.modCluster g fun k => { k with copies := k.copies.map fun q => (q.1, f q.2) }) s

def uncapture (l : List CopyCmd) : List CopyCmd := l.map fun c => { c with captured := false }

/-- STOPPING begins (R394, R395). -/
def beginStop (p : Nat) (s : State) : State :=
  let s := (s.coresOf p).foldl (fun s c => stageBack p c s) s
  (mapQueues p captureQueue s).modPart p fun pt => { pt with pstate := .stopping, stopTick := s.modl.frame }

/-- PREEMPT (R394, R397). -/
def preempt (p : Nat) (s : State) : State :=
  let pt := s.part p
  match pt.launch with
  | none => s
  | some l =>
    if pt.pstate ≠ .active || l.phase ≠ .active || pt.held.isSome then s
    else if (suspArea s p).isNone then s.modPart p fun pt => { pt with regs := { pt.regs with tout := true } }
    else beginStop p s

/-- Is a task, with its engines, at its stop point (R395): are its accesses performed, but for a CLD that waits and what its acquire holds (06 R153, R154; log entry 86)? -/
def stoppedTask (e : Engines) (t : Task) : Bool := enginesIdle e && t.x.arm.isNone && restsOnCld t

/-- Is everything of a partition at its stop point: the tasks, and the control cores' accesses performed? -/
def atStopPoint (s : State) (p : Nat) : Bool :=
  (s.coresOf p).all (fun c => let k := s.core c; k.running.state ≠ .running || stoppedTask k.eng k.running.task) &&
    (s.clustersOf p).all fun g => match (s.cluster g).ctl with
      | some t => t.a.loads.isEmpty && t.a.stores.isEmpty
      | none => true

/-- Has a command of the access stream ended, but for its record, which waits for room in the event queue or has just been posted (11 R322)? -/
def awaitsRecord (s : State) (by_ : Issuer) (ctl : CopyCtl) (n kind stat : Nat) : Bool :=
  workedBar s ctl.recEvt (ctl.decrement n) by_.cluster (by_.record kind stat)

/-- Have the copy commands active at STOPPING, and the sorts, run to their end (R399)? A record that waits is saved with the event queue. -/
def drained (s : State) (p : Nat) : Bool :=
  ((allCopies p s).all fun c => c.captured || (c.done && awaitsRecord s c.by_ c.ctl (dbytesOf s p c.op c.d) 1 c.status)) &&
    (s.clustersOf p).all fun g => (s.cluster g).sorts.all fun c => match c.written with
      | some n => awaitsRecord s c.by_ c.ctl n 2 0
      | none => false

/-- The clocks spent in STOPPING, which the spec does not state, are counted. -/
def countStop (p : Nat) (s : State) : State := s.partClk p .stopclk

/-! Saving (R397, R399). -/

/-- Copy a range of memory, page by page. -/
def copyPages (src dst n : Nat) (s : State) : State :=
  (List.range (n / 4096)).foldl (fun s i => s.write (dst + 4096 * i) (s.bytes (src + 4096 * i) 4096)) s

/-- The launch record (01 R19). -/
def LaunchRec.bytes (r : LaunchRec) : List Byte :=
  leBytes 4 r.launchid ++ leBytes 4 (b2n r.multi + 2 * b2n r.parken) ++ leBytes 8 r.ttbase ++ leBytes 8 r.wsbase ++ leBytes 2 r.wscount ++
    leBytes 2 r.parkslots ++ leBytes 4 0 ++ leBytes 8 r.pgtbase ++ leBytes 8 r.dmapbase ++ leBytes 8 r.ctlbase.toNat ++ leBytes 8 r.parkbase

/-- SIZE of an allotment register (R391). -/
def Allot.sizeField (a : Allot) : Nat := a.size / 0x10000

/-- PCLUS and SIZE fields of the header. -/
def layoutBytes (r : PartRegs) : List Byte :=
  leBytes 24 r.pclus.toNat ++ ((r.pdie ++ r.pwb ++ [r.plp]).flatMap fun a => leBytes 4 a.sizeField)

/-- The header of the launch block (R397) but for its first 16 bytes, and the CRC of what stands in the area. -/
def headerBytes (r : PartRegs) (l : LaunchRec) : List Byte := layoutBytes r ++ leBytes 4 0 ++ l.bytes

/-- CRC-32C of launch-block bytes 0x10 to 0xF_FFFF. -/
def areaCrc (s : State) (area : Nat) : Nat := (crc32c (s.bytes (area + 0x10) 0xFFFF0)).toNat

/-- The base of block `c` of an area. -/
def blockBase (area c : Nat) : Nat := area + 0x100000 + c * 0x2400000

/-- The pages of the image of core `k` of a block. -/
def areaPages (block k : Nat) : List Nat := (List.range imagePages).map fun i => block + 0x1100000 + k * 0xC4000 + 4096 * i

/-- Save a core: its image, which holds what its registers, engines and gather buffer keep also where it runs no task (01 R24), and its unit scratchpad. -/
def saveCore (block k core : Nat) (s : State) : State :=
  let s := writeImage (areaPages block k) (s.core core).running.task (coreImage s core) s
  copyPages (unitBase core) (block + 0x1144000 + k * 0xC4000) 0x80000 s

/-- Save a cluster. -/
def saveCluster (block g : Nat) (s : State) : State :=
  (List.range 24).foldl (fun s k => saveCore block k (24 * g + k) s) (copyPages (clusBase g) block 0x1000000 s)

/-- Write the area (R397). -/
def writeArea (p area : Nat) (l : Launch) (s : State) : State :=
  let gs := s.clustersOf p
  let s := (s.touchImages area (areaSize s p)).makeUndef area (area + 0x100000)
  let s := ((List.range gs.length).zip gs).foldl (fun s x => saveCluster (blockBase area x.1) x.2 s) s
  let s := s.write (area + 0x10) (headerBytes (s.part p).regs l.lrec)
  s.write area (leBytes 4 0x4F423353 ++ leBytes 4 1 ++ leBytes 4 (areaCrc s area) ++ leBytes 4 gs.length)

/-- An entry in RECEIVING is armed in the saved state. -/
def savedEntry (e : AmtEntry) : AmtEntry := if e.state = .receiving then { e with state := .armed } else e

/-- The ports of a partition. -/
def State.portsOf (s : State) (p : Nat) : List Nat := (List.range 8).filter fun n => (s.port n).owner? == some p

/-- A cluster as it is held: a word that waits to post a record has not issued (R396), and gives up its place in the line. -/
def heldCluster (k : Cluster) : Cluster := { k with evWait := k.evWait.filter fun q => match q.poster with | .word _ => false | _ => true }

/-- A launch as it is held. -/
def heldOf (p : Nat) (l : Launch) (s : State) : Held :=
  let pt := s.part p
  { launch := l
    clus := (s.clustersOf p).map fun g => (g, heldCluster (s.cluster g))
    cores := (s.coresOf p).map fun c => (c, s.core c)
    sel := pt.sel, swap := pt.swap, pins := pt.pins
    amt := (s.portsOf p).map fun n => (n, (s.port n).amt.map fun e => (e.1, savedEntry e.2))
    evaluating := evaluatingCells s p
    svc := pt.svc.filter fun r => seqOfIdent r.task = l.lseq
    cwTail := pt.cwTail, cwSeq := pt.cwSeq, stopTick := pt.stopTick }

/-- The launch leaves the partition's clusters, cores and ports; counters and translations stay. -/
def leavePart (p : Nat) (s : State) : State :=
  let s := (s.clustersOf p).foldl (fun s g => s.modCluster g fun k => { Cluster.reset with tlb := k.tlb, ctr := k.ctr }) s
  let s := (s.coresOf p).foldl (fun s c => s.modCore c fun k => { Core.reset c with use := k.used, ctr := k.ctr }) s
  (idleArrivals p s).modPart p fun pt =>
    { pt with launch := none, pins := [], swap := [], dreads := pt.dreads.filter fun d => match d.who with | .submission _ => true | _ => false }

/-- A unit in error in the scratchpads that a save reads. -/
def saveError (s : State) (p : Nat) : Option Nat :=
  (s.attr.ecc.map (32 * ·)).find? fun a => match homeOf a with
    | .clus g => s.hasCluster p g
    | .unit c | .gbuf c => s.hasCore p c
    | _ => false

/-- SAVE_COMPLETE (R397, R399): the area is written and the launch is held. -/
def saveComplete (p : Nat) (s : State) : State :=
  match (s.part p).launch, suspArea s p with
  | some l, some area =>
    if (s.part p).pstate ≠ .saving || l.phase ≠ .active || !drained s p then s
    else match saveError s p with
      | some a => chargePart p { code := .eccunc, addr := a } s
      | none =>
        let h := heldOf p l s
        let s := leavePart p (writeArea p area l s)
        let s := s.modPart p fun pt => { pt with held := some h, pstate := .idle }
        endHold ((s.partCtr p .preempts 1).raisePart p 4)
  | _, _ => s
/-- SAVE_COMPLETE (R397) -/
def execSaveComplete (p : Nat) (s : State) : Answer := .next (saveComplete p s)

/-! Resuming (R400, R401). -/

/-- Is the header of an area right: MAGIC, VERSION, CRC? -/
def headerOk (s : State) (area : Nat) : Bool :=
  s.value area 4 == 0x4F423353 && s.value (area + 4) 4 == 1 && s.value (area + 8) 4 == areaCrc s area

/-- Why a RESUME is refused (R394 RERR). -/
def resumeError (s : State) (p : Nat) : Nat :=
  match suspArea s p with
  | none => 4
  | some area =>
    if (s.part p).launch.isSome || (s.part p).pstate ≠ .idle then 3
    else if s.eccHit area 0x100000 || !headerOk s area then 1
    else if s.bytes (area + 0x10) 60 ≠ layoutBytes (s.part p).regs then 2
    else 0

/-- RESUME (R394, R400). -/
def resume (p : Nat) (s : State) : State :=
  if (s.part p).held.isNone then s
  else
    let e := resumeError s p
    s.modPart p fun pt => { pt with regs := { pt.regs with rerr := e }, pstate := if e = 0 then .restoring else pt.pstate }

/-- A tick shifted (R400). -/
def shiftTick (d t : Nat) : Nat := (t + d) % 2 ^ 48

/-- The saved ticks of a launch, shifted. -/
def shiftLaunch (d : Nat) (l : Launch) : Launch :=
  { l with
    startTick := shiftTick d l.startTick, f0 := shiftTick d l.f0
    jigs := l.jigs.map fun x => (x.1, { x.2 with rtick := shiftTick d x.2.rtick })
    delayed := l.delayed.map fun x => { x with due := shiftTick d x.due }
    veneers := l.veneers.map fun v => { v with past := v.past.map fun x => (shiftTick d x.1, x.2) } }

/-- ETICK, shifted; 0 stands for none. -/
def shiftEntry (d : Nat) (e : AmtEntry) : AmtEntry := if e.etick = 0 then e else { e with etick := shiftTick d e.etick }

/-- A task as it is restored: in scoreboard mode, and a word that waits has not issued, so that it reads its operands again (R396, R401). -/
def restoredTask (t : Task) : Task := let t := (scoreboardTask t).useNow; { t with a := { t.a with kept := none } }

/-- A core as it is restored: its counters go on. -/
def restoredCore (now old : Core) : Core :=
  { (old.setCtx old.run { old.running with task := restoredTask old.running.task }) with use := now.used, ctr := now.ctr }

/-- Put the clusters, cores, ports and banks of a launch back, with its ticks shifted by Δ, and let it run. -/
def enterPart (p : Nat) (h : Held) (s : State) : State :=
  let d := s.since h.stopTick
  let s := h.clus.foldl (fun s x => s.modCluster x.1 fun k => { x.2 with ctl := x.2.ctl.map fun t => { t with a := { t.a with kept := none } }, tlb := k.tlb, ctr := k.ctr }) s
  let s := h.cores.foldl (fun s x => s.modCore x.1 fun k => restoredCore k x.2) s
  let s := h.amt.foldl (fun s x => s.modPort x.1 fun q => { q with amt := x.2.map fun e => (e.1, shiftEntry d e.2) }) s
  let s := s.modPart p fun pt =>
    { pt with
      launch := some (shiftLaunch d h.launch), sel := h.sel, swap := h.swap, pins := h.pins, cwTail := h.cwTail, cwSeq := h.cwSeq, pstate := .active, logStale := true }
  mapQueues p uncapture s

/-- Restore the memories of a core and what its image holds, with its task if it runs one. -/
def restoreCore (block k core : Nat) (h : Held) (s : State) : Held × State :=
  let s := copyPages (block + 0x1144000 + k * 0xC4000) (unitBase core) 0x80000 s
  let x := tget (Core.reset core) h.cores core
  let pages := areaPages block k
  let im := readImage pages { vec := x.vec, eng := x.eng, gbuf := [] } s
  let y := if x.running.state = .running then x.setCtx x.run { x.running with task := readControl (readPages pages 0 0x208 s) x.running.task } else x
  ({ h with cores := tput h.cores core { y with vec := im.vec, eng := im.eng } }, putGather core im.gbuf s)

/-- Restore a cluster. -/
def restoreCluster (block g : Nat) (h : Held) (s : State) : Held × State :=
  (List.range 24).foldl (fun q k => restoreCore block k (24 * g + k) q.1 q.2) (h, copyPages block (clusBase g) 0x1000000 s)

/-- RESTORE_COMPLETE (R394, R400): the launch is active again. -/
def restoreComplete (p : Nat) (s : State) : State :=
  match (s.part p).held, suspArea s p with
  | some h, some area =>
    if (s.part p).pstate ≠ .restoring then s
    else if s.eccHit area (areaSize s p) then
      chargeFault p { code := .eccunc, addr := ((s.attr.ecc.map (32 * ·)).find? fun a => decide (area ≤ a + 31) && decide (a < area + areaSize s p)).getD area } s
    else
      let gs := s.clustersOf p
      let q := ((List.range gs.length).zip gs).foldl (fun q x => restoreCluster (blockBase area x.1) x.2 q.1 q.2) (h, s)
      let s := enterPart p q.1 q.2
      (s.modPart p fun pt => { pt with held := none }).partCtr p .resumes 1
  | _, _ => s
/-- RESTORE_COMPLETE (R400) -/
def execRestoreComplete (p : Nat) (s : State) : Answer := .next (restoreComplete p s)

/-- The launch goes on where it stopped, as if restored from what the partition still holds (R407). -/
def resumeInPlace (p : Nat) (s : State) : State :=
  match (s.part p).launch with
  | some l => enterPart p (heldOf p l s) (idleArrivals p s)
  | none => s

/-! The end of STOPPING. -/

/-- STOP_TIMEOUT (R394, R407): PTIMEOUT has elapsed in STOPPING; the launch is active again, and a migration fails. -/
def stopTimeout (p : Nat) (s : State) : State :=
  let pt := s.part p
  if pt.pstate ≠ .stopping || !runningLaunch s p || pt.regs.ptimeout = 0 || !s.reached (pt.stopTick + 1000 * pt.regs.ptimeout) then s
  else
    let s := failMigration p (countStop p (mapQueues p uncapture s))
    s.modPart p fun pt => { pt with pstate := .active, regs := { pt.regs with tout := true } }
/-- STOP_TIMEOUT (R394) -/
def execStopTimeout (p : Nat) (s : State) : Answer := .next (stopTimeout p s)

/-- Pages of the memories of a partition (R405). -/
def partPages (s : State) (p : Nat) : Nat :=
  let r := (s.part p).regs
  let sum (l : List Allot) : Nat := l.foldl (fun n a => n + a.size / 4096) 0
  sum r.pdie + 2 * sum r.pwb + r.plp.size / 4096

/-- The source sends the launch block and every cluster block (R404); their contents are the OB3's own. -/
def sendBlocks (p : Nat) (s : State) : State :=
  let m := (s.part p).mig
  migState p .sending (partPages s p) (s.sendPort m.port .migrationBlocks [p] [])

/-- STOP_POINT (R394, R395, R404): every task is at its stop point, and saving begins; a migration goes through DRAIN to SENDING. -/
def stopPoint (p : Nat) (s : State) : State :=
  let pt := s.part p
  if !runningLaunch s p || !atStopPoint s p then s
  else match pt.pstate, pt.mig.state with
    | .stopping, .stopping =>
      let s := (countStop p s).modPart p fun pt => { pt with pstate := .sending }
      if drained s p then sendBlocks p s else migState p .drain (partPages s p) s
    | .stopping, _ => (countStop p s).modPart p fun pt => { pt with pstate := .saving }
    | .sending, .drain => if drained s p then sendBlocks p s else s
    | _, _ => s
/-- STOP_POINT (R395) -/
def execStopPoint (p : Nat) (s : State) : Answer := .next (stopPoint p s)

end Sys2Proof.Machine
end

