-- ==== Sys2Proof/Machine/Migrate.lean ====
section
/-! DEFINITION. Migration of a launch between devices (spec/14_traps_partitions_migration.md R402-R407; spec/15 R410). -/

namespace Sys2Proof.Config

/-- What the blocks of a migration hold: their form is the OB3's own, so the launch that they carry is a free value of their bytes (notes/assumptions/13.md). -/
opaque blockContents : List Sys2Proof.Byte → Option Sys2Proof.Machine.Held

end Sys2Proof.Config

namespace Sys2Proof.Machine

open Sys2Proof

/-! Pages and their owners (R405). A page is named by its memory, 0-3 die memory of a stack, 4 + 2 s + h half h of the bank of stack s, 12 LP memory, and its number there. -/

/-- Start and size of memory `m` of a partition, in pages of the flat space. -/
def memPages (s : State) (p m : Nat) : Nat × Nat :=
  let r := (s.part p).regs
  if m < 4 then let a := r.pdie.getD m .none; ((dieBase m + a.base) / 4096, a.size / 4096)
  else if m < 12 then let a := r.pwb.getD ((m - 4) / 2) .none; ((bankBase ((m - 4) / 2) ((m - 4) % 2) + a.base) / 4096, a.size / 4096)
  else if m = 12 then ((lpBase + r.plp.base) / 4096, r.plp.size / 4096)
  else (0, 0)

/-- The page of the flat space that a name means. -/
def pageAt (s : State) (p m n : Nat) : Option Nat := let x := memPages s p m; if n < x.2 then some (x.1 + n) else none

/-- Is a page of the flat space one of the partition's? -/
def pageOf (s : State) (p n : Nat) : Bool := (List.range 13).any fun m => let x := memPages s p m; decide (x.1 ≤ n) && decide (n < x.1 + x.2)

/-- Another device owns a page from now on; or this one does. -/
def passPage (n : Nat) (s : State) : State := { s with attr := { s.attr with away := (n, n + 1) :: s.attr.away } }
def takePage (n : Nat) (s : State) : State :=
  { s with attr := { s.attr with away := s.attr.away.flatMap fun r =>
      if r.1 ≤ n && n < r.2 then (if r.1 < n then [(r.1, n)] else []) ++ (if n + 1 < r.2 then [(n + 1, r.2)] else []) else [r] } }

/-- Pages of a partition that another device owns. -/
def awayPages (s : State) (p : Nat) : Nat := (s.attr.away.filter fun r => pageOf s p r.1).foldl (fun n r => n + (r.2 - r.1)) 0

/-- The partition's pages are this device's again. -/
def ownAll (p : Nat) (s : State) : State := { s with attr := { s.attr with away := s.attr.away.filter fun r => !pageOf s p r.1 } }

/-- Another device owns all its pages. -/
def ownNone (p : Nat) (s : State) : State :=
  let rs := (List.range 13).filterMap fun m => let x := memPages s p m; if x.2 = 0 then none else some (x.1, x.1 + x.2)
  let s := ownAll p s
  { s with attr := { s.attr with away := s.attr.away ++ rs } }

/-- The first page from `n` on that no range holds. -/
def skipAway (rs : List (Nat × Nat)) : Nat → Nat → Nat
  | 0, n => n
  | k + 1, n => match rs.find? fun r => decide (r.1 ≤ n) && decide (n < r.2) with | some r => skipAway rs k r.2 | none => n

/-- The lowest page, by memory and offset, that this device still owns. -/
def lowestOwned (s : State) (p : Nat) : Option Nat :=
  (List.range 13).findSome? fun m =>
    let x := memPages s p m
    let n := skipAway s.attr.away s.attr.away.length x.1
    if n < x.1 + x.2 then some n else none

/-- PAGES (R402): the pages that the source still owns. -/
def sourcePages (s : State) (p : Nat) : Nat :=
  match (s.part p).mig.state with
  | .receiving | .owning => awayPages s p
  | .idle | .done | .failed => 0
  | _ => partPages s p - awayPages s p

/-- The codes of the cells of a page (12 R332). -/
def pageCells (s : State) (n : Nat) : List Nat := (List.range 128).map fun i => (s.cellSt (n * 4096 + 32 * i)).code

/-- A cell state from its code. -/
def CellSt.ofCode (n : Nat) : CellSt :=
  match n % 4 with
  | 0 => .value
  | 1 => .suspended
  | 2 => .evaluating
  | _ => .failed

/-- Set the cells of a page. -/
def putCells (n : Nat) (cells : List Nat) (s : State) : State :=
  ((List.range 128).zip cells).foldl (fun s x => s.setCellSt (n * 4096 + 32 * x.1) (CellSt.ofCode x.2)) s

/-- The source sends a page with its data and its cell states, and owns it no more. -/
def sendPage (p n : Nat) (s : State) : State :=
  let m := (s.part p).mig
  passPage n (putCells n (List.replicate 128 0) (s.sendPort m.port .migrationPage (n :: pageCells s n) (s.bytes (n * 4096) 4096)))

/-- A page arrives at the target. -/
def receivePage (n : Nat) (data : List Byte) (cells : List Nat) (s : State) : State :=
  let s := { s with attr := { s.attr with ecc := eccCover s.attr.ecc (n * 4096) 4096 } }
  takePage n (putCells n cells (s.putBytes (n * 4096) ((data ++ List.replicate 4096 0#8).take 4096)))

/-! Starting (R402-R404). -/

/-- May MIGCTL and MIGPMAP be written (R402)? -/
def migWritable (s : State) (p : Nat) : Bool :=
  match (s.part p).mig.state with
  | .idle | .done | .failed => true
  | _ => false

/-- Write PORT and ROLE. -/
def writeMigctl (p : Nat) (w : W64) (s : State) : State :=
  if migWritable s p then s.modPart p fun pt => { pt with mig := { pt.mig with port := bitsOf w.toNat 10 8, role := bitsOf w.toNat 7 6 } } else s

/-- GO (R403, R410): a source with an active launch begins to stop it; `peerOk` says that the target's conditions hold. -/
def migGo (p : Nat) (peerOk : Bool) (s : State) : State :=
  let pt := s.part p
  if pt.mig.role ≠ 1 then s
  else
    let ok := s.modl.mstate == 4 && peerOk && (s.port pt.mig.port).owner? == some p && (s.port pt.mig.port).direct && runningLaunch s p && pt.pstate == .active
    if ok then migState p .stopping (partPages s p) (beginStop p s)
    else s.modPart p fun pt => { pt with mig := { pt.mig with state := .failed } }

/-- MIGCTL_GO (R403): a write of MIGCTL with GO. -/
def execMigctlGo (p : Nat) (w : W64) (peerOk : Bool) (s : State) : Answer :=
  .next (if migWritable s p then migGo p peerOk (writeMigctl p w s) else s)

/-! Hand-over (R404). -/

/-- The pages that hold a cell in EVALUATING. -/
def evaluatingPages (s : State) (p : Nat) : List Nat := (evaluatingCells s p).foldl (fun l c => if l.contains (c / 4096) then l else l ++ [c / 4096]) []

/-- The launch leaves the source: pages with an EVALUATING cell pass to the target, the rest is served. -/
def leaveSource (p : Nat) (l : Launch) (s : State) : State :=
  let s := (evaluatingPages s p).foldl (fun s n => sendPage p n s) s
  let s := (leavePart p (dropService p l.lseq s)).modPart p fun pt => { pt with pstate := .serving, mig := { pt.mig with left := some l } }
  endHold (migState p .serving (partPages s p - awayPages s p) s)

/-- The port of the target that replaces a port of the source (R402). -/
def mapPort (pmap n : Nat) : Nat := if bitOf pmap (4 * n + 3) then bitsOf pmap (4 * n + 2) (4 * n) else n

/-- A received launch with the ports of the target. -/
def mapPorts (pmap : Nat) (h : Held) : Held :=
  let msg (c : CopyCmd) : CopyCmd := { c with msg := c.msg.map fun m => { m with port := mapPort pmap m.port } }
  { h with
    launch := { h.launch with group := h.launch.group.map fun g => { g with ports := g.ports.map fun x => (mapPort pmap x.1, x.2) } }
    amt := h.amt.map fun x => (mapPort pmap x.1, x.2)
    clus := h.clus.map fun x => (x.1, { x.2 with copies := x.2.copies.map fun q => (q.1, q.2.map msg) }) }

/-- Redirect notices on every mapped port: the port of the source, and the port that replaces it. -/
def redirectNotices (pmap : Nat) (s : State) : State :=
  (List.range 8).foldl (fun s i => if bitOf pmap (4 * i + 3) then s.sendPort (mapPort pmap i) .redirect [i, mapPort pmap i] [] else s) s

/-- A request that comes with the launch: a pending one is posted again, one whose reply is complete stays so (R404). -/
def postAgain (p : Nat) (r : SvcReq) (s : State) : State := if r.done then s.modPart p fun pt => { pt with svc := pt.svc ++ [r] } else postService p r s

/-- The launch runs on the target: it is resumed, its pending requests are posted again, its peers are told. -/
def enterTarget (p : Nat) (h : Held) (s : State) : State :=
  let pmap := (s.part p).mig.pmap
  let h := mapPorts pmap h
  let s := h.svc.foldl (fun s r => postAgain p r s) (enterPart p h s)
  redirectNotices pmap (migState p .owning (awayPages s p) s)

/-- HAND_OVER (R404): blocks of the launch, `data`, reach the target; with the last of them the launch runs there, and has left the source. -/
def handOver (p : Nat) (data : List Byte) (last : Bool) (s : State) : State :=
  let pt := s.part p
  match pt.mig.state, pt.launch with
  | .sending, some l => if last && l.phase = .active then leaveSource p l s else s
  | .receiving, none =>
    match (if last then Config.blockContents data else none) with
    | some h => enterTarget p h s
    | none => s
  | st, none =>
    if pt.mig.role = 2 && (st = .idle || st = .done || st = .failed) && pt.held.isNone && pt.pstate = .idle && !last then
      let s := ownNone p s
      migState p .receiving (awayPages s p) s
    else s
  | _, _ => s
/-- HAND_OVER (R404) -/
def execHandOver (p : Nat) (data : List Byte) (last : Bool) (s : State) : Answer := .next (handOver p data last s)

/-! Pages on the move (R404, R405). -/

/-- A page moves: at the source it is sent if it is still there, at the target it arrives. -/
def movePage (ctr : PartCtr) (p : Nat) (n : Option Nat) (data : List Byte) (cells : List Nat) (s : State) : State :=
  match n, (s.part p).mig.state with
  | some n, .serving => if s.owned (n * 4096) then (sendPage p n s).partCtr p ctr 1 else s
  | some n, .owning | some n, .receiving => if s.owned (n * 4096) then s else flushPushes p ((receivePage n data cells s).partCtr p ctr 1)
  | _, _ => s

/-- PAGE_PULL (R405): page `n` of memory `m` is moved on demand. -/
def execPagePull (p m n : Nat) (data : List Byte) (cells : List Nat) (s : State) : Answer := .next (movePage .migpulls p (pageAt s p m n) data cells s)

/-- PAGE_PUSH (R404): the source pushes its lowest page; at the target page `n` of memory `m` arrives. -/
def execPagePush (p m n : Nat) (data : List Byte) (cells : List Nat) (s : State) : Answer :=
  .next (movePage .migpushes p (if (s.part p).mig.state = .serving then lowestOwned s p else pageAt s p m n) data cells s)

/-! The end of a migration (R404, R407). -/

/-- MIGRATION_DONE (R404): every page has moved. -/
def migrationDone (p : Nat) (s : State) : State :=
  match (s.part p).mig.state with
  | .serving =>
    if (lowestOwned s p).isSome then s
    else ((migState p .done 0 (ownAll p s)).raisePart p 5).modPart p fun pt => { pt with pstate := .idle, mig := { pt.mig with left := none } }
  | .owning =>
    if awayPages s p ≠ 0 then s else (migState p .done 0 s).modPart p fun pt => { pt with mig := { pt.mig with role := 0 } }
  | _ => s
/-- MIGRATION_DONE (R404) -/
def execMigrationDone (p : Nat) (s : State) : Answer := .next (migrationDone p s)

/-- The pages that the source still owned are lost: their bytes are undefined (R407). -/
def losePages (p : Nat) (s : State) : State :=
  flushPushes p <| ownAll p ((s.attr.away.filter fun r => pageOf s p r.1).foldl (fun s r => s.makeUndef (r.1 * 4096) (r.2 * 4096)) s)

/-- A migration ends FAILED. -/
def migFailed (p : Nat) (s : State) : State := (migState p .failed 0 s).raisePart p 5

/-- MIGRATION_LINK_FAILURE (R407): before hand-over the source goes on with the launch and the target drops what it has; after it the source is idle and the target's launch is discarded with MIGFAIL. -/
def linkFailure (p : Nat) (s : State) : State :=
  match (s.part p).mig.state with
  | .stopping => migFailed p ((mapQueues p uncapture s).modPart p fun pt => { pt with pstate := if pt.pstate = .stopping then .active else pt.pstate })
  | .drain | .sending => if runningLaunch s p then migFailed p (resumeInPlace p s) else s
  | .receiving => migFailed p (ownAll p s)
  | .serving => (migFailed p (ownAll p s)).modPart p fun pt => { pt with pstate := .idle, mig := { pt.mig with left := none } }
  | .owning => migFailed p (chargeFault p { code := .migfail } (losePages p s))
  | _ => s
/-- MIGRATION_LINK_FAILURE (R407) -/
def execMigrationLinkFailure (p : Nat) (s : State) : Answer := .next (linkFailure p s)

/-- MIGRATION_ABORT (R407): the source's abort reaches the target. -/
def migrationAbort (p : Nat) (s : State) : State :=
  match (s.part p).mig.state with
  | .receiving => migFailed p (ownAll p s)
  | .idle | .done => if (s.part p).mig.role = 2 then migFailed p s else s
  | _ => s
/-- MIGRATION_ABORT (R407) -/
def execMigrationAbort (p : Nat) (s : State) : Answer := .next (migrationAbort p s)

end Sys2Proof.Machine
end

