-- ==== Sys2Proof/Machine/Boot.lean ====
section
/-! DEFINITION. Module states, firmware, function resets, power states, peer-port training, signed images, attestation (spec/15_module_platform.md R409, R410, R423-R428; spec/13 R355-R357). -/

namespace Sys2Proof.Machine

open Sys2Proof

/-! Module states (15 R409). -/

/-- The module enters a state, with its event (15 R422 kind 0xC). -/
def setMState (n : Nat) (s : State) : State :=
  let old := s.modl.mstate
  let s := { s with modl := { s.modl with mstate := n } }
  if old = n then s else s.bbEvent 0xC 0xFF (leBytes 1 old ++ leBytes 1 n)

/-- The platform after a module reset: RESETCNT goes on, and the ring of events, flash and fuses stay (R409, R421, R423). -/
def resetPlat (x : Plat) : Plat :=
  { Plat.reset with
    resetcnt := (x.resetcnt + 1) % 2 ^ 64, bb := { x.bb with freeze := false, lost := 0 }
    flash := x.flash, keyModulus := x.keyModulus, minSvn := x.minSvn, auxPower := x.auxPower, out := x.out }

/-- A module reset (R409). The contents of the memories stand until TRAIN. -/
def moduleReset (s : State) : State :=
  let old := s.modl.mstate
  let s' : State := { s with modl := Module.reset, plat := resetPlat s.plat, parts := [], clus := [], cores := [] }
  let s' := { s' with attr := { s.attr with stamps := [], away := [], prior := [] } }
  if old = 0 then s' else s'.bbEvent 0xC 0xFF (leBytes 1 old ++ leBytes 1 0)
/-- MODULE_RESET (R409): Conventional Reset of the host link. -/
def execModuleReset (s : State) : Answer := .next (moduleReset s)
/-- RST (R409): a write of MSTATE with RST. -/
def execRst (_w : W64) (s : State) : Answer := .next (moduleReset s)

/-- The copy of the firmware that the boot ROM runs (R423). -/
def bootCopy (x : Plat) : Option Nat :=
  (List.range 2).find? fun i => match x.flash[i]? with
    | some f => rsaVerifies x.keyModulus f.body f.signature && decide (x.minSvn ≤ f.svn)
    | none => false

/-- ROMBOOT (R409, R423): the first copy that verifies is run, and the module enters TRAIN; else FWFAIL. -/
def execRomboot (s : State) : Answer :=
  .next (if s.modl.mstate ≠ 0 then s
    else match bootCopy s.plat with
      | some i => setMState 2 (s.modPlat fun x => { x with running := some i })
      | none => setMState 1 s)

/-- May a marker word be drawn (08 R231)? -/
def markerOk (w : W32) : Bool := w ≠ 0#32 && w ≠ 0xFFFFFFFF#32

/-- TRAIN (R409): every memory is zero with good ECC, the marker word has been drawn, the ports have trained. -/
def execTrain (marker : W32) (s : State) : Answer :=
  .next (if s.modl.mstate ≠ 2 || !markerOk marker then s
    else setMState 3 { s with mem := [], attr := .reset, plat := { s.plat with marker := marker } })

/-! Peer ports (13 R356, R357). -/

/-- A port goes down and trains again. -/
def retrainPort (n : Nat) (s : State) : State := s.modPort n fun q => { q with ctl := q.ctl &&& ~~~0xF8#64 }

/-- Does a port advertise Yarger direct mode (R357; 15 R410)? -/
def advertises (s : State) (n : Nat) : Bool := s.modl.mstate == 4 && bitOf (s.port n).ctl.toNat 2

/-- PORT_TRAINING (13 R356): a port that is down finishes training with a peer; `direct`: the peer advertises Yarger direct mode; `width`: the code of the width. -/
def execPortTraining (n : Nat) (direct : Bool) (width : Nat) (s : State) : Answer :=
  .next (if n ≥ 8 || s.modl.mstate < 2 || (s.port n).mode ≠ 0 || width = 0 || width > 5 then s
    else s.modPort n fun q => { q with ctl := q.ctl ||| BitVec.ofNat 64 ((if direct && advertises s n then 2 else 1) * 2 ^ 6 + width * 2 ^ 3) })

/-- The controls of a port that software writes: OWNV and OWNER, which stay while the owner has a launch or migrates (R357; 14 R391), and YALLOW. -/
def portWrite (n : Nat) (w : W64) (s : State) : State :=
  let busy := match (s.port n).owner? with
    | some p => activeLaunch s p || (s.part p).held.isSome || !migWritable s p
    | none => false
  let keep : W64 := if busy then 0xFCF8#64 else 0xF8#64
  s.modPort n fun q => { q with ctl := (q.ctl &&& keep) ||| (w &&& ~~~keep &&& 0xFC04#64) }

/-- A write of PPCTLn (R357). -/
def writePort (n : Nat) (w : W64) (s : State) : State :=
  let s := portWrite n w s
  if bitOf w.toNat 1 then retrainPort n s else s
/-- RETRAIN (R357): a write of PPCTLn with RETRAIN. -/
def execRetrain (n : Nat) (w : W64) (s : State) : Answer := .next (if n < 8 then writePort n (w ||| 2#64) s else s)

/-- SVC (R410): from REDUCED the module enters SERVICE; ports with YALLOW retrain; the minimum SVN rises (R423). -/
def enterService (s : State) : State :=
  if s.modl.mstate ≠ 3 then s
  else
    let svn := match s.plat.running with | some i => (s.plat.flash[i]?.map (·.svn)).getD 0 | none => 0
    let s := setMState 4 (s.modPlat fun x => { x with minSvn := Nat.max x.minSvn svn })
    (List.range 8).foldl (fun s n => if bitOf (s.port n).ctl.toNat 2 then retrainPort n s else s) s
/-- SVC (R409, R410): a write of MSTATE with SVC. -/
def execSvc (_w : W64) (s : State) : Answer := .next (enterService s)

/-- AUXILIARY_POWER (R409, R421): auxiliary power is applied, with RESETCNT 0, or removed; the ring of events is lost with it. -/
def execAuxiliaryPower (on : Bool) (s : State) : Answer :=
  .next (s.modPlat fun x => { x with auxPower := on, bb := .empty, resetcnt := if on then 0 else x.resetcnt })

/-! Functions (13 R355). -/

/-- The submissions of a function that are not active are withdrawn. -/
def withdraw (fn p : Nat) (s : State) : State :=
  s.modPart p fun pt =>
    { pt with
      waiting := pt.waiting.filter (·.fn ≠ fn)
      dreads := pt.dreads.filter fun d => match d.who with
        | .submission n => pt.waiting.all fun x => x.num ≠ n || x.fn ≠ fn
        | _ => true
      launch := match pt.launch with
        | some l => if (l.phase == .starting) && l.fn = fn then none else some l
        | none => none }

/-- Its active and held launches are discarded as under DISCARD, and their completion is not reported. -/
def silence (fn p : Nat) (s : State) : State :=
  let s := match (s.part p).launch with
    | some l => if l.fn = fn && l.phase != LaunchPhase.starting then startDiscard p (logTrap p (bareRecord p { code := .hostdiscard } s) (s.modLaunch p fun l => { l with silent := true })) else s
    | none => s
  match (s.part p).held with
  | some h =>
    if h.launch.fn = fn then
      let h := { h with launch := { h.launch with silent := true } }
      let s := s.modPart p fun pt => { pt with held := some h }
      discardHeld p (logTrap p (heldRecord p h { code := .hostdiscard } s) s)
    else s
  | none => s

/-- The entry of a slot. -/
def imgEntry (s : State) (p slot : Nat) : ImgEntry := tget .empty (s.part p).images slot

/-- Put an entry, with its event. -/
def putImage (p slot : Nat) (e : ImgEntry) (s : State) : State :=
  (s.modPart p fun pt => { pt with images := tput pt.images slot e }).bbEvent 0xB p (imgData slot e)

/-- Length of header and body. -/
def ImgLoad.size (l : ImgLoad) : Nat := l.len - 384

/-- An image load that the reset of its function cuts off ends FAILED with LINK, or with what has failed it before (13 R355; 15 R426, R427). -/
def endLoad (fn : Nat) (s : State) : State :=
  match (s.fn fn).load with
  | none => s
  | some l =>
    let a := lpBase + (s.part l.part).regs.plp.base + l.dst
    let e := imgEntry s l.part l.slot
    (putImage l.part l.slot { e with state := 3, result := if e.state = 3 then e.result else 5 } (s.makeUndef a (a + l.size))).raiseVec fn 7

/-- Reset a virtual function (R355). Its image load ends FAILED with LINK; how much of the image had been written the spec leaves open, so that the bytes of its range are undefined (log entry 99). What its error reporting has recorded stays. -/
def resetFn (fn : Nat) (s : State) : State :=
  let s := (List.range 24).foldl (fun s p => silence fn p (withdraw fn p s)) s
  (endLoad fn s).modFn fn fun f => { Fn.reset with aer := f.aer }

/-- FUNCTION_LEVEL_RESET (13 R355): of a virtual function; of the physical function it is a module reset. -/
def execFunctionLevelReset (fn : Nat) (s : State) : Answer := .next (if fn = physFn then moduleReset s else resetFn fn s)

/-- D3HOT (13 R355): a function enters D3hot, or returns to D0 and sends the messages that were held. -/
def execD3hot (fn : Nat) (enter : Bool) (s : State) : Answer :=
  .next (if enter then s.modFn fn fun f => { f with d3 := true }
    else
      let held := (s.fn fn).held
      let s := s.modFn fn fun f => { f with d3 := false, held := [] }
      held.foldl (fun s v => s.send (.msix fn v)) s)

/-! Signed images (15 R425-R427). -/

/-- RANGE (R426): the destination leaves the allotment or overlaps another entry that is LOADING or VERIFIED. -/
def imgRange (s : State) (l : ImgLoad) : Bool :=
  l.dst % 64 ≠ 0 || l.dst + l.size > (s.part l.part).regs.plp.size ||
    (s.part l.part).images.any fun x => x.1 ≠ l.slot && imgHit 0 l.dst l.size x.2

/-- GO (R426, R427): the entry becomes LOADING, or FAILED with RANGE before anything is written. -/
def imageGo (fn slot : Nat) (s : State) : State :=
  let f := s.fn fn
  match f.load, s.boundTo fn with
  | none, some p =>
    let l : ImgLoad := { part := p, slot := slot, src := f.imgsrc, dst := f.imgdst.toNat, len := f.imglen.toNat, bytes := [] }
    let e : ImgEntry := { off := l.dst, state := 1, result := 0, len := l.size, digest := [] }
    let s := s.modFn fn fun f => { f with load := some l }
    if imgRange s l then
      (putImage p slot { e with state := 3, result := 4 } (s.modFn fn fun f => { f with load := none })).raiseVec fn 7
    else putImage p slot e s
  | _, _ => s

/-- A write of IMGCTL (R426): SLOT, then GO. -/
def imgctlWrite (fn : Nat) (w : W64) (s : State) : State :=
  let s := s.modFn fn fun f => { f with imgslot := bitsOf w.toNat 5 0 }
  if bitOf w.toNat 7 then imageGo fn (bitsOf w.toNat 5 0) s else s

/-- IMGCTL_GO (R426): a write of IMGCTL with GO. -/
def execImgctlGo (fn : Nat) (w : W64) (s : State) : Answer := .next (imgctlWrite fn (w ||| 0x80#64) s)

/-- Do `n` code tiles lie end to end from an offset up to `stop` (R425)? -/
def imageTiles (bs : List Byte) : Nat → Nat → Nat → Bool
  | 0, off, stop => off == stop
  | n + 1, off, stop =>
    match tileHeader? 1 ((bs.drop off).take 64) with
    | some h => let next := off + ceilDiv (codeTileSize h.ng h.bits) 64 * 64; decide (next ≤ stop) && imageTiles bs n next stop
    | none => false

/-- Are the header and the tile headers of an image right (R425)? -/
def imageOk (bs : List Byte) (len : Nat) : Bool :=
  let f (o n : Nat) := fieldOf bs o n
  let body := f 8 8
  f 0 4 == 0x4E44594C && f 4 2 == 1 && decide (f 6 2 < 8) && body % 64 == 0 && f 0x1C 36 == 0 && len == 448 + body && bs.length == len &&
    decide (f 0x18 4 * 64 ≤ body) && imageTiles bs (f 0x18 4) 64 (64 + body)

/-- RESULT of a load whose bytes have all been read (R426). -/
def imageResult (s : State) (l : ImgLoad) (bs : List Byte) : Nat :=
  if !imageOk bs l.len then 1
  else
    let key := tget { modulus := [], valid := false } (s.part l.part).pubkeys (fieldOf bs 6 2)
    if !key.valid then 2
    else if !rsaVerifies key.modulus (bs.take l.size) (bs.drop l.size) then 3
    else 0

/-- Write an image's bytes to LP memory; the write is the load's own (R427). -/
def imageWrite (at_ : Nat) (bs : List Byte) (s : State) : State :=
  (List.range (ceilDiv bs.length 64)).foldl (fun s i =>
    let a := at_ + 64 * i
    let s := s.stampPage a
    ({ s with attr := { s.attr with ecc := eccCover s.attr.ecc a 64 } }).putBytes a ((bs.drop (64 * i)).take 64)) s

/-- IMAGE_LOAD_END (R426, R427): the load of a function ends. `data` is what the reads returned, `ok` whether none failed. -/
def imageLoadEnd (fn : Nat) (data : List Byte) (ok : Bool) (s : State) : State :=
  match (s.fn fn).load with
  | none => s
  | some l =>
    let s := imageWrite (lpBase + (s.part l.part).regs.plp.base + l.dst) (data.take l.size) s
    let e := imgEntry s l.part l.slot
    let r := if e.state = 3 then e.result else if !ok then 5 else imageResult s l data
    let s := putImage l.part l.slot { e with state := if r = 0 then 2 else 3, result := r, digest := sha256 (data.take l.size) } s
    (s.modFn fn fun f => { f with load := none }).raiseVec fn 7
/-- IMAGE_LOAD_END (R426) -/
def execImageLoadEnd (fn : Nat) (data : List Byte) (ok : Bool) (s : State) : Answer := .next (imageLoadEnd fn data ok s)

/-! Attestation (15 R428). -/

/-- The 48 bytes of an image-table entry (R427). -/
def ImgEntry.bytes (e : ImgEntry) : List Byte :=
  leBytes 8 e.off ++ leBytes 8 (e.state % 4 * 2 ^ 62 + e.result % 64 * 2 ^ 56 + e.len % 2 ^ 56) ++ (e.digest ++ List.replicate 32 0#8).take 32

/-- A modulus of 384 bytes. -/
def PubKey.bytes (k : PubKey) : List Byte := (k.modulus ++ List.replicate 384 0#8).take 384

/-- The image table of a partition. -/
def imageTable (x : Part) : List Byte := (List.range 64).flatMap fun i => (tget .empty x.images i).bytes

/-- The digest of a partition: its VALID keys in slot order, then its image table. -/
def partDigest (x : Part) : List Byte :=
  let keys := (List.range 8).flatMap fun i => let k := tget { modulus := [], valid := false } x.pubkeys i; if k.valid then k.bytes else []
  sha256 (keys ++ imageTable x)

/-- The report without its signature. -/
def reportBody (s : State) : List Byte :=
  let fw := match s.plat.running with | some i => s.plat.flash[i]? | none => none
  leBytes 4 0x4133424F ++ leBytes 4 ((fw.map (·.svn)).getD 0) ++ leBytes 8 Config.deviceId.toNat ++ (s.plat.nonce ++ List.replicate 32 0#8).take 32 ++
    sha256 ((fw.map (·.body)).getD []) ++ leBytes 8 s.plat.resetcnt ++ leBytes 8 s.modl.frame ++
    (List.range 24).flatMap fun p => partDigest (s.part p)

/-- ATTCTL_GO (R428): a report is asked for. -/
def execAttctlGo (_w : W64) (s : State) : Answer := .next (s.modPlat fun x => { x with attBusy := true })

/-- ATTESTATION_REPORT (R428): the report is ready, signed by the identity key. -/
def execAttestationReport (s : State) : Answer :=
  .next (if !s.plat.attBusy then s
    else
      let b := reportBody s
      (s.modPlat fun x => { x with report := b ++ rsaSign Config.identityModulus Config.identityExponent b, attBusy := false }).raiseVec physFn 10)

end Sys2Proof.Machine
end

