-- ==== Sys2Proof/Machine/Branch.lean ====
section
/-! DEFINITION. Branches, calls, loops, ADR and the control words, majors 0x07 to 0x09, 0x0C and 0x0D (spec/04_scalar_registers_and_control.md R105-R109, R112-R114; spec/14 R381). -/

namespace Sys2Proof.Machine

open Sys2Proof

/-- The target of a word offset (02 R52). -/
def offsetTarget {n : Nat} (pc : W64) (off : BitVec n) : W64 := pc + 4#64 * off.signExtend 64

/-- A taken branch to `t`: PCALIGN when it is no multiple of 4 (R105). A taken branch of the execute stream costs `cost` clocks in all (R113). -/
def jumpTo (c : Ctx) (t : W64) (cost : Nat) (s : State) : Except Stop State :=
  if t.toNat % 4 ≠ 0 then err .pcalign
  else .ok (s.modTask c.a fun k =>
    let k := k.setPc c.a.kind t
    if c.a.kind == .execute then { k with x := { k.x with clk := k.x.clk + (cost - 1) } } else k)

/-- Does a B of the execute stream predict its guard: the guard's writer has passed its bound and has not landed (R113)? -/
def predicts (g : Guard) (s : State) : Option (Pred × Bool) :=
  match s.cur with
  | .execute _ =>
    let t := s.task s.cur
    let may (p : Pred) := t.x.unlanded.contains p && !early t (keyPred p) t.x.clk && !t.scoreboard && t.x.arm.isNone
    match g with
    | .always => none
    | .onTrue p => if may p then some (p, true) else none
    | .onFalse p => if may p then some (p, false) else none
  | _ => none

/-- A predicted B: taken when its offset is negative; the words after it form the predicted arm (R113, R114). -/
def predictB (p : Pred) (sense : Bool) (off : BitVec 19) (s : State) : State :=
  let a := s.cur
  let t := s.task a
  let pc := wordAddr t a.kind
  let taken := off.msb
  let target := offsetTarget pc off
  let next := pc + 4#64
  (s.agentCtr a .predcount 1).modTask a fun t =>
    { t with x := { t.x with
        pc := if taken then target else next
        clk := t.x.clk + (if taken then 2 else 1)
        hold := .none
        arm := some { pred := p, sense := sense, taken := taken, other := if taken then next else target } } }

/-- B (R106, R113) -/
def execBranch (g : Guard) (off : BitVec 19) (s : State) : Answer :=
  match predicts g s with
  | some (p, sense) => if s.live s.cur then .next (predictB p sense off s) else .fault .noStream
  | none => issue (both g []) s fun c s => jumpTo c (offsetTarget c.pc off) 2 s
/-- CALL (R106) -/
def execCall (g : Guard) (off : BitVec 19) (s : State) : Answer :=
  issue (accCtl g []) s fun c s => jumpTo c (offsetTarget c.pc off) 2 (writeReg c keyLr 1 (c.pc + 4#64) s)
/-- BR (R107) -/
def execBr (g : Guard) (a : Scalar) (s : State) : Answer :=
  issue (both g [.src a]) s fun c s =>
    let (t, s) := readScalar c a s
    jumpTo c t 4 s
/-- CALLR (R107): the target is read before lr is written. -/
def execCallr (g : Guard) (a : Scalar) (s : State) : Answer :=
  issue (accCtl g [.src a]) s fun c s =>
    let (t, s) := readScalar c a s
    jumpTo c t 4 (writeReg c keyLr 1 c.next s)
/-- RET (R107): reads lr, so it holds while lr waits for a load. -/
def execRet (g : Guard) (s : State) : Answer :=
  issue (accCtl g []) s fun c s => do
    pendCheck (s.task c.a) keyLr
    let (t, s) := readReg c keyLr s
    jumpTo c t 4 s
/-- LOOP (R108) -/
def execLoop (g : Guard) (a : SDst) (off : BitVec 15) (s : State) : Answer :=
  issue { both g [.rw a] with shape := a ≠ .zr } s fun c s =>
    let (v, s) := readDst c a s
    let t := v - 1#64
    let s := writeDst c a 1 t s
    if t = 0#64 then .ok s else jumpTo c (offsetTarget c.pc off) 2 s
/-- ADR (R109) -/
def execAdr (g : Guard) (a : SDst) (off : BitVec 15) (s : State) : Answer :=
  issuePure (accCtl g [.dst a]) s fun c s => writeDst c a 1 (offsetTarget c.pc off) s
/-- NOP (R112) -/
def execNop (g : Guard) (s : State) : Answer := issuePure (both g []) s fun _ s => s
/-- TEND (R112): the stream ends; its PC stays at the TEND (14 R378). In the execute stream it waits until every bucket command has ended its expansion and every dense command has retired (10 R291), and raises BKOPEN when a group is then open (09 R271). -/
def execTend (g : Guard) (s : State) : Answer :=
  issue (both g []) s fun c s => do
    match c.a with
    | .execute core =>
      let e := (s.core core).eng
      if !e.bk.queue.isEmpty || !e.dn.queue.isEmpty then holdFor .commands
      if e.bk.openGrp.isSome then err .bkopen
    | _ => .ok ()
    return s.modTask c.a fun t => (t.setPc c.a.kind c.pc).setEnded c.a.kind
/-- BRK (R112; 14 R381): stops the task when BRKEN is 1, else a trap that discards the launch. -/
def execBrk (g : Guard) (s : State) : Answer :=
  let brken := match s.partOf? s.cur.cluster with | some p => (s.part p).regs.brken | none => false
  issue (both g []) s fun c s' =>
    if brken then .ok (takeBreak c.a c.next (s'.modTask c.a fun t => t.setPc c.a.kind c.pc)) else err .brk

end Sys2Proof.Machine
end

