-- ==== Sys2Proof/Decode.lean ====
section
/-! DEFINITION. Decoding and encoding of instruction words (spec/02_instruction_words.md R41-R62). A word is cut into its guard, its major opcode and the fields of the major's format (R52); the fields become an instruction or a refusal by name; the encoder is written from the same tables. -/

namespace Sys2Proof

/-- Why bytes are no instruction (02 R61): who asks is told by name. -/
inductive DecodeError where
  /-- Fewer bytes than the word and its literal. -/
  | truncated
  /-- The word is 0x0000_0000 or 0xFFFF_FFFF (R61 case 1). -/
  | zeroOrOnes
  /-- GP from 12 to 14, or GP = 15 with GS = 1 (case 2). -/
  | guard
  /-- The major opcode is unassigned (case 3). -/
  | major
  /-- The minor or cond value is reserved (case 4). -/
  | minor
  /-- A reserved or unused field is not 0 (case 5). -/
  | reserved
  /-- Two scalar fields hold 63 (R47). -/
  | litTwice
  /-- lit in a destination, or in a field that is read and written (R47). -/
  | litPlace
  /-- A vector, mask, predicate, tile or latch field outside its range (R49). -/
  | register
deriving DecidableEq, Repr

/-- The fields of a word by format, in the order of the layouts of 02 R52; `z` is the reserved field. -/
inductive Form where
  | ss (op : BitVec 3) (d : BitVec 6) (a : BitVec 6) (b : BitVec 6)
  | si (op : BitVec 3) (d : BitVec 6) (a : BitVec 6) (imm : BitVec 6)
  | sc (op : BitVec 4) (pd : BitVec 4) (a : BitVec 6) (b : BitVec 6) (z : BitVec 1)
  | pl (op : BitVec 3) (pd : BitVec 4) (pa : BitVec 4) (pb : BitVec 4) (z : BitVec 6)
  | j (op : BitVec 2) (off : BitVec 19)
  | l (a : BitVec 6) (off : BitVec 15)
  | zf (op : BitVec 5) (z : BitVec 16)
  | atm (op : BitVec 3) (ord : BitVec 2) (scope : BitVec 2) (wide : BitVec 1) (z : BitVec 1) (d : BitVec 6) (a : BitVec 6)
  | fn (op : BitVec 3) (ord : BitVec 2) (scope : BitVec 2) (z : BitVec 8) (a : BitVec 6)
  | vm (op : BitVec 3) (vd : BitVec 5) (a : BitVec 6) (b : BitVec 6) (z : BitVec 1)
  | v (op : BitVec 3) (lc : BitVec 3) (vd : BitVec 5) (va : BitVec 5) (vb : BitVec 5)
  | vx (op : BitVec 2) (lc : BitVec 3) (vd : BitVec 5) (va : BitVec 5) (s : BitVec 6)
  | e (op : BitVec 5) (a : BitVec 6) (b : BitVec 6) (z : BitVec 4)
  | rp (cnt : BitVec 6) (step : BitVec 3) (z : BitVec 12)
deriving DecidableEq, Repr

/-- The formats of 02 R52. -/
inductive Format where
  | ss | si | sc | pl | j | l | zf | atm | fn | vm | v | vx | e | rp
deriving DecidableEq, Repr

/-- The format of each assigned major opcode (02 R58). -/
def formatOf : Nat → Option Format
  | 0 => some .ss
  | 1 => some .ss
  | 2 => some .si
  | 3 => some .ss
  | 4 => some .ss
  | 5 => some .sc
  | 6 => some .pl
  | 7 => some .j
  | 8 => some .ss
  | 9 => some .l
  | 10 => some .ss
  | 11 => some .pl
  | 12 => some .zf
  | 13 => some .l
  | 16 => some .ss
  | 17 => some .vm
  | 18 => some .vm
  | 19 => some .atm
  | 20 => some .fn
  | 21 => some .ss
  | 24 => some .e
  | 25 => some .ss
  | 28 => some .ss
  | 29 => some .ss
  | 32 => some .v
  | 33 => some .v
  | 34 => some .v
  | 35 => some .v
  | 36 => some .v
  | 37 => some .v
  | 38 => some .v
  | 39 => some .v
  | 40 => some .v
  | 41 => some .v
  | 42 => some .v
  | 43 => some .v
  | 44 => some .vx
  | 45 => some .vx
  | 46 => some .v
  | 47 => some .v
  | 48 => some .e
  | 49 => some .e
  | 50 => some .e
  | 51 => some .e
  | 52 => some .e
  | 53 => some .e
  | 54 => some .e
  | 56 => some .e
  | 57 => some .v
  | 60 => some .ss
  | 63 => some .rp
  | _ => none

/-- Bits [20:0] cut into the fields of a format. -/
def Form.ofBits (f : Format) (w : BitVec 21) : Form :=
  match f with
  | .ss => .ss (w.extractLsb' 18 3) (w.extractLsb' 12 6) (w.extractLsb' 6 6) (w.extractLsb' 0 6)
  | .si => .si (w.extractLsb' 18 3) (w.extractLsb' 12 6) (w.extractLsb' 6 6) (w.extractLsb' 0 6)
  | .sc => .sc (w.extractLsb' 17 4) (w.extractLsb' 13 4) (w.extractLsb' 7 6) (w.extractLsb' 1 6) (w.extractLsb' 0 1)
  | .pl => .pl (w.extractLsb' 18 3) (w.extractLsb' 14 4) (w.extractLsb' 10 4) (w.extractLsb' 6 4) (w.extractLsb' 0 6)
  | .j => .j (w.extractLsb' 19 2) (w.extractLsb' 0 19)
  | .l => .l (w.extractLsb' 15 6) (w.extractLsb' 0 15)
  | .zf => .zf (w.extractLsb' 16 5) (w.extractLsb' 0 16)
  | .atm => .atm (w.extractLsb' 18 3) (w.extractLsb' 16 2) (w.extractLsb' 14 2) (w.extractLsb' 13 1) (w.extractLsb' 12 1) (w.extractLsb' 6 6) (w.extractLsb' 0 6)
  | .fn => .fn (w.extractLsb' 18 3) (w.extractLsb' 16 2) (w.extractLsb' 14 2) (w.extractLsb' 6 8) (w.extractLsb' 0 6)
  | .vm => .vm (w.extractLsb' 18 3) (w.extractLsb' 13 5) (w.extractLsb' 7 6) (w.extractLsb' 1 6) (w.extractLsb' 0 1)
  | .v => .v (w.extractLsb' 18 3) (w.extractLsb' 15 3) (w.extractLsb' 10 5) (w.extractLsb' 5 5) (w.extractLsb' 0 5)
  | .vx => .vx (w.extractLsb' 19 2) (w.extractLsb' 16 3) (w.extractLsb' 11 5) (w.extractLsb' 6 5) (w.extractLsb' 0 6)
  | .e => .e (w.extractLsb' 16 5) (w.extractLsb' 10 6) (w.extractLsb' 4 6) (w.extractLsb' 0 4)
  | .rp => .rp (w.extractLsb' 15 6) (w.extractLsb' 12 3) (w.extractLsb' 0 12)

/-- The fields put back into bits [20:0]. -/
def Form.bits : Form → BitVec 21
  | .ss op d a b => op ++ d ++ a ++ b
  | .si op d a imm => op ++ d ++ a ++ imm
  | .sc op pd a b z => op ++ pd ++ a ++ b ++ z
  | .pl op pd pa pb z => op ++ pd ++ pa ++ pb ++ z
  | .j op off => op ++ off
  | .l a off => a ++ off
  | .zf op z => op ++ z
  | .atm op ord scope wide z d a => op ++ ord ++ scope ++ wide ++ z ++ d ++ a
  | .fn op ord scope z a => op ++ ord ++ scope ++ z ++ a
  | .vm op vd a b z => op ++ vd ++ a ++ b ++ z
  | .v op lc vd va vb => op ++ lc ++ vd ++ va ++ vb
  | .vx op lc vd va s => op ++ lc ++ vd ++ va ++ s
  | .e op a b z => op ++ a ++ b ++ z
  | .rp cnt step z => cnt ++ step ++ z

/-- The format of cut fields. -/
def Form.format : Form → Format
  | .ss _ _ _ _ => .ss
  | .si _ _ _ _ => .si
  | .sc _ _ _ _ _ => .sc
  | .pl _ _ _ _ _ => .pl
  | .j _ _ => .j
  | .l _ _ => .l
  | .zf _ _ => .zf
  | .atm _ _ _ _ _ _ _ => .atm
  | .fn _ _ _ _ _ => .fn
  | .vm _ _ _ _ _ => .vm
  | .v _ _ _ _ _ => .v
  | .vx _ _ _ _ _ => .vx
  | .e _ _ _ _ => .e
  | .rp _ _ _ => .rp

/-- The guard fields (02 R43). -/
def Guard.ofFields (gs : BitVec 1) (gp : BitVec 4) : Except DecodeError Guard :=
  if h : gp.toNat < 12 then .ok (if gs = 1#1 then .onFalse ⟨gp.toNat, h⟩ else .onTrue ⟨gp.toNat, h⟩)
  else if gp = 15#4 && gs = 0#1 then .ok .always
  else .error .guard

/-- GS of a guard. -/
def Guard.gs : Guard → BitVec 1
  | .always => 0#1
  | .onTrue _ => 0#1
  | .onFalse _ => 1#1

/-- GP of a guard. -/
def Guard.gp : Guard → BitVec 4
  | .always => 15#4
  | .onTrue p => BitVec.ofNat 4 p.val
  | .onFalse p => BitVec.ofNat 4 p.val

/-- A scalar source field (02 R46), with the literal word that 63 names. -/
def Scalar.ofField (f : BitVec 6) (lit : W32) : Scalar :=
  if h : f.toNat < 56 then .s ⟨f.toNat, h⟩
  else if h : f.toNat - 56 < 4 then .sq ⟨f.toNat - 56, h⟩
  else if f = 60#6 then .zr
  else if f = 61#6 then .lr
  else if f = 62#6 then .sp
  else .lit lit

/-- The field of a scalar source. -/
def Scalar.field : Scalar → BitVec 6
  | .s n => BitVec.ofNat 6 n.val
  | .sq n => BitVec.ofNat 6 (56 + n.val)
  | .zr => 60#6
  | .lr => 61#6
  | .sp => 62#6
  | .lit _ => 63#6

/-- A scalar destination field (02 R46, R47). -/
def SDst.ofField (f : BitVec 6) : Except DecodeError SDst :=
  if h : f.toNat < 56 then .ok (.s ⟨f.toNat, h⟩)
  else if h : f.toNat - 56 < 4 then .ok (.sq ⟨f.toNat - 56, h⟩)
  else if f = 60#6 then .ok .zr
  else if f = 61#6 then .ok .lr
  else if f = 62#6 then .ok .sp
  else .error .litPlace

/-- The field of a scalar destination. -/
def SDst.field : SDst → BitVec 6
  | .s n => BitVec.ofNat 6 n.val
  | .sq n => BitVec.ofNat 6 (56 + n.val)
  | .zr => 60#6
  | .lr => 61#6
  | .sp => 62#6

/-- A vector field (02 R49). -/
def VReg.ofField (f : BitVec 5) : Except DecodeError VReg :=
  if h : f.toNat < 16 then .ok (.v ⟨f.toNat, h⟩)
  else if h : f.toNat - 16 < 4 then .ok (.vq ⟨f.toNat - 16, h⟩)
  else if f = 20#5 then .ok .vqs
  else .error .register

/-- The field of a vector specifier. -/
def VReg.field : VReg → BitVec 5
  | .v n => BitVec.ofNat 5 n.val
  | .vq n => BitVec.ofNat 5 (16 + n.val)
  | .vqs => 20#5

/-- A predicate field (02 R49). -/
def predOfField (f : BitVec 4) : Except DecodeError Pred :=
  if h : f.toNat < 12 then .ok ⟨f.toNat, h⟩ else .error .register

/-- A mask field (02 R49). -/
def mregOfField (f : BitVec 5) : Except DecodeError MReg :=
  if h : f.toNat < 8 then .ok ⟨f.toNat, h⟩ else .error .register

/-- A tile field: the low bit names the tile, the higher bits must be 0 (02 R49). -/
def tileOfField (f : BitVec 5) : Except DecodeError Tile :=
  if h : f.toNat < 2 then .ok ⟨f.toNat, h⟩ else .error .register

/-- A latch field: the low two bits name the latch, the higher bits must be 0 (02 R49). -/
def latchOfField (f : BitVec 5) : Except DecodeError Latch :=
  if h : f.toNat < 4 then .ok ⟨f.toNat, h⟩ else .error .register

/-- The ord field (02 R53). -/
def MemOrder.ofField (f : BitVec 2) : MemOrder :=
  if f = 0#2 then .relaxed else if f = 1#2 then .acquire else if f = 2#2 then .release else .acqrel

/-- The bits of an ord. -/
def MemOrder.field : MemOrder → BitVec 2
  | .relaxed => 0#2
  | .acquire => 1#2
  | .release => 2#2
  | .acqrel => 3#2

/-- The scope field (02 R53). -/
def Scope.ofField (f : BitVec 2) : Scope :=
  if f = 0#2 then .unit else if f = 1#2 then .group else if f = 2#2 then .device else .system

/-- The bits of a scope. -/
def Scope.field : Scope → BitVec 2
  | .unit => 0#2
  | .group => 1#2
  | .device => 2#2
  | .system => 3#2

/-- A field that must be 0 (02 R52, R61 case 5). -/
def unused {n : Nat} (f : BitVec n) : Except DecodeError Unit :=
  if f = 0#n then .ok () else .error .reserved

/-- REP takes no guard (02 R56 case 1). -/
def unguarded (g : Guard) : Except DecodeError Unit :=
  if g = .always then .ok () else .error .guard

/-- Major 0x00, format SS. -/
def ofMajor00 (op : Nat) (g : Guard) (d : BitVec 6) (a : BitVec 6) (b : BitVec 6) (lit : W32) : Except DecodeError Instr :=
  match op with
  | 0 => do return .add g (← SDst.ofField d) (Scalar.ofField a lit) (Scalar.ofField b lit)
  | 1 => do return .sub g (← SDst.ofField d) (Scalar.ofField a lit) (Scalar.ofField b lit)
  | 2 => do return .and g (← SDst.ofField d) (Scalar.ofField a lit) (Scalar.ofField b lit)
  | 3 => do return .or g (← SDst.ofField d) (Scalar.ofField a lit) (Scalar.ofField b lit)
  | 4 => do return .xor g (← SDst.ofField d) (Scalar.ofField a lit) (Scalar.ofField b lit)
  | 5 => do return .shl g (← SDst.ofField d) (Scalar.ofField a lit) (Scalar.ofField b lit)
  | 6 => do return .shr g (← SDst.ofField d) (Scalar.ofField a lit) (Scalar.ofField b lit)
  | 7 => do return .sar g (← SDst.ofField d) (Scalar.ofField a lit) (Scalar.ofField b lit)
  | _ => .error .minor

/-- Major 0x01, format SS. -/
def ofMajor01 (op : Nat) (g : Guard) (d : BitVec 6) (a : BitVec 6) (b : BitVec 6) (lit : W32) : Except DecodeError Instr :=
  match op with
  | 0 => do return .mul g (← SDst.ofField d) (Scalar.ofField a lit) (Scalar.ofField b lit)
  | 1 => do return .mulhs g (← SDst.ofField d) (Scalar.ofField a lit) (Scalar.ofField b lit)
  | 2 => do return .mulhu g (← SDst.ofField d) (Scalar.ofField a lit) (Scalar.ofField b lit)
  | 3 => do return .min g (← SDst.ofField d) (Scalar.ofField a lit) (Scalar.ofField b lit)
  | 4 => do return .max g (← SDst.ofField d) (Scalar.ofField a lit) (Scalar.ofField b lit)
  | 5 => do return .minu g (← SDst.ofField d) (Scalar.ofField a lit) (Scalar.ofField b lit)
  | 6 => do return .maxu g (← SDst.ofField d) (Scalar.ofField a lit) (Scalar.ofField b lit)
  | 7 => do return .rol g (← SDst.ofField d) (Scalar.ofField a lit) (Scalar.ofField b lit)
  | _ => .error .minor

/-- Major 0x03, format SS. -/
def ofMajor03 (op : Nat) (g : Guard) (d : BitVec 6) (a : BitVec 6) (b : BitVec 6) (lit : W32) : Except DecodeError Instr :=
  match op with
  | 0 => do unused b; return .clz g (← SDst.ofField d) (Scalar.ofField a lit)
  | 1 => do unused b; return .ctz g (← SDst.ofField d) (Scalar.ofField a lit)
  | 2 => do unused b; return .popc g (← SDst.ofField d) (Scalar.ofField a lit)
  | 3 => do unused b; return .bswap g (← SDst.ofField d) (Scalar.ofField a lit)
  | 4 => do unused b; return .sextb g (← SDst.ofField d) (Scalar.ofField a lit)
  | 5 => do unused b; return .sexth g (← SDst.ofField d) (Scalar.ofField a lit)
  | 6 => do unused b; return .sextw g (← SDst.ofField d) (Scalar.ofField a lit)
  | 7 => do unused b; return .zextw g (← SDst.ofField d) (Scalar.ofField a lit)
  | _ => .error .minor

/-- Major 0x04, format SS. -/
def ofMajor04 (op : Nat) (g : Guard) (d : BitVec 6) (a : BitVec 6) (b : BitVec 6) (lit : W32) : Except DecodeError Instr :=
  match op with
  | 0 => do return .divs g (← SDst.ofField d) (Scalar.ofField a lit) (Scalar.ofField b lit)
  | 1 => do return .divu g (← SDst.ofField d) (Scalar.ofField a lit) (Scalar.ofField b lit)
  | 2 => do return .rems g (← SDst.ofField d) (Scalar.ofField a lit) (Scalar.ofField b lit)
  | 3 => do return .remu g (← SDst.ofField d) (Scalar.ofField a lit) (Scalar.ofField b lit)
  | _ => .error .minor

/-- Major 0x08, format SS. -/
def ofMajor08 (op : Nat) (g : Guard) (d : BitVec 6) (a : BitVec 6) (b : BitVec 6) (lit : W32) : Except DecodeError Instr :=
  match op with
  | 0 => do unused d; unused b; return .br g (Scalar.ofField a lit)
  | 1 => do unused d; unused b; return .callr g (Scalar.ofField a lit)
  | 2 => do unused d; unused a; unused b; return .ret g
  | _ => .error .minor

/-- Major 0x0A, format SS. -/
def ofMajor0A (op : Nat) (g : Guard) (d : BitVec 6) (a : BitVec 6) (b : BitVec 6) (lit : W32) : Except DecodeError Instr :=
  match op with
  | 0 => do unused d; unused b; return .cqpush g (Scalar.ofField a lit)
  | 1 => do unused a; unused b; return .cqpop g (← SDst.ofField d)
  | _ => .error .minor

/-- Major 0x10, format SS. -/
def ofMajor10 (op : Nat) (g : Guard) (d : BitVec 6) (a : BitVec 6) (b : BitVec 6) (lit : W32) : Except DecodeError Instr :=
  match op with
  | 0 => do return .ldb g (← SDst.ofField d) (Scalar.ofField a lit) (Scalar.ofField b lit)
  | 1 => do return .ldh g (← SDst.ofField d) (Scalar.ofField a lit) (Scalar.ofField b lit)
  | 2 => do return .ldw g (← SDst.ofField d) (Scalar.ofField a lit) (Scalar.ofField b lit)
  | 3 => do return .ldd g (← SDst.ofField d) (Scalar.ofField a lit) (Scalar.ofField b lit)
  | 4 => do return .stb g (Scalar.ofField d lit) (Scalar.ofField a lit) (Scalar.ofField b lit)
  | 5 => do return .sth g (Scalar.ofField d lit) (Scalar.ofField a lit) (Scalar.ofField b lit)
  | 6 => do return .stw g (Scalar.ofField d lit) (Scalar.ofField a lit) (Scalar.ofField b lit)
  | 7 => do return .std g (Scalar.ofField d lit) (Scalar.ofField a lit) (Scalar.ofField b lit)
  | _ => .error .minor

/-- Major 0x15, format SS. -/
def ofMajor15 (op : Nat) (g : Guard) (d : BitVec 6) (a : BitVec 6) (b : BitVec 6) (lit : W32) : Except DecodeError Instr :=
  match op with
  | 0 => do unused d; return .cmk g (Scalar.ofField a lit) (Scalar.ofField b lit)
  | 1 => do return .cld g (← SDst.ofField d) (Scalar.ofField a lit) (Scalar.ofField b lit)
  | 2 => do unused d; return .cfill g (Scalar.ofField a lit) (Scalar.ofField b lit)
  | 3 => do unused d; return .cfail g (Scalar.ofField a lit) (Scalar.ofField b lit)
  | _ => .error .minor

/-- Major 0x19, format SS. -/
def ofMajor19 (op : Nat) (g : Guard) (d : BitVec 6) (a : BitVec 6) (b : BitVec 6) (lit : W32) : Except DecodeError Instr :=
  match op with
  | 0 => do unused d; return .barinit g (Scalar.ofField a lit) (Scalar.ofField b lit)
  | 1 => do unused d; return .barx g (Scalar.ofField a lit) (Scalar.ofField b lit)
  | 2 => do unused d; unused b; return .barw g (Scalar.ofField a lit)
  | 3 => do unused b; return .barrd g (← SDst.ofField d) (Scalar.ofField a lit)
  | _ => .error .minor

/-- Major 0x1C, format SS. -/
def ofMajor1C (op : Nat) (g : Guard) (d : BitVec 6) (a : BitVec 6) (b : BitVec 6) (lit : W32) : Except DecodeError Instr :=
  match op with
  | 0 => do return .jpush g (Scalar.ofField d lit) (Scalar.ofField a lit) (Scalar.ofField b lit)
  | 1 => do unused d; return .qpush g (Scalar.ofField a lit) (Scalar.ofField b lit)
  | 2 => do return .qpop g (← SDst.ofField d) (Scalar.ofField a lit) (Scalar.ofField b lit)
  | 3 => do unused b; return .qdepth g (← SDst.ofField d) (Scalar.ofField a lit)
  | 4 => do unused b; return .darrive g (← SDst.ofField d) (Scalar.ofField a lit)
  | 5 => do unused b; return .evqpop g (← SDst.ofField d) (Scalar.ofField a lit)
  | 6 => do unused d; return .evqpush g (Scalar.ofField a lit) (Scalar.ofField b lit)
  | _ => .error .minor

/-- Major 0x1D, format SS. -/
def ofMajor1D (op : Nat) (g : Guard) (d : BitVec 6) (a : BitVec 6) (b : BitVec 6) (lit : W32) : Except DecodeError Instr :=
  match op with
  | 0 => do unused d; return .rnginit g (Scalar.ofField a lit) (Scalar.ofField b lit)
  | 1 => do unused b; return .rngtkt g (← SDst.ofField d) (Scalar.ofField a lit)
  | 2 => do return .rngfill g (Scalar.ofField d lit) (Scalar.ofField a lit) (Scalar.ofField b lit)
  | 3 => do return .rngget g (← SDst.ofField d) (Scalar.ofField a lit) (Scalar.ofField b lit)
  | _ => .error .minor

/-- Major 0x3C, format SS. -/
def ofMajor3C (op : Nat) (g : Guard) (d : BitVec 6) (a : BitVec 6) (b : BitVec 6) (lit : W32) : Except DecodeError Instr :=
  match op with
  | 0 => do unused a; return .srrd g (← SDst.ofField d) b
  | 1 => do unused d; return .srwr g (Scalar.ofField a lit) b
  | 2 => do return .syscall g (← SDst.ofField d) (Scalar.ofField a lit) (Scalar.ofField b lit)
  | 3 => do unused d; unused b; return .tickwt g (Scalar.ofField a lit)
  | 4 => do unused a; return .framerd g (← SDst.ofField d) b
  | _ => .error .minor

/-- Major 0x02, format SI. -/
def ofMajor02 (op : Nat) (g : Guard) (d : BitVec 6) (a : BitVec 6) (imm : BitVec 6) (lit : W32) : Except DecodeError Instr :=
  match op with
  | 0 => do return .addi g (← SDst.ofField d) (Scalar.ofField a lit) imm
  | 1 => do return .andi g (← SDst.ofField d) (Scalar.ofField a lit) imm
  | 2 => do return .ori g (← SDst.ofField d) (Scalar.ofField a lit) imm
  | 3 => do return .xori g (← SDst.ofField d) (Scalar.ofField a lit) imm
  | 4 => do return .shli g (← SDst.ofField d) (Scalar.ofField a lit) imm
  | 5 => do return .shri g (← SDst.ofField d) (Scalar.ofField a lit) imm
  | 6 => do return .sari g (← SDst.ofField d) (Scalar.ofField a lit) imm
  | _ => .error .minor

/-- Major 0x05, format SC. -/
def ofMajor05 (op : Nat) (g : Guard) (pd : BitVec 4) (a : BitVec 6) (b : BitVec 6) (lit : W32) : Except DecodeError Instr :=
  match op with
  | 0 => do return .cmpEq g (← predOfField pd) (Scalar.ofField a lit) (Scalar.ofField b lit)
  | 1 => do return .cmpNe g (← predOfField pd) (Scalar.ofField a lit) (Scalar.ofField b lit)
  | 2 => do return .cmpLt g (← predOfField pd) (Scalar.ofField a lit) (Scalar.ofField b lit)
  | 3 => do return .cmpGe g (← predOfField pd) (Scalar.ofField a lit) (Scalar.ofField b lit)
  | 4 => do return .cmpLtu g (← predOfField pd) (Scalar.ofField a lit) (Scalar.ofField b lit)
  | 5 => do return .cmpGeu g (← predOfField pd) (Scalar.ofField a lit) (Scalar.ofField b lit)
  | 6 => do return .cmpLe g (← predOfField pd) (Scalar.ofField a lit) (Scalar.ofField b lit)
  | 7 => do return .cmpGt g (← predOfField pd) (Scalar.ofField a lit) (Scalar.ofField b lit)
  | 8 => do return .cmpLeu g (← predOfField pd) (Scalar.ofField a lit) (Scalar.ofField b lit)
  | 9 => do return .cmpGtu g (← predOfField pd) (Scalar.ofField a lit) (Scalar.ofField b lit)
  | _ => .error .minor

/-- Major 0x06, format PL. -/
def ofMajor06 (op : Nat) (g : Guard) (pd : BitVec 4) (pa : BitVec 4) (pb : BitVec 4) : Except DecodeError Instr :=
  match op with
  | 0 => do return .pand g (← predOfField pd) (← predOfField pa) (← predOfField pb)
  | 1 => do return .por g (← predOfField pd) (← predOfField pa) (← predOfField pb)
  | 2 => do return .pxor g (← predOfField pd) (← predOfField pa) (← predOfField pb)
  | 3 => do return .pandn g (← predOfField pd) (← predOfField pa) (← predOfField pb)
  | 4 => do return .porn g (← predOfField pd) (← predOfField pa) (← predOfField pb)
  | 5 => do unused pb; return .pnot g (← predOfField pd) (← predOfField pa)
  | 6 => do unused pa; unused pb; return .pset g (← predOfField pd)
  | 7 => do unused pa; unused pb; return .pclr g (← predOfField pd)
  | _ => .error .minor

/-- Major 0x0B, format PL. -/
def ofMajor0B (op : Nat) (g : Guard) (pd : BitVec 4) (pa : BitVec 4) (pb : BitVec 4) : Except DecodeError Instr :=
  match op with
  | 0 => do unused pd; unused pb; return .pqpush g (← predOfField pa)
  | 1 => do unused pa; unused pb; return .pqpop g (← predOfField pd)
  | _ => .error .minor

/-- Major 0x07, format J. -/
def ofMajor07 (op : Nat) (g : Guard) (off : BitVec 19) : Except DecodeError Instr :=
  match op with
  | 0 => do return .branch g off
  | 1 => do return .call g off
  | _ => .error .minor

/-- Major 0x09, format L. -/
def ofMajor09 (g : Guard) (a : BitVec 6) (off : BitVec 15) : Except DecodeError Instr :=
  do return .loop g (← SDst.ofField a) off

/-- Major 0x0D, format L. -/
def ofMajor0D (g : Guard) (a : BitVec 6) (off : BitVec 15) : Except DecodeError Instr :=
  do return .adr g (← SDst.ofField a) off

/-- Major 0x0C, format ZF. -/
def ofMajor0C (op : Nat) (g : Guard) : Except DecodeError Instr :=
  match op with
  | 0 => do return .nop g
  | 1 => do return .tend g
  | 2 => do return .brk g
  | _ => .error .minor

/-- Major 0x13, format ATM. -/
def ofMajor13 (op : Nat) (g : Guard) (ord : BitVec 2) (scope : BitVec 2) (wide : BitVec 1) (d : BitVec 6) (a : BitVec 6) (lit : W32) : Except DecodeError Instr :=
  match op with
  | 0 => do return .aadd g (MemOrder.ofField ord) (Scope.ofField scope) (wide == 1#1) (← SDst.ofField d) (Scalar.ofField a lit)
  | 1 => do return .aand g (MemOrder.ofField ord) (Scope.ofField scope) (wide == 1#1) (← SDst.ofField d) (Scalar.ofField a lit)
  | 2 => do return .aor g (MemOrder.ofField ord) (Scope.ofField scope) (wide == 1#1) (← SDst.ofField d) (Scalar.ofField a lit)
  | 3 => do return .axor g (MemOrder.ofField ord) (Scope.ofField scope) (wide == 1#1) (← SDst.ofField d) (Scalar.ofField a lit)
  | 4 => do return .amin g (MemOrder.ofField ord) (Scope.ofField scope) (wide == 1#1) (← SDst.ofField d) (Scalar.ofField a lit)
  | 5 => do return .amax g (MemOrder.ofField ord) (Scope.ofField scope) (wide == 1#1) (← SDst.ofField d) (Scalar.ofField a lit)
  | 6 => do return .aswp g (MemOrder.ofField ord) (Scope.ofField scope) (wide == 1#1) (← SDst.ofField d) (Scalar.ofField a lit)
  | 7 => do return .acas g (MemOrder.ofField ord) (Scope.ofField scope) (wide == 1#1) (← SDst.ofField d) (Scalar.ofField a lit)
  | _ => .error .minor

/-- Major 0x14, format FN. -/
def ofMajor14 (op : Nat) (g : Guard) (ord : BitVec 2) (scope : BitVec 2) (a : BitVec 6) (lit : W32) : Except DecodeError Instr :=
  match op with
  | 0 => do unused a; return .fence g (MemOrder.ofField ord) (Scope.ofField scope)
  | 1 => do unused ord; unused scope; unused a; return .dovetail g
  | 2 => do return .publish g (MemOrder.ofField ord) (Scope.ofField scope) (Scalar.ofField a lit)
  | _ => .error .minor

/-- Major 0x11, format VM. -/
def ofMajor11 (op : Nat) (g : Guard) (vd : BitVec 5) (a : BitVec 6) (b : BitVec 6) (lit : W32) : Except DecodeError Instr :=
  match op with
  | 0 => do return .vld g (← VReg.ofField vd) (Scalar.ofField a lit) (Scalar.ofField b lit)
  | 1 => do return .vlds g (← VReg.ofField vd) (Scalar.ofField a lit) (Scalar.ofField b lit)
  | 2 => do return .vldx g (← VReg.ofField vd) (Scalar.ofField a lit) (Scalar.ofField b lit)
  | 3 => do return .vldff g (← VReg.ofField vd) (Scalar.ofField a lit) (Scalar.ofField b lit)
  | _ => .error .minor

/-- Major 0x12, format VM. -/
def ofMajor12 (op : Nat) (g : Guard) (vd : BitVec 5) (a : BitVec 6) (b : BitVec 6) (lit : W32) : Except DecodeError Instr :=
  match op with
  | 0 => do return .vst g (← VReg.ofField vd) (Scalar.ofField a lit) (Scalar.ofField b lit)
  | 1 => do return .vsts g (← VReg.ofField vd) (Scalar.ofField a lit) (Scalar.ofField b lit)
  | 2 => do return .vstx g (← VReg.ofField vd) (Scalar.ofField a lit) (Scalar.ofField b lit)
  | _ => .error .minor

/-- Major 0x20, format V. -/
def ofMajor20 (op : Nat) (g : Guard) (lc : BitVec 3) (vd : BitVec 5) (va : BitVec 5) (vb : BitVec 5) : Except DecodeError Instr :=
  match op with
  | 0 => do return .vadd g lc (← VReg.ofField vd) (← VReg.ofField va) (← VReg.ofField vb)
  | 1 => do return .vsub g lc (← VReg.ofField vd) (← VReg.ofField va) (← VReg.ofField vb)
  | 2 => do return .vmul g lc (← VReg.ofField vd) (← VReg.ofField va) (← VReg.ofField vb)
  | 3 => do return .vmulh g lc (← VReg.ofField vd) (← VReg.ofField va) (← VReg.ofField vb)
  | 4 => do return .vand g lc (← VReg.ofField vd) (← VReg.ofField va) (← VReg.ofField vb)
  | 5 => do return .vor g lc (← VReg.ofField vd) (← VReg.ofField va) (← VReg.ofField vb)
  | 6 => do return .vxor g lc (← VReg.ofField vd) (← VReg.ofField va) (← VReg.ofField vb)
  | 7 => do return .vshl g lc (← VReg.ofField vd) (← VReg.ofField va) (← VReg.ofField vb)
  | _ => .error .minor

/-- Major 0x21, format V. -/
def ofMajor21 (op : Nat) (g : Guard) (lc : BitVec 3) (vd : BitVec 5) (va : BitVec 5) (vb : BitVec 5) : Except DecodeError Instr :=
  match op with
  | 0 => do return .vshr g lc (← VReg.ofField vd) (← VReg.ofField va) (← VReg.ofField vb)
  | 1 => do return .vsar g lc (← VReg.ofField vd) (← VReg.ofField va) (← VReg.ofField vb)
  | 2 => do return .vmin g lc (← VReg.ofField vd) (← VReg.ofField va) (← VReg.ofField vb)
  | 3 => do return .vmax g lc (← VReg.ofField vd) (← VReg.ofField va) (← VReg.ofField vb)
  | 4 => do return .vminu g lc (← VReg.ofField vd) (← VReg.ofField va) (← VReg.ofField vb)
  | 5 => do return .vmaxu g lc (← VReg.ofField vd) (← VReg.ofField va) (← VReg.ofField vb)
  | 6 => do return .vadds g lc (← VReg.ofField vd) (← VReg.ofField va) (← VReg.ofField vb)
  | 7 => do return .vsubs g lc (← VReg.ofField vd) (← VReg.ofField va) (← VReg.ofField vb)
  | _ => .error .minor

/-- Major 0x22, format V. -/
def ofMajor22 (op : Nat) (g : Guard) (lc : BitVec 3) (vd : BitVec 5) (va : BitVec 5) (vb : BitVec 5) : Except DecodeError Instr :=
  match op with
  | 0 => do return .vfadd g lc (← VReg.ofField vd) (← VReg.ofField va) (← VReg.ofField vb)
  | 1 => do return .vfsub g lc (← VReg.ofField vd) (← VReg.ofField va) (← VReg.ofField vb)
  | 2 => do return .vfmul g lc (← VReg.ofField vd) (← VReg.ofField va) (← VReg.ofField vb)
  | 3 => do return .vfma g lc (← VReg.ofField vd) (← VReg.ofField va) (← VReg.ofField vb)
  | 4 => do return .vfms g lc (← VReg.ofField vd) (← VReg.ofField va) (← VReg.ofField vb)
  | 5 => do return .vfnma g lc (← VReg.ofField vd) (← VReg.ofField va) (← VReg.ofField vb)
  | 6 => do return .vfmin g lc (← VReg.ofField vd) (← VReg.ofField va) (← VReg.ofField vb)
  | 7 => do return .vfmax g lc (← VReg.ofField vd) (← VReg.ofField va) (← VReg.ofField vb)
  | _ => .error .minor

/-- Major 0x23, format V. -/
def ofMajor23 (op : Nat) (g : Guard) (lc : BitVec 3) (vd : BitVec 5) (va : BitVec 5) (vb : BitVec 5) : Except DecodeError Instr :=
  match op with
  | 0 => do unused vb; return .vrcpe g lc (← VReg.ofField vd) (← VReg.ofField va)
  | 1 => do unused vb; return .vrsqe g lc (← VReg.ofField vd) (← VReg.ofField va)
  | 2 => do unused vb; return .vexp2e g lc (← VReg.ofField vd) (← VReg.ofField va)
  | 3 => do unused vb; return .vlog2e g lc (← VReg.ofField vd) (← VReg.ofField va)
  | 4 => do unused vb; return .vtanhe g lc (← VReg.ofField vd) (← VReg.ofField va)
  | 5 => do unused vb; return .vfabs g lc (← VReg.ofField vd) (← VReg.ofField va)
  | 6 => do unused vb; return .vfneg g lc (← VReg.ofField vd) (← VReg.ofField va)
  | 7 => do unused vb; return .vfclass g lc (← VReg.ofField vd) (← VReg.ofField va)
  | _ => .error .minor

/-- Major 0x24, format V. -/
def ofMajor24 (op : Nat) (g : Guard) (lc : BitVec 3) (vd : BitVec 5) (va : BitVec 5) (vb : BitVec 5) : Except DecodeError Instr :=
  match op with
  | 0 => do return .vcmpeq g lc (← mregOfField vd) (← VReg.ofField va) (← VReg.ofField vb)
  | 1 => do return .vcmpne g lc (← mregOfField vd) (← VReg.ofField va) (← VReg.ofField vb)
  | 2 => do return .vcmplt g lc (← mregOfField vd) (← VReg.ofField va) (← VReg.ofField vb)
  | 3 => do return .vcmpltu g lc (← mregOfField vd) (← VReg.ofField va) (← VReg.ofField vb)
  | 4 => do return .vfcmpeq g lc (← mregOfField vd) (← VReg.ofField va) (← VReg.ofField vb)
  | 5 => do return .vfcmplt g lc (← mregOfField vd) (← VReg.ofField va) (← VReg.ofField vb)
  | 6 => do return .vfcmple g lc (← mregOfField vd) (← VReg.ofField va) (← VReg.ofField vb)
  | 7 => do return .vfcmpun g lc (← mregOfField vd) (← VReg.ofField va) (← VReg.ofField vb)
  | _ => .error .minor

/-- Major 0x25, format V. -/
def ofMajor25 (op : Nat) (g : Guard) (lc : BitVec 3) (vd : BitVec 5) (va : BitVec 5) (vb : BitVec 5) : Except DecodeError Instr :=
  match op with
  | 0 => do unused vb; return .vmv g lc (← VReg.ofField vd) (← VReg.ofField va)
  | 1 => do unused vb; return .vcvtw g lc (← VReg.ofField vd) (← VReg.ofField va)
  | 2 => do unused vb; return .vcvtn g lc (← VReg.ofField vd) (← VReg.ofField va)
  | 3 => do unused vb; return .vcvtfi g lc (← VReg.ofField vd) (← VReg.ofField va)
  | 4 => do unused vb; return .vcvtif g lc (← VReg.ofField vd) (← VReg.ofField va)
  | _ => .error .minor

/-- Major 0x26, format V. -/
def ofMajor26 (op : Nat) (g : Guard) (lc : BitVec 3) (vd : BitVec 5) (va : BitVec 5) (vb : BitVec 5) : Except DecodeError Instr :=
  match op with
  | 0 => do return .vaddMasked g lc (← VReg.ofField vd) (← VReg.ofField va) (← VReg.ofField vb)
  | 1 => do return .vsubMasked g lc (← VReg.ofField vd) (← VReg.ofField va) (← VReg.ofField vb)
  | 2 => do return .vmulMasked g lc (← VReg.ofField vd) (← VReg.ofField va) (← VReg.ofField vb)
  | 3 => do return .vmulhMasked g lc (← VReg.ofField vd) (← VReg.ofField va) (← VReg.ofField vb)
  | 4 => do return .vandMasked g lc (← VReg.ofField vd) (← VReg.ofField va) (← VReg.ofField vb)
  | 5 => do return .vorMasked g lc (← VReg.ofField vd) (← VReg.ofField va) (← VReg.ofField vb)
  | 6 => do return .vxorMasked g lc (← VReg.ofField vd) (← VReg.ofField va) (← VReg.ofField vb)
  | 7 => do return .vshlMasked g lc (← VReg.ofField vd) (← VReg.ofField va) (← VReg.ofField vb)
  | _ => .error .minor

/-- Major 0x27, format V. -/
def ofMajor27 (op : Nat) (g : Guard) (lc : BitVec 3) (vd : BitVec 5) (va : BitVec 5) (vb : BitVec 5) : Except DecodeError Instr :=
  match op with
  | 0 => do return .vshrMasked g lc (← VReg.ofField vd) (← VReg.ofField va) (← VReg.ofField vb)
  | 1 => do return .vsarMasked g lc (← VReg.ofField vd) (← VReg.ofField va) (← VReg.ofField vb)
  | 2 => do return .vminMasked g lc (← VReg.ofField vd) (← VReg.ofField va) (← VReg.ofField vb)
  | 3 => do return .vmaxMasked g lc (← VReg.ofField vd) (← VReg.ofField va) (← VReg.ofField vb)
  | 4 => do return .vminuMasked g lc (← VReg.ofField vd) (← VReg.ofField va) (← VReg.ofField vb)
  | 5 => do return .vmaxuMasked g lc (← VReg.ofField vd) (← VReg.ofField va) (← VReg.ofField vb)
  | 6 => do return .vaddsMasked g lc (← VReg.ofField vd) (← VReg.ofField va) (← VReg.ofField vb)
  | 7 => do return .vsubsMasked g lc (← VReg.ofField vd) (← VReg.ofField va) (← VReg.ofField vb)
  | _ => .error .minor

/-- Major 0x28, format V. -/
def ofMajor28 (op : Nat) (g : Guard) (lc : BitVec 3) (vd : BitVec 5) (va : BitVec 5) (vb : BitVec 5) : Except DecodeError Instr :=
  match op with
  | 0 => do return .vfaddMasked g lc (← VReg.ofField vd) (← VReg.ofField va) (← VReg.ofField vb)
  | 1 => do return .vfsubMasked g lc (← VReg.ofField vd) (← VReg.ofField va) (← VReg.ofField vb)
  | 2 => do return .vfmulMasked g lc (← VReg.ofField vd) (← VReg.ofField va) (← VReg.ofField vb)
  | 3 => do return .vfmaMasked g lc (← VReg.ofField vd) (← VReg.ofField va) (← VReg.ofField vb)
  | 4 => do return .vfmsMasked g lc (← VReg.ofField vd) (← VReg.ofField va) (← VReg.ofField vb)
  | 5 => do return .vfnmaMasked g lc (← VReg.ofField vd) (← VReg.ofField va) (← VReg.ofField vb)
  | 6 => do return .vfminMasked g lc (← VReg.ofField vd) (← VReg.ofField va) (← VReg.ofField vb)
  | 7 => do return .vfmaxMasked g lc (← VReg.ofField vd) (← VReg.ofField va) (← VReg.ofField vb)
  | _ => .error .minor

/-- Major 0x29, format V. -/
def ofMajor29 (op : Nat) (g : Guard) (lc : BitVec 3) (vd : BitVec 5) (va : BitVec 5) (vb : BitVec 5) : Except DecodeError Instr :=
  match op with
  | 0 => do unused vb; return .vrcpeMasked g lc (← VReg.ofField vd) (← VReg.ofField va)
  | 1 => do unused vb; return .vrsqeMasked g lc (← VReg.ofField vd) (← VReg.ofField va)
  | 2 => do unused vb; return .vexp2eMasked g lc (← VReg.ofField vd) (← VReg.ofField va)
  | 3 => do unused vb; return .vlog2eMasked g lc (← VReg.ofField vd) (← VReg.ofField va)
  | 4 => do unused vb; return .vtanheMasked g lc (← VReg.ofField vd) (← VReg.ofField va)
  | 5 => do unused vb; return .vfabsMasked g lc (← VReg.ofField vd) (← VReg.ofField va)
  | 6 => do unused vb; return .vfnegMasked g lc (← VReg.ofField vd) (← VReg.ofField va)
  | 7 => do unused vb; return .vfclassMasked g lc (← VReg.ofField vd) (← VReg.ofField va)
  | _ => .error .minor

/-- Major 0x2A, format V. -/
def ofMajor2A (op : Nat) (g : Guard) (lc : BitVec 3) (vd : BitVec 5) (va : BitVec 5) (vb : BitVec 5) : Except DecodeError Instr :=
  match op with
  | 0 => do return .vcmpeqMasked g lc (← mregOfField vd) (← VReg.ofField va) (← VReg.ofField vb)
  | 1 => do return .vcmpneMasked g lc (← mregOfField vd) (← VReg.ofField va) (← VReg.ofField vb)
  | 2 => do return .vcmpltMasked g lc (← mregOfField vd) (← VReg.ofField va) (← VReg.ofField vb)
  | 3 => do return .vcmpltuMasked g lc (← mregOfField vd) (← VReg.ofField va) (← VReg.ofField vb)
  | 4 => do return .vfcmpeqMasked g lc (← mregOfField vd) (← VReg.ofField va) (← VReg.ofField vb)
  | 5 => do return .vfcmpltMasked g lc (← mregOfField vd) (← VReg.ofField va) (← VReg.ofField vb)
  | 6 => do return .vfcmpleMasked g lc (← mregOfField vd) (← VReg.ofField va) (← VReg.ofField vb)
  | 7 => do return .vfcmpunMasked g lc (← mregOfField vd) (← VReg.ofField va) (← VReg.ofField vb)
  | _ => .error .minor

/-- Major 0x2B, format V. -/
def ofMajor2B (op : Nat) (g : Guard) (lc : BitVec 3) (vd : BitVec 5) (va : BitVec 5) (vb : BitVec 5) : Except DecodeError Instr :=
  match op with
  | 0 => do unused vb; return .vmvMasked g lc (← VReg.ofField vd) (← VReg.ofField va)
  | 1 => do unused vb; return .vcvtwMasked g lc (← VReg.ofField vd) (← VReg.ofField va)
  | 2 => do unused vb; return .vcvtnMasked g lc (← VReg.ofField vd) (← VReg.ofField va)
  | 3 => do unused vb; return .vcvtfiMasked g lc (← VReg.ofField vd) (← VReg.ofField va)
  | 4 => do unused vb; return .vcvtifMasked g lc (← VReg.ofField vd) (← VReg.ofField va)
  | _ => .error .minor

/-- Major 0x2E, format V. -/
def ofMajor2E (op : Nat) (g : Guard) (lc : BitVec 3) (vd : BitVec 5) (va : BitVec 5) (vb : BitVec 5) : Except DecodeError Instr :=
  match op with
  | 0 => do return .mand g lc (← mregOfField vd) (← mregOfField va) (← mregOfField vb)
  | 1 => do return .mor g lc (← mregOfField vd) (← mregOfField va) (← mregOfField vb)
  | 2 => do return .mxor g lc (← mregOfField vd) (← mregOfField va) (← mregOfField vb)
  | 3 => do return .mandn g lc (← mregOfField vd) (← mregOfField va) (← mregOfField vb)
  | 4 => do unused vb; return .mnot g lc (← mregOfField vd) (← mregOfField va)
  | 5 => do unused va; unused vb; return .mset g lc (← mregOfField vd)
  | 6 => do unused va; unused vb; return .mclr g lc (← mregOfField vd)
  | 7 => do unused vb; return .mmov g lc (← mregOfField vd) (← mregOfField va)
  | _ => .error .minor

/-- Major 0x2F, format V. -/
def ofMajor2F (op : Nat) (g : Guard) (lc : BitVec 3) (vd : BitVec 5) (va : BitVec 5) (vb : BitVec 5) : Except DecodeError Instr :=
  match op with
  | 0 => do unused vb; return .twr g lc (← tileOfField vd) (← VReg.ofField va)
  | 1 => do unused vb; return .trd g lc (← VReg.ofField vd) (← tileOfField va)
  | 2 => do unused vb; return .psadd g lc (← latchOfField vd) (← VReg.ofField va)
  | 3 => do unused vb; return .psrd g lc (← VReg.ofField vd) (← latchOfField va)
  | 4 => do unused va; unused vb; return .psclr g lc (← latchOfField vd)
  | 5 => do unused vb; return .vredadd g lc (← VReg.ofField vd) (← VReg.ofField va)
  | 6 => do unused vb; return .vredmax g lc (← VReg.ofField vd) (← VReg.ofField va)
  | 7 => do unused vb; return .vfredadd g lc (← VReg.ofField vd) (← VReg.ofField va)
  | _ => .error .minor

/-- Major 0x39, format V. -/
def ofMajor39 (op : Nat) (g : Guard) (lc : BitVec 3) (vd : BitVec 5) (va : BitVec 5) (vb : BitVec 5) : Except DecodeError Instr :=
  match op with
  | 0 => do return .krsum g lc (← VReg.ofField vd) (← VReg.ofField va) (← mregOfField vb)
  | 1 => do return .krmean g lc (← VReg.ofField vd) (← VReg.ofField va) (← mregOfField vb)
  | 2 => do unused vb; return .kvcnt g lc (← VReg.ofField vd) (← mregOfField va)
  | 3 => do unused vb; return .kmrd g lc (← mregOfField vd) (← VReg.ofField va)
  | _ => .error .minor

/-- Major 0x2C, format VX. -/
def ofMajor2C (op : Nat) (g : Guard) (lc : BitVec 3) (vd : BitVec 5) (va : BitVec 5) (s : BitVec 6) (lit : W32) : Except DecodeError Instr :=
  match op with
  | 0 => do return .vrotr g lc (← VReg.ofField vd) (← VReg.ofField va) (Scalar.ofField s lit)
  | 1 => do return .vrotc g lc (← VReg.ofField vd) (← VReg.ofField va) (Scalar.ofField s lit)
  | 2 => do unused va; return .vbcst g lc (← VReg.ofField vd) (Scalar.ofField s lit)
  | 3 => do return .vextr g lc (← VReg.ofField vd) (← VReg.ofField va) (Scalar.ofField s lit)
  | _ => .error .minor

/-- Major 0x2D, format VX. -/
def ofMajor2D (op : Nat) (g : Guard) (lc : BitVec 3) (vd : BitVec 5) (va : BitVec 5) (s : BitVec 6) (lit : W32) : Except DecodeError Instr :=
  match op with
  | 0 => do unused lc; unused vd; unused va; return .vsetvl g (Scalar.ofField s lit)
  | 1 => do return .vcompress g lc (← VReg.ofField vd) (← VReg.ofField va) (← SDst.ofField s)
  | 2 => do return .vexpand g lc (← VReg.ofField vd) (← VReg.ofField va) (Scalar.ofField s lit)
  | 3 => do return .vredi g lc (← VReg.ofField vd) (← VReg.ofField va) (← SDst.ofField s)
  | _ => .error .minor

/-- Major 0x18, format E. -/
noncomputable def ofMajor18 (op : Nat) (g : Guard) (a : BitVec 6) (b : BitVec 6) (lit : W32) : Except DecodeError Instr :=
  match op with
  | 0 => do return .cpt g (Scalar.ofField a lit) (Scalar.ofField b lit)
  | 1 => do return .cpc g (Scalar.ofField a lit) (Scalar.ofField b lit)
  | 2 => do return .cpx g (Scalar.ofField a lit) (Scalar.ofField b lit)
  | 3 => do return .cptr g (Scalar.ofField a lit) (Scalar.ofField b lit)
  | 4 => do return .cpm g (Scalar.ofField a lit) (Scalar.ofField b lit)
  | 5 => do return .cpz g (Scalar.ofField a lit) (Scalar.ofField b lit)
  | 6 => do return .cpd g (Scalar.ofField a lit) (Scalar.ofField b lit)
  | _ => .error .minor

/-- Major 0x30, format E. -/
noncomputable def ofMajor30 (op : Nat) (g : Guard) (a : BitVec 6) (b : BitVec 6) (lit : W32) : Except DecodeError Instr :=
  match op with
  | 0 => do return .bkrun g (Scalar.ofField a lit) (Scalar.ofField b lit)
  | 1 => do unused a; unused b; return .bkrst g
  | 2 => do unused a; unused b; return .bkfin g
  | 3 => do return .bkdrain g (Scalar.ofField a lit) (Scalar.ofField b lit)
  | 4 => do unused b; return .bkshape g (Scalar.ofField a lit)
  | _ => .error .minor

/-- Major 0x31, format E. -/
noncomputable def ofMajor31 (op : Nat) (g : Guard) (a : BitVec 6) (b : BitVec 6) (lit : W32) : Except DecodeError Instr :=
  match op with
  | 0 => do return .dmma g (Scalar.ofField a lit) (Scalar.ofField b lit)
  | 1 => do return .dmmac g (Scalar.ofField a lit) (Scalar.ofField b lit)
  | 2 => do return .ddrain g (Scalar.ofField a lit) (Scalar.ofField b lit)
  | 3 => do unused b; return .dbyp g (Scalar.ofField a lit)
  | 4 => do unused a; unused b; return .dclr g
  | _ => .error .minor

/-- Major 0x32, format E. -/
noncomputable def ofMajor32 (op : Nat) (g : Guard) (a : BitVec 6) (b : BitVec 6) (lit : W32) : Except DecodeError Instr :=
  match op with
  | 0 => do return .sortw g (Scalar.ofField a lit) (Scalar.ofField b lit)
  | _ => .error .minor

/-- Major 0x33, format E. -/
noncomputable def ofMajor33 (op : Nat) (g : Guard) (a : BitVec 6) (b : BitVec 6) (lit : W32) : Except DecodeError Instr :=
  match op with
  | 0 => do unused b; return .swapw g (Scalar.ofField a lit)
  | 1 => do return .wpin g (Scalar.ofField a lit) (Scalar.ofField b lit)
  | _ => .error .minor

/-- Major 0x34, format E. -/
noncomputable def ofMajor34 (op : Nat) (g : Guard) (a : BitVec 6) (b : BitVec 6) (lit : W32) : Except DecodeError Instr :=
  match op with
  | 0 => do return .moload g (Scalar.ofField a lit) (Scalar.ofField b lit)
  | 1 => do return .mobase g (Scalar.ofField a lit) (Scalar.ofField b lit)
  | 2 => do unused b; return .mostart g (Scalar.ofField a lit)
  | 3 => do unused b; return .mostop g (Scalar.ofField a lit)
  | _ => .error .minor

/-- Major 0x35, format E. -/
noncomputable def ofMajor35 (op : Nat) (g : Guard) (a : BitVec 6) (b : BitVec 6) (lit : W32) : Except DecodeError Instr :=
  match op with
  | 0 => do return .txfer g (Scalar.ofField a lit) (Scalar.ofField b lit)
  | _ => .error .minor

/-- Major 0x36, format E. -/
noncomputable def ofMajor36 (op : Nat) (g : Guard) (a : BitVec 6) (b : BitVec 6) (lit : W32) : Except DecodeError Instr :=
  match op with
  | 0 => do return .gather g (Scalar.ofField a lit) (Scalar.ofField b lit)
  | 1 => do unused b; return .gwait g (Scalar.ofField a lit)
  | _ => .error .minor

/-- Major 0x38, format E. -/
noncomputable def ofMajor38 (op : Nat) (g : Guard) (a : BitVec 6) (b : BitVec 6) (lit : W32) : Except DecodeError Instr :=
  match op with
  | 0 => do return .msend g (Scalar.ofField a lit) (Scalar.ofField b lit)
  | 1 => do return .ksend g (Scalar.ofField a lit) (Scalar.ofField b lit)
  | 2 => do return .amtset g (Scalar.ofField a lit) (Scalar.ofField b lit)
  | 3 => do unused b; return .amtclr g (Scalar.ofField a lit)
  | _ => .error .minor

/-- Major 0x3F, format RP. -/
noncomputable def ofMajor3F (g : Guard) (cnt : BitVec 6) (step : BitVec 3) : Except DecodeError Instr :=
  do unguarded g; return .rep cnt step

/-- The instruction of a word cut into its fields, with the literal word that follows it. -/
noncomputable def Instr.ofForm (g : Guard) (m : Nat) (f : Form) (lit : W32) : Except DecodeError Instr :=
  match f with
  | .ss op d a b =>
    match m with
    | 0 => ofMajor00 op.toNat g d a b lit
    | 1 => ofMajor01 op.toNat g d a b lit
    | 3 => ofMajor03 op.toNat g d a b lit
    | 4 => ofMajor04 op.toNat g d a b lit
    | 8 => ofMajor08 op.toNat g d a b lit
    | 10 => ofMajor0A op.toNat g d a b lit
    | 16 => ofMajor10 op.toNat g d a b lit
    | 21 => ofMajor15 op.toNat g d a b lit
    | 25 => ofMajor19 op.toNat g d a b lit
    | 28 => ofMajor1C op.toNat g d a b lit
    | 29 => ofMajor1D op.toNat g d a b lit
    | 60 => ofMajor3C op.toNat g d a b lit
    | _ => .error .major
  | .si op d a imm =>
    match m with
    | 2 => ofMajor02 op.toNat g d a imm lit
    | _ => .error .major
  | .sc op pd a b z => do
    unused z
    match m with
    | 5 => ofMajor05 op.toNat g pd a b lit
    | _ => .error .major
  | .pl op pd pa pb z => do
    unused z
    match m with
    | 6 => ofMajor06 op.toNat g pd pa pb
    | 11 => ofMajor0B op.toNat g pd pa pb
    | _ => .error .major
  | .j op off =>
    match m with
    | 7 => ofMajor07 op.toNat g off
    | _ => .error .major
  | .l a off =>
    match m with
    | 9 => ofMajor09 g a off
    | 13 => ofMajor0D g a off
    | _ => .error .major
  | .zf op z => do
    unused z
    match m with
    | 12 => ofMajor0C op.toNat g
    | _ => .error .major
  | .atm op ord scope wide z d a => do
    unused z
    match m with
    | 19 => ofMajor13 op.toNat g ord scope wide d a lit
    | _ => .error .major
  | .fn op ord scope z a => do
    unused z
    match m with
    | 20 => ofMajor14 op.toNat g ord scope a lit
    | _ => .error .major
  | .vm op vd a b z => do
    unused z
    match m with
    | 17 => ofMajor11 op.toNat g vd a b lit
    | 18 => ofMajor12 op.toNat g vd a b lit
    | _ => .error .major
  | .v op lc vd va vb =>
    match m with
    | 32 => ofMajor20 op.toNat g lc vd va vb
    | 33 => ofMajor21 op.toNat g lc vd va vb
    | 34 => ofMajor22 op.toNat g lc vd va vb
    | 35 => ofMajor23 op.toNat g lc vd va vb
    | 36 => ofMajor24 op.toNat g lc vd va vb
    | 37 => ofMajor25 op.toNat g lc vd va vb
    | 38 => ofMajor26 op.toNat g lc vd va vb
    | 39 => ofMajor27 op.toNat g lc vd va vb
    | 40 => ofMajor28 op.toNat g lc vd va vb
    | 41 => ofMajor29 op.toNat g lc vd va vb
    | 42 => ofMajor2A op.toNat g lc vd va vb
    | 43 => ofMajor2B op.toNat g lc vd va vb
    | 46 => ofMajor2E op.toNat g lc vd va vb
    | 47 => ofMajor2F op.toNat g lc vd va vb
    | 57 => ofMajor39 op.toNat g lc vd va vb
    | _ => .error .major
  | .vx op lc vd va s =>
    match m with
    | 44 => ofMajor2C op.toNat g lc vd va s lit
    | 45 => ofMajor2D op.toNat g lc vd va s lit
    | _ => .error .major
  | .e op a b z => do
    unused z
    match m with
    | 24 => ofMajor18 op.toNat g a b lit
    | 48 => ofMajor30 op.toNat g a b lit
    | 49 => ofMajor31 op.toNat g a b lit
    | 50 => ofMajor32 op.toNat g a b lit
    | 51 => ofMajor33 op.toNat g a b lit
    | 52 => ofMajor34 op.toNat g a b lit
    | 53 => ofMajor35 op.toNat g a b lit
    | 54 => ofMajor36 op.toNat g a b lit
    | 56 => ofMajor38 op.toNat g a b lit
    | _ => .error .major
  | .rp cnt step z => do
    unused z
    match m with
    | 63 => ofMajor3F g cnt step
    | _ => .error .major

/-- The major opcode of a word; `none` for an event. -/
def Instr.major : Instr → Option (BitVec 6)
  | .add _ _ _ _ => some 0#6
  | .sub _ _ _ _ => some 0#6
  | .and _ _ _ _ => some 0#6
  | .or _ _ _ _ => some 0#6
  | .xor _ _ _ _ => some 0#6
  | .shl _ _ _ _ => some 0#6
  | .shr _ _ _ _ => some 0#6
  | .sar _ _ _ _ => some 0#6
  | .mul _ _ _ _ => some 1#6
  | .mulhs _ _ _ _ => some 1#6
  | .mulhu _ _ _ _ => some 1#6
  | .min _ _ _ _ => some 1#6
  | .max _ _ _ _ => some 1#6
  | .minu _ _ _ _ => some 1#6
  | .maxu _ _ _ _ => some 1#6
  | .rol _ _ _ _ => some 1#6
  | .addi _ _ _ _ => some 2#6
  | .andi _ _ _ _ => some 2#6
  | .ori _ _ _ _ => some 2#6
  | .xori _ _ _ _ => some 2#6
  | .shli _ _ _ _ => some 2#6
  | .shri _ _ _ _ => some 2#6
  | .sari _ _ _ _ => some 2#6
  | .clz _ _ _ => some 3#6
  | .ctz _ _ _ => some 3#6
  | .popc _ _ _ => some 3#6
  | .bswap _ _ _ => some 3#6
  | .sextb _ _ _ => some 3#6
  | .sexth _ _ _ => some 3#6
  | .sextw _ _ _ => some 3#6
  | .zextw _ _ _ => some 3#6
  | .divs _ _ _ _ => some 4#6
  | .divu _ _ _ _ => some 4#6
  | .rems _ _ _ _ => some 4#6
  | .remu _ _ _ _ => some 4#6
  | .cmpEq _ _ _ _ => some 5#6
  | .cmpNe _ _ _ _ => some 5#6
  | .cmpLt _ _ _ _ => some 5#6
  | .cmpGe _ _ _ _ => some 5#6
  | .cmpLtu _ _ _ _ => some 5#6
  | .cmpGeu _ _ _ _ => some 5#6
  | .cmpLe _ _ _ _ => some 5#6
  | .cmpGt _ _ _ _ => some 5#6
  | .cmpLeu _ _ _ _ => some 5#6
  | .cmpGtu _ _ _ _ => some 5#6
  | .pand _ _ _ _ => some 6#6
  | .por _ _ _ _ => some 6#6
  | .pxor _ _ _ _ => some 6#6
  | .pandn _ _ _ _ => some 6#6
  | .porn _ _ _ _ => some 6#6
  | .pnot _ _ _ => some 6#6
  | .pset _ _ => some 6#6
  | .pclr _ _ => some 6#6
  | .branch _ _ => some 7#6
  | .call _ _ => some 7#6
  | .br _ _ => some 8#6
  | .callr _ _ => some 8#6
  | .ret _ => some 8#6
  | .loop _ _ _ => some 9#6
  | .cqpush _ _ => some 10#6
  | .cqpop _ _ => some 10#6
  | .pqpush _ _ => some 11#6
  | .pqpop _ _ => some 11#6
  | .nop _ => some 12#6
  | .tend _ => some 12#6
  | .brk _ => some 12#6
  | .adr _ _ _ => some 13#6
  | .ldb _ _ _ _ => some 16#6
  | .ldh _ _ _ _ => some 16#6
  | .ldw _ _ _ _ => some 16#6
  | .ldd _ _ _ _ => some 16#6
  | .stb _ _ _ _ => some 16#6
  | .sth _ _ _ _ => some 16#6
  | .stw _ _ _ _ => some 16#6
  | .std _ _ _ _ => some 16#6
  | .vld _ _ _ _ => some 17#6
  | .vlds _ _ _ _ => some 17#6
  | .vldx _ _ _ _ => some 17#6
  | .vldff _ _ _ _ => some 17#6
  | .vst _ _ _ _ => some 18#6
  | .vsts _ _ _ _ => some 18#6
  | .vstx _ _ _ _ => some 18#6
  | .aadd _ _ _ _ _ _ => some 19#6
  | .aand _ _ _ _ _ _ => some 19#6
  | .aor _ _ _ _ _ _ => some 19#6
  | .axor _ _ _ _ _ _ => some 19#6
  | .amin _ _ _ _ _ _ => some 19#6
  | .amax _ _ _ _ _ _ => some 19#6
  | .aswp _ _ _ _ _ _ => some 19#6
  | .acas _ _ _ _ _ _ => some 19#6
  | .fence _ _ _ => some 20#6
  | .dovetail _ => some 20#6
  | .publish _ _ _ _ => some 20#6
  | .cmk _ _ _ => some 21#6
  | .cld _ _ _ _ => some 21#6
  | .cfill _ _ _ => some 21#6
  | .cfail _ _ _ => some 21#6
  | .barinit _ _ _ => some 25#6
  | .barx _ _ _ => some 25#6
  | .barw _ _ => some 25#6
  | .barrd _ _ _ => some 25#6
  | .jpush _ _ _ _ => some 28#6
  | .qpush _ _ _ => some 28#6
  | .qpop _ _ _ _ => some 28#6
  | .qdepth _ _ _ => some 28#6
  | .darrive _ _ _ => some 28#6
  | .evqpop _ _ _ => some 28#6
  | .evqpush _ _ _ => some 28#6
  | .rnginit _ _ _ => some 29#6
  | .rngtkt _ _ _ => some 29#6
  | .rngfill _ _ _ _ => some 29#6
  | .rngget _ _ _ _ => some 29#6
  | .vadd _ _ _ _ _ => some 32#6
  | .vsub _ _ _ _ _ => some 32#6
  | .vmul _ _ _ _ _ => some 32#6
  | .vmulh _ _ _ _ _ => some 32#6
  | .vand _ _ _ _ _ => some 32#6
  | .vor _ _ _ _ _ => some 32#6
  | .vxor _ _ _ _ _ => some 32#6
  | .vshl _ _ _ _ _ => some 32#6
  | .vshr _ _ _ _ _ => some 33#6
  | .vsar _ _ _ _ _ => some 33#6
  | .vmin _ _ _ _ _ => some 33#6
  | .vmax _ _ _ _ _ => some 33#6
  | .vminu _ _ _ _ _ => some 33#6
  | .vmaxu _ _ _ _ _ => some 33#6
  | .vadds _ _ _ _ _ => some 33#6
  | .vsubs _ _ _ _ _ => some 33#6
  | .vfadd _ _ _ _ _ => some 34#6
  | .vfsub _ _ _ _ _ => some 34#6
  | .vfmul _ _ _ _ _ => some 34#6
  | .vfma _ _ _ _ _ => some 34#6
  | .vfms _ _ _ _ _ => some 34#6
  | .vfnma _ _ _ _ _ => some 34#6
  | .vfmin _ _ _ _ _ => some 34#6
  | .vfmax _ _ _ _ _ => some 34#6
  | .vrcpe _ _ _ _ => some 35#6
  | .vrsqe _ _ _ _ => some 35#6
  | .vexp2e _ _ _ _ => some 35#6
  | .vlog2e _ _ _ _ => some 35#6
  | .vtanhe _ _ _ _ => some 35#6
  | .vfabs _ _ _ _ => some 35#6
  | .vfneg _ _ _ _ => some 35#6
  | .vfclass _ _ _ _ => some 35#6
  | .vcmpeq _ _ _ _ _ => some 36#6
  | .vcmpne _ _ _ _ _ => some 36#6
  | .vcmplt _ _ _ _ _ => some 36#6
  | .vcmpltu _ _ _ _ _ => some 36#6
  | .vfcmpeq _ _ _ _ _ => some 36#6
  | .vfcmplt _ _ _ _ _ => some 36#6
  | .vfcmple _ _ _ _ _ => some 36#6
  | .vfcmpun _ _ _ _ _ => some 36#6
  | .vmv _ _ _ _ => some 37#6
  | .vcvtw _ _ _ _ => some 37#6
  | .vcvtn _ _ _ _ => some 37#6
  | .vcvtfi _ _ _ _ => some 37#6
  | .vcvtif _ _ _ _ => some 37#6
  | .vaddMasked _ _ _ _ _ => some 38#6
  | .vsubMasked _ _ _ _ _ => some 38#6
  | .vmulMasked _ _ _ _ _ => some 38#6
  | .vmulhMasked _ _ _ _ _ => some 38#6
  | .vandMasked _ _ _ _ _ => some 38#6
  | .vorMasked _ _ _ _ _ => some 38#6
  | .vxorMasked _ _ _ _ _ => some 38#6
  | .vshlMasked _ _ _ _ _ => some 38#6
  | .vshrMasked _ _ _ _ _ => some 39#6
  | .vsarMasked _ _ _ _ _ => some 39#6
  | .vminMasked _ _ _ _ _ => some 39#6
  | .vmaxMasked _ _ _ _ _ => some 39#6
  | .vminuMasked _ _ _ _ _ => some 39#6
  | .vmaxuMasked _ _ _ _ _ => some 39#6
  | .vaddsMasked _ _ _ _ _ => some 39#6
  | .vsubsMasked _ _ _ _ _ => some 39#6
  | .vfaddMasked _ _ _ _ _ => some 40#6
  | .vfsubMasked _ _ _ _ _ => some 40#6
  | .vfmulMasked _ _ _ _ _ => some 40#6
  | .vfmaMasked _ _ _ _ _ => some 40#6
  | .vfmsMasked _ _ _ _ _ => some 40#6
  | .vfnmaMasked _ _ _ _ _ => some 40#6
  | .vfminMasked _ _ _ _ _ => some 40#6
  | .vfmaxMasked _ _ _ _ _ => some 40#6
  | .vrcpeMasked _ _ _ _ => some 41#6
  | .vrsqeMasked _ _ _ _ => some 41#6
  | .vexp2eMasked _ _ _ _ => some 41#6
  | .vlog2eMasked _ _ _ _ => some 41#6
  | .vtanheMasked _ _ _ _ => some 41#6
  | .vfabsMasked _ _ _ _ => some 41#6
  | .vfnegMasked _ _ _ _ => some 41#6
  | .vfclassMasked _ _ _ _ => some 41#6
  | .vcmpeqMasked _ _ _ _ _ => some 42#6
  | .vcmpneMasked _ _ _ _ _ => some 42#6
  | .vcmpltMasked _ _ _ _ _ => some 42#6
  | .vcmpltuMasked _ _ _ _ _ => some 42#6
  | .vfcmpeqMasked _ _ _ _ _ => some 42#6
  | .vfcmpltMasked _ _ _ _ _ => some 42#6
  | .vfcmpleMasked _ _ _ _ _ => some 42#6
  | .vfcmpunMasked _ _ _ _ _ => some 42#6
  | .vmvMasked _ _ _ _ => some 43#6
  | .vcvtwMasked _ _ _ _ => some 43#6
  | .vcvtnMasked _ _ _ _ => some 43#6
  | .vcvtfiMasked _ _ _ _ => some 43#6
  | .vcvtifMasked _ _ _ _ => some 43#6
  | .vrotr _ _ _ _ _ => some 44#6
  | .vrotc _ _ _ _ _ => some 44#6
  | .vbcst _ _ _ _ => some 44#6
  | .vextr _ _ _ _ _ => some 44#6
  | .vsetvl _ _ => some 45#6
  | .vcompress _ _ _ _ _ => some 45#6
  | .vexpand _ _ _ _ _ => some 45#6
  | .vredi _ _ _ _ _ => some 45#6
  | .mand _ _ _ _ _ => some 46#6
  | .mor _ _ _ _ _ => some 46#6
  | .mxor _ _ _ _ _ => some 46#6
  | .mandn _ _ _ _ _ => some 46#6
  | .mnot _ _ _ _ => some 46#6
  | .mset _ _ _ => some 46#6
  | .mclr _ _ _ => some 46#6
  | .mmov _ _ _ _ => some 46#6
  | .twr _ _ _ _ => some 47#6
  | .trd _ _ _ _ => some 47#6
  | .psadd _ _ _ _ => some 47#6
  | .psrd _ _ _ _ => some 47#6
  | .psclr _ _ _ => some 47#6
  | .vredadd _ _ _ _ => some 47#6
  | .vredmax _ _ _ _ => some 47#6
  | .vfredadd _ _ _ _ => some 47#6
  | .krsum _ _ _ _ _ => some 57#6
  | .krmean _ _ _ _ _ => some 57#6
  | .kvcnt _ _ _ _ => some 57#6
  | .kmrd _ _ _ _ => some 57#6
  | .srrd _ _ _ => some 60#6
  | .srwr _ _ _ => some 60#6
  | .syscall _ _ _ _ => some 60#6
  | .tickwt _ _ => some 60#6
  | .framerd _ _ _ => some 60#6
  | .cpt _ _ _ => some 24#6
  | .cpc _ _ _ => some 24#6
  | .cpx _ _ _ => some 24#6
  | .cptr _ _ _ => some 24#6
  | .cpm _ _ _ => some 24#6
  | .cpz _ _ _ => some 24#6
  | .cpd _ _ _ => some 24#6
  | .bkrun _ _ _ => some 48#6
  | .bkrst _ => some 48#6
  | .bkfin _ => some 48#6
  | .bkdrain _ _ _ => some 48#6
  | .bkshape _ _ => some 48#6
  | .dmma _ _ _ => some 49#6
  | .dmmac _ _ _ => some 49#6
  | .ddrain _ _ _ => some 49#6
  | .dbyp _ _ => some 49#6
  | .dclr _ => some 49#6
  | .sortw _ _ _ => some 50#6
  | .swapw _ _ => some 51#6
  | .wpin _ _ _ => some 51#6
  | .moload _ _ _ => some 52#6
  | .mobase _ _ _ => some 52#6
  | .mostart _ _ => some 52#6
  | .mostop _ _ => some 52#6
  | .txfer _ _ _ => some 53#6
  | .gather _ _ _ => some 54#6
  | .gwait _ _ => some 54#6
  | .msend _ _ _ => some 56#6
  | .ksend _ _ _ => some 56#6
  | .amtset _ _ _ => some 56#6
  | .amtclr _ _ => some 56#6
  | .rep _ _ => some 63#6
  | .intervalPulse _ _ _ => none
  | .slipRepeat _ => none
  | .frameComplete _ => none
  | .frameDone _ _ _ => none
  | .nodeRelease _ _ => none
  | .jpushDue _ => none
  | .selection _ => none
  | .loadingComplete _ => none
  | .contextSwitch _ => none
  | .retirement _ => none
  | .park _ => none
  | .evaluationStart _ => none
  | .submit _ _ => none
  | .launchStart _ => none
  | .launchActivate _ => none
  | .launchExchange _ _ _ _ => none
  | .pgtimeout _ => none
  | .refusalNotice _ _ => none
  | .launchEnd _ => none
  | .copyExecute _ _ _ _ _ _ => none
  | .copyComplete _ _ _ => none
  | .pageRequestGroup _ => none
  | .pageResponse _ _ _ => none
  | .ceinv _ _ => none
  | .fradd _ _ => none
  | .sortComplete _ => none
  | .gatherComplete _ _ => none
  | .txferComplete _ => none
  | .sharedReadStart _ _ => none
  | .bucketExpansion _ => none
  | .bucketRetire _ _ => none
  | .denseCommit _ => none
  | .predictionResolve _ => none
  | .queueRefill _ _ => none
  | .messageHeader _ _ _ _ _ _ _ _ _ => none
  | .acknowledgement _ _ _ => none
  | .nomatch _ _ _ => none
  | .attemptTimeout _ _ _ => none
  | .newAttempt _ _ _ => none
  | .kerfBlock _ _ _ _ => none
  | .endMarker _ => none
  | .kerfDeadline _ => none
  | .etick _ _ => none
  | .discardNotice _ _ => none
  | .redirectNotice _ _ => none
  | .moved _ _ _ => none
  | .hostAccess _ _ _ _ _ _ => none
  | .atomicop _ _ _ _ _ _ _ => none
  | .atsInvalidation _ _ _ => none
  | .functionLevelReset _ => none
  | .d3hot _ _ => none
  | .moduleReset => none
  | .rst _ => none
  | .svc _ => none
  | .romboot => none
  | .train _ => none
  | .portTraining _ _ _ => none
  | .retrain _ _ => none
  | .preempt _ _ => none
  | .stopPoint _ => none
  | .stopTimeout _ => none
  | .saveComplete _ => none
  | .resume _ _ => none
  | .restoreComplete _ => none
  | .discard _ _ => none
  | .discardComplete _ => none
  | .brkgo _ _ => none
  | .svcdone _ _ => none
  | .migctlGo _ _ _ => none
  | .handOver _ _ _ => none
  | .pagePull _ _ _ _ _ => none
  | .pagePush _ _ _ _ _ => none
  | .migrationDone _ => none
  | .migrationLinkFailure _ => none
  | .imgctlGo _ _ => none
  | .imageLoadEnd _ _ _ => none
  | .attctlGo _ => none
  | .attestationReport => none
  | .hwfault _ => none
  | .linkfatal _ => none
  | .ftWrite _ _ _ => none
  | .transWrite _ _ _ => none
  | .registerWrite _ _ _ => none
  | .accessPerformed _ _ _ _ _ => none
  | .denseRetire _ _ => none
  | .level4PhaseMessage _ _ _ => none
  | .migrationAbort _ => none
  | .invalidationComplete _ => none
  | .pageRequestInterfaceEnable _ _ => none
  | .auxiliaryPower _ => none

/-- The fields of a word, for the encoder; `none` for an event. -/
def Instr.form : Instr → Option Form
  | .add _ d a b => some (.ss 0#3 d.field a.field b.field)
  | .sub _ d a b => some (.ss 1#3 d.field a.field b.field)
  | .and _ d a b => some (.ss 2#3 d.field a.field b.field)
  | .or _ d a b => some (.ss 3#3 d.field a.field b.field)
  | .xor _ d a b => some (.ss 4#3 d.field a.field b.field)
  | .shl _ d a b => some (.ss 5#3 d.field a.field b.field)
  | .shr _ d a b => some (.ss 6#3 d.field a.field b.field)
  | .sar _ d a b => some (.ss 7#3 d.field a.field b.field)
  | .mul _ d a b => some (.ss 0#3 d.field a.field b.field)
  | .mulhs _ d a b => some (.ss 1#3 d.field a.field b.field)
  | .mulhu _ d a b => some (.ss 2#3 d.field a.field b.field)
  | .min _ d a b => some (.ss 3#3 d.field a.field b.field)
  | .max _ d a b => some (.ss 4#3 d.field a.field b.field)
  | .minu _ d a b => some (.ss 5#3 d.field a.field b.field)
  | .maxu _ d a b => some (.ss 6#3 d.field a.field b.field)
  | .rol _ d a b => some (.ss 7#3 d.field a.field b.field)
  | .addi _ d a imm => some (.si 0#3 d.field a.field imm)
  | .andi _ d a imm => some (.si 1#3 d.field a.field imm)
  | .ori _ d a imm => some (.si 2#3 d.field a.field imm)
  | .xori _ d a imm => some (.si 3#3 d.field a.field imm)
  | .shli _ d a imm => some (.si 4#3 d.field a.field imm)
  | .shri _ d a imm => some (.si 5#3 d.field a.field imm)
  | .sari _ d a imm => some (.si 6#3 d.field a.field imm)
  | .clz _ d a => some (.ss 0#3 d.field a.field 0#6)
  | .ctz _ d a => some (.ss 1#3 d.field a.field 0#6)
  | .popc _ d a => some (.ss 2#3 d.field a.field 0#6)
  | .bswap _ d a => some (.ss 3#3 d.field a.field 0#6)
  | .sextb _ d a => some (.ss 4#3 d.field a.field 0#6)
  | .sexth _ d a => some (.ss 5#3 d.field a.field 0#6)
  | .sextw _ d a => some (.ss 6#3 d.field a.field 0#6)
  | .zextw _ d a => some (.ss 7#3 d.field a.field 0#6)
  | .divs _ d a b => some (.ss 0#3 d.field a.field b.field)
  | .divu _ d a b => some (.ss 1#3 d.field a.field b.field)
  | .rems _ d a b => some (.ss 2#3 d.field a.field b.field)
  | .remu _ d a b => some (.ss 3#3 d.field a.field b.field)
  | .cmpEq _ pd a b => some (.sc 0#4 (BitVec.ofNat 4 pd.val) a.field b.field 0#1)
  | .cmpNe _ pd a b => some (.sc 1#4 (BitVec.ofNat 4 pd.val) a.field b.field 0#1)
  | .cmpLt _ pd a b => some (.sc 2#4 (BitVec.ofNat 4 pd.val) a.field b.field 0#1)
  | .cmpGe _ pd a b => some (.sc 3#4 (BitVec.ofNat 4 pd.val) a.field b.field 0#1)
  | .cmpLtu _ pd a b => some (.sc 4#4 (BitVec.ofNat 4 pd.val) a.field b.field 0#1)
  | .cmpGeu _ pd a b => some (.sc 5#4 (BitVec.ofNat 4 pd.val) a.field b.field 0#1)
  | .cmpLe _ pd a b => some (.sc 6#4 (BitVec.ofNat 4 pd.val) a.field b.field 0#1)
  | .cmpGt _ pd a b => some (.sc 7#4 (BitVec.ofNat 4 pd.val) a.field b.field 0#1)
  | .cmpLeu _ pd a b => some (.sc 8#4 (BitVec.ofNat 4 pd.val) a.field b.field 0#1)
  | .cmpGtu _ pd a b => some (.sc 9#4 (BitVec.ofNat 4 pd.val) a.field b.field 0#1)
  | .pand _ pd pa pb => some (.pl 0#3 (BitVec.ofNat 4 pd.val) (BitVec.ofNat 4 pa.val) (BitVec.ofNat 4 pb.val) 0#6)
  | .por _ pd pa pb => some (.pl 1#3 (BitVec.ofNat 4 pd.val) (BitVec.ofNat 4 pa.val) (BitVec.ofNat 4 pb.val) 0#6)
  | .pxor _ pd pa pb => some (.pl 2#3 (BitVec.ofNat 4 pd.val) (BitVec.ofNat 4 pa.val) (BitVec.ofNat 4 pb.val) 0#6)
  | .pandn _ pd pa pb => some (.pl 3#3 (BitVec.ofNat 4 pd.val) (BitVec.ofNat 4 pa.val) (BitVec.ofNat 4 pb.val) 0#6)
  | .porn _ pd pa pb => some (.pl 4#3 (BitVec.ofNat 4 pd.val) (BitVec.ofNat 4 pa.val) (BitVec.ofNat 4 pb.val) 0#6)
  | .pnot _ pd pa => some (.pl 5#3 (BitVec.ofNat 4 pd.val) (BitVec.ofNat 4 pa.val) 0#4 0#6)
  | .pset _ pd => some (.pl 6#3 (BitVec.ofNat 4 pd.val) 0#4 0#4 0#6)
  | .pclr _ pd => some (.pl 7#3 (BitVec.ofNat 4 pd.val) 0#4 0#4 0#6)
  | .branch _ off => some (.j 0#2 off)
  | .call _ off => some (.j 1#2 off)
  | .br _ a => some (.ss 0#3 0#6 a.field 0#6)
  | .callr _ a => some (.ss 1#3 0#6 a.field 0#6)
  | .ret _ => some (.ss 2#3 0#6 0#6 0#6)
  | .loop _ a off => some (.l a.field off)
  | .cqpush _ a => some (.ss 0#3 0#6 a.field 0#6)
  | .cqpop _ d => some (.ss 1#3 d.field 0#6 0#6)
  | .pqpush _ pa => some (.pl 0#3 0#4 (BitVec.ofNat 4 pa.val) 0#4 0#6)
  | .pqpop _ pd => some (.pl 1#3 (BitVec.ofNat 4 pd.val) 0#4 0#4 0#6)
  | .nop _ => some (.zf 0#5 0#16)
  | .tend _ => some (.zf 1#5 0#16)
  | .brk _ => some (.zf 2#5 0#16)
  | .adr _ a off => some (.l a.field off)
  | .ldb _ d a b => some (.ss 0#3 d.field a.field b.field)
  | .ldh _ d a b => some (.ss 1#3 d.field a.field b.field)
  | .ldw _ d a b => some (.ss 2#3 d.field a.field b.field)
  | .ldd _ d a b => some (.ss 3#3 d.field a.field b.field)
  | .stb _ d a b => some (.ss 4#3 d.field a.field b.field)
  | .sth _ d a b => some (.ss 5#3 d.field a.field b.field)
  | .stw _ d a b => some (.ss 6#3 d.field a.field b.field)
  | .std _ d a b => some (.ss 7#3 d.field a.field b.field)
  | .vld _ vd a b => some (.vm 0#3 vd.field a.field b.field 0#1)
  | .vlds _ vd a b => some (.vm 1#3 vd.field a.field b.field 0#1)
  | .vldx _ vd a b => some (.vm 2#3 vd.field a.field b.field 0#1)
  | .vldff _ vd a b => some (.vm 3#3 vd.field a.field b.field 0#1)
  | .vst _ vd a b => some (.vm 0#3 vd.field a.field b.field 0#1)
  | .vsts _ vd a b => some (.vm 1#3 vd.field a.field b.field 0#1)
  | .vstx _ vd a b => some (.vm 2#3 vd.field a.field b.field 0#1)
  | .aadd _ ord scope wide d a => some (.atm 0#3 ord.field scope.field (BitVec.ofBool wide) 0#1 d.field a.field)
  | .aand _ ord scope wide d a => some (.atm 1#3 ord.field scope.field (BitVec.ofBool wide) 0#1 d.field a.field)
  | .aor _ ord scope wide d a => some (.atm 2#3 ord.field scope.field (BitVec.ofBool wide) 0#1 d.field a.field)
  | .axor _ ord scope wide d a => some (.atm 3#3 ord.field scope.field (BitVec.ofBool wide) 0#1 d.field a.field)
  | .amin _ ord scope wide d a => some (.atm 4#3 ord.field scope.field (BitVec.ofBool wide) 0#1 d.field a.field)
  | .amax _ ord scope wide d a => some (.atm 5#3 ord.field scope.field (BitVec.ofBool wide) 0#1 d.field a.field)
  | .aswp _ ord scope wide d a => some (.atm 6#3 ord.field scope.field (BitVec.ofBool wide) 0#1 d.field a.field)
  | .acas _ ord scope wide d a => some (.atm 7#3 ord.field scope.field (BitVec.ofBool wide) 0#1 d.field a.field)
  | .fence _ ord scope => some (.fn 0#3 ord.field scope.field 0#8 0#6)
  | .dovetail _ => some (.fn 1#3 0#2 0#2 0#8 0#6)
  | .publish _ ord scope a => some (.fn 2#3 ord.field scope.field 0#8 a.field)
  | .cmk _ a b => some (.ss 0#3 0#6 a.field b.field)
  | .cld _ d a b => some (.ss 1#3 d.field a.field b.field)
  | .cfill _ a b => some (.ss 2#3 0#6 a.field b.field)
  | .cfail _ a b => some (.ss 3#3 0#6 a.field b.field)
  | .barinit _ a b => some (.ss 0#3 0#6 a.field b.field)
  | .barx _ a b => some (.ss 1#3 0#6 a.field b.field)
  | .barw _ a => some (.ss 2#3 0#6 a.field 0#6)
  | .barrd _ d a => some (.ss 3#3 d.field a.field 0#6)
  | .jpush _ d a b => some (.ss 0#3 d.field a.field b.field)
  | .qpush _ a b => some (.ss 1#3 0#6 a.field b.field)
  | .qpop _ d a b => some (.ss 2#3 d.field a.field b.field)
  | .qdepth _ d a => some (.ss 3#3 d.field a.field 0#6)
  | .darrive _ d a => some (.ss 4#3 d.field a.field 0#6)
  | .evqpop _ d a => some (.ss 5#3 d.field a.field 0#6)
  | .evqpush _ a b => some (.ss 6#3 0#6 a.field b.field)
  | .rnginit _ a b => some (.ss 0#3 0#6 a.field b.field)
  | .rngtkt _ d a => some (.ss 1#3 d.field a.field 0#6)
  | .rngfill _ d a b => some (.ss 2#3 d.field a.field b.field)
  | .rngget _ d a b => some (.ss 3#3 d.field a.field b.field)
  | .vadd _ lc vd va vb => some (.v 0#3 lc vd.field va.field vb.field)
  | .vsub _ lc vd va vb => some (.v 1#3 lc vd.field va.field vb.field)
  | .vmul _ lc vd va vb => some (.v 2#3 lc vd.field va.field vb.field)
  | .vmulh _ lc vd va vb => some (.v 3#3 lc vd.field va.field vb.field)
  | .vand _ lc vd va vb => some (.v 4#3 lc vd.field va.field vb.field)
  | .vor _ lc vd va vb => some (.v 5#3 lc vd.field va.field vb.field)
  | .vxor _ lc vd va vb => some (.v 6#3 lc vd.field va.field vb.field)
  | .vshl _ lc vd va vb => some (.v 7#3 lc vd.field va.field vb.field)
  | .vshr _ lc vd va vb => some (.v 0#3 lc vd.field va.field vb.field)
  | .vsar _ lc vd va vb => some (.v 1#3 lc vd.field va.field vb.field)
  | .vmin _ lc vd va vb => some (.v 2#3 lc vd.field va.field vb.field)
  | .vmax _ lc vd va vb => some (.v 3#3 lc vd.field va.field vb.field)
  | .vminu _ lc vd va vb => some (.v 4#3 lc vd.field va.field vb.field)
  | .vmaxu _ lc vd va vb => some (.v 5#3 lc vd.field va.field vb.field)
  | .vadds _ lc vd va vb => some (.v 6#3 lc vd.field va.field vb.field)
  | .vsubs _ lc vd va vb => some (.v 7#3 lc vd.field va.field vb.field)
  | .vfadd _ lc vd va vb => some (.v 0#3 lc vd.field va.field vb.field)
  | .vfsub _ lc vd va vb => some (.v 1#3 lc vd.field va.field vb.field)
  | .vfmul _ lc vd va vb => some (.v 2#3 lc vd.field va.field vb.field)
  | .vfma _ lc vd va vb => some (.v 3#3 lc vd.field va.field vb.field)
  | .vfms _ lc vd va vb => some (.v 4#3 lc vd.field va.field vb.field)
  | .vfnma _ lc vd va vb => some (.v 5#3 lc vd.field va.field vb.field)
  | .vfmin _ lc vd va vb => some (.v 6#3 lc vd.field va.field vb.field)
  | .vfmax _ lc vd va vb => some (.v 7#3 lc vd.field va.field vb.field)
  | .vrcpe _ lc vd va => some (.v 0#3 lc vd.field va.field 0#5)
  | .vrsqe _ lc vd va => some (.v 1#3 lc vd.field va.field 0#5)
  | .vexp2e _ lc vd va => some (.v 2#3 lc vd.field va.field 0#5)
  | .vlog2e _ lc vd va => some (.v 3#3 lc vd.field va.field 0#5)
  | .vtanhe _ lc vd va => some (.v 4#3 lc vd.field va.field 0#5)
  | .vfabs _ lc vd va => some (.v 5#3 lc vd.field va.field 0#5)
  | .vfneg _ lc vd va => some (.v 6#3 lc vd.field va.field 0#5)
  | .vfclass _ lc vd va => some (.v 7#3 lc vd.field va.field 0#5)
  | .vcmpeq _ lc md va vb => some (.v 0#3 lc (BitVec.ofNat 5 md.val) va.field vb.field)
  | .vcmpne _ lc md va vb => some (.v 1#3 lc (BitVec.ofNat 5 md.val) va.field vb.field)
  | .vcmplt _ lc md va vb => some (.v 2#3 lc (BitVec.ofNat 5 md.val) va.field vb.field)
  | .vcmpltu _ lc md va vb => some (.v 3#3 lc (BitVec.ofNat 5 md.val) va.field vb.field)
  | .vfcmpeq _ lc md va vb => some (.v 4#3 lc (BitVec.ofNat 5 md.val) va.field vb.field)
  | .vfcmplt _ lc md va vb => some (.v 5#3 lc (BitVec.ofNat 5 md.val) va.field vb.field)
  | .vfcmple _ lc md va vb => some (.v 6#3 lc (BitVec.ofNat 5 md.val) va.field vb.field)
  | .vfcmpun _ lc md va vb => some (.v 7#3 lc (BitVec.ofNat 5 md.val) va.field vb.field)
  | .vmv _ lc vd va => some (.v 0#3 lc vd.field va.field 0#5)
  | .vcvtw _ lc vd va => some (.v 1#3 lc vd.field va.field 0#5)
  | .vcvtn _ lc vd va => some (.v 2#3 lc vd.field va.field 0#5)
  | .vcvtfi _ lc vd va => some (.v 3#3 lc vd.field va.field 0#5)
  | .vcvtif _ lc vd va => some (.v 4#3 lc vd.field va.field 0#5)
  | .vaddMasked _ lc vd va vb => some (.v 0#3 lc vd.field va.field vb.field)
  | .vsubMasked _ lc vd va vb => some (.v 1#3 lc vd.field va.field vb.field)
  | .vmulMasked _ lc vd va vb => some (.v 2#3 lc vd.field va.field vb.field)
  | .vmulhMasked _ lc vd va vb => some (.v 3#3 lc vd.field va.field vb.field)
  | .vandMasked _ lc vd va vb => some (.v 4#3 lc vd.field va.field vb.field)
  | .vorMasked _ lc vd va vb => some (.v 5#3 lc vd.field va.field vb.field)
  | .vxorMasked _ lc vd va vb => some (.v 6#3 lc vd.field va.field vb.field)
  | .vshlMasked _ lc vd va vb => some (.v 7#3 lc vd.field va.field vb.field)
  | .vshrMasked _ lc vd va vb => some (.v 0#3 lc vd.field va.field vb.field)
  | .vsarMasked _ lc vd va vb => some (.v 1#3 lc vd.field va.field vb.field)
  | .vminMasked _ lc vd va vb => some (.v 2#3 lc vd.field va.field vb.field)
  | .vmaxMasked _ lc vd va vb => some (.v 3#3 lc vd.field va.field vb.field)
  | .vminuMasked _ lc vd va vb => some (.v 4#3 lc vd.field va.field vb.field)
  | .vmaxuMasked _ lc vd va vb => some (.v 5#3 lc vd.field va.field vb.field)
  | .vaddsMasked _ lc vd va vb => some (.v 6#3 lc vd.field va.field vb.field)
  | .vsubsMasked _ lc vd va vb => some (.v 7#3 lc vd.field va.field vb.field)
  | .vfaddMasked _ lc vd va vb => some (.v 0#3 lc vd.field va.field vb.field)
  | .vfsubMasked _ lc vd va vb => some (.v 1#3 lc vd.field va.field vb.field)
  | .vfmulMasked _ lc vd va vb => some (.v 2#3 lc vd.field va.field vb.field)
  | .vfmaMasked _ lc vd va vb => some (.v 3#3 lc vd.field va.field vb.field)
  | .vfmsMasked _ lc vd va vb => some (.v 4#3 lc vd.field va.field vb.field)
  | .vfnmaMasked _ lc vd va vb => some (.v 5#3 lc vd.field va.field vb.field)
  | .vfminMasked _ lc vd va vb => some (.v 6#3 lc vd.field va.field vb.field)
  | .vfmaxMasked _ lc vd va vb => some (.v 7#3 lc vd.field va.field vb.field)
  | .vrcpeMasked _ lc vd va => some (.v 0#3 lc vd.field va.field 0#5)
  | .vrsqeMasked _ lc vd va => some (.v 1#3 lc vd.field va.field 0#5)
  | .vexp2eMasked _ lc vd va => some (.v 2#3 lc vd.field va.field 0#5)
  | .vlog2eMasked _ lc vd va => some (.v 3#3 lc vd.field va.field 0#5)
  | .vtanheMasked _ lc vd va => some (.v 4#3 lc vd.field va.field 0#5)
  | .vfabsMasked _ lc vd va => some (.v 5#3 lc vd.field va.field 0#5)
  | .vfnegMasked _ lc vd va => some (.v 6#3 lc vd.field va.field 0#5)
  | .vfclassMasked _ lc vd va => some (.v 7#3 lc vd.field va.field 0#5)
  | .vcmpeqMasked _ lc md va vb => some (.v 0#3 lc (BitVec.ofNat 5 md.val) va.field vb.field)
  | .vcmpneMasked _ lc md va vb => some (.v 1#3 lc (BitVec.ofNat 5 md.val) va.field vb.field)
  | .vcmpltMasked _ lc md va vb => some (.v 2#3 lc (BitVec.ofNat 5 md.val) va.field vb.field)
  | .vcmpltuMasked _ lc md va vb => some (.v 3#3 lc (BitVec.ofNat 5 md.val) va.field vb.field)
  | .vfcmpeqMasked _ lc md va vb => some (.v 4#3 lc (BitVec.ofNat 5 md.val) va.field vb.field)
  | .vfcmpltMasked _ lc md va vb => some (.v 5#3 lc (BitVec.ofNat 5 md.val) va.field vb.field)
  | .vfcmpleMasked _ lc md va vb => some (.v 6#3 lc (BitVec.ofNat 5 md.val) va.field vb.field)
  | .vfcmpunMasked _ lc md va vb => some (.v 7#3 lc (BitVec.ofNat 5 md.val) va.field vb.field)
  | .vmvMasked _ lc vd va => some (.v 0#3 lc vd.field va.field 0#5)
  | .vcvtwMasked _ lc vd va => some (.v 1#3 lc vd.field va.field 0#5)
  | .vcvtnMasked _ lc vd va => some (.v 2#3 lc vd.field va.field 0#5)
  | .vcvtfiMasked _ lc vd va => some (.v 3#3 lc vd.field va.field 0#5)
  | .vcvtifMasked _ lc vd va => some (.v 4#3 lc vd.field va.field 0#5)
  | .vrotr _ lc vd va s => some (.vx 0#2 lc vd.field va.field s.field)
  | .vrotc _ lc vd va s => some (.vx 1#2 lc vd.field va.field s.field)
  | .vbcst _ lc vd s => some (.vx 2#2 lc vd.field 0#5 s.field)
  | .vextr _ lc vd va s => some (.vx 3#2 lc vd.field va.field s.field)
  | .vsetvl _ s => some (.vx 0#2 0#3 0#5 0#5 s.field)
  | .vcompress _ lc vd va s => some (.vx 1#2 lc vd.field va.field s.field)
  | .vexpand _ lc vd va s => some (.vx 2#2 lc vd.field va.field s.field)
  | .vredi _ lc vd va s => some (.vx 3#2 lc vd.field va.field s.field)
  | .mand _ lc md ma mb => some (.v 0#3 lc (BitVec.ofNat 5 md.val) (BitVec.ofNat 5 ma.val) (BitVec.ofNat 5 mb.val))
  | .mor _ lc md ma mb => some (.v 1#3 lc (BitVec.ofNat 5 md.val) (BitVec.ofNat 5 ma.val) (BitVec.ofNat 5 mb.val))
  | .mxor _ lc md ma mb => some (.v 2#3 lc (BitVec.ofNat 5 md.val) (BitVec.ofNat 5 ma.val) (BitVec.ofNat 5 mb.val))
  | .mandn _ lc md ma mb => some (.v 3#3 lc (BitVec.ofNat 5 md.val) (BitVec.ofNat 5 ma.val) (BitVec.ofNat 5 mb.val))
  | .mnot _ lc md ma => some (.v 4#3 lc (BitVec.ofNat 5 md.val) (BitVec.ofNat 5 ma.val) 0#5)
  | .mset _ lc md => some (.v 5#3 lc (BitVec.ofNat 5 md.val) 0#5 0#5)
  | .mclr _ lc md => some (.v 6#3 lc (BitVec.ofNat 5 md.val) 0#5 0#5)
  | .mmov _ lc md ma => some (.v 7#3 lc (BitVec.ofNat 5 md.val) (BitVec.ofNat 5 ma.val) 0#5)
  | .twr _ lc t va => some (.v 0#3 lc (BitVec.ofNat 5 t.val) va.field 0#5)
  | .trd _ lc vd t => some (.v 1#3 lc vd.field (BitVec.ofNat 5 t.val) 0#5)
  | .psadd _ lc ps va => some (.v 2#3 lc (BitVec.ofNat 5 ps.val) va.field 0#5)
  | .psrd _ lc vd ps => some (.v 3#3 lc vd.field (BitVec.ofNat 5 ps.val) 0#5)
  | .psclr _ lc ps => some (.v 4#3 lc (BitVec.ofNat 5 ps.val) 0#5 0#5)
  | .vredadd _ lc vd va => some (.v 5#3 lc vd.field va.field 0#5)
  | .vredmax _ lc vd va => some (.v 6#3 lc vd.field va.field 0#5)
  | .vfredadd _ lc vd va => some (.v 7#3 lc vd.field va.field 0#5)
  | .krsum _ lc vd va ms => some (.v 0#3 lc vd.field va.field (BitVec.ofNat 5 ms.val))
  | .krmean _ lc vd va ms => some (.v 1#3 lc vd.field va.field (BitVec.ofNat 5 ms.val))
  | .kvcnt _ lc vd ms => some (.v 2#3 lc vd.field (BitVec.ofNat 5 ms.val) 0#5)
  | .kmrd _ lc md va => some (.v 3#3 lc (BitVec.ofNat 5 md.val) va.field 0#5)
  | .srrd _ d n => some (.ss 0#3 d.field 0#6 n)
  | .srwr _ a n => some (.ss 1#3 0#6 a.field n)
  | .syscall _ d a b => some (.ss 2#3 d.field a.field b.field)
  | .tickwt _ a => some (.ss 3#3 0#6 a.field 0#6)
  | .framerd _ d n => some (.ss 4#3 d.field 0#6 n)
  | .cpt _ a b => some (.e 0#5 a.field b.field 0#4)
  | .cpc _ a b => some (.e 1#5 a.field b.field 0#4)
  | .cpx _ a b => some (.e 2#5 a.field b.field 0#4)
  | .cptr _ a b => some (.e 3#5 a.field b.field 0#4)
  | .cpm _ a b => some (.e 4#5 a.field b.field 0#4)
  | .cpz _ a b => some (.e 5#5 a.field b.field 0#4)
  | .cpd _ a b => some (.e 6#5 a.field b.field 0#4)
  | .bkrun _ a b => some (.e 0#5 a.field b.field 0#4)
  | .bkrst _ => some (.e 1#5 0#6 0#6 0#4)
  | .bkfin _ => some (.e 2#5 0#6 0#6 0#4)
  | .bkdrain _ a b => some (.e 3#5 a.field b.field 0#4)
  | .bkshape _ a => some (.e 4#5 a.field 0#6 0#4)
  | .dmma _ a b => some (.e 0#5 a.field b.field 0#4)
  | .dmmac _ a b => some (.e 1#5 a.field b.field 0#4)
  | .ddrain _ a b => some (.e 2#5 a.field b.field 0#4)
  | .dbyp _ a => some (.e 3#5 a.field 0#6 0#4)
  | .dclr _ => some (.e 4#5 0#6 0#6 0#4)
  | .sortw _ a b => some (.e 0#5 a.field b.field 0#4)
  | .swapw _ a => some (.e 0#5 a.field 0#6 0#4)
  | .wpin _ a b => some (.e 1#5 a.field b.field 0#4)
  | .moload _ a b => some (.e 0#5 a.field b.field 0#4)
  | .mobase _ a b => some (.e 1#5 a.field b.field 0#4)
  | .mostart _ a => some (.e 2#5 a.field 0#6 0#4)
  | .mostop _ a => some (.e 3#5 a.field 0#6 0#4)
  | .txfer _ a b => some (.e 0#5 a.field b.field 0#4)
  | .gather _ a b => some (.e 0#5 a.field b.field 0#4)
  | .gwait _ a => some (.e 1#5 a.field 0#6 0#4)
  | .msend _ a b => some (.e 0#5 a.field b.field 0#4)
  | .ksend _ a b => some (.e 1#5 a.field b.field 0#4)
  | .amtset _ a b => some (.e 2#5 a.field b.field 0#4)
  | .amtclr _ a => some (.e 3#5 a.field 0#6 0#4)
  | .rep cnt step => some (.rp cnt step 0#12)
  | .intervalPulse _ _ _ => none
  | .slipRepeat _ => none
  | .frameComplete _ => none
  | .frameDone _ _ _ => none
  | .nodeRelease _ _ => none
  | .jpushDue _ => none
  | .selection _ => none
  | .loadingComplete _ => none
  | .contextSwitch _ => none
  | .retirement _ => none
  | .park _ => none
  | .evaluationStart _ => none
  | .submit _ _ => none
  | .launchStart _ => none
  | .launchActivate _ => none
  | .launchExchange _ _ _ _ => none
  | .pgtimeout _ => none
  | .refusalNotice _ _ => none
  | .launchEnd _ => none
  | .copyExecute _ _ _ _ _ _ => none
  | .copyComplete _ _ _ => none
  | .pageRequestGroup _ => none
  | .pageResponse _ _ _ => none
  | .ceinv _ _ => none
  | .fradd _ _ => none
  | .sortComplete _ => none
  | .gatherComplete _ _ => none
  | .txferComplete _ => none
  | .sharedReadStart _ _ => none
  | .bucketExpansion _ => none
  | .bucketRetire _ _ => none
  | .denseCommit _ => none
  | .predictionResolve _ => none
  | .queueRefill _ _ => none
  | .messageHeader _ _ _ _ _ _ _ _ _ => none
  | .acknowledgement _ _ _ => none
  | .nomatch _ _ _ => none
  | .attemptTimeout _ _ _ => none
  | .newAttempt _ _ _ => none
  | .kerfBlock _ _ _ _ => none
  | .endMarker _ => none
  | .kerfDeadline _ => none
  | .etick _ _ => none
  | .discardNotice _ _ => none
  | .redirectNotice _ _ => none
  | .moved _ _ _ => none
  | .hostAccess _ _ _ _ _ _ => none
  | .atomicop _ _ _ _ _ _ _ => none
  | .atsInvalidation _ _ _ => none
  | .functionLevelReset _ => none
  | .d3hot _ _ => none
  | .moduleReset => none
  | .rst _ => none
  | .svc _ => none
  | .romboot => none
  | .train _ => none
  | .portTraining _ _ _ => none
  | .retrain _ _ => none
  | .preempt _ _ => none
  | .stopPoint _ => none
  | .stopTimeout _ => none
  | .saveComplete _ => none
  | .resume _ _ => none
  | .restoreComplete _ => none
  | .discard _ _ => none
  | .discardComplete _ => none
  | .brkgo _ _ => none
  | .svcdone _ _ => none
  | .migctlGo _ _ _ => none
  | .handOver _ _ _ => none
  | .pagePull _ _ _ _ _ => none
  | .pagePush _ _ _ _ _ => none
  | .migrationDone _ => none
  | .migrationLinkFailure _ => none
  | .imgctlGo _ _ => none
  | .imageLoadEnd _ _ _ => none
  | .attctlGo _ => none
  | .attestationReport => none
  | .hwfault _ => none
  | .linkfatal _ => none
  | .ftWrite _ _ _ => none
  | .transWrite _ _ _ => none
  | .registerWrite _ _ _ => none
  | .accessPerformed _ _ _ _ _ => none
  | .denseRetire _ _ => none
  | .level4PhaseMessage _ _ _ => none
  | .migrationAbort _ => none
  | .invalidationComplete _ => none
  | .pageRequestInterfaceEnable _ _ => none
  | .auxiliaryPower _ => none

/-- A word cut into its guard, its major and the fields of the major's format (02 R41, R52). -/
noncomputable def decodeFields (w lit : W32) : Except DecodeError Instr :=
  if w = 0#32 || w = 0xFFFFFFFF#32 then .error .zeroOrOnes
  else do
    let g ← Guard.ofFields (w.extractLsb' 31 1) (w.extractLsb' 27 4)
    let m := (w.extractLsb' 21 6).toNat
    match formatOf m with
    | none => .error .major
    | some f => Instr.ofForm g m (Form.ofBits f (w.extractLsb' 0 21)) lit

/-- Decode a word and the word after it; answers the instruction and how many words it takes (02 R42, R47). -/
noncomputable def decodeWords (w : W32) (next : Option W32) : Except DecodeError (Instr × Nat) := do
  let i ← decodeFields w (next.getD 0#32)
  match i.lits with
  | [] => .ok (i, 1)
  | [_] => if next.isSome then .ok (i, 2) else .error .truncated
  | _ => .error .litTwice

/-- Four bytes, least significant first (00 R11). -/
def wordOfBytes (b0 b1 b2 b3 : Byte) : W32 := b3 ++ b2 ++ b1 ++ b0

/-- The bytes of a word, least significant first (00 R11). -/
def bytesOfWord (w : W32) : List Byte :=
  [w.extractLsb' 0 8, w.extractLsb' 8 8, w.extractLsb' 16 8, w.extractLsb' 24 8]

/-- The first word of a list of bytes, and what is left. -/
def takeWord : List Byte → Option (W32 × List Byte)
  | b0 :: b1 :: b2 :: b3 :: r => some (wordOfBytes b0 b1 b2 b3, r)
  | _ => none

/-- Decode the instruction at the head of a list of bytes, with the bytes that follow it. -/
noncomputable def decode (bs : List Byte) : Except DecodeError (Instr × List Byte) :=
  match takeWord bs with
  | none => .error .truncated
  | some (w, r) =>
    match takeWord r with
    | none => do
      let (i, _) ← decodeWords w none
      return (i, r)
    | some (l, r') => do
      let (i, n) ← decodeWords w (some l)
      return (i, if n = 2 then r' else r)

/-- The instruction word of a word instruction (02 R41); 0 for an event. -/
def encodeWord (i : Instr) : W32 :=
  match i.major, i.form with
  | some m, some f => i.guard.gs ++ i.guard.gp ++ m ++ f.bits
  | _, _ => 0#32

/-- The bytes of a word instruction with its literal, as stored in memory (02 R42); none for an event. -/
def encode (i : Instr) : List Byte :=
  if i.isWord then bytesOfWord (encodeWord i) ++ (i.lits.flatMap bytesOfWord) else []

/-- The instruction that the decoder reads from bits numbered as the table of operations numbers them: the word is bits 31..0, a literal word is bits 63..32, and bits above `nbits` are 0. -/
noncomputable def decodeTableWord (nbits w : Nat) : Option Instr :=
  let v := w % 2 ^ nbits
  match decode (bytesOfWord (BitVec.ofNat 32 v) ++ bytesOfWord (BitVec.ofNat 32 (v / 2 ^ 32))) with
  | .ok (i, _) => some i
  | .error _ => none

/-! What REP may repeat, and its repeats (02 R54-R56). -/

/-- Majors that REP may not repeat (02 R56 case 3). -/
def noRepeatMajor (m : BitVec 6) : Bool := [0x07#6, 0x08#6, 0x09#6, 0x0C#6, 0x14#6, 0x3C#6, 0x3F#6].contains m

/-- The value of a field that REP may step and the last value of its kind; none for a queue specifier, zr, lr, sp and lit (02 R56 cases 5 and 6). -/
def Role.stepRange : Role → Option (Nat × Nat)
  | .src (.s n) | .dst (.s n) | .rw (.s n) => some (n.val, 55)
  | .psrc p | .pdst p => some (p.val, 11)
  | .vsrc (.v n) | .vdst (.v n) | .vrw (.v n) => some (n.val, 15)
  | .msrc m | .mdst m => some (m.val, 7)
  | .tsrc t | .tdst t => some (t.val, 1)
  | .lsrc l | .ldst l => some (l.val, 3)
  | _ => none

/-- May REP step this field through `cnt` more values (02 R56 cases 4 to 6)? -/
def stepFieldOk (cnt : Nat) : Option Role → Bool
  | some r => match r.stepRange with | some (v, top) => decide (v + cnt ≤ top) | none => false
  | none => false

/-- The fields that STEP selects: STEP2 the first, STEP1 the second, STEP0 the third (02 R54). -/
def stepSelects (step : BitVec 3) (j : Nat) : Bool := step.getLsbD (2 - j)

/-- A field increased by the repeat's number when it is stepped. -/
def stepBits (step : BitVec 3) (n j : Nat) {w : Nat} (v : BitVec w) : BitVec w := if stepSelects step j then v + BitVec.ofNat w n else v

/-- The register fields of a word, stepped (02 R52, R55). -/
def Form.stepped (step : BitVec 3) (n : Nat) : Form → Form
  | .ss op d a b => .ss op (stepBits step n 0 d) (stepBits step n 1 a) (stepBits step n 2 b)
  | .si op d a imm => .si op (stepBits step n 0 d) (stepBits step n 1 a) imm
  | .sc op pd a b z => .sc op (stepBits step n 0 pd) (stepBits step n 1 a) (stepBits step n 2 b) z
  | .pl op pd pa pb z => .pl op (stepBits step n 0 pd) (stepBits step n 1 pa) (stepBits step n 2 pb) z
  | .l a off => .l (stepBits step n 0 a) off
  | .atm op ord scope wide z d a => .atm op ord scope wide z (stepBits step n 0 d) (stepBits step n 1 a)
  | .fn op ord scope z a => .fn op ord scope z (stepBits step n 0 a)
  | .vm op vd a b z => .vm op (stepBits step n 0 vd) (stepBits step n 1 a) (stepBits step n 2 b) z
  | .v op lc vd va vb => .v op lc (stepBits step n 0 vd) (stepBits step n 1 va) (stepBits step n 2 vb)
  | .vx op lc vd va x => .vx op lc (stepBits step n 0 vd) (stepBits step n 1 va) (stepBits step n 2 x)
  | .e op a b z => .e op (stepBits step n 0 a) (stepBits step n 1 b) z
  | f => f

/-- Repeat `n` of a target (02 R55): its register fields stepped, its literal the same. -/
noncomputable def Instr.stepped (step : BitVec 3) (n : Nat) (i : Instr) : Except DecodeError Instr :=
  match i.major, i.form with
  | some m, some f => Instr.ofForm i.guard m.toNat (f.stepped step n) (i.lits.headD 0#32)
  | _, _ => .error .major

/-- Does the word name the d field of ACAS, which may not be stepped (06 R147)? -/
def Instr.isAcas : Instr → Bool
  | .acas _ _ _ _ _ _ => true
  | _ => false

/-- Is the repeat of a target legal in the stream (02 R56 case 7; 04 R92)? -/
noncomputable def repeatOk (k : StreamKind) (step : BitVec 3) (i : Instr) (n : Nat) : Bool :=
  match i.stepped step n with
  | .ok j => j.legal k
  | .error _ => false

/-- May the target be repeated as the REP word says (02 R56; 04 R92; 06 R147)? -/
noncomputable def repLegal (k : StreamKind) (cnt : BitVec 6) (step : BitVec 3) (i : Instr) : Bool :=
  (match i.major with | some m => !noRepeatMajor m | none => false)
    && ((List.range 3).all fun j => !stepSelects step j || stepFieldOk cnt.toNat ((i.regFields[j]?).join))
    && !(i.isAcas && stepSelects step 0)
    && ((List.range (cnt.toNat + 1)).all fun n => repeatOk k step i n)

end Sys2Proof
end

