-- ==== Sys2Proof/Machine/Fetch.lean ====
section
/-! DEFINITION. Fetching the word that a stream issues next, and REP with its repeats (spec/02_instruction_words.md R42, R54-R57, R61, R62; spec/04 R92, R105; spec/05 R123). -/

namespace Sys2Proof.Machine

open Sys2Proof

/-- The word at a flat address, as it was before the last `old` stores of the launch to it (02 R42); of an expired page, undefined (13 R374). -/
def codeWord (s : State) (b old : Nat) : W32 × State :=
  if s.expired b then (BitVec.ofNat 32 (leValue ((List.range 4).map fun k => Config.freeByte s.freeCtr (b + k))), s.drawn)
  else ((BitVec.ofNat 32 (s.value b 4) :: tget [] s.attr.prior (b / 4)).getD old (BitVec.ofNat 32 (s.value b 4)), s)

/-- Majors that a cluster control core may issue (11 R324). -/
def ctlMajors : List Nat := [0x00, 0x01, 0x02, 0x03, 0x04, 0x05, 0x06, 0x07, 0x08, 0x09, 0x0C, 0x0D, 0x10, 0x13, 0x14, 0x1C, 0x1D, 0x3C]

/-- Fetch the word at `va`, the `k`-th of this issue (05 R123, 04 R105; 14 R389, R405). -/
def fetchWord (a : Agent) (k : Nat) (va : W64) (s : State) : Except Stop (W32 × State) :=
  match translate s a (s.task a) va .fetch with
  | .error e => .error (.trap { code := e })
  | .ok tgt =>
    match loadAddr s ((s.partOf? a.cluster).getD 0) tgt with
    | none => .error (.trap { code := .fetchwin })
    | some b =>
      if !s.owned b then .error (.trap { code := .eccunc, wait := true })
      else if s.eccHit b 4 then .error (.trap { code := .eccunc, addr := b })
      else .ok (codeWord s b (s.old.getD k 0))

/-- An illegal word (02 R61, R62). -/
def illegalWord {α : Type} : Except Stop α := .error (.trap { code := .illegal })

/-- Fetch the word at `va` and decode it, its literal still to come (02 R42, R62): the word, and the instruction with literal 0. -/
noncomputable def fetchBare (a : Agent) (k : Nat) (va : W64) (s : State) : Except Stop (W32 × Instr × State) :=
  match fetchWord a k va s with
  | .error st => .error st
  | .ok (w, s) =>
    match decodeFields w 0#32 with
    | .error _ => illegalWord
    | .ok i => .ok (w, i, s)

/-- The words of a cluster control core (11 R324). -/
def ctlWord (i : Instr) : Bool :=
  (match i.major with | some m => ctlMajors.contains m.toNat | none => false) && (match i with | .darrive .. => false | _ => true) &&
    i.inStream .access && i.roles.all (fun r => r.queue?.isNone) && i.shapeOk .access

/-- Would the word at `va` read its literal: is it legal in its stream, and its guard on (02 R45, R62)? -/
noncomputable def readsLit (a : Agent) (va : W64) (i : Instr) (s : State) : Bool :=
  (if a.core?.isNone then ctlWord i else i.legal a.kind) &&
    match guardStop a i.guard s with
    | .error _ => false
    | .ok _ => (guardOn { a := a, pc := va, next := va, seq := 0 } i.guard s).1

/-- The literal word at `va`: under REP the repeats share the one that the first of them fetched (02 R55). -/
def fetchLit (a : Agent) (k : Nat) (va : W64) (s : State) : Except Stop (W32 × State) :=
  let t := s.task a
  if t.repOf a.kind = 0 then fetchWord a k va s
  else match t.litOf a.kind with
    | some l => .ok (l, s)
    | none =>
      match fetchWord a k va s with
      | .error st => .error st
      | .ok (l, s) => .ok (l, s.modTask a fun t => t.setLit a.kind (some l))

/-- The word `w` at `va` with its literal, if it has one (02 R42). A literal that cannot be fetched stops the word only where it is read: an illegal word traps as such, one that is guarded off has no effect, one whose guard holds issue waits (02 R45, R62). That the stop is raised at the word, before the holds of its operands, is the model's choice (log entry 80). -/
noncomputable def withLit (a : Agent) (k : Nat) (va : W64) (w : W32) (i : Instr) (s : State) : Except Stop (Instr × State) :=
  match i.lits with
  | [] => .ok (i, s)
  | [_] =>
    match fetchLit a (k + 1) (va + 4#64) s with
    | .error st => if readsLit a va i s then .error st else .ok (i, s)
    | .ok (l, s) =>
      match decodeFields w l with
      | .error _ => illegalWord
      | .ok i => .ok (i, s)
  | _ => illegalWord

/-! REP (02 R54-R57). -/

/-- The instruction that the stream at hand issues next (02 R55-R57, R61). Before the first repeat of a REP word it is the REP word itself, its target checked; while repeats are left it is the target of the next one. A word in place of the REP word, stored there between repeats, issues once as itself. A target that cannot be fetched stops the stream at the REP word, before a repeat, which is the model's choice (log entry 81). -/
noncomputable def nextInstr (a : Agent) (s : State) : Except Stop (Instr × State) :=
  let t := s.task a
  let pc := t.pcOf a.kind
  let left := t.repOf a.kind
  match fetchBare a 0 pc s with
  | .error st => .error st
  | .ok (w, i, s) =>
    match i with
    | .rep cnt step =>
      if a.core?.isNone then .ok (i, s)
      else
        match fetchBare a 1 (pc + 4#64) s with
        | .error st => .error st
        | .ok (w, j, s) =>
          if left = 0 then if repLegal a.kind cnt step j then .ok (i, s) else illegalWord
          else
            match withLit a 1 (pc + 4#64) w j s with
            | .error st => .error st
            | .ok (j, s) =>
              match j.stepped step (cnt.toNat + 1 - left) with
              | .ok j => .ok (j, s)
              | .error _ => illegalWord
    | _ => withLit a 0 pc w i (if left = 0 then s else s.modTask a fun t => t.setRep a.kind 0)

/-- Does a CLD of the stream's task wait (12 R338)? -/
def cldWaits (a : Agent) (s : State) : Option HoldWhy :=
  if a.kind == .access then ((s.task a).a.loads.find? (·.waiting)).map fun x => .wait (.cell x.seq) else none

/-- What stops the fetch of a word, or its decoding, stops the stream at the word (02 R62; 04 R105), but for a task that waits on a CLD (12 R338). -/
def stopFetch (a : Agent) (st : Stop) (s : State) : State :=
  match cldWaits a s with
  | some w => holdStep a w s
  | none => stopStep a st s

/-- REP issues (02 R55): REPC becomes CNT + 1 when it is 0. The stream stays at the REP word, and no issue slot passes: the repeats take them. On a predicted arm it holds, as every word but the engine commands does (04 R114); a control core has no REP (11 R324). -/
def repStart (cnt : BitVec 6) (a : Agent) (s : State) : State :=
  match cldWaits a s with
  | some w => holdStep a w s
  | none =>
    if a.core?.isNone then stopStep a (.trap { code := .illegal }) s
    else if (s.task a).x.arm.isSome && a.kind == .execute then holdStep a .prediction s
    else if (s.task a).repOf a.kind = 0 then s.modTask a fun t => (t.setRep a.kind (cnt.toNat + 1)).setLit a.kind none
    else s

/-- REP (R54-R56): the target and the fields that STEP selects come in at each repeat, with its fetch. -/
def execRep (cnt : BitVec 6) (_step : BitVec 3) (s : State) : Answer :=
  if s.live s.cur then .next (repStart cnt s.cur s) else .fault .noStream

end Sys2Proof.Machine
end

