-- ==== Sys2Proof/Machine/Regs.lean ====
section
/-! DEFINITION. The management register map: what each register reads and what a write of it does (spec/00_scope.md R13; spec/15_module_platform.md R409-R428; spec/03 R76, R77; spec/08 R223-R236; spec/12 R347; spec/13 R357, R373, R374; spec/14 R380-R402). -/

namespace Sys2Proof.Machine

open Sys2Proof

/-! Records as bytes. -/

/-- A trap record (14 R377). -/
def TrapRecord.bytes (r : TrapRecord) : List Byte :=
  leBytes 8 r.task.toNat ++ leBytes 8 r.apc.toNat ++ leBytes 8 r.xpc.toNat ++ leBytes 4 r.cmdidx.toNat ++ leBytes 2 r.code ++ leBytes 1 r.cls.code ++
    leBytes 1 r.engine.code ++ leBytes 4 r.status ++ leBytes 1 r.empc ++ leBytes 1 (b2n r.stream + 2 * b2n r.home) ++ leBytes 1 r.repc ++
    leBytes 1 r.lineage ++ leBytes 8 r.addr ++ leBytes 8 r.tick ++ leBytes 4 r.launchid ++ leBytes 4 0

/-- A black-box event (15 R422). -/
def BbEvent.bytes (e : BbEvent) : List Byte :=
  leBytes 4 e.seq ++ leBytes 2 e.kind ++ leBytes 1 e.part ++ leBytes 1 e.resetLow ++ leBytes 8 e.frame ++ (e.data ++ List.replicate 16 0#8).take 16

/-- The 64-bit word at an offset of a list of bytes; 0 beyond it. -/
def wordAt (bs : List Byte) (off : Nat) : Nat := fieldOf bs off 8

/-! Reading the physical function's BAR0 (15 R412-R414): the word at an offset that is a multiple of 8. -/

/-- TCOLn (15 R419). -/
def tcolWord (x : TCol) : Nat := b2n x.failed * 2 ^ 63 + x.cause % 4 * 2 ^ 61 + x.cap % 32 * 2 ^ 56 + x.est.toNat * 2 ^ 32 + x.read.toNat

/-- The module block. -/
def moduleWord (s : State) (off : Nat) : Nat :=
  let x := s.plat
  if off = 0 then Config.deviceId.toNat
  else if off = 8 then s.modl.mstate
  else if off = 0x18 then x.resetcnt
  else if off = 0x20 then s.modl.intcnt
  else if off = 0x100 then x.budget
  else if 0x108 ≤ off && off < 0x128 then tget 16 x.dshare ((off - 0x108) / 8) * 2 ^ 8 + tget 16 x.bshare ((off - 0x108) / 8)
  else if 0x128 ≤ off && off < 0x148 then (tget 0#64 x.afr ((off - 0x128) / 8)).toNat
  else if off = 0x200 then x.bb.seq * 2 ^ 32 + b2n x.bb.freeze * 2 ^ 31 + x.bb.lost * 2 ^ 12 + x.bb.head
  else if off = 0x300 then b2n x.attBusy * 2 ^ 63
  else if 0x400 ≤ off && off < 0x438 then tget 0 x.ecccor ((off - 0x400) / 8)
  else if off = 0x438 then x.slips
  else if off = 0x440 then x.slipclk
  else if 0x1000 ≤ off && off < 0x1600 then tcolWord (tget .reset x.tcol ((off - 0x1000) / 8))
  else 0

/-- The ports. -/
def portBlockWord (s : State) (off : Nat) : Nat :=
  if off < 0x40 then (s.port (off / 8)).ctl.toNat
  else if 0x100 ≤ off && off < 0x900 then tget 0 (s.port ((off - 0x100) / 0x100)).ctr ((off - 0x100) % 0x100 / 8)
  else 0

/-- An allotment register (14 R391). -/
def Allot.word (a : Allot) : Nat := a.size / 0x10000 * 2 ^ 40 + a.base / 0x10000 * 2 ^ 16

/-- DDRSTATE (08 R236). -/
def ddrState (r : PartRegs) : Nat := b2n r.ddOvf * 2 ^ 63 + r.ddCount * 2 ^ 32 + r.ddHead

/-- The compression-mode register (08 R235). -/
def modeWord (s : State) (p : Nat) : Nat :=
  let n := (s.part p).collisions.length
  s.plat.marker.toNat * 2 ^ 32 + Nat.min n 63 * 4 + b2n (decide (64 ≤ n)) * 2 + b2n (s.part p).regs.hdr

/-- SVCPEND (14 R382). -/
def pendWord (x : Part) : Nat := x.svc.foldl (fun n r => if r.done then n else n + 2 ^ (r.slot % 64)) 0

/-- PCTL (14 R394). -/
def pctlWord (x : Part) : Nat :=
  let st := match x.launch with | some l => if l.phase == LaunchPhase.starting then PState.idle else x.pstate | none => x.pstate
  x.regs.ptimeout * 2 ^ 32 + x.regs.rerr * 2 ^ 9 + b2n x.regs.tout * 2 ^ 8 + st.code * 2 ^ 4 + b2n x.held.isSome * 2 ^ 3

/-- MIGCTL (14 R402). -/
def migctlWord (s : State) (p : Nat) : Nat :=
  let m := (s.part p).mig
  m.state.code * 2 ^ 52 + sourcePages s p % 2 ^ 28 * 2 ^ 24 + m.port % 8 * 2 ^ 8 + m.role % 4 * 2 ^ 6

/-- The control registers of a partition block from 0x0100 on, by place; FRADD, BRKGO and SVCDONE read 0. -/
def controlWord (s : State) (p i : Nat) : Nat :=
  let x := s.part p
  let r := x.regs
  if i = 0 then r.dptroot.toNat
  else if i = 1 then b2n r.ceinvBusy * 2 ^ 63
  else if i = 2 then r.ddtab.toNat
  else if i = 3 then r.ddring.toNat
  else if i = 4 then ddrState r
  else if i = 6 then r.cwspill.toNat
  else if i = 7 then modeWord s p
  else if i < 16 then (tget 0#64 r.trans (i - 8)).toNat
  else if i = 16 then b2n r.brken
  else if i = 18 then r.svcq.toNat
  else if i = 19 then pendWord x
  else if i = 21 then pctlWord x
  else if i = 22 then r.susparea.toNat
  else if i = 23 then migctlWord s p
  else if i = 24 then x.mig.pmap
  else if i < 28 then r.pclus.toNat / 2 ^ (64 * (i - 25)) % 2 ^ 64
  else if i < 32 then (r.pdie.getD (i - 28) .none).word
  else if i < 36 then (r.pwb.getD (i - 32) .none).word
  else if i = 36 then r.plp.word
  else 0

/-- The log as the host reads it. -/
def logBytes (x : Part) : List Byte := x.traplog.flatMap TrapRecord.bytes

/-- A partition block (15 R413). -/
def partWord (s : State) (p off : Nat) : Nat :=
  let x := s.part p
  let ft (i : Nat) : Nat := (x.regs.ft.getD i 0#32).toNat
  if off < 0x40 then ft (off / 4) + ft (off / 4 + 1) * 2 ^ 32
  else if 0x100 ≤ off && off < 0x228 then controlWord s p ((off - 0x100) / 8)
  else if 0x400 ≤ off && off < 0x600 then wordAt (logBytes x) (off - 0x400)
  else if off = 0x600 then x.trapcnt
  else if 0x800 ≤ off && off < 0x1400 then wordAt (tget .empty x.images ((off - 0x800) / 48)).bytes ((off - 0x800) % 48)
  else if 0x1800 ≤ off && off < 0x2800 then
    let k := tget { modulus := [], valid := false } x.pubkeys ((off - 0x1800) / 512)
    wordAt (k.bytes ++ leBytes 8 (b2n k.valid)) ((off - 0x1800) % 512)
  else if 0x3000 ≤ off && off < 0x3050 then tget 0 x.ctr ((off - 0x3000) / 8)
  else 0

/-- A counter of a core: IDLECLK is what is left of the clocks of the intervals since module reset (01 R38). -/
def coreCounter (s : State) (c k : Nat) : Nat :=
  let t := (s.core c).ctr
  if k = CoreCtr.idleclk.num then
    (s.modl.intcnt * 600 + 2 ^ 65 - tget 0 t CoreCtr.actclk.num - tget 0 t CoreCtr.waitclk.num) % 2 ^ 64
  else tget 0 t k

/-- The identity certificate (15 R424): DEVID, the modulus, and Relzon's signature over both. -/
def certificate : List Byte :=
  let b := leBytes 8 Config.deviceId.toNat ++ (Config.identityModulus ++ List.replicate 384 0#8).take 384
  b ++ rsaSign Config.relzonModulus Config.relzonExponent b

/-- The report and the identity certificate (15 R424, R428). The nonce reads as it was last written (log entry 106). -/
def reportBytes (s : State) : List Byte :=
  let r := (s.plat.report ++ List.replicate 0x800 0#8).take 0x800
  r.take 0x10 ++ (s.plat.nonce ++ List.replicate 32 0#8).take 32 ++ r.drop 0x30 ++ certificate

/-- The word at an offset of the physical function's BAR0. -/
def pfWord (s : State) (off : Nat) : Nat :=
  if off < 0x10000 then moduleWord s off
  else if off < 0x20000 then portBlockWord s (off - 0x10000)
  else if 0x100000 ≤ off && off < 0x280000 then partWord s ((off - 0x100000) / 0x10000) (off % 0x10000)
  else if 0x300000 ≤ off && off < 0x300400 then (tget 0#64 s.plat.vdbind ((off - 0x300000) / 8)).toNat
  else if 0x400000 ≤ off && off < 0x4C0000 then tget 0 (s.cluster ((off - 0x400000) / 0x1000)).ctr (off % 0x1000 / 8)
  else if 0x800000 ≤ off && off < 0xC80000 then coreCounter s ((off - 0x800000) / 0x400) (off % 0x400 / 8)
  else if 0x1000000 ≤ off && off < 0x1020000 then
    match tget? s.plat.bb.ring ((off - 0x1000000) / 32) with
    | some e => wordAt e.bytes (off % 32)
    | none => 0
  else if 0x1020000 ≤ off && off < 0x1021000 then wordAt (reportBytes s) (off - 0x1020000)
  else 0

/-- The word at an offset of a virtual function's BAR0 (15 R415, R426). -/
def vfWord (s : State) (fn off : Nat) : Nat :=
  let f := s.fn fn
  if off = 8 then f.lstat.toNat
  else if off = 0x100 then f.imgsrc.toNat
  else if off = 0x108 then f.imgdst.toNat
  else if off = 0x110 then f.imglen.toNat
  else if off = 0x118 then b2n f.load.isSome * 2 ^ 63 + f.imgslot
  else 0

/-- The word at an offset of a function's BAR0. -/
def regWord (s : State) (fn off : Nat) : Nat := if fn = physFn then pfWord s off else vfWord s fn off

/-- `n` bytes of a function's BAR0. -/
def regBytes (s : State) (fn off n : Nat) : List Byte :=
  (List.range n).map fun i => BitVec.ofNat 8 (regWord s fn ((off + i) / 8 * 8) / 2 ^ (8 * ((off + i) % 8)))

/-! Writing. -/

/-- Change the controls of a partition. -/
def modRegs (p : Nat) (f : PartRegs → PartRegs) (s : State) : State := s.modPart p fun pt => { pt with regs := f pt.regs }

/-- Is a format-table entry consistent (03 R77)? -/
def ftConsistent (w : W32) : Bool :=
  let n := w.toNat
  let elem := bitsOf n 3 0
  let scale := bitsOf n 12 11
  let group := bitsOf n 14 13
  if !bitOf n 7 then decide (bitsOf n 14 8 = 0 ∧ elem = 0)
  else
    match Elem.ofCode elem with
    | none => false
    | some e =>
      (scale ≠ 1 || e == .e4m3 || e == .e5m2 || e == .e2m1) &&
        (scale ≠ 2 || e == .int8 || e == .int4 || e.isCode) &&
        (scale ≠ 3 || e == .int8 || e == .uint8 || e == .int4 || e == .uint4) &&
        (!e.isCode || scale == 2) && (group == 0 || 2 ≤ scale) && group ≠ 3

/-- FT_WRITE (03 R77): entry `i` is written if it is consistent and no launch is active. Reserved bits are not kept (00 R13). -/
def ftWrite (p i : Nat) (w : W32) (s : State) : State :=
  let v := w &&& 0x7F8F#32
  if i ≥ 16 || activeLaunch s p || !ftConsistent v then s
  else modRegs p (fun r => { r with ft := lmod r.ft i fun _ => v }) s
def execFtWrite (p i : Nat) (w : W32) (s : State) : Answer := .next (ftWrite p i w s)

/-- The pages of a region that have expired keep undefined bytes (13 R374). -/
def expireRegion (p : Nat) (w : W64) (s : State) : State :=
  if !bitOf w.toNat 0 then s
  else (List.range (bitsOf w.toNat 35 8)).foldl (fun s k =>
    let a := lpBase + (s.part p).regs.plp.base + (bitsOf w.toNat 63 36 + k) * 4096
    if s.expired a then s.makeUndef a (a + 4096) else s) s

/-- Is page `k` of the allotment in an enabled region? -/
def inRegion (w : W64) (k : Nat) : Bool := bitOf w.toNat 0 && decide (bitsOf w.toNat 63 36 ≤ k) && decide (k < bitsOf w.toNat 63 36 + bitsOf w.toNat 35 8)

/-- The pages that come into a region that stays enabled are stamped (log entry 74). -/
def stampNew (p : Nat) (old new : W64) (s : State) : State :=
  (List.range (bitsOf new.toNat 35 8)).foldl (fun s i =>
    let k := bitsOf new.toNat 63 36 + i
    if inRegion old k then s
    else { s with attr := { s.attr with stamps := tput s.attr.stamps ((lpBase + (s.part p).regs.plp.base) / 4096 + k) s.modl.intcnt } }) s

/-- TRANS_WRITE (13 R373, R374): region `i`, unless a launch is active or it leaves the allotment; its pages are stamped when EN becomes 1, and else those that are new to it. -/
def transWrite (p i : Nat) (w : W64) (s : State) : State :=
  let v := w &&& ~~~0xFE#64
  let r := (s.part p).regs
  let old := tget 0#64 r.trans i
  if i ≥ 8 || activeLaunch s p || (bitsOf v.toNat 63 36 + bitsOf v.toNat 35 8) * 4096 > r.plp.size || v = old then s
  else
    let s := expireRegion p old s
    let s := if bitOf old.toNat 0 && bitOf v.toNat 0 then stampNew p old v s else s
    modRegs p (fun r => { r with trans := tput r.trans i v, transStamp := if bitOf v.toNat 0 && !bitOf old.toNat 0 then tput r.transStamp i s.modl.intcnt else r.transStamp }) s
def execTransWrite (p i : Nat) (w : W64) (s : State) : Answer := .next (transWrite p i w s)

/-- May the layout of a partition be written (14 R391): it has no active and no held launch, and is in no migration? -/
def layoutFree (s : State) (p : Nat) : Bool := !activeLaunch s p && (s.part p).held.isNone && migWritable s p

/-- PCLUSk (14 R391): no cluster goes to two partitions. -/
def clusWrite (p k : Nat) (w : W64) (s : State) : State :=
  let v : BitVec 192 := w.zeroExtend 192 <<< (64 * k)
  let others := (List.range 24).foldl (fun m q => if q = p then m else m ||| (s.part q).regs.pclus) 0#192
  if !layoutFree s p || v &&& others ≠ 0#192 then s
  else modRegs p (fun r => { r with pclus := (r.pclus &&& ~~~(0xFFFFFFFFFFFFFFFF#192 <<< (64 * k))) ||| v }) s

/-- An allotment register (14 R391): within its memory, and of no byte of another partition; `get` picks the register. -/
def allotWrite (p limit : Nat) (get : PartRegs → Allot) (put : PartRegs → Allot → PartRegs) (w : W64) (s : State) : State :=
  let a : Allot := { base := bitsOf w.toNat 39 16 * 0x10000, size := bitsOf w.toNat 63 40 * 0x10000 }
  let clash := (List.range 24).any fun q => q ≠ p && meet a.base a.size (get (s.part q).regs).base (get (s.part q).regs).size && a.size ≠ 0 && (get (s.part q).regs).size ≠ 0
  if !layoutFree s p || a.base + a.size > limit * 0x10000 || clash then s
  else modRegs p (fun r => put r a) s

/-- A write of PCTL (14 R394): PTIMEOUT, TOUT, then the actions. -/
def pctlWrite (p : Nat) (w : W64) (s : State) : State :=
  let n := w.toNat
  let s := modRegs p (fun r => { r with ptimeout := bitsOf n 47 32, tout := r.tout && !bitOf n 8 }) s
  let s := if bitOf n 2 then hostDiscard p s else s
  let s := if bitOf n 1 then resume p s else s
  if bitOf n 0 then preempt p s else s
/-- PREEMPT (14 R394): a write of PCTL with PREEMPT. -/
def execPreempt (p : Nat) (w : W64) (s : State) : Answer := .next (pctlWrite p (w ||| 1#64) s)
/-- RESUME (14 R400): a write of PCTL with RESUME. -/
def execResume (p : Nat) (w : W64) (s : State) : Answer := .next (pctlWrite p (w ||| 2#64) s)
/-- DISCARD (14 R394): a write of PCTL with DISCARD. -/
def execDiscard (p : Nat) (w : W64) (s : State) : Answer := .next (pctlWrite p (w ||| 4#64) s)

/-- DDRSTATE (08 R236). -/
def ddrWrite (p : Nat) (w : W64) (s : State) : State :=
  modRegs p (fun r => { r with ddOvf := r.ddOvf && !bitOf w.toNat 63, ddCount := bitsOf w.toNat 52 32, ddHead := bitsOf w.toNat 19 0 }) s

/-- The state after an answer that is a next state. -/
def afterAnswer (r : Answer) (s : State) : State := match r with | .next s' => s' | _ => s

/-- A write of control register `i` of a partition block (08 R223-R236; 12 R347; 13 R373; 14 R381-R402). Whether the other end of a migration is ready, which MIGCTL_GO says itself, is open here. -/
def controlWrite (p i : Nat) (w : W64) (s : State) : State :=
  let busy := activeLaunch s p
  let idle (f : PartRegs → PartRegs) : State := if busy then s else modRegs p f s
  let loc : W64 := w &&& 0xFFFFFFFFFFFFF001#64
  let ring : W64 := w &&& 0xFFFFFFFFFFFFF03F#64
  if i = 0 then idle fun r => { r with dptroot := loc }
  else if i = 1 then afterAnswer (execCeinv p w s) s
  else if i = 2 then idle fun r => { r with ddtab := ring }
  else if i = 3 then idle fun r => { r with ddring := ring }
  else if i = 4 then (if busy then s else ddrWrite p w s)
  else if i = 5 then afterAnswer (execFradd p w s) s
  else if i = 6 then idle fun r => { r with cwspill := ring }
  else if i = 7 then (if s.modl.mstate = 3 && !bitOf w.toNat 0 then s else idle fun r => { r with hdr := bitOf w.toNat 0 })
  else if i < 16 then transWrite p (i - 8) w s
  else if i = 16 then modRegs p (fun r => { r with brken := bitOf w.toNat 0 }) s
  else if i = 17 then afterAnswer (execBrkgo p w s) s
  else if i = 18 then (if busy || (s.part p).held.isSome then s else modRegs p (fun r => { r with svcq := loc }) s)
  else if i = 20 then afterAnswer (execSvcdone p (bitsOf w.toNat 5 0) s) s
  else if i = 21 then pctlWrite p w s
  else if i = 22 then modRegs p (fun r => { r with susparea := loc }) s
  else if i = 23 then (if bitOf w.toNat 0 && migWritable s p then migGo p (Config.freeBit s.freeCtr 0) (writeMigctl p w s).drawn else writeMigctl p w s)
  else if i = 24 then (if migWritable s p then s.modPart p fun pt => { pt with mig := { pt.mig with pmap := bitsOf w.toNat 31 0 } } else s)
  else if i = 19 then s
  else if i < 28 then clusWrite p (i - 25) w s
  else if i < 32 then allotWrite p 32768 (fun r => r.pdie.getD (i - 28) .none) (fun r a => { r with pdie := lmod r.pdie (i - 28) fun _ => a }) w s
  else if i < 36 then allotWrite p 65536 (fun r => r.pwb.getD (i - 32) .none) (fun r a => { r with pwb := lmod r.pwb (i - 32) fun _ => a }) w s
  else if i = 36 then allotWrite p 12582912 (·.plp) (fun r a => { r with plp := a }) w s
  else s

/-- Replace 8 bytes of a list. -/
def spliceWord (bs : List Byte) (off : Nat) (w : W64) : List Byte := bs.take off ++ leBytes 8 w.toNat ++ bs.drop (off + 8)

/-- A write in a key slot (15 R425). -/
def keyWrite (p j off : Nat) (w : W64) (s : State) : State :=
  s.modPart p fun pt =>
    let k := tget { modulus := [], valid := false } pt.pubkeys j
    let k := if off = 0x180 then { k with valid := bitOf w.toNat 0 } else if off < 0x180 then { k with modulus := spliceWord k.bytes off w } else k
    { pt with pubkeys := tput pt.pubkeys j k }

/-- A write in a partition block (15 R413). -/
def partWrite (p off : Nat) (w : W64) (s : State) : State :=
  if off < 0x40 then ftWrite p (off / 4 + 1) (BitVec.ofNat 32 (w.toNat / 2 ^ 32)) (ftWrite p (off / 4) (BitVec.ofNat 32 w.toNat) s)
  else if 0x100 ≤ off && off < 0x228 then controlWrite p ((off - 0x100) / 8) w s
  else if 0x1800 ≤ off && off < 0x2800 then keyWrite p ((off - 0x1800) / 512) ((off - 0x1800) % 512) w s
  else s

/-- A write in the module block (15 R409, R417, R421, R428). -/
def moduleWrite (off : Nat) (w : W64) (s : State) : State :=
  let n := w.toNat
  if off = 8 then (if bitOf n 7 then moduleReset s else if bitOf n 6 then enterService s else s)
  else if off = 0x100 then (if 1000 ≤ bitsOf n 10 0 && bitsOf n 10 0 ≤ 1800 then s.modPlat fun x => { x with budget := bitsOf n 10 0 } else s)
  else if off = 0x200 then s.modPlat fun x => { x with bb := { x.bb with freeze := bitOf n 31, lost := x.bb.lost &&& (2 ^ 19 - 1 - bitsOf n 30 12) } }
  else if off = 0x300 then (if bitOf n 0 then s.modPlat fun x => { x with attBusy := true } else s)
  else s

/-- VDBINDn (14 R393): it stays while the device has a launch submitted, active, held or migrating. -/
def bindWrite (fn : Nat) (w : W64) (s : State) : State :=
  let busy := (List.range 24).any fun p =>
    let x := s.part p
    x.waiting.any (·.fn == fn) || (match x.launch with | some l => l.fn == fn | none => false) ||
      (match x.held with | some h => h.launch.fn == fn | none => false) || (match x.mig.left with | some l => l.fn == fn | none => false)
  if busy then s else s.modPlat fun x => { x with vdbind := tput x.vdbind fn (w &&& 0x3F#64) }

/-- The nonce (15 R428). -/
def nonceWrite (off : Nat) (w : W64) (s : State) : State :=
  if s.plat.attBusy then s else s.modPlat fun x => { x with nonce := spliceWord ((x.nonce ++ List.replicate 32 0#8).take 32) off w }

/-- A write of a word of the physical function's BAR0. -/
def pfWrite (off : Nat) (w : W64) (s : State) : State :=
  if off < 0x10000 then moduleWrite off w s
  else if off < 0x10040 then writePort ((off - 0x10000) / 8) w s
  else if 0x100000 ≤ off && off < 0x280000 then partWrite ((off - 0x100000) / 0x10000) (off % 0x10000) w s
  else if 0x300000 ≤ off && off < 0x300400 then bindWrite ((off - 0x300000) / 8) w s
  else if 0x1020010 ≤ off && off < 0x1020030 then nonceWrite (off - 0x1020010) w s
  else s

/-- A write of a word of a virtual function's BAR0. -/
def vfWrite (fn off : Nat) (w : W64) (s : State) : State :=
  if off = 0 then submit fn w s
  else if off = 0x100 then s.modFn fn fun f => { f with imgsrc := w }
  else if off = 0x108 then s.modFn fn fun f => { f with imgdst := w }
  else if off = 0x110 then s.modFn fn fun f => { f with imglen := w }
  else if off = 0x118 then imgctlWrite fn w s
  else s

/-- A write of a word of a function's BAR0, at an offset that is a multiple of 8. -/
def regWrite (fn off : Nat) (w : W64) (s : State) : State := if fn = physFn then pfWrite off w s else vfWrite fn off w s

/-- REGISTER_WRITE (00 R13): a register is written whole. -/
def execRegisterWrite (fn off : Nat) (w : W64) (s : State) : Answer := .next (if off % 8 = 0 then regWrite fn off w s else s)

end Sys2Proof.Machine
end

