-- ==== Sys2Proof/Machine/HostAccess.lean ====
section
/-! DEFINITION. Accesses of the host and of peers through the BARs, AtomicOps, ATS invalidations (spec/13_links_and_kerf.md R353-R356, R374; spec/14 R389, R405; spec/15 R409, R412, R415). -/

namespace Sys2Proof.Machine

open Sys2Proof

/-! BAR2 of a virtual function (15 R415). -/

/-- The byte of the flat space that an offset maps; none outside the partition. -/
def bar2Byte (s : State) (p off : Nat) : Option Nat :=
  let r := (s.part p).regs
  let inside (base : Nat) (a : Allot) (o : Nat) : Option Nat := if o < a.size then some (base + a.base + o) else none
  if off < 0x200000000 then
    let st := off / 0x80000000
    inside (dieBase st) (r.pdie.getD st .none) (off % 0x80000000)
  else if off < 0xA00000000 then
    let o := off - 0x200000000
    let st := o / 0x200000000
    inside (bankBase st (o % 0x200000000 / 0x100000000)) (r.pwb.getD st .none) (o % 0x100000000)
  else if 0xC00000000 ≤ off && off < 0xCC0000000 then
    let g := (off - 0xC00000000) / 0x1000000
    if s.hasCluster p g then some (clusBase g + off % 0x1000000) else none
  else if 0xE00000000 ≤ off && off < 0xE90000000 then
    let c := (off - 0xE00000000) / 0x80000
    if s.hasCore p c then some (unitBase c + off % 0x80000) else none
  else if 0x10000000000 ≤ off then inside lpBase r.plp (off - 0x10000000000)
  else none

/-- The flat address of `n` bytes that a BAR2 maps in one memory. -/
def bar2Range (s : State) (p off n : Nat) : Option Nat :=
  match bar2Byte s p off, bar2Byte s p (off + (n - 1)) with
  | some a, some b => if b = a + (n - 1) then some a else none
  | _, _ => none

/-- Does a function's memory space answer (13 R355; 15 R409)? In FWFAIL only the module block does. -/
def answers (s : State) (fn bar off : Nat) : Bool := !(s.fn fn).d3 && (s.modl.mstate ≠ 1 || (fn == physFn && bar == 0 && decide (off < 0x10000)))

/-- Answer a request of the host with Unsupported Request, or with Completer Abort: the function records it for Advanced Error Reporting, a non-posted one as an advisory error too (13 R352, R353; log entry 98). -/
def unsupported (fn : Nat) (posted : Bool) (s : State) : State :=
  (s.modFn fn fun f => { f with aer := { f.aer with unsupported := true, advisory := f.aer.advisory || !posted } }).send (.unsupported fn)
def aborted (fn : Nat) (posted : Bool) (s : State) : State :=
  (s.modFn fn fun f => { f with aer := { f.aer with abort := true, advisory := f.aer.advisory || !posted } }).send (.abort fn)

/-- How an access to memory stands before it is performed. -/
inductive HostStand where
  | unsupported
  | abort
  /-- Moved to another device (14 R405). -/
  | moved
  /-- It waits for its page (14 R405). -/
  | waits
  | ready (p a : Nat)
deriving DecidableEq, Repr

/-- Where an access of `n` bytes stands; a read meets units in error and expired pages (14 R389; 13 R374). -/
def hostStand (s : State) (fn off n : Nat) (reads : Bool) : HostStand :=
  match s.boundTo fn with
  | none => .unsupported
  | some p =>
    match bar2Range s p off n with
    | none => .unsupported
    | some a =>
      if !s.ownedRange a n then (if (s.part p).mig.state = .serving then .moved else .waits)
      else if (busyUnit s a n).isSome then .unsupported
      else if reads && (s.eccHit a n || s.expired a || s.expired (a + (n - 1))) then .abort
      else .ready p a

/-- Write in aligned pieces of up to 8 bytes (13 R353). -/
def writePieces : Nat → Nat → List Byte → State → State
  | 0, _, _, s => s
  | k + 1, a, bs, s =>
    match bs with
    | [] => s
    | _ => let n := 8 - a % 8; writePieces k (a + n) (bs.drop n) (s.write a (bs.take n))

/-- An access through BAR2. -/
def memoryAccess (fn : Nat) (write : Bool) (off n : Nat) (data : List Byte) (s : State) : State :=
  let n := if write then data.length else n
  if n = 0 then (if write then s else s.send (.completion fn []))
  else match hostStand s fn off n (!write) with
    | .unsupported => unsupported fn write s
    | .abort => aborted fn write s
    | .moved => (aborted fn write s).partCtr ((s.boundTo fn).getD 0) .moved 1
    | .waits => s
    | .ready _ a => if write then writePieces n a data s else s.send (.completion fn (s.bytes a n))

/-- Write bytes of BAR0: whole registers, of 64 bits or of 32 for the format table, have their effect. -/
def regWrites (fn : Nat) : Nat → Nat → List Byte → State → State
  | 0, _, _, s => s
  | k + 1, off, bs, s =>
    let ft := fn == physFn && decide (0x100000 ≤ off) && decide (off < 0x280000) && decide (off % 0x10000 < 0x40)
    if bs.isEmpty then s
    else if ft && off % 4 == 0 && decide (4 ≤ bs.length) then
      regWrites fn k (off + 4) (bs.drop 4) (ftWrite ((off - 0x100000) / 0x10000) (off % 0x10000 / 4) (BitVec.ofNat 32 (leValue (bs.take 4))) s)
    else if !ft && off % 8 == 0 && decide (8 ≤ bs.length) then
      regWrites fn k (off + 8) (bs.drop 8) (regWrite fn off (BitVec.ofNat 64 (leValue (bs.take 8))) s)
    else regWrites fn k (off + 1) (bs.drop 1) s

/-- Size of a BAR: 64 MiB and 4 KiB for BAR0, 2 TiB for BAR2 (15 R412, R415). -/
def barSize (fn bar : Nat) : Nat :=
  if bar = 0 then (if fn = physFn then 2 ^ 26 else 2 ^ 12) else if bar = 2 && fn < 128 then 2 ^ 41 else 0

/-- HOST_ACCESS (13 R353): a read of `n` bytes, or a write, through a BAR of a function. -/
def hostAccess (fn bar : Nat) (write : Bool) (off n : Nat) (data : List Byte) (s : State) : State :=
  let len := if write then data.length else n
  if !answers s fn bar off || off + len > barSize fn bar then unsupported fn write s
  else if bar = 2 then memoryAccess fn write off n data s
  else if write then regWrites fn len off data s
  else s.send (.completion fn (regBytes s fn off n))
/-- HOST_ACCESS (13 R353) -/
def execHostAccess (fn bar : Nat) (write : Bool) (off n : Nat) (data : List Byte) (s : State) : Answer := .next (hostAccess fn bar write off n data s)

/-- The atomic of an AtomicOp: FetchAdd, Swap, CAS (13 R352). -/
def hostAtomic (kind : Nat) : Option AtomicOp :=
  match kind with
  | 0 => some .add
  | 1 => some .swp
  | 2 => some .cas
  | _ => none

/-- ATOMICOP (13 R353): performed as the relaxed atomic of its kind and width; one on a page that has moved is forwarded to its owner, whose result `owner` comes back (14 R405). For CAS, `opd` is compared and `swap` written. -/
def atomicOp (fn kind n off : Nat) (opd swap owner : W64) (s : State) : State :=
  match hostAtomic kind with
  | none => unsupported fn false s
  | some op =>
    if !answers s fn 2 off || (n ≠ 4 && n ≠ 8) || off % n ≠ 0 || off + n > barSize fn 2 then unsupported fn false s
    else match hostStand s fn off n true with
      | .unsupported => unsupported fn false s
      | .abort => aborted fn false s
      | .moved =>
        let m := (s.part ((s.boundTo fn).getD 0)).mig
        (s.sendPort m.port .forwardAtomic [kind, n, off, opd.toNat, swap.toNat] []).send (.completion fn (leBytes n owner.toNat))
      | .waits => s
      | .ready _ a =>
        let old := s.value a n
        let s := match atomicNew op (8 * n) old (opd.toNat % 2 ^ (8 * n)) swap.toNat with
          | some v => s.write a (leBytes n v)
          | none => s
        s.send (.completion fn (leBytes n old))
/-- ATOMICOP (13 R353) -/
def execAtomicop (fn kind n off : Nat) (opd swap owner : W64) (s : State) : Answer := .next (atomicOp fn kind n off opd swap owner s)

/-- ATS_INVALIDATION (13 R354): the translations of `n` pages of a function's host memory are dropped, and the invalidation is answered. -/
def atsInvalidation (fn page n : Nat) (s : State) : State :=
  let hit (p : Nat) (t : TlbEntry) : Bool := t.part == p && locTgt t.leaf == 6 && meet (locOff t.leaf / 4096) t.pages page n
  let s : State := match s.boundTo fn with
    | some p => s.filterTlb fun t => !hit p t
    | none => s
  s.send (.invalidated fn)
/-- ATS_INVALIDATION (13 R354) -/
def execAtsInvalidation (fn page n : Nat) (s : State) : Answer := .next (atsInvalidation fn page n s)

end Sys2Proof.Machine
end

