-- ==== Sys2Proof/Machine/MaskTile.lean ====
section
/-! DEFINITION. Mask instructions, major 0x2E, and tile registers and partial-sum latches, major 0x2F (spec/07_vector_unit.md R179, R186, R189). -/

namespace Sys2Proof.Machine

open Sys2Proof

/-- A mask instruction (R179): cross-row, C = 1, no masked form; bits from VL on follow the tail policy. -/
def maskWord (g : Guard) (lc : BitVec 3) (md : MReg) (srcs : List MReg) (f : Bool → Bool → Bool) (s : State) : Answer :=
  issue (exe g (.mdst md :: srcs.map .msrc)) s fun c s =>
    let v := s.vecOf c.a
    let cfg := v.vcfg
    if !((md :: srcs).all fun m => m.val % cfgG cfg == 0) then err .vgroup
    else
      let t := s.task c.a
      let T := t.x.clk
      let fr := s.freeCtr
      let r := vrange cfg false
      let rd (i e : Nat) : Bool := match srcs[i]? with | some m => mread t v m.val e T (fr + i) | none => false
      let res := (r.below (cfgVL cfg)).map fun e => (e, f (rd 0 e) (rd 1 e))
      .ok (vecDone c false 1 (maskResult c md cfg r .crossRow 1 (lcBound lc) (fr + 2) res [] s))

/-- MAND (R179) -/
def execMand (g : Guard) (lc : BitVec 3) (md ma mb : MReg) (s : State) : Answer := maskWord g lc md [ma, mb] (fun x y => x && y) s
/-- MOR (R179) -/
def execMor (g : Guard) (lc : BitVec 3) (md ma mb : MReg) (s : State) : Answer := maskWord g lc md [ma, mb] (fun x y => x || y) s
/-- MXOR (R179) -/
def execMxor (g : Guard) (lc : BitVec 3) (md ma mb : MReg) (s : State) : Answer := maskWord g lc md [ma, mb] (fun x y => x != y) s
/-- MANDN (R179) -/
def execMandn (g : Guard) (lc : BitVec 3) (md ma mb : MReg) (s : State) : Answer := maskWord g lc md [ma, mb] (fun x y => x && !y) s
/-- MNOT (R179) -/
def execMnot (g : Guard) (lc : BitVec 3) (md ma : MReg) (s : State) : Answer := maskWord g lc md [ma] (fun x _ => !x) s
/-- MSET (R179) -/
def execMset (g : Guard) (lc : BitVec 3) (md : MReg) (s : State) : Answer := maskWord g lc md [] (fun _ _ => true) s
/-- MCLR (R179) -/
def execMclr (g : Guard) (lc : BitVec 3) (md : MReg) (s : State) : Answer := maskWord g lc md [] (fun _ _ => false) s
/-- MMOV (R179) -/
def execMmov (g : Guard) (lc : BitVec 3) (md ma : MReg) (s : State) : Answer := maskWord g lc md [ma] (fun x _ => x) s

/-- Element of tile `t` at row r, column k, read at clock `at_`. -/
def tread (k : Task) (v : VecState) (t r col at_ fr : Nat) : W32 :=
  if early k (keyT t r) at_ then Config.freeElem fr (64 * r + col) else tget 0#32 (tget [] v.t t) (64 * r + col)

/-- The 1,024 pairs of a row and a column of a quarter. -/
def quarter : List (Nat × Nat) := (List.range 16).flatMap fun i => (List.range 64).map fun col => (i, col)

/-- TWR (R186): row-wise, C = 16; VL, masks and LG are ignored. -/
def execTwr (g : Guard) (lc : BitVec 3) (t : Tile) (va : VReg) (s : State) : Answer :=
  issuePure { exe g [.tdst t, .vsrc va] with shape := va.isV } s fun c s =>
    let v := s.vecOf c.a
    let k := s.task c.a
    let T := k.x.clk
    let fr := s.freeCtr
    let q := cfgTWC v.vcfg t.val
    let ws := quarter.map fun ic => (64 * (16 * q + ic.1) + ic.2, vread k v (vIndex va) (64 * ic.1 + ic.2) (T + ic.1) fr)
    let s := s.modVec c.a fun v =>
      { v with
        t := tmod [] v.t t.val fun tb => tputAll tb ws
        vcfg := cfgSet v.vcfg (41 + 4 * t.val) (40 + 4 * t.val) (q + 1) }
    vecDone c false 16 (s.modTask c.a fun k =>
      (List.range 16).foldl (fun k i => bound k (keyT t.val (16 * q + i)) (T + i + lcBound lc)) k)

/-- TRD (R186): cross-row, C = 16. -/
def execTrd (g : Guard) (lc : BitVec 3) (vd : VReg) (t : Tile) (s : State) : Answer :=
  issuePure { exe g [.vdst vd, .tsrc t] with shape := vd.isV } s fun c s =>
    let v := s.vecOf c.a
    let k := s.task c.a
    let T := k.x.clk
    let fr := s.freeCtr
    let q := cfgTRC v.vcfg t.val
    let ws := quarter.map fun ic => (64 * ic.1 + ic.2, tread k v t.val ic.2 (16 * q + ic.1) T fr)
    let s := s.modVec c.a fun v => { v with vcfg := cfgSet v.vcfg (43 + 4 * t.val) (42 + 4 * t.val) (q + 1) }
    vecDone c false 16 ((groupResult c (vIndex vd) { base := 0, count := 1024 } .crossRow 16 (lcBound lc) (fr + 2) ws [] s).modTask c.a fun k =>
      bound k (keyTrd t.val) (T + 15 + lcBound lc))

/-- One element added to the latch column (R189). -/
def latchAdd (m : RMode) (acc : Table W32 × Flags) (cx : Nat × W32) : Table W32 × Flags :=
  let (z, fl) := fadd (tget 0#32 acc.1 cx.1) cx.2 m
  (tput acc.1 cx.1 z, acc.2 ||| fl)

/-- PSADD (R189): the covered rows in ascending order; exempt from R165 for the latch. -/
def execPsadd (g : Guard) (lc : BitVec 3) (ps : Latch) (va : VReg) (s : State) : Answer :=
  issue (exe g [.ldst ps, .vsrc va]) s fun c s =>
    let v := s.vecOf c.a
    let cfg := v.vcfg
    if !groupOk (cfgG cfg) va then err .vgroup
    else
      let queue := vIsQueue va
      let r := vrange cfg queue
      let C := r.rows (cfgVL cfg)
      let fr := s.freeCtr
      let (a, s) := vsource c va r.base fr s
      let t := s.task c.a
      let T := t.x.clk
      let xs := (r.below (cfgVL cfg)).map fun e => (e % 64, elemAt t v a r .rowWise T C e)
      let (l, fl) := xs.foldl (latchAdd (fsrMode v.fsr)) (tget [] v.ps ps.val, 0#6)
      let s := orFlags c fl (s.modVec c.a fun v => { v with ps := tput v.ps ps.val l })
      .ok (vecDone c queue C (s.modTask c.a fun t => bound t (keyL ps.val) (T + Nat.max 1 C - 1 + lcBound lc)))

/-- PSRD (R189): row 0 of vd, or the first row of a vqs entry; it neither uses nor advances RGC (R166). -/
def execPsrd (g : Guard) (lc : BitVec 3) (vd : VReg) (ps : Latch) (s : State) : Answer :=
  issue (exe g [.vdst vd, .lsrc ps]) s fun c s =>
    let v := s.vecOf c.a
    if !groupOk (cfgG v.vcfg) vd then err .vgroup
    else
      let t := s.task c.a
      let fr := s.freeCtr
      let row := (List.range 64).map fun col =>
        (col, if early t (keyL ps.val) t.x.clk then Config.freeElem fr col else tget 0#32 (tget [] v.ps ps.val) col)
      let s := match vd with
        | .v d => groupResult c d.val { base := 0, count := 1024 } .crossRow 1 (lcBound lc) (fr + 2) row
            ((List.range 960).map (64 + ·)) s
        | _ => pushVqs c row (BitVec.ofNat 256 (2 ^ 64 - 1)) s
      .ok (vecDone c false 1 s)

/-- PSCLR (R189) -/
def execPsclr (g : Guard) (lc : BitVec 3) (ps : Latch) (s : State) : Answer :=
  issuePure (exe g [.ldst ps]) s fun c s =>
    let T := (s.task c.a).x.clk
    vecDone c false 1 ((s.modVec c.a fun v => { v with ps := tput v.ps ps.val [] }).modTask c.a fun t => bound t (keyL ps.val) (T + lcBound lc))

end Sys2Proof.Machine
end

