-- ==== Sys2Proof/Machine/MicroOrder.lean ====
section
/-! DEFINITION. Micro-order loading and the run state of the engines, major 0x34 (spec/09_weight_banks_bucket_engine.md R265, R272). -/

namespace Sys2Proof.Machine

open Sys2Proof

/-- The words of a 1,024-byte table, entry by entry; entries of 0 are not listed. -/
def tableWords (bs : List Byte) : Table W32 :=
  (List.range 256).foldl (fun t i => tput t i (BitVec.ofNat 32 (leValue ((bs.drop (4 * i)).take 4)))) []

/-- The effect of a micro-order instruction on one engine: it is stopped, then its store or base is set. -/
def setStore (core : Nat) (dense : Bool) (w : Table W32) (s : State) : State :=
  if dense then s.modDn core fun e => { e with run := false, store := w } else s.modBk core fun e => { e with run := false, store := w }
def setBase (core : Nat) (dense : Bool) (b : Nat) (s : State) : State :=
  if dense then s.modDn core fun e => { e with run := false, base := b } else s.modBk core fun e => { e with run := false, base := b }
def setRun (core : Nat) (dense : Bool) (r : Bool) (s : State) : State :=
  if dense then s.modDn core fun e => { e with run := r } else s.modBk core fun e => { e with run := r }

/-- The depth of a queued BKRUN from the store as it stands and the G that it read at acceptance (R272). -/
def bkRedepth (e : BucketEng) (c : BkCmd) : BkCmd :=
  match c.op with
  | .run r => { c with depth := walkDepth e.store r.g 1024 ((e.base + r.entry) % 256) }
  | _ => c

/-- The first queued command at which the sum of depths exceeds a limit. -/
def firstOver (limit : Nat) : Nat → List BkCmd → Option BkCmd
  | _, [] => none
  | sum, c :: r => if sum + c.depth > limit then some c else firstOver limit (sum + c.depth) r

/-- MOSTART of the bucket engine: it runs; the depths of queued BKRUNs are computed anew, and BKDEPTH is raised when their sum is too great (R272). -/
def startBucket (core : Nat) (s : State) : State :=
  let s := s.modBk core fun e => { e with run := true, queue := e.queue.map (bkRedepth e) }
  let e := (s.engOf core).bk
  match firstOver (maxDepth core s) ((e.ended.map (·.depth)).foldl (· + ·) 0) e.queue with
  | some c => raiseTrap (.execute core) { bkInfo .bucket e .bkdepth 9 0 0 0 with cmd := some c.tag.idx } false none s
  | none => s

/-- MOLOAD (R265): the engine stops and its store is loaded from 1,024 bytes. -/
def execMoload (g : Guard) (a b : Scalar) (s : State) : Answer :=
  issue (acc g [.src a, .src b]) s fun c s => do
    let core := c.a.core?.getD 0
    let (x, s) := readScalar c a s
    let (y, s) := readScalar c b s
    if y.toNat ≥ 2 then err .mobad
    if x.toNat % 1024 ≠ 0 then errAt .misalign x.toNat
    match translate s c.a (s.task c.a) x .load with
    | .error e => errAt e x.toNat
    | .ok tgt =>
      let bs ← innerRead c x tgt 1024 s
      return setStore core (bitOf y.toNat 0) (tableWords bs) (countRead c x s)
/-- MOBASE (R265) -/
def execMobase (g : Guard) (a b : Scalar) (s : State) : Answer :=
  issue (acc g [.src a, .src b]) s fun c s =>
    let core := c.a.core?.getD 0
    let (x, s) := readScalar c a s
    let (y, s) := readScalar c b s
    if x.toNat ≥ 256 || y.toNat ≥ 2 then err .mobad else .ok (setBase core (bitOf y.toNat 0) x.toNat s)
/-- MOSTART (R265, R272) -/
def execMostart (g : Guard) (a : Scalar) (s : State) : Answer :=
  issue (acc g [.src a]) s fun c s =>
    let core := c.a.core?.getD 0
    let (x, s) := readScalar c a s
    if x.toNat ≥ 2 then err .mobad
    else .ok (if bitOf x.toNat 0 then setRun core true true s else startBucket core s)
/-- MOSTOP (R265) -/
def execMostop (g : Guard) (a : Scalar) (s : State) : Answer :=
  issue (acc g [.src a]) s fun c s =>
    let (x, s) := readScalar c a s
    if x.toNat ≥ 2 then err .mobad else .ok (setRun (c.a.core?.getD 0) (bitOf x.toNat 0) false s)

end Sys2Proof.Machine
end

