-- ==== Sys2Proof/Machine/Predicate.lean ====
section
/-! DEFINITION. Predicate logic, major 0x06, in both streams (spec/04_scalar_registers_and_control.md R104). -/

namespace Sys2Proof.Machine

open Sys2Proof

/-- pd := f pa pb. -/
def predBinary (g : Guard) (pd pa pb : Pred) (f : Bool → Bool → Bool) (s : State) : Answer :=
  issuePure (both g [.pdst pd, .psrc pa, .psrc pb]) s fun c s =>
    let (x, s) := readPred c pa s
    let (y, s) := readPred c pb s
    writePred c pd (f x y) s

/-- pd := v. -/
def predConst (g : Guard) (pd : Pred) (v : Bool) (s : State) : Answer :=
  issuePure (both g [.pdst pd]) s fun c s => writePred c pd v s

/-- PAND (R104) -/
def execPand (g : Guard) (pd pa pb : Pred) (s : State) : Answer := predBinary g pd pa pb (fun x y => x && y) s
/-- POR (R104) -/
def execPor (g : Guard) (pd pa pb : Pred) (s : State) : Answer := predBinary g pd pa pb (fun x y => x || y) s
/-- PXOR (R104) -/
def execPxor (g : Guard) (pd pa pb : Pred) (s : State) : Answer := predBinary g pd pa pb (fun x y => x != y) s
/-- PANDN (R104) -/
def execPandn (g : Guard) (pd pa pb : Pred) (s : State) : Answer := predBinary g pd pa pb (fun x y => x && !y) s
/-- PORN (R104) -/
def execPorn (g : Guard) (pd pa pb : Pred) (s : State) : Answer := predBinary g pd pa pb (fun x y => x || !y) s
/-- PNOT (R104) -/
def execPnot (g : Guard) (pd pa : Pred) (s : State) : Answer :=
  issuePure (both g [.pdst pd, .psrc pa]) s fun c s =>
    let (x, s) := readPred c pa s
    writePred c pd (!x) s
/-- PSET (R104) -/
def execPset (g : Guard) (pd : Pred) (s : State) : Answer := predConst g pd true s
/-- PCLR (R104) -/
def execPclr (g : Guard) (pd : Pred) (s : State) : Answer := predConst g pd false s

end Sys2Proof.Machine
end

