-- ==== Sys2Proof/Machine/QueueXfer.lean ====
section
/-! DEFINITION. Queue transfers between the streams, majors 0x0A and 0x0B (spec/04_scalar_registers_and_control.md R95-R97, R110, R111). -/

namespace Sys2Proof.Machine

open Sys2Proof

/-- CQPUSH (R110): pushes 64 bits onto the constant queue of 16 entries; discarded when the execute stream has ended (R97). -/
def execCqpush (g : Guard) (a : Scalar) (s : State) : Answer :=
  issue (acc g [.src a]) s fun c s => do
    let t := s.task c.a
    pushRoom t.x.ended t.q.cq.length 16
    let (v, s) := readScalar c a s
    return if t.x.ended then s
      else s.modTask c.a fun t => { t with q := { t.q with cq := t.q.cq ++ [{ seq := c.seq, val := some v }] } }
/-- CQPOP (R110) -/
def execCqpop (g : Guard) (d : SDst) (s : State) : Answer :=
  issue (exe g [.dst d]) s fun c s => do
    let t := s.task c.a
    popCheck t.a.ended t.q.cq.isEmpty ((t.q.cq.head?.map fun e => entryReady c.a t e.seq e.val.isSome).getD false)
    let v := (t.q.cq.head?.bind (·.val)).getD 0#64
    return writeDst c d 1 v (s.modTask c.a fun t => { t with q := { t.q with cq := t.q.cq.tail } })
/-- PQPUSH (R111): discarded when the access stream has ended (R97). -/
def execPqpush (g : Guard) (pa : Pred) (s : State) : Answer :=
  issue (exe g [.psrc pa]) s fun c s => do
    let t := s.task c.a
    pushRoom t.a.ended t.q.pq.length 32
    let (v, s) := readPred c pa s
    return if t.a.ended then s else s.modTask c.a fun t => { t with q := { t.q with pq := t.q.pq ++ [v] } }
/-- PQPOP (R111) -/
def execPqpop (g : Guard) (pd : Pred) (s : State) : Answer :=
  issue (acc g [.pdst pd]) s fun c s =>
    let t := s.task c.a
    match t.q.pq with
    | [] => if t.x.ended then err .qunderrun else holdFor .pqEmpty
    | v :: r => .ok (writePred c pd v (s.modTask c.a fun t => { t with q := { t.q with pq := r } }))

end Sys2Proof.Machine
end

