-- ==== Sys2Proof/Machine/Rings.lean ====
section
/-! DEFINITION. Reorder rings, major 0x1D (spec/11_jigs_queues_timetables.md R325, R326). -/

namespace Sys2Proof.Machine

open Sys2Proof

/-- Is `n` a power of two from 1 to 65,536? -/
def slotsOk (n : Nat) : Bool := (List.range 17).any fun i => n == 2 ^ i

/-- Bytes of a ring of `n` slots. -/
def ringBytes (n : Nat) : Nat := 0x40 + 40 * n

/-- A ring as a word finds it: flat address, the bytes left in its window entry, NSLOT, TKT, HEAD. -/
structure RingView where
  base : Nat
  va : W64
  room : Nat
  nslot : Nat
  tkt : Nat
  head : Nat
deriving DecidableEq, Repr

/-- What an access of a ring's bytes meets at their home is an error raised there (14 R377; log entry 97). -/
def atHome (r : Option TrapInfo) : Except Stop Unit := match r with | some i => .error (.trap { i with home := true }) | none => .ok ()

/-- Reach a ring at its home (R326): the errors of R131, then the turn of the word among its task's accesses. -/
def ringReach (c : Ctx) (va : W64) (s : State) : Except Stop RingView := do
  let e ← orTrap (checkAccess c va 64 64 .atomic s)
  match translateEntry (s.task c.a).window c.a.core?.isNone va .atomic, e.tgt with
  | .ok (en, off), .byte b =>
    let room := en.toff * 4096 + en.bytes - off
    innerTurn c va e.tgt 64 s
    atHome (readTrap s c.a e)
    return { base := b, va := va, room := room, nslot := s.value (b + 16) 4, tkt := s.value b 8, head := s.value (b + 8) 8 }
  | _, _ => errAt .winmiss va.toNat

/-- A ring of `n` slots that begins here is sound: `n` is a power of two, and the ring lies in its window entry. The word waits while a page of it is on another device (14 R405). -/
def ringFits (r : RingView) (n : Nat) (s : State) : Except Stop Unit :=
  if !(slotsOk n && ringBytes n ≤ r.room) then err .rngbad
  else if s.ownedRange r.base (ringBytes n) then .ok () else holdFor .accesses

/-- The control block is sound: its ring is, and its reserved bytes are 0 (R325; 00 R14). -/
def ringSound (r : RingView) (s : State) : Except Stop Unit := do
  if (s.bytes (r.base + 0x14) 44).any (· ≠ 0#8) then err .rngbad
  ringFits r r.nslot s

/-- The virtual address of a byte of the ring. -/
def RingView.vaOf (r : RingView) (addr : Nat) : W64 := r.va + BitVec.ofNat 64 (addr - r.base)

/-- Read bytes of the ring. -/
def ringRead (c : Ctx) (r : RingView) (addr n : Nat) (s : State) : Except Stop (List Byte) := do
  atHome (readTrap s c.a (innerElem (r.vaOf addr) (.byte addr) n))
  return s.bytes addr n

/-- Bytes of the ring may be written now, at their home: no unit of them is in error, or a cell outside VALUE (12 R335). -/
def ringWritable (c : Ctx) (r : RingView) (addr n : Nat) (s : State) : Except Stop Unit := do
  innerTurn c (r.vaOf addr) (.byte addr) n s
  writableAt (r.vaOf addr) addr addr n s

/-- Addresses of slot `i`'s stamp and payload. -/
def stampAddr (r : RingView) (i : Nat) : Nat := r.base + 0x40 + 8 * i
def payloadAddr (r : RingView) (i : Nat) : Nat := r.base + 0x40 + 8 * r.nslot + 32 * i

/-- RNGINIT (R326) -/
def execRnginit (g : Guard) (a b : Scalar) (s : State) : Answer :=
  issue (accCtl g [.src a, .src b]) s fun c s => do
    let (x, s) := readScalar c a s
    let (y, s) := readScalar c b s
    let r ← ringReach c x s
    ringFits r y.toNat s
    ringWritable c r r.base 20 s
    ringWritable c r (r.base + 0x40) (8 * y.toNat) s
    let s := (countRead c x s).store r.base (leBytes 16 0 ++ leBytes 4 y.toNat)
    return s.storeRange (r.base + 0x40) (List.replicate (8 * y.toNat) 0xFF#8)

/-- RNGTKT (R326) -/
def execRngtkt (g : Guard) (d : SDst) (a : Scalar) (s : State) : Answer :=
  issue (accCtl g [.dst d, .src a]) s fun c s => do
    let (x, s) := readScalar c a s
    let r ← ringReach c x s
    ringSound r s
    ringWritable c r r.base 8 s
    return writeDst c d 1 (BitVec.ofNat 64 r.tkt) ((countRead c x s).store r.base (leBytes 8 ((r.tkt + 1) % 2 ^ 64)))

/-- RNGFILL (R326): a release at device scope. The 32 bytes are read once, then the word waits until its ticket's slot is free. -/
def execRngfill (g : Guard) (d a b : Scalar) (s : State) : Answer :=
  issue (accCtl g [.src d, .src a, .src b]) s fun c s =>
    let (t, s) := readScalar c d s
    let (x, s) := readScalar c a s
    let (y, s) := readScalar c b s
    withOperand c s (readBlock c y 32 s) fun bs => do
      let r ← ringReach c x s
      releaseReady c .device s
      ringSound r s
      if t.toNat < r.head then err .rngdup
      if t.toNat - r.head ≥ r.nslot then holdFor (.wait .ring)
      let i := t.toNat % r.nslot
      let stamp ← ringRead c r (stampAddr r i) 8 s
      if leValue stamp = t.toNat then err .rngdup
      ringWritable c r (payloadAddr r i) 32 s
      ringWritable c r (stampAddr r i) 8 s
      return ((countRead c x (countRead c y s)).storeRange (payloadAddr r i) bs).store (stampAddr r i) (leBytes 8 t.toNat)

/-- RNGGET (R326): an acquire at device scope when it returns a slot, since later words issue after it. -/
def execRngget (g : Guard) (d : SDst) (a b : Scalar) (s : State) : Answer :=
  issue (accCtl g [.dst d, .src a, .src b]) s fun c s => do
    storeRoom c s
    let (x, s) := readScalar c a s
    let (y, s) := readScalar c b s
    let es ← checkStore c y 32 s
    let r ← ringReach c x s
    ringSound r s
    let i := r.head % r.nslot
    let stamp ← ringRead c r (stampAddr r i) 8 s
    let s := countRead c x s
    if leValue stamp = r.head then
      ringWritable c r (stampAddr r i) 8 s
      ringWritable c r (r.base + 8) 8 s
      let bs ← (List.range 4).mapM fun k => ringRead c r (payloadAddr r i + 8 * k) 8 s
      let s := (s.store (stampAddr r i) (leBytes 8 (2 ^ 64 - 1))).store (r.base + 8) (leBytes 8 ((r.head + 1) % 2 ^ 64))
      return pushStore c .store .relaxed .unit .none (withBytes es bs.flatten) (writeDst c d 1 (BitVec.ofNat 64 r.head) s)
    else return writeDst c d 1 (BitVec.ofNat 64 (2 ^ 64 - 1)) s

end Sys2Proof.Machine
end

