-- ==== Sys2Proof/Machine/Alu.lean ====
section
/-! DEFINITION. The integer functions of the access stream (spec/04_scalar_registers_and_control.md R99-R103). -/

namespace Sys2Proof.Machine

/-- The shift count b[5:0] (R99). -/
def shiftCount (b : W64) : Nat := b.toNat % 64

def aluShl (a b : W64) : W64 := a <<< shiftCount b
def aluShr (a b : W64) : W64 := a >>> shiftCount b
/-- SAR: Signed(a) div 2^b[5:0], rounded towards minus infinity (R99). -/
def aluSar (a b : W64) : W64 := a.sshiftRight (shiftCount b)
/-- MULHS: the high half of the signed product (R99). -/
def aluMulhs (a b : W64) : W64 := BitVec.ofInt 64 (Int.fdiv (a.toInt * b.toInt) (2 ^ 64))
/-- MULHU: the high half of the unsigned product (R99). -/
def aluMulhu (a b : W64) : W64 := BitVec.ofNat 64 (a.toNat * b.toNat / 2 ^ 64)
def aluMin (a b : W64) : W64 := if a.toInt ≤ b.toInt then a else b
def aluMax (a b : W64) : W64 := if a.toInt ≤ b.toInt then b else a
def aluMinu (a b : W64) : W64 := if a.toNat ≤ b.toNat then a else b
def aluMaxu (a b : W64) : W64 := if a.toNat ≤ b.toNat then b else a
/-- ROL: rotated left by b[5:0] (R99). -/
def aluRol (a b : W64) : W64 := a.rotateLeft (shiftCount b)

def aluClz (a : W64) : W64 := BitVec.ofNat 64 (leadingZeros 64 a.toNat)
def aluCtz (a : W64) : W64 := BitVec.ofNat 64 (trailingZeros 64 a.toNat)
def aluPopc (a : W64) : W64 := BitVec.ofNat 64 (popcount 64 a.toNat)
/-- BSWAP: the eight bytes in reverse order (R101). -/
def aluBswap (a : W64) : W64 := BitVec.ofNat 64 (leValue (leBytes 8 a.toNat).reverse)
def aluSext (n : Nat) (a : W64) : W64 := signExt a n
def aluZext (n : Nat) (a : W64) : W64 := zeroExt a n

/-- DIVS (R102): truncated towards zero; all ones for a divisor of 0; -2^63 / -1 is -2^63. -/
def aluDivs (a b : W64) : W64 := if b = 0#64 then BitVec.allOnes 64 else BitVec.ofInt 64 (Int.tdiv a.toInt b.toInt)
/-- DIVU (R102). -/
def aluDivu (a b : W64) : W64 := if b = 0#64 then BitVec.allOnes 64 else BitVec.ofNat 64 (a.toNat / b.toNat)
/-- REMS (R102): the sign of a; a for a divisor of 0; 0 for -2^63 and -1. -/
def aluRems (a b : W64) : W64 := if b = 0#64 then a else BitVec.ofInt 64 (Int.tmod a.toInt b.toInt)
/-- REMU (R102). -/
def aluRemu (a b : W64) : W64 := if b = 0#64 then a else BitVec.ofNat 64 (a.toNat % b.toNat)

/-- The ten conditions of CMP (R103). -/
inductive Cond where
  | eq | ne | lt | ge | ltu | geu | le | gt | leu | gtu
deriving DecidableEq, Repr

/-- Does the condition hold (R103)? -/
def condHolds (c : Cond) (a b : W64) : Bool :=
  match c with
  | .eq => decide (a = b)
  | .ne => decide (a ≠ b)
  | .lt => decide (a.toInt < b.toInt)
  | .ge => decide (a.toInt ≥ b.toInt)
  | .ltu => decide (a.toNat < b.toNat)
  | .geu => decide (a.toNat ≥ b.toNat)
  | .le => decide (a.toInt ≤ b.toInt)
  | .gt => decide (a.toInt > b.toInt)
  | .leu => decide (a.toNat ≤ b.toNat)
  | .gtu => decide (a.toNat > b.toNat)

end Sys2Proof.Machine
end

