-- ==== Sys2Proof/Machine/Scalar.lean ====
section
/-! DEFINITION. The integer and compare instructions of the access stream, majors 0x00 to 0x05 (spec/04_scalar_registers_and_control.md R99-R103). -/

namespace Sys2Proof.Machine

open Sys2Proof

/-- d := f a b (R99). -/
def binary (g : Guard) (d : SDst) (a b : Scalar) (f : W64 → W64 → W64) (s : State) : Answer :=
  issuePure (accCtl g [.dst d, .src a, .src b]) s fun c s =>
    let (x, s) := readScalar c a s
    let (y, s) := readScalar c b s
    writeDst c d 1 (f x y) s

/-- d := f a imm (R100). -/
def binaryImm (g : Guard) (d : SDst) (a : Scalar) (y : W64) (f : W64 → W64 → W64) (s : State) : Answer :=
  issuePure (accCtl g [.dst d, .src a]) s fun c s =>
    let (x, s) := readScalar c a s
    writeDst c d 1 (f x y) s

/-- d := f a (R101). -/
def unary (g : Guard) (d : SDst) (a : Scalar) (f : W64 → W64) (s : State) : Answer :=
  issuePure (accCtl g [.dst d, .src a]) s fun c s =>
    let (x, s) := readScalar c a s
    writeDst c d 1 (f x) s

/-- pd := 1 if the condition holds, else 0 (R103). -/
def compare (g : Guard) (pd : Pred) (a b : Scalar) (cond : Cond) (s : State) : Answer :=
  issuePure (accCtl g [.pdst pd, .src a, .src b]) s fun c s =>
    let (x, s) := readScalar c a s
    let (y, s) := readScalar c b s
    writePred c pd (condHolds cond x y) s

/-- SignExt(imm6, 6) (R100). -/
def immS (i : BitVec 6) : W64 := i.signExtend 64
/-- ZeroExt(imm6, 6) (R100). -/
def immU (i : BitVec 6) : W64 := i.zeroExtend 64

/-- ADD (R99) -/
def execAdd (g : Guard) (d : SDst) (a b : Scalar) (s : State) : Answer := binary g d a b (· + ·) s
/-- SUB (R99) -/
def execSub (g : Guard) (d : SDst) (a b : Scalar) (s : State) : Answer := binary g d a b (· - ·) s
/-- AND (R99) -/
def execAnd (g : Guard) (d : SDst) (a b : Scalar) (s : State) : Answer := binary g d a b (· &&& ·) s
/-- OR (R99) -/
def execOr (g : Guard) (d : SDst) (a b : Scalar) (s : State) : Answer := binary g d a b (· ||| ·) s
/-- XOR (R99) -/
def execXor (g : Guard) (d : SDst) (a b : Scalar) (s : State) : Answer := binary g d a b (· ^^^ ·) s
/-- SHL (R99) -/
def execShl (g : Guard) (d : SDst) (a b : Scalar) (s : State) : Answer := binary g d a b aluShl s
/-- SHR (R99) -/
def execShr (g : Guard) (d : SDst) (a b : Scalar) (s : State) : Answer := binary g d a b aluShr s
/-- SAR (R99) -/
def execSar (g : Guard) (d : SDst) (a b : Scalar) (s : State) : Answer := binary g d a b aluSar s
/-- MUL (R99) -/
def execMul (g : Guard) (d : SDst) (a b : Scalar) (s : State) : Answer := binary g d a b (· * ·) s
/-- MULHS (R99) -/
def execMulhs (g : Guard) (d : SDst) (a b : Scalar) (s : State) : Answer := binary g d a b aluMulhs s
/-- MULHU (R99) -/
def execMulhu (g : Guard) (d : SDst) (a b : Scalar) (s : State) : Answer := binary g d a b aluMulhu s
/-- MIN (R99) -/
def execMin (g : Guard) (d : SDst) (a b : Scalar) (s : State) : Answer := binary g d a b aluMin s
/-- MAX (R99) -/
def execMax (g : Guard) (d : SDst) (a b : Scalar) (s : State) : Answer := binary g d a b aluMax s
/-- MINU (R99) -/
def execMinu (g : Guard) (d : SDst) (a b : Scalar) (s : State) : Answer := binary g d a b aluMinu s
/-- MAXU (R99) -/
def execMaxu (g : Guard) (d : SDst) (a b : Scalar) (s : State) : Answer := binary g d a b aluMaxu s
/-- ROL (R99) -/
def execRol (g : Guard) (d : SDst) (a b : Scalar) (s : State) : Answer := binary g d a b aluRol s
/-- DIVS (R102) -/
def execDivs (g : Guard) (d : SDst) (a b : Scalar) (s : State) : Answer := binary g d a b aluDivs s
/-- DIVU (R102) -/
def execDivu (g : Guard) (d : SDst) (a b : Scalar) (s : State) : Answer := binary g d a b aluDivu s
/-- REMS (R102) -/
def execRems (g : Guard) (d : SDst) (a b : Scalar) (s : State) : Answer := binary g d a b aluRems s
/-- REMU (R102) -/
def execRemu (g : Guard) (d : SDst) (a b : Scalar) (s : State) : Answer := binary g d a b aluRemu s
/-- ADDI (R100) -/
def execAddi (g : Guard) (d : SDst) (a : Scalar) (imm : BitVec 6) (s : State) : Answer := binaryImm g d a (immS imm) (· + ·) s
/-- ANDI (R100) -/
def execAndi (g : Guard) (d : SDst) (a : Scalar) (imm : BitVec 6) (s : State) : Answer := binaryImm g d a (immS imm) (· &&& ·) s
/-- ORI (R100) -/
def execOri (g : Guard) (d : SDst) (a : Scalar) (imm : BitVec 6) (s : State) : Answer := binaryImm g d a (immS imm) (· ||| ·) s
/-- XORI (R100) -/
def execXori (g : Guard) (d : SDst) (a : Scalar) (imm : BitVec 6) (s : State) : Answer := binaryImm g d a (immS imm) (· ^^^ ·) s
/-- SHLI (R100) -/
def execShli (g : Guard) (d : SDst) (a : Scalar) (imm : BitVec 6) (s : State) : Answer := binaryImm g d a (immU imm) aluShl s
/-- SHRI (R100) -/
def execShri (g : Guard) (d : SDst) (a : Scalar) (imm : BitVec 6) (s : State) : Answer := binaryImm g d a (immU imm) aluShr s
/-- SARI (R100) -/
def execSari (g : Guard) (d : SDst) (a : Scalar) (imm : BitVec 6) (s : State) : Answer := binaryImm g d a (immU imm) aluSar s
/-- CLZ (R101) -/
def execClz (g : Guard) (d : SDst) (a : Scalar) (s : State) : Answer := unary g d a aluClz s
/-- CTZ (R101) -/
def execCtz (g : Guard) (d : SDst) (a : Scalar) (s : State) : Answer := unary g d a aluCtz s
/-- POPC (R101) -/
def execPopc (g : Guard) (d : SDst) (a : Scalar) (s : State) : Answer := unary g d a aluPopc s
/-- BSWAP (R101) -/
def execBswap (g : Guard) (d : SDst) (a : Scalar) (s : State) : Answer := unary g d a aluBswap s
/-- SEXTB (R101) -/
def execSextb (g : Guard) (d : SDst) (a : Scalar) (s : State) : Answer := unary g d a (aluSext 8) s
/-- SEXTH (R101) -/
def execSexth (g : Guard) (d : SDst) (a : Scalar) (s : State) : Answer := unary g d a (aluSext 16) s
/-- SEXTW (R101) -/
def execSextw (g : Guard) (d : SDst) (a : Scalar) (s : State) : Answer := unary g d a (aluSext 32) s
/-- ZEXTW (R101) -/
def execZextw (g : Guard) (d : SDst) (a : Scalar) (s : State) : Answer := unary g d a (aluZext 32) s
/-- CMP.EQ (R103) -/
def execCmpEq (g : Guard) (pd : Pred) (a b : Scalar) (s : State) : Answer := compare g pd a b .eq s
/-- CMP.NE (R103) -/
def execCmpNe (g : Guard) (pd : Pred) (a b : Scalar) (s : State) : Answer := compare g pd a b .ne s
/-- CMP.LT (R103) -/
def execCmpLt (g : Guard) (pd : Pred) (a b : Scalar) (s : State) : Answer := compare g pd a b .lt s
/-- CMP.GE (R103) -/
def execCmpGe (g : Guard) (pd : Pred) (a b : Scalar) (s : State) : Answer := compare g pd a b .ge s
/-- CMP.LTU (R103) -/
def execCmpLtu (g : Guard) (pd : Pred) (a b : Scalar) (s : State) : Answer := compare g pd a b .ltu s
/-- CMP.GEU (R103) -/
def execCmpGeu (g : Guard) (pd : Pred) (a b : Scalar) (s : State) : Answer := compare g pd a b .geu s
/-- CMP.LE (R103) -/
def execCmpLe (g : Guard) (pd : Pred) (a b : Scalar) (s : State) : Answer := compare g pd a b .le s
/-- CMP.GT (R103) -/
def execCmpGt (g : Guard) (pd : Pred) (a b : Scalar) (s : State) : Answer := compare g pd a b .gt s
/-- CMP.LEU (R103) -/
def execCmpLeu (g : Guard) (pd : Pred) (a b : Scalar) (s : State) : Answer := compare g pd a b .leu s
/-- CMP.GTU (R103) -/
def execCmpGtu (g : Guard) (pd : Pred) (a b : Scalar) (s : State) : Answer := compare g pd a b .gtu s

end Sys2Proof.Machine
end

