-- ==== Sys2Proof/Machine/VecCmp.lean ====
section
/-! DEFINITION. Compares, major 0x24 and its masked form 0x2A (spec/07_vector_unit.md R176). -/

namespace Sys2Proof.Machine

open Sys2Proof

/-- VCMPEQ (R176) -/
def execVcmpeq (g : Guard) (lc : BitVec 3) (md : MReg) (va vb : VReg) (s : State) : Answer := rowCmp g lc md va vb false (fun a b => (decide (a = b), 0#6)) s
/-- VCMPNE (R176) -/
def execVcmpne (g : Guard) (lc : BitVec 3) (md : MReg) (va vb : VReg) (s : State) : Answer := rowCmp g lc md va vb false (fun a b => (decide (a ≠ b), 0#6)) s
/-- VCMPLT (R176) -/
def execVcmplt (g : Guard) (lc : BitVec 3) (md : MReg) (va vb : VReg) (s : State) : Answer := rowCmp g lc md va vb false (fun a b => (decide (a.toInt < b.toInt), 0#6)) s
/-- VCMPLTU (R176) -/
def execVcmpltu (g : Guard) (lc : BitVec 3) (md : MReg) (va vb : VReg) (s : State) : Answer := rowCmp g lc md va vb false (fun a b => (decide (a.toNat < b.toNat), 0#6)) s
/-- VFCMPEQ (R176) -/
def execVfcmpeq (g : Guard) (lc : BitVec 3) (md : MReg) (va vb : VReg) (s : State) : Answer := rowCmp g lc md va vb false (fcmp .eq) s
/-- VFCMPLT (R176) -/
def execVfcmplt (g : Guard) (lc : BitVec 3) (md : MReg) (va vb : VReg) (s : State) : Answer := rowCmp g lc md va vb false (fcmp .lt) s
/-- VFCMPLE (R176) -/
def execVfcmple (g : Guard) (lc : BitVec 3) (md : MReg) (va vb : VReg) (s : State) : Answer := rowCmp g lc md va vb false (fcmp .le) s
/-- VFCMPUN (R176) -/
def execVfcmpun (g : Guard) (lc : BitVec 3) (md : MReg) (va vb : VReg) (s : State) : Answer := rowCmp g lc md va vb false (fcmp .un) s
/-- VCMPEQ under m0 (R176) -/
def execVcmpeqMasked (g : Guard) (lc : BitVec 3) (md : MReg) (va vb : VReg) (s : State) : Answer := rowCmp g lc md va vb true (fun a b => (decide (a = b), 0#6)) s
/-- VCMPNE under m0 (R176) -/
def execVcmpneMasked (g : Guard) (lc : BitVec 3) (md : MReg) (va vb : VReg) (s : State) : Answer := rowCmp g lc md va vb true (fun a b => (decide (a ≠ b), 0#6)) s
/-- VCMPLT under m0 (R176) -/
def execVcmpltMasked (g : Guard) (lc : BitVec 3) (md : MReg) (va vb : VReg) (s : State) : Answer := rowCmp g lc md va vb true (fun a b => (decide (a.toInt < b.toInt), 0#6)) s
/-- VCMPLTU under m0 (R176) -/
def execVcmpltuMasked (g : Guard) (lc : BitVec 3) (md : MReg) (va vb : VReg) (s : State) : Answer := rowCmp g lc md va vb true (fun a b => (decide (a.toNat < b.toNat), 0#6)) s
/-- VFCMPEQ under m0 (R176) -/
def execVfcmpeqMasked (g : Guard) (lc : BitVec 3) (md : MReg) (va vb : VReg) (s : State) : Answer := rowCmp g lc md va vb true (fcmp .eq) s
/-- VFCMPLT under m0 (R176) -/
def execVfcmpltMasked (g : Guard) (lc : BitVec 3) (md : MReg) (va vb : VReg) (s : State) : Answer := rowCmp g lc md va vb true (fcmp .lt) s
/-- VFCMPLE under m0 (R176) -/
def execVfcmpleMasked (g : Guard) (lc : BitVec 3) (md : MReg) (va vb : VReg) (s : State) : Answer := rowCmp g lc md va vb true (fcmp .le) s
/-- VFCMPUN under m0 (R176) -/
def execVfcmpunMasked (g : Guard) (lc : BitVec 3) (md : MReg) (va vb : VReg) (s : State) : Answer := rowCmp g lc md va vb true (fcmp .un) s

end Sys2Proof.Machine
end

