-- ==== Sys2Proof/Machine/Estimate.lean ====
section
/-! DEFINITION. The estimates of the vector unit (spec/07_vector_unit.md R173, R174): the operand reduced to 14 significant bits, the exact function rounded to 14 significant bits, then rounded to FP32. A transcendental result is known here between two multiples of a power of two so fine that no rounding boundary lies between them; its rounding is that of their midpoint. -/

namespace Sys2Proof.Machine

/-- A positive rational rounded to nearest even with 14 significant bits: the value m * 2^e. -/
def sig14 (n d : Nat) : Nat × Int :=
  let e := floorLog2 n d - 13
  ((roundScaled n d e .rne).natAbs, e)

/-- A positive rational rounded to 14 significant bits, signed, then by RoundFP32; NX is never raised (R173). -/
def est14 (neg : Bool) (n d : Nat) : W32 × Flags :=
  let (m, e) := sig14 n d
  let (r, fl) := roundFP32 (.scaled neg m e) rne
  (r, fl &&& ~~~flagNX)

/-- x with every significand bit after its 14th significant bit cleared: a positive quotient in, n' and d' out (R173 step 1). -/
def cut14 (n d : Nat) : Nat × Nat :=
  let e := floorLog2 n d - 13
  if e ≥ 0 then ((n / (d * 2 ^ e.toNat)) * 2 ^ e.toNat, 1) else (n * 2 ^ (-e).toNat / d, 2 ^ (-e).toNat)

/-- The greatest r below 2^bits with r^p * a ≤ b, found bit by bit. -/
def rootSearch (p a b : Nat) : Nat → Nat → Nat
  | 0, r => r
  | k + 1, r => let t := r + 2 ^ k; rootSearch p a b k (if t ^ p * a ≤ b then t else r)

/-- Binary digits of log2 of z / 2^128, for z from 2^128 below 2^129, by repeated squaring. -/
def logDigits : Nat → Nat → Nat → Nat
  | 0, _, r => r
  | k + 1, z, r =>
    let z2 := z * z / 2 ^ 128
    if z2 ≥ 2 ^ 129 then logDigits k (z2 / 2) (2 * r + 1) else logDigits k z2 (2 * r)

/-- The series of e^r / 2^128 for r in units of 2^-128. -/
def expSeries (r : Nat) : Nat → Nat → Nat → Nat → Nat
  | 0, _, _, s => s
  | fuel + 1, k, term, s =>
    let t := term * r / 2 ^ 128 / k
    expSeries r fuel (k + 1) t (s + t)

/-- Squaring in units of 2^-128, `k` times. -/
def squareTimes : Nat → Nat → Nat
  | 0, s => s
  | k + 1, s => squareTimes k (s * s / 2 ^ 128)

/-- A NaN operand of an estimate (R174). -/
def estNaN (p : W32) : W32 × Flags := (quiet p, flagIf (!p.getLsbD 22) flagNV)

def fp32Inf (neg : Bool) : W32 := if neg then 0xFF800000#32 else 0x7F800000#32
def fp32Zero (neg : Bool) : W32 := if neg then 0x80000000#32 else 0#32
def fp32One (neg : Bool) : W32 := if neg then 0xBF800000#32 else 0x3F800000#32

/-- VRCPE (R173, R174). -/
def vrcpe (x : W32) : W32 × Flags :=
  match fp32 x with
  | .nan p => estNaN p
  | .zero neg => (fp32Inf neg, flagDZ)
  | .inf neg => (fp32Zero neg, 0#6)
  | .fin n d =>
    let (n', d') := cut14 n.natAbs d
    est14 (decide (n < 0)) d' n'

/-- VRSQE (R173, R174). -/
def vrsqe (x : W32) : W32 × Flags :=
  match fp32 x with
  | .nan p => estNaN p
  | .zero neg => (fp32Inf neg, flagDZ)
  | .inf neg => if neg then (defaultNaN, flagNV) else (0#32, 0#6)
  | .fin n d =>
    if n < 0 then (defaultNaN, flagNV)
    else
      let (n', d') := cut14 n.natAbs d
      -- r = Floor(2^95 / Sqrt(x'))
      let r := rootSearch 2 n' (d' * 4 ^ 95) 176 0
      if r ^ 2 * n' = d' * 4 ^ 95 then est14 false r (2 ^ 95) else est14 false (2 * r + 1) (2 ^ 96)

/-- VEXP2E (R173, R174). -/
def vexp2e (x : W32) : W32 × Flags :=
  match fp32 x with
  | .nan p => estNaN p
  | .zero _ => (fp32One false, 0#6)
  | .inf neg => if neg then (0#32, 0#6) else (fp32Inf false, 0#6)
  | .fin n d =>
    -- x' = k / 4096, rounded towards zero
    let k : Int := Int.tdiv (n * 4096) d
    -- beyond +-2,048 the result overflows or underflows alike
    let k := clampInt k (-8388608) 8388608
    let i := Int.fdiv k 4096
    let f := (k - i * 4096).toNat
    let (m, s) : Nat × Int :=
      if f = 0 then (1, 0)
      else (2 * rootSearch 4096 1 (2 ^ (f + 20 * 4096)) 21 0 + 1, -21)
    let e := i + s
    if e ≥ 0 then est14 false (m * 2 ^ e.toNat) 1 else est14 false m (2 ^ (-e).toNat)

/-- VLOG2E (R173, R174). -/
def vlog2e (x : W32) : W32 × Flags :=
  match fp32 x with
  | .nan p => estNaN p
  | .zero _ => (fp32Inf true, flagDZ)
  | .inf neg => if neg then (defaultNaN, flagNV) else (fp32Inf false, 0#6)
  | .fin n d =>
    if n < 0 then (defaultNaN, flagNV)
    else
      let (n', d') := cut14 n.natAbs d
      let e := floorLog2 n' d'
      -- x' = m * 2^(e - 13), m from 2^13 below 2^14
      let m := if e ≥ 13 then n' / (d' * 2 ^ (e - 13).toNat) else n' * 2 ^ (13 - e).toNat / d'
      if m = 2 ^ 13 then roundFP32 (.ofInt e) rne
      else
        let y := 2 * (e * 2 ^ 40 + logDigits 40 (m * 2 ^ 115) 0) + 1
        est14 (decide (y < 0)) y.natAbs (2 ^ 41)

/-- VTANHE (R173, R174). -/
def vtanhe (x : W32) : W32 × Flags :=
  match fp32 x with
  | .nan p => estNaN p
  | .zero neg => (fp32Zero neg, 0#6)
  | .inf neg => (fp32One neg, 0#6)
  | .fin n d =>
    let neg := decide (n < 0)
    let (n', d') := cut14 n.natAbs d
    -- below 2^-7 the 14-bit rounding of tanh x' is x' itself, from 8 on it is 1
    if n' * 128 < d' then est14 neg n' d'
    else if n' ≥ 8 * d' then (fp32One neg, 0#6)
    else
      let t := 2 * n' * 2 ^ 128 / d' / 256
      let s := squareTimes 8 (expSeries t 26 1 (2 ^ 128) (2 ^ 128))
      est14 neg (s - 2 ^ 128) (s + 2 ^ 128)

end Sys2Proof.Machine
end

