-- ==== Sys2Proof/Machine/VecFloat.lean ====
section
/-! DEFINITION. Floating-point element operations, estimates, sign and class, majors 0x22, 0x23 and their masked forms (spec/07_vector_unit.md R172-R175). -/

namespace Sys2Proof.Machine

open Sys2Proof

/-- An operation of one operand that ignores FRM. -/
def unaryOp (f : W32 → W32 × Flags) : ElemOp := fun _ a _ _ => f a

/-- VFADD (R172) -/
def execVfadd (g : Guard) (lc : BitVec 3) (vd va vb : VReg) (s : State) : Answer := rowOp g lc vd va (some vb) false false (fun m a b _ => fadd a b m) s
/-- VFSUB (R172) -/
def execVfsub (g : Guard) (lc : BitVec 3) (vd va vb : VReg) (s : State) : Answer := rowOp g lc vd va (some vb) false false (fun m a b _ => fsub a b m) s
/-- VFMUL (R172) -/
def execVfmul (g : Guard) (lc : BitVec 3) (vd va vb : VReg) (s : State) : Answer := rowOp g lc vd va (some vb) false false (fun m a b _ => fmul a b m) s
/-- VFMA (R172) -/
def execVfma (g : Guard) (lc : BitVec 3) (vd va vb : VReg) (s : State) : Answer := rowOp g lc vd va (some vb) true false (fun m a b d => fma a b d m) s
/-- VFMS (R172) -/
def execVfms (g : Guard) (lc : BitVec 3) (vd va vb : VReg) (s : State) : Answer := rowOp g lc vd va (some vb) true false (fun m a b d => fms a b d m) s
/-- VFNMA (R172) -/
def execVfnma (g : Guard) (lc : BitVec 3) (vd va vb : VReg) (s : State) : Answer := rowOp g lc vd va (some vb) true false (fun m a b d => fnma a b d m) s
/-- VFMIN (R172) -/
def execVfmin (g : Guard) (lc : BitVec 3) (vd va vb : VReg) (s : State) : Answer := rowOp g lc vd va (some vb) false false (fun _ a b _ => fminmax false a b) s
/-- VFMAX (R172) -/
def execVfmax (g : Guard) (lc : BitVec 3) (vd va vb : VReg) (s : State) : Answer := rowOp g lc vd va (some vb) false false (fun _ a b _ => fminmax true a b) s
/-- VFADD under m0 (R172) -/
def execVfaddMasked (g : Guard) (lc : BitVec 3) (vd va vb : VReg) (s : State) : Answer := rowOp g lc vd va (some vb) false true (fun m a b _ => fadd a b m) s
/-- VFSUB under m0 (R172) -/
def execVfsubMasked (g : Guard) (lc : BitVec 3) (vd va vb : VReg) (s : State) : Answer := rowOp g lc vd va (some vb) false true (fun m a b _ => fsub a b m) s
/-- VFMUL under m0 (R172) -/
def execVfmulMasked (g : Guard) (lc : BitVec 3) (vd va vb : VReg) (s : State) : Answer := rowOp g lc vd va (some vb) false true (fun m a b _ => fmul a b m) s
/-- VFMA under m0 (R172) -/
def execVfmaMasked (g : Guard) (lc : BitVec 3) (vd va vb : VReg) (s : State) : Answer := rowOp g lc vd va (some vb) true true (fun m a b d => fma a b d m) s
/-- VFMS under m0 (R172) -/
def execVfmsMasked (g : Guard) (lc : BitVec 3) (vd va vb : VReg) (s : State) : Answer := rowOp g lc vd va (some vb) true true (fun m a b d => fms a b d m) s
/-- VFNMA under m0 (R172) -/
def execVfnmaMasked (g : Guard) (lc : BitVec 3) (vd va vb : VReg) (s : State) : Answer := rowOp g lc vd va (some vb) true true (fun m a b d => fnma a b d m) s
/-- VFMIN under m0 (R172) -/
def execVfminMasked (g : Guard) (lc : BitVec 3) (vd va vb : VReg) (s : State) : Answer := rowOp g lc vd va (some vb) false true (fun _ a b _ => fminmax false a b) s
/-- VFMAX under m0 (R172) -/
def execVfmaxMasked (g : Guard) (lc : BitVec 3) (vd va vb : VReg) (s : State) : Answer := rowOp g lc vd va (some vb) false true (fun _ a b _ => fminmax true a b) s
/-- VRCPE (R173) -/
def execVrcpe (g : Guard) (lc : BitVec 3) (vd va : VReg) (s : State) : Answer := rowOp g lc vd va none false false (unaryOp (vrcpe)) s
/-- VRSQE (R173) -/
def execVrsqe (g : Guard) (lc : BitVec 3) (vd va : VReg) (s : State) : Answer := rowOp g lc vd va none false false (unaryOp (vrsqe)) s
/-- VEXP2E (R173) -/
def execVexp2e (g : Guard) (lc : BitVec 3) (vd va : VReg) (s : State) : Answer := rowOp g lc vd va none false false (unaryOp (vexp2e)) s
/-- VLOG2E (R173) -/
def execVlog2e (g : Guard) (lc : BitVec 3) (vd va : VReg) (s : State) : Answer := rowOp g lc vd va none false false (unaryOp (vlog2e)) s
/-- VTANHE (R173) -/
def execVtanhe (g : Guard) (lc : BitVec 3) (vd va : VReg) (s : State) : Answer := rowOp g lc vd va none false false (unaryOp (vtanhe)) s
/-- VFABS (R175) -/
def execVfabs (g : Guard) (lc : BitVec 3) (vd va : VReg) (s : State) : Answer := rowOp g lc vd va none false false (unaryOp (fun a => (a &&& 0x7FFFFFFF#32, 0#6))) s
/-- VFNEG (R175) -/
def execVfneg (g : Guard) (lc : BitVec 3) (vd va : VReg) (s : State) : Answer := rowOp g lc vd va none false false (unaryOp (fun a => (a ^^^ 0x80000000#32, 0#6))) s
/-- VFCLASS (R175) -/
def execVfclass (g : Guard) (lc : BitVec 3) (vd va : VReg) (s : State) : Answer := rowOp g lc vd va none false false (unaryOp (fun a => (fclass a, 0#6))) s
/-- VRCPE under m0 (R173) -/
def execVrcpeMasked (g : Guard) (lc : BitVec 3) (vd va : VReg) (s : State) : Answer := rowOp g lc vd va none false true (unaryOp (vrcpe)) s
/-- VRSQE under m0 (R173) -/
def execVrsqeMasked (g : Guard) (lc : BitVec 3) (vd va : VReg) (s : State) : Answer := rowOp g lc vd va none false true (unaryOp (vrsqe)) s
/-- VEXP2E under m0 (R173) -/
def execVexp2eMasked (g : Guard) (lc : BitVec 3) (vd va : VReg) (s : State) : Answer := rowOp g lc vd va none false true (unaryOp (vexp2e)) s
/-- VLOG2E under m0 (R173) -/
def execVlog2eMasked (g : Guard) (lc : BitVec 3) (vd va : VReg) (s : State) : Answer := rowOp g lc vd va none false true (unaryOp (vlog2e)) s
/-- VTANHE under m0 (R173) -/
def execVtanheMasked (g : Guard) (lc : BitVec 3) (vd va : VReg) (s : State) : Answer := rowOp g lc vd va none false true (unaryOp (vtanhe)) s
/-- VFABS under m0 (R175) -/
def execVfabsMasked (g : Guard) (lc : BitVec 3) (vd va : VReg) (s : State) : Answer := rowOp g lc vd va none false true (unaryOp (fun a => (a &&& 0x7FFFFFFF#32, 0#6))) s
/-- VFNEG under m0 (R175) -/
def execVfnegMasked (g : Guard) (lc : BitVec 3) (vd va : VReg) (s : State) : Answer := rowOp g lc vd va none false true (unaryOp (fun a => (a ^^^ 0x80000000#32, 0#6))) s
/-- VFCLASS under m0 (R175) -/
def execVfclassMasked (g : Guard) (lc : BitVec 3) (vd va : VReg) (s : State) : Answer := rowOp g lc vd va none false true (unaryOp (fun a => (fclass a, 0#6))) s

end Sys2Proof.Machine
end

