-- ==== Sys2Proof/Machine/VecKerf.lean ====
section
/-! DEFINITION. Kerf reductions, major 0x39 (spec/13_links_and_kerf.md R370-R372). -/

namespace Sys2Proof.Machine

open Sys2Proof

/-- Is a mask field a multiple of G (R165)? -/
def maskGroupOk (cfg : W64) (m : MReg) : Bool := m.val % cfgG cfg == 0

/-- The value x · n / d of a finite value, exactly. -/
def FVal.ratio (x : FVal) (n d : Nat) : FVal :=
  match x with
  | .fin a b => .fin (a * n) (b * d)
  | y => y

/-- Is a value a NaN or an infinity? -/
def FVal.special : FVal → Bool
  | .nan _ => true
  | .inf _ => true
  | _ => false

/-- One column (R371): n positions below VL, of which the present ones have a value. `mean`: KRMEAN. -/
def kerfColumn (mode : RMode) (lg : Nat) (mean : Bool) (n : Nat) (xs : List (Option W32)) : W32 × Nat × Flags :=
  let present := (xs.filterMap id).length
  let (sum, fl) := treeSum mode (4 + lg) xs
  if n = 0 then (0#32, present, fl)
  else if present = 0 then (defaultNaN, present, fl ||| flagDZ)
  else if (fp32 sum).special then (sum, present, fl)
  else
    let (r, f) := roundFP32 ((fp32 sum).ratio (if mean then 1 else n) present) mode
    (r, present, fl ||| f)

/-- KRSUM and KRMEAN (R371): 64 columns, their values and their counts. -/
def kerfReduce (mean : Bool) (g : Guard) (lc : BitVec 3) (vd va : VReg) (ms : MReg) (s : State) : Answer :=
  groupWord { exe g [.vdst vd, .vsrc va, .msrc ms] with shape := vd.isV && va.isV } [vd, va] (fun c cfg r C s =>
    if !maskGroupOk cfg ms then err .vgroup
    else
      let v := s.vecOf c.a
      let t := s.task c.a
      let T := t.x.clk
      let fr := s.freeCtr
      let vl := min (cfgVL cfg) r.count
      let cols := (List.range 64).map fun col =>
        let xs := (List.range (16 * cfgG cfg)).map fun i =>
          let e := 64 * i + col
          if e < vl && mread t v ms.val e T (fr + 1) then some (vread t v (vIndex va) e T fr) else none
        kerfColumn (fsrMode v.fsr) (cfgLG cfg) mean (ceilDiv (vl - col) 64) xs
      let vals := cols.map (·.1) ++ cols.map fun x => BitVec.ofNat 32 x.2.1
      let fl := cols.foldl (fun fl x => fl ||| x.2.2) 0#6
      .ok (prefixResult c (vIndex vd) cfg r C (lcBound lc) (fr + 2) vals (orFlags c fl s))) s

/-- KRSUM (R370, R371) -/
def execKrsum (g : Guard) (lc : BitVec 3) (vd va : VReg) (ms : MReg) (s : State) : Answer := kerfReduce false g lc vd va ms s
/-- KRMEAN (R370, R371) -/
def execKrmean (g : Guard) (lc : BitVec 3) (vd va : VReg) (ms : MReg) (s : State) : Answer := kerfReduce true g lc vd va ms s

/-- KVCNT (R372): C is 1. -/
def execKvcnt (g : Guard) (lc : BitVec 3) (vd : VReg) (ms : MReg) (s : State) : Answer :=
  issue { exe g [.vdst vd, .msrc ms] with shape := vd.isV } s fun c s =>
    let v := s.vecOf c.a
    let cfg := v.vcfg
    if !(groupOk (cfgG cfg) vd && maskGroupOk cfg ms) then err .vgroup
    else
      let t := s.task c.a
      let fr := s.freeCtr
      let r := vrange cfg false
      let n := ((r.below (cfgVL cfg)).filter fun e => mread t v ms.val e t.x.clk fr).length
      .ok (vecDone c false 1 (prefixResult c (vIndex vd) cfg r 1 (lcBound lc) (fr + 2) [BitVec.ofNat 32 n] s))

/-- KMRD (R372): C is 1. -/
def execKmrd (g : Guard) (lc : BitVec 3) (md : MReg) (va : VReg) (s : State) : Answer :=
  issue { exe g [.mdst md, .vsrc va] with shape := va.isV } s fun c s =>
    let v := s.vecOf c.a
    let cfg := v.vcfg
    if !(groupOk (cfgG cfg) va && maskGroupOk cfg md) then err .vgroup
    else
      let t := s.task c.a
      let fr := s.freeCtr
      let r := vrange cfg false
      let bits := (r.below (cfgVL cfg)).map fun e => (e, streamField 1 (fun k => vread t v (vIndex va) k t.x.clk fr) (e / 64) == 1)
      .ok (vecDone c false 1 (maskResult c md cfg r .crossRow 1 (lcBound lc) (fr + 2) bits [] s))

end Sys2Proof.Machine
end

