-- ==== Sys2Proof/Machine/Dispatch.lean ====
section
/-! DEFINITION. The dispatch: one arm for each constructor of Instr, each one direct call of its meaning. -/

namespace Sys2Proof.Machine

open Sys2Proof

def exec (i : Instr) (s : State) : Host.Outcome State Fault Refusal :=
  match i with
  | .add g d a b => Sys2Proof.Machine.execAdd g d a b s
  | .sub g d a b => Sys2Proof.Machine.execSub g d a b s
  | .and g d a b => Sys2Proof.Machine.execAnd g d a b s
  | .or g d a b => Sys2Proof.Machine.execOr g d a b s
  | .xor g d a b => Sys2Proof.Machine.execXor g d a b s
  | .shl g d a b => Sys2Proof.Machine.execShl g d a b s
  | .shr g d a b => Sys2Proof.Machine.execShr g d a b s
  | .sar g d a b => Sys2Proof.Machine.execSar g d a b s
  | .mul g d a b => Sys2Proof.Machine.execMul g d a b s
  | .mulhs g d a b => Sys2Proof.Machine.execMulhs g d a b s
  | .mulhu g d a b => Sys2Proof.Machine.execMulhu g d a b s
  | .min g d a b => Sys2Proof.Machine.execMin g d a b s
  | .max g d a b => Sys2Proof.Machine.execMax g d a b s
  | .minu g d a b => Sys2Proof.Machine.execMinu g d a b s
  | .maxu g d a b => Sys2Proof.Machine.execMaxu g d a b s
  | .rol g d a b => Sys2Proof.Machine.execRol g d a b s
  | .addi g d a imm => Sys2Proof.Machine.execAddi g d a imm s
  | .andi g d a imm => Sys2Proof.Machine.execAndi g d a imm s
  | .ori g d a imm => Sys2Proof.Machine.execOri g d a imm s
  | .xori g d a imm => Sys2Proof.Machine.execXori g d a imm s
  | .shli g d a imm => Sys2Proof.Machine.execShli g d a imm s
  | .shri g d a imm => Sys2Proof.Machine.execShri g d a imm s
  | .sari g d a imm => Sys2Proof.Machine.execSari g d a imm s
  | .clz g d a => Sys2Proof.Machine.execClz g d a s
  | .ctz g d a => Sys2Proof.Machine.execCtz g d a s
  | .popc g d a => Sys2Proof.Machine.execPopc g d a s
  | .bswap g d a => Sys2Proof.Machine.execBswap g d a s
  | .sextb g d a => Sys2Proof.Machine.execSextb g d a s
  | .sexth g d a => Sys2Proof.Machine.execSexth g d a s
  | .sextw g d a => Sys2Proof.Machine.execSextw g d a s
  | .zextw g d a => Sys2Proof.Machine.execZextw g d a s
  | .divs g d a b => Sys2Proof.Machine.execDivs g d a b s
  | .divu g d a b => Sys2Proof.Machine.execDivu g d a b s
  | .rems g d a b => Sys2Proof.Machine.execRems g d a b s
  | .remu g d a b => Sys2Proof.Machine.execRemu g d a b s
  | .cmpEq g pd a b => Sys2Proof.Machine.execCmpEq g pd a b s
  | .cmpNe g pd a b => Sys2Proof.Machine.execCmpNe g pd a b s
  | .cmpLt g pd a b => Sys2Proof.Machine.execCmpLt g pd a b s
  | .cmpGe g pd a b => Sys2Proof.Machine.execCmpGe g pd a b s
  | .cmpLtu g pd a b => Sys2Proof.Machine.execCmpLtu g pd a b s
  | .cmpGeu g pd a b => Sys2Proof.Machine.execCmpGeu g pd a b s
  | .cmpLe g pd a b => Sys2Proof.Machine.execCmpLe g pd a b s
  | .cmpGt g pd a b => Sys2Proof.Machine.execCmpGt g pd a b s
  | .cmpLeu g pd a b => Sys2Proof.Machine.execCmpLeu g pd a b s
  | .cmpGtu g pd a b => Sys2Proof.Machine.execCmpGtu g pd a b s
  | .pand g pd pa pb => Sys2Proof.Machine.execPand g pd pa pb s
  | .por g pd pa pb => Sys2Proof.Machine.execPor g pd pa pb s
  | .pxor g pd pa pb => Sys2Proof.Machine.execPxor g pd pa pb s
  | .pandn g pd pa pb => Sys2Proof.Machine.execPandn g pd pa pb s
  | .porn g pd pa pb => Sys2Proof.Machine.execPorn g pd pa pb s
  | .pnot g pd pa => Sys2Proof.Machine.execPnot g pd pa s
  | .pset g pd => Sys2Proof.Machine.execPset g pd s
  | .pclr g pd => Sys2Proof.Machine.execPclr g pd s
  | .branch g off => Sys2Proof.Machine.execBranch g off s
  | .call g off => Sys2Proof.Machine.execCall g off s
  | .br g a => Sys2Proof.Machine.execBr g a s
  | .callr g a => Sys2Proof.Machine.execCallr g a s
  | .ret g => Sys2Proof.Machine.execRet g s
  | .loop g a off => Sys2Proof.Machine.execLoop g a off s
  | .cqpush g a => Sys2Proof.Machine.execCqpush g a s
  | .cqpop g d => Sys2Proof.Machine.execCqpop g d s
  | .pqpush g pa => Sys2Proof.Machine.execPqpush g pa s
  | .pqpop g pd => Sys2Proof.Machine.execPqpop g pd s
  | .nop g => Sys2Proof.Machine.execNop g s
  | .tend g => Sys2Proof.Machine.execTend g s
  | .brk g => Sys2Proof.Machine.execBrk g s
  | .adr g a off => Sys2Proof.Machine.execAdr g a off s
  | .ldb g d a b => Sys2Proof.Machine.execLdb g d a b s
  | .ldh g d a b => Sys2Proof.Machine.execLdh g d a b s
  | .ldw g d a b => Sys2Proof.Machine.execLdw g d a b s
  | .ldd g d a b => Sys2Proof.Machine.execLdd g d a b s
  | .stb g d a b => Sys2Proof.Machine.execStb g d a b s
  | .sth g d a b => Sys2Proof.Machine.execSth g d a b s
  | .stw g d a b => Sys2Proof.Machine.execStw g d a b s
  | .std g d a b => Sys2Proof.Machine.execStd g d a b s
  | .vld g vd a b => Sys2Proof.Machine.execVld g vd a b s
  | .vlds g vd a b => Sys2Proof.Machine.execVlds g vd a b s
  | .vldx g vd a b => Sys2Proof.Machine.execVldx g vd a b s
  | .vldff g vd a b => Sys2Proof.Machine.execVldff g vd a b s
  | .vst g vd a b => Sys2Proof.Machine.execVst g vd a b s
  | .vsts g vd a b => Sys2Proof.Machine.execVsts g vd a b s
  | .vstx g vd a b => Sys2Proof.Machine.execVstx g vd a b s
  | .aadd g ord scope wide d a => Sys2Proof.Machine.execAadd g ord scope wide d a s
  | .aand g ord scope wide d a => Sys2Proof.Machine.execAand g ord scope wide d a s
  | .aor g ord scope wide d a => Sys2Proof.Machine.execAor g ord scope wide d a s
  | .axor g ord scope wide d a => Sys2Proof.Machine.execAxor g ord scope wide d a s
  | .amin g ord scope wide d a => Sys2Proof.Machine.execAmin g ord scope wide d a s
  | .amax g ord scope wide d a => Sys2Proof.Machine.execAmax g ord scope wide d a s
  | .aswp g ord scope wide d a => Sys2Proof.Machine.execAswp g ord scope wide d a s
  | .acas g ord scope wide d a => Sys2Proof.Machine.execAcas g ord scope wide d a s
  | .fence g ord scope => Sys2Proof.Machine.execFence g ord scope s
  | .dovetail g => Sys2Proof.Machine.execDovetail g s
  | .publish g ord scope a => Sys2Proof.Machine.execPublish g ord scope a s
  | .cmk g a b => Sys2Proof.Machine.execCmk g a b s
  | .cld g d a b => Sys2Proof.Machine.execCld g d a b s
  | .cfill g a b => Sys2Proof.Machine.execCfill g a b s
  | .cfail g a b => Sys2Proof.Machine.execCfail g a b s
  | .barinit g a b => Sys2Proof.Machine.execBarinit g a b s
  | .barx g a b => Sys2Proof.Machine.execBarx g a b s
  | .barw g a => Sys2Proof.Machine.execBarw g a s
  | .barrd g d a => Sys2Proof.Machine.execBarrd g d a s
  | .jpush g d a b => Sys2Proof.Machine.execJpush g d a b s
  | .qpush g a b => Sys2Proof.Machine.execQpush g a b s
  | .qpop g d a b => Sys2Proof.Machine.execQpop g d a b s
  | .qdepth g d a => Sys2Proof.Machine.execQdepth g d a s
  | .darrive g d a => Sys2Proof.Machine.execDarrive g d a s
  | .evqpop g d a => Sys2Proof.Machine.execEvqpop g d a s
  | .evqpush g a b => Sys2Proof.Machine.execEvqpush g a b s
  | .rnginit g a b => Sys2Proof.Machine.execRnginit g a b s
  | .rngtkt g d a => Sys2Proof.Machine.execRngtkt g d a s
  | .rngfill g d a b => Sys2Proof.Machine.execRngfill g d a b s
  | .rngget g d a b => Sys2Proof.Machine.execRngget g d a b s
  | .vadd g lc vd va vb => Sys2Proof.Machine.execVadd g lc vd va vb s
  | .vsub g lc vd va vb => Sys2Proof.Machine.execVsub g lc vd va vb s
  | .vmul g lc vd va vb => Sys2Proof.Machine.execVmul g lc vd va vb s
  | .vmulh g lc vd va vb => Sys2Proof.Machine.execVmulh g lc vd va vb s
  | .vand g lc vd va vb => Sys2Proof.Machine.execVand g lc vd va vb s
  | .vor g lc vd va vb => Sys2Proof.Machine.execVor g lc vd va vb s
  | .vxor g lc vd va vb => Sys2Proof.Machine.execVxor g lc vd va vb s
  | .vshl g lc vd va vb => Sys2Proof.Machine.execVshl g lc vd va vb s
  | .vshr g lc vd va vb => Sys2Proof.Machine.execVshr g lc vd va vb s
  | .vsar g lc vd va vb => Sys2Proof.Machine.execVsar g lc vd va vb s
  | .vmin g lc vd va vb => Sys2Proof.Machine.execVmin g lc vd va vb s
  | .vmax g lc vd va vb => Sys2Proof.Machine.execVmax g lc vd va vb s
  | .vminu g lc vd va vb => Sys2Proof.Machine.execVminu g lc vd va vb s
  | .vmaxu g lc vd va vb => Sys2Proof.Machine.execVmaxu g lc vd va vb s
  | .vadds g lc vd va vb => Sys2Proof.Machine.execVadds g lc vd va vb s
  | .vsubs g lc vd va vb => Sys2Proof.Machine.execVsubs g lc vd va vb s
  | .vfadd g lc vd va vb => Sys2Proof.Machine.execVfadd g lc vd va vb s
  | .vfsub g lc vd va vb => Sys2Proof.Machine.execVfsub g lc vd va vb s
  | .vfmul g lc vd va vb => Sys2Proof.Machine.execVfmul g lc vd va vb s
  | .vfma g lc vd va vb => Sys2Proof.Machine.execVfma g lc vd va vb s
  | .vfms g lc vd va vb => Sys2Proof.Machine.execVfms g lc vd va vb s
  | .vfnma g lc vd va vb => Sys2Proof.Machine.execVfnma g lc vd va vb s
  | .vfmin g lc vd va vb => Sys2Proof.Machine.execVfmin g lc vd va vb s
  | .vfmax g lc vd va vb => Sys2Proof.Machine.execVfmax g lc vd va vb s
  | .vrcpe g lc vd va => Sys2Proof.Machine.execVrcpe g lc vd va s
  | .vrsqe g lc vd va => Sys2Proof.Machine.execVrsqe g lc vd va s
  | .vexp2e g lc vd va => Sys2Proof.Machine.execVexp2e g lc vd va s
  | .vlog2e g lc vd va => Sys2Proof.Machine.execVlog2e g lc vd va s
  | .vtanhe g lc vd va => Sys2Proof.Machine.execVtanhe g lc vd va s
  | .vfabs g lc vd va => Sys2Proof.Machine.execVfabs g lc vd va s
  | .vfneg g lc vd va => Sys2Proof.Machine.execVfneg g lc vd va s
  | .vfclass g lc vd va => Sys2Proof.Machine.execVfclass g lc vd va s
  | .vcmpeq g lc md va vb => Sys2Proof.Machine.execVcmpeq g lc md va vb s
  | .vcmpne g lc md va vb => Sys2Proof.Machine.execVcmpne g lc md va vb s
  | .vcmplt g lc md va vb => Sys2Proof.Machine.execVcmplt g lc md va vb s
  | .vcmpltu g lc md va vb => Sys2Proof.Machine.execVcmpltu g lc md va vb s
  | .vfcmpeq g lc md va vb => Sys2Proof.Machine.execVfcmpeq g lc md va vb s
  | .vfcmplt g lc md va vb => Sys2Proof.Machine.execVfcmplt g lc md va vb s
  | .vfcmple g lc md va vb => Sys2Proof.Machine.execVfcmple g lc md va vb s
  | .vfcmpun g lc md va vb => Sys2Proof.Machine.execVfcmpun g lc md va vb s
  | .vmv g lc vd va => Sys2Proof.Machine.execVmv g lc vd va s
  | .vcvtw g lc vd va => Sys2Proof.Machine.execVcvtw g lc vd va s
  | .vcvtn g lc vd va => Sys2Proof.Machine.execVcvtn g lc vd va s
  | .vcvtfi g lc vd va => Sys2Proof.Machine.execVcvtfi g lc vd va s
  | .vcvtif g lc vd va => Sys2Proof.Machine.execVcvtif g lc vd va s
  | .vaddMasked g lc vd va vb => Sys2Proof.Machine.execVaddMasked g lc vd va vb s
  | .vsubMasked g lc vd va vb => Sys2Proof.Machine.execVsubMasked g lc vd va vb s
  | .vmulMasked g lc vd va vb => Sys2Proof.Machine.execVmulMasked g lc vd va vb s
  | .vmulhMasked g lc vd va vb => Sys2Proof.Machine.execVmulhMasked g lc vd va vb s
  | .vandMasked g lc vd va vb => Sys2Proof.Machine.execVandMasked g lc vd va vb s
  | .vorMasked g lc vd va vb => Sys2Proof.Machine.execVorMasked g lc vd va vb s
  | .vxorMasked g lc vd va vb => Sys2Proof.Machine.execVxorMasked g lc vd va vb s
  | .vshlMasked g lc vd va vb => Sys2Proof.Machine.execVshlMasked g lc vd va vb s
  | .vshrMasked g lc vd va vb => Sys2Proof.Machine.execVshrMasked g lc vd va vb s
  | .vsarMasked g lc vd va vb => Sys2Proof.Machine.execVsarMasked g lc vd va vb s
  | .vminMasked g lc vd va vb => Sys2Proof.Machine.execVminMasked g lc vd va vb s
  | .vmaxMasked g lc vd va vb => Sys2Proof.Machine.execVmaxMasked g lc vd va vb s
  | .vminuMasked g lc vd va vb => Sys2Proof.Machine.execVminuMasked g lc vd va vb s
  | .vmaxuMasked g lc vd va vb => Sys2Proof.Machine.execVmaxuMasked g lc vd va vb s
  | .vaddsMasked g lc vd va vb => Sys2Proof.Machine.execVaddsMasked g lc vd va vb s
  | .vsubsMasked g lc vd va vb => Sys2Proof.Machine.execVsubsMasked g lc vd va vb s
  | .vfaddMasked g lc vd va vb => Sys2Proof.Machine.execVfaddMasked g lc vd va vb s
  | .vfsubMasked g lc vd va vb => Sys2Proof.Machine.execVfsubMasked g lc vd va vb s
  | .vfmulMasked g lc vd va vb => Sys2Proof.Machine.execVfmulMasked g lc vd va vb s
  | .vfmaMasked g lc vd va vb => Sys2Proof.Machine.execVfmaMasked g lc vd va vb s
  | .vfmsMasked g lc vd va vb => Sys2Proof.Machine.execVfmsMasked g lc vd va vb s
  | .vfnmaMasked g lc vd va vb => Sys2Proof.Machine.execVfnmaMasked g lc vd va vb s
  | .vfminMasked g lc vd va vb => Sys2Proof.Machine.execVfminMasked g lc vd va vb s
  | .vfmaxMasked g lc vd va vb => Sys2Proof.Machine.execVfmaxMasked g lc vd va vb s
  | .vrcpeMasked g lc vd va => Sys2Proof.Machine.execVrcpeMasked g lc vd va s
  | .vrsqeMasked g lc vd va => Sys2Proof.Machine.execVrsqeMasked g lc vd va s
  | .vexp2eMasked g lc vd va => Sys2Proof.Machine.execVexp2eMasked g lc vd va s
  | .vlog2eMasked g lc vd va => Sys2Proof.Machine.execVlog2eMasked g lc vd va s
  | .vtanheMasked g lc vd va => Sys2Proof.Machine.execVtanheMasked g lc vd va s
  | .vfabsMasked g lc vd va => Sys2Proof.Machine.execVfabsMasked g lc vd va s
  | .vfnegMasked g lc vd va => Sys2Proof.Machine.execVfnegMasked g lc vd va s
  | .vfclassMasked g lc vd va => Sys2Proof.Machine.execVfclassMasked g lc vd va s
  | .vcmpeqMasked g lc md va vb => Sys2Proof.Machine.execVcmpeqMasked g lc md va vb s
  | .vcmpneMasked g lc md va vb => Sys2Proof.Machine.execVcmpneMasked g lc md va vb s
  | .vcmpltMasked g lc md va vb => Sys2Proof.Machine.execVcmpltMasked g lc md va vb s
  | .vcmpltuMasked g lc md va vb => Sys2Proof.Machine.execVcmpltuMasked g lc md va vb s
  | .vfcmpeqMasked g lc md va vb => Sys2Proof.Machine.execVfcmpeqMasked g lc md va vb s
  | .vfcmpltMasked g lc md va vb => Sys2Proof.Machine.execVfcmpltMasked g lc md va vb s
  | .vfcmpleMasked g lc md va vb => Sys2Proof.Machine.execVfcmpleMasked g lc md va vb s
  | .vfcmpunMasked g lc md va vb => Sys2Proof.Machine.execVfcmpunMasked g lc md va vb s
  | .vmvMasked g lc vd va => Sys2Proof.Machine.execVmvMasked g lc vd va s
  | .vcvtwMasked g lc vd va => Sys2Proof.Machine.execVcvtwMasked g lc vd va s
  | .vcvtnMasked g lc vd va => Sys2Proof.Machine.execVcvtnMasked g lc vd va s
  | .vcvtfiMasked g lc vd va => Sys2Proof.Machine.execVcvtfiMasked g lc vd va s
  | .vcvtifMasked g lc vd va => Sys2Proof.Machine.execVcvtifMasked g lc vd va s
  | .vrotr g lc vd va x => Sys2Proof.Machine.execVrotr g lc vd va x s
  | .vrotc g lc vd va x => Sys2Proof.Machine.execVrotc g lc vd va x s
  | .vbcst g lc vd x => Sys2Proof.Machine.execVbcst g lc vd x s
  | .vextr g lc vd va x => Sys2Proof.Machine.execVextr g lc vd va x s
  | .vsetvl g x => Sys2Proof.Machine.execVsetvl g x s
  | .vcompress g lc vd va x => Sys2Proof.Machine.execVcompress g lc vd va x s
  | .vexpand g lc vd va x => Sys2Proof.Machine.execVexpand g lc vd va x s
  | .vredi g lc vd va x => Sys2Proof.Machine.execVredi g lc vd va x s
  | .mand g lc md ma mb => Sys2Proof.Machine.execMand g lc md ma mb s
  | .mor g lc md ma mb => Sys2Proof.Machine.execMor g lc md ma mb s
  | .mxor g lc md ma mb => Sys2Proof.Machine.execMxor g lc md ma mb s
  | .mandn g lc md ma mb => Sys2Proof.Machine.execMandn g lc md ma mb s
  | .mnot g lc md ma => Sys2Proof.Machine.execMnot g lc md ma s
  | .mset g lc md => Sys2Proof.Machine.execMset g lc md s
  | .mclr g lc md => Sys2Proof.Machine.execMclr g lc md s
  | .mmov g lc md ma => Sys2Proof.Machine.execMmov g lc md ma s
  | .twr g lc t va => Sys2Proof.Machine.execTwr g lc t va s
  | .trd g lc vd t => Sys2Proof.Machine.execTrd g lc vd t s
  | .psadd g lc ps va => Sys2Proof.Machine.execPsadd g lc ps va s
  | .psrd g lc vd ps => Sys2Proof.Machine.execPsrd g lc vd ps s
  | .psclr g lc ps => Sys2Proof.Machine.execPsclr g lc ps s
  | .vredadd g lc vd va => Sys2Proof.Machine.execVredadd g lc vd va s
  | .vredmax g lc vd va => Sys2Proof.Machine.execVredmax g lc vd va s
  | .vfredadd g lc vd va => Sys2Proof.Machine.execVfredadd g lc vd va s
  | .krsum g lc vd va ms => Sys2Proof.Machine.execKrsum g lc vd va ms s
  | .krmean g lc vd va ms => Sys2Proof.Machine.execKrmean g lc vd va ms s
  | .kvcnt g lc vd ms => Sys2Proof.Machine.execKvcnt g lc vd ms s
  | .kmrd g lc md va => Sys2Proof.Machine.execKmrd g lc md va s
  | .srrd g d n => Sys2Proof.Machine.execSrrd g d n s
  | .srwr g a n => Sys2Proof.Machine.execSrwr g a n s
  | .syscall g d a b => Sys2Proof.Machine.execSyscall g d a b s
  | .tickwt g a => Sys2Proof.Machine.execTickwt g a s
  | .framerd g d n => Sys2Proof.Machine.execFramerd g d n s
  | .cpt g a b => Sys2Proof.Machine.execCpt g a b s
  | .cpc g a b => Sys2Proof.Machine.execCpc g a b s
  | .cpx g a b => Sys2Proof.Machine.execCpx g a b s
  | .cptr g a b => Sys2Proof.Machine.execCptr g a b s
  | .cpm g a b => Sys2Proof.Machine.execCpm g a b s
  | .cpz g a b => Sys2Proof.Machine.execCpz g a b s
  | .cpd g a b => Sys2Proof.Machine.execCpd g a b s
  | .bkrun g a b => Sys2Proof.Machine.execBkrun g a b s
  | .bkrst g => Sys2Proof.Machine.execBkrst g s
  | .bkfin g => Sys2Proof.Machine.execBkfin g s
  | .bkdrain g a b => Sys2Proof.Machine.execBkdrain g a b s
  | .bkshape g a => Sys2Proof.Machine.execBkshape g a s
  | .dmma g a b => Sys2Proof.Machine.execDmma g a b s
  | .dmmac g a b => Sys2Proof.Machine.execDmmac g a b s
  | .ddrain g a b => Sys2Proof.Machine.execDdrain g a b s
  | .dbyp g a => Sys2Proof.Machine.execDbyp g a s
  | .dclr g => Sys2Proof.Machine.execDclr g s
  | .sortw g a b => Sys2Proof.Machine.execSortw g a b s
  | .swapw g a => Sys2Proof.Machine.execSwapw g a s
  | .wpin g a b => Sys2Proof.Machine.execWpin g a b s
  | .moload g a b => Sys2Proof.Machine.execMoload g a b s
  | .mobase g a b => Sys2Proof.Machine.execMobase g a b s
  | .mostart g a => Sys2Proof.Machine.execMostart g a s
  | .mostop g a => Sys2Proof.Machine.execMostop g a s
  | .txfer g a b => Sys2Proof.Machine.execTxfer g a b s
  | .gather g a b => Sys2Proof.Machine.execGather g a b s
  | .gwait g a => Sys2Proof.Machine.execGwait g a s
  | .msend g a b => Sys2Proof.Machine.execMsend g a b s
  | .ksend g a b => Sys2Proof.Machine.execKsend g a b s
  | .amtset g a b => Sys2Proof.Machine.execAmtset g a b s
  | .amtclr g a => Sys2Proof.Machine.execAmtclr g a s
  | .rep cnt step => Sys2Proof.Machine.execRep cnt step s
  | .intervalPulse sensors soft broken => Sys2Proof.Machine.execIntervalPulse sensors soft broken s
  | .slipRepeat p => Sys2Proof.Machine.execSlipRepeat p s
  | .frameComplete p => Sys2Proof.Machine.execFrameComplete p s
  | .frameDone port frame rank => Sys2Proof.Machine.execFrameDone port frame rank s
  | .nodeRelease p n => Sys2Proof.Machine.execNodeRelease p n s
  | .jpushDue p => Sys2Proof.Machine.execJpushDue p s
  | .selection core => Sys2Proof.Machine.execSelection core s
  | .loadingComplete core => Sys2Proof.Machine.execLoadingComplete core s
  | .contextSwitch core => Sys2Proof.Machine.execContextSwitch core s
  | .retirement core => Sys2Proof.Machine.execRetirement core s
  | .park core => Sys2Proof.Machine.execPark core s
  | .evaluationStart g => Sys2Proof.Machine.execEvaluationStart g s
  | .submit fn v => Sys2Proof.Machine.execSubmit fn v s
  | .launchStart p => Sys2Proof.Machine.execLaunchStart p s
  | .launchActivate p => Sys2Proof.Machine.execLaunchActivate p s
  | .launchExchange port rank pgid crc => Sys2Proof.Machine.execLaunchExchange port rank pgid crc s
  | .pgtimeout p => Sys2Proof.Machine.execPgtimeout p s
  | .refusalNotice port pgid => Sys2Proof.Machine.execRefusalNotice port pgid s
  | .launchEnd p => Sys2Proof.Machine.execLaunchEnd p s
  | .copyExecute g e cmd n cached refused => Sys2Proof.Machine.execCopyExecute g e cmd n cached refused s
  | .copyComplete g e cmd => Sys2Proof.Machine.execCopyComplete g e cmd s
  | .pageRequestGroup p => Sys2Proof.Machine.execPageRequestGroup p s
  | .pageResponse p group code => Sys2Proof.Machine.execPageResponse p group code s
  | .ceinv p w => Sys2Proof.Machine.execCeinv p w s
  | .fradd p w => Sys2Proof.Machine.execFradd p w s
  | .sortComplete g => Sys2Proof.Machine.execSortComplete g s
  | .gatherComplete core half => Sys2Proof.Machine.execGatherComplete core half s
  | .txferComplete core => Sys2Proof.Machine.execTxferComplete core s
  | .sharedReadStart core kind => Sys2Proof.Machine.execSharedReadStart core kind s
  | .bucketExpansion core => Sys2Proof.Machine.execBucketExpansion core s
  | .bucketRetire core n => Sys2Proof.Machine.execBucketRetire core n s
  | .denseCommit core => Sys2Proof.Machine.execDenseCommit core s
  | .predictionResolve core => Sys2Proof.Machine.execPredictionResolve core s
  | .queueRefill g q => Sys2Proof.Machine.execQueueRefill g q s
  | .messageHeader port kerf tag len pgid rank seq dl data => Sys2Proof.Machine.execMessageHeader port kerf tag len pgid rank seq dl data s
  | .acknowledgement g e cmd => Sys2Proof.Machine.execAcknowledgement g e cmd s
  | .nomatch g e cmd => Sys2Proof.Machine.execNomatch g e cmd s
  | .attemptTimeout g e cmd => Sys2Proof.Machine.execAttemptTimeout g e cmd s
  | .newAttempt g e cmd => Sys2Proof.Machine.execNewAttempt g e cmd s
  | .kerfBlock port n valid data => Sys2Proof.Machine.execKerfBlock port n valid data s
  | .endMarker port => Sys2Proof.Machine.execEndMarker port s
  | .kerfDeadline port => Sys2Proof.Machine.execKerfDeadline port s
  | .etick port entry => Sys2Proof.Machine.execEtick port entry s
  | .discardNotice port pgid => Sys2Proof.Machine.execDiscardNotice port pgid s
  | .redirectNotice from_ port2 => Sys2Proof.Machine.execRedirectNotice from_ port2 s
  | .moved g e cmd => Sys2Proof.Machine.execMoved g e cmd s
  | .hostAccess fn bar write off n data => Sys2Proof.Machine.execHostAccess fn bar write off n data s
  | .atomicop fn kind n off opd swap owner => Sys2Proof.Machine.execAtomicop fn kind n off opd swap owner s
  | .atsInvalidation fn page n => Sys2Proof.Machine.execAtsInvalidation fn page n s
  | .functionLevelReset fn => Sys2Proof.Machine.execFunctionLevelReset fn s
  | .d3hot fn enter => Sys2Proof.Machine.execD3hot fn enter s
  | .moduleReset => Sys2Proof.Machine.execModuleReset s
  | .rst w => Sys2Proof.Machine.execRst w s
  | .svc w => Sys2Proof.Machine.execSvc w s
  | .romboot => Sys2Proof.Machine.execRomboot s
  | .train marker => Sys2Proof.Machine.execTrain marker s
  | .portTraining n direct width => Sys2Proof.Machine.execPortTraining n direct width s
  | .retrain n w => Sys2Proof.Machine.execRetrain n w s
  | .preempt p w => Sys2Proof.Machine.execPreempt p w s
  | .stopPoint p => Sys2Proof.Machine.execStopPoint p s
  | .stopTimeout p => Sys2Proof.Machine.execStopTimeout p s
  | .saveComplete p => Sys2Proof.Machine.execSaveComplete p s
  | .resume p w => Sys2Proof.Machine.execResume p w s
  | .restoreComplete p => Sys2Proof.Machine.execRestoreComplete p s
  | .discard p w => Sys2Proof.Machine.execDiscard p w s
  | .discardComplete p => Sys2Proof.Machine.execDiscardComplete p s
  | .brkgo p task => Sys2Proof.Machine.execBrkgo p task s
  | .svcdone p slot => Sys2Proof.Machine.execSvcdone p slot s
  | .migctlGo p w peerOk => Sys2Proof.Machine.execMigctlGo p w peerOk s
  | .handOver p data last => Sys2Proof.Machine.execHandOver p data last s
  | .pagePull p m n data cells => Sys2Proof.Machine.execPagePull p m n data cells s
  | .pagePush p m n data cells => Sys2Proof.Machine.execPagePush p m n data cells s
  | .migrationDone p => Sys2Proof.Machine.execMigrationDone p s
  | .migrationLinkFailure p => Sys2Proof.Machine.execMigrationLinkFailure p s
  | .imgctlGo fn w => Sys2Proof.Machine.execImgctlGo fn w s
  | .imageLoadEnd fn data ok => Sys2Proof.Machine.execImageLoadEnd fn data ok s
  | .attctlGo w => Sys2Proof.Machine.execAttctlGo w s
  | .attestationReport => Sys2Proof.Machine.execAttestationReport s
  | .hwfault site => Sys2Proof.Machine.execHwfault site s
  | .linkfatal port => Sys2Proof.Machine.execLinkfatal port s
  | .ftWrite p n w => Sys2Proof.Machine.execFtWrite p n w s
  | .transWrite p n w => Sys2Proof.Machine.execTransWrite p n w s
  | .registerWrite fn off w => Sys2Proof.Machine.execRegisterWrite fn off w s
  | .accessPerformed ctl n inStore entry elem => Sys2Proof.Machine.execAccessPerformed ctl n inStore entry elem s
  | .denseRetire core n => Sys2Proof.Machine.execDenseRetire core n s
  | .level4PhaseMessage port count rank => Sys2Proof.Machine.execLevel4PhaseMessage port count rank s
  | .migrationAbort p => Sys2Proof.Machine.execMigrationAbort p s
  | .invalidationComplete p => Sys2Proof.Machine.execInvalidationComplete p s
  | .pageRequestInterfaceEnable fn alloc => Sys2Proof.Machine.execPageRequestInterfaceEnable fn alloc s
  | .auxiliaryPower on => Sys2Proof.Machine.execAuxiliaryPower on s

end Sys2Proof.Machine
end

