-- ==== Sys2Proof/Machine/Turns.lean ====
section
/-! DEFINITION. What moves next (notes/assumptions/1.md), and placing a word where the next step issues it (notes/assumptions/2.md). -/

namespace Sys2Proof.Machine

open Sys2Proof

/-- What moves when the agenda names nothing: the stream that moved last, if it can issue; else the module boots, trains, or an interval opens (15 R409; 00 R3). -/
noncomputable def idleTurn (s : State) : Turn × State :=
  if s.live s.cur then (.issue s.cur [] false, s)
  else if s.modl.mstate = 0 then (.event .romboot, s)
  else if s.modl.mstate = 2 then (.event (.train ((Config.freeWord s.freeCtr).setWidth 32)), s.drawn)
  else (.event (.intervalPulse [] [] []), s)

/-- The next turn, taken off the agenda. -/
noncomputable def takeTurn (s : State) : Turn × State :=
  match s.agenda with
  | [] => idleTurn s
  | t :: r => (t, { s with agenda := r })

/-- The state in which an agent's word is fetched and issued. -/
def atTurn (a : Agent) (old : List Nat) (late : Bool) (s : State) : State := { s with cur := a, old := old, late := late }

/-! The clocks in which a discard begins (14 R380, R387). -/

/-- May streams of a launch that is being discarded still issue: have the 64 clocks since its discard began not surely passed (14 R387 step 1)? No more than one interval pulse, which comes every 600 clocks, falls into them. -/
def Launch.fresh (l : Launch) (intcnt : Nat) : Bool :=
  match l.fade with
  | some k => decide ((intcnt + 2 ^ 48 - k) % 2 ^ 48 ≤ 1)
  | none => false

/-- The state before the discard of an agent's launch began, for a stream that has raised no trap itself. -/
def undiscarded (a : Agent) (s : State) : State :=
  match s.partOf? a.cluster with
  | none => s
  | some p => s.modLaunch p fun l =>
    if l.phase = .discarding && l.fresh s.modl.intcnt && !l.stops.any (fun x => decide (x.1 = a)) then { l with phase := .active } else l

/-- May the agent's stream still issue, in the clocks in which the discard of its launch begins (log entry 84)? -/
def State.fading (s : State) (a : Agent) : Bool := !s.live a && (undiscarded a s).live a

/-- What a word of a launch that is being discarded leaves: `t` is the state after it, and the discard goes on. -/
def fadingWord (a : Agent) (s t : State) : State :=
  match s.partOf? a.cluster with
  | none => t
  | some p => startDiscard p t

/-! Placing a word. -/

/-- The window entry through which the placed word is fetched: the first page of the cluster scratchpad, at virtual address 0. -/
def fetchEntry : WinEntry := { vbase := 0, size := 0, x := true, w := false, rd := false, toff := 0, typ := .clus, index := 0, back := false }

/-- The task of the placed word: both streams stand at virtual address 0. -/
def placedTask (t : Task) : Task :=
  { t with
    window := [fetchEntry], brk := false
    a := { t.a with pc := 0#64, ended := false, rep := 0 }
    x := { t.x with pc := 0#64, ended := false, rep := 0 } }

/-- Store the placed bytes: the page is owned, and no byte of it is in error. -/
def placeBytes (bs : List Byte) (s : State) : State :=
  ({ s with attr := { s.attr with
      ecc := s.attr.ecc.filter fun u => !(decide (u * 32 < clusBase 0 + 4096) && decide (clusBase 0 < u * 32 + 32))
      away := s.attr.away.filter fun r => !(decide (r.1 ≤ clusBase 0 / 4096) && decide (clusBase 0 / 4096 < r.2)) } }).putBytes (clusBase 0) bs

/-- Partition 0 owns cluster 0 and has an active launch, core 0 runs a task, and its column is not too hot. -/
def placeTask (s : State) : State :=
  let t := placedTask (s.task (.access 0))
  let s := s.modPart 0 fun pt =>
    { pt with
      pstate := .active, launch := some { pt.launch.getD .empty with phase := .active }
      regs := { pt.regs with pclus := pt.regs.pclus ||| 1#192 } }
  (s.modPlat fun x => { x with tcol := tdel x.tcol 0 }).setTask (.access 0) t

/-- Place bytes as the next instruction of a stream of core 0. -/
def placeAt (k : StreamKind) (bs : List Byte) (s : State) : State :=
  let a : Agent := match k with | .access => .access 0 | .execute => .execute 0
  let s := placeBytes bs (placeTask s)
  { s with agenda := .issue a [] false :: s.agenda }

end Sys2Proof.Machine
end

