-- ==== Sys2Proof/Machine/Step.lean ====
section
/-! DEFINITION. The step of the module: one turn of the agenda (notes/assumptions/1.md). -/

namespace Sys2Proof.Machine

open Sys2Proof

/-- The next word of the agent whose turn it is (02 R42-R62). -/
noncomputable def issueWord (s : State) : Host.Outcome State Fault Refusal :=
  match nextInstr s.cur s with
  | .error st => .next (stopFetch s.cur st s)
  | .ok (i, s) => exec i s

/-- An agent whose turn it is issues its next word; a core of a column that is too hot holds (15 R418). In a launch that is being discarded streams stop within 64 clocks (14 R380, R387). -/
noncomputable def issueTurn (s : State) : Host.Outcome State Fault Refusal :=
  if !s.live s.cur && !s.fading s.cur then .fault .noStream
  else if s.tooHot s.cur.cluster then .next s
  else if s.live s.cur then issueWord s
  else match issueWord (undiscarded s.cur s) with
    | .next t => .next (fadingWord s.cur s t)
    | r => r

/-- What a turn does. -/
noncomputable def runTurn (t : Turn) (s : State) : Host.Outcome State Fault Refusal :=
  match t with
  | .issue a old late => issueTurn (atTurn a old late s)
  | .event e => if e.isWord then .fault .notAnEvent else exec e s

/-- One step: the next turn of the agenda. -/
noncomputable def step (s : State) : Host.Outcome State Fault Refusal :=
  let q := takeTurn s
  runTurn q.1 q.2

/-- The state with an instruction placed where the next step issues it, in a stream that may issue it (notes/assumptions/2.md). -/
noncomputable def State.withFetchWord (s : State) (nbits w : Nat) : State :=
  let v := w % 2 ^ nbits
  let k : StreamKind := match decodeTableWord nbits w with | some i => if i.inStream .access then .access else .execute | none => .access
  placeAt k (bytesOfWord (BitVec.ofNat 32 v) ++ bytesOfWord (BitVec.ofNat 32 (v / 2 ^ 32))) s

end Sys2Proof.Machine
end

