-- ==== Sys2Proof/Safety.lean ====
section
/-! DEFINITION. What a safe run is, and the words in which statements about the machine are made: a word that is ready to issue, the values its operands have, the task of the agent before its effect and after it, and what an instruction leaves alone. -/

namespace Sys2Proof.Machine

open Sys2Proof

/-! Safe runs. -/

/-- The invariant of the module's state: its memory is in the canonical form. -/
def State.Inv (s : State) : Prop := Memory.wf s.mem = true

/-- `k` steps from a state end in a next state: no turn of the agenda names an agent that cannot issue, or a word as an event. -/
def Safe (k : Nat) (s : State) : Prop := ∃ t, Host.Core.run Sys2Proof.core k s = .next t

/-! A word that is ready (02 R43-R45, R60-R62; 04 R94, R98). -/

/-- It is the agent's turn, its stream can issue, no CLD of its task waits, the word is legal there, on a predicted arm it is an engine command, its guard is on, and no operand holds it. -/
structure Ready (w : WordInfo) (a : Agent) (s : State) : Prop where
  cur : s.cur = a
  live : s.live a = true
  noCell : (a.kind == .access && (s.task a).a.loads.any (·.waiting)) = false
  legal : w.legal a.kind a.core?.isNone = true
  arm : ((s.task a).x.arm.isSome && a.kind == .execute && (!w.engine || w.roles.any fun r => r.queue?.isSome)) = false
  guard : guardStop a w.guard s = .ok ()
  on : guardOn (ctxOf a w s) w.guard s = (true, s)
  roles : rolesStop a s w.roles = .ok ()

/-- The task of the agent when the word's effect takes place: its reads have landed and its stream has stepped past it (02 R55). -/
def entered (w : WordInfo) (a : Agent) (t : Task) : Task :=
  let t := stepPast a.kind w.words (landReads a w t)
  if a.kind == .access then { t with a := { t.a with seq := t.a.seq + 1 } } else t

/-- The task of the agent after the word: the waits of its stream are over, and an execute stream has used a slot. -/
def settled (a : Agent) (t : Task) : Task :=
  match a with
  | .execute _ => { t with x := { t.x with clk := t.x.clk + 1, hold := .none }, scoreboard := boardOn t }
  | _ => { t with a := { t.a with wait := none, rdv := false, kept := none }, x := { t.x with hold := .none }, scoreboard := boardOn t, acted := true }

/-! Fetch (02 R42, R61; 05 R123). -/

/-- The stream fetches the word at `va` from address `b` of the memory space: an entry with execute permission holds it, it is owned, without an error, not expired, and no store of a launch leaves its old value to be seen; `k` numbers the words of the instruction. -/
structure Fetches (a : Agent) (k : Nat) (s : State) (va : W64) (b : Nat) : Prop where
  window : ∃ tgt, translate s a (s.task a) va .fetch = .ok tgt ∧ loadAddr s (s.partOf a) tgt = some b
  owned : s.owned b = true
  sound : s.eccHit b 4 = false
  current : s.expired b = false
  stored : s.old.getD k 0 = 0 ∨ tget? s.attr.prior (b / 4) = none

/-- The stream of the agent can issue, no CLD of its task waits, and it stands on no predicted arm. -/
structure Issues (a : Agent) (s : State) : Prop where
  cur : s.cur = a
  live : s.live a = true
  noCell : a.kind = .access → (s.task a).a.loads.any (·.waiting) = false
  noArm : a.kind = .execute → (s.task a).x.arm = none

/-- What issues of a word whose guard is off: it reads its guard and takes its literal word (02 R45). -/
def skipped (i : Instr) : WordInfo := both i.guard (i.roles.filter fun r => r.lit?.isSome)

/-! Operands of the access stream and of control cores, which read registers as they are (02 R46; 04 R91). -/

/-- The value of a scalar source. -/
def srcVal (t : Task) : Scalar → W64
  | .lit w => w.signExtend 64
  | .zr => 0#64
  | .s n => tget 0#64 t.regs n.val
  | .lr => tget 0#64 t.regs keyLr
  | .sp => tget 0#64 t.regs keySp
  | .sq _ => 0#64

/-- Key of a scalar destination in the register file, if it is a register. -/
def dstKey : SDst → Option Nat
  | .s n => some n.val
  | .lr => some keyLr
  | .sp => some keySp
  | _ => none

/-- A value written to a scalar destination by the access stream, in word `seq`: a register holds it and waits for no load; zr discards it; sq0-sq3 receive an entry, unless the execute stream has ended (02 R46, R48; 04 R97). -/
def written (seq : Nat) (d : SDst) (v : W64) (t : Task) : Task :=
  match d with
  | .zr => t
  | .s n => { t with regs := tput t.regs n.val v, a := { t.a with pend := tdel t.a.pend n.val } }
  | .lr => { t with regs := tput t.regs keyLr v, a := { t.a with pend := tdel t.a.pend keyLr } }
  | .sp => { t with regs := tput t.regs keySp v, a := { t.a with pend := tdel t.a.pend keySp } }
  | .sq n =>
    if t.x.ended then t else { t with q := { t.q with sq := tput t.q.sq n.val (tget [] t.q.sq n.val ++ [{ seq := seq, val := some v }]) } }

/-! Predicates and branches. -/

/-- The value of a predicate in a stream: an execute stream reads p0-p7 as their entry value 0 (04 R93). -/
def predVal (a : Agent) (t : Task) (p : Pred) : Bool := !(a.kind == .execute && decide (p.val < 8)) && t.preds.getLsbD p.val

/-- A read of the predicate by the stream is no read before a bound (02 R51). -/
def predLanded (a : Agent) (t : Task) (p : Pred) : Prop := a.kind = .access ∨ p.val < 8 ∨ early t (keyPred p) t.x.clk = false

/-- The guard's predicate, as the stream reads it, turns the word off (02 R43, R44; 04 R93). -/
def guardOff (a : Agent) (t : Task) : Guard → Prop
  | .always => False
  | .onTrue p => predLanded a t p ∧ predVal a t p = false
  | .onFalse p => predLanded a t p ∧ predVal a t p = true

/-- The stream of the agent stands at an address; a taken branch of an execute stream costs `cost` clocks in all (04 R113). -/
def jumped (a : Agent) (target : W64) (cost : Nat) (t : Task) : Task :=
  let t := t.setPc a.kind target
  if a.kind == .execute then { t with x := { t.x with clk := t.x.clk + (cost - 1) } } else t

/-! Accesses of the access stream and of control cores (05 R123, R131; 06 R140-R142). -/

/-- The old value of a register that a word both reads and writes. -/
def dstVal (t : Task) : SDst → W64
  | .s n => tget 0#64 t.regs n.val
  | .lr => tget 0#64 t.regs keyLr
  | .sp => tget 0#64 t.regs keySp
  | _ => 0#64

/-- An access at `va` meets no error: it is aligned, its window entry translates it, and what it reads has not expired (05 R123, R131; 13 R374). -/
structure Reaches (a : Agent) (s : State) (va : W64) (align : Nat) (k : AccKind) (tgt : Target) : Prop where
  aligned : va.toNat % align = 0
  window : translate s a (s.task a) va k = .ok tgt
  current : k = .load ∨ k = .atomic → ∀ b, loadAddr s (s.partOf a) tgt = some b → s.expired b = false

/-- Element `j` of a queued access, not performed yet. -/
def element (j : Nat) (va : W64) (tgt : Target) (n : Nat) (data : W64) : AccElem :=
  { j := j, va := va, tgt := tgt, n := n, data := data, done := false }

/-- The 4-byte elements of a vector access, by number and address: each of them meets no error (05 R133). -/
def Elements (a : Agent) (s : State) (k : AccKind) : List (Nat × W64) → List AccElem → Prop
  | [], [] => True
  | x :: l, e :: es => (Reaches a s x.2 4 k e.tgt ∧ e = element x.1 x.2 e.tgt 4 0#64) ∧ Elements a s k l es
  | _, _ => False

/-- The destination of a load is claimed: a register waits for word `seq`, a queue entry stands for its value (04 R96-R98). -/
def claimed (seq : Nat) (dst : LoadDst) (ready : Bool) (t : Task) : Task :=
  match dst with
  | .none => t
  | .reg k => { t with a := { t.a with pend := tput t.a.pend k seq } }
  | .sq n => if t.x.ended then t else { t with q := { t.q with sq := tput t.q.sq n (tget [] t.q.sq n ++ [{ seq := seq, val := none }]) } }
  | .vq n =>
    if t.x.ended then t
    else { t with q := { t.q with vq := tput t.q.vq n (tget [] t.q.vq n ++ [{ seq := seq, data := [], ready := ready }]) } }

/-- A load stands last in the load queue; one without elements is complete at once. -/
def loading (x : Access) (t : Task) : Task :=
  if x.elems.isEmpty then t else { t with a := { t.a with loads := t.a.loads ++ [x] } }

/-- A store stands last in the store queue; a store or an atomic has a forwarding-table entry if one is free. -/
def storing (x : Access) (t : Task) : Task :=
  if x.elems.isEmpty then t else { t with a := { t.a with stores := t.a.stores ++ [{ x with fwd := x.op.forwards && fwdRoom t }] } }

/-! Accesses performed at their homes (06 R140-R148). -/

/-- Entry `i` of the load or store queue of the agent's task is `x`, and nothing keeps its element `e` from being performed now. -/
structure Performs (a : Agent) (s : State) (inStore : Bool) (i : Nat) (x : Access) (e : AccElem) : Prop where
  running : (s.task? a).isSome = true
  accessing : s.accessing a x.seq = true
  entry : (if inStore then (s.task a).a.stores else (s.task a).a.loads)[i]? = some x
  home : x.waiting = false
  elem : x.elems.find? (fun f => f.j == e.j && !f.done) = some e
  free : elemBlocked s a (s.task a) inStore ((if inStore then (s.task a).a.stores else (s.task a).a.loads).take i) x e = none

/-- The agent whose queued access an event performs. -/
def performer (ctl : Bool) (n : Nat) : Agent := if ctl then .control n else .access n

/-- A queue after element `j` of its entry `i` has been performed: an access whose elements have all been performed leaves it. -/
def afterElem (i j : Nat) (x : Access) (q : List Access) (f : Access → Access) : List Access :=
  if (elemDone j x).open_.isEmpty then ldel q i else lmod q i fun y => f (elemDone j y)

/-- A store of bytes reaches memory: `bs` stand from address `b` on, and every other byte is as before, but for the page of `b` if it had expired (13 R374). -/
def Wrote (s t : State) (b : Nat) (bs : List Byte) : Prop :=
  (∀ k, k < bs.length → t.byte (b + k) = bs.getD k 0#8) ∧
  (∀ d, (d < b ∨ b + bs.length ≤ d) → (s.expired b = false ∨ d / 4096 ≠ b / 4096) → t.byte d = s.byte d)

/-- The bytes of memory are as before. -/
def SameBytes (s t : State) : Prop := ∀ d, t.byte d = s.byte d

/-! Commands of the access stream to engines (08 R197-R199; 13 R359). -/

/-- The engine that a control word of a copy names: ENG, or with AUTO the one with the most free entries, the lowest on a tie (08 R197). -/
def Names (s : State) (g : Nat) (ctl : W64) (e : Nat) : Prop :=
  if ctl.getLsbD 18 then e < 4 ∧ (∀ f, f < 4 → freeEntries s g f ≤ freeEntries s g e) ∧ (∀ f, f < e → freeEntries s g f < freeEntries s g e)
  else e = (ctl.extractLsb' 16 2).toNat

/-- A control word that keeps R197 and names a barrier of the partition, an engine and a free entry of its queue. -/
structure Accepts (s : State) (p g : Nat) (ctl : W64) (e : Nat) : Prop where
  bits : ctl.toNat < 2 ^ 20
  auto : ctl.getLsbD 18 = true → (ctl.extractLsb' 16 2).toNat = 0
  barrier : ctl.getLsbD 14 = true → s.hasCluster p ((ctl.extractLsb' 0 14).toNat / 64) = true ∧ (ctl.extractLsb' 0 14).toNat < 12288
  engine : Names s g ctl e
  room : freeEntries s g e ≠ 0

/-- The task has sent one more engine command (02 R45; 08 R199). -/
def counted (t : Task) : Task := { t with cmdx := t.cmdx + 1 }

/-- Engine `e` of cluster `g` has one more command, which came from the agent's task with that control word, and the other engines are as before. -/
def Enqueued (a : Agent) (s t : State) (g e : Nat) (ctl : W64) (cmd : CopyCmd) : Prop :=
  let u := s.task a
  t.copyQueue g e = s.copyQueue g e ++ [cmd] ∧ (∀ h f, ¬ (h = g ∧ f = e) → t.copyQueue h f = s.copyQueue h f) ∧
  cmd.by_.task = u.ident ∧ cmd.by_.idx = u.cmdx ∧ cmd.by_.seq = u.a.seq ∧ cmd.view = s.view a ∧ cmd.row = 0 ∧ cmd.x = 0 ∧ cmd.wait = none ∧ cmd.captured = false ∧
  cmd.ctl.seq = ctl.getLsbD 19 ∧ cmd.ctl.recEvt = ctl.getLsbD 15 ∧ cmd.ctl.baren = ctl.getLsbD 14 ∧ cmd.ctl.bar = (ctl.extractLsb' 0 14).toNat

/-- A store of `8 * n` bytes at `va` and address `b`, in elements of eight bytes (06 R140). -/
def octets (n : Nat) (va : W64) (b : Nat) (bs : List Byte) : List AccElem :=
  (List.range n).map fun i =>
    element i (va + BitVec.ofNat 64 (8 * i)) (.byte (b + 8 * i)) 8 (BitVec.ofNat 64 (leValue ((bs.drop (8 * i)).take 8)))

/-- Queue `q` of cluster `g` is `k`, and every other queue is as before. -/
def QueueIs (s t : State) (g q : Nat) (k : TaskQueue) : Prop :=
  t.queue g q = k ∧ ∀ h r, ¬ (h = g ∧ r = q) → t.queue h r = s.queue h r

/-- A word that neither issues nor traps: its stream waits (01 R22; 02 R48). -/
def Holds (i : Instr) (a : Agent) (s : State) (w : HoldWhy) : Prop := exec i s = .next (holdStep a w s)

/-- A word that waits in the same way, and keeps the operand that it has read in memory (08 R199; 11 R309, R315, R326). -/
def Keeps (i : Instr) (a : Agent) (s : State) (bs : List Byte) (w : HoldWhy) : Prop :=
  exec i s = .next ((holdStep a w s).modTask a fun t => { t with a := { t.a with kept := some bs } })

/-- A word that traps with a code, an address of 0, and no other effect. -/
def Traps (i : Instr) (a : Agent) (s : State) (c : TrapCode) : Prop := exec i s = .next (takeTrap a { code := c } false none s)

/-! What an instruction leaves alone. -/

/-- Everything but the cores and the clusters is as before: memory and its attributes, partitions, the platform, the module's time. -/
def SameOutside (s t : State) : Prop :=
  t.mem = s.mem ∧ t.attr = s.attr ∧ t.parts = s.parts ∧ t.plat = s.plat ∧ t.modl = s.modl ∧ t.agenda = s.agenda

/-- The vector unit, the engines and DMR of every core are as before, and so is every task but the agent's own. -/
def SameCores (a : Agent) (s t : State) : Prop :=
  (∀ c, (t.core c).vec = (s.core c).vec ∧ (t.core c).eng = (s.core c).eng ∧ (t.core c).dmr = (s.core c).dmr) ∧
  (∀ b : Agent, b.core? ≠ a.core? ∨ (a.core? = none ∧ b ≠ a) → t.task? b = s.task? b)

/-- The word completes with an effect on its task alone: a next state, in which the task of its agent is `f` of the task it has at its effect, and everything outside that task is left alone. -/
def Completes (i : Instr) (w : WordInfo) (a : Agent) (s : State) (f : Task → Task) : Prop :=
  ∃ t, exec i s = .next t ∧ t.task a = settled a (f (entered w a (s.task a))) ∧ SameOutside s t ∧ SameCores a s t

/-! Vector words (02 R51; 07 R162-R168). -/

/-- No result of the execute stream is on its way at its clock: every read gives what was written last (02 R51). -/
def Landed (t : Task) : Prop := t.scoreboard = true ∨ ∀ k, tget 0 t.x.ready k ≤ t.x.clk

/-- The value of a scalar source of the execute stream (04 R93, R96). -/
def xVal (t : Task) : Scalar → W64
  | .lit w => w.signExtend 64
  | .zr => 0#64
  | .s n => if 48 ≤ n.val then tget 0#64 t.regs n.val else tget 0#64 t.entry n.val
  | .lr => tget 0#64 t.entry keyLr
  | .sp => tget 0#64 t.entry keySp
  | .sq n => ((tget [] t.q.sq n.val).head?.bind (·.val)).getD 0#64

/-- Element `e` of register group `r`, and bit `e` of mask group `m` (07 R162). -/
def vElem (v : VecState) (r e : Nat) : W32 := tget 0#32 (tget [] v.v (r + e / 1024)) (e % 1024)
def mBit (v : VecState) (m e : Nat) : Bool := (tget 0#1024 v.m (m + e / 1024)).getLsbD (e % 1024)

/-- Element `e` of a source: of its group, or of the row group at the head of its queue, whose first element has the number 256 x RGC (07 R166). -/
def vVal (t : Task) (v : VecState) (x : VReg) (e : Nat) : W32 :=
  match x with
  | .v n => vElem v n.val e
  | .vq n => tget 0#32 (((tget [] t.q.vq n.val).head?.map (·.data)).getD []) (e - 256 * cfgRGC v.vcfg)
  | .vqs => 0#32

/-- The fields name multiples of G (07 R165). -/
def Grouped (cfg : W64) (fields : List VReg) : Prop := ∀ n, VReg.v n ∈ fields → n.val % 2 ^ cfgLG cfg = 0

/-- Element `e` is active: in the range, below VL, and selected by m0 for a masked form (07 R164). -/
def VActive (v : VecState) (r : VRange) (masked : Bool) (e : Nat) : Bool :=
  decide (r.base ≤ e) && decide (e < r.base + r.count) && decide (e < cfgVL v.vcfg) && (!masked || mBit v 0 e)

/-- What element `e` of the range becomes (07 R164): an active one its result; an inactive one 0 or its old value by MZ; a tail one 0 or its old value by TZ. -/
def chosen {α : Type} (v : VecState) (masked : Bool) (e : Nat) (zero new old : α) : α :=
  if e < cfgVL v.vcfg then (if !masked || mBit v 0 e then new else if cfgMZ v.vcfg then zero else old)
  else if cfgTZ v.vcfg then zero else old

/-- The elements `lo` to `hi - 1` of register group `d` are those of `g`, and every other element of every register is as before. -/
def GroupIs (v v' : VecState) (d lo hi : Nat) (g : Nat → W32) : Prop :=
  ∀ r k, k < 1024 → tget 0#32 (tget [] v'.v r) k =
    if d ≤ r ∧ lo ≤ 1024 * (r - d) + k ∧ 1024 * (r - d) + k < hi then g (1024 * (r - d) + k) else tget 0#32 (tget [] v.v r) k

/-- The same for bits of mask group `m`. -/
def MaskIs (v v' : VecState) (m lo hi : Nat) (g : Nat → Bool) : Prop :=
  ∀ r k, k < 1024 → (tget 0#1024 v'.m r).getLsbD k =
    if m ≤ r ∧ lo ≤ 1024 * (r - m) + k ∧ 1024 * (r - m) + k < hi then g (1024 * (r - m) + k) else (tget 0#1024 v.m r).getLsbD k

/-- The queue heads that a word's fields pop are gone, and the other queues between the streams are as before, but for vqs. -/
def Popped (rs : List Role) (q q' : Queues) : Prop :=
  q'.cq = q.cq ∧ q'.pq = q.pq ∧
  (∀ n : Fin 4, (Role.vsrc (.vq n) ∈ rs → tget [] q'.vq n.val = (tget [] q.vq n.val).drop 1) ∧ (Role.vsrc (.vq n) ∉ rs → tget [] q'.vq n.val = tget [] q.vq n.val)) ∧
  (∀ n : Fin 4, (Role.src (.sq n) ∈ rs → tget [] q'.sq n.val = (tget [] q.sq n.val).drop 1) ∧ (Role.src (.sq n) ∉ rs → tget [] q'.sq n.val = tget [] q.sq n.val))

/-- What a vector word of `C` rows of core `c` with those fields leaves alone (07 R167): everything outside the core, its engines, DMR, the access stream, predicates; the stream has used Max(1, C) slots. -/
structure VecFrame (rs : List Role) (c : Nat) (s t : State) (C : Nat) : Prop where
  outside : SameOutside s t
  cores : ∀ k, k ≠ c → t.core k = s.core k
  tasks : ∀ b : Agent, b.core? ≠ some c → t.task? b = s.task? b
  eng : (t.core c).eng = (s.core c).eng
  dmr : (t.core c).dmr = (s.core c).dmr
  accesses : (t.task (.execute c)).a = (s.task (.execute c)).a
  preds : (t.task (.execute c)).preds = (s.task (.execute c)).preds
  queues : Popped rs (s.task (.execute c)).q (t.task (.execute c)).q
  clk : (t.task (.execute c)).x.clk = (s.task (.execute c)).x.clk + Nat.max 1 C

/-- FSR holds the flags of before and those of the results (03 R88). -/
def Flagged (old new : W64) (act : Nat → Prop) (fl : Nat → Flags) : Prop :=
  ∀ j, new.getLsbD j = true ↔ old.getLsbD j = true ∨ ∃ e, act e ∧ (fl e).getLsbD j = true

/-- A row-wise word with the value `f e` for active element e and the flags it raises completes (07 R164-R168): its destination group, or the entry pushed to vqs; its bounds; RGC. -/
def RowWord (i : Instr) (rs : List Role) (c : Nat) (s : State) (lc : BitVec 3) (vd : VReg) (queue masked : Bool) (f : Nat → W32 × Flags) : Prop :=
  let u := s.task (.execute c)
  let v := (s.core c).vec
  let r := vrange v.vcfg queue
  let C := r.rows (cfgVL v.vcfg)
  ∃ t, exec i s = .next t ∧ VecFrame rs c s t C ∧
    let v' := (t.core c).vec
    let u' := t.task (.execute c)
    v'.m = v.m ∧ v'.t = v.t ∧ v'.ps = v.ps ∧ v'.vcfg = (if queue then cfgStepRGC v.vcfg else v.vcfg) ∧ u'.regs = u.regs ∧
    Flagged v.fsr v'.fsr (fun e => VActive v r masked e = true) (fun e => (f e).2) ∧
    match vd with
    | .v d =>
      GroupIs v v' d.val r.base (r.base + r.count) (fun e => chosen v masked e 0#32 (f e).1 (vElem v d.val e)) ∧ u'.q.vqs = u.q.vqs ∧
      (∀ k, k < C → tget 0 u'.x.ready (keyV (d.val + (r.base + 64 * k) / 1024) ((r.base + 64 * k) % 1024 / 64)) =
        max (u.x.clk + k + lcBound lc) (tget 0 u.x.ready (keyV (d.val + (r.base + 64 * k) / 1024) ((r.base + 64 * k) % 1024 / 64))))
    | _ =>
      v'.v = v.v ∧ (u.a.ended = true → u'.q.vqs = u.q.vqs) ∧
      (u.a.ended = false → ∃ x, u'.q.vqs = u.q.vqs ++ [x] ∧
        ∀ k, k < 256 → x.mask.getLsbD k = VActive v r masked (r.base + k) ∧ tget 0#32 x.data k = if x.mask.getLsbD k then (f (r.base + k)).1 else 0#32)

/-- A row-wise word and its masked form. -/
def RowWords (i im : Instr) (rs : List Role) (c : Nat) (s : State) (lc : BitVec 3) (vd : VReg) (queue : Bool) (f : Nat → W32 × Flags) : Prop :=
  RowWord i rs c s lc vd queue false f ∧ RowWord im rs c s lc vd queue true f

/-- A word with a mask destination completes: bits of md, bounds left out (07 R164, R176, R179). -/
def MaskWord (i : Instr) (rs : List Role) (c : Nat) (s : State) (md : MReg) (queue masked : Bool) (C : Nat) (f : Nat → Bool × Flags) : Prop :=
  let u := s.task (.execute c)
  let v := (s.core c).vec
  let r := vrange v.vcfg queue
  ∃ t, exec i s = .next t ∧ VecFrame rs c s t C ∧
    let v' := (t.core c).vec
    v'.v = v.v ∧ v'.t = v.t ∧ v'.ps = v.ps ∧ v'.vcfg = (if queue then cfgStepRGC v.vcfg else v.vcfg) ∧
    (t.task (.execute c)).regs = u.regs ∧ (t.task (.execute c)).q.vqs = u.q.vqs ∧
    Flagged v.fsr v'.fsr (fun e => VActive v r masked e = true) (fun e => (f e).2) ∧
    MaskIs v v' md.val r.base (r.base + r.count) (fun e => chosen v masked e false (f e).1 (mBit v md.val e))

/-- A cross-row word on register groups completes with element `g e` in group `d`, an FSR that keeps `fsr`, and registers `regs` (07 R168). -/
def GroupWord (i : Instr) (rs : List Role) (c : Nat) (s : State) (C d : Nat) (g : Nat → W32) (fsr : W64 → Prop) (regs : Table W64) : Prop :=
  let u := s.task (.execute c)
  let v := (s.core c).vec
  ∃ t, exec i s = .next t ∧ VecFrame rs c s t C ∧
    let v' := (t.core c).vec
    v'.m = v.m ∧ v'.t = v.t ∧ v'.ps = v.ps ∧ v'.vcfg = v.vcfg ∧ fsr v'.fsr ∧ (t.task (.execute c)).regs = regs ∧ (t.task (.execute c)).q.vqs = u.q.vqs ∧
    GroupIs v v' d 0 (1024 * 2 ^ cfgLG v.vcfg) g

/-- Elements of a group below VL, and C of a word on groups (07 R162, R167). -/
def vBelow (cfg : W64) : Nat := Nat.min (cfgVL cfg) (1024 * 2 ^ cfgLG cfg)
def vRows (cfg : W64) : Nat := (vBelow cfg + 63) / 64

/-- Registers after a write of a scalar destination of the execute stream: s48-s55, or zr (04 R92). -/
def regsWith (t : Task) (d : SDst) (v : W64) : Table W64 :=
  match d with
  | .s n => tput t.regs n.val v
  | _ => t.regs

/-- Position `i` of the tree sum after `n` rounds (07 R185), with the flags of its additions; an absent position adds nothing. -/
def tree (m : RMode) (x : Nat → Option W32) : Nat → Nat → Option W32 × Flags
  | 0, i => (x i, 0#6)
  | n + 1, i =>
    let a := tree m x n (2 * i)
    let b := tree m x n (2 * i + 1)
    match a.1, b.1 with
    | some y, some z => (some (fadd y z m).1, a.2 ||| b.2 ||| (fadd y z m).2)
    | some y, none => (some y, a.2 ||| b.2)
    | none, z => (z, a.2 ||| b.2)

/-- Bit `k` of the bit stream of group `r` (07 R178). -/
def streamBit (v : VecState) (r k : Nat) : Bool := (vElem v r (k / 32)).getLsbD (k % 32)

/-! Commands of the execute stream to the engines of its core (09 R267; 10 R285; 11 R327). -/

/-- What the word of a command of core `c` leaves alone: everything outside the core but counters of other cores, its vector unit and DMR, registers, predicates and the access stream; the command takes the task's next index (14 R384). -/
structure SentFrame (rs : List Role) (c : Nat) (s t : State) : Prop where
  outside : SameOutside s t
  cores : ∀ k, k ≠ c → { t.core k with ctr := (s.core k).ctr } = s.core k
  tasks : ∀ b : Agent, b.core? ≠ some c → t.task? b = s.task? b
  vec : (t.core c).vec = (s.core c).vec
  dmr : (t.core c).dmr = (s.core c).dmr
  accesses : (t.task (.execute c)).a = (s.task (.execute c)).a
  regs : (t.task (.execute c)).regs = (s.task (.execute c)).regs
  preds : (t.task (.execute c)).preds = (s.task (.execute c)).preds
  queues : Popped rs (s.task (.execute c)).q (t.task (.execute c)).q
  vqs : (t.task (.execute c)).q.vqs = (s.task (.execute c)).q.vqs
  clk : (t.task (.execute c)).x.clk = (s.task (.execute c)).x.clk + 1
  cmdx : (t.task (.execute c)).cmdx = (s.task (.execute c)).cmdx + 1

/-- The tag of the next command of core `c`: held on a predicted arm. -/
def cmdTag (c : Nat) (s : State) (recEvt : Bool) : CmdTag :=
  { num := (s.core c).eng.num, idx := (s.task (.execute c)).cmdx, recEvt := recEvt, held := (s.task (.execute c)).x.arm.isSome, arm := false }

/-- A word that sends a command completes, and leaves the engines as `e`, with one more command counted. -/
def Sends (i : Instr) (rs : List Role) (c : Nat) (s : State) (e : Engines) : Prop :=
  ∃ t, exec i s = .next t ∧ SentFrame rs c s t ∧ (t.core c).eng = { e with num := (s.core c).eng.num + 1 }

/-- The commit buffer takes a command of core `c` with `n` bytes of writes (11 R327). -/
def Commits (c : Nat) (s : State) (n : Nat) : Prop :=
  (s.task (.execute c)).x.arm = none ∨ (heldCommands (s.core c).eng < 8 ∧ heldBytes (s.core c).eng + n ≤ 49152)

/-- The state in which a command is accepted: its word has issued and read its sources, and the task's index is taken. -/
def sending (w : WordInfo) (a : Agent) (s : State) (xs : List Scalar) : State :=
  xs.foldl (fun s x => (readScalar (ctxOf a w s) x s).2) ((atIssue a w s).modTask a counted)

/-! Events of a core's engines: completion records (11 R321, R322). -/

/-- A record of cluster `g` can be posted to the hardware part of its event queue now, if one is asked for: nothing stands before it, and no record that has been posted has a poster still to go on. -/
def CanRecord (s : State) (g : Nat) (asked : Bool) : Prop :=
  asked = true → (s.cluster g).evWait = [] ∧ (s.cluster g).evDone = [] ∧ (s.cluster g).evq.count = 0 ∧ (s.cluster g).evq.hw.length < 128

/-- The event queue of cluster `g` has the record, if one was asked for. -/
def Recorded (s t : State) (g : Nat) (asked : Bool) (r : EvRec) : Prop :=
  (t.cluster g).evq = { (s.cluster g).evq with hw := (s.cluster g).evq.hw ++ (if asked then [r] else []) }

/-- An event that answers a next state with a property. -/
def Fires (e : Instr) (s : State) (P : State → Prop) : Prop := ∃ t, exec e s = .next t ∧ P t

/-- An event that is not enabled leaves the state as it is. -/
def Idle (e : Instr) (s : State) : Prop := exec e s = .next s

/-- A word that an engine writes reaches byte `b` of memory through the view (06 R151). -/
def WritesTo (s : State) (v : View) (va : W64) (b : Nat) : Prop :=
  va.toNat % 4 = 0 ∧ ∃ tgt, v.translate s va .engineStore = .ok tgt ∧ engineAddr s (s.partOf v.a) tgt = some b ∧ s.owned b = true

/-! Jigs, contexts, messages out. -/

/-- A jig with iterations on this device has been released (11 R311): it has the next number, takes the tick and the frame, and an entry for it stands in the queue of every cluster with a member. -/
def Released (p : Nat) (s t : State) (l : Launch) (j : JigRec) (src : JigSource) (lineage : List Nat) : Prop :=
  ∃ l' J, (t.part p).launch = some l' ∧ l'.nextJig = l.nextJig + 1 ∧ tget? l'.jigs l.nextJig = some J ∧ J.jrec = j ∧ J.source = src ∧ J.lineage = lineage ∧
    J.rtick = s.modl.frame ∧ J.frame = l.frame ∧ J.next = 0 ∧ J.open_ = 0 ∧ J.count = (iterations l j).2 ∧
    (∀ id, id ≠ l.nextJig → tget? l'.jigs id = tget? l.jigs id) ∧
    ∀ h ∈ memberClusters s p l j.level j.dsel, (∃ e ∈ (t.queue h j.queue).disp ++ (t.queue h j.queue).dispWait, e.jig = some l.nextJig) ∨ some l.nextJig ∈ (t.queue h j.queue).dispRing

/-- A message to every port of a group but one, of those in direct mode, stands among the messages that have left (01 R36; 13 R356). -/
def Told (t : State) (g : Group) (except : Option Nat) (kind : PortKind) (words : List Nat) : Prop :=
  ∀ x ∈ g.ports, some x.1 ≠ except → (t.port x.1).direct = true → OutMsg.port x.1 kind words [] ∈ t.plat.out

/-- The launch of a partition is `l`, and the clusters, the cores and memory are as before. -/
def OnlyLaunch (p : Nat) (s t : State) (l : Launch) : Prop :=
  (t.part p).launch = some l ∧ t.mem = s.mem ∧ t.cores = s.cores ∧ t.clus = s.clus ∧ ∀ q, q ≠ p → t.part q = s.part q

/-! Launches and the platform. -/

/-- The completion status of a function (01 R20; 15 R415): LSTAT holds the LAUNCHID, VALID and a code, and vector 0 has been raised. -/
def Reported (s t : State) (fn launchid code : Nat) : Prop :=
  (t.fn fn).lstat = BitVec.ofNat 64 (launchid * 2 ^ 32 + 2 ^ 31 + code) ∧ ((s.fn fn).d3 = false → OutMsg.msix fn 0 ∈ t.plat.out)

/-- The launch of a partition has ended with a completion code; a launch whose function has been reset reports nothing (13 R355). -/
def Ended (p : Nat) (s t : State) (l : Launch) (code : Nat) : Prop :=
  (t.part p).launch = none ∧ (l.silent = false → Reported s t l.fn l.lrec.launchid code)

/-- A trap of a code is the next record of a partition's log, when the log has room (14 R380). -/
def LoggedCode (p : Nat) (s t : State) (c : TrapCode) : Prop :=
  (s.part p).logStale = false → (s.part p).traplog.length < 8 → ∃ r, (t.part p).traplog = (s.part p).traplog ++ [r] ∧ r.code = c.code

/-- The launch of a partition is being discarded (14 R387). -/
def Discarding (p : Nat) (t : State) : Prop := ∃ l, (t.part p).launch = some l ∧ l.phase = .discarding

/-- A vector of a function has been raised (15 R416), if the function is not in D3hot. -/
def Vector (s t : State) (fn vec : Nat) : Prop := (s.fn fn).d3 = false → OutMsg.msix fn vec ∈ t.plat.out

/-- `n` bytes at `va` are written through a view at address `b`: they lie in one page of 4 KiB, of this device, with no cell out of VALUE (06 R151; 12 R335; 14 R405). -/
structure Lands (s : State) (v : View) (p va n b : Nat) : Prop where
  page : va % 4096 + n ≤ 4096
  some : 0 < n
  small : va + n ≤ 2 ^ 64
  target : ∃ tgt, v.translate s (BitVec.ofNat 64 va) .engineStore = .ok tgt ∧ engineAddr s p tgt = .some b
  owned : s.owned b = true
  value : busyUnit s b n = none

/-- `n` bytes at `va` are read through a view at address `b`, with no error. -/
structure Sees (s : State) (v : View) (p va n b : Nat) : Prop where
  page : va % 4096 + n ≤ 4096
  some : 0 < n
  small : va + n ≤ 2 ^ 64
  target : ∃ tgt, v.translate s (BitVec.ofNat 64 va) .load = .ok tgt ∧ loadAddr s p tgt = .some b
  owned : s.owned b = true
  sound : s.eccHit b n = false
  current : s.expired b = false

/-- Command `i` of engine `e` of cluster `g` becomes `c`, and the other commands of that engine are as before. -/
def CommandIs (s t : State) (g e i : Nat) (c : CopyCmd) : Prop := t.copyQueue g e = lmod (s.copyQueue g e) i fun _ => c

end Sys2Proof.Machine
end

