-- ==== Sys2Proof/Certificates/Slice0/Obligations.lean ====
section
/-! DEFINITION. The statements for the provers. -/

open Sys2Proof Sys2Proof.Machine

/-! Words of the access stream and of control cores: integer, compare and predicate logic (04 R99-R104). -/

/-- 04 R99, R102: every binary integer word completes; d receives the value of the rule's table for the values of a and b, and nothing else of the machine changes but the stream's step. 04 R100, R101: the words with one register source. imm6 is sign-extended for ADDI, ANDI, ORI and XORI, zero-extended for the shifts. Their bits are laid out as these rules say, and reserved ops and fields that must be 0 decode to no instruction. -/
def Obligations.IntegerWords : Prop :=
  (
   ∀ (a : Agent) (s : State) (g : Guard) (d : SDst) (x y : Scalar),
     let w := accCtl g [.dst d, .src x, .src y]
     let u := s.task a
     let X := srcVal u x
     let Y := srcVal u y
     let n := Y.toNat % 64
     let Gives (i : Instr) (v : W64) : Prop := Completes i w a s (written u.a.seq d v)
     Ready w a s →
       Gives (.add g d x y) (BitVec.ofNat 64 (X.toNat + Y.toNat)) ∧
       Gives (.sub g d x y) (BitVec.ofInt 64 (X.toNat - Y.toNat)) ∧
       Gives (.and g d x y) (X &&& Y) ∧ Gives (.or g d x y) (X ||| Y) ∧ Gives (.xor g d x y) (X ^^^ Y) ∧
       Gives (.shl g d x y) (BitVec.ofNat 64 (X.toNat * 2 ^ n)) ∧
       Gives (.shr g d x y) (BitVec.ofNat 64 (X.toNat / 2 ^ n)) ∧
       Gives (.sar g d x y) (BitVec.ofInt 64 (Int.fdiv X.toInt (2 ^ n))) ∧
       Gives (.mul g d x y) (BitVec.ofNat 64 (X.toNat * Y.toNat)) ∧
       Gives (.mulhs g d x y) (BitVec.ofInt 64 (Int.fdiv (X.toInt * Y.toInt) (2 ^ 64))) ∧
       Gives (.mulhu g d x y) (BitVec.ofNat 64 (X.toNat * Y.toNat / 2 ^ 64)) ∧
       Gives (.min g d x y) (BitVec.ofInt 64 (min X.toInt Y.toInt)) ∧
       Gives (.max g d x y) (BitVec.ofInt 64 (max X.toInt Y.toInt)) ∧
       Gives (.minu g d x y) (BitVec.ofNat 64 (min X.toNat Y.toNat)) ∧
       Gives (.maxu g d x y) (BitVec.ofNat 64 (max X.toNat Y.toNat)) ∧
       Gives (.rol g d x y) (BitVec.ofNat 64 (X.toNat * 2 ^ n + X.toNat / 2 ^ (64 - n))) ∧
       Gives (.divs g d x y) (if Y = 0#64 then BitVec.allOnes 64 else BitVec.ofInt 64 (Int.tdiv X.toInt Y.toInt)) ∧
       Gives (.divu g d x y) (if Y = 0#64 then BitVec.allOnes 64 else BitVec.ofNat 64 (X.toNat / Y.toNat)) ∧
       Gives (.rems g d x y) (if Y = 0#64 then X else BitVec.ofInt 64 (X.toInt - Y.toInt * Int.tdiv X.toInt Y.toInt)) ∧
       Gives (.remu g d x y) (if Y = 0#64 then X else BitVec.ofNat 64 (X.toNat - Y.toNat * (X.toNat / Y.toNat)))
  ) ∧ (
   ∀ (a : Agent) (s : State) (g : Guard) (d : SDst) (x : Scalar) (imm : BitVec 6),
     let w := accCtl g [.dst d, .src x]
     let u := s.task a
     let X := srcVal u x
     let n := imm.toNat
     let I : W64 := imm.signExtend 64
     let Gives (i : Instr) (v : W64) : Prop := Completes i w a s (written u.a.seq d v)
     Ready w a s →
       Gives (.addi g d x imm) (BitVec.ofInt 64 (X.toNat + imm.toInt)) ∧
       Gives (.andi g d x imm) (X &&& I) ∧ Gives (.ori g d x imm) (X ||| I) ∧ Gives (.xori g d x imm) (X ^^^ I) ∧
       Gives (.shli g d x imm) (BitVec.ofNat 64 (X.toNat * 2 ^ n)) ∧
       Gives (.shri g d x imm) (BitVec.ofNat 64 (X.toNat / 2 ^ n)) ∧
       Gives (.sari g d x imm) (BitVec.ofInt 64 (Int.fdiv X.toInt (2 ^ n))) ∧
       (∃ k : Nat, k ≤ 64 ∧ Gives (.clz g d x) (BitVec.ofNat 64 k) ∧ (∀ j, 64 - k ≤ j → X.getLsbD j = false) ∧ (k < 64 → X.getLsbD (63 - k) = true)) ∧
       (∃ k : Nat, k ≤ 64 ∧ Gives (.ctz g d x) (BitVec.ofNat 64 k) ∧ (∀ j, j < k → X.getLsbD j = false) ∧ (k < 64 → X.getLsbD k = true)) ∧
       Gives (.popc g d x) (BitVec.ofNat 64 ((List.range 64).countP fun j => X.getLsbD j)) ∧
       (∃ v : W64, Gives (.bswap g d x) v ∧ ∀ k, k < 8 → v.extractLsb' (8 * k) 8 = X.extractLsb' (8 * (7 - k)) 8) ∧
       Gives (.sextb g d x) ((X.extractLsb' 0 8).signExtend 64) ∧
       Gives (.sexth g d x) ((X.extractLsb' 0 16).signExtend 64) ∧
       Gives (.sextw g d x) ((X.extractLsb' 0 32).signExtend 64) ∧
       Gives (.zextw g d x) ((X.extractLsb' 0 32).zeroExtend 64)
  ) ∧ (
   (∀ (g : Guard) (d : SDst) (x y : Scalar) (imm : BitVec 6),
     let Laid (i : Instr) (m : BitVec 6) (op : BitVec 3) (b : BitVec 6) : Prop := encodeWord i = g.gs ++ g.gp ++ m ++ (op ++ d.field ++ x.field ++ b)
     (Laid (.add g d x y) 0#6 0#3 y.field ∧ Laid (.sub g d x y) 0#6 1#3 y.field ∧ Laid (.and g d x y) 0#6 2#3 y.field ∧ Laid (.or g d x y) 0#6 3#3 y.field ∧
       Laid (.xor g d x y) 0#6 4#3 y.field ∧ Laid (.shl g d x y) 0#6 5#3 y.field ∧ Laid (.shr g d x y) 0#6 6#3 y.field ∧ Laid (.sar g d x y) 0#6 7#3 y.field) ∧
     (Laid (.mul g d x y) 1#6 0#3 y.field ∧ Laid (.mulhs g d x y) 1#6 1#3 y.field ∧ Laid (.mulhu g d x y) 1#6 2#3 y.field ∧ Laid (.min g d x y) 1#6 3#3 y.field ∧
       Laid (.max g d x y) 1#6 4#3 y.field ∧ Laid (.minu g d x y) 1#6 5#3 y.field ∧ Laid (.maxu g d x y) 1#6 6#3 y.field ∧ Laid (.rol g d x y) 1#6 7#3 y.field) ∧
     (Laid (.addi g d x imm) 2#6 0#3 imm ∧ Laid (.andi g d x imm) 2#6 1#3 imm ∧ Laid (.ori g d x imm) 2#6 2#3 imm ∧ Laid (.xori g d x imm) 2#6 3#3 imm ∧
       Laid (.shli g d x imm) 2#6 4#3 imm ∧ Laid (.shri g d x imm) 2#6 5#3 imm ∧ Laid (.sari g d x imm) 2#6 6#3 imm) ∧
     (Laid (.clz g d x) 3#6 0#3 0#6 ∧ Laid (.ctz g d x) 3#6 1#3 0#6 ∧ Laid (.popc g d x) 3#6 2#3 0#6 ∧ Laid (.bswap g d x) 3#6 3#3 0#6 ∧
       Laid (.sextb g d x) 3#6 4#3 0#6 ∧ Laid (.sexth g d x) 3#6 5#3 0#6 ∧ Laid (.sextw g d x) 3#6 6#3 0#6 ∧ Laid (.zextw g d x) 3#6 7#3 0#6) ∧
     (Laid (.divs g d x y) 4#6 0#3 y.field ∧ Laid (.divu g d x y) 4#6 1#3 y.field ∧ Laid (.rems g d x y) 4#6 2#3 y.field ∧ Laid (.remu g d x y) 4#6 3#3 y.field)) ∧
   (∀ (w l : W32) (i : Instr),
     let m := w.extractLsb' 21 6
     let op := (w.extractLsb' 18 3).toNat
     (m = 2#6 ∧ op = 7) ∨ (m = 3#6 ∧ w.extractLsb' 0 6 ≠ 0#6) ∨ (m = 4#6 ∧ 4 ≤ op) → decodeFields w l ≠ .ok i)
  )

/-- 04 R103: CMP.cond writes 1 to pd if the condition holds and 0 otherwise; its bits are laid out as the rule says, conditions 10 to 15 are reserved, and it is illegal in the execute stream and with pd outside p0-p7. -/
def Obligations.CompareWords : Prop :=
  (
   ∀ (a : Agent) (s : State) (g : Guard) (pd : Pred) (x y : Scalar),
     let w := accCtl g [.pdst pd, .src x, .src y]
     let u := s.task a
     let X := srcVal u x
     let Y := srcVal u y
     let Gives (i : Instr) (p : Prop) : Prop :=
       ∃ t, exec i s = .next t ∧ SameOutside s t ∧ SameCores a s t ∧
         ((t.task a).preds.getLsbD pd.val = true ↔ p) ∧ (∀ q : Pred, q ≠ pd → (t.task a).preds.getLsbD q.val = u.preds.getLsbD q.val) ∧
         t.task a = settled a { entered w a u with preds := (t.task a).preds }
     Ready w a s →
       Gives (.cmpEq g pd x y) (X = Y) ∧ Gives (.cmpNe g pd x y) (X ≠ Y) ∧
       Gives (.cmpLt g pd x y) (X.toInt < Y.toInt) ∧ Gives (.cmpGe g pd x y) (X.toInt ≥ Y.toInt) ∧
       Gives (.cmpLtu g pd x y) (X.toNat < Y.toNat) ∧ Gives (.cmpGeu g pd x y) (X.toNat ≥ Y.toNat) ∧
       Gives (.cmpLe g pd x y) (X.toInt ≤ Y.toInt) ∧ Gives (.cmpGt g pd x y) (X.toInt > Y.toInt) ∧
       Gives (.cmpLeu g pd x y) (X.toNat ≤ Y.toNat) ∧ Gives (.cmpGtu g pd x y) (X.toNat > Y.toNat)
  ) ∧ (
   (∀ (g : Guard) (pd : Pred) (x y : Scalar),
     let Laid (i : Instr) (cond : BitVec 4) : Prop := encodeWord i = g.gs ++ g.gp ++ 5#6 ++ (cond ++ BitVec.ofNat 4 pd.val ++ x.field ++ y.field ++ 0#1)
     Laid (.cmpEq g pd x y) 0#4 ∧ Laid (.cmpNe g pd x y) 1#4 ∧ Laid (.cmpLt g pd x y) 2#4 ∧ Laid (.cmpGe g pd x y) 3#4 ∧ Laid (.cmpLtu g pd x y) 4#4 ∧
     Laid (.cmpGeu g pd x y) 5#4 ∧ Laid (.cmpLe g pd x y) 6#4 ∧ Laid (.cmpGt g pd x y) 7#4 ∧ Laid (.cmpLeu g pd x y) 8#4 ∧ Laid (.cmpGtu g pd x y) 9#4) ∧
   (∀ (w l : W32) (i : Instr), w.extractLsb' 21 6 = 5#6 → 10 ≤ (w.extractLsb' 17 4).toNat ∨ w.getLsbD 0 = true → decodeFields w l ≠ .ok i) ∧
   (∀ (c : Nat) (a : Agent) (s : State) (g : Guard) (pd : Pred) (x y : Scalar), Issues a s → (a = .execute c ∨ (a = .access c ∧ 8 ≤ pd.val)) →
     Traps (.cmpEq g pd x y) a s .illegal ∧ Traps (.cmpNe g pd x y) a s .illegal ∧ Traps (.cmpLt g pd x y) a s .illegal ∧ Traps (.cmpGe g pd x y) a s .illegal ∧ Traps (.cmpLtu g pd x y) a s .illegal ∧
     Traps (.cmpGeu g pd x y) a s .illegal ∧ Traps (.cmpLe g pd x y) a s .illegal ∧ Traps (.cmpGt g pd x y) a s .illegal ∧ Traps (.cmpLeu g pd x y) a s .illegal ∧ Traps (.cmpGtu g pd x y) a s .illegal)
  )

/-- 04 R104: predicate logic in both streams; pd receives the value of the table, by a bound of 1 clock in an execute stream (02 R50), and no other predicate, register or queue changes. -/
def Obligations.PredicateWords : Prop :=
  ∀ (a : Agent) (s : State) (g : Guard) (pd pa pb : Pred),
    let u := s.task a
    let A := predVal a u pa
    let B := predVal a u pb
    let Gives (i : Instr) (v : Bool) : Prop :=
      ∃ t, exec i s = .next t ∧ SameOutside s t ∧ SameCores a s t ∧
        (t.task a).preds.getLsbD pd.val = v ∧ (∀ q : Pred, q ≠ pd → (t.task a).preds.getLsbD q.val = u.preds.getLsbD q.val) ∧
        (t.task a).regs = u.regs ∧ (t.task a).q = u.q ∧
        (a.kind = .execute → tget 0 (t.task a).x.ready (keyPred pd) = max (u.x.clk + 1) (tget 0 u.x.ready (keyPred pd)))
    (Ready (both g [.pdst pd, .psrc pa, .psrc pb]) a s → predLanded a u pa → predLanded a u pb →
      Gives (.pand g pd pa pb) (A && B) ∧ Gives (.por g pd pa pb) (A || B) ∧ Gives (.pxor g pd pa pb) (A != B) ∧
      Gives (.pandn g pd pa pb) (A && !B) ∧ Gives (.porn g pd pa pb) (A || !B)) ∧
    (Ready (both g [.pdst pd, .psrc pa]) a s → predLanded a u pa → Gives (.pnot g pd pa) (!A)) ∧
    (Ready (both g [.pdst pd]) a s → Gives (.pset g pd) true ∧ Gives (.pclr g pd) false)

/-- 04 R105-R109, R112: branches, calls, loops, ADR and NOP complete at an aligned target. -/
def Obligations.ControlWords : Prop :=
  ∀ (a : Agent) (s : State) (g : Guard),
    let u := s.task a
    let pc := wordAddr u a.kind
    (∀ off : BitVec 19, Ready (both g []) a s → predicts g s = none → (pc + 4#64 * off.signExtend 64).toNat % 4 = 0 →
      Completes (.branch g off) (both g []) a s (jumped a (pc + 4#64 * off.signExtend 64) 2)) ∧
    (∀ off : BitVec 19, Ready (accCtl g []) a s → (pc + 4#64 * off.signExtend 64).toNat % 4 = 0 →
      Completes (.call g off) (accCtl g []) a s
        (jumped a (pc + 4#64 * off.signExtend 64) 2 ∘ written u.a.seq .lr (pc + 4#64))) ∧
    (∀ x : Scalar,
      let w := both g [.src x]
      let r := readScalar (ctxOf a w s) x (atIssue a w s)
      Ready w a s → r.1.toNat % 4 = 0 → exec (.br g x) s = .next (afterIssue a (r.2.modTask a (jumped a r.1 4)))) ∧
    (∀ x : Scalar,
      let w := accCtl g [.src x]
      Ready w a s → (srcVal u x).toNat % 4 = 0 →
      Completes (.callr g x) w a s (jumped a (srcVal u x) 4 ∘ written u.a.seq .lr (pc + BitVec.ofNat 64 (4 * w.words)))) ∧
    (Ready (accCtl g []) a s → tget? u.a.pend keyLr = none → (tget 0#64 u.regs keyLr).toNat % 4 = 0 →
      Completes (.ret g) (accCtl g []) a s (jumped a (tget 0#64 u.regs keyLr) 4)) ∧
    (∀ (d : SDst) (off : BitVec 15),
      let w := { both g [.rw d] with shape := d ≠ .zr }
      let c := ctxOf a w s
      let r := readDst c d (atIssue a w s)
      let s1 := writeDst c d 1 (r.1 - 1#64) r.2
      let target := pc + 4#64 * off.signExtend 64
      Ready w a s →
        (r.1 = 1#64 → exec (.loop g d off) s = .next (afterIssue a s1)) ∧
        (r.1 ≠ 1#64 → target.toNat % 4 = 0 → exec (.loop g d off) s = .next (afterIssue a (s1.modTask a (jumped a target 2))))) ∧
    (∀ (d : SDst) (off : BitVec 15), Ready (accCtl g [.dst d]) a s →
      Completes (.adr g d off) (accCtl g [.dst d]) a s (written u.a.seq d (pc + 4#64 * off.signExtend 64))) ∧
    (Ready (both g []) a s → Completes (.nop g) (both g []) a s id)

/-- 04 R105: a branch to an address that is no multiple of 4 raises PCALIGN at the branch word, which then has no effect; on a predicted arm it waits. -/
def Obligations.MisalignedBranchTraps : Prop :=
  ∀ (a : Agent) (s : State) (g : Guard) (off : BitVec 19) (x : Scalar),
    let u := s.task a
    let target := wordAddr u a.kind + 4#64 * off.signExtend 64
    let T := takeTrap a { code := .pcalign } false none s
    (Ready (both g []) a s → u.x.arm = none → predicts g s = none → target.toNat % 4 ≠ 0 → exec (.branch g off) s = .next T) ∧
    (Ready (accCtl g []) a s → target.toNat % 4 ≠ 0 → exec (.call g off) s = .next T) ∧
    (Ready (both g [.src x]) a s → u.x.arm = none → (readScalar (ctxOf a (both g [.src x]) s) x (atIssue a (both g [.src x]) s)).1.toNat % 4 ≠ 0 →
      exec (.br g x) s = .next T) ∧
    (Ready (accCtl g [.src x]) a s → (srcVal u x).toNat % 4 ≠ 0 → exec (.callr g x) s = .next T)

/-- 04 R113: a B whose guard has passed its bound and has not landed is predicted: taken with a negative offset, else not; the stream goes on along the arm, and PREDCOUNT counts it. The model's own: which predicates are late is the turn's choice (log entry 11). -/
def Obligations.PredictedBranch : Prop :=
  ∀ (c : Nat) (s : State) (g : Guard) (off : BitVec 19) (p : Pred) (sense : Bool),
    let a := Agent.execute c
    let u := s.task a
    let pc := wordAddr u .execute
    let target := pc + 4#64 * off.signExtend 64
    s.cur = a → s.live a = true → predicts g s = some (p, sense) →
      ∃ t, exec (.branch g off) s = .next t ∧ SameOutside s t ∧ SameCores a s t ∧
        (t.task a).x.arm = some { pred := p, sense := sense, taken := off.msb, other := if off.msb then pc + 4#64 else target } ∧
        (t.task a).x.pc = (if off.msb then target else pc + 4#64) ∧
        (t.task a).x.clk = u.x.clk + (if off.msb then 2 else 1) ∧
        (t.task a).regs = u.regs ∧ (t.task a).preds = u.preds ∧ (t.task a).q = u.q ∧
        tget 0 (t.core c).ctr CoreCtr.predcount.num = (tget 0 (s.core c).ctr CoreCtr.predcount.num + 1) % 2 ^ 64

/-- 04 R95-R97, R110, R111: the constant queue carries 64-bit values from the access stream to the execute stream, the predicate queue carries bits back; a push to a stream that has ended is discarded. -/
def Obligations.QueueWords : Prop :=
  ∀ (a : Agent) (s : State) (g : Guard),
    let u := s.task a
    (∀ x : Scalar, Ready (acc g [.src x]) a s → u.x.ended = true ∨ u.q.cq.length < 16 →
      Completes (.cqpush g x) (acc g [.src x]) a s (fun t =>
        if u.x.ended then t else { t with q := { t.q with cq := t.q.cq ++ [{ seq := u.a.seq, val := some (srcVal u x) }] } })) ∧
    (∀ (c : Nat) (d : SDst) (e : SqEntry) (r : List SqEntry) (v : W64), a = .execute c → Ready (exe g [.dst d]) a s →
      u.q.cq = e :: r → entryReady a u e.seq true = true → e.val = some v →
      ∃ t, exec (.cqpop g d) s = .next t ∧ SameOutside s t ∧ SameCores a s t ∧ (t.task a).q = { u.q with cq := r } ∧
        (∀ n, d = .s n → (t.task a).regs = tput u.regs n.val v) ∧ (d = .zr → (t.task a).regs = u.regs)) ∧
    (∀ p : Pred, Ready (exe g [.psrc p]) a s → predLanded a u p → u.a.ended = true ∨ u.q.pq.length < 32 →
      Completes (.pqpush g p) (exe g [.psrc p]) a s (fun t =>
        if u.a.ended then t else { t with q := { t.q with pq := t.q.pq ++ [predVal a u p] } })) ∧
    (∀ (p : Pred) (v : Bool) (r : List Bool), Ready (acc g [.pdst p]) a s → u.q.pq = v :: r →
      ∃ t, exec (.pqpop g p) s = .next t ∧ SameOutside s t ∧ SameCores a s t ∧ (t.task a).q = { u.q with pq := r } ∧
        (t.task a).regs = u.regs ∧ (t.task a).preds.getLsbD p.val = v ∧
        (∀ q : Pred, q ≠ p → (t.task a).preds.getLsbD q.val = u.preds.getLsbD q.val))

/-- 04 R112; 09 R271; 10 R291: TEND ends its stream at the word; the execute stream's waits until its bucket commands have expanded, with no group open, and its dense commands have retired. -/
def Obligations.TendEndsStream : Prop :=
  ∀ (a : Agent) (s : State) (g : Guard),
    let u := s.task a
    Ready (both g []) a s →
    (∀ c, a = .execute c → (s.core c).eng.bk.queue = [] ∧ (s.core c).eng.bk.openGrp = none ∧ (s.core c).eng.dn.queue = []) →
      Completes (.tend g) (both g []) a s (fun t => (t.setPc a.kind (wordAddr u a.kind)).setEnded a.kind)

/-- 14 R381: with BRKEN 0 a BRK is a trap of class PROGRAM that discards the launch; with BRKEN 1 its task is stopped after the word, and a record of class BREAK with the code BREAK is logged. The model's own: BRK in a control core (log entry 26). -/
def Obligations.BrkTrapsOrStops : Prop :=
  ∀ (a : Agent) (s : State) (g : Guard) (p : Nat),
    let u := s.task a
    Ready (both g []) a s → u.x.arm = none → s.partOf? a.cluster = some p →
      ((s.part p).regs.brken = false → exec (.brk g) s = .next (takeTrap a { code := .brk } false none s)) ∧
      ((s.part p).regs.brken = true → ∃ t, exec (.brk g) s = .next t ∧ t.mem = s.mem ∧
        (t.task a).brk = true ∧ (t.task a).pcOf a.kind = wordAddr u a.kind + 4#64 ∧ (t.task a).regs = u.regs ∧
        (((s.part p).logStale = false → (s.part p).traplog.length < 8) →
          ∃ r, (t.part p).traplog = (if (s.part p).logStale then [] else (s.part p).traplog) ++ [r] ∧
            r.code = 2 ∧ r.cls = .brk ∧ r.task = u.ident))

/-! Words that access memory. -/

/-- 05 R131, R132; 04 R96, R98; 06 R140: a scalar load that meets no error stands last in the load queue with its address, its target and its width, and its destination waits for it. 05 R131, R132; 06 R140, R142: a scalar store that meets no error stands last in the store queue with its address, its target, its width and its data; memory changes when it is performed. -/
def Obligations.ScalarAccesses : Prop :=
  (
   ∀ (a : Agent) (s : State) (g : Guard) (d : SDst) (x y : Scalar),
     let w := accCtl g [.dst d, .src x, .src y]
     let u := s.task a
     let va := srcVal u x + srcVal u y
     let Loads (i : Instr) (n : Nat) : Prop := ∀ tgt, Reaches a s va n .load tgt →
       Completes i w a s (fun t => loading (accessOf (ctxOf a w s) .load .relaxed .unit (loadDst d) false [element 0 va tgt n 0#64])
         (claimed u.a.seq (loadDst d) false t))
     Ready w a s → loadsUsed u < 32 →
       Loads (.ldb g d x y) 1 ∧ Loads (.ldh g d x y) 2 ∧ Loads (.ldw g d x y) 4 ∧ Loads (.ldd g d x y) 8
  ) ∧ (
   ∀ (a : Agent) (s : State) (g : Guard) (d x y : Scalar),
     let w := accCtl g [.src d, .src x, .src y]
     let u := s.task a
     let va := srcVal u x + srcVal u y
     let Stores (i : Instr) (n : Nat) : Prop := ∀ tgt, Reaches a s va n .store tgt →
       Completes i w a s (storing (accessOf (ctxOf a w s) .store .relaxed .unit .none false [element 0 va tgt n (srcVal u d)]))
     Ready w a s → storesUsed u < 32 →
       Stores (.stb g d x y) 1 ∧ Stores (.sth g d x y) 2 ∧ Stores (.stw g d x y) 4 ∧ Stores (.std g d x y) 8
  )

/-- 05 R131, R123: a scalar load or store whose address is no multiple of its width raises MISALIGN; at an aligned address the error of its translation; then a load of an expired page raises TRANSIENTEXPIRED: in this order, with the address, and with no effect but the trap. -/
def Obligations.AccessErrorsTrap : Prop :=
  ∀ (a : Agent) (s : State) (g : Guard) (d : SDst) (v x y : Scalar),
    let u := s.task a
    let va := srcVal u x + srcVal u y
    let Traps (i : Instr) (c : TrapCode) : Prop := exec i s = .next (takeTrap a { code := c, addr := va.toNat } false none s)
    let Errs (i : Instr) (n : Nat) (k : AccKind) : Prop :=
      (va.toNat % n ≠ 0 → Traps i .misalign) ∧
      (∀ e, va.toNat % n = 0 → translate s a u va k = .error e → Traps i e) ∧
      (∀ tgt b, k = .load → va.toNat % n = 0 → translate s a u va k = .ok tgt → loadAddr s (s.partOf a) tgt = some b → s.expired b = true →
        Traps i .transientexpired)
    (Ready (accCtl g [.dst d, .src x, .src y]) a s → loadsUsed u < 32 →
      Errs (.ldb g d x y) 1 .load ∧ Errs (.ldh g d x y) 2 .load ∧ Errs (.ldw g d x y) 4 .load ∧ Errs (.ldd g d x y) 8 .load) ∧
    (Ready (accCtl g [.src v, .src x, .src y]) a s → storesUsed u < 32 →
      Errs (.stb g v x y) 1 .store ∧ Errs (.sth g v x y) 2 .store ∧ Errs (.stw g v x y) 4 .store ∧ Errs (.std g v x y) 8 .store)

/-- 05 R133-R135: vector loads claim an entry of vq0-vq3 and stand in the load queue with their elements: contiguous, strided, indexed by the row group popped from vqs, or the first elements up to the first that would fail. 05 R133, R134: vector stores pop vqs and stand in the store queue with those elements of the row group that its mask names: contiguous, strided, or at the indices of an earlier row group. -/
def Obligations.VectorAccesses : Prop :=
  (
   ∀ (a : Agent) (s : State) (g : Guard) (vd : VReg) (x y : Scalar),
     let w := vmInfo g (.vdst vd) x y
     let u := s.task a
     let X := srcVal u x
     let Y := srcVal u y
     let q := vqIndex vd
     let Queued (es : List AccElem) (t : Task) : Task :=
       loading (accessOf (ctxOf a w s) .load .relaxed .unit (.vq q) false es) (claimed u.a.seq (.vq q) es.isEmpty t)
     let Loads (i : Instr) (l : List (Nat × W64)) (f : Task → Task) : Prop := ∀ es, Elements a s .load l es → Completes i w a s (Queued es ∘ f)
     Ready w a s → loadsUsed u < 32 →
       Loads (.vld g vd x y) ((List.range 256).map fun j => (j, X + Y + BitVec.ofInt 64 (4 * j))) id ∧
       (X.toNat % 4 = 0 → Y.toNat % 4 = 0 →
         Loads (.vlds g vd x y) ((List.range 256).map fun j => (j, X + BitVec.ofInt 64 (Y.toInt * j))) id) ∧
       (∀ h r, u.q.vqs = h :: r →
         Loads (.vldx g vd x y)
           ((List.range 256).filterMap fun j =>
             let i := (tget 0#32 h.data j).toNat
             if h.mask.getLsbD j && i < Y.toNat then some (j, X + BitVec.ofNat 64 (4 * i)) else none)
           (fun t => { t with q := { t.q with vqs := r } })) ∧
       (∀ (n : Nat) (es : List AccElem), n ≤ 256 → (u.x.ended = true ∨ (tget [] u.q.sq q).length < 16) → (∀ i < n, 4 * (i : Int) < Y.toInt) →
         Elements a s .load ((List.range n).map fun j => (j, X + BitVec.ofInt 64 (4 * j))) es →
         (n = 256 ∨ Y.toInt ≤ 4 * (n : Int) ∨ (0 < n ∧ ∀ tgt, ¬ Reaches a s (X + BitVec.ofInt 64 (4 * n)) 4 .load tgt)) →
         Completes (.vldff g vd x y) w a s (fun t =>
           let t := Queued es t
           if t.x.ended then t
           else { t with q := { t.q with sq := tput t.q.sq q (tget [] t.q.sq q ++ [{ seq := u.a.seq, val := some (BitVec.ofNat 64 n) }]) } }))
  ) ∧ (
   ∀ (a : Agent) (s : State) (g : Guard) (vd : VReg) (x y : Scalar) (h : VqsEntry) (r : List VqsEntry),
     let w := vmInfo g (.vsrc vd) x y
     let u := s.task a
     let X := srcVal u x
     let Y := srcVal u y
     let Stores (i : Instr) (data : VqsEntry) (rest : List VqsEntry) (l : List (Nat × W64)) : Prop :=
       ∀ es, Elements a s .store (l.filter fun x => data.mask.getLsbD x.1) es →
         Completes i w a s (fun t =>
           storing (accessOf (ctxOf a w s) .store .relaxed .unit .none false (es.map fun e => { e with data := (tget 0#32 data.data e.j).zeroExtend 64 }))
             { t with q := { t.q with vqs := rest } })
     Ready w a s → storesUsed u < 32 → u.q.vqs = h :: r →
       Stores (.vst g vd x y) h r ((List.range 256).map fun j => (j, X + Y + BitVec.ofInt 64 (4 * j))) ∧
       (X.toNat % 4 = 0 → Y.toNat % 4 = 0 →
         Stores (.vsts g vd x y) h r ((List.range 256).map fun j => (j, X + BitVec.ofInt 64 (Y.toInt * j)))) ∧
       (∀ d r', r = d :: r' →
         Stores (.vstx g vd x y) d r'
           ((List.range 256).filterMap fun j =>
             let i := (tget 0#32 h.data j).toNat
             if h.mask.getLsbD j && i < Y.toNat then some (j, X + BitVec.ofNat 64 (4 * i)) else none))
  )

/-- 06 R147, R148: an atomic that meets no error stands last in the store queue with its operand, its order and its scope, and its register waits for the old value; ACAS takes its swap value from the register after d. -/
def Obligations.Atomics : Prop :=
  ∀ (a : Agent) (s : State) (g : Guard) (ord : MemOrder) (scope : Scope) (wide : Bool) (d : SDst) (x : Scalar) (tgt : Target),
    let w := { accCtl g [.rw d, .src x] with shape := ord ≠ .relaxed || scope == .unit }
    let u := s.task a
    let va := srcVal u x
    let n := if wide then 8 else 4
    let Queues (i : Instr) (op : AtomicOp) (swap : W64) : Prop :=
      Completes i w a s (fun t =>
        storing (accessOf (ctxOf a w s) (.atomic op wide swap) ord scope (atomicDst d) false [element 0 va tgt n (dstVal u d)])
          (claimed u.a.seq (atomicDst d) false t))
    Ready w a s → storesUsed u < 32 → Reaches a s va n .atomic tgt →
      Queues (.aadd g ord scope wide d x) .add 0#64 ∧ Queues (.aand g ord scope wide d x) .and 0#64 ∧ Queues (.aor g ord scope wide d x) .or 0#64 ∧
      Queues (.axor g ord scope wide d x) .xor 0#64 ∧ Queues (.amin g ord scope wide d x) .min 0#64 ∧ Queues (.amax g ord scope wide d x) .max 0#64 ∧
      Queues (.aswp g ord scope wide d x) .swp 0#64 ∧
      (∀ k : Fin 56, d = .s k → k.val % 2 = 0 → k.val ≤ 46 → tget? u.a.pend (k.val + 1) = none →
        Queues (.acas g ord scope wide d x) .cas (tget 0#64 u.regs (k.val + 1)))

/-- 06 R144-R146, R157: FENCE and DOVETAIL leave a marker with the number of their word among the accesses, for as long as an earlier access is open; PUBLISH stands last in the store queue. -/
def Obligations.OrderWords : Prop :=
  ∀ (a : Agent) (s : State) (g : Guard),
    let u := s.task a
    let Marked (k : MarkKind) (t : Task) : Task := pruneMarks { t with a := { t.a with marks := t.a.marks ++ [{ seq := u.a.seq, kind := k }] } }
    (∀ (ord : MemOrder) (scope : Scope), Ready { accCtl g [] with shape := ord ≠ .relaxed } a s →
      Completes (.fence g ord scope) { accCtl g [] with shape := ord ≠ .relaxed } a s (Marked (.fence ord scope))) ∧
    (Ready (accCtl g []) a s → loadsUsed u < 32 → storesUsed u < 32 → Completes (.dovetail g) (accCtl g []) a s (Marked .dovetail)) ∧
    (∀ (ord : MemOrder) (scope : Scope) (x : Scalar) (tgt : Target),
      let w := { accCtl g [.src x] with shape := releases ord }
      Ready w a s → storesUsed u < 32 → Reaches a s (srcVal u x) 1 .publish tgt →
      Completes (.publish g ord scope x) w a s (fun t =>
        { t with a := { t.a with stores := t.a.stores ++ [accessOf (ctxOf a w s) .publish ord scope .none false [element 0 (srcVal u x) tgt 0 0#64]] } }))

/-! Encoding, fetch and steps (02 R41-R62). -/

/-- 02 R52-R58, R62: words that the spec writes out, and words put together field by field from its tables, decode to the instructions they stand for: at least one of every major. -/
def Obligations.ExampleWordsDecode : Prop :=
  let D (w : W32) (l : List W32) (i : Instr) : Prop := decode (bytesOfWord w ++ l.flatMap bytesOfWord) = .ok (i, [])
  D 0x980041FF#32 [0x3E8#32] (.add (.onFalse 3) (.s 4) (.s 7) (.lit 0x3E8#32)) ∧
  D 0x7C4D88A6#32 [] (.vfma .always 3#3 (.v 2) (.v 5) (.v 6)) ∧
  D 0x7D0D88A6#32 [] (.vfmaMasked .always 3#3 (.v 2) (.v 5) (.v 6)) ∧
  D 0x08E7FFFE#32 [] (.branch (.onTrue 1) 0x7FFFE#19) ∧
  D 0x7A61A24C#32 [] (.aadd .always .acquire .device true (.s 9) (.s 12)) ∧
  D 0x7FE1E000#32 [] (.rep 3#6 6#3) ∧
  D 0x7C000088#32 [] (.vadd .always 0#3 (.v 0) (.v 4) (.v 8)) ∧
  D 0x79387FFF#32 [] (.loop .always (.s 48) 0x7FFF#15) ∧
  D 0x7A0942BF#32 [8#32] (.ldw .always (.s 20) (.s 10) (.lit 8#32)) ∧
  D 0x7B83C28B#32 [] (.jpush .always .zr (.s 10) (.s 11)) ∧
  D 0x7E22C720#32 [] (.ddrain .always (.s 49) (.s 50)) ∧
  D 0x7F840C02#32 [] (.srwr .always (.s 48) 2#6)

/-- 02 R41, R42, R46-R53: decoding the bytes of any well-formed word, with its literal, gives the word back and leaves the bytes after it. -/
def Obligations.DecodeEncode : Prop :=
  ∀ (i : Instr) (rest : List Byte), i.wf = true → decode (encode i ++ rest) = .ok (i, rest)

/-- 02 R61: what decodes is the encoding of the well-formed instruction it decodes to, so every encoding that is not an instruction is refused. 02 R61 cases 1-5: the words 0 and 0xFFFFFFFF, guard fields without a meaning, unassigned majors, reserved minors and reserved bits that are not 0 decode to no instruction. -/
def Obligations.DecodedWordsEncode : Prop :=
  (
   ∀ (bs rest : List Byte) (i : Instr), decode bs = .ok (i, rest) → i.wf = true ∧ encode i ++ rest = bs
  ) ∧ (
   ∀ (w l : W32),
     let gs := w.getLsbD 31
     let gp := (w.extractLsb' 27 4).toNat
     let m := (w.extractLsb' 21 6).toNat
     let op (lo n : Nat) := (w.extractLsb' lo n).toNat
     let Refused : Prop := ∀ i, decodeFields w l ≠ .ok i
     (w = 0#32 ∨ w = 0xFFFFFFFF#32 → Refused) ∧
     (12 ≤ gp ∧ gp ≤ 14 ∨ gp = 15 ∧ gs = true → Refused) ∧
     (m ∈ [0x0E, 0x0F, 0x16, 0x17, 0x1A, 0x1B, 0x1E, 0x1F, 0x37, 0x3A, 0x3B, 0x3D, 0x3E] → Refused) ∧
     ((m = 0x02 ∧ op 18 3 = 7) ∨ (m = 0x04 ∧ 4 ≤ op 18 3) ∨ (m = 0x05 ∧ 10 ≤ op 17 4) ∨ (m = 0x07 ∧ 2 ≤ op 19 2) ∨ (m = 0x08 ∧ 3 ≤ op 18 3) ∨
       (m ∈ [0x0A, 0x0B] ∧ 2 ≤ op 18 3) ∨ (m = 0x0C ∧ 3 ≤ op 16 5) ∨ (m = 0x11 ∧ 4 ≤ op 18 3) ∨ (m ∈ [0x12, 0x14] ∧ 3 ≤ op 18 3) ∨
       (m ∈ [0x15, 0x19, 0x1D] ∧ 4 ≤ op 18 3) ∨ (m = 0x1C ∧ 7 ≤ op 18 3) ∨ (m = 0x3C ∧ 5 ≤ op 18 3) ∨ (m ∈ [0x25, 0x2B] ∧ 5 ≤ op 18 3) ∨
       (m = 0x39 ∧ 4 ≤ op 18 3) ∨ (m = 0x18 ∧ 7 ≤ op 16 5) ∨ (m ∈ [0x30, 0x31] ∧ 5 ≤ op 16 5) ∨ (m ∈ [0x34, 0x38] ∧ 4 ≤ op 16 5) ∨
       (m ∈ [0x33, 0x36] ∧ 2 ≤ op 16 5) ∨ (m ∈ [0x32, 0x35] ∧ 1 ≤ op 16 5) → Refused) ∧
     ((m ∈ [0x05, 0x11, 0x12] ∧ w.getLsbD 0 = true) ∨ (m ∈ [0x06, 0x0B] ∧ op 0 6 ≠ 0) ∨ (m = 0x0C ∧ op 0 16 ≠ 0) ∨ (m = 0x13 ∧ w.getLsbD 12 = true) ∨
       (m = 0x14 ∧ op 6 8 ≠ 0) ∨ (m ∈ [0x18, 0x30, 0x31, 0x32, 0x33, 0x34, 0x35, 0x36, 0x38] ∧ op 0 4 ≠ 0) ∨ (m = 0x3F ∧ op 0 12 ≠ 0) → Refused)
  )

/-- 02 R42, R55; 05 R123: when the bytes at the PC of the stream whose turn it is decode to a well-formed word, which is no REP, the step is that word's meaning. -/
def Obligations.StepIssuesDecodedWord : Prop :=
  ∀ (s : State) (a : Agent) (old : List Nat) (late : Bool) (r : List Turn) (b : Nat) (i : Instr),
    let s1 : State := { s with agenda := r, cur := a, old := old, late := late }
    let pc := (s1.task a).pcOf a.kind
    s.agenda = .issue a old late :: r → s1.live a = true → s1.tooHot a.cluster = false → (s1.task a).repOf a.kind = 0 →
    Fetches a 0 s1 pc b → (i.lits ≠ [] → Fetches a 1 s1 (pc + 4#64) (b + 4)) → i.wf = true → i.major ≠ some 0x3F#6 →
    decode (s1.bytes b (4 * i.words)) = .ok (i, []) →
      step s = exec i s1

/-- 02 R54-R56: at a legal REP word whose counter is 0 the step sets it to CNT + 1; while the counter is not 0 the step issues the target, its register fields stepped by the number of repeats made, with the literal that the first of them read. 02 R54-R56: REP completes by setting REPC of its stream to CNT + 1; the stream stays at the REP word. The model's own: the prefix is a step of its own and takes no slot (log entry 22), tile and latch fields (23). -/
def Obligations.StepRepeats : Prop :=
  (
   ∀ (s : State) (a : Agent) (old : List Nat) (late : Bool) (r : List Turn) (b b' : Nat) (cnt : BitVec 6) (st : BitVec 3) (j : Instr) (lit : W32)
     (rest : List Byte),
     let s1 : State := { s with agenda := r, cur := a, old := old, late := late }
     let u := s1.task a
     let pc := u.pcOf a.kind
     s.agenda = .issue a old late :: r → s1.tooHot a.cluster = false → Issues a s1 → a.core?.isSome = true →
     Fetches a 0 s1 pc b → decode (s1.bytes b 4) = .ok (.rep cnt st, []) →
     Fetches a 1 s1 (pc + 4#64) b' → decode (s1.bytes b' 4 ++ bytesOfWord lit) = .ok (j, rest) →
       (u.repOf a.kind = 0 → lit = 0#32 → repLegal a.kind cnt st j = true →
         step s = .next (s1.modTask a fun t => (t.setRep a.kind (cnt.toNat + 1)).setLit a.kind none)) ∧
       (u.repOf a.kind = 0 → lit = 0#32 → repLegal a.kind cnt st j = false → step s = .next (takeTrap a { code := .illegal } false none s1)) ∧
       (∀ k, 0 < u.repOf a.kind → u.repOf a.kind ≤ cnt.toNat + 1 → j.stepped st (cnt.toNat + 1 - u.repOf a.kind) = .ok k →
         (j.lits = [] → step s = exec k s1) ∧
         (j.lits ≠ [] → u.litOf a.kind = some lit → step s = exec k s1) ∧
         (j.lits ≠ [] → u.litOf a.kind = none → Fetches a 2 s1 (pc + 8#64) (b' + 4) → lit = BitVec.ofNat 32 (s1.value (b' + 4) 4) →
           step s = exec k (s1.modTask a fun t => t.setLit a.kind (some lit))))
  ) ∧ (
   ∀ (a : Agent) (s : State) (cnt : BitVec 6) (st : BitVec 3), Issues a s → a.core?.isSome = true → (s.task a).repOf a.kind = 0 →
     ∃ t, exec (.rep cnt st) s = .next t ∧ t.task a = ((s.task a).setRep a.kind (cnt.toNat + 1)).setLit a.kind none ∧ SameOutside s t ∧ SameCores a s t
  )

/-- The model's turns (log entry 1): the step takes the next entry of the agenda; an entry with an event fires it. An entry that names a word as an event, or an agent without a stream that can issue, or that can still issue in the clocks in which the discard of its launch begins (14 R387; log entry 84), is no step of the machine and stops. After a word of such a stream the discard goes on; once two interval pulses have passed since it began, no stream of the launch issues. -/
def Obligations.StepTakesTurns : Prop :=
  ∀ (s : State) (t : Turn) (r : List Turn), s.agenda = t :: r →
    (∀ e, t = .event e → e.isWord = false → step s = exec e { s with agenda := r }) ∧
    (∀ e, t = .event e → e.isWord = true → step s = .fault .notAnEvent) ∧
    (∀ a old late, t = .issue a old late → s.live a = false → s.fading a = false → step s = .fault .noStream) ∧
    (∀ a old late p l, t = .issue a old late → s.partOf? a.cluster = some p → (s.part p).launch = some l → l.phase = .discarding →
      (l.fresh s.modl.intcnt = false → step s = .fault .noStream) ∧
      (∀ u v, step s = .next u → (u.part p).launch = some v → v.phase = .discarding))

/-- 05 R123; 04 R105; 02 R61, R62: a fetch from an address without an entry, or from one that is no memory, and a word that decodes to nothing, trap at the word, which has no effect. 02 R60-R62; 04 R92; 11 R324: a word that is not legal in its stream, or that a control core may not issue, traps with the code ILLEGAL, guarded on or off, and has no other effect. R60 is stated whole; of the other rules the cases named here. -/
def Obligations.UnfetchedWordsTrap : Prop :=
  (
   ∀ (s : State) (a : Agent) (old : List Nat) (late : Bool) (r : List Turn),
     let s1 : State := { s with agenda := r, cur := a, old := old, late := late }
     let pc := (s1.task a).pcOf a.kind
     s.agenda = .issue a old late :: r → s1.tooHot a.cluster = false → Issues a s1 →
       (∀ e, translate s1 a (s1.task a) pc .fetch = .error e → step s = .next (takeTrap a { code := e } false none s1)) ∧
       (∀ tgt, translate s1 a (s1.task a) pc .fetch = .ok tgt → loadAddr s1 (s1.partOf a) tgt = none →
         step s = .next (takeTrap a { code := .fetchwin } false none s1)) ∧
       (∀ b, Fetches a 0 s1 pc b → (∀ i, decodeFields (BitVec.ofNat 32 (s1.value b 4)) 0#32 ≠ .ok i) →
         step s = .next (takeTrap a { code := .illegal } false none s1))
  ) ∧ (
   ∀ (a : Agent) (s : State) (i : Instr), i.isWord = true → i.major ≠ some 0x3F#6 → Issues a s →
     (a.core?.isSome = true → i.legal a.kind = false) →
     (a.core? = none → i.inStream .access = false ∨ (∀ m, i.major = some m → m.toNat ∉ ctlMajors) ∨ (∃ g d x, i = .darrive g d x) ∨
       (∃ r ∈ i.roles, r.queue?.isSome = true)) →
       exec i s = .next (takeTrap a { code := .illegal } false none s)
  )

/-- 02 R43-R45: a legal word whose guard is off issues as a no-op: its stream steps past it and its literal, and nothing else of the task or of the machine changes. -/
def Obligations.GuardedOffWords : Prop :=
  ∀ (a : Agent) (s : State) (i : Instr), i.isWord = true → i.major ≠ some 0x3F#6 → Issues a s → (a.core?.isSome = true → i.legal a.kind = true) →
    (a.core? = none → i.inStream .access = true ∧ (∃ m, i.major = some m ∧ m.toNat ∈ ctlMajors) ∧ (∀ g d x, i ≠ .darrive g d x) ∧
      (∀ r ∈ i.roles, r.queue? = none) ∧ i.shapeOk .access = true) →
    guardStop a i.guard s = .ok () → predicts i.guard s = none → guardOff a (s.task a) i.guard →
      Completes i (skipped i) a s id

/-- 02 R51: a predicate read before its bound is undefined, a free value of the model (log entry 5); at or after the bound, and always in interlocked scoreboard mode, it is the value written. -/
def Obligations.EarlyReads : Prop :=
  ∀ (c : Nat) (s : State) (p : Pred),
    let a := Agent.execute c
    let w := exe .always [.psrc p]
    let u := s.task a
    let Pushes (v : Bool) : Prop := ∃ t, exec (.pqpush .always p) s = .next t ∧ (t.task a).q = { u.q with pq := u.q.pq ++ [v] } ∧ (t.task a).regs = u.regs
    Ready w a s → 8 ≤ p.val → u.a.ended = false → u.q.pq.length < 32 →
      (u.scoreboard = false → u.x.clk < tget 0 u.x.ready (keyPred p) → Pushes (Config.freeBit s.freeCtr 0)) ∧
      (u.scoreboard = true ∨ tget 0 u.x.ready (keyPred p) ≤ u.x.clk → Pushes (u.preds.getLsbD p.val))

/-! Traps (14 R376-R387). -/

/-- 14 R377, R378, R380, R387: taking a trap logs its record, counts it, and starts the discard of its launch; memory, cores and clusters stay. -/
def Obligations.TrapsAreLogged : Prop :=
  ∀ (a : Agent) (s : State) (info : TrapInfo) (home : Bool) (pc : Option W64) (p : Nat), s.partOf? a.cluster = some p → info.wait = false →
    let t := takeTrap a info home pc s
    let u := s.task a
    let old := if (s.part p).logStale then [] else (s.part p).traplog
    let cnt := if (s.part p).logStale then 0 else (s.part p).trapcnt
    (∃ r, (t.part p).traplog = (if old.length < 8 then old ++ [r] else old) ∧
      r.task = u.ident ∧ r.code = info.code.code ∧ r.cls = info.code.cls ∧ r.home = home ∧ r.stream = (a.kind == .execute) ∧ r.tick = s.modl.frame ∧
      (a.kind = .access → r.apc = pc.getD u.a.pc) ∧ (a.kind = .execute → r.xpc = pc.getD u.x.pc ∧ r.apc = u.a.pc) ∧
      (a.core?.isSome = true → r.cmdidx = info.cmd.getD u.cmdx ∧ r.repc = u.repOf a.kind) ∧
      (a.core? = none → r.xpc = 0#64 ∧ r.cmdidx = 0#32 ∧ r.repc = 0)) ∧
    (t.part p).trapcnt = (cnt + 1) % 2 ^ 32 ∧ (t.part p).logStale = false ∧
    (old.length < 8 → (s.fn (s.fnOf p)).d3 = false → OutMsg.msix (s.fnOf p) 1 ∈ t.plat.out) ∧
    (t.part p).launch = (s.part p).launch.map (fun l => { l with phase := .discarding, stops := (a, u.a.seq) :: l.stops, fade := some (l.fade.getD s.modl.intcnt) }) ∧
    (∀ b : Agent, s.partOf? b.cluster = some p → t.live b = false) ∧
    t.mem = s.mem ∧ t.attr = s.attr ∧ t.cores = s.cores ∧ t.clus = s.clus ∧ (∀ q, q ≠ p → t.part q = s.part q)

/-! Reset and memory. -/

/-- 15 R409, R411-R413; 03 R78; 07 R163; 01 R30: what module reset leaves, where the spec states it. The memory of the module after reset is in the model's canonical form (log entry 3). -/
def Obligations.ResetState : Prop :=
  (
   let s := State.reset
   s.modl.mstate = 0 ∧ s.modl.intcnt = 0 ∧ s.plat.budget = 1800 ∧
   (∀ c, (s.core c).ctx0.state = .free ∧ (s.core c).ctx1.state = .free ∧ (s.core c).vec.vcfg = 0x400#64 ∧ (s.core c).vec.fsr = 0#64) ∧
   (∀ p, (s.part p).launch = none ∧ (s.part p).pstate = .idle ∧ (s.part p).traplog = [] ∧ (s.part p).trapcnt = 0 ∧ (s.part p).regs.pclus = 0#192 ∧
     (s.part p).regs.hdr = true ∧ (s.part p).regs.brken = false ∧ (s.part p).sel = 0#4 ∧
     (s.part p).regs.ft = [0x80#32, 0x81#32, 0x82#32, 0xC83#32, 0xC84#32, 0xC85#32, 0x86#32, 0x3886#32, 0x1889#32, 0x508D#32, 0x483#32, 0x18A#32,
       0#32, 0#32, 0#32, 0#32]) ∧
   (∀ n, (s.port n).mode = 0 ∧ (s.port n).owner? = none) ∧
   (∀ a, s.cellSt a = .value) ∧ (∀ b : Agent, s.live b = false)
  ) ∧ (
 State.reset.Inv
  )

/-- The canonical form of the memory is an invariant of every step (log entry 3). -/
def Obligations.StepsKeepMemoryCanonical : Prop :=
  ∀ s t : State, s.Inv → step s = .next t → t.Inv

/-! Accesses performed at their homes (06 R138-R147; 12 R337-R339; 08 R214). -/

/-- 06 R139-R142; 05 R132, R133: a performed load element brings the bytes at its address to its destination, each from the youngest earlier store of its task that has not been performed, if one covers it; memory stays. The model's own: a load behind a cell access of its task waits (log entry 17). -/
def Obligations.LoadsPerformed : Prop :=
  ∀ (ctl : Bool) (n i : Nat) (s : State) (x : Access) (e : AccElem) (b : Nat),
    let a := performer ctl n
    let u := s.task a
    Performs a s false i x e → x.op = .load → loadAddr s (s.partOf a) e.tgt = some b → s.eccHit b e.n = false → s.expired b = false → e.n ≤ 8 → x.busy = none →
    ∃ (v : W64) (hit : Bool) (t : State), exec (.accessPerformed ctl n false i e.j) s = .next t ∧
      (∀ k, k < e.n → (∀ z ∈ u.a.stores, z.isStore = true → z.seq < x.seq → ∀ f ∈ z.open_, ∀ c, f.tgt = .byte c → b + k < c ∨ c + f.n ≤ b + k) →
        v.extractLsb' (8 * k) 8 = s.byte (b + k)) ∧
      (∀ k pre post z f c, k < e.n → u.a.stores = pre ++ z :: post → z.isStore = true → z.seq < x.seq → z.open_ = [f] → f.tgt = .byte c →
        c ≤ b + k → b + k < c + f.n → c + 8 > b + k → (∀ y ∈ post, x.seq ≤ y.seq) → v.extractLsb' (8 * k) 8 = f.data.extractLsb' (8 * (b + k - c)) 8) ∧
      (∀ k, 8 * e.n ≤ k → v.getLsbD k = false) ∧
      (t.task a).regs = (deliver x e.j v u).regs ∧ (t.task a).q = (deliver x e.j v u).q ∧ (t.task a).a.pend = (deliver x e.j v u).a.pend ∧
      (t.task a).a.loads = afterElem i e.j x u.a.loads (fun y => { y with hit := y.hit || hit }) ∧ (t.task a).a.stores = u.a.stores ∧
      (t.task a).preds = u.preds ∧ SameOutside s t

/-- 06 R138, R140; 05 R132; 12 R335: a performed store element writes its bytes at its address, and no other byte; where a cell is not in VALUE it writes nothing, and its word traps with CELLBUSY, naming the cell, once its elements have all been performed. The model's own: a write of a part of a unit in error raises ECCUNC (log entry 87). -/
def Obligations.StoresPerformed : Prop :=
  ∀ (ctl : Bool) (n i : Nat) (s : State) (x : Access) (e : AccElem) (b : Nat),
    let a := performer ctl n
    let u := s.task a
    s.Inv → Performs a s true i x e → x.op = .store → e.tgt = .byte b → e.n ≤ 8 → x.busy = none →
      (∀ info, stateTrap s b e.n = some info → exec (.accessPerformed ctl n true i e.j) s = .next (homeTrap a x info s) ∧ info.code = .eccunc) ∧
      (stateTrap s b e.n = none → ∃ t, exec (.accessPerformed ctl n true i e.j) s = .next t ∧
        (s.cellSt b = .value → Wrote s t b ((List.range e.n).map fun k => e.data.extractLsb' (8 * k) 8) ∧
          (t.task a).a.stores = afterElem i e.j x u.a.stores id) ∧
        (s.cellSt b ≠ .value → SameBytes s t ∧
          ((elemDone e.j x).open_ = [] → s.partOf? a.cluster = some (s.partOf a) → (s.part (s.partOf a)).logStale = false → (s.part (s.partOf a)).traplog.length < 8 →
            ∃ r, (t.part (s.partOf a)).traplog = (s.part (s.partOf a)).traplog ++ [r] ∧ r.code = TrapCode.cellbusy.code ∧ r.addr = e.va.toNat / 32 * 32 ∧ r.home = true)) ∧
        (t.task a).regs = u.regs ∧ (t.task a).q = u.q ∧ (t.task a).preds = u.preds ∧ (t.task a).a.loads = u.a.loads)

/-- 06 R147, R149: a performed atomic reads its word, delivers the old value and writes the new one, at one instant; ACAS writes only where the old value equals its operand. -/
def Obligations.AtomicsPerformed : Prop :=
  ∀ (ctl : Bool) (n i : Nat) (s : State) (x : Access) (e : AccElem) (b : Nat) (op : AtomicOp) (wide : Bool) (swap : W64),
    let a := performer ctl n
    let u := s.task a
    let m := if wide then 8 else 4
    let old : BitVec (8 * m) := BitVec.ofNat _ (s.value b m)
    let opd : BitVec (8 * m) := BitVec.ofNat _ e.data.toNat
    let new : BitVec (8 * m) := match op with
      | .add => old + opd | .and => old &&& opd | .or => old ||| opd | .xor => old ^^^ opd
      | .min => if old.toInt ≤ opd.toInt then old else opd
      | .max => if old.toInt ≤ opd.toInt then opd else old
      | .swp => opd
      | .cas => if old = opd then BitVec.ofNat _ swap.toNat else old
    s.Inv → Performs a s true i x e → x.op = .atomic op wide swap → e.n = m → e.tgt = .byte b →
    s.eccHit b m = false → s.expired b = false → s.cellSt b = .value →
      ∃ t, exec (.accessPerformed ctl n true i e.j) s = .next t ∧ Wrote s t b ((List.range m).map fun k => new.extractLsb' (8 * k) 8) ∧
        (op = .cas → old ≠ opd → t.mem = s.mem) ∧
        (t.task a).regs = (deliver x e.j (BitVec.ofNat 64 old.toNat) u).regs ∧ (t.task a).a.pend = (deliver x e.j (BitVec.ofNat 64 old.toNat) u).a.pend ∧
        (t.task a).q = (deliver x e.j (BitVec.ofNat 64 old.toNat) u).q ∧ (t.task a).preds = u.preds ∧ (t.task a).a.loads = u.a.loads

/-- 12 R337-R339: a cell word that meets no error stands last in its queue: CMK and CFILL with the 32 bytes that they read, CFAIL with its code, CLD as an acquire at device scope. 12 R337-R339: what the cell instructions do at a cell's home. CMK suspends a cell that is not being evaluated; CFILL gives a cell of its own lineage its value; CFAIL makes it fail with its code; a CLD of a cell in VALUE delivers its doubleword, a first CLD of a suspended cell starts its evaluation and waits, one of a cell in evaluation waits, one of a failed cell traps. -/
def Obligations.Cells : Prop :=
  (
   ∀ (s : State) (g : Guard) (d : SDst) (x y : Scalar) (n : Nat),
     let a := Agent.access n
     let w := acc g [.src x, .src y]
     let wl := acc g [.dst d, .src x, .src y]
     let u := s.task a
     let X := srcVal u x
     let Y := srcVal u y
     let Writes (i : Instr) (op : CellOp) (arg : List Byte) (ord : MemOrder) (scope : Scope) (tgt : Target) : Prop :=
       Completes i w a s (storing (accessOf (ctxOf a w s) (.cell op arg) ord scope .none false [element 0 X tgt 32 0#64]))
     (∀ tgt src bs, Ready w a s → storesUsed u < 32 → Reaches a s X 32 .cell tgt → Reaches a s Y 32 .load src →
       innerRead (ctxOf a w s) Y src 32 (atIssue a w s) = .ok bs →
         (templateOk bs = true → Writes (.cmk g x y) .mk bs .relaxed .unit tgt) ∧
         (templateOk bs = false → exec (.cmk g x y) s = .next (takeTrap a { code := .cellbad, addr := X.toNat } false none s)) ∧
         Writes (.cfill g x y) .fill bs .release .device tgt) ∧
     (∀ tgt, Ready w a s → storesUsed u < 32 → Reaches a s X 32 .cell tgt →
         (0x100 ≤ Y.toNat → Y.toNat < 2 ^ 32 → Writes (.cfail g x y) .fail (leBytes 4 Y.toNat) .release .device tgt) ∧
         (Y.toNat < 0x100 ∨ 2 ^ 32 ≤ Y.toNat → exec (.cfail g x y) s = .next (takeTrap a { code := .cellbad, addr := X.toNat } false none s))) ∧
     (∀ b, Ready wl a s → loadsUsed u < 32 → Reaches a s (X + Y) 8 .cell (.byte b) →
         (b / 32 * 32 ∉ u.lineage → Completes (.cld g d x y) wl a s (fun t =>
           loading (accessOf (ctxOf a wl s) (.cell .ld []) .acquire .device (loadDst d) false [element 0 (X + Y) (.byte b) 8 0#64]) (claimed u.a.seq (loadDst d) false t))) ∧
         (b / 32 * 32 ∈ u.lineage → exec (.cld g d x y) s = .next (takeTrap a { code := .selfdep, addr := (X + Y).toNat / 32 * 32 } false none s)))
  ) ∧ (
   ∀ (n i : Nat) (s : State) (x : Access) (e : AccElem) (cell : Nat),
     let a := Agent.access n
     let u := s.task a
     let p := s.partOf a
     let g := homeCluster s p cell
     let Fires (st : Bool) (P : State → Prop) : Prop := ∃ t, exec (.accessPerformed false n st i e.j) s = .next t ∧ P t
     (∀ arg, s.Inv → Performs a s true i x e → e.tgt = .byte cell → x.op = .cell .mk arg → arg.length = 32 → cell % 32 = 0 → s.eccHit cell 32 = false →
       (s.cellSt cell ≠ .evaluating → Fires true fun t => t.cellSt cell = .suspended ∧ Wrote s t cell arg) ∧
       (s.cellSt cell = .evaluating → Fires true fun t => t = homeTrap a x { code := .cellstate, addr := e.va.toNat / 32 * 32 } s)) ∧
     (∀ arg, s.Inv → Performs a s true i x e → e.tgt = .byte cell → x.op = .cell .fill arg → arg.length = 32 → cell % 32 = 0 → s.eccHit cell 32 = false →
       (s.cellSt cell = .evaluating → cell ∈ u.lineage → Fires true fun t => t.cellSt cell = .value ∧ (∀ w ∈ (t.cluster g).waiters, w.cell ≠ cell) ∧
         ((∀ h, ∀ w ∈ (s.cluster h).waiters, w.place ≠ .held) → Wrote s t cell arg)) ∧
       (s.cellSt cell ≠ .evaluating ∨ cell ∉ u.lineage → Fires true fun t => t = homeTrap a x { code := .cellstate, addr := e.va.toNat / 32 * 32 } s)) ∧
     (∀ code, s.Inv → Performs a s true i x e → e.tgt = .byte cell → x.op = .cell .fail (leBytes 4 code) → code < 2 ^ 32 → cell % 32 = 0 → s.eccHit cell 32 = false →
       (s.cellSt cell = .evaluating → cell ∈ u.lineage → Fires true fun t => t.cellSt cell = .failed ∧ (∀ w ∈ (t.cluster g).waiters, w.cell ≠ cell) ∧
         ((∀ h, ∀ w ∈ (s.cluster h).waiters, w.place ≠ .held) → t.value (cell + 0x18) 4 = code))) ∧
     (∀ b arg, Performs a s false i x e → e.tgt = .byte b → x.op = .cell .ld arg → cell = b / 32 * 32 → e.n = 8 → s.eccHit b 8 = false → s.expired b = false →
       (s.cellSt b = .value → Fires false fun t => (t.task a).regs = (deliver x e.j (BitVec.ofNat 64 (s.value b 8)) u).regs ∧
         (t.task a).q = (deliver x e.j (BitVec.ofNat 64 (s.value b 8)) u).q ∧ t.mem = s.mem) ∧
       (s.cellSt b = .suspended → u.lineage.length < 8 → Fires false fun t => t.cellSt cell = .evaluating ∧ (t.task a).a.wait = some (.cell x.seq) ∧
         (∃ ev, (t.cluster g).evals = (s.cluster g).evals ++ [ev] ∧ ev.cell = cell ∧ ev.lineage = u.lineage ++ [cell]) ∧
         (∃ w ∈ (t.cluster g).waiters, w.cell = cell ∧ w.core = n ∧ w.task = u.ident ∧ w.seq = x.seq)) ∧
       (s.cellSt b = .suspended → u.lineage.length = 8 → Fires false fun t => t = homeTrap a x { code := .evaldepth, addr := e.va.toNat / 32 * 32 } s) ∧
       (s.cellSt b = .evaluating → Fires false fun t => t.cellSt cell = .evaluating ∧ (t.task a).a.wait = some (.cell x.seq) ∧
         (∃ w ∈ (t.cluster g).waiters, w.cell = cell ∧ w.core = n ∧ w.task = u.ident ∧ w.seq = x.seq)) ∧
       (s.cellSt b = .failed → Fires false fun t =>
         t = homeTrap a x { code := .cellfail, addr := e.va.toNat / 32 * 32, status := s.value (cell + 0x18) 4 } s))
  )

/-- 08 R213-R215: BARINIT, BARX and BARRD stand last in their queues; BARW goes on once the barrier is at zero, and traps with BARUNDER when it has overrun; a barrier of no cluster of the partition is BARRANGE, a value of more than 36 bits BAROVER. 08 R214: at the barrier's home BARINIT sets the counter and clears OVERRUN, BARX adds to the counter or raises BAROVER, BARRD delivers both. -/
def Obligations.Barriers : Prop :=
  (
   ∀ (s : State) (g : Guard) (d : SDst) (x y : Scalar) (n : Nat),
     let a := Agent.access n
     let w := acc g [.src x, .src y]
     let w1 := acc g [.src x]
     let wr := acc g [.dst d, .src x]
     let u := s.task a
     let Y := srcVal u y
     let b := ((srcVal u x).extractLsb' 0 14).toNat
     let mine : Bool := decide (b < 12288) && s.hasCluster (s.partOf a) (b / 64)
     let Traps (i : Instr) (c : TrapCode) : Prop := exec i s = .next (takeTrap a { code := c } false none s)
     let Queues (i : Instr) (op : AccOp) : Prop :=
       Completes i w a s (fun t => { t with a := { t.a with stores := t.a.stores ++ [accessOf (ctxOf a w s) op .relaxed .unit .none false [barElem b Y]] } })
     (Ready w a s → storesUsed u < 32 →
       (mine = true → Y.toNat < 2 ^ 36 → Queues (.barinit g x y) .barInit ∧ Queues (.barx g x y) .barAdd) ∧
       (mine = true → 2 ^ 36 ≤ Y.toNat → Traps (.barinit g x y) .barover ∧ Traps (.barx g x y) .barover) ∧
       (mine = false → Traps (.barinit g x y) .barrange ∧ Traps (.barx g x y) .barrange)) ∧
     (Ready w1 a s → mine = true → barsOpen u = false →
       ((s.barrier b).overrun = false → (s.barrier b).count = 0 → Completes (.barw g x) w1 a s id) ∧
       ((s.barrier b).overrun = true → Traps (.barw g x) .barunder)) ∧
     (Ready wr a s → loadsUsed u < 32 → mine = true → Completes (.barrd g d x) wr a s (fun t =>
         loading (accessOf (ctxOf a wr s) .barRead .relaxed .unit (loadDst d) false [barElem b 0#64]) (claimed u.a.seq (loadDst d) false t)))
  ) ∧ (
   ∀ (n i : Nat) (s : State) (x : Access) (e : AccElem) (b : Nat),
     let a := Agent.access n
     let u := s.task a
     let k := s.barrier b
     let Others (t : State) : Prop := (∀ c, c ≠ b → t.barrier c = s.barrier c) ∧ t.mem = s.mem ∧ t.attr = s.attr ∧ t.parts = s.parts
     e.tgt = .barrier b →
     (Performs a s true i x e → x.op = .barInit → x.busy = none → ∃ t, exec (.accessPerformed false n true i e.j) s = .next t ∧
       t.barrier b = { count := e.data.toNat, overrun := false } ∧ (t.task a).regs = u.regs ∧ Others t) ∧
     (Performs a s true i x e → x.op = .barAdd → x.busy = none →
       (k.count + e.data.toNat < 2 ^ 36 → ∃ t, exec (.accessPerformed false n true i e.j) s = .next t ∧
         t.barrier b = { k with count := k.count + e.data.toNat } ∧ (t.task a).regs = u.regs ∧ Others t) ∧
       (2 ^ 36 ≤ k.count + e.data.toNat → exec (.accessPerformed false n true i e.j) s = .next (homeTrap a x { code := .barover } s))) ∧
     (Performs a s false i x e → x.op = .barRead → x.busy = none → 0 ≤ k.count → k.count < 2 ^ 63 → ∃ t, exec (.accessPerformed false n false i e.j) s = .next t ∧
       t.barrier b = k ∧
       (t.task a).regs = (deliver x e.j (BitVec.ofNat 64 ((if k.overrun then 2 ^ 63 else 0) + k.count.toNat)) u).regs ∧ Others t)
  )

/-! Commands to the copy engines and messages (08 R196-R206, R230, R238; 13 R359-R361). -/

/-- 08 R196-R199: a copy word whose descriptor and control word keep the rules enters a command at the end of its engine's queue and takes the task's next command index; memory and the rest of the machine are as before. -/
def Obligations.CopyWords : Prop :=
  ∀ (s : State) (g : Guard) (x y : Scalar) (n e : Nat) (bs : List Byte),
    let a := Agent.access n
    let w := acc g [.src x, .src y]
    let u := s.task a
    let p := s.partOf a
    let Y := srcVal u y
    let d := CopyDesc.ofBytes bs
    let Sends (i : Instr) (op : CopyOp) : Prop :=
      fieldsOk bs op d = true → shapeOk s p op d = true → (op = .cpm → multicastOk u.window d = true) → entriesOk s p op d = true → planeOk s p op d = true →
      ∃ t cmd, exec i s = .next t ∧ t.task a = settled a (counted (entered w a u)) ∧ SameOutside s t ∧
        Enqueued a s t a.cluster e Y cmd ∧ cmd.op = op ∧ cmd.d = d ∧ cmd.msg = none
    Ready w a s → u.a.kept = none → readBlock (ctxOf a w s) (srcVal u x) 64 (atIssue a w s) = .ok bs → Accepts s p a.cluster Y e →
      Sends (.cpt g x y) .cpt ∧ Sends (.cpc g x y) .cpc ∧ Sends (.cpx g x y) .cpx ∧ Sends (.cptr g x y) .cptr ∧ Sends (.cpm g x y) .cpm ∧
      Sends (.cpz g x y) .cpz ∧ Sends (.cpd g x y) .cpd

/-- 13 R359-R361; 06 R152: MSEND and KSEND enter a command with their message at the end of the engine's queue; an exact message is open for its task until it is acknowledged. 13 R367, R368: AMTSET arms an entry of a port's arrival table from its template, with the window of its task; AMTCLR makes an entry idle. -/
def Obligations.MessageWords : Prop :=
  (
   ∀ (s : State) (g : Guard) (x y : Scalar) (n e : Nat) (bs : List Byte),
     let a := Agent.access n
     let w := acc g [.src x, .src y]
     let u := s.task a
     let p := s.partOf a
     let Y := srcVal u y
     let f (o k : Nat) := leValue ((bs.drop o).take k)
     let Sends (i : Instr) (kerf : Bool) (h : Task → Task) : Prop :=
       msgDescOk kerf bs = true → portOk s p (f 0x10 1) = true →
       ∃ t cmd m, exec i s = .next t ∧ t.task a = settled a (h (counted (entered w a u))) ∧ SameOutside s t ∧
         Enqueued a s t a.cluster e Y cmd ∧ cmd.op = (if kerf then .ksend else .msend) ∧ cmd.d.src = BitVec.ofNat 64 (f 0 8) ∧ cmd.msg = some m ∧
         m.kerf = kerf ∧ m.len = f 8 4 ∧ m.tag = f 0xC 4 ∧ m.port = f 0x10 1 ∧ m.dl = f 0x12 2 ∧ m.phase = .reading ∧ m.bytes = []
     Ready w a s → u.a.kept = none → readBlock (ctxOf a w s) (srcVal u x) 32 (atIssue a w s) = .ok bs → Accepts s p a.cluster Y e →
       Sends (.msend g x y) false (fun t => { t with a := { t.a with exact := t.a.exact ++ [(u.a.seq, u.cmdx)] } }) ∧
       Sends (.ksend g x y) true id
  ) ∧ (
   ∀ (s s1 : State) (g : Guard) (x y : Scalar) (n : Nat) (bs : List Byte) (j : Option JigRec),
     let a := Agent.access n
     let w := acc g [.src x, .src y]
     let s0 := atIssue a w s
     let w1 := acc g [.src x]
     let u := s.task a
     let p := s.partOf a
     let f (o k : Nat) := leValue ((bs.drop o).take k)
     let Y := (srcVal u y).toNat
     let X := (srcVal u x).toNat
     (Ready w a s → u.a.kept = none → readBlock (ctxOf a w s) (srcVal u x) 64 s0 = .ok bs → storable? (s0.view a) (f 8 8) (f 4 4) s0 = .ok () →
       (f 0x10 8 ≠ 0 → storable? (s0.view a) (f 0x10 8) (statusSize (f 4 4)) s0 = .ok ()) → portOk s p (Y % 8) = true → entryNameOk Y = true → templateFieldsOk bs = true →
       entryTurn (ctxOf a w s) s0 = .ok () → entryBusy s (Y % 8) (Y / 256) = false → arrivalRecord p (ctxOf a w s) (f 0x18 8) s0 = .ok (j, s1) →
         ∃ t ent, exec (.amtset g x y) s = .next t ∧ t.task a = settled a (s1.task a) ∧ t.mem = s1.mem ∧
           tget? (t.port (Y % 8)).amt (Y / 256) = some ent ∧ ent.state = .armed ∧ ent.tag = f 0 4 ∧ ent.len = f 4 4 ∧ ent.buf = BitVec.ofNat 64 (f 8 8) ∧
           ent.maska = BitVec.ofNat 64 (f 0x10 8) ∧ ent.jrec = j ∧ ent.arg = BitVec.ofNat 64 (f 0x20 8) ∧ ent.etick = f 0x28 8 ∧ ent.kerf = (f 0x30 1 % 2 == 1) ∧
           ent.persist = (f 0x30 1 / 2 % 2 == 1) ∧ ent.view = s0.view a ∧
           (∀ k, k ≠ Y / 256 → tget? (t.port (Y % 8)).amt k = tget? (s1.port (Y % 8)).amt k)) ∧
     (Ready w1 a s → entryNameOk X = true → entryTurn (ctxOf a w1 s) (atIssue a w1 s) = .ok () → entryBusy s (X % 8) (X / 256) = false →
         ∃ t, exec (.amtclr g x) s = .next t ∧ t.task a = settled a (entered w1 a u) ∧ t.mem = s.mem ∧
           (∀ ent, tget? (t.port (X % 8)).amt (X / 256) = some ent → ent.state = .idle) ∧
           (∀ k, k ≠ X / 256 → tget? (t.port (X % 8)).amt k = tget? (s.port (X % 8)).amt k))
  )

/-! Queue units, jigs and rings (11 R309-R326). -/

/-- 11 R313, R315: QPUSH puts its 32 bytes, which it reads once, at the tail of a data queue, in the hardware part or in the ring; QPOP takes the head entry, stores it and answers 1, or answers 0; QDEPTH counts both parts. 11 R321-R323: EVQPUSH posts a record of kind 0x0C with its value to a cluster of the partition; where the queue is full its record takes its place in the line, and the word completes once it has been posted; EVQPOP takes the oldest record of its own cluster and stores its 16 bytes, or answers 0. -/
def Obligations.QueueUnitWords : Prop :=
  (
   ∀ (a : Agent) (s : State) (g : Guard) (d : SDst) (x y : Scalar) (bs : List Byte) (b : Nat),
     let wp := accCtl g [.src x, .src y]
     let wo := accCtl g [.dst d, .src x, .src y]
     let wd := accCtl g [.dst d, .src x]
     let u := s.task a
     let p := s.partOf a
     let cl := a.cluster
     let q := (srcVal u x).toNat
     let Y := srcVal u y
     let k := s.queue cl q
     let size := ringSize (s.qdesc p q)
     let at_ := ringAddr s p (s.qdesc p q) cl 32 ((k.head + k.count) % size)
     q < 16 → (s.qdesc p q).mode = 2 →
     (Ready wp a s → (u.a.kept = some bs ∨ u.a.kept = none ∧ readBlock (ctxOf a wp s) Y 32 (atIssue a wp s) = .ok bs) → unitReady (ctxOf a wp s) true .release cl (atIssue a wp s) = .ok () →
       (k.count = 0 → k.data.length < 32 → ∃ t, exec (.qpush g x y) s = .next t ∧ t.task a = settled a (entered wp a u) ∧ SameOutside s t ∧ SameCores a s t ∧
         QueueIs s t cl q { k with data := k.data ++ [bs] }) ∧
       (k.count ≠ 0 ∨ 32 ≤ k.data.length → k.count < size → s.owned at_ = true → s.Inv → ∃ t, exec (.qpush g x y) s = .next t ∧
         t.task a = settled a (entered wp a u) ∧ SameCores a s t ∧ QueueIs s t cl q { k with count := k.count + 1 } ∧ Wrote s t at_ bs) ∧
       (k.count ≠ 0 ∨ 32 ≤ k.data.length → size ≤ k.count → Keeps (.qpush g x y) a s bs (.wait .queue))) ∧
     (Ready wo a s → storesUsed u < 32 → Reaches a s Y 32 .store (.byte b) → unitReady (ctxOf a wo s) false .relaxed cl (atIssue a wo s) = .ok () →
       (∀ h r, k.data = h :: r → ∃ t, exec (.qpop g d x y) s = .next t ∧ SameOutside s t ∧ SameCores a s t ∧ QueueIs s t cl q { k with data := r } ∧
         t.task a = settled a (storing (accessOf (ctxOf a wo s) .store .relaxed .unit .none false (octets 4 Y b h)) (written u.a.seq d 1#64 (entered wo a u)))) ∧
       (k.data = [] → k.count = 0 → Completes (.qpop g d x y) wo a s (written u.a.seq d 0#64)) ∧
       (k.data = [] → 0 < k.count → Holds (.qpop g d x y) a s .queueUnit)) ∧
     (Ready wd a s → unitReady (ctxOf a wd s) false .relaxed cl (atIssue a wd s) = .ok () →
       Completes (.qdepth g d x) wd a s (written u.a.seq d (BitVec.ofNat 64 (k.data.length + k.count))))
  ) ∧ (
   ∀ (a : Agent) (s : State) (g : Guard) (d : SDst) (x y : Scalar) (b : Nat),
     let wp := accCtl g [.src x, .src y]
     let wo := accCtl g [.dst d, .src x]
     let u := s.task a
     let p := s.partOf a
     let X := srcVal u x
     let cl := X.toNat
     let q := (s.cluster cl).evq
     let size := ringSize (s.evqd p)
     let at_ := ringAddr s p (s.evqd p) cl 16 ((q.head + q.count) % size)
     let r : EvRec := { kind := 0xC, src := match a.core? with | some c => c % 24 | none => 31, stat := 0, idx := 0, data := srcVal u y }
     (Ready wp a s → cl < 256 → s.hasCluster p cl = true → unitReady (ctxOf a wp s) true .release cl (atIssue a wp s) = .ok () → (s.cluster cl).evWait = [] → (s.cluster cl).evDone = [] →
       (q.count = 0 → q.hw.length < 128 → ∃ t, exec (.evqpush g x y) s = .next t ∧ t.task a = settled a (entered wp a u) ∧ SameOutside s t ∧ SameCores a s t ∧
         (t.cluster cl).evq = { q with hw := q.hw ++ [r] }) ∧
       (q.count ≠ 0 ∨ 128 ≤ q.hw.length → q.count < size → s.owned at_ = true → s.Inv → ∃ t, exec (.evqpush g x y) s = .next t ∧
         t.task a = settled a (entered wp a u) ∧ SameCores a s t ∧ (t.cluster cl).evq = { q with count := q.count + 1 } ∧ Wrote s t at_ r.bytes) ∧
       (q.count ≠ 0 ∨ 128 ≤ q.hw.length → size ≤ q.count → Holds (.evqpush g x y) a s (.place cl r) ∧
         ((holdStep a (.place cl r) s).cluster cl).evWait = [{ rec_ := r, poster := .word a }] ∧ ((holdStep a (.place cl r) s).cluster cl).evq = q)) ∧
     (Ready wp a s → cl < 256 → s.hasCluster p cl = true → { rec_ := r, poster := .word a } ∈ (s.cluster cl).evDone → ∃ t, exec (.evqpush g x y) s = .next t ∧
       t.task a = settled a (entered wp a u) ∧ SameOutside s t ∧ SameCores a s t ∧ (t.cluster cl).evq = q ∧
       (t.cluster cl).evDone = (s.cluster cl).evDone.erase { rec_ := r, poster := .word a }) ∧
     (Ready wp a s → 256 ≤ cl ∨ s.hasCluster p cl = false → Traps (.evqpush g x y) a s .evqbad) ∧
     (Ready wo a s → storesUsed u < 32 → Reaches a s X 16 .store (.byte b) → unitReady (ctxOf a wo s) false .relaxed a.cluster (atIssue a wo s) = .ok () → (s.cluster a.cluster).evWait = [] →
       (∀ h rest, (s.cluster a.cluster).evq.hw = h :: rest → ∃ t, exec (.evqpop g d x) s = .next t ∧ SameOutside s t ∧ SameCores a s t ∧
         (t.cluster a.cluster).evq = { (s.cluster a.cluster).evq with hw := rest } ∧
         t.task a = settled a (storing (accessOf (ctxOf a wo s) .store .relaxed .unit .none false (octets 2 X b h.bytes)) (written u.a.seq d 1#64 (entered wo a u)))) ∧
       ((s.cluster a.cluster).evq.hw = [] → (s.cluster a.cluster).evq.count = 0 → Completes (.evqpop g d x) wo a s (written u.a.seq d 0#64)))
  )

/-- 11 R309-R311: JPUSH without a delay releases its jig: it takes the next number and an entry for it goes to the queue of every cluster with a member; with a delay the push waits for its tick; while the pool is full the word waits with the record that it has read. 01 R31; 11 R320: at level 0 DARRIVE completes at once with 0; at another level of the core the task arrives and waits, and the word completes with the new count once the phase has; a level that is not the core's traps with DOMBAD. -/
def Obligations.JigAndDomainWords : Prop :=
  (
   ∀ (a : Agent) (s : State) (g : Guard) (d x y : Scalar) (bs : List Byte) (l : Launch),
     let w := accCtl g [.src d, .src x, .src y]
     let u := s.task a
     let p := s.partOf a
     let D := srcVal u d
     let j : JigRec := { JigRec.ofBytes bs with arg := srcVal u y }
     let gs := memberClusters s p l j.level j.dsel
     Ready w a s → u.a.kept = none → readBlock (ctxOf a w s) (srcVal u x) 64 (atIssue a w s) = .ok bs → (s.part p).launch = some l → D.toNat < 2 ^ 32 →
     jigOk s p l bs (JigRec.ofBytes bs) = true → releaseReady (ctxOf a w s) .device (atIssue a w s) = .ok () →
       (l.poolFree = false → Keeps (.jpush g d x y) a s bs .pool) ∧ (l.poolFree = true →
       (D = 0#64 → (iterations l j).2 ≠ 0 → ∃ t l', exec (.jpush g d x y) s = .next t ∧ t.task a = settled a (entered w a u) ∧ (t.part p).launch = some l' ∧
         l'.nextJig = l.nextJig + 1 ∧
         (∃ J, tget? l'.jigs l.nextJig = some J ∧ J.jrec = j ∧ J.source = .pool ∧ J.lineage = u.lineage ∧ J.rtick = s.modl.frame ∧ J.frame = l.frame ∧
           J.next = 0 ∧ J.open_ = 0 ∧ J.count = (iterations l j).2) ∧
         (∀ id, id ≠ l.nextJig → tget? l'.jigs id = tget? l.jigs id) ∧
         (∀ h ∈ gs, (∃ e ∈ (t.queue h j.queue).disp ++ (t.queue h j.queue).dispWait, e.jig = some l.nextJig) ∨ some l.nextJig ∈ (t.queue h j.queue).dispRing)) ∧
       (D = 0#64 → (iterations l j).2 = 0 → ∃ t l', exec (.jpush g d x y) s = .next t ∧ t.task a = settled a (entered w a u) ∧ (t.part p).launch = some l' ∧
         l'.nextJig = l.nextJig + 1 ∧ l'.jigs = tdel l.jigs l.nextJig) ∧
       (D ≠ 0#64 → ∃ t, exec (.jpush g d x y) s = .next t ∧ t.task a = settled a (entered w a u) ∧ t.mem = s.mem ∧ SameCores a s t ∧
         (t.part p).launch = some { l with delayed := l.delayed ++ [{ jrec := j, due := (s.modl.frame + D.toNat) % 2 ^ 48, slot := l.poolSlot, lineage := u.lineage }] }))
  ) ∧ (
   ∀ (s : State) (g : Guard) (d : SDst) (x : Scalar) (c : Nat) (l : Launch),
     let a := Agent.access c
     let w := acc g [.dst d, .src x]
     let u := s.task a
     let p := s.partOf a
     let level := (srcVal u x).toNat
     let key := phaseKey level c
     let now := (l.phaseOf key).count
     Ready w a s → (s.part p).launch = some l →
       (5 ≤ level ∨ (s.core c).dmr.getLsbD (24 + level) = false → Traps (.darrive g d x) a s .dombad) ∧
       (level < 5 → (s.core c).dmr.getLsbD (24 + level) = true → releaseReady (ctxOf a w s) (phaseScope level) (atIssue a w s) = .ok () →
         (level = 0 → Completes (.darrive g d x) w a s (written u.a.seq d 0#64)) ∧
         (level ≠ 0 → phaseWait u = none → ((phaseMembers s p l level c).all fun m => m == c || (l.phaseOf key).arrived.contains m) = false →
           ∃ t l', exec (.darrive g d x) s = .next t ∧ (t.task a).a.wait = some (.phase level now) ∧ (t.task a).pcOf .access = u.pcOf .access ∧ (t.task a).regs = u.regs ∧
             (t.part p).launch = some l' ∧ (l'.phaseOf key).count = now ∧ c ∈ (l'.phaseOf key).arrived) ∧
         (level ≠ 0 → level ≠ 4 ∨ l.group = none → phaseWait u = none → ((phaseMembers s p l level c).all fun m => m == c || (l.phaseOf key).arrived.contains m) = true →
           ∃ t l', exec (.darrive g d x) s = .next t ∧ (t.part p).launch = some l' ∧ (l'.phaseOf key).count = (now + 1) % 2 ^ 32 ∧ (l'.phaseOf key).arrived = []) ∧
         (level ≠ 0 → ∀ n, phaseWait u = some (level, n) → now ≠ n → Completes (.darrive g d x) w a s (written u.a.seq d (BitVec.ofNat 64 now))))
  )

/-- 11 R325, R326: RNGINIT makes an empty ring, RNGTKT takes the next ticket, RNGFILL puts a payload, which it reads once, and its stamp into the slot of its ticket, waits while that slot is not free, and traps with RNGDUP for a ticket that is filled or past; RNGGET takes the slot of HEAD when it is filled, and answers all ones when it is not. -/
def Obligations.RingWords : Prop :=
  ∀ (a : Agent) (s : State) (g : Guard) (d : SDst) (v x y : Scalar) (r : RingView) (bs : List Byte) (b : Nat),
    let wi := accCtl g [.src x, .src y]
    let wt := accCtl g [.dst d, .src x]
    let wf := accCtl g [.src v, .src x, .src y]
    let wg := accCtl g [.dst d, .src x, .src y]
    let u := s.task a
    let X := srcVal u x
    let Y := srcVal u y
    let T := (srcVal u v).toNat
    let Reach (w : WordInfo) : Prop := Ready w a s ∧ ringReach (ctxOf a w s) X (atIssue a w s) = .ok r
    let Sound (w : WordInfo) : Prop := ringSound r (atIssue a w s) = .ok ()
    let Writable (w : WordInfo) (addr n : Nat) : Prop := ringWritable (ctxOf a w s) r addr n (atIssue a w s) = .ok ()
    let Stamp (w : WordInfo) (i : Nat) : Prop := readTrap (atIssue a w s) a (innerElem (r.va + BitVec.ofNat 64 (stampAddr r i - r.base)) (.byte (stampAddr r i)) 8) = none
    let Others (t : State) (P : Nat → Prop) : Prop := ∀ k, ¬ P k → s.expired k = false → t.byte k = s.byte k
    let head := r.head % r.nslot
    s.Inv →
    (Reach wi → ringFits r Y.toNat (atIssue a wi s) = .ok () → Writable wi r.base 20 → Writable wi (r.base + 0x40) (8 * Y.toNat) → ∃ t, exec (.rnginit g x y) s = .next t ∧ t.task a = settled a (entered wi a u) ∧
      t.value r.base 8 = 0 ∧ t.value (r.base + 8) 8 = 0 ∧ t.value (r.base + 16) 4 = Y.toNat ∧ (∀ i, i < Y.toNat → t.value (r.base + 0x40 + 8 * i) 8 = 2 ^ 64 - 1) ∧
      Others t fun k => (r.base ≤ k ∧ k < r.base + 20) ∨ (r.base + 0x40 ≤ k ∧ k < r.base + 0x40 + 8 * Y.toNat)) ∧
    (Reach wt → Sound wt → Writable wt r.base 8 → ∃ t, exec (.rngtkt g d x) s = .next t ∧ t.task a = settled a (written u.a.seq d (BitVec.ofNat 64 r.tkt) (entered wt a u)) ∧
      t.value r.base 8 = (r.tkt + 1) % 2 ^ 64 ∧ Others t fun k => r.base ≤ k ∧ k < r.base + 8) ∧
    (Reach wf → releaseReady (ctxOf a wf s) .device (atIssue a wf s) = .ok () → Sound wf →
      (u.a.kept = some bs ∨ u.a.kept = none ∧ readBlock (ctxOf a wf s) Y 32 (atIssue a wf s) = .ok bs) →
      (T < r.head → Traps (.rngfill g v x y) a s .rngdup) ∧
      (r.head ≤ T → r.nslot ≤ T - r.head → Keeps (.rngfill g v x y) a s bs (.wait .ring)) ∧
      (r.head ≤ T → T - r.head < r.nslot → Stamp wf (T % r.nslot) → s.value (stampAddr r (T % r.nslot)) 8 ≠ T →
        Writable wf (payloadAddr r (T % r.nslot)) 32 → Writable wf (stampAddr r (T % r.nslot)) 8 → bs.length = 32 → ∃ t, exec (.rngfill g v x y) s = .next t ∧
        t.task a = settled a (entered wf a u) ∧ t.value (stampAddr r (T % r.nslot)) 8 = T ∧ t.bytes (payloadAddr r (T % r.nslot)) 32 = bs ∧
        Others t fun k => (stampAddr r (T % r.nslot) ≤ k ∧ k < stampAddr r (T % r.nslot) + 8) ∨ (payloadAddr r (T % r.nslot) ≤ k ∧ k < payloadAddr r (T % r.nslot) + 32)) ∧
      (r.head ≤ T → T - r.head < r.nslot → Stamp wf (T % r.nslot) → s.value (stampAddr r (T % r.nslot)) 8 = T → Traps (.rngfill g v x y) a s .rngdup)) ∧
    (Reach wg → storesUsed u < 32 → Reaches a s Y 32 .store (.byte b) → Sound wg → Stamp wg head →
      (s.value (stampAddr r head) 8 ≠ r.head → Completes (.rngget g d x y) wg a s (written u.a.seq d (BitVec.allOnes 64))) ∧
      (s.value (stampAddr r head) 8 = r.head → Writable wg (stampAddr r head) 8 → Writable wg (r.base + 8) 8 →
        (∀ k, k < 4 → readTrap (atIssue a wg s) a (innerElem (r.va + BitVec.ofNat 64 (payloadAddr r head + 8 * k - r.base)) (.byte (payloadAddr r head + 8 * k)) 8) = none) →
        ∃ t, exec (.rngget g d x y) s = .next t ∧
          t.task a = settled a (storing (accessOf (ctxOf a wg s) .store .relaxed .unit .none false (octets 4 Y b (s.bytes (payloadAddr r head) 32)))
            (written u.a.seq d (BitVec.ofNat 64 r.head) (entered wg a u))) ∧
          t.value (stampAddr r head) 8 = 2 ^ 64 - 1 ∧ t.value (r.base + 8) 8 = (r.head + 1) % 2 ^ 64 ∧
          Others t fun k => (stampAddr r head ≤ k ∧ k < stampAddr r head + 8) ∨ (r.base + 8 ≤ k ∧ k < r.base + 16)))

/-- 11 R309, R315, R325, R326, R330; 08 R197, R211; 13 R360, R367: what a queue, jig, ring, copy or message word refuses, at the word and with no effect but the trap: a misaligned record or descriptor with MISALIGN, then QBAD, JIGBAD, RNGBAD, CPBAD, FMTBAD, BARRANGE, MSGBAD, PORTBAD and AMTBAD as the rules order them. -/
def Obligations.RefusedOperandsTrap : Prop :=
  (
   ∀ (a : Agent) (s : State) (g : Guard) (d : SDst) (v x y : Scalar) (tgt : Target) (bs : List Byte) (r : RingView),
     let wp := accCtl g [.src x, .src y]
     let wo := accCtl g [.dst d, .src x, .src y]
     let wd := accCtl g [.dst d, .src x]
     let wj := accCtl g [.src v, .src x, .src y]
     let u := s.task a
     let p := s.partOf a
     let X := srcVal u x
     let Y := srcVal u y
     let Reads (w : WordInfo) : Prop := u.a.kept = some bs ∨ u.a.kept = none ∧ readBlock (ctxOf a w s) Y 32 (atIssue a w s) = .ok bs
     let Misaligned (i : Instr) (va : W64) : Prop := exec i s = .next (takeTrap a { code := .misalign, addr := va.toNat } false none s)
     let Reach (w : WordInfo) : Prop := Ready w a s ∧ ringReach (ctxOf a w s) X (atIssue a w s) = .ok r
     let Unfit (n : Nat) : Prop := (∀ k, k ≤ 16 → n ≠ 2 ^ k) ∨ r.room < 0x40 + 40 * n
     let Unsound : Prop := Unfit r.nslot ∨ ∃ b ∈ s.bytes (r.base + 0x14) 44, b ≠ 0#8
     (16 ≤ X.toNat ∨ (s.qdesc p X.toNat).mode ≠ 2 →
       (Ready wp a s → Reads wp → Traps (.qpush g x y) a s .qbad) ∧
       (Ready wo a s → storesUsed u < 32 → Reaches a s Y 32 .store tgt → Traps (.qpop g d x y) a s .qbad) ∧
       (Ready wd a s → Traps (.qdepth g d x) a s .qbad)) ∧
     (Ready wp a s → u.a.kept = none → Y.toNat % 32 ≠ 0 → Misaligned (.qpush g x y) Y) ∧
     (Ready wo a s → storesUsed u < 32 → Y.toNat % 32 ≠ 0 → Misaligned (.qpop g d x y) Y) ∧
     (Ready wj a s → u.a.kept = none →
       (X.toNat % 64 ≠ 0 → Misaligned (.jpush g v x y) X) ∧
       (∀ l, (s.part p).launch = some l → readBlock (ctxOf a wj s) X 64 (atIssue a wj s) = .ok bs →
         2 ^ 32 ≤ (srcVal u v).toNat ∨ jigOk s p l bs (JigRec.ofBytes bs) = false → Traps (.jpush g v x y) a s .jigbad)) ∧
     (Unsound →
       (Reach wd → Traps (.rngtkt g d x) a s .rngbad) ∧
       (Reach wj → Reads wj → releaseReady (ctxOf a wj s) .device (atIssue a wj s) = .ok () → Traps (.rngfill g v x y) a s .rngbad) ∧
       (Reach wo → storesUsed u < 32 → Reaches a s Y 32 .store tgt → Traps (.rngget g d x y) a s .rngbad)) ∧
     (Reach wp → Unfit Y.toNat → Traps (.rnginit g x y) a s .rngbad)
  ) ∧ (
   ∀ (s : State) (g : Guard) (x y : Scalar) (n : Nat) (bs : List Byte),
     let a := Agent.access n
     let w := acc g [.src x, .src y]
     let w1 := acc g [.src x]
     let u := s.task a
     let p := s.partOf a
     let X := srcVal u x
     let Y := srcVal u y
     let s0 := atIssue a w s
     let f (o k : Nat) := leValue ((bs.drop o).take k)
     let b := (Y.extractLsb' 0 14).toNat
     let Sound : Prop := Y.toNat < 2 ^ 20 ∧ (Y.getLsbD 18 = true → (Y.extractLsb' 16 2).toNat = 0)
     let NoBar : Prop := Y.getLsbD 14 = true ∧ (12288 ≤ b ∨ s.hasCluster p (b / 64) = false)
     let Misaligned (i : Instr) : Prop := exec i s = .next (takeTrap a { code := .misalign, addr := X.toNat } false none s)
     (Ready w a s → u.a.kept = none →
       (∀ i op, (i, op) ∈ [(Instr.cpt g x y, CopyOp.cpt), (.cpc g x y, .cpc), (.cpx g x y, .cpx), (.cptr g x y, .cptr), (.cpm g x y, .cpm), (.cpz g x y, .cpz), (.cpd g x y, .cpd)] →
         let e := CopyDesc.ofBytes bs
         let Fine : Prop := fieldsOk bs op e = true ∧ shapeOk s p op e = true ∧ (op = .cpm → multicastOk u.window e = true)
         (X.toNat % 64 ≠ 0 → Misaligned i) ∧
         (readBlock (ctxOf a w s) X 64 s0 = .ok bs →
           (¬ Sound → Traps i a s .cpbad) ∧ (Sound → ¬ Fine → Traps i a s .cpbad) ∧
           (Sound → Fine → entriesOk s p op e = false → Traps i a s .fmtbad) ∧
           (Sound → Fine → entriesOk s p op e = true → planeOk s p op e = false → Traps i a s .cpbad) ∧
           (Sound → Fine → entriesOk s p op e = true → planeOk s p op e = true → NoBar → Traps i a s .barrange))) ∧
       (∀ i kerf, (i, kerf) ∈ [(Instr.msend g x y, false), (.ksend g x y, true)] →
         (X.toNat % 32 ≠ 0 → Misaligned i) ∧
         (readBlock (ctxOf a w s) X 32 s0 = .ok bs →
           (¬ Sound → Traps i a s .cpbad) ∧ (Sound → msgDescOk kerf bs = false → Traps i a s .msgbad) ∧
           (Sound → msgDescOk kerf bs = true → portOk s p (f 0x10 1) = false → Traps i a s .portbad) ∧
           (Sound → msgDescOk kerf bs = true → portOk s p (f 0x10 1) = true → NoBar → Traps i a s .barrange))) ∧
       (X.toNat % 64 ≠ 0 → Misaligned (.amtset g x y)) ∧
       (readBlock (ctxOf a w s) X 64 s0 = .ok bs → storable? (s0.view a) (f 8 8) (f 4 4) s0 = .ok () →
         (f 0x10 8 ≠ 0 → storable? (s0.view a) (f 0x10 8) (statusSize (f 4 4)) s0 = .ok ()) →
           (portOk s p (Y.toNat % 8) = false → Traps (.amtset g x y) a s .portbad) ∧
           (portOk s p (Y.toNat % 8) = true → entryNameOk Y.toNat = false ∨ templateFieldsOk bs = false → Traps (.amtset g x y) a s .amtbad))) ∧
     (Ready w1 a s → entryNameOk X.toNat = false → Traps (.amtclr g x) a s .amtbad)
  )

/-! System instructions (14 R382-R386). -/

/-- 14 R383-R386: SRRD reads the system register that it names, FRAMERD the frame counter, the frame and the ticks since its start; SRWR writes FSR and VCFG, whose reserved bits stay 0, and changes no other register; TICKWT completes once its tick has come. 14 R382, R386: SYSCALL posts its request in the lowest free slot, raises vector 3 and waits; once the host has answered, it delivers REPLY and frees the slot. -/
def Obligations.SystemWords : Prop :=
  (
   ∀ (a : Agent) (s : State) (g : Guard) (d : SDst) (x : Scalar) (n : BitVec 6),
     let wd := both g [.dst d]
     let wx := both g [.src x]
     let wt := accCtl g [.src x]
     let u := s.task a
     let Reads (i : Instr) (v : W64) : Prop := ∃ t, exec i s = .next t ∧ SameOutside s t ∧ SameCores a s t ∧ (t.task a).q.vqs = u.q.vqs ∧ (t.task a).preds = u.preds ∧
       (∀ k, dstKey d = some k → tget 0#64 (t.task a).regs k = v) ∧ (∀ k, dstKey d ≠ some k → tget 0#64 (t.task a).regs k = tget 0#64 u.regs k) ∧
       (∀ k, d = .sq k → u.x.ended = false → tget [] (t.task a).q.sq k.val = tget [] u.q.sq k.val ++ [{ seq := u.a.seq, val := some v }])
     (Ready { wd with shape := srReadable s.cur.kind n } a s →
       (∀ c, a.core? = some c →
         (n = 1#6 → Reads (.srrd g d n) (s.core c).dmr) ∧ (n = 2#6 → Reads (.srrd g d n) (s.core c).vec.fsr) ∧ (n = 3#6 → Reads (.srrd g d n) (s.core c).vec.vcfg) ∧
         (n = 4#6 → Reads (.srrd g d n) (empcReg (s.core c).eng)) ∧ (n = 5#6 → Reads (.srrd g d n) (dsrReg (atIssue a { wd with shape := srReadable s.cur.kind n } s) c)) ∧
         (n = 8#6 → Reads (.srrd g d n) (u.cmdx.zeroExtend 64))) ∧
       (a.core? = none → (n = 8#6 → Reads (.srrd g d n) 0#64) ∧ (n = 1#6 ∨ n = 4#6 ∨ n = 5#6 → Reads (.srrd g d n) (Config.freeWord s.freeCtr))) ∧
       (n = 6#6 → Reads (.srrd g d n) u.jarg) ∧ (n = 7#6 → Reads (.srrd g d n) u.carg) ∧
       (n = 0#6 → ∃ v : W64, Reads (.srrd g d n) v ∧ v.extractLsb' 32 32 = u.ident.extractLsb' 0 32 ∧ v.extractLsb' 24 8 = u.ident.extractLsb' 32 8)) ∧
     (Ready { wd with shape := decide (n.toNat ≤ 2) } a s →
       (n = 0#6 → Reads (.framerd g d n) (BitVec.ofNat 64 s.modl.frame)) ∧
       (∀ l, (s.part (s.partOf a)).launch = some l → (n = 1#6 → Reads (.framerd g d n) (BitVec.ofNat 64 l.frame)) ∧
         (n = 2#6 → s.reached (l.frameStart l.frame) = true → Reads (.framerd g d n) (BitVec.ofNat 64 ((s.modl.frame + 2 ^ 48 - l.frameStart l.frame) % 2 ^ 48))))) ∧
     (∀ c, a = .execute c → Ready { wx with shape := srReadable s.cur.kind n } a s →
       let v := (readScalar (ctxOf a wx s) x (atIssue a wx s)).1
       let Sets (vec : VecState) : Prop := ∃ t, exec (.srwr g x n) s = .next t ∧ SameOutside s t ∧ (t.core c).vec = vec ∧ (t.core c).eng = (s.core c).eng ∧ (t.core c).dmr = (s.core c).dmr ∧
         (t.task a).regs = u.regs ∧ (t.task a).preds = u.preds ∧ (t.task a).cmdx = u.cmdx
       let field (w : W64) (lo n : Nat) : Nat := (w.extractLsb' lo n).toNat
       (n = 2#6 → Sets { (s.core c).vec with fsr := v &&& 0x73F#64 }) ∧
       (n = 3#6 → ∃ w : W64, Sets { (s.core c).vec with vcfg := w } ∧ field w 14 2 = 0 ∧ field w 21 11 = 0 ∧ field w 48 16 = 0 ∧ field w 32 16 = field v 32 16 ∧
         field w 0 14 = Nat.min (field v 0 14) (1024 * 2 ^ field v 32 2) ∧ field w 16 5 = field v 16 5 % Nat.max 1 ((field w 0 14 + 255) / 256)) ∧
       (n ≠ 2#6 → n ≠ 3#6 → Sets (s.core c).vec)) ∧
     (∀ c, a = .access c → Ready { wx with shape := srReadable s.cur.kind n } a s → Completes (.srwr g x n) { wx with shape := srReadable s.cur.kind n } a s id) ∧
     (Ready wt a s →
       ((srcVal u x).toNat ≤ s.modl.frame → (srcVal u x).toNat < 2 ^ 48 → Completes (.tickwt g x) wt a s id) ∧
       (s.modl.frame < (srcVal u x).toNat → (srcVal u x).toNat < 2 ^ 48 → Holds (.tickwt g x) a s (.wait (.tick (srcVal u x).toNat))) ∧
       (2 ^ 48 ≤ (srcVal u x).toNat → Traps (.tickwt g x) a s .sysbad))
  ) ∧ (
   ∀ (a : Agent) (s : State) (g : Guard) (d : SDst) (x y : Scalar) (i at_ : Nat),
     let w := accCtl g [.dst d, .src x, .src y]
     let u := s.task a
     let p := s.partOf a
     let X := srcVal u x
     Ready w a s → slotAddr s p 0 = some at_ → bitOf (s.part p).regs.svcq.toNat 0 = true → X.toNat < 2 ^ 16 → s.owned (at_ + 32 * i) = true →
       (heldSlot u = none → s.Inv → freeService s p = some i → s.owned ((slotAddr s p i).getD 0) = true →
         marksAllow a u { innerAccess (ctxOf a w s) .release .system (innerElem 0#64 (.byte lpBase) 0) with op := .store } (innerElem 0#64 (.byte lpBase) 0) = true →
         accessesAllow a u { innerAccess (ctxOf a w s) .release .system (innerElem 0#64 (.byte lpBase) 0) with op := .store } (innerElem 0#64 (.byte lpBase) 0) = true →
         ∃ t, exec (.syscall g d x y) s = .next t ∧ (t.task a).a.wait = some (.service (some i)) ∧ (t.task a).a.pc = u.a.pc ∧ (t.task a).regs = u.regs ∧
           (∃ r, (t.part p).svc = (s.part p).svc ++ [r] ∧ r.slot = i ∧ r.task = u.ident ∧ r.arg = srcVal u y ∧ r.code = X.toNat ∧ r.done = false) ∧
           t.value (at_ + 32 * i) 8 = u.ident.toNat ∧ t.value (at_ + 32 * i + 8) 8 = (srcVal u y).toNat ∧ t.value (at_ + 32 * i + 16) 2 = X.toNat) ∧
       (∀ r, heldSlot u = some i → (s.part p).svc.find? (·.slot == i) = some r → r.done = true → s.eccHit (at_ + 32 * i + 0x18) 8 = false →
         ∃ t, exec (.syscall g d x y) s = .next t ∧
           t.task a = settled a (written u.a.seq d (BitVec.ofNat 64 (s.value (at_ + 32 * i + 0x18) 8)) (entered w a u)) ∧
           (t.part p).svc = (s.part p).svc.filter (·.slot ≠ i) ∧ t.mem = s.mem ∧ SameCores a s t) ∧
       (∀ r, heldSlot u = some i → (s.part p).svc.find? (·.slot == i) = some r → r.done = false → Holds (.syscall g d x y) a s (.wait (.service (some i))))
  )

/-! Vector words (07 R162-R189; 13 R370-R372). Reads whose bounds have passed; a read before its bound is undefined (02 R51; log entry 5). -/

/-- 07 R164-R168, R171: every integer vector word and its masked form complete: each active element receives the value of the rule's table, VADDS and VSUBS set SAT where they clamp, inactive and tail elements follow MZ and TZ, a queue operand acts on row group RGC and steps it; a register field that is no multiple of G raises VGROUP. -/
def Obligations.VectorIntegerWords : Prop :=
  ∀ (c : Nat) (s : State) (g : Guard) (lc : BitVec 3) (vd va vb : VReg),
    let a := Agent.execute c
    let rs := [Role.vdst vd, .vsrc va, .vsrc vb]
    let u := s.task a
    let v := (s.core c).vec
    let A := vVal u v va
    let B := vVal u v vb
    let Gives (i im : Instr) (f : W32 → W32 → W32) : Prop :=
      RowWords i im rs c s lc vd (vIsQueue vd || vIsQueue va || vIsQueue vb) fun e => (f (A e) (B e), 0#6)
    let Clamps (i im : Instr) (f : Int → Int → Int) : Prop :=
      RowWords i im rs c s lc vd (vIsQueue vd || vIsQueue va || vIsQueue vb) fun e =>
        let y := f (A e).toInt (B e).toInt
        let z := if y < -2 ^ 31 then -2 ^ 31 else if y > 2 ^ 31 - 1 then 2 ^ 31 - 1 else y
        (BitVec.ofInt 32 z, if z = y then 0#6 else 32#6)
    Ready (exe g rs) a s → Landed u →
      (Grouped v.vcfg [vd, va, vb] →
        Gives (.vadd g lc vd va vb) (.vaddMasked g lc vd va vb) (fun x y => BitVec.ofNat 32 (x.toNat + y.toNat)) ∧
        Gives (.vsub g lc vd va vb) (.vsubMasked g lc vd va vb) (fun x y => BitVec.ofInt 32 (x.toNat - y.toNat)) ∧
        Gives (.vmul g lc vd va vb) (.vmulMasked g lc vd va vb) (fun x y => BitVec.ofNat 32 (x.toNat * y.toNat)) ∧
        Gives (.vmulh g lc vd va vb) (.vmulhMasked g lc vd va vb) (fun x y => BitVec.ofInt 32 (Int.fdiv (x.toInt * y.toInt) (2 ^ 32))) ∧
        Gives (.vand g lc vd va vb) (.vandMasked g lc vd va vb) (fun x y => x &&& y) ∧
        Gives (.vor g lc vd va vb) (.vorMasked g lc vd va vb) (fun x y => x ||| y) ∧
        Gives (.vxor g lc vd va vb) (.vxorMasked g lc vd va vb) (fun x y => x ^^^ y) ∧
        Gives (.vshl g lc vd va vb) (.vshlMasked g lc vd va vb) (fun x y => BitVec.ofNat 32 (x.toNat * 2 ^ (y.toNat % 32))) ∧
        Gives (.vshr g lc vd va vb) (.vshrMasked g lc vd va vb) (fun x y => BitVec.ofNat 32 (x.toNat / 2 ^ (y.toNat % 32))) ∧
        Gives (.vsar g lc vd va vb) (.vsarMasked g lc vd va vb) (fun x y => BitVec.ofInt 32 (Int.fdiv x.toInt (2 ^ (y.toNat % 32)))) ∧
        Gives (.vmin g lc vd va vb) (.vminMasked g lc vd va vb) (fun x y => BitVec.ofInt 32 (min x.toInt y.toInt)) ∧
        Gives (.vmax g lc vd va vb) (.vmaxMasked g lc vd va vb) (fun x y => BitVec.ofInt 32 (max x.toInt y.toInt)) ∧
        Gives (.vminu g lc vd va vb) (.vminuMasked g lc vd va vb) (fun x y => BitVec.ofNat 32 (min x.toNat y.toNat)) ∧
        Gives (.vmaxu g lc vd va vb) (.vmaxuMasked g lc vd va vb) (fun x y => BitVec.ofNat 32 (max x.toNat y.toNat)) ∧
        Clamps (.vadds g lc vd va vb) (.vaddsMasked g lc vd va vb) (fun x y => x + y) ∧
        Clamps (.vsubs g lc vd va vb) (.vsubsMasked g lc vd va vb) (fun x y => x - y)) ∧
      (¬ Grouped v.vcfg [vd, va, vb] → Traps (.vadd g lc vd va vb) a s .vgroup ∧ Traps (.vaddMasked g lc vd va vb) a s .vgroup)

/-- 07 R172-R175; 03 R80-R90: floating-point words, estimates, sign and class, with their masked forms: each active element receives the model's value of the rule's function on the operands in FRM, and FSR the flags that the active elements raise. -/
def Obligations.VectorFloatWords : Prop :=
  ∀ (c : Nat) (s : State) (g : Guard) (lc : BitVec 3) (vd va vb : VReg),
    let a := Agent.execute c
    let u := s.task a
    let v := (s.core c).vec
    let m := fsrMode v.fsr
    let A := vVal u v va
    let B := vVal u v vb
    let D := vVal u v vd
    let Two (i im : Instr) (f : W32 → W32 → W32 × Flags) : Prop :=
      RowWords i im [.vdst vd, .vsrc va, .vsrc vb] c s lc vd (vIsQueue vd || vIsQueue va || vIsQueue vb) fun e => f (A e) (B e)
    let Three (i im : Instr) (f : W32 → W32 → W32 → W32 × Flags) : Prop :=
      RowWords i im [.vrw vd, .vsrc va, .vsrc vb] c s lc vd (vIsQueue vd || vIsQueue va || vIsQueue vb) fun e => f (A e) (B e) (D e)
    let One (i im : Instr) (f : W32 → W32 × Flags) : Prop :=
      RowWords i im [.vdst vd, .vsrc va] c s lc vd (vIsQueue vd || vIsQueue va) fun e => f (A e)
    Landed u →
      (Ready (exe g [.vdst vd, .vsrc va, .vsrc vb]) a s → Grouped v.vcfg [vd, va, vb] →
        Two (.vfadd g lc vd va vb) (.vfaddMasked g lc vd va vb) (fun x y => fadd x y m) ∧
        Two (.vfsub g lc vd va vb) (.vfsubMasked g lc vd va vb) (fun x y => fsub x y m) ∧
        Two (.vfmul g lc vd va vb) (.vfmulMasked g lc vd va vb) (fun x y => fmul x y m) ∧
        Two (.vfmin g lc vd va vb) (.vfminMasked g lc vd va vb) (fun x y => fminmax false x y) ∧
        Two (.vfmax g lc vd va vb) (.vfmaxMasked g lc vd va vb) (fun x y => fminmax true x y)) ∧
      (Ready (exe g [.vrw vd, .vsrc va, .vsrc vb]) a s → Grouped v.vcfg [vd, va, vb] →
        Three (.vfma g lc vd va vb) (.vfmaMasked g lc vd va vb) (fun x y z => fma x y z m) ∧
        Three (.vfms g lc vd va vb) (.vfmsMasked g lc vd va vb) (fun x y z => fms x y z m) ∧
        Three (.vfnma g lc vd va vb) (.vfnmaMasked g lc vd va vb) (fun x y z => fnma x y z m)) ∧
      (Ready (exe g [.vdst vd, .vsrc va]) a s → Grouped v.vcfg [vd, va] →
        One (.vrcpe g lc vd va) (.vrcpeMasked g lc vd va) vrcpe ∧ One (.vrsqe g lc vd va) (.vrsqeMasked g lc vd va) vrsqe ∧
        One (.vexp2e g lc vd va) (.vexp2eMasked g lc vd va) vexp2e ∧ One (.vlog2e g lc vd va) (.vlog2eMasked g lc vd va) vlog2e ∧
        One (.vtanhe g lc vd va) (.vtanheMasked g lc vd va) vtanhe ∧
        One (.vfabs g lc vd va) (.vfabsMasked g lc vd va) (fun x => (BitVec.ofNat 32 (x.toNat % 2 ^ 31), 0#6)) ∧
        One (.vfneg g lc vd va) (.vfnegMasked g lc vd va) (fun x => (BitVec.ofNat 32 (x.toNat + 2 ^ 31), 0#6)) ∧
        One (.vfclass g lc vd va) (.vfclassMasked g lc vd va) (fun x => (fclass x, 0#6)))

/-- 07 R176, R179: compares write one bit for each active element and raise the flags of the table; mask words write every bit below VL; the other bits follow MZ and TZ. -/
def Obligations.VectorCompareWords : Prop :=
  ∀ (c : Nat) (s : State) (g : Guard) (lc : BitVec 3),
    let a := Agent.execute c
    let u := s.task a
    let v := (s.core c).vec
    Landed u →
      (∀ (md : MReg) (va vb : VReg),
        let rs := [Role.mdst md, .vsrc va, .vsrc vb]
        let q := vIsQueue va || vIsQueue vb
        let C := (vrange v.vcfg q).rows (cfgVL v.vcfg)
        let A := vVal u v va
        let B := vVal u v vb
        let nan (x : W32) : Bool := (fp32 x).isNaN
        let sig (x : W32) : Bool := (fp32 x).isSNaN
        let Holds (i im : Instr) (p : W32 → W32 → Bool) (nv : W32 → W32 → Bool) : Prop :=
          MaskWord i rs c s md q false C (fun e => (p (A e) (B e), if nv (A e) (B e) then 16#6 else 0#6)) ∧
          MaskWord im rs c s md q true C (fun e => (p (A e) (B e), if nv (A e) (B e) then 16#6 else 0#6))
        Ready (exe g rs) a s → Grouped v.vcfg [va, vb] → md.val % 2 ^ cfgLG v.vcfg = 0 →
          Holds (.vcmpeq g lc md va vb) (.vcmpeqMasked g lc md va vb) (fun x y => x == y) (fun _ _ => false) ∧
          Holds (.vcmpne g lc md va vb) (.vcmpneMasked g lc md va vb) (fun x y => x != y) (fun _ _ => false) ∧
          Holds (.vcmplt g lc md va vb) (.vcmpltMasked g lc md va vb) (fun x y => decide (x.toInt < y.toInt)) (fun _ _ => false) ∧
          Holds (.vcmpltu g lc md va vb) (.vcmpltuMasked g lc md va vb) (fun x y => decide (x.toNat < y.toNat)) (fun _ _ => false) ∧
          Holds (.vfcmpeq g lc md va vb) (.vfcmpeqMasked g lc md va vb)
            (fun x y => !nan x && !nan y && !fltVal (fp32 x) (fp32 y) && !fltVal (fp32 y) (fp32 x)) (fun x y => sig x || sig y) ∧
          Holds (.vfcmplt g lc md va vb) (.vfcmpltMasked g lc md va vb) (fun x y => !nan x && !nan y && fltVal (fp32 x) (fp32 y)) (fun x y => nan x || nan y) ∧
          Holds (.vfcmple g lc md va vb) (.vfcmpleMasked g lc md va vb) (fun x y => !nan x && !nan y && !fltVal (fp32 y) (fp32 x)) (fun x y => nan x || nan y) ∧
          Holds (.vfcmpun g lc md va vb) (.vfcmpunMasked g lc md va vb) (fun x y => nan x || nan y) (fun x y => sig x || sig y)) ∧
      (∀ md ma mb : MReg,
        let G := 2 ^ cfgLG v.vcfg
        let A := mBit v ma.val
        let B := mBit v mb.val
        let Bits (i : Instr) (rs : List Role) (f : Nat → Bool) : Prop := MaskWord i rs c s md false false 1 (fun e => (f e, 0#6))
        md.val % G = 0 → ma.val % G = 0 → mb.val % G = 0 →
        (Ready (exe g [.mdst md, .msrc ma, .msrc mb]) a s →
          Bits (.mand g lc md ma mb) [.mdst md, .msrc ma, .msrc mb] (fun e => A e && B e) ∧
          Bits (.mor g lc md ma mb) [.mdst md, .msrc ma, .msrc mb] (fun e => A e || B e) ∧
          Bits (.mxor g lc md ma mb) [.mdst md, .msrc ma, .msrc mb] (fun e => A e != B e) ∧
          Bits (.mandn g lc md ma mb) [.mdst md, .msrc ma, .msrc mb] (fun e => A e && !B e)) ∧
        (Ready (exe g [.mdst md, .msrc ma]) a s → Bits (.mnot g lc md ma) [.mdst md, .msrc ma] (fun e => !A e) ∧ Bits (.mmov g lc md ma) [.mdst md, .msrc ma] A) ∧
        (Ready (exe g [.mdst md]) a s → Bits (.mset g lc md) [.mdst md] (fun _ => true) ∧ Bits (.mclr g lc md) [.mdst md] (fun _ => false)))

/-- 07 R177, R178, R180, R181: moves, conversions, rotates, broadcast, extract and VSETVL. A field of VCVTN takes its own class; FMTBAD is raised for a format-table entry that R169 does not allow, VCFGBAD for a configuration with bits [63:40]. -/
def Obligations.VectorMoveWords : Prop :=
  ∀ (c : Nat) (s : State) (g : Guard) (lc : BitVec 3) (vd va : VReg) (x : Scalar),
    let a := Agent.execute c
    let u := s.task a
    let v := (s.core c).vec
    let cfg := v.vcfg
    let G := 2 ^ cfgLG cfg
    let m := fsrMode v.fsr
    let A := vVal u v va
    let old := vElem v (vIndex vd)
    let src := vElem v (vIndex va)
    let S := xVal u x
    let One (i im : Instr) (f : W32 → W32 × Flags) : Prop := RowWords i im [.vdst vd, .vsrc va] c s lc vd (vIsQueue vd || vIsQueue va) fun e => f (A e)
    let Picks (i : Instr) (f : Nat → Nat) : Prop :=
      GroupWord i [.vdst vd, .vsrc va, .src x] c s (vRows cfg) (vIndex vd) (fun e => chosen v false e 0#32 (src (f e)) (old e)) (· = v.fsr) u.regs
    Landed u →
      (Ready (exe g [.vdst vd, .vsrc va]) a s → Grouped cfg [vd, va] →
        One (.vmv g lc vd va) (.vmvMasked g lc vd va) (fun y => (y, 0#6)) ∧
        One (.vcvtfi g lc vd va) (.vcvtfiMasked g lc vd va)
          (fun y => (BitVec.ofInt 32 (roundToInt (fp32 y) (-2 ^ 31) (2 ^ 31 - 1) m).1, (roundToInt (fp32 y) (-2 ^ 31) (2 ^ 31 - 1) m).2)) ∧
        One (.vcvtif g lc vd va) (.vcvtifMasked g lc vd va) (fun y => roundFP32 (FVal.ofInt y.toInt) m)) ∧
      (Ready (vvInfo g vd va []) a s → Grouped cfg [vd, va] →
        (∀ f mode, cvtFormat s a = some (f, mode) → ∀ (masked : Bool) (i : Instr),
          (i = (if masked then .vcvtwMasked g lc vd va else .vcvtw g lc vd va) →
            ∃ field : Nat → Nat, (∀ e, field e < 2 ^ f.width ∧ ∀ j, j < f.width → (field e).testBit j = streamBit v (vIndex va) (f.width * e + j)) ∧
            GroupWord i [.vdst vd, .vsrc va] c s (vRows cfg) (vIndex vd)
              (fun e => chosen v masked e 0#32 (BitVec.ofNat 32 (cvtElem (field e) f .fp32 mode).1) (old e))
              (fun w => Flagged v.fsr w (fun e => VActive v (vrange cfg false) masked e = true) (fun e => (cvtElem (field e) f .fp32 mode).2)) u.regs) ∧
          (i = (if masked then .vcvtnMasked g lc vd va else .vcvtn g lc vd va) →
            ∃ w : Nat → W32, (∀ e j, j < f.width → f.width * e + j < 32768 * G → (w ((f.width * e + j) / 32)).getLsbD ((f.width * e + j) % 32) =
                if e < vBelow cfg then (if !masked || mBit v 0 e then (cvtElem (src e).toNat .fp32 f mode).1.testBit j
                  else !cfgMZ cfg && streamBit v (vIndex vd) (f.width * e + j))
                else !cfgTZ cfg && streamBit v (vIndex vd) (f.width * e + j)) ∧
            GroupWord i [.vdst vd, .vsrc va] c s (vRows cfg) (vIndex vd) w
              (fun w => Flagged v.fsr w (fun e => VActive v (vrange cfg false) masked e = true) (fun e => (cvtElem (src e).toNat .fp32 f mode).2)) u.regs)) ∧
        (cvtFormat s a = none → Traps (.vcvtw g lc vd va) a s .fmtbad ∧ Traps (.vcvtwMasked g lc vd va) a s .fmtbad ∧
          Traps (.vcvtn g lc vd va) a s .fmtbad ∧ Traps (.vcvtnMasked g lc vd va) a s .fmtbad)) ∧
      (Ready (vvInfo g vd va [.src x]) a s → Grouped cfg [vd, va] →
        Picks (.vrotr g lc vd va x) (fun e => 64 * ((e / 64 + S.toNat % (16 * G)) % (16 * G)) + e % 64) ∧
        Picks (.vrotc g lc vd va x) (fun e => 64 * (e / 64) + (e % 64 + S.toNat % 64) % 64) ∧
        Picks (.vextr g lc vd va x) (fun _ => S.toNat % (1024 * G))) ∧
      (Ready (exe g [.vdst vd, .src x]) a s → Grouped cfg [vd] →
        RowWord (.vbcst g lc vd x) [.vdst vd, .src x] c s lc vd (vIsQueue vd) false fun _ => (S.extractLsb' 0 32, 0#6)) ∧
      (Ready (exe g [.src x]) a s →
        (S.toNat / 2 ^ 40 ≠ 0 → Traps (.vsetvl g x) a s .vcfgbad) ∧
        (S.toNat / 2 ^ 40 = 0 → ∃ t, exec (.vsetvl g x) s = .next t ∧ VecFrame [.src x] c s t 1 ∧ (t.task a).regs = u.regs ∧ (t.task a).q.vqs = u.q.vqs ∧
          let k := (t.core c).vec.vcfg
          (t.core c).vec = { v with vcfg := k } ∧ cfgVL k = Nat.min (S.toNat % 2 ^ 32) (1024 * 2 ^ cfgLG k) ∧ cfgLG k = S.toNat / 2 ^ 32 % 4 ∧
          cfgTZ k = S.getLsbD 34 ∧ cfgMZ k = S.getLsbD 35 ∧ cfgCVTF k = S.toNat / 2 ^ 36 % 16 ∧ cfgRGC k = 0 ∧
          (∀ j, 40 ≤ j → k.getLsbD j = cfg.getLsbD j)))

/-- 07 R182-R185: compress, expand, argmax and the reductions: element by element, with the count or the place in the scalar destination. -/
def Obligations.VectorReductionWords : Prop :=
  ∀ (c : Nat) (s : State) (g : Guard) (lc : BitVec 3) (vd va : VReg),
    let a := Agent.execute c
    let u := s.task a
    let v := (s.core c).vec
    let cfg := v.vcfg
    let n := vBelow cfg
    let C := vRows cfg
    let old := vElem v (vIndex vd)
    let X := vElem v (vIndex va)
    let rest (e : Nat) : W32 := if cfgTZ cfg then 0#32 else old e
    Landed u → Grouped cfg [vd, va] →
      (∀ d : SDst, Ready (vvInfo g vd va [.dst d]) a s →
        let rs := [Role.vdst vd, .vsrc va, .dst d]
        let sel := (List.range n).filter (mBit v 0)
        GroupWord (.vcompress g lc vd va d) rs c s C (vIndex vd) (fun e => if h : e < sel.length then X sel[e] else rest e) (· = v.fsr)
          (regsWith u d (BitVec.ofNat 64 sel.length)) ∧
        (∀ z k, (∃ e, e < n ∧ k = BitVec.ofNat 64 e ∧ z = X e ∧ (fp32 z).isNaN = false ∧
            (∀ f, f < n → (fp32 (X f)).isNaN = false → fltSigned (fp32 z) (fp32 (X f)) = false) ∧
            (∀ f, f < e → (fp32 (X f)).isNaN = false → fltSigned (fp32 (X f)) (fp32 z) = true)) ∨
          ((∀ e, e < n → (fp32 (X e)).isNaN = true) ∧ z = 0x7FC00000#32 ∧ k = BitVec.allOnes 64) →
          GroupWord (.vredi g lc vd va d) rs c s C (vIndex vd) (fun e => if e = 0 then z else rest e)
            (fun w => ∀ j, w.getLsbD j = true ↔ v.fsr.getLsbD j = true ∨ (j = 4 ∧ ∃ e, e < n ∧ (fp32 (X e)).isSNaN = true)) (regsWith u d k))) ∧
      (∀ x : Scalar, Ready (vvInfo g vd va [.src x]) a s →
        GroupWord (.vexpand g lc vd va x) [.vdst vd, .vsrc va, .src x] c s C (vIndex vd)
          (fun e => let k := (xVal u x).toNat + (List.range e).countP (mBit v 0)
            chosen v true e 0#32 (if k < 1024 * 2 ^ cfgLG cfg then X k else 0#32) (old e)) (· = v.fsr) u.regs) ∧
      (Ready (vvInfo g vd va []) a s →
        let Red (i : Instr) (z : W32) (fsr : W64 → Prop) : Prop :=
          GroupWord i [.vdst vd, .vsrc va] c s C (vIndex vd) (fun e => if e = 0 then z else rest e) fsr u.regs
        let S := tree (fsrMode v.fsr) (fun e => if e < n then some (X e) else none) (10 + cfgLG cfg) 0
        Red (.vredadd g lc vd va) (BitVec.ofNat 32 ((List.range n).map fun e => (X e).toNat).sum) (· = v.fsr) ∧
        (∃ z, Red (.vredmax g lc vd va) z (· = v.fsr) ∧ (∀ e, e < n → (X e).toInt ≤ z.toInt) ∧ (n = 0 → z = 0x80000000#32) ∧ (0 < n → ∃ e, e < n ∧ X e = z)) ∧
        Red (.vfredadd g lc vd va) (S.1.getD 0#32) (fun w => w = v.fsr ||| S.2.zeroExtend 64))

/-- 07 R186, R189: tile registers are written by rows and read by columns, at their cursors; latches are added to in ascending order of elements, read and cleared. -/
def Obligations.TileAndLatchWords : Prop :=
  ∀ (c : Nat) (s : State) (g : Guard) (lc : BitVec 3) (vr : VReg) (tl : Tile) (ps : Latch),
    let a := Agent.execute c
    let u := s.task a
    let v := (s.core c).vec
    let cfg := v.vcfg
    let m := fsrMode v.fsr
    let X := vElem v (vIndex vr)
    let tile (w : VecState) (n r k : Nat) : W32 := tget 0#32 (tget [] w.t n) (64 * r + k)
    let latch (w : VecState) (n k : Nat) : W32 := tget 0#32 (tget [] w.ps n) k
    let Runs (i : Instr) (rs : List Role) (C : Nat) (P : State → VecState → Prop) : Prop :=
      ∃ t, exec i s = .next t ∧ VecFrame rs c s t C ∧ (t.task a).regs = u.regs ∧ (t.core c).vec.m = v.m ∧ P t (t.core c).vec
    Landed u →
      (Ready { exe g [.tdst tl, .vsrc vr] with shape := vr.isV } a s →
        let q := cfgTWC cfg tl.val
        Runs (.twr g lc tl vr) [.tdst tl, .vsrc vr] 16 fun t w => w.v = v.v ∧ w.ps = v.ps ∧ w.fsr = v.fsr ∧ (t.task a).q.vqs = u.q.vqs ∧
          (∀ n r k, r < 64 → k < 64 → tile w n r k = if n = tl.val ∧ 16 * q ≤ r ∧ r < 16 * q + 16 then X (64 * (r - 16 * q) + k) else tile v n r k) ∧
          cfgTWC w.vcfg tl.val = (q + 1) % 4 ∧ (∀ j, (j < 40 + 4 * tl.val ∨ 41 + 4 * tl.val < j) → w.vcfg.getLsbD j = cfg.getLsbD j)) ∧
      (Ready { exe g [.vdst vr, .tsrc tl] with shape := vr.isV } a s →
        let q := cfgTRC cfg tl.val
        Runs (.trd g lc vr tl) [.vdst vr, .tsrc tl] 16 fun t w => w.t = v.t ∧ w.ps = v.ps ∧ w.fsr = v.fsr ∧ (t.task a).q.vqs = u.q.vqs ∧
          GroupIs v w (vIndex vr) 0 1024 (fun e => tile v tl.val (e % 64) (16 * q + e / 64)) ∧
          cfgTRC w.vcfg tl.val = (q + 1) % 4 ∧ (∀ j, (j < 42 + 4 * tl.val ∨ 43 + 4 * tl.val < j) → w.vcfg.getLsbD j = cfg.getLsbD j)) ∧
      (Ready (exe g [.ldst ps, .vsrc vr]) a s → Grouped cfg [vr] →
        let r := vrange cfg (vIsQueue vr)
        let sum (k : Nat) : W32 × Flags :=
          (((List.range r.count).map (r.base + ·)).filter fun e => decide (e < cfgVL cfg) && e % 64 == k).foldl
            (fun p e => ((fadd p.1 (vVal u v vr e) m).1, p.2 ||| (fadd p.1 (vVal u v vr e) m).2)) (latch v ps.val k, 0#6)
        Runs (.psadd g lc ps vr) [.ldst ps, .vsrc vr] (r.rows (cfgVL cfg)) fun t w => w.v = v.v ∧ w.t = v.t ∧ (t.task a).q.vqs = u.q.vqs ∧
          w.vcfg = (if vIsQueue vr then cfgStepRGC cfg else cfg) ∧ Flagged v.fsr w.fsr (· < 64) (fun k => (sum k).2) ∧
          (∀ n k, k < 64 → latch w n k = if n = ps.val then (sum k).1 else latch v n k)) ∧
      (Ready (exe g [.vdst vr, .lsrc ps]) a s → Grouped cfg [vr] →
        Runs (.psrd g lc vr ps) [.vdst vr, .lsrc ps] 1 fun t w => w.t = v.t ∧ w.ps = v.ps ∧ w.fsr = v.fsr ∧ w.vcfg = cfg ∧
          (∀ n, vr = .v n → GroupIs v w n.val 0 64 (latch v ps.val) ∧ (t.task a).q.vqs = u.q.vqs) ∧
          (vr = .vqs → w.v = v.v ∧ (u.a.ended = true → (t.task a).q.vqs = u.q.vqs) ∧
            (u.a.ended = false → ∃ x, (t.task a).q.vqs = u.q.vqs ++ [x] ∧
              ∀ k, k < 256 → x.mask.getLsbD k = decide (k < 64) ∧ tget 0#32 x.data k = if k < 64 then latch v ps.val k else 0#32))) ∧
      (Ready (exe g [.ldst ps]) a s →
        Runs (.psclr g lc ps) [.ldst ps] 1 fun t w => w.v = v.v ∧ w.t = v.t ∧ w.fsr = v.fsr ∧ w.vcfg = cfg ∧ (t.task a).q.vqs = u.q.vqs ∧
          ∀ n k, k < 64 → latch w n k = if n = ps.val then 0#32 else latch v n k)

/-- 13 R370-R372: KRSUM and KRMEAN sum the present elements of each column in the tree of R185 and scale the sum; KVCNT counts mask bits, KMRD reads them from a bit stream. R372 is stated whole; of R370 and R371 the values written, and of the flags DZ. -/
def Obligations.KerfWords : Prop :=
  ∀ (c : Nat) (s : State) (g : Guard) (lc : BitVec 3) (vd va : VReg) (mk : MReg),
    let a := Agent.execute c
    let u := s.task a
    let v := (s.core c).vec
    let cfg := v.vcfg
    let m := fsrMode v.fsr
    let G := 2 ^ cfgLG cfg
    let old := vElem v (vIndex vd)
    let rest (e : Nat) : W32 := if cfgTZ cfg then 0#32 else old e
    let X := vElem v (vIndex va)
    let there (k i : Nat) : Bool := decide (64 * i + k < vBelow cfg) && mBit v mk.val (64 * i + k)
    let n (k : Nat) : Nat := (List.range (16 * G)).countP fun i => decide (64 * i + k < vBelow cfg)
    let cnt (k : Nat) : Nat := (List.range (16 * G)).countP (there k)
    let S (k : Nat) : W32 := (tree m (fun i => if there k i then some (X (64 * i + k)) else none) (4 + cfgLG cfg) 0).1.getD 0#32
    let Column (mean : Bool) (k : Nat) (r : W32) : Prop :=
      (n k = 0 → r = 0#32) ∧ (0 < n k → cnt k = 0 → r = 0x7FC00000#32) ∧
      (0 < cnt k → ((fp32 (S k)).isNaN = true ∨ (∃ b, fp32 (S k) = .inf b) ∨ (∃ b, fp32 (S k) = .zero b)) → r = S k) ∧
      (0 < cnt k → ∀ p q, fp32 (S k) = .fin p q → r = (roundFP32 (.fin (p * (if mean then 1 else n k)) (q * cnt k)) m).1)
    let Reduces (i : Instr) (mean : Bool) : Prop :=
      ∃ (r : Nat → W32) (fsr : W64), (∀ k, k < 64 → Column mean k (r k)) ∧ (∀ j, v.fsr.getLsbD j = true → fsr.getLsbD j = true) ∧
        (fsr.getLsbD 3 = true ↔ v.fsr.getLsbD 3 = true ∨ ∃ k, k < 64 ∧ 0 < n k ∧ cnt k = 0) ∧
        GroupWord i [.vdst vd, .vsrc va, .msrc mk] c s (vRows cfg) (vIndex vd)
          (fun e => if e < 64 then r e else if e < 128 then BitVec.ofNat 32 (cnt (e - 64)) else rest e) (· = fsr) u.regs
    Landed u → mk.val % G = 0 →
      (Ready { exe g [.vdst vd, .vsrc va, .msrc mk] with shape := vd.isV && va.isV } a s → Grouped cfg [vd, va] →
        Reduces (.krsum g lc vd va mk) false ∧ Reduces (.krmean g lc vd va mk) true) ∧
      (Ready { exe g [.vdst vd, .msrc mk] with shape := vd.isV } a s → Grouped cfg [vd] →
        GroupWord (.kvcnt g lc vd mk) [.vdst vd, .msrc mk] c s 1 (vIndex vd)
          (fun e => if e = 0 then BitVec.ofNat 32 ((List.range (vBelow cfg)).countP (mBit v mk.val)) else rest e) (· = v.fsr) u.regs) ∧
      (Ready { exe g [.mdst mk, .vsrc va] with shape := va.isV } a s → Grouped cfg [va] →
        MaskWord (.kmrd g lc mk va) [.mdst mk, .vsrc va] c s mk false false 1 (fun e => (streamBit v (vIndex va) (e / 64), 0#6)))

/-! Engines: bucket engine and gather unit (09 R256-R273), dense engine (10 R285-R294), tile moves (07 R187), micro-order stores (09 R265), bank selectors and the sorting engine (09 R247-R254). -/

/-- 09 R256, R257, R267-R272: bucket words and GATHER enter a command with what their operands and descriptors say; a full queue and a stopped engine hold; a depth above MAXDEPTH is BKDEPTH against the command; GWAIT goes on once no GATHER fills its half. -/
def Obligations.BucketWords : Prop :=
  ∀ (c : Nat) (s : State) (g : Guard) (x y : Scalar),
    let a := Agent.execute c
    let u := s.task a
    let E := (s.core c).eng
    let b := E.bk
    let X := xVal u x
    let Y := xVal u y
    let w0 := cmdInfo g [] false
    let w1 := cmdInfo g [x] false
    let w2 := cmdInfo g [x, y] true
    let Enters (i : Instr) (rs : List Role) (recEvt : Bool) (op : BkOp) (depth : Nat) : Prop := bkDepth b + depth ≤ maxDepth c s →
      Sends i rs c s { E with bk := { b with queue := b.queue ++ [{ tag := cmdTag c s recEvt, op := op, depth := depth, writes := [] }] } }
    let open_ : Prop := b.queue.length < 4 ∧ b.run = true
    let s2 := sending w2 a s [x, y]
    let v := s2.view a
    let nt := if shapeAfter b then 32 else 128
    let stride := (Y.extractLsb' 16 24).toNat
    let rows := if stride = 0 then 4 * nt else stride
    Landed u →
      (Ready w0 a s →
        (open_ → Enters (.bkrst g) [] false .rst 1 ∧ Enters (.bkfin g) [] false .fin 36) ∧
        (open_ → maxDepth c s < bkDepth b + 1 → exec (.bkrst g) s = .next (afterIssue a (raiseTrap a
          { code := .bkdepth, engine := .bucket, status := 0x9F00000, empc := b.empc, cmd := some u.cmdx } false none (sending w0 a s [])))) ∧
        (4 ≤ b.queue.length → b.run = true → Holds (.bkrst g) a s .bucketFull ∧ Holds (.bkfin g) a s .bucketFull) ∧
        (b.run = false → Holds (.bkrst g) a s .stoppedEngine ∧ Holds (.bkfin g) a s .stoppedEngine)) ∧
      (Ready w1 a s → open_ → X.toNat < 2 → Enters (.bkshape g x) [.src x] false (.shape (X.getLsbD 0)) 1) ∧
      (Ready w2 a s → open_ → Commits c s 8192 → Y.toNat < 2 ^ 40 → (Y.extractLsb' 2 14).toNat = 0 → stride % 4 = 0 → X.toNat % 4 = 0 →
        (∀ i, i < 2048 / nt → v.check s2 (X.toNat + i * rows) (4 * nt) .engineStore = .ok ()) →
        Enters (.bkdrain g x y) [.src x, .src y] (Y.getLsbD 1) (.drain X stride (Y.getLsbD 0)) 64) ∧
      (∀ d s3, Ready w2 a s → open_ → Commits c s 0 → v.read s2 X.toNat 64 = .ok d →
        acceptRun c (ctxOf a w2 s) u.cmdx X Y s2 = .ok s3 →
        let f (o n : Nat) := leValue ((d.drop o).take n)
        let tile := BitVec.ofNat 64 (f 0 8)
        ∀ hb h, v.read s2 tile.toNat 64 = .ok hb → tileHeader? 2 hb = some h →
        Sends (.bkrun g x y) [.src x, .src y] c s { E with bk := { b with queue := b.queue ++
          [{ tag := cmdTag c s (bitOf (f 0x1D 1) 3), depth := walkDepth b.store h.g 1024 ((b.base + Y.toNat) % 256), writes := [],
             op := .run { entry := Y.toNat, tile := tile, ascl := BitVec.ofNat 64 (f 8 8), azp := BitVec.ofNat 64 (f 0x10 8), afe := f 0x1C 1, half := f 0x1D 1 % 2, rowb := f 0x1D 1 / 2 % 4, share := { mcast := BitVec.ofNat 24 (f 0x18 3), lead := f 0x1B 1 % 32 }, g := h.g, data := none } }] } }) ∧
      (∀ d s3, Ready w2 a s → Commits c s 16384 → v.read s2 X.toNat 32 = .ok d → acceptGather c (ctxOf a w2 s) u.cmdx X Y s2 = .ok s3 →
        let f (o n : Nat) := leValue ((d.drop o).take n)
        Sends (.gather g x y) [.src x, .src y] c s { E with gathers := E.gathers ++
          [{ tag := cmdTag c s (Y.getLsbD 1), half := Y.toNat % 2, src := BitVec.ofNat 64 (f 0 8), pstr := f 8 4, tstr := f 0xC 4, nline := f 0x10 2,
             llen := f 0x12 1, idxa := if f 0x13 1 = 1 then some (BitVec.ofNat 64 (f 0x18 8)) else none, fills := none }] }) ∧
      (Ready w1 a s →
        ((∀ z ∈ E.gathers, z.half ≠ X.toNat % 2) → ∃ t, exec (.gwait g x) s = .next t ∧ VecFrame [.src x] c s t 1 ∧ (t.core c).vec = (s.core c).vec ∧
          (t.task a).regs = u.regs ∧ (t.task a).cmdx = u.cmdx) ∧
        ((∃ z ∈ E.gathers, z.half = X.toNat % 2) → Holds (.gwait g x) a s .gather))

/-- 10 R285-R288, R294; 07 R187: dense words and TXFER enter a command with what their operands and descriptors say; a full queue and a stopped engine hold, and a product waits for the drains before it; 07 R169: a TXFER with a reserved bit set traps at the word. -/
def Obligations.DenseWords : Prop :=
  ∀ (c : Nat) (s : State) (g : Guard) (x y : Scalar),
    let a := Agent.execute c
    let u := s.task a
    let E := (s.core c).eng
    let n := E.dn
    let p := s.partOf a
    let X := xVal u x
    let Y := xVal u y
    let w0 := cmdInfo g [] false
    let w1 := cmdInfo g [x] false
    let w2 := cmdInfo g [x, y] true
    let entered (op : DnOp) (recEvt : Bool) (depth : Nat) : Engines :=
      { E with dn := { n with queue := n.queue ++ [{ tag := cmdTag c s recEvt, op := op, depth := depth, readDone := false, flags := 0#6, writes := [] }] } }
    let draining : Prop := (n.queue.any fun k => match k.op with | .drain .. => true | _ => false) = true
    let fits : Prop := (n.queue.map (·.depth)).foldl (· + ·) 0 + 64 ≤ maxDepth c s
    let open_ : Prop := n.queue.length < 4 ∧ n.run = true
    let s2 := sending w2 a s [x, y]
    let v := s2.view a
    let stride := (Y.extractLsb' 16 24).toNat
    let tl : Tile := if Y.getLsbD 0 then 1 else 0
    Landed u →
      (Ready w0 a s →
        (open_ → fits → Sends (.dclr g) [] c s (entered .clr false 64)) ∧
        (4 ≤ n.queue.length → n.run = true → Holds (.dclr g) a s .engineFull) ∧
        (n.run = false → Holds (.dclr g) a s .stoppedDense)) ∧
      (Ready w1 a s → open_ → fits → X.toNat < 32 → (chainOperand s p (X.toNat % 16)).isSome = true →
        Sends (.dbyp g x) [.src x] c s (entered (.byp (X.toNat % 16) (X.getLsbD 4)) false 64)) ∧
      (∀ f, Ready w2 a s → open_ → fits → Commits c s 16384 → Y.toNat < 2 ^ 40 → (Y.extractLsb' 12 4).toNat = 0 → (Y.extractLsb' 4 4).toNat = 0 → stride % 4 = 0 →
        (Y.getLsbD 3 = true → Y.getLsbD 2 = true) → s.ftEntry p (Y.extractLsb' 8 4).toNat = some f → f.scale = 0 → f.elem.isCode = false →
        (Y.getLsbD 2 = true → (dotWidth f.elem).isSome = true) → X.toNat % 4 = 0 →
        (∀ i, i < 64 → v.check s2 (X.toNat + i * (if stride = 0 then 8 * f.elem.width else stride)) (8 * f.elem.width) .engineStore = .ok ()) →
        Sends (.ddrain g x y) [.src x, .src y] c s
          (entered (.drain X stride (Y.extractLsb' 8 4).toNat (Y.getLsbD 3) (Y.getLsbD 2) (Y.getLsbD 0)) (Y.getLsbD 1) 64)) ∧
      (∀ keep : Bool, Ready w2 a s → open_ → Commits c s 0 → draining → Holds (if keep then .dmmac g x y else .dmma g x y) a s .commands) ∧
      (∀ (keep : Bool) d s3 fa fb, Ready w2 a s → open_ → Commits c s 0 → ¬ draining → v.read s2 X.toNat 64 = .ok d → acceptMma keep c (ctxOf a w2 s) u.cmdx X Y s2 = .ok s3 →
        let f (o k : Nat) := leValue ((d.drop o).take k)
        let ctl := f 0x2B 1
        entryA s p (ctl % 4) (f 0x2A 1 % 16) n = some fa → legalOperand s p (f 0x2A 1 / 16) = some fb →
        Sends (if keep then .dmmac g x y else .dmma g x y) [.src x, .src y] c s
          (entered (.mma keep Y.toNat (f 0x28 2) (ctl % 4) (bitOf ctl 2)
            { base := BitVec.ofNat 64 (f 0 8), plane := BitVec.ofNat 64 (f 0x10 8), stride := f 0x20 4, fe := f 0x2A 1 % 16,
              share := { mcast := BitVec.ofNat 24 (f 0x2C 3), lead := f 0x2F 1 % 32 }, data := none }
            { base := BitVec.ofNat 64 (f 8 8), plane := BitVec.ofNat 64 (f 0x18 8), stride := f 0x24 4, fe := f 0x2A 1 / 16,
              share := { mcast := BitVec.ofNat 24 (f 0x30 3), lead := f 0x33 1 % 32 }, data := none }) (bitOf ctl 3) (64 * f 0x28 2 / commandWidth fa fb))) ∧
      (Ready w2 a s → Commits c s 16384 → E.tiles.length < 2 → tileBusy (s.core c) tl = false → Y.toNat < 2 ^ 40 → (Y.extractLsb' 4 12).toNat = 0 →
        stride % 4 = 0 → X.toNat % 4 = 0 →
        (∀ i, i < 64 → v.check s2 ((X.toNat + i * stride) % 2 ^ 64) 256 (if Y.getLsbD 1 then .engineStore else .load) = .ok ()) →
        Sends (.txfer g x y) [.src x, .src y] c s { E with tiles := E.tiles ++
          [{ tag := cmdTag c s (Y.getLsbD 3), tile := tl, toMem := Y.getLsbD 1, trans := Y.getLsbD 2, base := X, stride := stride, rows := none }] }) ∧
      (Ready w2 a s → (tileBusy (s.core c) tl = true → Holds (.txfer g x y) a s .tile) ∧
        (tileBusy (s.core c) tl = false → E.tiles.length < 2 → Commits c s 16384 → 2 ^ 40 ≤ Y.toNat → u.x.arm = none → Traps (.txfer g x y) a s .txbad))

/-- 09 R265, R272: MOLOAD stops an engine and loads its store from 1,024 bytes, MOBASE sets its base, MOSTOP stops it, MOSTART starts it; operands out of range are MOBAD. 09 R248, R251, R252: SWAPW makes a stack PENDING, WPIN counts its pins, SORTW enters a command of the cluster's sorting engine; a stack without a core of the partition is WBBAD. -/
def Obligations.OrderAndWeightWords : Prop :=
  (
   ∀ (s : State) (g : Guard) (x y : Scalar) (c : Nat),
     let a := Agent.access c
     let w1 := acc g [.src x]
     let w2 := acc g [.src x, .src y]
     let u := s.task a
     let X := srcVal u x
     let Y := srcVal u y
     let E := (s.core c).eng
     let Does (i : Instr) (w : WordInfo) (f : Engines → Prop) : Prop :=
       ∃ t, exec i s = .next t ∧ t.task a = settled a (entered w a u) ∧ SameOutside s t ∧ (∀ k, k ≠ c → (t.core k).eng = (s.core k).eng) ∧
         (t.core c).vec = (s.core c).vec ∧ f (t.core c).eng
     (∀ tgt bs, Ready w2 a s → Y.toNat < 2 → Reaches a s X 1024 .load tgt → innerRead (ctxOf a w2 s) X tgt 1024 (atIssue a w2 s) = .ok bs →
       let word (k : Nat) : W32 := BitVec.ofNat 32 (leValue ((bs.drop (4 * k)).take 4))
       (Y = 0#64 → Does (.moload g x y) w2 fun e => e = { E with bk := { E.bk with run := false, store := e.bk.store } } ∧ ∀ k, k < 256 → tget 0#32 e.bk.store k = word k) ∧
       (Y = 1#64 → Does (.moload g x y) w2 fun e => e = { E with dn := { E.dn with run := false, store := e.dn.store } } ∧ ∀ k, k < 256 → tget 0#32 e.dn.store k = word k)) ∧
     (Ready w2 a s →
       (X.toNat < 256 → Y = 0#64 → Does (.mobase g x y) w2 (· = { E with bk := { E.bk with run := false, base := X.toNat } })) ∧
       (X.toNat < 256 → Y = 1#64 → Does (.mobase g x y) w2 (· = { E with dn := { E.dn with run := false, base := X.toNat } })) ∧
       (256 ≤ X.toNat ∨ 2 ≤ Y.toNat → Traps (.mobase g x y) a s .mobad) ∧ (2 ≤ Y.toNat → Traps (.moload g x y) a s .mobad)) ∧
     (Ready w1 a s →
       (X = 0#64 → Does (.mostop g x) w1 (· = { E with bk := { E.bk with run := false } })) ∧
       (X = 1#64 → Does (.mostop g x) w1 (· = { E with dn := { E.dn with run := false } })) ∧
       (X = 0#64 → E.bk.queue = [] → Does (.mostart g x) w1 (· = { E with bk := { E.bk with run := true } })) ∧
       (X = 1#64 → Does (.mostart g x) w1 (· = { E with dn := { E.dn with run := true } })) ∧
       (2 ≤ X.toNat → Traps (.mostop g x) a s .mobad ∧ Traps (.mostart g x) a s .mobad))
  ) ∧ (
   ∀ (s : State) (g : Guard) (x y : Scalar) (c : Nat),
     let a := Agent.access c
     let w1 := acc g [.src x]
     let w2 := acc g [.src x, .src y]
     let u := s.task a
     let p := s.partOf a
     let X := srcVal u x
     let Y := srcVal u y
     let st := X.toNat % 4
     let pins := tget 0 (s.part p).pins st
     (Ready w1 a s → X.toNat < 8 → s.hasStack p st = true →
       (tget? (s.part p).swap st = none → shadowOpen s p st = false → ∃ t, exec (.swapw g x) s = .next t ∧ t.task a = settled a (counted (entered w1 a u)) ∧
         t.mem = s.mem ∧ SameCores a s t ∧ (∀ q, q ≠ p → t.part q = s.part q) ∧
         t.part p = { s.part p with swap := tput (s.part p).swap st { recEvt := X.getLsbD 2, cluster := a.cluster, core := c, idx := u.cmdx, task := u.ident, lseq := s.seqOf p } }) ∧
       ((tget? (s.part p).swap st).isSome = true ∨ shadowOpen s p st = true → Holds (.swapw g x) a s .swap)) ∧
     (Ready w1 a s → 8 ≤ X.toNat ∨ s.hasStack p st = false → Traps (.swapw g x) a s .wbbad) ∧
     (Ready w2 a s → X.toNat < 4 → s.hasStack p st = true →
       let Pins (n : Nat) : Prop := ∃ t, exec (.wpin g x y) s = .next t ∧ t.task a = settled a (entered w2 a u) ∧ t.mem = s.mem ∧ SameCores a s t ∧
         (∀ q, q ≠ p → t.part q = s.part q) ∧ t.part p = { s.part p with pins := tput (s.part p).pins st n }
       (Y = 1#64 → pins < 255 → Pins (pins + 1)) ∧ (Y = 0#64 → 0 < pins → Pins (pins - 1)) ∧
       (Y = 1#64 → 255 ≤ pins → Traps (.wpin g x y) a s .wbbad) ∧ (Y = 0#64 → pins = 0 → Traps (.wpin g x y) a s .wbbad)) ∧
     (∀ bs h, Ready w2 a s → (u.a.kept = some bs ∨ u.a.kept = none ∧ readBlock (ctxOf a w2 s) X 64 (atIssue a w2 s) = .ok bs) →
       (tileHeader? 1 bs = none → Traps (.sortw g x y) a s .sortbad) ∧
       (tileHeader? 1 bs = some h → 2 ^ 42 ≤ Y.toNat → Traps (.sortw g x y) a s .sortbad) ∧
       (tileHeader? 1 bs = some h → Y.toNat < 2 ^ 42 → (Y.extractLsb' 16 26).toNat * 64 + (0x80 + 192 * h.ng + 64 * (112 + 8 * h.ng)) ≤ ((s.part p).regs.pwb.getD a.stack .none).size →
         (Y.getLsbD 14 = true → s.hasCluster p ((Y.extractLsb' 0 14).toNat / 64) = true ∧ (Y.extractLsb' 0 14).toNat < 12288) →
         (16 ≤ (s.cluster a.cluster).sorts.length → Keeps (.sortw g x y) a s bs .swap) ∧ ((s.cluster a.cluster).sorts.length < 16 →
         ∃ t cmd, exec (.sortw g x y) s = .next t ∧ t.task a = settled a (counted (entered w2 a u)) ∧ SameOutside s t ∧
           (t.cluster a.cluster).sorts = (s.cluster a.cluster).sorts ++ [cmd] ∧ (∀ h, h ≠ a.cluster → (t.cluster h).sorts = (s.cluster h).sorts) ∧
           cmd.src = X ∧ cmd.slot = (Y.extractLsb' 16 26).toNat ∧ cmd.view = s.view a ∧ cmd.by_.core = c ∧ cmd.by_.task = u.ident ∧ cmd.by_.idx = u.cmdx ∧ cmd.written = none ∧
           cmd.ctl = { seq := false, recEvt := Y.getLsbD 15, baren := Y.getLsbD 14, bar := (Y.extractLsb' 0 14).toNat })))
  )

/-! Events of the engines. An event that is not enabled leaves the state as it is. -/

/-- 09 R253-R264, R268-R272: what the gather unit, the bucket engine, a shared read and the sorting engine do: a GATHER fills its half; commands of the bucket engine have their effect in order, an ACC order sums the positions of each code, a FIN order folds them into the accumulators; an ended command writes its words and retires, a BKDRAIN also past one that waits for its open group; a command on a predicted arm makes its reads only; a shared read gives every core of its mask the same bytes; SORTW leaves its bank tile in the shadow half. The model's own: operands are read at one event (log entry 28). -/
def Obligations.BucketEvents : Prop :=
  ∀ (c : Nat) (s : State),
    let a := Agent.execute c
    let E := (s.core c).eng
    let b := E.bk
    let g := clusterOfCore c
    let v := s.view a
    let id := (s.task (.access c)).ident
    let nt := if b.shapeT then 32 else 128
    (∀ half z ix, s.Inv → c < 4608 → half < 2 → E.gathers.find? (·.half == half) = some z → z.tag.held = false → z.fills = none → s.engineLive c = true → armTurn E z.tag = true →
      bucketReads E z.tag.num half = false → (∃ fills, gatherFill v s z = .ok fills) → CanRecord s g z.tag.recEvt → z.nline ≤ 128 → z.llen ≤ 128 →
      (match z.idxa with | none => ix = [] | some l => v.read s l.toNat (2 * z.nline) = .ok ix) →
      let base := gbufBase c + half * 16384
      let place (k : Nat) : Nat := if z.idxa.isNone then k else leValue ((ix.drop (2 * k)).take 2)
      Fires (.gatherComplete c half) s fun t =>
        (t.core c).eng = { E with gathers := E.gathers.filter (·.tag.num ≠ z.tag.num) } ∧ Recorded s t g z.tag.recEvt (commandRecord 4 c z.tag.idx id) ∧
        (∀ k j x, k < z.nline → j < z.llen → v.read s ((z.src.toNat + place k * z.pstr + j * z.tstr) % 2 ^ 64) 1 = .ok [x] → t.byte (base + 128 * k + j) = x) ∧
        (∀ k j, k < 128 → j < 128 → z.nline ≤ k ∨ z.llen ≤ j → t.byte (base + 128 * k + j) = 0#8) ∧
        (∀ d, (d < base ∨ base + 16384 ≤ d) → t.byte d = s.byte d)) ∧
    (∀ half z fills, E.gathers.find? (·.half == half) = some z → z.tag.held = true → CanRecord s g z.tag.recEvt → z.fills = none → s.engineLive c = true → gatherFill v s z = .ok fills →
      Fires (.gatherComplete c half) s fun t => t.mem = s.mem ∧
        (t.core c).eng = { E with gathers := E.gathers.map fun x => if x.tag.num = z.tag.num then { z with fills := some fills } else x }) ∧
    (b.queue = [] → Idle (.bucketExpansion c) s) ∧
    (∀ k rest, b.queue = k :: rest → s.engineLive c = false ∨ b.run = false → Idle (.bucketExpansion c) s) ∧
    (∀ k rest, b.queue = k :: rest → k.tag.held = true → s.engineLive c = true → b.run = true →
      ((∀ r, k.op ≠ .run r) → Idle (.bucketExpansion c) s) ∧
      (∀ r bs, k.op = .run r → r.share.mcast = 0#24 → r.data = none → tileBytes v s r.tile = .ok bs → Fires (.bucketExpansion c) s fun t => t.mem = s.mem ∧
        (t.core c).eng = { E with bk := { b with queue := { k with op := .run { r with data := some bs } } :: rest } })) ∧
    (∀ k rest, b.queue = k :: rest → k.tag.held = false → s.engineLive c = true → b.run = true →
      let Ends (P : BucketEng → List (W64 × W32) → Prop) : Prop := Fires (.bucketExpansion c) s fun t =>
        (t.core c).vec = (s.core c).vec ∧ t.mem = s.mem ∧ t.clus = s.clus ∧ t.parts = s.parts ∧ t.task? a = s.task? a ∧
        ∃ e ws, P e ws ∧ (t.core c).eng = { E with bk := { e with queue := rest, ended := b.ended ++ [{ k with writes := ws }] } }
      (k.op = .rst → Ends fun e ws => ws = [] ∧ e = { b with buckets := [], acc := [], openGrp := none, bflags := 0#6 }) ∧
      (∀ sh, k.op = .shape sh → Ends fun e ws => ws = [] ∧ e = { b with buckets := [], acc := [], openGrp := none, bflags := 0#6, shapeT := sh }) ∧
      (k.op = .fin → b.openGrp = none → Ends fun e ws => ws = [] ∧ e = b) ∧
      (∀ A st clr, k.op = .drain A st clr → Ends fun e ws => e = { b with acc := if clr then [] else b.acc } ∧ ws.length = 2048 ∧
        ∀ l, l < 2048 → ws[l]? = some (A + BitVec.ofNat 64 (l / nt * (if st = 0 then 4 * nt else st) + 4 * (l % nt)), tget 0#32 b.acc l)) ∧
      (∀ r d n, k.op = .run r → r.ready = true → gatherPending E k.tag.num r.half = false → bkData c r s = .ok d → n < d.h.ng → n < 4 →
        let pos := (b.base + r.entry) % 256
        tget 0#32 b.store ((pos + 1) % 256) = 0#32 →
          (tget 0#32 b.store pos = BitVec.ofNat 32 (2 ^ 28 + n * 2 ^ 26) → b.openGrp = none → s.eccHit (gbufBase c + r.half * 16384) 16384 = false →
            ((shapeRows b.shapeT r.rowb).all fun x => segmentOk d (rowRecord d x.2) n) = true →
            Ends fun e ws => ws = [] ∧ e = { b with buckets := e.buckets, openGrp := some (n, { r with data := some d.tile }), empc := (pos + 1) % 256 } ∧
              ∀ x ∈ shapeRows b.shapeT r.rowb, ∀ q cd, q < nt → cd < 8 →
                let recd := rowRecord d x.2
                let lo := bound8Before d recd n cd
                tget 0 e.buckets (8 * (nt * x.1 + q) + cd) = tget 0 b.buckets (8 * (nt * x.1 + q) + cd) +
                  ((List.range (bound8 recd n cd - lo)).map fun j => slotValue d (packed recd 7 (lo + j)) q).sum) ∧
          (∀ r0 d0 x0, tget 0#32 b.store pos = BitVec.ofNat 32 (2 * 2 ^ 28 + n * 2 ^ 26) → b.openGrp = some (n, r0) → bkData c r0 s = .ok d0 → finData c r0 d0 n nt s = .ok x0 →
            (∀ x ∈ shapeRows b.shapeT r0.rowb, cbIndex d0 x.2 n < d0.h.ncb) →
            Ends fun e ws => ws = [] ∧ e = { b with buckets := [], acc := e.acc, bflags := e.bflags, openGrp := none, empc := (pos + 1) % 256 } ∧
              ∀ x ∈ shapeRows b.shapeT r0.rowb, ∀ q, q < nt →
                tget 0#32 e.acc (nt * x.1 + q) = (finLane d0 x0 b.buckets b.acc (rowRecord d0 x.2) x.2 n (nt * x.1 + q) q).1))) ∧
    (∀ k rest, b.ended = k :: rest → s.Inv →
      (∀ n, k.writes = [] → b.openGrp = none → CanRecord s g k.tag.recEvt → Fires (.bucketRetire c n) s fun t => (t.core c).eng = { E with bk := { b with ended := rest } } ∧
        Recorded s t g k.tag.recEvt (commandRecord (match k.op with | .drain .. => 6 | _ => 5) c k.tag.idx id) ∧ SameBytes s t) ∧
      (∀ n z r1, k.writes = [] → k.isDrain = false → b.openGrp.isSome = true → rest = z :: r1 → z.writes = [] → z.isDrain = true → CanRecord s g z.tag.recEvt →
        Fires (.bucketRetire c n) s fun t => (t.core c).eng = { E with bk := { b with ended := k :: r1 } } ∧
          Recorded s t g z.tag.recEvt (commandRecord 6 c z.tag.idx id) ∧ SameBytes s t) ∧
      (∀ va x y ws d, k.writes = (va, x) :: y :: ws → armTurn E k.tag = true → WritesTo s v va d → Fires (.bucketRetire c 1) s fun t =>
        (t.core c).eng = { E with bk := { b with ended := { k with writes := y :: ws } :: rest } } ∧ Wrote s t d (leBytes 4 x.toNat))) ∧
    (∀ num key l lead bs, openShares s c .bank = (num, key) :: l → s.engineLive c = true → key.lead < 24 → key.mcast.getLsbD key.lead = true →
      let core (i : Nat) := c / 24 * 24 + i
      (∀ i, i < 24 → key.mcast.getLsbD i = true → ∃ m, (openShares s (core i) .bank).find? (·.2 == key) = some (m, key)) →
      (openShares s (core key.lead) .bank).find? (·.2 == key) = some (lead, key) → leaderRead (core key.lead) lead .bank s = .ok (.tile bs) →
      Fires (.sharedReadStart c .bank) s fun t => t.mem = s.mem ∧
        ∀ i m, i < 24 → key.mcast.getLsbD i = true → (openShares s (core i) .bank).find? (·.2 == key) = some (m, key) →
          ∀ k ∈ (t.core (core i)).eng.bk.queue, k.tag.num = m → ∀ r, k.op = .run r → r.data = some bs) ∧
    (∀ h z rest hb hd tile, s.Inv → (s.cluster h).sorts = z :: rest → z.written = none →
      let p := (s.partOf? h).getD 0
      let st := stackOfCluster h
      let at_ := bankBase st (if (s.part p).sel.getLsbD st then 0 else 1) + ((s.part p).regs.pwb.getD st .none).base + z.slot * 64
      h < 192 → at_ + 2 ^ 16 ≤ lpBase → tget? (s.part p).swap st = none → issuerReady z.by_ s = true → z.view.read s z.src.toNat 64 = .ok hb → tileHeader? 1 hb = some hd →
      z.view.read s z.src.toNat (codeTileSize hd.ng hd.bits) = .ok tile → s.ownedRange at_ (bankTileSize hd.ng) = true → z.ctl.baren = false → z.ctl.recEvt = false →
      Fires (.sortComplete h) s fun t => (t.cluster h).sorts = rest ∧ t.bytes at_ (bankTileSize hd.ng) = bankTile hd tile ∧
        ∀ d, (d < at_ ∨ at_ + bankTileSize hd.ng ≤ d) → t.byte d = s.byte d)

/-- 10 R279-R288; 07 R188; 04 R114; 11 R328: what the dense engine, a tile move and the resolution of a prediction do: a product works through K and is committed with its flags; DCLR, DBYP and DDRAIN act in order and retire; a product on a predicted arm makes its reads only; a drain that has begun goes on though the engine is stopped; a tile move moves 64 rows; a right guess stands with its commands, a wrong one is dropped. The model's own: operands are read at one event (log entry 28), held errors of an arm (21). -/
def Obligations.DenseEvents : Prop :=
  ∀ (c : Nat) (s : State),
    let a := Agent.execute c
    let u := s.task a
    let E := (s.core c).eng
    let n := E.dn
    let g := clusterOfCore c
    let v := s.view a
    let id := (s.task (.access c)).ident
    let On : Prop := n.run = true ∧ s.engineLive c = true
    (∀ k rest K keep entry trans oa ob fa fb x y, n.queue = k :: rest → k.tag.held = true → CanRecord s g k.tag.recEvt → On → k.op = .mma keep entry K 0 trans oa ob → oa.ready = true → ob.ready = true →
      oa.data = none → ob.data = none → legalOperand s (s.partOf a) oa.fe = some fa → legalOperand s (s.partOf a) ob.fe = some fb →
      operandBytes n v s oa fa true K = .ok x → operandBytes n v s ob fb false K = .ok y → Fires (.denseCommit c) s fun t => t.mem = s.mem ∧
        (t.core c).eng = { E with dn := { n with queue := { k with op := .mma keep entry K 0 trans { oa with data := some x } { ob with data := some y } } :: rest } }) ∧
    (∀ k rest, n.queue = k :: rest → k.tag.held = false →
      (∀ keep entry K asrc trans oa ob fa va fl fb d, k.op = .mma keep entry K asrc trans oa ob → On → oa.ready = true → ob.ready = true →
        sourceA c n asrc trans oa K s = .ok (fa, va, fl) → legalOperand s (s.partOf a) ob.fe = some fb → operandData c n s ob fb false K = .ok d →
        let pos := (n.base + entry) % 256
        0 < K → K < 2 ^ 16 → K % 32 = 0 → tget 0#32 n.store pos = BitVec.ofNat 32 (2 ^ 28 + K) → tget 0#32 n.store ((pos + 1) % 256) = 0#32 → CanRecord s g k.tag.recEvt →
        Fires (.denseCommit c) s fun t => (t.core c).eng = { E with dn := { n with bank := (t.core c).eng.dn.bank, dflags := (t.core c).eng.dn.dflags, empc := (pos + 1) % 256, queue := rest } } ∧
          Recorded s t g k.tag.recEvt (commandRecord 7 c k.tag.idx id) ∧ SameBytes s t ∧ (t.core c).vec = (s.core c).vec ∧
          (∀ j, n.dflags.getLsbD j = true → (t.core c).eng.dn.dflags.getLsbD j = true) ∧
          ∀ i j, i < 64 → j < 64 → tget 0#32 (t.core c).eng.dn.bank (64 * i + j) =
            (macElem va d.value (commandWidth fa fb) 0 K i j (if keep then tget 0#32 n.bank (64 * i + j) else 0#32)).1) ∧
      (∀ m, On → k.op = .clr → k.readDone = false → CanRecord s g k.tag.recEvt → Fires (.denseRetire c m) s fun t =>
        (t.core c).eng = { E with dn := { n with bank := [], dflags := 0#6, queue := rest } } ∧ Recorded s t g k.tag.recEvt (commandRecord 8 c k.tag.idx id) ∧ SameBytes s t) ∧
      (∀ m fe trans f, On → k.op = .byp fe trans → k.readDone = false → chainOperand s (s.partOf a) fe = some f → CanRecord s g k.tag.recEvt → Fires (.denseRetire c m) s fun t =>
        let w := downConvert n f trans
        (t.core c).eng = { E with dn := { n with byp := w.elems, bypScale := w.scales, bypZero := w.zeros, bypfe := fe, bypt := trans, dflags := n.dflags ||| w.flags, queue := rest } } ∧
          Recorded s t g k.tag.recEvt (commandRecord 8 c k.tag.idx id) ∧ SameBytes s t) ∧
      (∀ A st fe btr byp clr f, On → k.op = .drain A st fe btr byp clr → k.readDone = false → s.ftEntry (s.partOf a) fe = some f → f.scale = 0 → 4 ≤ f.elem.width →
        Fires (.denseRetire c 0) s fun t => SameBytes s t ∧ (t.core c).eng.dn.bank = (if clr then [] else n.bank) ∧
          ∃ z, (t.core c).eng.dn.queue = z :: rest ∧ z.readDone = true ∧ z.op = k.op ∧ z.tag = k.tag ∧ z.writes.length = 64 * (2 * f.elem.width) ∧
            (∀ i x, i < 64 → x < 2 * f.elem.width → (z.writes[2 * f.elem.width * i + x]?).map (·.1) =
              some (A + BitVec.ofNat 64 (i * (if st = 0 then 8 * f.elem.width else st) + 4 * x))) ∧
            (f.elem = .fp32 → ∀ i x, i < 64 → x < 64 →
              (z.writes[64 * i + x]?).map (·.2) = some (BitVec.ofNat 32 (convert (tget 0#32 n.bank (64 * i + x)).toNat .fp32 .fp32 f.mode).1))) ∧
      (∀ va x y ws d, s.Inv → (∃ A st fe btr byp clr, k.op = .drain A st fe btr byp clr) → k.readDone = true → armTurn E k.tag = true → k.writes = (va, x) :: y :: ws → WritesTo s v va d →
        Fires (.denseRetire c 1) s fun t => (t.core c).eng = { E with dn := { n with queue := { k with writes := y :: ws } :: rest } } ∧ Wrote s t d (leBytes 4 x.toNat))) ∧
    (∀ z rest, E.tiles = z :: rest → z.tag.held = false → s.engineLive c = true → armTurn E z.tag = true → CanRecord s g z.tag.recEvt →
      let addr (i : Nat) : Nat := (z.base.toNat + i * z.stride) % 2 ^ 64
      let place (i k : Nat) : Nat := if z.trans then 64 * k + i else 64 * i + k
      let Moved (t : State) : Prop := (t.core c).eng = { E with tiles := rest } ∧ Recorded s t g z.tag.recEvt (commandRecord 3 c z.tag.idx id)
      (∀ row : Nat → List Byte, z.toMem = false → z.rows = none → (∀ i, i < 64 → v.read s (addr i) 256 = .ok (row i)) → Fires (.txferComplete c) s fun t => Moved t ∧ SameBytes s t ∧
        (∀ i k, i < 64 → k < 64 → tget 0#32 (tget [] (t.core c).vec.t z.tile.val) (place i k) = BitVec.ofNat 32 (leValue (((row i).drop (4 * k)).take 4))) ∧
        (∀ m, m ≠ z.tile.val → tget [] (t.core c).vec.t m = tget [] (s.core c).vec.t m) ∧ (t.core c).vec.v = (s.core c).vec.v) ∧
      (∀ b : Nat → Nat, s.Inv → z.toMem = true → (∀ i k, i < 64 → k < 64 → WritesTo s v (BitVec.ofNat 64 (addr i + 4 * k)) (b (64 * i + k)) ∧ addr i + 256 ≤ 2 ^ 64 ∧ s.expired (b (64 * i + k)) = false) →
        (∀ i k, i < 4096 → k < 4096 → i ≠ k → b i + 4 ≤ b k ∨ b k + 4 ≤ b i) → Fires (.txferComplete c) s fun t => Moved t ∧ (t.core c).vec = (s.core c).vec ∧
        (∀ i k, i < 64 → k < 64 → t.value (b (64 * i + k)) 4 = (tget 0#32 (tget [] (s.core c).vec.t z.tile.val) (place i k)).toNat) ∧
        (∀ d, (∀ i, i < 4096 → d < b i ∨ b i + 4 ≤ d) → t.byte d = s.byte d))) ∧
    (∀ m, s.task? a = some u → u.x.arm = some m →
      ((u.preds.getLsbD m.pred.val == m.sense) = m.taken → (s.core c).armFaults = [] → Fires (.predictionResolve c) s fun t =>
        t.task a = { u with x := { u.x with unlanded := u.x.unlanded.filter (· ≠ m.pred), arm := none } } ∧ (t.core c).eng = releaseHeld E ∧ t.mem = s.mem) ∧
      ((u.preds.getLsbD m.pred.val == m.sense) ≠ m.taken → Fires (.predictionResolve c) s fun t =>
        (t.task a).x.arm = none ∧ (t.task a).x.pc = m.other ∧ (t.task a).x.clk = u.x.clk + 4 ∧ (t.task a).x.rep = 0 ∧ (t.task a).regs = u.regs ∧ (t.task a).preds = u.preds ∧
        (t.core c).eng = dropHeld E ∧ t.mem = s.mem ∧ tget 0 (t.core c).ctr CoreCtr.mispcount.num = (tget 0 (s.core c).ctr CoreCtr.mispcount.num + 1) % 2 ^ 64))

/-! Events of time, of timetables and of tasks. -/

/-- 00 R3; 11 R305-R307, R313; 12 R341; 01 R31: an interval opens and the frame counter advances, unless a launch holds it whose current frame has not ended, which is marked complete at that moment if it is; nodes are released when their tick has come and their dependences have retired; frames complete; delayed pushes and evaluations release jigs; rings refill their queues; level-4 phases. The model's own: the time of events (log entry 78), predicates in expired pages, banks and veneers (52), a level-4 device without members (49). -/
def Obligations.FrameEvents : Prop :=
  ∀ (p : Nat) (s : State),
    let now := (s.modl.frame + 1) % 2 ^ 48
    let Holds (q : Nat) : Prop := q < 24 ∧ ∃ l, (s.part q).launch = some l ∧ { l with complete := l.complete || l.closes s }.holds s.modl.frame = true
    let Due (q : Nat) : Prop := q < 24 ∧ ∃ l i n, (s.part q).launch = some l ∧ l.tt.nodes[i]? = some n ∧ l.phase = .active ∧ n.runs l.frame = true ∧
      tget .waiting l.nodes i = .waiting ∧ s.reached ((l.frameStart l.frame + n.relt) % 2 ^ 48) = true ∧
      ∀ d ∈ n.deps, ∀ m, l.tt.nodes[d]? = some m → m.runs l.frame = true → tget .waiting l.nodes d = .done
    let Owed (q : Nat) : Prop := q < 24 ∧ ∃ l d, (s.part q).launch = some l ∧ l.phase = .active ∧ d ∈ l.delayed ∧ s.reached d.due = true
    (∀ sensors soft broken, Fires (.intervalPulse sensors soft broken) s fun t =>
      t.modl.intcnt = (s.modl.intcnt + 1) % 2 ^ 48 ∧ t.plat.forceB = s.plat.bshare ∧ t.plat.forceD = s.plat.dshare) ∧
    (∀ sensors soft broken, (∀ q, q < 24 → (s.part q).launch = none) → Fires (.intervalPulse sensors soft broken) s fun t => ∀ k ∈ broken, k ∈ t.attr.ecc) ∧
    (∀ sensors soft broken, (¬ ∃ q, Due q) → (¬ ∃ q, Owed q) → Fires (.intervalPulse sensors soft broken) s fun t =>
      (s.modl.slip = true → (∃ q, Holds q) → t.modl.frame = s.modl.frame ∧ t.modl.slip = true) ∧
      (s.modl.slip = true → (¬ ∃ q, Holds q) → t.modl.frame = now ∧ t.modl.slip = false) ∧
      (s.modl.slip = false → (∃ q, Holds q) → t.modl.frame = s.modl.frame ∧ t.modl.slip = true) ∧
      (s.modl.slip = false → (¬ ∃ q, Holds q) → t.modl.frame = now ∧ t.modl.slip = false ∧
        ∀ q l, q < 24 → (s.part q).launch = some l → ∃ l', (t.part q).launch = some l' ∧ l'.phase = l.phase ∧ l'.jigs = l.jigs ∧
          l'.frame = if l.phase = .active ∧ now = l.frameStart (l.frame + 1) ∧ l.frame + 1 < l.tt.nframe then l.frame + 1 else l.frame)) ∧
    (∀ l, (s.part p).launch = some l →
      (∀ t0, l.slipAt = some t0 → s.modl.slip = true → l.holds s.modl.frame = true → l.tt.framelen ≤ (s.modl.intcnt + 2 ^ 48 - t0) % 2 ^ 48 →
        CanRecord s (s.lowCluster p) true → Fires (.slipRepeat p) s fun t => (t.part p).launch = some { l with slipAt := some s.modl.intcnt } ∧
          Recorded s t (s.lowCluster p) true { kind := 0xB, src := 31, stat := 0, idx := openJigs l, data := BitVec.ofNat 64 l.frame }) ∧
      (l.phase = .active → l.complete = false → s.reached (l.frameStart l.frame) = true →
        (∀ i n, l.tt.nodes[i]? = some n → n.runs l.frame = true → tget .waiting l.nodes i = .done) → (∀ x ∈ l.jigs, x.2.frame ≠ l.frame) → (∀ d ∈ l.delayed, s.reached d.due = false) →
        (s.modl.slip = false → Fires (.frameComplete p) s fun t => OnlyLaunch p s t { l with complete := true } ∧ t.modl.frame = s.modl.frame ∧
          ∀ g, l.group = some g → Told t g none .frameDone [l.frame, g.rank]) ∧
        (s.modl.slip = true → l.group = none → (∀ q l', q < 24 → q ≠ p → (s.part q).launch = some l' → l'.holds s.modl.frame = false) → p < 24 → Fires (.frameComplete p) s fun t => t.modl.frame = now ∧ t.modl.slip = false)) ∧
      ((∃ x ∈ l.jigs, x.2.frame = l.frame) ∨ (∃ d ∈ l.delayed, s.reached d.due = true) → Idle (.frameComplete p) s) ∧
      (∀ i n, l.phase = .active → l.tt.nodes[i]? = some n → n.runs l.frame = true → tget .waiting l.nodes i = .waiting →
        let base := (l.frameStart l.frame + n.relt) % 2 ^ 48
        (s.reached base = false → Idle (.nodeRelease p i) s) ∧
        ((∃ d ∈ n.deps, ∃ m, l.tt.nodes[d]? = some m ∧ m.runs l.frame = true ∧ tget .waiting l.nodes d ≠ .done) → Idle (.nodeRelease p i) s) ∧
        (s.reached base = true → (∀ d ∈ n.deps, ∀ m, l.tt.nodes[d]? = some m → m.runs l.frame = true → tget .waiting l.nodes d = .done) →
          let Releases : Prop := (iterations l n.jrec).2 ≠ 0 → Fires (.nodeRelease p i) s fun t => Released p s t l n.jrec (.node i) [] ∧
            ∃ l', (t.part p).launch = some l' ∧ tget .waiting l'.nodes i = .released
          (n.cond = false → Releases) ∧
          (∀ b, n.cond = true → predicateAddr s p l n base = some b → s.owned b = true → s.eccHit b 4 = false → s.expired b = false →
            ((s.value b 4 = 0 ↔ n.pinv = true) → Releases) ∧
            (¬ (s.value b 4 = 0 ↔ n.pinv = true) → Fires (.nodeRelease p i) s fun t => OnlyLaunch p s t { l with nodes := tput l.nodes i .done })))) ∧
      (∀ pre d post, l.phase = .active → l.delayed = pre ++ d :: post → (∀ e ∈ pre, s.reached e.due = false) → s.reached d.due = true → (iterations l d.jrec).2 ≠ 0 →
        Fires (.jpushDue p) s fun t => Released p s t l d.jrec .pool d.lineage ∧ ∃ l', (t.part p).launch = some l' ∧ l'.delayed = pre ++ post) ∧
      ((∀ d ∈ l.delayed, s.reached d.due = false) → Idle (.jpushDue p) s)) ∧
    (∀ port frame rank l g, (s.port port).owner? = some p → (s.port port).direct = true → (s.part p).launch = some l → l.group = some g → l.phase ≠ .discarding → (frame, rank) ∉ l.frameDone →
      rank ≠ g.rank → rank < g.size → s.modl.slip = false → Fires (.frameDone port frame rank) s fun t =>
        OnlyLaunch p s t { l with frameDone := (frame, rank) :: l.frameDone } ∧ Told t g (some port) .frameDone [frame, rank]) ∧
    (∀ port count rank l g, (s.port port).owner? = some p → (s.port port).direct = true → (s.part p).launch = some l → l.group = some g → l.phase ≠ .discarding →
      let x := l.phaseOf 4000
      (count, rank) ∉ x.ranks → rank ≠ g.rank → rank < g.size →
        ((∃ m ∈ phaseMembers s p l 4 0, m ∉ x.arrived) → Fires (.level4PhaseMessage port count rank) s fun t =>
          OnlyLaunch p s t { l with phases := tput l.phases 4000 { x with ranks := (count, rank) :: x.ranks } } ∧ Told t g (some port) .phase [count, rank]) ∧
        (phaseMembers s p l 4 0 ≠ [] → (∀ m ∈ phaseMembers s p l 4 0, m ∈ x.arrived) → (∀ r, r < g.size → (x.count, r) ∈ (count, rank) :: x.ranks) →
          Fires (.level4PhaseMessage port count rank) s fun t => ∃ l', (t.part p).launch = some l' ∧ (l'.phaseOf 4000).count = (x.count + 1) % 2 ^ 32 ∧ (l'.phaseOf 4000).arrived = [])) ∧
    (∀ g q k, s.partOf? g = some p → k = s.queue g q → q < 16 →
      let size := Nat.max 1 (ringSize (s.qdesc p q))
      let at_ := ringAddr s p (s.qdesc p q) g 32 (k.head % size)
      let field (o n : Nat) : Nat := leValue (((s.bytes at_ 32).drop o).take n)
      s.owned at_ = true → s.eccHit at_ 32 = false →
      (∀ e rest l, (s.qdesc p q).mode = 1 → (s.part p).launch = some l → k.dispRing = e :: rest → rest.head? ≠ some none → k.disp.length < 32 → k.dispWait = [] →
        Fires (.queueRefill g q) s fun t => t.mem = s.mem ∧ ∃ x : DEntry,
          QueueIs s t g q { k with disp := k.disp ++ [x], dispRing := rest, head := (k.head + 1) % size, count := k.count - 1 } ∧
          x.prio = field 2 1 ∧ x.sel = BitVec.ofNat 4 (field 3 1) ∧ x.frame = field 4 4 ∧ x.rtick = field 8 8 ∧ x.age = 0 ∧
          (∀ id j, e = some id → tget? l.jigs id = some j → j.slot = field 0 2 → x.jig = some id)) ∧
      ((s.qdesc p q).mode = 2 → 0 < k.count → k.data.length < 32 → Fires (.queueRefill g q) s fun t => t.mem = s.mem ∧
          QueueIs s t g q { k with data := k.data ++ [s.bytes at_ 32], head := (k.head + 1) % size, count := k.count - 1 })) ∧
    (∀ g, s.partOf? g = some p →
      let k := (s.cluster g).evq
      let size := Nat.max 1 (ringSize (s.evqd p))
      let at_ := ringAddr s p (s.evqd p) g 16 (k.head % size)
      0 < k.count → k.hw.length < 128 → s.owned at_ = true → s.eccHit at_ 16 = false → (s.cluster g).evWait = [] → Fires (.queueRefill g 16) s fun t => t.mem = s.mem ∧
        (t.cluster g).evq = { hw := k.hw ++ [EvRec.ofBytes (s.bytes at_ 16)], head := (k.head + 1) % size, count := k.count - 1 }) ∧
    (∀ g ev rest l bs s', s.partOf? g = some p → (s.cluster g).evals = ev :: rest → (s.part p).launch = some l → l.phase = .active →
      (ev.jig = none ∧ dRead p g (.evaluation ev.cell) (fieldOf ev.rec_ 0 8) 64 s = .ok bs s' ∨ ev.jig = some bs ∧ s' = s) → (s'.part p).launch = some l →
      let dom := hintDomain (fieldOf ev.rec_ 0x10 4) g ev.loader
      let j := { JigRec.ofBytes bs with level := dom.1, dsel := dom.2 }
      let k := { j with prio := bitsOf (fieldOf ev.rec_ 0x14 1) 2 0, arg := ev.va }
      (jigOk s' p l bs j = true → l.poolFree = true → (iterations l k).2 ≠ 0 → Fires (.evaluationStart g) s fun t =>
        Released p s' t l k (.cell ev.cell) ev.lineage ∧ (t.cluster g).evals = rest ∧
        ∀ l' J, (t.part p).launch = some l' → tget? l'.jigs l.nextJig = some J → J.argp = BitVec.ofNat 64 (fieldOf ev.rec_ 8 8)) ∧
      (jigOk s' p l bs j = true → l.poolFree = false → Fires (.evaluationStart g) s fun t =>
        (t.cluster g).evals = { ev with jig := some bs } :: rest ∧ (t.part p).launch = some l ∧ t.mem = s'.mem) ∧
      (jigOk s' p l bs j = false → Fires (.evaluationStart g) s fun t => t.cellSt ev.cell = .failed))

/-- 01 R22-R28; 11 R316-R319: a free staged context takes the best candidate, its task starts with the indices of its iteration in its registers; a loaded task is STAGED, and RUNNING once the running context is free, with VL and FSR reset and the engines stopped; a parked task that was woken is restored from the bytes of its park slot, which is free again; a task of another launch finds a core of zeros, its gather buffer too; a task whose streams have ended and whose accesses and commands are done retires; a waiting task is parked once another task is staged or released for a domain of its core. The model's own: what retirement and parking wait for (log entry 50). -/
def Obligations.TaskEvents : Prop :=
  ∀ (c p : Nat) (s : State) (l : Launch),
    let g := clusterOfCore c
    let k := s.core c
    let a := Agent.access c
    let cs := candidates s p c l
    s.Inv → s.partOf? g = some p → (s.part p).launch = some l → l.phase = .active → (s.part p).pstate = .active →
      (k.stagedCtx.state ≠ .free → Idle (.selection c) s) ∧
      (k.stagedCtx.state = .free → claimBack s p l c = none → wokenTask s p l c = none →
        (cs = [] → Idle (.selection c) s) ∧
        (∀ b id, best s (s.cluster g).lastq cs = some b → b.entry.jig = some id → b ∈ cs ∧ (∀ d ∈ cs, before s (s.cluster g).lastq d b = false) ∧
          (b.jig.next + 1 ≠ b.jig.count → Fires (.selection c) s fun t =>
            ∃ z, (t.core c).stagedCtx = { state := .loading false, task := z, saved := none } ∧ (t.core c).running = k.running ∧ (t.cluster g).lastq = b.q ∧
              z.jig = id ∧ z.sels = b.entry.sel ∧ z.iter = [b.jig.first + b.jig.next] ∧ z.ident = taskIdent p (s.seqOf p) g (s.cluster g).seq ∧
              z.a.pc = b.jig.jrec.aentry ∧ z.x.pc = b.jig.jrec.xentry ∧ z.window = l.windows.getD b.jig.jrec.window [] ∧ z.lineage = b.jig.lineage ∧ z.jarg = b.jig.jrec.arg ∧
              (∀ i, i < 6 → tget 0#64 z.regs i = BitVec.ofNat 64 ((indices b.jig.jrec (b.jig.first + b.jig.next)).getD i 0)) ∧
              (∃ l', (t.part p).launch = some l' ∧ ∀ J, tget? l.jigs id = some J → tget? l'.jigs id = some { J with next := J.next + 1, open_ := J.open_ + 1 })))) ∧
      (∀ x, k.stagedCtx.state = .free → claimBack s p l c = none → wokenTask s p l c = some x → cs = [] → Fires (.selection c) s fun t =>
        (t.core c).stagedCtx = { state := .loading true, task := x.image.task, saved := some x.image.core }) ∧
      (k.stagedCtx.state = .loading false → Fires (.loadingComplete c) s fun t => (t.core c).stagedCtx = { k.stagedCtx with state := .staged } ∧ (t.core c).running = k.running ∧
        OnlyLaunch p s { t with cores := s.cores } l) ∧
      (∀ x, k.stagedCtx.state = .loading true → l.parked.find? (fun x => x.core == c && x.image.task.ident == k.stagedCtx.task.ident) = some x →
        let pages := slotPages l g x.slot
        pages.all s.owned = true → imageError pages s = none → Fires (.loadingComplete c) s fun t => t.mem = s.mem ∧
          (t.core c).stagedCtx = { state := .staged, task := readControl (readPages pages 0 0x208 s) k.stagedCtx.task, saved := some (readImage pages x.image.core s) } ∧
          ∃ l', (t.part p).launch = some l' ∧ l'.parked = l.parked.filter (· ≠ x)) ∧
      (k.running.state ≠ .free → Idle (.contextSwitch c) s) ∧
      (k.running.state = .free → k.stagedCtx.state = .staged → k.stagedCtx.saved = none → Fires (.contextSwitch c) s fun t =>
        t.task? a = some k.stagedCtx.task ∧ (t.core c).stagedCtx = k.running ∧ (t.core c).vec.vcfg = 0x400#64 ∧ (t.core c).vec.fsr = 0#64 ∧
        (t.core c).eng.bk.run = false ∧ (t.core c).eng.dn.run = false ∧ (t.core c).dmr = k.dmr ∧ t.parts = s.parts ∧
        ((∀ r ∈ s.attr.undef, lpBase ≤ r.lo) → ∀ d, d < gbufBase c ∨ gbufBase (c + 1) ≤ d → t.byte d = s.byte d) ∧
        (k.lastLaunch = some (p, s.seqOf p) → t.mem = s.mem ∧ (t.core c).vec.v = k.vec.v ∧ (t.core c).vec.m = k.vec.m ∧ (t.core c).vec.t = k.vec.t ∧ (t.core c).vec.ps = k.vec.ps) ∧
        (k.lastLaunch ≠ some (p, s.seqOf p) → (t.core c).vec = VecState.reset ∧ (t.core c).eng = .reset ∧
          ((∀ r ∈ s.attr.undef, lpBase ≤ r.lo) → ∀ d, gbufBase c ≤ d → d < gbufBase (c + 1) → t.byte d = 0#8))) ∧
      (∀ x, k.running.state = .free → k.stagedCtx.state = .staged → k.stagedCtx.saved = some x → k.stagedCtx.task.a.loads = [] → Fires (.contextSwitch c) s fun t =>
        t.task? a = some (scoreboardTask k.stagedCtx.task) ∧ (t.core c).vec = x.vec ∧ (t.core c).eng = x.eng) ∧
      (∀ u, s.task? a = some u →
        ((u.a.ended && u.x.ended && u.a.loads.isEmpty && u.a.stores.isEmpty && u.a.pend.isEmpty && u.x.arm.isNone && enginesIdle k.eng) = false → Idle (.retirement c) s) ∧
        ((u.a.ended && u.x.ended && u.a.loads.isEmpty && u.a.stores.isEmpty && u.a.pend.isEmpty && u.x.arm.isNone && enginesIdle k.eng) = true →
          ∀ J, tget? l.jigs u.jig = some J → u.jig < l.nextJig → J.jrec.retrec = false → J.source = .pool →
            Fires (.retirement c) s fun t => t.task? a = none ∧ (t.core c).running = .free ∧ (t.core c).stagedCtx = k.stagedCtx ∧
              ∃ l', (t.part p).launch = some l' ∧ tget? l'.jigs u.jig =
                if J.next = J.count ∧ J.open_ - 1 = 0 ∧ J.claims = [] then none else some { J with open_ := J.open_ - 1 }) ∧
        (∀ i, l.lrec.parken = true → u.a.loads ≠ [] → (∀ x ∈ u.a.loads, x.waiting = true ∧ x.answer = none) → u.a.stores = [] → enginesIdle k.eng = true → u.x.arm = none → u.brk = false →
          k.stagedCtx.state = .staged ∨ releasedFor s p c l = true → freeSlot l g = some i → (slotPages l g i).all s.owned = true → Fires (.park c) s fun t =>
            (t.core c).running = .free ∧ (t.core c).stagedCtx = k.stagedCtx ∧ ∃ l' x, (t.part p).launch = some l' ∧ l'.parked = l.parked ++ [x] ∧ x.core = c ∧ x.slot = i ∧
              x.image.task = u ∧ x.image.core.vec = k.vec ∧ x.image.core.eng = k.eng ∧ x.back = false))
/-! Launches (01 R20, R21, R36; 05 R118; 11 R308; 15 R415). -/

/-- 15 R415; 01 R20, R21, R36; 05 R118; 11 R308: a write to SUBMIT is rejected or its launch waits; the oldest waiting launch starts, or is refused with its code; its exchanges must match in time; then it becomes active, with the memories and queues of its clusters cleared; it ends once its timetable, its jigs and its commands have. The model's own: structures are read at one event (log entry 51), LSEQ starts at 0 (45), REJECTED (44). -/
def Obligations.LaunchEvents : Prop :=
  ∀ (p fn : Nat) (v : W64) (s : State),
    ((s.boundTo fn = none ∨ s.serving = false ∨ v.toNat % 64 ≠ 0 ∨ 2 ^ 48 ≤ v.toNat ∨ (∃ q, s.boundTo fn = some q ∧ 16 ≤ ((s.part q).waiting.filter (·.fn == fn)).length)) →
      Fires (.submit fn v) s fun t => (t.fn fn).lstat = (s.fn fn).lstat ||| 0x40000000#64 ∧ t.parts = s.parts ∧ t.mem = s.mem) ∧
    (s.boundTo fn = some p → s.serving = true → v.toNat % 64 = 0 → v.toNat < 2 ^ 48 → ((s.part p).waiting.filter (·.fn == fn)).length < 16 →
      Fires (.submit fn v) s fun t => t.fn fn = s.fn fn ∧ (t.part p).lastFn = some fn ∧
        ∃ x, (t.part p).waiting = (s.part p).waiting ++ [x] ∧ x.fn = fn ∧ x.addr = v.toNat) ∧
    ((s.part p).waiting = [] ∨ (s.part p).launch ≠ none ∨ s.modl.hwHeld = true → Idle (.launchStart p) s) ∧
    (∀ x rest bs, (s.part p).waiting = x :: rest → x.bytes = some bs → (s.part p).launch = none → (s.part p).pstate = .idle → (s.part p).mig.state ≠ .receiving →
      s.clustersOf p ≠ [] → s.modl.hwHeld = false → s.serving = true →
      let s0 := s.modPart p fun pt => { pt with waiting := x :: rest }
      (recordOk bs = false → Fires (.launchStart p) s fun t =>
        (t.part p).waiting = rest ∧ (t.part p).launch = none ∧ Reported s t x.fn (fieldOf bs 0 4) 1 ∧ t.mem = s.mem) ∧
      (∀ code pgid s1, startLaunch p x s0 = .error (.refuse code pgid s1) → Fires (.launchStart p) s fun t =>
        (t.part p).waiting = rest ∧ (t.part p).launch = none ∧ Reported s t x.fn (fieldOf bs 0 4) code ∧
          (fieldOf bs 4 4 % 2 = 1 → ∀ n ∈ s.directPorts p, OutMsg.port n .refusalNotice [pgid] [] ∈ t.plat.out)) ∧
      (∀ l s1, startLaunch p x s0 = .ok (l, s1) → Fires (.launchStart p) s fun t =>
        (t.part p).waiting = rest ∧ (t.part p).launch = some { l with lseq := ((s.part p).lseq + 1) % 2 ^ 19 } ∧ l.phase = .starting ∧ l.fn = x.fn ∧
          l.lrec = LaunchRec.ofBytes bs ∧ ∀ g, l.group = some g → Told t g none .exchange [g.rank, g.pgid, g.crc.toNat])) ∧
    (∀ l, (s.part p).launch = some l →
      (p < 24 → l.phase = .starting → l.group = none → (∀ r ∈ s.attr.undef, lpBase ≤ r.lo) → Fires (.launchActivate p) s fun t =>
        (t.part p).launch = some { l with phase := .active, f0 := ((s.modl.frame / l.tt.framelen + 1) * l.tt.framelen) % 2 ^ 48 } ∧
        (t.part p).pstate = .active ∧ (t.part p).pins = [] ∧ (t.part p).logStale = true ∧ (∀ b, lpBase ≤ b → t.byte b = s.byte b) ∧
        ∀ g ∈ s.clustersOf p, (t.cluster g).queues = [] ∧ (t.cluster g).evq = .empty ∧ (t.cluster g).barriers = [] ∧ (t.cluster g).seq = 0 ∧
          (∃ z, (t.cluster g).ctl = some z ∧ z.a.pc = l.lrec.ctlbase ∧ z.window = l.windows.headD [] ∧ z.ident = taskIdent p l.lseq g 0xFFFFFFFF ∧
            tget 0#64 z.regs 0 = BitVec.ofNat 64 g) ∧
          (∀ b, clusBase g ≤ b → b < clusBase g + 2 ^ 24 → t.byte b = 0#8) ∧
          (∀ b, unitBase (24 * g) ≤ b → b < unitBase (24 * g + 24) → t.byte b = 0#8) ∧ (∀ b, gbufBase (24 * g) ≤ b → b < gbufBase (24 * g + 24) → t.byte b = 0#8) ∧
          ∀ i, i < 24 → ∀ k, k < 5 → (t.core (24 * g + i)).dmr.getLsbD (24 + k) = ((tget 1#5 l.dmap (24 * g + i)) ||| 1#5).getLsbD k) ∧
      (l.phase = .active → l.group = none → l.silent = false → (s.part p).pstate = .active → l.complete = true → l.tt.nframe ≤ l.frame + 1 → l.jigs = [] → l.delayed = [] → quietPart s p = true →
        Fires (.launchEnd p) s fun t => Ended p s t l 0 ∧ (t.part p).pstate = .idle ∧ (t.part p).pins = []) ∧
      (l.complete = false ∨ l.jigs ≠ [] ∨ quietPart s p = false → Idle (.launchEnd p) s) ∧
      ∀ g, l.phase = .starting → l.group = some g →
        (exchanged l = true → Fires (.launchActivate p) s fun t => (t.part p).pstate = .active ∧ ∃ l', (t.part p).launch = some l' ∧ l'.phase = .active ∧ l'.lrec = l.lrec) ∧
        (exchanged l = false → Idle (.launchActivate p) s) ∧
        (exchanged l = false → s.reached (l.startTick + 100000) = false → Idle (.pgtimeout p) s) ∧
        (exchanged l = false → s.reached (l.startTick + 100000) = true → Fires (.pgtimeout p) s fun t =>
          Ended p s t l 5 ∧ (l.lrec.multi = true → ∀ n ∈ s.directPorts p, OutMsg.port n .refusalNotice [g.pgid] [] ∈ t.plat.out)) ∧
        (∀ port want, (s.port port).owner? = some p → (s.port port).direct = true → tget? g.ports port = some want →
          (∀ rank pgid crc, (rank = want ∧ pgid = g.pgid ∧ crc = g.crc → Fires (.launchExchange port rank pgid crc) s fun t =>
              OnlyLaunch p s t { l with exchanged := port :: l.exchanged.filter (· ≠ port) }) ∧
            (¬ (rank = want ∧ pgid = g.pgid ∧ crc = g.crc) → Fires (.launchExchange port rank pgid crc) s fun t => Ended p s t l 4)) ∧
          (∀ pgid, (pgid = g.pgid ∨ pgid = 0 → Fires (.refusalNotice port pgid) s fun t => Ended p s t l 4) ∧
            (pgid ≠ g.pgid → pgid ≠ 0 → Idle (.refusalNotice port pgid) s))))

/-! Copy engines, page requests, caches (08 R208-R229, R236, R240; 13 R354). -/

/-- 08 R202, R208-R210, R225-R229, R240; 13 R354: an active CPT moves a piece of a row from its source to its destination; a page that is not there makes a page request, and the command waits; a command that has moved everything completes; requests are sent in groups and a response ends their wait or fails their commands; invalidations drop translations; FRADD pushes a frame, or waits for the ring's page. The model's own: a piece of a row is one event (log entry 28), cached leaves (35), host memory (34). -/
def Obligations.CopyEvents : Prop :=
  ∀ (p g e i n : Nat) (refused : Bool) (s : State),
    let fn := s.fnOf p
    let rs := (s.part p).preqs
    let regs := (s.part p).regs
    let new := (rs.filter fun r => r.group.isNone).take (Nat.min 16 ((s.fn fn).priAlloc - (rs.filterMap (·.group)).length))
    (∀ c, s.partOf? g = some p → (s.copyQueue g e)[i]? = some c →
      let Turn : Prop := i < activeLen (s.copyQueue g e) ∧ c.captured = false ∧ c.wait = none ∧ issuerReady c.by_ s = true
      let va := c.srcRow + c.x
      let dst := c.dstRow + c.x
      let len := pieceLen c.dstRow c.x c.d.xn n
      let db := dbytesOf s p c.op c.d
      let h := clusterOfCore c.by_.core
      let bar (u : State) := tget { count := 0, overrun := false } (u.cluster (c.ctl.bar / 64)).barriers (c.ctl.bar % 64)
      let Done (t : State) : Prop := t.copyQueue g e = ldel (s.copyQueue g e) i ∧
        Recorded s t h c.ctl.recEvt { commandRecord 1 c.by_.core c.by_.idx c.by_.task with stat := c.status % 2 ^ 16 } ∧
        (c.ctl.baren = true → bar t = if (bar s).count < db then { count := 0, overrun := true } else { bar s with count := (bar s).count - db }) ∧
        (c.ctl.baren = false → ∀ k, (t.cluster k).barriers = (s.cluster k).barriers)
      (∀ cached, activeLen (s.copyQueue g e) ≤ i ∨ c.captured = true ∨ (∃ page w, c.wait = some (.page page w)) ∨ c.done = true → Idle (.copyExecute g e i n cached refused) s) ∧
      (∀ cached a b, s.Inv → Turn → c.op = .cpt → c.done = false → c.x < c.d.xn → c.d.ssp = false → c.d.dsp = false → Sees s c.view p va len a → Lands s c.view p dst len b →
        Fires (.copyExecute g e i n cached refused) s fun t => Wrote s t b (s.bytes a len) ∧ ∃ c', CommandIs s t g e i c' ∧ c'.d = c.d ∧ c'.by_ = c.by_ ∧ c'.wait = none ∧
          (c'.row, c'.x) = if c.d.xn ≤ c.x + len then (c.row + 1, 0) else (c.row, c.x + len)) ∧
      (Turn → c.op = .cpt → c.done = false → c.x < c.d.xn → c.d.ssp = true → c.faults = [] → walk s p (va % 2 ^ 48) = .absent →
        Fires (.copyExecute g e i n false refused) s fun t => SameBytes s t ∧
          (∃ c', CommandIs s t g e i c' ∧ c'.wait = some (.page (va % 2 ^ 48 / 4096) false) ∧ c'.faulted = true ∧ c'.row = c.row ∧ c'.x = c.x) ∧
          ∃ r ∈ (t.part p).preqs, r.page = va % 2 ^ 48 / 4096 ∧ r.write = false) ∧
      (Turn → c.done = true → c.msg = none → c.d.resen = false → CanRecord s h c.ctl.recEvt → Fires (.copyComplete g e i) s fun t => Done t ∧ t.mem = s.mem) ∧
      (∀ b, s.Inv → Turn → c.done = true → c.msg = none → c.d.resen = true → Lands s c.view p c.d.res.toNat 32 b → CanRecord s h c.ctl.recEvt →
        Fires (.copyComplete g e i) s fun t => Done t ∧ Wrote s t b (resultBlock c db))) ∧
    (((s.fn fn).priOff = true ∨ new = [] ∨ (∀ k, k < 512 → k ∈ rs.filterMap (·.group)) → Idle (.pageRequestGroup p) s) ∧
      ((s.fn fn).priOff = false → new ≠ [] → (∃ k, k < 512 ∧ k ∉ rs.filterMap (·.group)) → Fires (.pageRequestGroup p) s fun t => t.mem = s.mem ∧ ∃ idx, idx < 512 ∧ idx ∉ rs.filterMap (·.group) ∧
        (t.part p).preqs = rs.map (fun r => if new.contains r then { r with group := some idx } else r) ∧ ∀ r ∈ new, ∃ last, OutMsg.pageReq fn (s.fn fn).pasid r.page r.write idx last ∈ t.plat.out)) ∧
    (∀ grp,
      let mine := rs.filter fun r => r.group = some grp
      let waits (c : CopyCmd) : Bool := mine.any fun r => c.wait = some (.page r.page r.write)
      (Fires (.pageResponse p grp .success) s fun t => (t.part p).preqs = (rs.filter fun r => r.group ≠ some grp) ∧ t.mem = s.mem ∧
        ∀ h k, s.hasCluster p h = true → t.copyQueue h k = (s.copyQueue h k).map fun c => if waits c then { c with wait := none } else c) ∧
      (∀ l, (s.part p).launch = some l → l.phase = .active → (∃ c ∈ allCopies p s, waits c = true) → (∀ c ∈ allCopies p s, s.partOf? (clusterOfCore c.by_.core) = some p) →
        (Fires (.pageResponse p grp .invalid) s fun t => Discarding p t ∧ (t.fn fn).priOff = (s.fn fn).priOff) ∧
        (Fires (.pageResponse p grp .failure) s fun t => Discarding p t ∧ (t.fn fn).priOff = true))) ∧
    (∀ alloc f, Fires (.pageRequestInterfaceEnable f alloc) s fun t => t.fn f = { s.fn f with priOff := false, priAlloc := alloc % 2 ^ 32, pasid := BitVec.ofNat 20 (alloc / 2 ^ 32), ats := bitOf alloc 52 } ∧ t.parts = s.parts ∧ t.mem = s.mem) ∧
    (∀ w : W64, (w.extractLsb' 0 6).toNat < 36 → Fires (.ceinv p w) s fun t => (t.part p).regs.ceinvBusy = true ∧
      (t.part p).inval = (s.part p).inval ++ [((w.extractLsb' 12 36).toNat, 2 ^ (w.extractLsb' 0 6).toNat)] ∧ t.mem = s.mem) ∧
    (Fires (.invalidationComplete p) s fun t => (t.part p).regs.ceinvBusy = false ∧ (t.part p).inval = [] ∧ t.mem = s.mem ∧
      ∀ h page, (∃ r ∈ (s.part p).inval, r.1 ≤ page ∧ page < r.1 + r.2) → tlbFind p page (t.cluster h).tlb = none) ∧
    (∀ f page k, Fires (.atsInvalidation f page k) s fun t => OutMsg.invalidated f ∈ t.plat.out ∧ t.mem = s.mem ∧
      ∀ h x, s.boundTo f = some p → x.part = p → locTgt x.leaf = 6 → locOff x.leaf / 4096 < page + k → page < locOff x.leaf / 4096 + x.pages →
        x ∉ (t.cluster h).tlb) ∧
    (∀ w : W64, ringOwned s p = false → (s.part p).mig.state ≠ .serving → Fires (.fradd p w) s fun t => (t.part p).pushes = (s.part p).pushes ++ [w.toNat] ∧ t.mem = s.mem) ∧
    (∀ (w : W64) a m, ringOwned s p = true → ddTable s p regs.ddring 8 = some (a, m) →
      (regs.ddCount < m → s.Inv → Fires (.fradd p w) s fun t => (t.part p).regs.ddCount = regs.ddCount + 1 ∧ Wrote s t (a + 8 * ((regs.ddHead + regs.ddCount) % m)) (leBytes 8 w.toNat)) ∧
      (m ≤ regs.ddCount → Fires (.fradd p w) s fun t => (t.part p).regs.ddOvf = true ∧ (t.part p).regs.ddCount = regs.ddCount ∧ t.mem = s.mem))
/-! Messages between devices (13 R358-R369; 14 R405). -/

/-- 13 R358, R362, R363, R368; 14 R404, R405: an exact message that arrives is written at the lowest armed entry that it matches, completes and is acknowledged; without an entry it is answered NOMATCH, and a repeated one is acknowledged again. At its sender an acknowledgement performs it, a refusal or a timeout ends the attempt, the next attempt follows after 64 ticks and the sixteenth is the last; a MOVED message waits for the redirect notice; all of it on a port in direct mode. A discard notice discards the launch of its group. The model's own: an exact message arrives at one event (log entry 54), redirects (61), late events (78). -/
def Obligations.ExactMessages : Prop :=
  ∀ (p port tag len pgid rank seq dl : Nat) (data : List Byte) (s : State),
    let arrives : Instr := .messageHeader port false tag len pgid rank seq dl data
    let answer (k : PortKind) : OutMsg := .port port k [seq] []
    ((s.port port).direct = true → channelBusy s port false = false →
      ((s.port port).lastAck = some seq → Fires arrives s fun t => answer .acknowledgement ∈ t.plat.out ∧ t.mem = s.mem ∧ t.parts = s.parts ∧ (t.port port).amt = (s.port port).amt) ∧
      ((s.port port).lastAck ≠ some seq → receiver s port pgid = none → hasLeft s port pgid = false → Fires arrives s fun t => answer .refused ∈ t.plat.out ∧ t.mem = s.mem ∧ t.parts = s.parts) ∧
      ((s.port port).lastAck ≠ some seq → receiver s port pgid = none → hasLeft s port pgid = true → Fires arrives s fun t => answer .moved ∈ t.plat.out ∧ t.mem = s.mem ∧ t.cores = s.cores ∧ t.clus = s.clus ∧
        ∀ q, (s.port port).owner? = some q → tget 0 (t.part q).ctr PartCtr.moved.num = (tget 0 (s.part q).ctr PartCtr.moved.num + 1) % 2 ^ 64) ∧
      ((s.port port).lastAck ≠ some seq → receiver s port pgid = some p →
        ((∀ x ∈ (s.port port).amt, ¬ (x.2.state = .armed ∧ x.2.kerf = false ∧ x.2.tag = tag ∧ x.2.len = len)) → Fires arrives s fun t =>
          answer .noMatch ∈ t.plat.out ∧ t.mem = s.mem ∧ t.parts = s.parts ∧ (t.port port).amt = (s.port port).amt) ∧
        (∀ i e b, s.Inv → matchEntry s port false tag len = some (i, e) → e.maska = 0#64 → entryOwned e s = true → data.length = len → Lands s e.view (s.partOf e.view.a) e.buf.toNat len b →
          let Arrived (t : State) : Prop := Wrote s t b data ∧ answer .acknowledgement ∈ t.plat.out ∧ (t.port port).lastAck = some seq ∧
            tget? (t.port port).amt i = some { e with state := if e.persist then .armed else .idle }
          (e.jrec = none → Fires arrives s Arrived) ∧
          (∀ j l, e.jrec = some j → (s.part p).launch = some l → l.poolFree = true → (iterations l { j with arg := e.arg }).2 ≠ 0 → Fires arrives s fun t =>
            (t.port port).lastAck = some seq ∧ tget? (t.port port).amt i = some { e with state := if e.persist then .armed else .idle } ∧ answer .acknowledgement ∈ t.plat.out ∧
            ∃ l' J, (t.part p).launch = some l' ∧ l'.nextJig = l.nextJig + 1 ∧ tget? l'.jigs l.nextJig = some J ∧ J.jrec = { j with arg := e.arg } ∧ J.source = .pool ∧ J.rtick = s.modl.frame ∧ J.lineage = [])))) ∧
    (channelBusy s port false = true ∨ (s.port port).direct = false → Idle arrives s) ∧
    (∀ g e i c m, (s.copyQueue g e)[i]? = some c → c.msg = some m →
      let Becomes (c' : CopyCmd) (t : State) : Prop := CommandIs s t g e i c' ∧ t.mem = s.mem
      (∀ t0, m.phase = .sent t0 →
        ((s.port m.port).direct = true →
          Fires (.acknowledgement g e i) s (Becomes { c with row := 1, msg := some { m with phase := .acked } }) ∧
          Fires (.nomatch g e i) s (Becomes { c with msg := some { m with phase := .backoff s.modl.frame } }) ∧
          Fires (.moved g e i) s (Becomes { c with msg := some { m with phase := .moved } })) ∧
        ((s.port m.port).direct = false → Idle (.acknowledgement g e i) s ∧ Idle (.nomatch g e i) s ∧ Idle (.moved g e i) s) ∧
        (s.reached (t0 + 256) = true → Fires (.attemptTimeout g e i) s (Becomes { c with msg := some { m with phase := .backoff s.modl.frame } })) ∧
        (s.reached (t0 + 256) = false → Idle (.attemptTimeout g e i) s)) ∧
      (∀ t0, m.phase = .backoff t0 →
        (s.reached (t0 + 64) = false → Idle (.newAttempt g e i) s) ∧
        (s.reached (t0 + 64) = true → m.attempts < 16 → m.kerf = false → Fires (.newAttempt g e i) s fun t =>
          Becomes { c with msg := some { m with attempts := m.attempts + 1, phase := .sent s.modl.frame } } t ∧
          ((s.port m.port).direct = true → OutMsg.port m.port .exact (m.words s ((s.partOf? g).getD 0)) m.bytes ∈ t.plat.out) ∧
          ((s.port m.port).direct = false → t.plat.out = s.plat.out)) ∧
        (∀ l, s.reached (t0 + 64) = true → 16 ≤ m.attempts → s.partOf? (clusterOfCore c.by_.core) = some p → (s.part p).launch = some l → Fires (.newAttempt g e i) s fun t =>
          LoggedCode p s t .msgfail ∧ Discarding p t)) ∧
      (∀ dest, m.phase = .moved → m.kerf = false → (s.port dest).direct = true → (s.port dest).owner? = some p → g ∈ s.clustersOf p → e < 4 → Fires (.redirectNotice m.port dest) s fun t =>
        (t.copyQueue g e)[i]? = some { c with msg := some { m with port := dest, phase := .sent s.modl.frame } } ∧ OutMsg.port dest .exact (m.words s p) m.bytes ∈ t.plat.out ∧ t.mem = s.mem)) ∧
    ((s.port port).direct = false → Idle (.discardNotice port pgid) s) ∧
    (∀ l, (s.port port).direct = true → (s.port port).owner? = some p → (s.part p).launch = some l →
      (l.group.map (·.pgid) = some pgid → Fires (.discardNotice port pgid) s fun t => OnlyLaunch p s t { l with phase := .discarding } ∧ (t.part p).traplog = (s.part p).traplog) ∧
      (l.group.map (·.pgid) ≠ some pgid → (s.part p).held = none → Idle (.discardNotice port pgid) s))

/-- 13 R364, R365, R368, R369: a kerf header that matches an armed entry starts its reception, another one's blocks are dropped; a valid block is written once; at the end marker or the deadline the message completes with zeros for its missing blocks, and later blocks are late, whether the event of the deadline has come or not; an armed entry completes at its ETICK; all of it on a port in direct mode. The model's own: late events (log entry 78), messages for a launch that stops (56). -/
def Obligations.KerfMessages : Prop :=
  ∀ (p port tag len pgid rank seq dl : Nat) (data : List Byte) (s : State),
    let header : Instr := .messageHeader port true tag len pgid rank seq dl data
    let next (e : AmtEntry) : AmtEntry := { e with state := if e.persist then .armed else .idle }
    ((s.port port).direct = true → channelBusy s port true = false →
      (∀ i e, receiver s port pgid = some p → matchEntry s port true tag len = some (i, e) → Fires header s fun t => t.mem = s.mem ∧
        tget? (t.port port).amt i = some { e with state := .receiving } ∧ (t.port port).kerf = .receiving { entry := i, h := s.modl.frame, dl := dl, rank := rank, got := [] }) ∧
      (receiver s port pgid = none ∨ matchEntry s port true tag len = none → Fires header s fun t => t.mem = s.mem ∧
        (t.port port).kerf = .dropping ∧ (t.port port).amt = (s.port port).amt ∧ tget 0 (t.port port).ctr PortCtr.knomatch.num = (tget 0 (s.port port).ctr PortCtr.knomatch.num + 1) % 2 ^ 64)) ∧
    ((s.port port).direct = false → Idle header s ∧ Idle (.endMarker port) s ∧ ∀ i valid, Idle (.kerfBlock port i valid data) s) ∧
    ((s.port port).direct = true → (s.port port).kerf = .ended → ∀ i valid, Fires (.kerfBlock port i valid data) s fun t => t.mem = s.mem ∧ tget 0 (t.port port).ctr PortCtr.klate.num = (tget 0 (s.port port).ctr PortCtr.klate.num + 1) % 2 ^ 64) ∧
    ((s.port port).kerf = .dropping → ∀ i valid, Idle (.kerfBlock port i valid data) s) ∧
    (∀ m e, (s.port port).kerf = .receiving m → tget? (s.port port).amt m.entry = some e → (s.port port).owner? = some p → entryOwned e s = true →
      let n := ceilDiv e.len 256
      let view := e.view
      let at_ (k : Nat) := e.buf.toNat + 256 * k
      let direct := (s.port port).direct
      let due := kerfDue port m s
      (∀ i valid, due = none → valid = false ∨ i ∈ m.got ∨ n ≤ i → Idle (.kerfBlock port i valid data) s) ∧
      (∀ i b, s.Inv → direct = true → due = none → i ∉ m.got → i < n → data.length = 256 → Lands s view (s.partOf view.a) (at_ i) 256 b → Fires (.kerfBlock port i true data) s fun t =>
        Wrote s t b data ∧ (t.port port).kerf = .receiving { m with got := i :: m.got }) ∧
      (e.jrec = none → e.maska = 0#64 →
        ((∀ i, i < n → i ∈ m.got) →
          (direct = true → Fires (.endMarker port) s fun t => t.mem = s.mem ∧ (t.port port).kerf = .idle ∧ tget? (t.port port).amt m.entry = some (next e)) ∧
          (due ≠ none → (Fires (.kerfDeadline port) s fun t => t.mem = s.mem ∧ (t.port port).kerf = .ended ∧ tget? (t.port port).amt m.entry = some (next e)) ∧
            (direct = true → ∀ i valid, Fires (.kerfBlock port i valid data) s fun t => t.mem = s.mem ∧ (t.port port).kerf = .ended ∧ tget? (t.port port).amt m.entry = some (next e) ∧
              tget 0 (t.port port).ctr PortCtr.klate.num = (tget 0 (s.port port).ctr PortCtr.klate.num + 1) % 2 ^ 64))) ∧
        (∀ k b, s.Inv → direct = true → k < n → k ∉ m.got → (∀ i, i < n → i ≠ k → i ∈ m.got) → Lands s view (s.partOf view.a) (at_ k) 256 b → Fires (.endMarker port) s fun t =>
          Wrote s t b (List.replicate 256 0#8) ∧ (t.port port).kerf = .idle ∧ tget? (t.port port).amt m.entry = some (next e) ∧
          tget 0 (t.port port).ctr PortCtr.kblklost.num = (tget 0 (s.port port).ctr PortCtr.kblklost.num + 1) % 2 ^ 64)) ∧
      (due = none → Idle (.kerfDeadline port) s)) ∧
    (∀ m d, (s.port port).kerf = .receiving m → (tget? (s.port port).amt m.entry).bind (·.etick?) = none → d = (m.h + m.dl) % 2 ^ 48 →
      kerfDue port m s = if s.reached d = true then some d else none) ∧
    (∀ entry e b, (s.port port).owner? = some p → tget? (s.port port).amt entry = some e → e.kerf = true → e.state = .armed → e.etick ≠ 0 → e.etick < 2 ^ 48 →
      (s.reached e.etick = false → Idle (.etick port entry) s) ∧
      (s.Inv → s.reached e.etick = true → entryOwned e s = true → e.jrec = none → e.maska = 0#64 → e.len = 256 → Lands s e.view (s.partOf e.view.a) e.buf.toNat 256 b → Fires (.etick port entry) s fun t =>
        Wrote s t b (List.replicate 256 0#8) ∧ tget? (t.port port).amt entry = some (next e)))
/-! Stopping, holding, resuming, discarding, migrating (14 R381-R407). -/

/-- 14 R381, R382, R387, R394-R400: PREEMPT stops an active launch; at its stop point it is saved, after PTIMEOUT it runs on; a saved launch is held, RESUME checks the suspension area and the restored launch is active with its ticks shifted; DISCARD discards the active launch, or the held one; a discarded launch leaves its cores, queues and partition; BRKGO continues a task at a break; SVCDONE answers a request. The model's own: bytes of an area that the spec gives no layout (log entry 13), parked tasks at a stop (58), RERR (59), shifted ticks (64). -/
def Obligations.StopEvents : Prop :=
  ∀ (p : Nat) (w : W64) (s : State),
    let pt := s.part p
    (∀ slot, (pt.mig.state ≠ .sending → pt.mig.state ≠ .serving → Fires (.svcdone p slot) s fun t => (t.part p).svc = (pt.svc.map fun r => if r.slot = slot then { r with done := true } else r) ∧ t.mem = s.mem ∧ t.cores = s.cores) ∧
      (pt.mig.state = .sending ∨ pt.mig.state = .serving → Idle (.svcdone p slot) s)) ∧
    (∀ id, Fires (.brkgo p id) s fun t => t.mem = s.mem ∧ t.parts = s.parts ∧ ∀ (a : Agent) u, a.cluster ∈ s.clustersOf p → s.task? a = some u →
      t.task? a = some (if u.ident = id ∧ u.brk = true then
        let v := scoreboardTask { u with brk := false }
        { v with acted := v.acted || !v.isWaiting } else u)) ∧
    (∀ l, pt.launch = some l → l.phase = .active → w.extractLsb' 0 3 = 0#3 →
      (pt.pstate = .active → pt.held = none → suspArea s p = none → Fires (.preempt p w) s fun t => (t.part p).regs.tout = true ∧ (t.part p).pstate = .active ∧ (t.part p).launch = some l ∧ t.cores = s.cores) ∧
      (pt.pstate = .active → pt.held = none → suspArea s p ≠ none → Fires (.preempt p w) s fun t =>
        (t.part p).pstate = .stopping ∧ (t.part p).stopTick = s.modl.frame ∧ (t.part p).regs.ptimeout = (w.extractLsb' 32 16).toNat ∧ t.mem = s.mem ∧
        (∀ g ∈ s.clustersOf p, (∀ e, t.copyQueue g e = captureQueue (s.copyQueue g e)) ∧ ∀ i, i < 24 →
          (t.core (24 * g + i)).running = (s.core (24 * g + i)).running ∧
          ((s.core (24 * g + i)).stagedCtx.saved = none → (t.core (24 * g + i)).stagedCtx.state = .free))) ∧
      (pt.pstate ≠ .active ∨ pt.held ≠ none → Fires (.preempt p w) s fun t => (t.part p).pstate = pt.pstate ∧ (t.part p).launch = some l ∧ t.cores = s.cores ∧ t.mem = s.mem) ∧
      (pt.held = none → Fires (.discard p w) s fun t => Discarding p t ∧ LoggedCode p s t .hostdiscard ∧ t.mem = s.mem) ∧
      (pt.pstate = .stopping → pt.mig.state = .idle →
        (atStopPoint s p = false → Idle (.stopPoint p) s) ∧
        (atStopPoint s p = true → Fires (.stopPoint p) s fun t => (t.part p).pstate = .saving ∧ (t.part p).launch = some l ∧ t.mem = s.mem ∧ t.cores = s.cores) ∧
        (pt.regs.ptimeout = 0 ∨ s.reached (pt.stopTick + 1000 * pt.regs.ptimeout) = false → Idle (.stopTimeout p) s) ∧
        (pt.regs.ptimeout ≠ 0 → s.reached (pt.stopTick + 1000 * pt.regs.ptimeout) = true → Fires (.stopTimeout p) s fun t =>
          (t.part p).pstate = .active ∧ (t.part p).regs.tout = true ∧ (t.part p).launch = some l ∧ t.mem = s.mem ∧ t.cores = s.cores ∧
          ∀ g ∈ s.clustersOf p, ∀ e, ∀ c ∈ t.copyQueue g e, c.captured = false)) ∧
      (∀ area, pt.pstate = .saving → suspArea s p = some area → drained s p = true → saveError s p = none → s.modl.slip = false → s.Inv → Fires (.saveComplete p) s fun t =>
        (t.part p).launch = none ∧ (t.part p).pstate = .idle ∧ (∃ h, (t.part p).held = some h ∧ h.launch = l ∧ h.sel = pt.sel ∧ h.pins = pt.pins ∧ h.stopTick = pt.stopTick) ∧
        t.value area 4 = 0x4F423353 ∧ t.value (area + 4) 4 = 1 ∧ Vector s t l.fn 4 ∧
        ∀ c ∈ s.coresOf p, (t.core c).ctx0.state = .free ∧ (t.core c).ctx1.state = .free)) ∧
    (∀ h, pt.held = some h → w.extractLsb' 0 3 = 0#3 →
      let Refuses (e : Nat) : Prop := Fires (.resume p w) s fun t => (t.part p).regs.rerr = e ∧ (t.part p).pstate = pt.pstate ∧ (t.part p).held = some h ∧ t.mem = s.mem
      (suspArea s p = none → Refuses 4) ∧
      (∀ area, suspArea s p = some area →
        (pt.launch ≠ none ∨ pt.pstate ≠ .idle → Refuses 3) ∧
        (pt.launch = none → pt.pstate = .idle →
          (s.eccHit area 0x100000 = true ∨ s.value area 4 ≠ 0x4F423353 ∨ s.value (area + 4) 4 ≠ 1 ∨ s.value (area + 8) 4 ≠ areaCrc s area → Refuses 1) ∧
          (s.eccHit area 0x100000 = false → s.value area 4 = 0x4F423353 → s.value (area + 4) 4 = 1 → s.value (area + 8) 4 = areaCrc s area →
            (s.bytes (area + 0x10) 60 ≠ layoutBytes pt.regs → Refuses 2) ∧
            (s.bytes (area + 0x10) 60 = layoutBytes pt.regs → Fires (.resume p w) s fun t => (t.part p).regs.rerr = 0 ∧ (t.part p).pstate = .restoring ∧ (t.part p).held = some h ∧ t.mem = s.mem))) ∧
        (pt.pstate = .restoring → s.eccHit area (areaSize s p) = false → Fires (.restoreComplete p) s fun t => (t.part p).held = none ∧ (t.part p).pstate = .active ∧ (t.part p).sel = h.sel ∧
          ∃ l, (t.part p).launch = some l ∧ l.lrec = h.launch.lrec ∧ l.lseq = h.launch.lseq ∧ l.frame = h.launch.frame ∧ l.f0 = (h.launch.f0 + s.since h.stopTick) % 2 ^ 48)) ∧
      (pt.launch = none → pt.pstate = .idle → h.launch.silent = false → Fires (.discard p w) s fun t => (t.part p).held = none ∧ Reported s t h.launch.fn h.launch.lrec.launchid 0x10 ∧ LoggedCode p s t .hostdiscard)) ∧
    (∀ l, pt.launch = some l →
      (l.phase ≠ .discarding → Idle (.discardComplete p) s) ∧
      (l.phase = .discarding → s.modl.slip = false → Fires (.discardComplete p) s fun t => Ended p s t l 0x10 ∧ (t.part p).pstate = .idle ∧
        (∀ c ∈ s.coresOf p, (t.core c).ctx0 = .free ∧ (t.core c).ctx1 = .free) ∧ (∀ g ∈ s.clustersOf p, (t.cluster g).copies = [] ∧ (t.cluster g).sorts = [] ∧ (t.cluster g).ctl = none) ∧
        ∀ g, l.group = some g → Told t g none .discardNotice [g.pgid]))

/-- 14 R402-R407; 15 R410: GO stops the launch of a source whose conditions hold, and fails otherwise; with the last block the launch leaves the source and runs at the target, on the target's tick; pages move on demand or are pushed; the migration is done when every page has moved; a failure before hand-over leaves the launch at the source, one after it discards it at the target. The model's own: what the blocks carry (log entry 13), corners of MIGCTL (65), pages on the move (66), a discard on the way (67); the port of the migration is in direct mode. -/
def Obligations.MigrationEvents : Prop :=
  ∀ (p m n : Nat) (w : W64) (data : List Byte) (cells : List Nat) (s : State),
    let pt := s.part p
    let st := pt.mig.state
    let port := (w.extractLsb' 8 3).toNat
    let Failed (t : State) : Prop := (t.part p).mig.state = .failed ∧ Vector s t (s.fnOf p) 5
    (∀ peerOk, (st ≠ .idle → st ≠ .done → st ≠ .failed → Idle (.migctlGo p w peerOk) s) ∧
      (st = .idle ∨ st = .done ∨ st = .failed → w.extractLsb' 6 2 = 1#2 →
        let Ok : Prop := s.modl.mstate = 4 ∧ peerOk = true ∧ (s.port port).owner? = some p ∧ (s.port port).direct = true ∧ runningLaunch s p = true ∧ pt.pstate = .active
        (Ok → Fires (.migctlGo p w peerOk) s fun t => (t.part p).mig.state = .stopping ∧ (t.part p).mig.port = port ∧ (t.part p).pstate = .stopping ∧ (t.part p).stopTick = s.modl.frame ∧ t.mem = s.mem) ∧
        (¬ Ok → Fires (.migctlGo p w peerOk) s fun t => (t.part p).mig.state = .failed ∧ (t.part p).pstate = pt.pstate ∧ (t.part p).launch = pt.launch ∧ t.mem = s.mem ∧ t.cores = s.cores))) ∧
    (∀ l, pt.launch = some l → l.phase = .active →
      (st = .sending → Idle (.handOver p data false) s ∧ Fires (.handOver p data true) s fun t => (t.part p).launch = none ∧ (t.part p).pstate = .serving ∧
        (t.part p).mig.state = .serving ∧ (t.part p).mig.left = some l) ∧
      (st = .stopping → pt.pstate = .stopping → Fires (.migrationLinkFailure p) s fun t => Failed t ∧ (t.part p).pstate = .active ∧ (t.part p).launch = some l ∧ t.mem = s.mem ∧ t.cores = s.cores) ∧
      (st = .stopping → pt.pstate = .stopping → atStopPoint s p = true → drained s p = true → (s.port pt.mig.port).direct = true → Fires (.stopPoint p) s fun t => (t.part p).mig.state = .sending ∧ (t.part p).pstate = .sending ∧
        OutMsg.port pt.mig.port .migrationBlocks [p] [] ∈ t.plat.out) ∧
      (st = .drain ∨ st = .sending → Fires (.migrationLinkFailure p) s fun t => Failed t ∧ (t.part p).pstate = .active ∧ ∃ l', (t.part p).launch = some l' ∧ l'.lrec = l.lrec ∧ l'.frame = l.frame) ∧
      (st = .owning → Fires (.migrationLinkFailure p) s fun t => Failed t ∧ Discarding p t ∧ LoggedCode p s t .migfail)) ∧
    (pt.launch = none → pt.held = none → pt.pstate = .idle → pt.mig.role = 2 → st = .idle →
      Fires (.handOver p data false) s fun t => (t.part p).mig.state = .receiving ∧ ∀ k, pageOf s p k = true → t.owned (k * 4096) = false) ∧
    (pt.launch = none → st = .receiving →
      (∀ h, Config.blockContents data = some h → Fires (.handOver p data true) s fun t => (t.part p).mig.state = .owning ∧ (t.part p).pstate = .active ∧ (t.part p).sel = h.sel ∧
        ∃ l, (t.part p).launch = some l ∧ l.lrec = h.launch.lrec ∧ l.frame = h.launch.frame ∧ l.f0 = (h.launch.f0 + s.since h.stopTick) % 2 ^ 48) ∧
      (Config.blockContents data = none → Idle (.handOver p data true) s)) ∧
    (st = .receiving → (Fires (.migrationLinkFailure p) s fun t => Failed t ∧ t.mem = s.mem) ∧ Fires (.migrationAbort p) s fun t => Failed t ∧ t.mem = s.mem) ∧
    (st = .serving → Fires (.migrationLinkFailure p) s fun t => Failed t ∧ (t.part p).pstate = .idle ∧ (t.part p).mig.left = none ∧ t.mem = s.mem) ∧
    (st = .idle → pt.mig.role ≠ 2 → Idle (.migrationAbort p) s) ∧
    (∀ k, pageAt s p m n = some k →
      (st = .serving → (s.port pt.mig.port).direct = true → s.owned (k * 4096) = true → Fires (.pagePull p m n data cells) s fun t => t.owned (k * 4096) = false ∧ t.mem = s.mem ∧
        OutMsg.port pt.mig.port .migrationPage (k :: pageCells s k) (s.bytes (k * 4096) 4096) ∈ t.plat.out) ∧
      (st = .serving → s.owned (k * 4096) = false → Idle (.pagePull p m n data cells) s) ∧
      (s.Inv → st = .owning → s.owned (k * 4096) = false → data.length = 4096 → pt.pushes = [] →
        (Fires (.pagePull p m n data cells) s fun t => t.owned (k * 4096) = true ∧ Wrote s t (k * 4096) data) ∧
        Fires (.pagePush p m n data cells) s fun t => t.owned (k * 4096) = true ∧ Wrote s t (k * 4096) data)) ∧
    (st = .serving →
      (∀ k, lowestOwned s p = some k → Idle (.migrationDone p) s ∧ Fires (.pagePush p m n data cells) s fun t => t.owned (k * 4096) = false ∧ t.mem = s.mem ∧
        ((s.port pt.mig.port).direct = true → OutMsg.port pt.mig.port .migrationPage (k :: pageCells s k) (s.bytes (k * 4096) 4096) ∈ t.plat.out)) ∧
      (lowestOwned s p = none → Idle (.pagePush p m n data cells) s ∧ Fires (.migrationDone p) s fun t => (t.part p).mig.state = .done ∧ (t.part p).mig.left = none ∧
        (t.part p).pstate = .idle ∧ Vector s t (s.fnOf p) 5)) ∧
    (st = .owning → (awayPages s p = 0 → Fires (.migrationDone p) s fun t => (t.part p).mig.state = .done ∧ (t.part p).mig.role = 0) ∧ (awayPages s p ≠ 0 → Idle (.migrationDone p) s))
/-! The host, the functions, the module (13 R352-R357; 15 R409-R428; 14 R389, R390; 00 R13). -/

/-- 13 R353, R355, R373, R374; 15 R412, R415, R417; 03 R77; 00 R13: an access through BAR2 reaches the memory that its offset maps, or completes with Unsupported Request, which the function records; an AtomicOp reads and writes at one instant; a register write has its register's effect or none; a function-level reset withdraws and discards the launches of its function; D3hot holds messages. The model's own: partial register writes (log entry 69), AtomicOps (73), transient regions (74), a reset of a starting launch (75), the record of errors (98), an image load at a reset (99). -/
def Obligations.HostEvents : Prop :=
  ∀ (p fn off n a : Nat) (data : List Byte) (w : W64) (s : State),
    let Answers (e : Instr) (m : OutMsg) : Prop := exec e s = .next (s.send m)
    let Records (e : Instr) (m : OutMsg) (aer : Aer → Aer) : Prop := exec e s = .next ((s.modFn fn fun f => { f with aer := aer f.aer }).send m)
    let Unsupported (e : Instr) : Prop := Records e (.unsupported fn) fun x => { x with unsupported := true, advisory := true }
    ((s.fn fn).d3 = true → ∀ bar, Unsupported (.hostAccess fn bar false off n data) ∧ Records (.hostAccess fn bar true off n data) (.unsupported fn) fun x => { x with unsupported := true }) ∧
    (fn < 128 → (s.fn fn).d3 = false → s.modl.mstate ≠ 1 →
      (0 < n → off + n ≤ 2 ^ 41 →
        (s.boundTo fn = none → Unsupported (.hostAccess fn 2 false off n [])) ∧
        (s.boundTo fn = some p →
          (bar2Range s p off n = none → Unsupported (.hostAccess fn 2 false off n [])) ∧
          (bar2Range s p off n = some a → s.ownedRange a n = true →
            (busyUnit s a n ≠ none → Unsupported (.hostAccess fn 2 false off n [])) ∧
            (busyUnit s a n = none → s.eccHit a n = true → Records (.hostAccess fn 2 false off n []) (.abort fn) fun x => { x with abort := true, advisory := true }) ∧
            (busyUnit s a n = none → s.eccHit a n = false → s.expired a = false → s.expired (a + (n - 1)) = false →
              Answers (.hostAccess fn 2 false off n []) (.completion fn (s.bytes a n)) ∧
              (∀ kind (opd swap owner : W64), s.Inv → n = 4 ∨ n = 8 → off % n = 0 →
                let old : BitVec (8 * n) := BitVec.ofNat _ (s.value a n)
                let Swaps (v : BitVec (8 * n)) : Prop := Fires (.atomicop fn kind n off opd swap owner) s fun t =>
                  Wrote s t a ((List.range n).map fun k => v.extractLsb' (8 * k) 8) ∧ OutMsg.completion fn (s.bytes a n) ∈ t.plat.out
                (kind = 0 → Swaps (old + BitVec.ofNat _ opd.toNat)) ∧ (kind = 1 → Swaps (BitVec.ofNat _ opd.toNat)) ∧
                (kind = 2 → Swaps (if old = BitVec.ofNat _ opd.toNat then BitVec.ofNat _ swap.toNat else old)) ∧
                (3 ≤ kind → Unsupported (.atomicop fn kind n off opd swap owner))))))) ∧
      (s.Inv → 0 < data.length → a % 8 + data.length ≤ 8 → off + data.length ≤ 2 ^ 41 → s.boundTo fn = some p → bar2Range s p off data.length = some a →
        s.ownedRange a data.length = true → busyUnit s a data.length = none → Fires (.hostAccess fn 2 true off n data) s fun t => Wrote s t a data ∧ t.cores = s.cores ∧ t.clus = s.clus)) ∧
    (off % 8 ≠ 0 → Idle (.registerWrite fn off w) s) ∧
    (let b := (w.extractLsb' 0 11).toNat
     (1000 ≤ b → b ≤ 1800 → exec (.registerWrite physFn 0x100 w) s = .next { s with plat := { s.plat with budget := b } }) ∧
     (b < 1000 ∨ 1800 < b → Idle (.registerWrite physFn 0x100 w) s)) ∧
    (Idle (.registerWrite physFn 0 w) s ∧ Idle (.registerWrite physFn 0x18 w) s ∧ Idle (.registerWrite physFn 0x20 w) s) ∧
    (fn < 128 → Fires (.registerWrite fn 0x100 w) s fun t => t.fn fn = { s.fn fn with imgsrc := w } ∧ t.parts = s.parts ∧ t.mem = s.mem) ∧
    (∀ i (v : W32), let x := v &&& 0x7F8F#32
      (activeLaunch s p = true ∨ 16 ≤ i ∨ ftConsistent x = false → Idle (.ftWrite p i v) s) ∧
      (activeLaunch s p = false → i < 16 → i < (s.part p).regs.ft.length → ftConsistent x = true → Fires (.ftWrite p i v) s fun t => t.mem = s.mem ∧
        (t.part p).regs.ft.getD i 0#32 = x ∧ ∀ j, j ≠ i → (t.part p).regs.ft.getD j 0#32 = (s.part p).regs.ft.getD j 0#32)) ∧
    (∀ i, let v := w &&& 0xFFFFFFFFFFFFFF01#64
      let first := (v.extractLsb' 36 28).toNat
      let count := (v.extractLsb' 8 28).toNat
      (activeLaunch s p = true ∨ 8 ≤ i ∨ (s.part p).regs.plp.size < (first + count) * 4096 → Idle (.transWrite p i w) s) ∧
      (activeLaunch s p = false → i < 8 → (first + count) * 4096 ≤ (s.part p).regs.plp.size → v ≠ tget 0#64 (s.part p).regs.trans i → Fires (.transWrite p i w) s fun t => t.mem = s.mem ∧
        tget 0#64 (t.part p).regs.trans i = v ∧ tget 0 (t.part p).regs.transStamp i =
          if v.getLsbD 0 = true ∧ (tget 0#64 (s.part p).regs.trans i).getLsbD 0 = false then s.modl.intcnt else tget 0 (s.part p).regs.transStamp i)) ∧
    (fn < 128 → Fires (.functionLevelReset fn) s fun t => (t.fn fn).lstat = 0#64 ∧ (t.fn fn).d3 = false ∧ t.modl = s.modl ∧
      ∀ q, q < 24 → (t.part q).waiting = ((s.part q).waiting.filter (·.fn ≠ fn)) ∧ ∀ l, (s.part q).launch = some l →
        (l.fn = fn → l.phase = .starting → (t.part q).launch = none) ∧
        (l.fn = fn → l.phase ≠ .starting → (t.part q).launch = some { l with phase := .discarding, silent := true }) ∧ (l.fn ≠ fn → (t.part q).launch = some l)) ∧
    (Fires (.functionLevelReset physFn) s fun t => t.modl = Module.reset ∧ t.plat.resetcnt = (s.plat.resetcnt + 1) % 2 ^ 64) ∧
    (exec (.d3hot fn true) s = .next (s.modFn fn fun f => { f with d3 := true })) ∧
    (Fires (.d3hot fn false) s fun t => (t.fn fn).d3 = false ∧ (t.fn fn).held = [] ∧ (∀ v ∈ (s.fn fn).held, OutMsg.msix fn v ∈ t.plat.out) ∧ t.parts = s.parts ∧ t.mem = s.mem)

/-- 15 R409, R410, R423; 13 R356, R357; 14 R389, R390; 15 R426-R428: a module reset leads to ROMBOOT, firmware that verifies to TRAIN, training to REDUCED, SVC to SERVICE; ports train in the mode that both ends advertise; a fault of a shared structure discards every launch, one of a cluster or a port its owner's; a signed image is loaded and verified; a report is made and signed with the identity key. The model's own: reset values that the spec does not give (log entry 9), key material (12), signatures by RFC 8017 (19), the marker (25), black-box events (42), image corners (71), port training (72), faults from outside (76). -/
def Obligations.ModuleEvents : Prop :=
  ∀ (p n fn g : Nat) (w : W64) (data : List Byte) (s : State),
    let f := s.fn fn
    let Resets (e : Instr) : Prop := Fires e s fun t => t.modl = Module.reset ∧ t.plat.resetcnt = (s.plat.resetcnt + 1) % 2 ^ 64 ∧ t.parts = [] ∧ t.clus = [] ∧ t.cores = [] ∧
      t.mem = s.mem ∧ t.plat.flash = s.plat.flash ∧ t.plat.ports = [] ∧ t.plat.fns = []
    Resets .moduleReset ∧ Resets (.rst w) ∧
    (s.modl.mstate ≠ 0 → Idle .romboot s) ∧
    (s.modl.mstate = 0 →
      (∀ c, s.plat.flash[0]? = some c → rsaVerifies s.plat.keyModulus c.body c.signature = true → s.plat.minSvn ≤ c.svn → Fires .romboot s fun t => t.modl.mstate = 2 ∧ t.plat.running = some 0) ∧
      ((∀ c ∈ s.plat.flash, rsaVerifies s.plat.keyModulus c.body c.signature = false ∨ c.svn < s.plat.minSvn) → Fires .romboot s fun t => t.modl.mstate = 1 ∧ t.plat.running = s.plat.running)) ∧
    (∀ marker : W32,
      (s.modl.mstate ≠ 2 ∨ marker = 0#32 ∨ marker = 0xFFFFFFFF#32 → Idle (.train marker) s) ∧
      (s.modl.mstate = 2 → marker ≠ 0#32 → marker ≠ 0xFFFFFFFF#32 → Fires (.train marker) s fun t =>
        t.modl.mstate = 3 ∧ t.plat.marker = marker ∧ (∀ b, t.byte b = 0#8) ∧ t.attr.ecc = [] ∧ t.parts = s.parts)) ∧
    (s.modl.mstate ≠ 3 → Idle (.svc w) s) ∧
    (s.modl.mstate = 3 → Fires (.svc w) s fun t => t.modl = { s.modl with mstate := 4 } ∧ t.parts = s.parts ∧ t.mem = s.mem ∧
      ∀ k, k < 8 → (t.port k).owner? = (s.port k).owner? ∧ (t.port k).mode = if (s.port k).ctl.getLsbD 2 = true then 0 else (s.port k).mode) ∧
    (n < 8 → ∀ direct width,
      (2 ≤ s.modl.mstate → (s.port n).mode = 0 → 1 ≤ width → width ≤ 5 → Fires (.portTraining n direct width) s fun t => (t.port n).owner? = (s.port n).owner? ∧
        (t.port n).mode = if direct = true ∧ s.modl.mstate = 4 ∧ (s.port n).ctl.getLsbD 2 = true then 2 else 1) ∧
      ((s.port n).mode ≠ 0 → Idle (.portTraining n direct width) s)) ∧
    (n < 8 → Fires (.retrain n w) s fun t => (t.port n).mode = 0 ∧ (t.port n).ctl.getLsbD 2 = w.getLsbD 2 ∧ t.parts = s.parts ∧
      (∀ q, (s.port n).owner? = some q → activeLaunch s q = true → (t.port n).owner? = some q) ∧
      ((s.port n).owner? = none → w.getLsbD 15 = true → (t.port n).owner? = some (w.extractLsb' 10 5).toNat)) ∧
    (∀ on, Fires (.auxiliaryPower on) s fun t => t.plat.auxPower = on ∧ t.plat.bb = .empty ∧ (on = true → t.plat.resetcnt = 0) ∧ t.mem = s.mem ∧ t.parts = s.parts) ∧
    (∀ l, s.partOf? g = some p → (s.part p).launch = some l → l.phase = .active →
      (Fires (.hwfault (some g)) s fun t => Discarding p t ∧ LoggedCode p s t .eccunc) ∧
      (p < 24 → Fires (.hwfault none) s fun t => Discarding p t ∧ LoggedCode p s t .hwfault ∧ t.modl.hwHeld = true ∧ Vector s t physFn 9)) ∧
    (∀ l, (s.port n).owner? = some p → (s.part p).launch = some l → l.phase = .active → Fires (.linkfatal n) s fun t => Discarding p t ∧ LoggedCode p s t .linkfatal) ∧
    (let slot := (w.extractLsb' 0 6).toNat
     let entry (t : State) := tget .empty (t.part p).images slot
     s.boundTo fn = some p → f.load = none →
      (f.imgdst.toNat % 64 ≠ 0 → Fires (.imgctlGo fn w) s fun t => (entry t).state = 3 ∧ (entry t).result = 4 ∧ (t.fn fn).load = none ∧ Vector s t fn 7 ∧ t.mem = s.mem) ∧
      (imgRange s { part := p, slot := slot, src := f.imgsrc, dst := f.imgdst.toNat, len := f.imglen.toNat, bytes := [] } = false → Fires (.imgctlGo fn w) s fun t =>
        (entry t).state = 1 ∧ (entry t).result = 0 ∧ (entry t).off = f.imgdst.toNat ∧ (entry t).len = f.imglen.toNat - 384 ∧ (∃ l, (t.fn fn).load = some l ∧ l.slot = slot ∧ l.part = p) ∧ t.mem = s.mem)) ∧
    (∀ l, f.load = some l → (imgEntry s l.part l.slot).state = 1 →
      let entry (t : State) := imgEntry t l.part l.slot
      let key := tget { modulus := [], valid := false } (s.part l.part).pubkeys (fieldOf data 6 2)
      let End (ok : Bool) (state result : Nat) : Prop := Fires (.imageLoadEnd fn data ok) s fun t =>
        (entry t).state = state ∧ (entry t).result = result ∧ (entry t).digest = sha256 (data.take l.size) ∧ (t.fn fn).load = none ∧ Vector s t fn 7
      End false 3 5 ∧
      (imageOk data l.len = false → End true 3 1) ∧
      (imageOk data l.len = true →
        (key.valid = false → End true 3 2) ∧
        (key.valid = true → rsaVerifies key.modulus (data.take l.size) (data.drop l.size) = false → End true 3 3) ∧
        (key.valid = true → rsaVerifies key.modulus (data.take l.size) (data.drop l.size) = true → End true 2 0))) ∧
    (exec (.attctlGo w) s = .next { s with plat := { s.plat with attBusy := true } }) ∧
    (s.plat.attBusy = false → Idle .attestationReport s) ∧
    (s.plat.attBusy = true → Fires .attestationReport s fun t => t.plat.attBusy = false ∧ Vector s t physFn 10 ∧ t.mem = s.mem ∧ t.parts = s.parts ∧
      t.plat.report = reportBody s ++ rsaSign Config.identityModulus Config.identityExponent (reportBody s))
end

