-- ==== Sys2Proof/Laws/Table.lean ====
section
/-! SUPPORT. Lookups in tables after an update. -/

namespace Sys2Proof.Machine

@[simp] theorem tget?_nil {α : Type} (k : Nat) : tget? ([] : Table α) k = none := rfl

@[simp] theorem tget_nil {α : Type} (d : α) (k : Nat) : tget d [] k = d := rfl

theorem tget?_cons {α : Type} (p : Nat × α) (r : Table α) (k : Nat) :
    tget? (p :: r) k = if p.1 = k then some p.2 else tget? r k := rfl

/-- Read after a write to the same key. -/
@[simp] theorem tget?_tput_self {α : Type} (t : Table α) (k : Nat) (v : α) : tget? (tput t k v) k = some v := by
  induction t with
  | nil => simp [tput, tget?]
  | cons p r ih =>
    obtain ⟨j, w⟩ := p
    simp only [tput]
    split
    · simp [tget?]
    · split
      · simp [tget?]
      · simp_all [tget?]

/-- A write leaves the other keys alone. -/
theorem tget?_tput_of_ne {α : Type} (t : Table α) {k j : Nat} (v : α) (h : j ≠ k) : tget? (tput t k v) j = tget? t j := by
  induction t with
  | nil => simp [tput, tget?, Ne.symm h]
  | cons p r ih =>
    obtain ⟨i, w⟩ := p
    simp only [tput]
    split
    · subst_vars; simp [tget?, Ne.symm h]
    · split
      · simp [tget?, Ne.symm h]
      · simp [tget?, ih]

theorem tget?_tput {α : Type} (t : Table α) (k j : Nat) (v : α) : tget? (tput t k v) j = if j = k then some v else tget? t j := by
  split
  · subst_vars; simp
  · exact tget?_tput_of_ne t v (by assumption)

@[simp] theorem tget_tput_self {α : Type} (d : α) (t : Table α) (k : Nat) (v : α) : tget d (tput t k v) k = v := by
  simp [tget]

theorem tget_tput_of_ne {α : Type} (d : α) (t : Table α) {k j : Nat} (v : α) (h : j ≠ k) : tget d (tput t k v) j = tget d t j := by
  simp [tget, tget?_tput_of_ne t v h]

theorem tget_tput {α : Type} (d : α) (t : Table α) (k j : Nat) (v : α) : tget d (tput t k v) j = if j = k then v else tget d t j := by
  simp only [tget, tget?_tput]
  split <;> rfl

/-- A key taken out has no value. -/
@[simp] theorem tget?_tdel_self {α : Type} (t : Table α) (k : Nat) : tget? (tdel t k) k = none := by
  induction t with
  | nil => rfl
  | cons p r ih =>
    obtain ⟨j, w⟩ := p
    simp only [tdel]
    split
    · exact ih
    · simp_all [tget?]

theorem tget?_tdel_of_ne {α : Type} (t : Table α) {k j : Nat} (h : j ≠ k) : tget? (tdel t k) j = tget? t j := by
  induction t with
  | nil => rfl
  | cons p r ih =>
    obtain ⟨i, w⟩ := p
    simp only [tdel]
    split
    · subst_vars; simp [tget?, Ne.symm h, ih]
    · simp [tget?, ih]

@[simp] theorem tget_tdel_self {α : Type} (d : α) (t : Table α) (k : Nat) : tget d (tdel t k) k = d := by
  simp [tget]

theorem tget_tdel_of_ne {α : Type} (d : α) (t : Table α) {k j : Nat} (h : j ≠ k) : tget d (tdel t k) j = tget d t j := by
  simp [tget, tget?_tdel_of_ne t h]

@[simp] theorem tget_tmod_self {α : Type} (d : α) (t : Table α) (k : Nat) (f : α → α) : tget d (tmod d t k f) k = f (tget d t k) := by
  simp [tmod]

theorem tget_tmod_of_ne {α : Type} (d : α) (t : Table α) {k j : Nat} (f : α → α) (h : j ≠ k) :
    tget d (tmod d t k f) j = tget d t j := by
  simp [tmod, tget_tput_of_ne d t _ h]

end Sys2Proof.Machine
end

