-- ==== Sys2Proof/Laws/State.lean ====
section
/-! SUPPORT. What the named updates of the state leave: one lemma per field and update, and lookups after an update. -/

namespace Sys2Proof.Machine

open Sys2Proof

/-! setCore -/

@[simp] theorem State.setCore_agenda (s : State) (c : Nat) (x : Core) : (s.setCore c x).agenda = s.agenda := rfl
@[simp] theorem State.setCore_cur (s : State) (c : Nat) (x : Core) : (s.setCore c x).cur = s.cur := rfl
@[simp] theorem State.setCore_old (s : State) (c : Nat) (x : Core) : (s.setCore c x).old = s.old := rfl
@[simp] theorem State.setCore_late (s : State) (c : Nat) (x : Core) : (s.setCore c x).late = s.late := rfl
@[simp] theorem State.setCore_freeCtr (s : State) (c : Nat) (x : Core) : (s.setCore c x).freeCtr = s.freeCtr := rfl
@[simp] theorem State.setCore_modl (s : State) (c : Nat) (x : Core) : (s.setCore c x).modl = s.modl := rfl
@[simp] theorem State.setCore_plat (s : State) (c : Nat) (x : Core) : (s.setCore c x).plat = s.plat := rfl
@[simp] theorem State.setCore_parts (s : State) (c : Nat) (x : Core) : (s.setCore c x).parts = s.parts := rfl
@[simp] theorem State.setCore_clus (s : State) (c : Nat) (x : Core) : (s.setCore c x).clus = s.clus := rfl
@[simp] theorem State.setCore_mem (s : State) (c : Nat) (x : Core) : (s.setCore c x).mem = s.mem := rfl
@[simp] theorem State.setCore_attr (s : State) (c : Nat) (x : Core) : (s.setCore c x).attr = s.attr := rfl

/-! modCore -/

@[simp] theorem State.modCore_agenda (s : State) (c : Nat) (f : Core → Core) : (s.modCore c f).agenda = s.agenda := rfl
@[simp] theorem State.modCore_cur (s : State) (c : Nat) (f : Core → Core) : (s.modCore c f).cur = s.cur := rfl
@[simp] theorem State.modCore_old (s : State) (c : Nat) (f : Core → Core) : (s.modCore c f).old = s.old := rfl
@[simp] theorem State.modCore_late (s : State) (c : Nat) (f : Core → Core) : (s.modCore c f).late = s.late := rfl
@[simp] theorem State.modCore_freeCtr (s : State) (c : Nat) (f : Core → Core) : (s.modCore c f).freeCtr = s.freeCtr := rfl
@[simp] theorem State.modCore_modl (s : State) (c : Nat) (f : Core → Core) : (s.modCore c f).modl = s.modl := rfl
@[simp] theorem State.modCore_plat (s : State) (c : Nat) (f : Core → Core) : (s.modCore c f).plat = s.plat := rfl
@[simp] theorem State.modCore_parts (s : State) (c : Nat) (f : Core → Core) : (s.modCore c f).parts = s.parts := rfl
@[simp] theorem State.modCore_clus (s : State) (c : Nat) (f : Core → Core) : (s.modCore c f).clus = s.clus := rfl
@[simp] theorem State.modCore_mem (s : State) (c : Nat) (f : Core → Core) : (s.modCore c f).mem = s.mem := rfl
@[simp] theorem State.modCore_attr (s : State) (c : Nat) (f : Core → Core) : (s.modCore c f).attr = s.attr := rfl

/-! setCluster -/

@[simp] theorem State.setCluster_agenda (s : State) (g : Nat) (x : Cluster) : (s.setCluster g x).agenda = s.agenda := rfl
@[simp] theorem State.setCluster_cur (s : State) (g : Nat) (x : Cluster) : (s.setCluster g x).cur = s.cur := rfl
@[simp] theorem State.setCluster_old (s : State) (g : Nat) (x : Cluster) : (s.setCluster g x).old = s.old := rfl
@[simp] theorem State.setCluster_late (s : State) (g : Nat) (x : Cluster) : (s.setCluster g x).late = s.late := rfl
@[simp] theorem State.setCluster_freeCtr (s : State) (g : Nat) (x : Cluster) : (s.setCluster g x).freeCtr = s.freeCtr := rfl
@[simp] theorem State.setCluster_modl (s : State) (g : Nat) (x : Cluster) : (s.setCluster g x).modl = s.modl := rfl
@[simp] theorem State.setCluster_plat (s : State) (g : Nat) (x : Cluster) : (s.setCluster g x).plat = s.plat := rfl
@[simp] theorem State.setCluster_parts (s : State) (g : Nat) (x : Cluster) : (s.setCluster g x).parts = s.parts := rfl
@[simp] theorem State.setCluster_cores (s : State) (g : Nat) (x : Cluster) : (s.setCluster g x).cores = s.cores := rfl
@[simp] theorem State.setCluster_mem (s : State) (g : Nat) (x : Cluster) : (s.setCluster g x).mem = s.mem := rfl
@[simp] theorem State.setCluster_attr (s : State) (g : Nat) (x : Cluster) : (s.setCluster g x).attr = s.attr := rfl

/-! modCluster -/

@[simp] theorem State.modCluster_agenda (s : State) (g : Nat) (f : Cluster → Cluster) : (s.modCluster g f).agenda = s.agenda := rfl
@[simp] theorem State.modCluster_cur (s : State) (g : Nat) (f : Cluster → Cluster) : (s.modCluster g f).cur = s.cur := rfl
@[simp] theorem State.modCluster_old (s : State) (g : Nat) (f : Cluster → Cluster) : (s.modCluster g f).old = s.old := rfl
@[simp] theorem State.modCluster_late (s : State) (g : Nat) (f : Cluster → Cluster) : (s.modCluster g f).late = s.late := rfl
@[simp] theorem State.modCluster_freeCtr (s : State) (g : Nat) (f : Cluster → Cluster) : (s.modCluster g f).freeCtr = s.freeCtr := rfl
@[simp] theorem State.modCluster_modl (s : State) (g : Nat) (f : Cluster → Cluster) : (s.modCluster g f).modl = s.modl := rfl
@[simp] theorem State.modCluster_plat (s : State) (g : Nat) (f : Cluster → Cluster) : (s.modCluster g f).plat = s.plat := rfl
@[simp] theorem State.modCluster_parts (s : State) (g : Nat) (f : Cluster → Cluster) : (s.modCluster g f).parts = s.parts := rfl
@[simp] theorem State.modCluster_cores (s : State) (g : Nat) (f : Cluster → Cluster) : (s.modCluster g f).cores = s.cores := rfl
@[simp] theorem State.modCluster_mem (s : State) (g : Nat) (f : Cluster → Cluster) : (s.modCluster g f).mem = s.mem := rfl
@[simp] theorem State.modCluster_attr (s : State) (g : Nat) (f : Cluster → Cluster) : (s.modCluster g f).attr = s.attr := rfl

/-! setPart -/

@[simp] theorem State.setPart_agenda (s : State) (p : Nat) (x : Part) : (s.setPart p x).agenda = s.agenda := rfl
@[simp] theorem State.setPart_cur (s : State) (p : Nat) (x : Part) : (s.setPart p x).cur = s.cur := rfl
@[simp] theorem State.setPart_old (s : State) (p : Nat) (x : Part) : (s.setPart p x).old = s.old := rfl
@[simp] theorem State.setPart_late (s : State) (p : Nat) (x : Part) : (s.setPart p x).late = s.late := rfl
@[simp] theorem State.setPart_freeCtr (s : State) (p : Nat) (x : Part) : (s.setPart p x).freeCtr = s.freeCtr := rfl
@[simp] theorem State.setPart_modl (s : State) (p : Nat) (x : Part) : (s.setPart p x).modl = s.modl := rfl
@[simp] theorem State.setPart_plat (s : State) (p : Nat) (x : Part) : (s.setPart p x).plat = s.plat := rfl
@[simp] theorem State.setPart_clus (s : State) (p : Nat) (x : Part) : (s.setPart p x).clus = s.clus := rfl
@[simp] theorem State.setPart_cores (s : State) (p : Nat) (x : Part) : (s.setPart p x).cores = s.cores := rfl
@[simp] theorem State.setPart_mem (s : State) (p : Nat) (x : Part) : (s.setPart p x).mem = s.mem := rfl
@[simp] theorem State.setPart_attr (s : State) (p : Nat) (x : Part) : (s.setPart p x).attr = s.attr := rfl

/-! modPart -/

@[simp] theorem State.modPart_agenda (s : State) (p : Nat) (f : Part → Part) : (s.modPart p f).agenda = s.agenda := rfl
@[simp] theorem State.modPart_cur (s : State) (p : Nat) (f : Part → Part) : (s.modPart p f).cur = s.cur := rfl
@[simp] theorem State.modPart_old (s : State) (p : Nat) (f : Part → Part) : (s.modPart p f).old = s.old := rfl
@[simp] theorem State.modPart_late (s : State) (p : Nat) (f : Part → Part) : (s.modPart p f).late = s.late := rfl
@[simp] theorem State.modPart_freeCtr (s : State) (p : Nat) (f : Part → Part) : (s.modPart p f).freeCtr = s.freeCtr := rfl
@[simp] theorem State.modPart_modl (s : State) (p : Nat) (f : Part → Part) : (s.modPart p f).modl = s.modl := rfl
@[simp] theorem State.modPart_plat (s : State) (p : Nat) (f : Part → Part) : (s.modPart p f).plat = s.plat := rfl
@[simp] theorem State.modPart_clus (s : State) (p : Nat) (f : Part → Part) : (s.modPart p f).clus = s.clus := rfl
@[simp] theorem State.modPart_cores (s : State) (p : Nat) (f : Part → Part) : (s.modPart p f).cores = s.cores := rfl
@[simp] theorem State.modPart_mem (s : State) (p : Nat) (f : Part → Part) : (s.modPart p f).mem = s.mem := rfl
@[simp] theorem State.modPart_attr (s : State) (p : Nat) (f : Part → Part) : (s.modPart p f).attr = s.attr := rfl

/-! modLaunch -/

@[simp] theorem State.modLaunch_agenda (s : State) (p : Nat) (f : Launch → Launch) : (s.modLaunch p f).agenda = s.agenda := rfl
@[simp] theorem State.modLaunch_cur (s : State) (p : Nat) (f : Launch → Launch) : (s.modLaunch p f).cur = s.cur := rfl
@[simp] theorem State.modLaunch_old (s : State) (p : Nat) (f : Launch → Launch) : (s.modLaunch p f).old = s.old := rfl
@[simp] theorem State.modLaunch_late (s : State) (p : Nat) (f : Launch → Launch) : (s.modLaunch p f).late = s.late := rfl
@[simp] theorem State.modLaunch_freeCtr (s : State) (p : Nat) (f : Launch → Launch) : (s.modLaunch p f).freeCtr = s.freeCtr := rfl
@[simp] theorem State.modLaunch_modl (s : State) (p : Nat) (f : Launch → Launch) : (s.modLaunch p f).modl = s.modl := rfl
@[simp] theorem State.modLaunch_plat (s : State) (p : Nat) (f : Launch → Launch) : (s.modLaunch p f).plat = s.plat := rfl
@[simp] theorem State.modLaunch_clus (s : State) (p : Nat) (f : Launch → Launch) : (s.modLaunch p f).clus = s.clus := rfl
@[simp] theorem State.modLaunch_cores (s : State) (p : Nat) (f : Launch → Launch) : (s.modLaunch p f).cores = s.cores := rfl
@[simp] theorem State.modLaunch_mem (s : State) (p : Nat) (f : Launch → Launch) : (s.modLaunch p f).mem = s.mem := rfl
@[simp] theorem State.modLaunch_attr (s : State) (p : Nat) (f : Launch → Launch) : (s.modLaunch p f).attr = s.attr := rfl

/-! drawn -/

@[simp] theorem State.drawn_agenda (s : State) : (s.drawn).agenda = s.agenda := rfl
@[simp] theorem State.drawn_cur (s : State) : (s.drawn).cur = s.cur := rfl
@[simp] theorem State.drawn_old (s : State) : (s.drawn).old = s.old := rfl
@[simp] theorem State.drawn_late (s : State) : (s.drawn).late = s.late := rfl
@[simp] theorem State.drawn_modl (s : State) : (s.drawn).modl = s.modl := rfl
@[simp] theorem State.drawn_plat (s : State) : (s.drawn).plat = s.plat := rfl
@[simp] theorem State.drawn_parts (s : State) : (s.drawn).parts = s.parts := rfl
@[simp] theorem State.drawn_clus (s : State) : (s.drawn).clus = s.clus := rfl
@[simp] theorem State.drawn_cores (s : State) : (s.drawn).cores = s.cores := rfl
@[simp] theorem State.drawn_mem (s : State) : (s.drawn).mem = s.mem := rfl
@[simp] theorem State.drawn_attr (s : State) : (s.drawn).attr = s.attr := rfl

/-! modPlat -/

@[simp] theorem State.modPlat_agenda (s : State) (f : Plat → Plat) : (s.modPlat f).agenda = s.agenda := rfl
@[simp] theorem State.modPlat_cur (s : State) (f : Plat → Plat) : (s.modPlat f).cur = s.cur := rfl
@[simp] theorem State.modPlat_old (s : State) (f : Plat → Plat) : (s.modPlat f).old = s.old := rfl
@[simp] theorem State.modPlat_late (s : State) (f : Plat → Plat) : (s.modPlat f).late = s.late := rfl
@[simp] theorem State.modPlat_freeCtr (s : State) (f : Plat → Plat) : (s.modPlat f).freeCtr = s.freeCtr := rfl
@[simp] theorem State.modPlat_modl (s : State) (f : Plat → Plat) : (s.modPlat f).modl = s.modl := rfl
@[simp] theorem State.modPlat_parts (s : State) (f : Plat → Plat) : (s.modPlat f).parts = s.parts := rfl
@[simp] theorem State.modPlat_clus (s : State) (f : Plat → Plat) : (s.modPlat f).clus = s.clus := rfl
@[simp] theorem State.modPlat_cores (s : State) (f : Plat → Plat) : (s.modPlat f).cores = s.cores := rfl
@[simp] theorem State.modPlat_mem (s : State) (f : Plat → Plat) : (s.modPlat f).mem = s.mem := rfl
@[simp] theorem State.modPlat_attr (s : State) (f : Plat → Plat) : (s.modPlat f).attr = s.attr := rfl

/-! modFn -/

@[simp] theorem State.modFn_agenda (s : State) (n : Nat) (f : Fn → Fn) : (s.modFn n f).agenda = s.agenda := rfl
@[simp] theorem State.modFn_cur (s : State) (n : Nat) (f : Fn → Fn) : (s.modFn n f).cur = s.cur := rfl
@[simp] theorem State.modFn_old (s : State) (n : Nat) (f : Fn → Fn) : (s.modFn n f).old = s.old := rfl
@[simp] theorem State.modFn_late (s : State) (n : Nat) (f : Fn → Fn) : (s.modFn n f).late = s.late := rfl
@[simp] theorem State.modFn_freeCtr (s : State) (n : Nat) (f : Fn → Fn) : (s.modFn n f).freeCtr = s.freeCtr := rfl
@[simp] theorem State.modFn_modl (s : State) (n : Nat) (f : Fn → Fn) : (s.modFn n f).modl = s.modl := rfl
@[simp] theorem State.modFn_parts (s : State) (n : Nat) (f : Fn → Fn) : (s.modFn n f).parts = s.parts := rfl
@[simp] theorem State.modFn_clus (s : State) (n : Nat) (f : Fn → Fn) : (s.modFn n f).clus = s.clus := rfl
@[simp] theorem State.modFn_cores (s : State) (n : Nat) (f : Fn → Fn) : (s.modFn n f).cores = s.cores := rfl
@[simp] theorem State.modFn_mem (s : State) (n : Nat) (f : Fn → Fn) : (s.modFn n f).mem = s.mem := rfl
@[simp] theorem State.modFn_attr (s : State) (n : Nat) (f : Fn → Fn) : (s.modFn n f).attr = s.attr := rfl

/-! send -/

@[simp] theorem State.send_agenda (s : State) (m : OutMsg) : (s.send m).agenda = s.agenda := rfl
@[simp] theorem State.send_cur (s : State) (m : OutMsg) : (s.send m).cur = s.cur := rfl
@[simp] theorem State.send_old (s : State) (m : OutMsg) : (s.send m).old = s.old := rfl
@[simp] theorem State.send_late (s : State) (m : OutMsg) : (s.send m).late = s.late := rfl
@[simp] theorem State.send_freeCtr (s : State) (m : OutMsg) : (s.send m).freeCtr = s.freeCtr := rfl
@[simp] theorem State.send_modl (s : State) (m : OutMsg) : (s.send m).modl = s.modl := rfl
@[simp] theorem State.send_parts (s : State) (m : OutMsg) : (s.send m).parts = s.parts := rfl
@[simp] theorem State.send_clus (s : State) (m : OutMsg) : (s.send m).clus = s.clus := rfl
@[simp] theorem State.send_cores (s : State) (m : OutMsg) : (s.send m).cores = s.cores := rfl
@[simp] theorem State.send_mem (s : State) (m : OutMsg) : (s.send m).mem = s.mem := rfl
@[simp] theorem State.send_attr (s : State) (m : OutMsg) : (s.send m).attr = s.attr := rfl

/-! modPort -/

@[simp] theorem State.modPort_agenda (s : State) (n : Nat) (f : Port → Port) : (s.modPort n f).agenda = s.agenda := rfl
@[simp] theorem State.modPort_cur (s : State) (n : Nat) (f : Port → Port) : (s.modPort n f).cur = s.cur := rfl
@[simp] theorem State.modPort_old (s : State) (n : Nat) (f : Port → Port) : (s.modPort n f).old = s.old := rfl
@[simp] theorem State.modPort_late (s : State) (n : Nat) (f : Port → Port) : (s.modPort n f).late = s.late := rfl
@[simp] theorem State.modPort_freeCtr (s : State) (n : Nat) (f : Port → Port) : (s.modPort n f).freeCtr = s.freeCtr := rfl
@[simp] theorem State.modPort_modl (s : State) (n : Nat) (f : Port → Port) : (s.modPort n f).modl = s.modl := rfl
@[simp] theorem State.modPort_parts (s : State) (n : Nat) (f : Port → Port) : (s.modPort n f).parts = s.parts := rfl
@[simp] theorem State.modPort_clus (s : State) (n : Nat) (f : Port → Port) : (s.modPort n f).clus = s.clus := rfl
@[simp] theorem State.modPort_cores (s : State) (n : Nat) (f : Port → Port) : (s.modPort n f).cores = s.cores := rfl
@[simp] theorem State.modPort_mem (s : State) (n : Nat) (f : Port → Port) : (s.modPort n f).mem = s.mem := rfl
@[simp] theorem State.modPort_attr (s : State) (n : Nat) (f : Port → Port) : (s.modPort n f).attr = s.attr := rfl

/-! portCtr -/

@[simp] theorem State.portCtr_agenda (s : State) (n : Nat) (k : PortCtr) (i : Nat) : (s.portCtr n k i).agenda = s.agenda := rfl
@[simp] theorem State.portCtr_cur (s : State) (n : Nat) (k : PortCtr) (i : Nat) : (s.portCtr n k i).cur = s.cur := rfl
@[simp] theorem State.portCtr_old (s : State) (n : Nat) (k : PortCtr) (i : Nat) : (s.portCtr n k i).old = s.old := rfl
@[simp] theorem State.portCtr_late (s : State) (n : Nat) (k : PortCtr) (i : Nat) : (s.portCtr n k i).late = s.late := rfl
@[simp] theorem State.portCtr_freeCtr (s : State) (n : Nat) (k : PortCtr) (i : Nat) : (s.portCtr n k i).freeCtr = s.freeCtr := rfl
@[simp] theorem State.portCtr_modl (s : State) (n : Nat) (k : PortCtr) (i : Nat) : (s.portCtr n k i).modl = s.modl := rfl
@[simp] theorem State.portCtr_parts (s : State) (n : Nat) (k : PortCtr) (i : Nat) : (s.portCtr n k i).parts = s.parts := rfl
@[simp] theorem State.portCtr_clus (s : State) (n : Nat) (k : PortCtr) (i : Nat) : (s.portCtr n k i).clus = s.clus := rfl
@[simp] theorem State.portCtr_cores (s : State) (n : Nat) (k : PortCtr) (i : Nat) : (s.portCtr n k i).cores = s.cores := rfl
@[simp] theorem State.portCtr_mem (s : State) (n : Nat) (k : PortCtr) (i : Nat) : (s.portCtr n k i).mem = s.mem := rfl
@[simp] theorem State.portCtr_attr (s : State) (n : Nat) (k : PortCtr) (i : Nat) : (s.portCtr n k i).attr = s.attr := rfl

/-! coreCtr -/

@[simp] theorem State.coreCtr_agenda (s : State) (c : Nat) (k : CoreCtr) (n : Nat) : (s.coreCtr c k n).agenda = s.agenda := rfl
@[simp] theorem State.coreCtr_cur (s : State) (c : Nat) (k : CoreCtr) (n : Nat) : (s.coreCtr c k n).cur = s.cur := rfl
@[simp] theorem State.coreCtr_old (s : State) (c : Nat) (k : CoreCtr) (n : Nat) : (s.coreCtr c k n).old = s.old := rfl
@[simp] theorem State.coreCtr_late (s : State) (c : Nat) (k : CoreCtr) (n : Nat) : (s.coreCtr c k n).late = s.late := rfl
@[simp] theorem State.coreCtr_freeCtr (s : State) (c : Nat) (k : CoreCtr) (n : Nat) : (s.coreCtr c k n).freeCtr = s.freeCtr := rfl
@[simp] theorem State.coreCtr_modl (s : State) (c : Nat) (k : CoreCtr) (n : Nat) : (s.coreCtr c k n).modl = s.modl := rfl
@[simp] theorem State.coreCtr_plat (s : State) (c : Nat) (k : CoreCtr) (n : Nat) : (s.coreCtr c k n).plat = s.plat := rfl
@[simp] theorem State.coreCtr_parts (s : State) (c : Nat) (k : CoreCtr) (n : Nat) : (s.coreCtr c k n).parts = s.parts := rfl
@[simp] theorem State.coreCtr_clus (s : State) (c : Nat) (k : CoreCtr) (n : Nat) : (s.coreCtr c k n).clus = s.clus := rfl
@[simp] theorem State.coreCtr_mem (s : State) (c : Nat) (k : CoreCtr) (n : Nat) : (s.coreCtr c k n).mem = s.mem := rfl
@[simp] theorem State.coreCtr_attr (s : State) (c : Nat) (k : CoreCtr) (n : Nat) : (s.coreCtr c k n).attr = s.attr := rfl

/-! clusCtr -/

@[simp] theorem State.clusCtr_agenda (s : State) (g : Nat) (k : ClusCtr) (n : Nat) : (s.clusCtr g k n).agenda = s.agenda := rfl
@[simp] theorem State.clusCtr_cur (s : State) (g : Nat) (k : ClusCtr) (n : Nat) : (s.clusCtr g k n).cur = s.cur := rfl
@[simp] theorem State.clusCtr_old (s : State) (g : Nat) (k : ClusCtr) (n : Nat) : (s.clusCtr g k n).old = s.old := rfl
@[simp] theorem State.clusCtr_late (s : State) (g : Nat) (k : ClusCtr) (n : Nat) : (s.clusCtr g k n).late = s.late := rfl
@[simp] theorem State.clusCtr_freeCtr (s : State) (g : Nat) (k : ClusCtr) (n : Nat) : (s.clusCtr g k n).freeCtr = s.freeCtr := rfl
@[simp] theorem State.clusCtr_modl (s : State) (g : Nat) (k : ClusCtr) (n : Nat) : (s.clusCtr g k n).modl = s.modl := rfl
@[simp] theorem State.clusCtr_plat (s : State) (g : Nat) (k : ClusCtr) (n : Nat) : (s.clusCtr g k n).plat = s.plat := rfl
@[simp] theorem State.clusCtr_parts (s : State) (g : Nat) (k : ClusCtr) (n : Nat) : (s.clusCtr g k n).parts = s.parts := rfl
@[simp] theorem State.clusCtr_cores (s : State) (g : Nat) (k : ClusCtr) (n : Nat) : (s.clusCtr g k n).cores = s.cores := rfl
@[simp] theorem State.clusCtr_mem (s : State) (g : Nat) (k : ClusCtr) (n : Nat) : (s.clusCtr g k n).mem = s.mem := rfl
@[simp] theorem State.clusCtr_attr (s : State) (g : Nat) (k : ClusCtr) (n : Nat) : (s.clusCtr g k n).attr = s.attr := rfl

/-! partCtr -/

@[simp] theorem State.partCtr_agenda (s : State) (p : Nat) (k : PartCtr) (n : Nat) : (s.partCtr p k n).agenda = s.agenda := rfl
@[simp] theorem State.partCtr_cur (s : State) (p : Nat) (k : PartCtr) (n : Nat) : (s.partCtr p k n).cur = s.cur := rfl
@[simp] theorem State.partCtr_old (s : State) (p : Nat) (k : PartCtr) (n : Nat) : (s.partCtr p k n).old = s.old := rfl
@[simp] theorem State.partCtr_late (s : State) (p : Nat) (k : PartCtr) (n : Nat) : (s.partCtr p k n).late = s.late := rfl
@[simp] theorem State.partCtr_freeCtr (s : State) (p : Nat) (k : PartCtr) (n : Nat) : (s.partCtr p k n).freeCtr = s.freeCtr := rfl
@[simp] theorem State.partCtr_modl (s : State) (p : Nat) (k : PartCtr) (n : Nat) : (s.partCtr p k n).modl = s.modl := rfl
@[simp] theorem State.partCtr_plat (s : State) (p : Nat) (k : PartCtr) (n : Nat) : (s.partCtr p k n).plat = s.plat := rfl
@[simp] theorem State.partCtr_clus (s : State) (p : Nat) (k : PartCtr) (n : Nat) : (s.partCtr p k n).clus = s.clus := rfl
@[simp] theorem State.partCtr_cores (s : State) (p : Nat) (k : PartCtr) (n : Nat) : (s.partCtr p k n).cores = s.cores := rfl
@[simp] theorem State.partCtr_mem (s : State) (p : Nat) (k : PartCtr) (n : Nat) : (s.partCtr p k n).mem = s.mem := rfl
@[simp] theorem State.partCtr_attr (s : State) (p : Nat) (k : PartCtr) (n : Nat) : (s.partCtr p k n).attr = s.attr := rfl

/-! coreClk -/

@[simp] theorem State.coreClk_agenda (s : State) (c : Nat) (k : CoreCtr) : (s.coreClk c k).agenda = s.agenda := rfl
@[simp] theorem State.coreClk_cur (s : State) (c : Nat) (k : CoreCtr) : (s.coreClk c k).cur = s.cur := rfl
@[simp] theorem State.coreClk_old (s : State) (c : Nat) (k : CoreCtr) : (s.coreClk c k).old = s.old := rfl
@[simp] theorem State.coreClk_late (s : State) (c : Nat) (k : CoreCtr) : (s.coreClk c k).late = s.late := rfl
@[simp] theorem State.coreClk_modl (s : State) (c : Nat) (k : CoreCtr) : (s.coreClk c k).modl = s.modl := rfl
@[simp] theorem State.coreClk_plat (s : State) (c : Nat) (k : CoreCtr) : (s.coreClk c k).plat = s.plat := rfl
@[simp] theorem State.coreClk_parts (s : State) (c : Nat) (k : CoreCtr) : (s.coreClk c k).parts = s.parts := rfl
@[simp] theorem State.coreClk_clus (s : State) (c : Nat) (k : CoreCtr) : (s.coreClk c k).clus = s.clus := rfl
@[simp] theorem State.coreClk_mem (s : State) (c : Nat) (k : CoreCtr) : (s.coreClk c k).mem = s.mem := rfl
@[simp] theorem State.coreClk_attr (s : State) (c : Nat) (k : CoreCtr) : (s.coreClk c k).attr = s.attr := rfl

/-! clusClk -/

@[simp] theorem State.clusClk_agenda (s : State) (g : Nat) (k : ClusCtr) : (s.clusClk g k).agenda = s.agenda := rfl
@[simp] theorem State.clusClk_cur (s : State) (g : Nat) (k : ClusCtr) : (s.clusClk g k).cur = s.cur := rfl
@[simp] theorem State.clusClk_old (s : State) (g : Nat) (k : ClusCtr) : (s.clusClk g k).old = s.old := rfl
@[simp] theorem State.clusClk_late (s : State) (g : Nat) (k : ClusCtr) : (s.clusClk g k).late = s.late := rfl
@[simp] theorem State.clusClk_modl (s : State) (g : Nat) (k : ClusCtr) : (s.clusClk g k).modl = s.modl := rfl
@[simp] theorem State.clusClk_plat (s : State) (g : Nat) (k : ClusCtr) : (s.clusClk g k).plat = s.plat := rfl
@[simp] theorem State.clusClk_parts (s : State) (g : Nat) (k : ClusCtr) : (s.clusClk g k).parts = s.parts := rfl
@[simp] theorem State.clusClk_cores (s : State) (g : Nat) (k : ClusCtr) : (s.clusClk g k).cores = s.cores := rfl
@[simp] theorem State.clusClk_mem (s : State) (g : Nat) (k : ClusCtr) : (s.clusClk g k).mem = s.mem := rfl
@[simp] theorem State.clusClk_attr (s : State) (g : Nat) (k : ClusCtr) : (s.clusClk g k).attr = s.attr := rfl

/-! partClk -/

@[simp] theorem State.partClk_agenda (s : State) (p : Nat) (k : PartCtr) : (s.partClk p k).agenda = s.agenda := rfl
@[simp] theorem State.partClk_cur (s : State) (p : Nat) (k : PartCtr) : (s.partClk p k).cur = s.cur := rfl
@[simp] theorem State.partClk_old (s : State) (p : Nat) (k : PartCtr) : (s.partClk p k).old = s.old := rfl
@[simp] theorem State.partClk_late (s : State) (p : Nat) (k : PartCtr) : (s.partClk p k).late = s.late := rfl
@[simp] theorem State.partClk_modl (s : State) (p : Nat) (k : PartCtr) : (s.partClk p k).modl = s.modl := rfl
@[simp] theorem State.partClk_plat (s : State) (p : Nat) (k : PartCtr) : (s.partClk p k).plat = s.plat := rfl
@[simp] theorem State.partClk_clus (s : State) (p : Nat) (k : PartCtr) : (s.partClk p k).clus = s.clus := rfl
@[simp] theorem State.partClk_cores (s : State) (p : Nat) (k : PartCtr) : (s.partClk p k).cores = s.cores := rfl
@[simp] theorem State.partClk_mem (s : State) (p : Nat) (k : PartCtr) : (s.partClk p k).mem = s.mem := rfl
@[simp] theorem State.partClk_attr (s : State) (p : Nat) (k : PartCtr) : (s.partClk p k).attr = s.attr := rfl

/-! setTask -/

@[simp] theorem State.setTask_agenda (s : State) (a : Agent) (t : Task) : (s.setTask a t).agenda = s.agenda := by cases a <;> rfl
@[simp] theorem State.setTask_cur (s : State) (a : Agent) (t : Task) : (s.setTask a t).cur = s.cur := by cases a <;> rfl
@[simp] theorem State.setTask_old (s : State) (a : Agent) (t : Task) : (s.setTask a t).old = s.old := by cases a <;> rfl
@[simp] theorem State.setTask_late (s : State) (a : Agent) (t : Task) : (s.setTask a t).late = s.late := by cases a <;> rfl
@[simp] theorem State.setTask_freeCtr (s : State) (a : Agent) (t : Task) : (s.setTask a t).freeCtr = s.freeCtr := by cases a <;> rfl
@[simp] theorem State.setTask_modl (s : State) (a : Agent) (t : Task) : (s.setTask a t).modl = s.modl := by cases a <;> rfl
@[simp] theorem State.setTask_plat (s : State) (a : Agent) (t : Task) : (s.setTask a t).plat = s.plat := by cases a <;> rfl
@[simp] theorem State.setTask_parts (s : State) (a : Agent) (t : Task) : (s.setTask a t).parts = s.parts := by cases a <;> rfl
@[simp] theorem State.setTask_mem (s : State) (a : Agent) (t : Task) : (s.setTask a t).mem = s.mem := by cases a <;> rfl
@[simp] theorem State.setTask_attr (s : State) (a : Agent) (t : Task) : (s.setTask a t).attr = s.attr := by cases a <;> rfl

/-! modTask -/

@[simp] theorem State.modTask_agenda (s : State) (a : Agent) (f : Task → Task) : (s.modTask a f).agenda = s.agenda := by cases a <;> rfl
@[simp] theorem State.modTask_cur (s : State) (a : Agent) (f : Task → Task) : (s.modTask a f).cur = s.cur := by cases a <;> rfl
@[simp] theorem State.modTask_old (s : State) (a : Agent) (f : Task → Task) : (s.modTask a f).old = s.old := by cases a <;> rfl
@[simp] theorem State.modTask_late (s : State) (a : Agent) (f : Task → Task) : (s.modTask a f).late = s.late := by cases a <;> rfl
@[simp] theorem State.modTask_freeCtr (s : State) (a : Agent) (f : Task → Task) : (s.modTask a f).freeCtr = s.freeCtr := by cases a <;> rfl
@[simp] theorem State.modTask_modl (s : State) (a : Agent) (f : Task → Task) : (s.modTask a f).modl = s.modl := by cases a <;> rfl
@[simp] theorem State.modTask_plat (s : State) (a : Agent) (f : Task → Task) : (s.modTask a f).plat = s.plat := by cases a <;> rfl
@[simp] theorem State.modTask_parts (s : State) (a : Agent) (f : Task → Task) : (s.modTask a f).parts = s.parts := by cases a <;> rfl
@[simp] theorem State.modTask_mem (s : State) (a : Agent) (f : Task → Task) : (s.modTask a f).mem = s.mem := by cases a <;> rfl
@[simp] theorem State.modTask_attr (s : State) (a : Agent) (f : Task → Task) : (s.modTask a f).attr = s.attr := by cases a <;> rfl

/-! agentCtr -/

@[simp] theorem State.agentCtr_agenda (s : State) (a : Agent) (k : CoreCtr) (n : Nat) : (s.agentCtr a k n).agenda = s.agenda := by unfold State.agentCtr; split <;> rfl
@[simp] theorem State.agentCtr_cur (s : State) (a : Agent) (k : CoreCtr) (n : Nat) : (s.agentCtr a k n).cur = s.cur := by unfold State.agentCtr; split <;> rfl
@[simp] theorem State.agentCtr_old (s : State) (a : Agent) (k : CoreCtr) (n : Nat) : (s.agentCtr a k n).old = s.old := by unfold State.agentCtr; split <;> rfl
@[simp] theorem State.agentCtr_late (s : State) (a : Agent) (k : CoreCtr) (n : Nat) : (s.agentCtr a k n).late = s.late := by unfold State.agentCtr; split <;> rfl
@[simp] theorem State.agentCtr_freeCtr (s : State) (a : Agent) (k : CoreCtr) (n : Nat) : (s.agentCtr a k n).freeCtr = s.freeCtr := by unfold State.agentCtr; split <;> rfl
@[simp] theorem State.agentCtr_modl (s : State) (a : Agent) (k : CoreCtr) (n : Nat) : (s.agentCtr a k n).modl = s.modl := by unfold State.agentCtr; split <;> rfl
@[simp] theorem State.agentCtr_plat (s : State) (a : Agent) (k : CoreCtr) (n : Nat) : (s.agentCtr a k n).plat = s.plat := by unfold State.agentCtr; split <;> rfl
@[simp] theorem State.agentCtr_parts (s : State) (a : Agent) (k : CoreCtr) (n : Nat) : (s.agentCtr a k n).parts = s.parts := by unfold State.agentCtr; split <;> rfl
@[simp] theorem State.agentCtr_clus (s : State) (a : Agent) (k : CoreCtr) (n : Nat) : (s.agentCtr a k n).clus = s.clus := by unfold State.agentCtr; split <;> rfl
@[simp] theorem State.agentCtr_mem (s : State) (a : Agent) (k : CoreCtr) (n : Nat) : (s.agentCtr a k n).mem = s.mem := by unfold State.agentCtr; split <;> rfl
@[simp] theorem State.agentCtr_attr (s : State) (a : Agent) (k : CoreCtr) (n : Nat) : (s.agentCtr a k n).attr = s.attr := by unfold State.agentCtr; split <;> rfl

/-! agentClk -/

@[simp] theorem State.agentClk_agenda (s : State) (a : Agent) (k : CoreCtr) : (s.agentClk a k).agenda = s.agenda := by unfold State.agentClk; split <;> rfl
@[simp] theorem State.agentClk_cur (s : State) (a : Agent) (k : CoreCtr) : (s.agentClk a k).cur = s.cur := by unfold State.agentClk; split <;> rfl
@[simp] theorem State.agentClk_old (s : State) (a : Agent) (k : CoreCtr) : (s.agentClk a k).old = s.old := by unfold State.agentClk; split <;> rfl
@[simp] theorem State.agentClk_late (s : State) (a : Agent) (k : CoreCtr) : (s.agentClk a k).late = s.late := by unfold State.agentClk; split <;> rfl
@[simp] theorem State.agentClk_modl (s : State) (a : Agent) (k : CoreCtr) : (s.agentClk a k).modl = s.modl := by unfold State.agentClk; split <;> rfl
@[simp] theorem State.agentClk_plat (s : State) (a : Agent) (k : CoreCtr) : (s.agentClk a k).plat = s.plat := by unfold State.agentClk; split <;> rfl
@[simp] theorem State.agentClk_parts (s : State) (a : Agent) (k : CoreCtr) : (s.agentClk a k).parts = s.parts := by unfold State.agentClk; split <;> rfl
@[simp] theorem State.agentClk_clus (s : State) (a : Agent) (k : CoreCtr) : (s.agentClk a k).clus = s.clus := by unfold State.agentClk; split <;> rfl
@[simp] theorem State.agentClk_mem (s : State) (a : Agent) (k : CoreCtr) : (s.agentClk a k).mem = s.mem := by unfold State.agentClk; split <;> rfl
@[simp] theorem State.agentClk_attr (s : State) (a : Agent) (k : CoreCtr) : (s.agentClk a k).attr = s.attr := by unfold State.agentClk; split <;> rfl

/-! modVec -/

@[simp] theorem State.modVec_agenda (s : State) (a : Agent) (f : VecState → VecState) : (s.modVec a f).agenda = s.agenda := by unfold State.modVec; split <;> rfl
@[simp] theorem State.modVec_cur (s : State) (a : Agent) (f : VecState → VecState) : (s.modVec a f).cur = s.cur := by unfold State.modVec; split <;> rfl
@[simp] theorem State.modVec_old (s : State) (a : Agent) (f : VecState → VecState) : (s.modVec a f).old = s.old := by unfold State.modVec; split <;> rfl
@[simp] theorem State.modVec_late (s : State) (a : Agent) (f : VecState → VecState) : (s.modVec a f).late = s.late := by unfold State.modVec; split <;> rfl
@[simp] theorem State.modVec_freeCtr (s : State) (a : Agent) (f : VecState → VecState) : (s.modVec a f).freeCtr = s.freeCtr := by unfold State.modVec; split <;> rfl
@[simp] theorem State.modVec_modl (s : State) (a : Agent) (f : VecState → VecState) : (s.modVec a f).modl = s.modl := by unfold State.modVec; split <;> rfl
@[simp] theorem State.modVec_plat (s : State) (a : Agent) (f : VecState → VecState) : (s.modVec a f).plat = s.plat := by unfold State.modVec; split <;> rfl
@[simp] theorem State.modVec_parts (s : State) (a : Agent) (f : VecState → VecState) : (s.modVec a f).parts = s.parts := by unfold State.modVec; split <;> rfl
@[simp] theorem State.modVec_clus (s : State) (a : Agent) (f : VecState → VecState) : (s.modVec a f).clus = s.clus := by unfold State.modVec; split <;> rfl
@[simp] theorem State.modVec_mem (s : State) (a : Agent) (f : VecState → VecState) : (s.modVec a f).mem = s.mem := by unfold State.modVec; split <;> rfl
@[simp] theorem State.modVec_attr (s : State) (a : Agent) (f : VecState → VecState) : (s.modVec a f).attr = s.attr := by unfold State.modVec; split <;> rfl

/-! bbEvent -/

@[simp] theorem State.bbEvent_agenda (s : State) (k p : Nat) (d : List Byte) : (s.bbEvent k p d).agenda = s.agenda := by unfold State.bbEvent; dsimp only; split <;> rfl
@[simp] theorem State.bbEvent_cur (s : State) (k p : Nat) (d : List Byte) : (s.bbEvent k p d).cur = s.cur := by unfold State.bbEvent; dsimp only; split <;> rfl
@[simp] theorem State.bbEvent_old (s : State) (k p : Nat) (d : List Byte) : (s.bbEvent k p d).old = s.old := by unfold State.bbEvent; dsimp only; split <;> rfl
@[simp] theorem State.bbEvent_late (s : State) (k p : Nat) (d : List Byte) : (s.bbEvent k p d).late = s.late := by unfold State.bbEvent; dsimp only; split <;> rfl
@[simp] theorem State.bbEvent_freeCtr (s : State) (k p : Nat) (d : List Byte) : (s.bbEvent k p d).freeCtr = s.freeCtr := by unfold State.bbEvent; dsimp only; split <;> rfl
@[simp] theorem State.bbEvent_modl (s : State) (k p : Nat) (d : List Byte) : (s.bbEvent k p d).modl = s.modl := by unfold State.bbEvent; dsimp only; split <;> rfl
@[simp] theorem State.bbEvent_parts (s : State) (k p : Nat) (d : List Byte) : (s.bbEvent k p d).parts = s.parts := by unfold State.bbEvent; dsimp only; split <;> rfl
@[simp] theorem State.bbEvent_clus (s : State) (k p : Nat) (d : List Byte) : (s.bbEvent k p d).clus = s.clus := by unfold State.bbEvent; dsimp only; split <;> rfl
@[simp] theorem State.bbEvent_cores (s : State) (k p : Nat) (d : List Byte) : (s.bbEvent k p d).cores = s.cores := by unfold State.bbEvent; dsimp only; split <;> rfl
@[simp] theorem State.bbEvent_mem (s : State) (k p : Nat) (d : List Byte) : (s.bbEvent k p d).mem = s.mem := by unfold State.bbEvent; dsimp only; split <;> rfl
@[simp] theorem State.bbEvent_attr (s : State) (k p : Nat) (d : List Byte) : (s.bbEvent k p d).attr = s.attr := by unfold State.bbEvent; dsimp only; split <;> rfl

/-! raiseVec -/

@[simp] theorem State.raiseVec_agenda (s : State) (n v : Nat) : (s.raiseVec n v).agenda = s.agenda := by unfold State.raiseVec; split <;> rfl
@[simp] theorem State.raiseVec_cur (s : State) (n v : Nat) : (s.raiseVec n v).cur = s.cur := by unfold State.raiseVec; split <;> rfl
@[simp] theorem State.raiseVec_old (s : State) (n v : Nat) : (s.raiseVec n v).old = s.old := by unfold State.raiseVec; split <;> rfl
@[simp] theorem State.raiseVec_late (s : State) (n v : Nat) : (s.raiseVec n v).late = s.late := by unfold State.raiseVec; split <;> rfl
@[simp] theorem State.raiseVec_freeCtr (s : State) (n v : Nat) : (s.raiseVec n v).freeCtr = s.freeCtr := by unfold State.raiseVec; split <;> rfl
@[simp] theorem State.raiseVec_modl (s : State) (n v : Nat) : (s.raiseVec n v).modl = s.modl := by unfold State.raiseVec; split <;> rfl
@[simp] theorem State.raiseVec_parts (s : State) (n v : Nat) : (s.raiseVec n v).parts = s.parts := by unfold State.raiseVec; split <;> rfl
@[simp] theorem State.raiseVec_clus (s : State) (n v : Nat) : (s.raiseVec n v).clus = s.clus := by unfold State.raiseVec; split <;> rfl
@[simp] theorem State.raiseVec_cores (s : State) (n v : Nat) : (s.raiseVec n v).cores = s.cores := by unfold State.raiseVec; split <;> rfl
@[simp] theorem State.raiseVec_mem (s : State) (n v : Nat) : (s.raiseVec n v).mem = s.mem := by unfold State.raiseVec; split <;> rfl
@[simp] theorem State.raiseVec_attr (s : State) (n v : Nat) : (s.raiseVec n v).attr = s.attr := by unfold State.raiseVec; split <;> rfl

/-! raisePart -/

@[simp] theorem State.raisePart_agenda (s : State) (p v : Nat) : (s.raisePart p v).agenda = s.agenda := by unfold State.raisePart State.raiseVec; split <;> rfl
@[simp] theorem State.raisePart_cur (s : State) (p v : Nat) : (s.raisePart p v).cur = s.cur := by unfold State.raisePart State.raiseVec; split <;> rfl
@[simp] theorem State.raisePart_old (s : State) (p v : Nat) : (s.raisePart p v).old = s.old := by unfold State.raisePart State.raiseVec; split <;> rfl
@[simp] theorem State.raisePart_late (s : State) (p v : Nat) : (s.raisePart p v).late = s.late := by unfold State.raisePart State.raiseVec; split <;> rfl
@[simp] theorem State.raisePart_freeCtr (s : State) (p v : Nat) : (s.raisePart p v).freeCtr = s.freeCtr := by unfold State.raisePart State.raiseVec; split <;> rfl
@[simp] theorem State.raisePart_modl (s : State) (p v : Nat) : (s.raisePart p v).modl = s.modl := by unfold State.raisePart State.raiseVec; split <;> rfl
@[simp] theorem State.raisePart_parts (s : State) (p v : Nat) : (s.raisePart p v).parts = s.parts := by unfold State.raisePart State.raiseVec; split <;> rfl
@[simp] theorem State.raisePart_clus (s : State) (p v : Nat) : (s.raisePart p v).clus = s.clus := by unfold State.raisePart State.raiseVec; split <;> rfl
@[simp] theorem State.raisePart_cores (s : State) (p v : Nat) : (s.raisePart p v).cores = s.cores := by unfold State.raisePart State.raiseVec; split <;> rfl
@[simp] theorem State.raisePart_mem (s : State) (p v : Nat) : (s.raisePart p v).mem = s.mem := by unfold State.raisePart State.raiseVec; split <;> rfl
@[simp] theorem State.raisePart_attr (s : State) (p v : Nat) : (s.raisePart p v).attr = s.attr := by unfold State.raisePart State.raiseVec; split <;> rfl

/-! putByte -/

@[simp] theorem State.putByte_agenda (s : State) (a : Nat) (b : Byte) : (s.putByte a b).agenda = s.agenda := rfl
@[simp] theorem State.putByte_cur (s : State) (a : Nat) (b : Byte) : (s.putByte a b).cur = s.cur := rfl
@[simp] theorem State.putByte_old (s : State) (a : Nat) (b : Byte) : (s.putByte a b).old = s.old := rfl
@[simp] theorem State.putByte_late (s : State) (a : Nat) (b : Byte) : (s.putByte a b).late = s.late := rfl
@[simp] theorem State.putByte_freeCtr (s : State) (a : Nat) (b : Byte) : (s.putByte a b).freeCtr = s.freeCtr := rfl
@[simp] theorem State.putByte_modl (s : State) (a : Nat) (b : Byte) : (s.putByte a b).modl = s.modl := rfl
@[simp] theorem State.putByte_plat (s : State) (a : Nat) (b : Byte) : (s.putByte a b).plat = s.plat := rfl
@[simp] theorem State.putByte_parts (s : State) (a : Nat) (b : Byte) : (s.putByte a b).parts = s.parts := rfl
@[simp] theorem State.putByte_clus (s : State) (a : Nat) (b : Byte) : (s.putByte a b).clus = s.clus := rfl
@[simp] theorem State.putByte_cores (s : State) (a : Nat) (b : Byte) : (s.putByte a b).cores = s.cores := rfl

/-! makeUndef -/

@[simp] theorem State.makeUndef_agenda (s : State) (lo hi : Nat) : (s.makeUndef lo hi).agenda = s.agenda := rfl
@[simp] theorem State.makeUndef_cur (s : State) (lo hi : Nat) : (s.makeUndef lo hi).cur = s.cur := rfl
@[simp] theorem State.makeUndef_old (s : State) (lo hi : Nat) : (s.makeUndef lo hi).old = s.old := rfl
@[simp] theorem State.makeUndef_late (s : State) (lo hi : Nat) : (s.makeUndef lo hi).late = s.late := rfl
@[simp] theorem State.makeUndef_modl (s : State) (lo hi : Nat) : (s.makeUndef lo hi).modl = s.modl := rfl
@[simp] theorem State.makeUndef_plat (s : State) (lo hi : Nat) : (s.makeUndef lo hi).plat = s.plat := rfl
@[simp] theorem State.makeUndef_parts (s : State) (lo hi : Nat) : (s.makeUndef lo hi).parts = s.parts := rfl
@[simp] theorem State.makeUndef_clus (s : State) (lo hi : Nat) : (s.makeUndef lo hi).clus = s.clus := rfl
@[simp] theorem State.makeUndef_cores (s : State) (lo hi : Nat) : (s.makeUndef lo hi).cores = s.cores := rfl
@[simp] theorem State.makeUndef_mem (s : State) (lo hi : Nat) : (s.makeUndef lo hi).mem = s.mem := rfl

/-! keepPrior -/

@[simp] theorem State.keepPrior_agenda (s : State) (ws : Table (List W32)) : (s.keepPrior ws).agenda = s.agenda := rfl
@[simp] theorem State.keepPrior_cur (s : State) (ws : Table (List W32)) : (s.keepPrior ws).cur = s.cur := rfl
@[simp] theorem State.keepPrior_old (s : State) (ws : Table (List W32)) : (s.keepPrior ws).old = s.old := rfl
@[simp] theorem State.keepPrior_late (s : State) (ws : Table (List W32)) : (s.keepPrior ws).late = s.late := rfl
@[simp] theorem State.keepPrior_freeCtr (s : State) (ws : Table (List W32)) : (s.keepPrior ws).freeCtr = s.freeCtr := rfl
@[simp] theorem State.keepPrior_modl (s : State) (ws : Table (List W32)) : (s.keepPrior ws).modl = s.modl := rfl
@[simp] theorem State.keepPrior_plat (s : State) (ws : Table (List W32)) : (s.keepPrior ws).plat = s.plat := rfl
@[simp] theorem State.keepPrior_parts (s : State) (ws : Table (List W32)) : (s.keepPrior ws).parts = s.parts := rfl
@[simp] theorem State.keepPrior_clus (s : State) (ws : Table (List W32)) : (s.keepPrior ws).clus = s.clus := rfl
@[simp] theorem State.keepPrior_cores (s : State) (ws : Table (List W32)) : (s.keepPrior ws).cores = s.cores := rfl
@[simp] theorem State.keepPrior_mem (s : State) (ws : Table (List W32)) : (s.keepPrior ws).mem = s.mem := rfl

/-! setCellSt -/

@[simp] theorem State.setCellSt_agenda (s : State) (a : Nat) (c : CellSt) : (s.setCellSt a c).agenda = s.agenda := rfl
@[simp] theorem State.setCellSt_cur (s : State) (a : Nat) (c : CellSt) : (s.setCellSt a c).cur = s.cur := rfl
@[simp] theorem State.setCellSt_old (s : State) (a : Nat) (c : CellSt) : (s.setCellSt a c).old = s.old := rfl
@[simp] theorem State.setCellSt_late (s : State) (a : Nat) (c : CellSt) : (s.setCellSt a c).late = s.late := rfl
@[simp] theorem State.setCellSt_freeCtr (s : State) (a : Nat) (c : CellSt) : (s.setCellSt a c).freeCtr = s.freeCtr := rfl
@[simp] theorem State.setCellSt_modl (s : State) (a : Nat) (c : CellSt) : (s.setCellSt a c).modl = s.modl := rfl
@[simp] theorem State.setCellSt_plat (s : State) (a : Nat) (c : CellSt) : (s.setCellSt a c).plat = s.plat := rfl
@[simp] theorem State.setCellSt_parts (s : State) (a : Nat) (c : CellSt) : (s.setCellSt a c).parts = s.parts := rfl
@[simp] theorem State.setCellSt_clus (s : State) (a : Nat) (c : CellSt) : (s.setCellSt a c).clus = s.clus := rfl
@[simp] theorem State.setCellSt_cores (s : State) (a : Nat) (c : CellSt) : (s.setCellSt a c).cores = s.cores := rfl
@[simp] theorem State.setCellSt_mem (s : State) (a : Nat) (c : CellSt) : (s.setCellSt a c).mem = s.mem := rfl

/-! stampPage -/

@[simp] theorem State.stampPage_agenda (s : State) (a : Nat) : (s.stampPage a).agenda = s.agenda := by unfold State.stampPage; dsimp only; (repeat' split) <;> rfl
@[simp] theorem State.stampPage_cur (s : State) (a : Nat) : (s.stampPage a).cur = s.cur := by unfold State.stampPage; dsimp only; (repeat' split) <;> rfl
@[simp] theorem State.stampPage_old (s : State) (a : Nat) : (s.stampPage a).old = s.old := by unfold State.stampPage; dsimp only; (repeat' split) <;> rfl
@[simp] theorem State.stampPage_late (s : State) (a : Nat) : (s.stampPage a).late = s.late := by unfold State.stampPage; dsimp only; (repeat' split) <;> rfl
@[simp] theorem State.stampPage_modl (s : State) (a : Nat) : (s.stampPage a).modl = s.modl := by unfold State.stampPage; dsimp only; (repeat' split) <;> rfl
@[simp] theorem State.stampPage_plat (s : State) (a : Nat) : (s.stampPage a).plat = s.plat := by unfold State.stampPage; dsimp only; (repeat' split) <;> rfl
@[simp] theorem State.stampPage_parts (s : State) (a : Nat) : (s.stampPage a).parts = s.parts := by unfold State.stampPage; dsimp only; (repeat' split) <;> rfl
@[simp] theorem State.stampPage_clus (s : State) (a : Nat) : (s.stampPage a).clus = s.clus := by unfold State.stampPage; dsimp only; (repeat' split) <;> rfl
@[simp] theorem State.stampPage_cores (s : State) (a : Nat) : (s.stampPage a).cores = s.cores := by unfold State.stampPage; dsimp only; (repeat' split) <;> rfl
@[simp] theorem State.stampPage_mem (s : State) (a : Nat) : (s.stampPage a).mem = s.mem := by unfold State.stampPage; dsimp only; (repeat' split) <;> rfl

/-! putBytes, touchImages -/

@[simp] theorem State.putBytes_agenda (s : State) (a : Nat) (bs : List Byte) : (s.putBytes a bs).agenda = s.agenda := by
  induction bs generalizing s a with
  | nil => rfl
  | cons b r ih => simp [State.putBytes, ih]
@[simp] theorem State.putBytes_cur (s : State) (a : Nat) (bs : List Byte) : (s.putBytes a bs).cur = s.cur := by
  induction bs generalizing s a with
  | nil => rfl
  | cons b r ih => simp [State.putBytes, ih]
@[simp] theorem State.putBytes_old (s : State) (a : Nat) (bs : List Byte) : (s.putBytes a bs).old = s.old := by
  induction bs generalizing s a with
  | nil => rfl
  | cons b r ih => simp [State.putBytes, ih]
@[simp] theorem State.putBytes_late (s : State) (a : Nat) (bs : List Byte) : (s.putBytes a bs).late = s.late := by
  induction bs generalizing s a with
  | nil => rfl
  | cons b r ih => simp [State.putBytes, ih]
@[simp] theorem State.putBytes_freeCtr (s : State) (a : Nat) (bs : List Byte) : (s.putBytes a bs).freeCtr = s.freeCtr := by
  induction bs generalizing s a with
  | nil => rfl
  | cons b r ih => simp [State.putBytes, ih]
@[simp] theorem State.putBytes_modl (s : State) (a : Nat) (bs : List Byte) : (s.putBytes a bs).modl = s.modl := by
  induction bs generalizing s a with
  | nil => rfl
  | cons b r ih => simp [State.putBytes, ih]
@[simp] theorem State.putBytes_plat (s : State) (a : Nat) (bs : List Byte) : (s.putBytes a bs).plat = s.plat := by
  induction bs generalizing s a with
  | nil => rfl
  | cons b r ih => simp [State.putBytes, ih]
@[simp] theorem State.putBytes_parts (s : State) (a : Nat) (bs : List Byte) : (s.putBytes a bs).parts = s.parts := by
  induction bs generalizing s a with
  | nil => rfl
  | cons b r ih => simp [State.putBytes, ih]
@[simp] theorem State.putBytes_clus (s : State) (a : Nat) (bs : List Byte) : (s.putBytes a bs).clus = s.clus := by
  induction bs generalizing s a with
  | nil => rfl
  | cons b r ih => simp [State.putBytes, ih]
@[simp] theorem State.putBytes_cores (s : State) (a : Nat) (bs : List Byte) : (s.putBytes a bs).cores = s.cores := by
  induction bs generalizing s a with
  | nil => rfl
  | cons b r ih => simp [State.putBytes, ih]

theorem foldl_fixed {α β γ : Type} (g : β → γ) (f : β → α → β) (h : ∀ b x, g (f b x) = g b) (l : List α) (b : β) : g (l.foldl f b) = g b := by
  induction l generalizing b with
  | nil => rfl
  | cons x r ih => rw [List.foldl_cons, ih, h]

@[simp] theorem State.touchImages_agenda (s : State) (a n : Nat) : (s.touchImages a n).agenda = s.agenda := by
  unfold State.touchImages
  split
  · rfl
  · split
    · rfl
    · exact foldl_fixed State.agenda _ (by intro b x; dsimp only; split <;> simp) _ _
@[simp] theorem State.touchImages_cur (s : State) (a n : Nat) : (s.touchImages a n).cur = s.cur := by
  unfold State.touchImages
  split
  · rfl
  · split
    · rfl
    · exact foldl_fixed State.cur _ (by intro b x; dsimp only; split <;> simp) _ _
@[simp] theorem State.touchImages_old (s : State) (a n : Nat) : (s.touchImages a n).old = s.old := by
  unfold State.touchImages
  split
  · rfl
  · split
    · rfl
    · exact foldl_fixed State.old _ (by intro b x; dsimp only; split <;> simp) _ _
@[simp] theorem State.touchImages_late (s : State) (a n : Nat) : (s.touchImages a n).late = s.late := by
  unfold State.touchImages
  split
  · rfl
  · split
    · rfl
    · exact foldl_fixed State.late _ (by intro b x; dsimp only; split <;> simp) _ _
@[simp] theorem State.touchImages_freeCtr (s : State) (a n : Nat) : (s.touchImages a n).freeCtr = s.freeCtr := by
  unfold State.touchImages
  split
  · rfl
  · split
    · rfl
    · exact foldl_fixed State.freeCtr _ (by intro b x; dsimp only; split <;> simp) _ _
@[simp] theorem State.touchImages_modl (s : State) (a n : Nat) : (s.touchImages a n).modl = s.modl := by
  unfold State.touchImages
  split
  · rfl
  · split
    · rfl
    · exact foldl_fixed State.modl _ (by intro b x; dsimp only; split <;> simp) _ _
@[simp] theorem State.touchImages_clus (s : State) (a n : Nat) : (s.touchImages a n).clus = s.clus := by
  unfold State.touchImages
  split
  · rfl
  · split
    · rfl
    · exact foldl_fixed State.clus _ (by intro b x; dsimp only; split <;> simp) _ _
@[simp] theorem State.touchImages_cores (s : State) (a n : Nat) : (s.touchImages a n).cores = s.cores := by
  unfold State.touchImages
  split
  · rfl
  · split
    · rfl
    · exact foldl_fixed State.cores _ (by intro b x; dsimp only; split <;> simp) _ _
@[simp] theorem State.touchImages_mem (s : State) (a n : Nat) : (s.touchImages a n).mem = s.mem := by
  unfold State.touchImages
  split
  · rfl
  · split
    · rfl
    · exact foldl_fixed State.mem _ (by intro b x; dsimp only; split <;> simp) _ _
@[simp] theorem State.touchImages_attr (s : State) (a n : Nat) : (s.touchImages a n).attr = s.attr := by
  unfold State.touchImages
  split
  · rfl
  · split
    · rfl
    · exact foldl_fixed State.attr _ (by intro b x; dsimp only; split <;> simp) _ _

@[simp] theorem State.write_agenda (s : State) (a : Nat) (bs : List Byte) : (s.write a bs).agenda = s.agenda := by simp [State.write]
@[simp] theorem State.store_agenda (s : State) (a : Nat) (bs : List Byte) : (s.store a bs).agenda = s.agenda := by simp [State.store]
@[simp] theorem State.write_cur (s : State) (a : Nat) (bs : List Byte) : (s.write a bs).cur = s.cur := by simp [State.write]
@[simp] theorem State.store_cur (s : State) (a : Nat) (bs : List Byte) : (s.store a bs).cur = s.cur := by simp [State.store]
@[simp] theorem State.write_old (s : State) (a : Nat) (bs : List Byte) : (s.write a bs).old = s.old := by simp [State.write]
@[simp] theorem State.store_old (s : State) (a : Nat) (bs : List Byte) : (s.store a bs).old = s.old := by simp [State.store]
@[simp] theorem State.write_late (s : State) (a : Nat) (bs : List Byte) : (s.write a bs).late = s.late := by simp [State.write]
@[simp] theorem State.store_late (s : State) (a : Nat) (bs : List Byte) : (s.store a bs).late = s.late := by simp [State.store]
@[simp] theorem State.write_modl (s : State) (a : Nat) (bs : List Byte) : (s.write a bs).modl = s.modl := by simp [State.write]
@[simp] theorem State.store_modl (s : State) (a : Nat) (bs : List Byte) : (s.store a bs).modl = s.modl := by simp [State.store]
@[simp] theorem State.write_clus (s : State) (a : Nat) (bs : List Byte) : (s.write a bs).clus = s.clus := by simp [State.write]
@[simp] theorem State.store_clus (s : State) (a : Nat) (bs : List Byte) : (s.store a bs).clus = s.clus := by simp [State.store]
@[simp] theorem State.write_cores (s : State) (a : Nat) (bs : List Byte) : (s.write a bs).cores = s.cores := by simp [State.write]
@[simp] theorem State.store_cores (s : State) (a : Nat) (bs : List Byte) : (s.store a bs).cores = s.cores := by simp [State.store]

/-! Lookups after an update. -/

@[simp] theorem State.core_setCore_self (s : State) (c : Nat) (x : Core) : (s.setCore c x).core c = x := by simp [State.core, State.setCore]
theorem State.core_setCore_of_ne (s : State) {c d : Nat} (x : Core) (h : d ≠ c) : (s.setCore c x).core d = s.core d := by
  simp [State.core, State.setCore, tget_tput_of_ne _ _ _ h]
theorem State.core_setCore (s : State) (c d : Nat) (x : Core) : (s.setCore c x).core d = if d = c then x else s.core d := by
  split
  · subst_vars; simp
  · exact s.core_setCore_of_ne x (by assumption)
@[simp] theorem State.core_modCore_self (s : State) (c : Nat) (f : Core → Core) : (s.modCore c f).core c = f (s.core c) := by simp [State.modCore]
theorem State.core_modCore_of_ne (s : State) {c d : Nat} (f : Core → Core) (h : d ≠ c) : (s.modCore c f).core d = s.core d := by
  simp [State.modCore, s.core_setCore_of_ne _ h]
@[simp] theorem State.cluster_setCluster_self (s : State) (g : Nat) (x : Cluster) : (s.setCluster g x).cluster g = x := by
  simp [State.cluster, State.setCluster]
theorem State.cluster_setCluster_of_ne (s : State) {g d : Nat} (x : Cluster) (h : d ≠ g) : (s.setCluster g x).cluster d = s.cluster d := by
  simp [State.cluster, State.setCluster, tget_tput_of_ne _ _ _ h]
@[simp] theorem State.cluster_modCluster_self (s : State) (g : Nat) (f : Cluster → Cluster) : (s.modCluster g f).cluster g = f (s.cluster g) := by
  simp [State.modCluster]
theorem State.cluster_modCluster_of_ne (s : State) {g d : Nat} (f : Cluster → Cluster) (h : d ≠ g) : (s.modCluster g f).cluster d = s.cluster d := by
  simp [State.modCluster, s.cluster_setCluster_of_ne _ h]
@[simp] theorem State.part_setPart_self (s : State) (p : Nat) (x : Part) : (s.setPart p x).part p = x := by simp [State.part, State.setPart]
theorem State.part_setPart_of_ne (s : State) {p d : Nat} (x : Part) (h : d ≠ p) : (s.setPart p x).part d = s.part d := by
  simp [State.part, State.setPart, tget_tput_of_ne _ _ _ h]
@[simp] theorem State.part_modPart_self (s : State) (p : Nat) (f : Part → Part) : (s.modPart p f).part p = f (s.part p) := by simp [State.modPart]
theorem State.part_modPart_of_ne (s : State) {p d : Nat} (f : Part → Part) (h : d ≠ p) : (s.modPart p f).part d = s.part d := by
  simp [State.modPart, s.part_setPart_of_ne _ h]
@[simp] theorem State.fn_modFn_self (s : State) (n : Nat) (f : Fn → Fn) : (s.modFn n f).fn n = f (s.fn n) := by
  simp [State.modFn, State.modPlat, State.fn]
theorem State.fn_modFn_of_ne (s : State) {n d : Nat} (f : Fn → Fn) (h : d ≠ n) : (s.modFn n f).fn d = s.fn d := by
  simp [State.modFn, State.modPlat, State.fn, tget_tput_of_ne _ _ _ h]
@[simp] theorem State.port_modPort_self (s : State) (n : Nat) (f : Port → Port) : (s.modPort n f).port n = f (s.port n) := by
  simp [State.modPort, State.modPlat, State.port]
theorem State.port_modPort_of_ne (s : State) {n d : Nat} (f : Port → Port) (h : d ≠ n) : (s.modPort n f).port d = s.port d := by
  simp [State.modPort, State.modPlat, State.port, tget_tput_of_ne _ _ _ h]

/-! Lookups that read one field. -/

theorem State.core_congr {s t : State} (h : t.cores = s.cores) (c : Nat) : t.core c = s.core c := by simp [State.core, h]
theorem State.cluster_congr {s t : State} (h : t.clus = s.clus) (g : Nat) : t.cluster g = s.cluster g := by simp [State.cluster, h]
theorem State.part_congr {s t : State} (h : t.parts = s.parts) (p : Nat) : t.part p = s.part p := by simp [State.part, h]
theorem State.fn_congr {s t : State} (h : t.plat = s.plat) (n : Nat) : t.fn n = s.fn n := by simp [State.fn, h]
theorem State.port_congr {s t : State} (h : t.plat = s.plat) (n : Nat) : t.port n = s.port n := by simp [State.port, h]
theorem State.partOf?_congr {s t : State} (h : t.parts = s.parts) (g : Nat) : t.partOf? g = s.partOf? g := by
  simp [State.partOf?, State.part, h]
theorem State.task?_congr {s t : State} (h : t.cores = s.cores) (k : t.clus = s.clus) (a : Agent) : t.task? a = s.task? a := by
  cases a <;> simp only [State.task?, State.core_congr h, State.cluster_congr k]
theorem State.task_congr {s t : State} (h : t.cores = s.cores) (k : t.clus = s.clus) (a : Agent) : t.task a = s.task a := by
  simp [State.task, State.task?_congr h k]
theorem State.byte_congr {s t : State} (h : t.mem = s.mem) (k : t.attr = s.attr) (a : Nat) : t.byte a = s.byte a := by simp [State.byte, h, k]

end Sys2Proof.Machine
end

