-- ==== Sys2Proof/Laws/Task.lean ====
section
/-! SUPPORT. The task of an agent, its core and its partition after an update. -/

namespace Sys2Proof.Machine

open Sys2Proof

@[simp] theorem Core.ctx_setCtx_self (k : Core) (n : Nat) (x : Context) : (k.setCtx n x).ctx n = x := by
  unfold Core.setCtx Core.ctx; split <;> rfl
@[simp] theorem Core.setCtx_run (k : Core) (n : Nat) (x : Context) : (k.setCtx n x).run = k.run := by unfold Core.setCtx; split <;> rfl
@[simp] theorem Core.setCtx_vec (k : Core) (n : Nat) (x : Context) : (k.setCtx n x).vec = k.vec := by unfold Core.setCtx; split <;> rfl
@[simp] theorem Core.setCtx_eng (k : Core) (n : Nat) (x : Context) : (k.setCtx n x).eng = k.eng := by unfold Core.setCtx; split <;> rfl
@[simp] theorem Core.setCtx_dmr (k : Core) (n : Nat) (x : Context) : (k.setCtx n x).dmr = k.dmr := by unfold Core.setCtx; split <;> rfl
@[simp] theorem Core.setCtx_ctr (k : Core) (n : Nat) (x : Context) : (k.setCtx n x).ctr = k.ctr := by unfold Core.setCtx; split <;> rfl
@[simp] theorem Core.setCtx_armFaults (k : Core) (n : Nat) (x : Context) : (k.setCtx n x).armFaults = k.armFaults := by
  unfold Core.setCtx; split <;> rfl
@[simp] theorem Core.running_setCtx_run (k : Core) (x : Context) : (k.setCtx k.run x).running = x := by simp [Core.running]

/-- The task of an agent after it is put back. -/
@[simp] theorem State.task?_setTask (s : State) (a : Agent) (t : Task) : (s.setTask a t).task? a = some t := by
  cases a <;> simp [State.setTask, State.task?]

@[simp] theorem State.task_setTask (s : State) (a : Agent) (t : Task) : (s.setTask a t).task a = t := by simp [State.task]

@[simp] theorem State.task_modTask (s : State) (a : Agent) (f : Task → Task) : (s.modTask a f).task a = f (s.task a) := by
  simp [State.modTask]

@[simp] theorem State.task?_modTask (s : State) (a : Agent) (f : Task → Task) : (s.modTask a f).task? a = some (f (s.task a)) := by
  simp [State.modTask]

/-- Two updates of one task are one. -/
theorem tput_tput {α : Type} (t : Table α) (k : Nat) (v w : α) : tput (tput t k v) k w = tput t k w := by
  induction t with
  | nil => simp [tput]
  | cons p r ih =>
    obtain ⟨j, x⟩ := p
    simp only [tput]
    split
    · simp [tput]
    · split
      · simp [tput]
      · rename_i h1 h2
        simp [tput, h1, h2, ih]

theorem State.setCore_setCore (s : State) (c : Nat) (x y : Core) : (s.setCore c x).setCore c y = s.setCore c y := by
  simp [State.setCore, tput_tput]

theorem Core.setCtx_setCtx (k : Core) (n : Nat) (x y : Context) : (k.setCtx n x).setCtx n y = k.setCtx n y := by
  unfold Core.setCtx; split <;> rfl

theorem State.setTask_setTask (s : State) (a : Agent) (t u : Task) : (s.setTask a t).setTask a u = s.setTask a u := by
  cases a <;> simp [State.setTask, State.modCore, State.modCluster, State.setCore, State.setCluster, State.core, State.cluster, tput_tput,
    Core.setCtx_setCtx]

/-- Both streams of a core see one task. -/
theorem State.task_execute (s : State) (c : Nat) : s.task (.execute c) = s.task (.access c) := rfl

theorem State.setTask_execute (s : State) (c : Nat) (t : Task) : s.setTask (.execute c) t = s.setTask (.access c) t := rfl

/-! What an update of a task leaves of its core. -/

@[simp] theorem State.vec_setTask (s : State) (a : Agent) (t : Task) (c : Nat) : ((s.setTask a t).core c).vec = (s.core c).vec := by
  cases a <;> simp only [State.setTask, State.modCore, State.core_setCore, State.core_congr (State.modCluster_cores ..)]
  all_goals (split <;> simp_all)
@[simp] theorem State.eng_setTask (s : State) (a : Agent) (t : Task) (c : Nat) : ((s.setTask a t).core c).eng = (s.core c).eng := by
  cases a <;> simp only [State.setTask, State.modCore, State.core_setCore, State.core_congr (State.modCluster_cores ..)]
  all_goals (split <;> simp_all)
@[simp] theorem State.dmr_setTask (s : State) (a : Agent) (t : Task) (c : Nat) : ((s.setTask a t).core c).dmr = (s.core c).dmr := by
  cases a <;> simp only [State.setTask, State.modCore, State.core_setCore, State.core_congr (State.modCluster_cores ..)]
  all_goals (split <;> simp_all)
@[simp] theorem State.run_setTask (s : State) (a : Agent) (t : Task) (c : Nat) : ((s.setTask a t).core c).run = (s.core c).run := by
  cases a <;> simp only [State.setTask, State.modCore, State.core_setCore, State.core_congr (State.modCluster_cores ..)]
  all_goals (split <;> simp_all)
@[simp] theorem State.vec_modTask (s : State) (a : Agent) (f : Task → Task) (c : Nat) : ((s.modTask a f).core c).vec = (s.core c).vec :=
  s.vec_setTask a _ c
@[simp] theorem State.eng_modTask (s : State) (a : Agent) (f : Task → Task) (c : Nat) : ((s.modTask a f).core c).eng = (s.core c).eng :=
  s.eng_setTask a _ c
@[simp] theorem State.dmr_modTask (s : State) (a : Agent) (f : Task → Task) (c : Nat) : ((s.modTask a f).core c).dmr = (s.core c).dmr :=
  s.dmr_setTask a _ c
@[simp] theorem State.run_modTask (s : State) (a : Agent) (f : Task → Task) (c : Nat) : ((s.modTask a f).core c).run = (s.core c).run :=
  s.run_setTask a _ c

/-! Updates that leave the tasks alone. -/

theorem State.task?_modCore (s : State) (c : Nat) (f : Core → Core)
    (h : ∀ k : Core, (f k).ctx0 = k.ctx0 ∧ (f k).ctx1 = k.ctx1 ∧ (f k).run = k.run) (a : Agent) : (s.modCore c f).task? a = s.task? a := by
  have hr (k : Core) : (f k).running = k.running := by
    obtain ⟨h0, h1, h2⟩ := h k
    simp [Core.running, Core.ctx, h0, h1, h2]
  have hc (d : Nat) : ((s.modCore c f).core d).running = (s.core d).running := by
    simp only [State.modCore, State.core_setCore]
    split
    · subst_vars; exact hr _
    · rfl
  cases a <;> simp only [State.task?, hc, State.cluster_congr (State.modCore_clus ..)]

theorem State.task_modCore (s : State) (c : Nat) (f : Core → Core)
    (h : ∀ k : Core, (f k).ctx0 = k.ctx0 ∧ (f k).ctx1 = k.ctx1 ∧ (f k).run = k.run) (a : Agent) : (s.modCore c f).task a = s.task a := by
  simp [State.task, s.task?_modCore c f h a]

@[simp] theorem State.task_coreCtr (s : State) (c : Nat) (k : CoreCtr) (n : Nat) (a : Agent) : (s.coreCtr c k n).task a = s.task a := by
  unfold State.coreCtr; exact s.task_modCore c _ (by simp) a
@[simp] theorem State.task_agentCtr (s : State) (b : Agent) (k : CoreCtr) (n : Nat) (a : Agent) : (s.agentCtr b k n).task a = s.task a := by
  unfold State.agentCtr; split <;> simp
@[simp] theorem State.task_drawn (s : State) (a : Agent) : s.drawn.task a = s.task a := rfl
@[simp] theorem State.task_modPart (s : State) (p : Nat) (f : Part → Part) (a : Agent) : (s.modPart p f).task a = s.task a :=
  State.task_congr rfl rfl a
@[simp] theorem State.task_modPlat (s : State) (f : Plat → Plat) (a : Agent) : (s.modPlat f).task a = s.task a := State.task_congr rfl rfl a
@[simp] theorem State.task_partCtr (s : State) (p : Nat) (k : PartCtr) (n : Nat) (a : Agent) : (s.partCtr p k n).task a = s.task a :=
  State.task_congr rfl rfl a
@[simp] theorem State.task_modVec (s : State) (b : Agent) (f : VecState → VecState) (a : Agent) : (s.modVec b f).task a = s.task a := by
  unfold State.modVec; split
  · exact s.task_modCore _ _ (by simp) a
  · rfl
@[simp] theorem State.task_coreClk (s : State) (c : Nat) (k : CoreCtr) (a : Agent) : (s.coreClk c k).task a = s.task a := by
  simp [State.coreClk]

theorem State.core_coreCtr (s : State) (c : Nat) (k : CoreCtr) (n d : Nat) :
    (s.coreCtr c k n).core d = if d = c then { s.core c with ctr := ctrAdd (s.core c).ctr k.num n } else s.core d := by
  simp [State.coreCtr, State.modCore, State.core_setCore]

@[simp] theorem State.vec_coreCtr (s : State) (c : Nat) (k : CoreCtr) (n d : Nat) : ((s.coreCtr c k n).core d).vec = (s.core d).vec := by
  rw [State.core_coreCtr]; split <;> simp_all
@[simp] theorem State.eng_coreCtr (s : State) (c : Nat) (k : CoreCtr) (n d : Nat) : ((s.coreCtr c k n).core d).eng = (s.core d).eng := by
  rw [State.core_coreCtr]; split <;> simp_all
@[simp] theorem State.dmr_coreCtr (s : State) (c : Nat) (k : CoreCtr) (n d : Nat) : ((s.coreCtr c k n).core d).dmr = (s.core d).dmr := by
  rw [State.core_coreCtr]; split <;> simp_all
@[simp] theorem State.vec_agentCtr (s : State) (a : Agent) (k : CoreCtr) (n d : Nat) : ((s.agentCtr a k n).core d).vec = (s.core d).vec := by
  unfold State.agentCtr; split <;> simp
@[simp] theorem State.eng_agentCtr (s : State) (a : Agent) (k : CoreCtr) (n d : Nat) : ((s.agentCtr a k n).core d).eng = (s.core d).eng := by
  unfold State.agentCtr; split <;> simp
@[simp] theorem State.dmr_agentCtr (s : State) (a : Agent) (k : CoreCtr) (n d : Nat) : ((s.agentCtr a k n).core d).dmr = (s.core d).dmr := by
  unfold State.agentCtr; split <;> simp

end Sys2Proof.Machine
end

