-- ==== Sys2Proof/Laws/Issue.lean ====
section
/-! SUPPORT. Issuing a word: what the state at its issue and the state after it hold, and the answer of a word that is ready. -/

namespace Sys2Proof.Machine

open Sys2Proof

/-! The state at issue. -/

@[simp] theorem task_countRendezvous (b : Agent) (w : WordInfo) (s : State) (a : Agent) : (countRendezvous b w s).task a = s.task a := by
  unfold countRendezvous; split <;> (try split) <;> simp

@[simp] theorem State.task_agentClk (s : State) (b : Agent) (k : CoreCtr) (a : Agent) : (s.agentClk b k).task a = s.task a := by
  unfold State.agentClk; split <;> simp

@[simp] theorem task_countFreeze (b : Agent) (w : WordInfo) (s : State) (a : Agent) : (countFreeze b w s).task a = s.task a := by
  unfold countFreeze; split <;> simp

/-- What counting a word's rendezvous and its freeze leaves: all but counters and the number of the next free value. -/
structure CountsOnly (s t : State) : Prop where
  mem : t.mem = s.mem
  attr : t.attr = s.attr
  parts : t.parts = s.parts
  plat : t.plat = s.plat
  modl : t.modl = s.modl
  agenda : t.agenda = s.agenda
  cur : t.cur = s.cur
  late : t.late = s.late
  old : t.old = s.old
  clus : t.clus = s.clus
  core : ∀ c, (t.core c).vec = (s.core c).vec ∧ (t.core c).eng = (s.core c).eng ∧ (t.core c).dmr = (s.core c).dmr
  task? : ∀ a, t.task? a = s.task? a

theorem CountsOnly.refl (s : State) : CountsOnly s s :=
  { mem := rfl, attr := rfl, parts := rfl, plat := rfl, modl := rfl, agenda := rfl, cur := rfl, late := rfl, old := rfl, clus := rfl
    core := fun _ => ⟨rfl, rfl, rfl⟩, task? := fun _ => rfl }

theorem CountsOnly.trans {s t u : State} (h : CountsOnly s t) (k : CountsOnly t u) : CountsOnly s u :=
  { mem := k.mem.trans h.mem, attr := k.attr.trans h.attr, parts := k.parts.trans h.parts, plat := k.plat.trans h.plat, modl := k.modl.trans h.modl
    agenda := k.agenda.trans h.agenda, cur := k.cur.trans h.cur, late := k.late.trans h.late, old := k.old.trans h.old, clus := k.clus.trans h.clus
    core := fun c => ⟨(k.core c).1.trans (h.core c).1, (k.core c).2.1.trans (h.core c).2.1, (k.core c).2.2.trans (h.core c).2.2⟩
    task? := fun a => (k.task? a).trans (h.task? a) }

theorem task?_agentCtr (s : State) (b : Agent) (k : CoreCtr) (n : Nat) (a : Agent) : (s.agentCtr b k n).task? a = s.task? a := by
  unfold State.agentCtr
  split
  · unfold State.coreCtr; exact s.task?_modCore _ _ (by simp) a
  · rfl

theorem countsOnly_agentCtr (s : State) (a : Agent) (k : CoreCtr) (n : Nat) : CountsOnly s (s.agentCtr a k n) :=
  { mem := by simp, attr := by simp, parts := by simp, plat := by simp, modl := by simp, agenda := by simp, cur := by simp, late := by simp, old := by simp
    clus := by simp, core := fun c => by simp, task? := task?_agentCtr s a k n }

theorem countsOnly_drawn (s : State) : CountsOnly s s.drawn :=
  { mem := rfl, attr := rfl, parts := rfl, plat := rfl, modl := rfl, agenda := rfl, cur := rfl, late := rfl, old := rfl, clus := rfl
    core := fun _ => ⟨rfl, rfl, rfl⟩, task? := fun a => by cases a <;> rfl }

theorem countsOnly_coreCtr (s : State) (c : Nat) (k : CoreCtr) (n : Nat) : CountsOnly s (s.coreCtr c k n) := countsOnly_agentCtr s (.access c) k n

theorem countsOnly_agentClk (s : State) (a : Agent) (k : CoreCtr) : CountsOnly s (s.agentClk a k) := by
  unfold State.agentClk
  split
  · exact (countsOnly_coreCtr ..).trans (countsOnly_drawn _)
  · exact .refl s

theorem countRendezvous_counts (a : Agent) (w : WordInfo) (s : State) : CountsOnly s (countRendezvous a w s) := by
  unfold countRendezvous
  split
  · split
    · exact countsOnly_agentCtr ..
    · exact (countsOnly_agentCtr ..).trans (countsOnly_agentCtr ..)
  · exact .refl s

theorem countFreeze_counts (a : Agent) (w : WordInfo) (s : State) : CountsOnly s (countFreeze a w s) := by
  unfold countFreeze
  split
  · exact countsOnly_agentClk ..
  · exact .refl s

/-- The counters of a word's issue. -/
def counting (a : Agent) (w : WordInfo) (s : State) : State := countFreeze a w (countRendezvous a w s)

theorem counting_counts (a : Agent) (w : WordInfo) (s : State) : CountsOnly s (counting a w s) :=
  (countRendezvous_counts a w s).trans (countFreeze_counts a w _)

@[simp] theorem task_counting (b : Agent) (w : WordInfo) (s : State) (a : Agent) : (counting b w s).task a = s.task a := by simp [counting]

/-- A word whose operands read no bounded result draws no free value at its issue. -/
theorem counting_freeCtr {a : Agent} {w : WordInfo} {s : State} (h : freezes a w (countRendezvous a w s) = false) :
    (counting a w s).freeCtr = s.freeCtr := by
  unfold counting countFreeze
  simp only [h, Bool.false_eq_true, if_false]
  unfold countRendezvous
  split <;> (try split) <;> simp

/-- The task of an agent with the rows that the word reads landed (02 R51). -/
def rowsLanded (a : Agent) (w : WordInfo) (s : State) : Task :=
  match a with
  | .execute c => if rowless w then s.task a else landKeys (readsRow w (s.groupSize c)) (s.task a)
  | _ => s.task a

/-- A word without a field that reads rows leaves the task. -/
theorem rowsLanded_of_rowless {a : Agent} {w : WordInfo} (h : a.kind = .access ∨ rowless w = true) (s : State) : rowsLanded a w s = s.task a := by
  unfold rowsLanded
  cases a <;> simp_all [Agent.kind]

@[simp] theorem rowsLanded_window (a : Agent) (w : WordInfo) (s : State) : (rowsLanded a w s).window = (s.task a).window := by
  unfold rowsLanded; cases a <;> (dsimp only [landKeys]; try split) <;> rfl
@[simp] theorem rowsLanded_sels (a : Agent) (w : WordInfo) (s : State) : (rowsLanded a w s).sels = (s.task a).sels := by
  unfold rowsLanded; cases a <;> (dsimp only [landKeys]; try split) <;> rfl
@[simp] theorem rowsLanded_regs (a : Agent) (w : WordInfo) (s : State) : (rowsLanded a w s).regs = (s.task a).regs := by
  unfold rowsLanded; cases a <;> (dsimp only [landKeys]; try split) <;> rfl
@[simp] theorem rowsLanded_preds (a : Agent) (w : WordInfo) (s : State) : (rowsLanded a w s).preds = (s.task a).preds := by
  unfold rowsLanded; cases a <;> (dsimp only [landKeys]; try split) <;> rfl
@[simp] theorem rowsLanded_q (a : Agent) (w : WordInfo) (s : State) : (rowsLanded a w s).q = (s.task a).q := by
  unfold rowsLanded; cases a <;> (dsimp only [landKeys]; try split) <;> rfl
@[simp] theorem rowsLanded_a (a : Agent) (w : WordInfo) (s : State) : (rowsLanded a w s).a = (s.task a).a := by
  unfold rowsLanded; cases a <;> (dsimp only [landKeys]; try split) <;> rfl
@[simp] theorem rowsLanded_clk (a : Agent) (w : WordInfo) (s : State) : (rowsLanded a w s).x.clk = (s.task a).x.clk := by
  unfold rowsLanded; cases a <;> (dsimp only [landKeys]; try split) <;> rfl

/-- A landed result's bound is 0, and the others stand. -/
theorem tget_landKeys (p : Nat → Bool) (t : Task) (k : Nat) :
    tget 0 (landKeys p t).x.ready k = if p k && decide (tget 0 t.x.ready k ≤ t.x.clk) then 0 else tget 0 t.x.ready k := by
  show tget 0 (t.x.ready.map fun e => if p e.1 && decide (e.2 ≤ t.x.clk) then (e.1, 0) else e) k = _
  generalize t.x.ready = l
  induction l with
  | nil => simp [tget, tget?]
  | cons x l ih =>
    obtain ⟨j, v⟩ := x
    simp only [tget, List.map_cons] at ih ⊢
    by_cases hj : j = k
    · subst hj
      by_cases hp : (p j && decide (v ≤ t.x.clk)) = true <;> simp [tget?, hp]
    · by_cases hp : (p j && decide (v ≤ t.x.clk)) = true <;>
        simp only [tget?, hp, hj, if_true, if_false, Bool.false_eq_true] <;> exact ih

/-- No read at the clock or later becomes early or late by it. -/
theorem early_landKeys (p : Nat → Bool) (t : Task) (k : Nat) {at_ : Nat} (h : t.x.clk ≤ at_) : early (landKeys p t) k at_ = early t k at_ := by
  unfold early
  rw [tget_landKeys]
  split
  · rename_i hc
    simp only [Bool.and_eq_true, decide_eq_true_eq] at hc
    simp only [landKeys]
    have : ¬ at_ < tget 0 t.x.ready k := by omega
    simp [this]
  · rfl

theorem landRows_task (a : Agent) (w : WordInfo) (s : State) : (landRows a w s).task a = rowsLanded a w s := by
  unfold landRows rowsLanded
  cases a <;> dsimp only
  split <;> simp

theorem rowsLanded_counting (a : Agent) (w : WordInfo) (s : State) : rowsLanded a w (counting a w s) = rowsLanded a w s := by
  unfold rowsLanded
  cases a <;> simp [State.groupSize, ((counting_counts _ w s).core _).1]

theorem atIssue_task (a : Agent) (w : WordInfo) (s : State) : (atIssue a w s).task a = entered w a (rowsLanded a w s) := by
  have h := landRows_task a w (counting a w s)
  rw [rowsLanded_counting] at h
  unfold counting at h
  simp [atIssue, entered, h]

/-- The task at the issue of a word without row operands. -/
theorem atIssue_task_of_rowless {a : Agent} {w : WordInfo} (h : a.kind = .access ∨ rowless w = true) (s : State) :
    (atIssue a w s).task a = entered w a (s.task a) := by rw [atIssue_task, rowsLanded_of_rowless h]

theorem afterIssue_task (a : Agent) (s : State) : (afterIssue a s).task a = settled a (s.task a) := by
  cases a <;> simp [afterIssue, settled]

theorem atIssue_eq (a : Agent) (w : WordInfo) (s : State) : atIssue a w s = (counting a w s).setTask a (entered w a (rowsLanded a w s)) := by
  have h := landRows_task a w (counting a w s)
  rw [rowsLanded_counting] at h
  have hs : ∀ t, (landRows a w (counting a w s)).setTask a t = (counting a w s).setTask a t := by
    intro t
    unfold landRows
    cases a <;> dsimp only
    split
    · rfl
    · simp only [State.modTask, State.setTask_setTask]
  rw [← h, ← hs]
  simp only [atIssue, counting, State.modTask, entered]

@[simp] theorem atIssue_mem (a : Agent) (w : WordInfo) (s : State) : (atIssue a w s).mem = s.mem := by
  simp [atIssue_eq, (counting_counts a w s).mem]
@[simp] theorem atIssue_attr (a : Agent) (w : WordInfo) (s : State) : (atIssue a w s).attr = s.attr := by
  simp [atIssue_eq, (counting_counts a w s).attr]
@[simp] theorem atIssue_parts (a : Agent) (w : WordInfo) (s : State) : (atIssue a w s).parts = s.parts := by
  simp [atIssue_eq, (counting_counts a w s).parts]
@[simp] theorem atIssue_plat (a : Agent) (w : WordInfo) (s : State) : (atIssue a w s).plat = s.plat := by
  simp [atIssue_eq, (counting_counts a w s).plat]
@[simp] theorem atIssue_modl (a : Agent) (w : WordInfo) (s : State) : (atIssue a w s).modl = s.modl := by
  simp [atIssue_eq, (counting_counts a w s).modl]
@[simp] theorem atIssue_agenda (a : Agent) (w : WordInfo) (s : State) : (atIssue a w s).agenda = s.agenda := by
  simp [atIssue_eq, (counting_counts a w s).agenda]
@[simp] theorem atIssue_cur (a : Agent) (w : WordInfo) (s : State) : (atIssue a w s).cur = s.cur := by
  simp [atIssue_eq, (counting_counts a w s).cur]
@[simp] theorem atIssue_late (a : Agent) (w : WordInfo) (s : State) : (atIssue a w s).late = s.late := by
  simp [atIssue_eq, (counting_counts a w s).late]
@[simp] theorem atIssue_old (a : Agent) (w : WordInfo) (s : State) : (atIssue a w s).old = s.old := by
  simp [atIssue_eq, (counting_counts a w s).old]

@[simp] theorem atIssue_vec (a : Agent) (w : WordInfo) (s : State) (c : Nat) : ((atIssue a w s).core c).vec = (s.core c).vec := by
  simp [atIssue_eq, ((counting_counts a w s).core c).1]
@[simp] theorem atIssue_eng (a : Agent) (w : WordInfo) (s : State) (c : Nat) : ((atIssue a w s).core c).eng = (s.core c).eng := by
  simp [atIssue_eq, ((counting_counts a w s).core c).2.1]
@[simp] theorem atIssue_dmr (a : Agent) (w : WordInfo) (s : State) (c : Nat) : ((atIssue a w s).core c).dmr = (s.core c).dmr := by
  simp [atIssue_eq, ((counting_counts a w s).core c).2.2]

/-! The state after the word. -/

@[simp] theorem afterIssue_mem (a : Agent) (s : State) : (afterIssue a s).mem = s.mem := by simp [afterIssue]
@[simp] theorem afterIssue_attr (a : Agent) (s : State) : (afterIssue a s).attr = s.attr := by simp [afterIssue]
@[simp] theorem afterIssue_parts (a : Agent) (s : State) : (afterIssue a s).parts = s.parts := by simp [afterIssue]
@[simp] theorem afterIssue_plat (a : Agent) (s : State) : (afterIssue a s).plat = s.plat := by simp [afterIssue]
@[simp] theorem afterIssue_modl (a : Agent) (s : State) : (afterIssue a s).modl = s.modl := by simp [afterIssue]
@[simp] theorem afterIssue_agenda (a : Agent) (s : State) : (afterIssue a s).agenda = s.agenda := by simp [afterIssue]
@[simp] theorem afterIssue_freeCtr (a : Agent) (s : State) : (afterIssue a s).freeCtr = s.freeCtr := by simp [afterIssue]
@[simp] theorem afterIssue_cur (a : Agent) (s : State) : (afterIssue a s).cur = s.cur := by simp [afterIssue]
@[simp] theorem afterIssue_late (a : Agent) (s : State) : (afterIssue a s).late = s.late := by simp [afterIssue]
@[simp] theorem afterIssue_vec (a : Agent) (s : State) (c : Nat) : ((afterIssue a s).core c).vec = (s.core c).vec := by simp [afterIssue]
@[simp] theorem afterIssue_eng (a : Agent) (s : State) (c : Nat) : ((afterIssue a s).core c).eng = (s.core c).eng := by simp [afterIssue]
@[simp] theorem afterIssue_dmr (a : Agent) (s : State) (c : Nat) : ((afterIssue a s).core c).dmr = (s.core c).dmr := by simp [afterIssue]

/-! The answer. -/

/-- A word that is ready has its effect, and its stream goes on. -/
theorem issue_ready {w : WordInfo} {a : Agent} {s s2 : State} {body : Ctx → State → Except Stop State} (h : Ready w a s)
    (hb : body (ctxOf a w s) (atIssue a w s) = .ok s2) : issue w s body = .next (afterIssue a s2) := by
  obtain ⟨rfl, hl, hc, hg, ha, hgs, hon, hr⟩ := h
  simp only [issue, hl, ↓reduceIte, issueLive, hc, hg, ha, hgs, hon, hr, hb, Bool.not_true, Bool.false_eq_true]

/-- A ready word that stops holds or takes its trap. -/
theorem issue_stop {w : WordInfo} {a : Agent} {s : State} {st : Stop} {body : Ctx → State → Except Stop State} (h : Ready w a s)
    (hb : body (ctxOf a w s) (atIssue a w s) = .error st) : issue w s body = .next (stopStep a st s) := by
  obtain ⟨rfl, hl, hc, hg, ha, hgs, hon, hr⟩ := h
  simp only [issue, hl, ↓reduceIte, issueLive, hc, hg, ha, hgs, hon, hr, hb, Bool.not_true, Bool.false_eq_true]

/-! Operands of the access stream and of control cores. -/

theorem readReg_of_access {c : Ctx} (h : c.a.kind = .access) (k : Nat) (s : State) : readReg c k s = (tget 0#64 (s.task c.a).regs k, s) := by
  unfold readReg
  cases hc : c.a <;> simp_all [Agent.kind]

theorem readScalar_of_access {c : Ctx} (h : c.a.kind = .access) {x : Scalar} (hx : x.queue? = none) (s : State) :
    readScalar c x s = (srcVal (s.task c.a) x, s) := by
  cases x <;> simp_all [readScalar, srcVal, readReg_of_access, Scalar.queue?]

theorem readPred_of_access {c : Ctx} (h : c.a.kind = .access) (p : Pred) (s : State) :
    readPred c p s = ((s.task c.a).preds.getLsbD p.val, s) := by
  unfold readPred
  cases hc : c.a <;> simp_all [Agent.kind]

theorem writeReg_of_access {c : Ctx} (h : c.a.kind = .access) (k b : Nat) (v : W64) (s : State) :
    writeReg c k b v s = s.setTask c.a { s.task c.a with regs := tput (s.task c.a).regs k v, a := { (s.task c.a).a with pend := tdel (s.task c.a).a.pend k } } := by
  unfold writeReg
  cases hc : c.a <;> simp_all [Agent.kind]

theorem writeDst_of_access {c : Ctx} (h : c.a.kind = .access) (d : SDst) (b : Nat) (v : W64) (s : State) :
    (writeDst c d b v s).task c.a = written c.seq d v (s.task c.a) := by
  cases d <;> simp only [writeDst, written, writeReg_of_access h, State.task_setTask]
  unfold pushSq
  dsimp only
  split <;> simp

/-- A word of the access stream only, or of it and of control cores, is ready in no other stream. -/
theorem Ready.access {w : WordInfo} {a : Agent} {s : State} (h : Ready w a s) (hx : w.execute = false) : a.kind = .access := by
  have hl := h.legal
  cases hk : a.kind with
  | access => rfl
  | execute => simp [WordInfo.legal, hk, hx] at hl

/-- No operand of a ready word of the access stream pops a scalar queue. -/
theorem Ready.src_queue {w : WordInfo} {a : Agent} {s : State} (h : Ready w a s) (ha : a.kind = .access) {x : Scalar}
    (hx : Role.src x ∈ w.roles) : x.queue? = none := by
  have hl := h.legal
  simp only [WordInfo.legal, Bool.and_eq_true, List.all_eq_true] at hl
  have := hl.1.1.2 _ hx
  cases x <;> simp_all [Scalar.queue?, Role.ok, Role.okCtl, Role.queue?]

/-! Words whose effect is on their task alone. -/

theorem atIssue_setTask_self (a : Agent) (w : WordInfo) (s : State) :
    (atIssue a w s).setTask a ((atIssue a w s).task a) = atIssue a w s := by
  rw [atIssue_eq, State.setTask_setTask, State.task_setTask]

/-- The words in the roles of a written destination, in one update of the task. -/
theorem writeDst_eq_setTask {c : Ctx} (h : c.a.kind = .access) (d : SDst) (b : Nat) (v : W64) (s : State)
    (hs : s.setTask c.a (s.task c.a) = s) : writeDst c d b v s = s.setTask c.a (written c.seq d v (s.task c.a)) := by
  cases d <;> simp only [writeDst, written, writeReg_of_access h, hs]
  unfold pushSq
  dsimp only
  split <;> simp [hs]

@[simp] theorem State.cluster_modCore (s : State) (c : Nat) (f : Core → Core) (g : Nat) : (s.modCore c f).cluster g = s.cluster g :=
  State.cluster_congr rfl g
@[simp] theorem State.core_modCluster (s : State) (g : Nat) (f : Cluster → Cluster) (c : Nat) : (s.modCluster g f).core c = s.core c :=
  State.core_congr rfl c

theorem task?_setTask_of_ne (s : State) {a b : Agent} (t : Task) (h : b.core? ≠ a.core? ∨ (a.core? = none ∧ b ≠ a)) :
    (s.setTask a t).task? b = s.task? b := by
  cases a <;> cases b <;> simp_all [State.setTask, State.task?, Agent.core?, State.core_modCore_of_ne, State.cluster_modCluster_of_ne]

theorem SameOutside.refl (s : State) : SameOutside s s := ⟨rfl, rfl, rfl, rfl, rfl, rfl⟩
theorem SameOutside.trans {s t u : State} (h : SameOutside s t) (k : SameOutside t u) : SameOutside s u := by
  obtain ⟨h1, h2, h3, h4, h5, h6⟩ := h
  obtain ⟨k1, k2, k3, k4, k5, k6⟩ := k
  exact ⟨k1.trans h1, k2.trans h2, k3.trans h3, k4.trans h4, k5.trans h5, k6.trans h6⟩
theorem SameCores.refl (a : Agent) (s : State) : SameCores a s s := ⟨fun _ => ⟨rfl, rfl, rfl⟩, fun _ _ => rfl⟩
theorem SameCores.trans {a : Agent} {s t u : State} (h : SameCores a s t) (k : SameCores a t u) : SameCores a s u := by
  refine ⟨fun c => ?_, fun b hb => (k.2 b hb).trans (h.2 b hb)⟩
  exact ⟨(k.1 c).1.trans (h.1 c).1, (k.1 c).2.1.trans (h.1 c).2.1, (k.1 c).2.2.trans (h.1 c).2.2⟩

theorem sameOutside_setTask (s : State) (a : Agent) (t : Task) : SameOutside s (s.setTask a t) := by simp [SameOutside]
theorem sameCores_setTask (s : State) (a : Agent) (t : Task) : SameCores a s (s.setTask a t) :=
  ⟨fun c => by simp, fun _ hb => task?_setTask_of_ne s t hb⟩
theorem sameOutside_afterIssue (a : Agent) (s : State) : SameOutside s (afterIssue a s) := sameOutside_setTask ..
theorem sameCores_afterIssue (a : Agent) (s : State) : SameCores a s (afterIssue a s) := sameCores_setTask ..
theorem sameOutside_agentCtr (s : State) (a : Agent) (k : CoreCtr) (n : Nat) : SameOutside s (s.agentCtr a k n) := by simp [SameOutside]
theorem sameCores_agentCtr (s : State) (b a : Agent) (k : CoreCtr) (n : Nat) : SameCores a s (s.agentCtr b k n) :=
  ⟨fun c => by simp, fun _ _ => task?_agentCtr ..⟩
theorem sameOutside_atIssue (a : Agent) (w : WordInfo) (s : State) : SameOutside s (atIssue a w s) := by simp [SameOutside]
theorem sameCores_atIssue (a : Agent) (w : WordInfo) (s : State) : SameCores a s (atIssue a w s) := by
  rw [atIssue_eq]
  exact SameCores.trans (t := counting a w s) ⟨(counting_counts a w s).core, fun b _ => (counting_counts a w s).task? b⟩ (sameCores_setTask ..)

/-- A ready word whose effect keeps all but its own task. -/
theorem issue_same {w : WordInfo} {a : Agent} {s s2 : State} {body : Ctx → State → Except Stop State} (h : Ready w a s)
    (hb : body (ctxOf a w s) (atIssue a w s) = .ok s2) (ho : SameOutside (atIssue a w s) s2) (hc : SameCores a (atIssue a w s) s2) :
    ∃ t, issue w s body = .next t ∧ t.task a = settled a (s2.task a) ∧ SameOutside s t ∧ SameCores a s t :=
  ⟨_, issue_ready h hb, afterIssue_task a s2, ((sameOutside_atIssue a w s).trans ho).trans (sameOutside_afterIssue a s2),
    ((sameCores_atIssue a w s).trans hc).trans (sameCores_afterIssue a s2)⟩

/-- A ready word whose effect is one update of its task. -/
theorem issue_setTask {w : WordInfo} {a : Agent} {s : State} {t' : Task} {body : Ctx → State → Except Stop State} (h : Ready w a s)
    (hb : body (ctxOf a w s) (atIssue a w s) = .ok ((atIssue a w s).setTask a t')) :
    ∃ t, issue w s body = .next t ∧ t.task a = settled a t' ∧ SameOutside s t ∧ SameCores a s t := by
  have := issue_same h hb (sameOutside_setTask ..) (sameCores_setTask ..)
  simpa using this

/-- A ready word of the access stream whose effect is to write a destination. -/
theorem issue_writeDst {w : WordInfo} {a : Agent} {s : State} {d : SDst} {b : Nat} {v : W64} {body : Ctx → State → Except Stop State}
    (h : Ready w a s) (ha : a.kind = .access) (hb : body (ctxOf a w s) (atIssue a w s) = .ok (writeDst (ctxOf a w s) d b v (atIssue a w s))) :
    ∃ t, issue w s body = .next t ∧ t.task a = settled a (written (s.task a).a.seq d v (entered w a (s.task a))) ∧
      SameOutside s t ∧ SameCores a s t := by
  rw [writeDst_eq_setTask (c := ctxOf a w s) ha d b v _ (atIssue_setTask_self a w s)] at hb
  have := issue_setTask h hb
  rw [show (atIssue a w s).task (ctxOf a w s).a = entered w a (s.task a) from atIssue_task_of_rowless (.inl ha) s] at this
  exact this

/-- Stepping past a word leaves the registers. -/
theorem entered_regs (w : WordInfo) (a : Agent) (t : Task) : (entered w a t).regs = t.regs := by
  unfold entered stepPast landReads landKeys
  cases a <;> dsimp only <;> (repeat' split) <;> simp [Task.setPc, Task.setRep] <;> (repeat' split) <;> rfl
theorem entered_preds (w : WordInfo) (a : Agent) (t : Task) : (entered w a t).preds = t.preds := by
  unfold entered stepPast landReads landKeys
  cases a <;> dsimp only <;> (repeat' split) <;> simp [Task.setPc, Task.setRep] <;> (repeat' split) <;> rfl
theorem entered_q (w : WordInfo) (a : Agent) (t : Task) : (entered w a t).q = t.q := by
  unfold entered stepPast landReads landKeys
  cases a <;> dsimp only <;> (repeat' split) <;> simp [Task.setPc, Task.setRep] <;> (repeat' split) <;> rfl
theorem srcVal_entered (w : WordInfo) (a : Agent) (t : Task) (x : Scalar) : srcVal (entered w a t) x = srcVal t x := by
  cases x <;> simp [srcVal, entered_regs]

/-- The operands of a ready word of the access stream. -/
theorem Ready.read {w : WordInfo} {a : Agent} {s : State} (h : Ready w a s) (ha : a.kind = .access) {x : Scalar} (hx : Role.src x ∈ w.roles) :
    readScalar (ctxOf a w s) x (atIssue a w s) = (srcVal (s.task a) x, atIssue a w s) := by
  rw [readScalar_of_access (c := ctxOf a w s) ha (h.src_queue ha hx)]
  show (srcVal ((atIssue a w s).task a) x, _) = _
  rw [atIssue_task_of_rowless (.inl ha), srcVal_entered]

end Sys2Proof.Machine
end

