-- ==== Sys2Proof/Laws/Memory.lean ====
section
/-! SUPPORT. Memory: read after write, and the canonical form of the list of bytes. -/

namespace Sys2Proof.Machine

open Sys2Proof

/-! The list. -/

theorem memWfFrom_mono {lo lo' : Nat} (h : lo' ≤ lo) (m : List Host.Cell) : memWfFrom lo m = true → memWfFrom lo' m = true := by
  cases m with
  | nil => intro; rfl
  | cons c r =>
    obtain ⟨a, b⟩ := c
    simp only [memWfFrom, Bool.and_eq_true, decide_eq_true_eq]
    exact fun h' => ⟨⟨by omega, h'.1.2⟩, h'.2⟩

theorem readCell_of_lt {lo : Nat} (m : List Host.Cell) (h : memWfFrom lo m = true) {a : Nat} (ha : a < lo) : readCell m a = unlistedByte := by
  induction m generalizing lo with
  | nil => rfl
  | cons c r ih =>
    obtain ⟨j, b⟩ := c
    simp only [memWfFrom, Bool.and_eq_true, decide_eq_true_eq] at h
    have : j ≠ a := by omega
    simp only [readCell, this, ↓reduceIte]
    exact ih h.2 (by omega)

/-- A write keeps the canonical form. -/
theorem writeCell_wf (m : List Host.Cell) (a : Nat) (b : Byte) (lo : Nat) (hlo : lo ≤ a) (h : memWfFrom lo m = true) :
    memWfFrom lo (writeCell m a b) = true := by
  induction m generalizing lo with
  | nil => simp only [writeCell]; split <;> simp_all [memWfFrom]
  | cons c r ih =>
    obtain ⟨j, x⟩ := c
    simp only [memWfFrom, Bool.and_eq_true, decide_eq_true_eq] at h
    obtain ⟨⟨h1, h2⟩, h3⟩ := h
    simp only [writeCell]
    split
    · subst_vars
      split
      · exact memWfFrom_mono (by omega) r h3
      · simp_all [memWfFrom]
    · split
      · split
        · simp_all [memWfFrom]
        · simp only [memWfFrom, Bool.and_eq_true, decide_eq_true_eq]
          refine ⟨⟨hlo, by assumption⟩, ⟨by omega, h2⟩, h3⟩
      · simp only [memWfFrom, Bool.and_eq_true, decide_eq_true_eq]
        exact ⟨⟨h1, h2⟩, ih (j + 1) (by omega) h3⟩

/-- A byte read back after it is written. -/
theorem readCell_writeCell_self (m : List Host.Cell) (a : Nat) (b : Byte) (lo : Nat) (h : memWfFrom lo m = true) :
    readCell (writeCell m a b) a = b := by
  induction m generalizing lo with
  | nil => simp only [writeCell]; split <;> simp_all [readCell]
  | cons c r ih =>
    obtain ⟨j, x⟩ := c
    simp only [memWfFrom, Bool.and_eq_true, decide_eq_true_eq] at h
    obtain ⟨⟨h1, h2⟩, h3⟩ := h
    simp only [writeCell]
    split
    · subst_vars
      split
      · rw [readCell_of_lt r h3 (by omega)]; simp_all
      · simp [readCell]
    · split
      · split
        · rename_i h4 h5 h6
          simp only [readCell, h4, ↓reduceIte]
          rw [readCell_of_lt r h3 (by omega), h6]
        · simp [readCell]
      · rename_i h4 h5
        simp only [readCell, h4, ↓reduceIte]
        exact ih (j + 1) h3

/-- A write leaves the other addresses alone. -/
theorem readCell_writeCell_of_ne (m : List Host.Cell) {a i : Nat} (b : Byte) (hi : i ≠ a) : readCell (writeCell m a b) i = readCell m i := by
  induction m with
  | nil => simp only [writeCell]; split <;> simp [readCell, Ne.symm hi]
  | cons c r ih =>
    obtain ⟨j, x⟩ := c
    simp only [writeCell]
    split
    · subst_vars
      split <;> simp [readCell, Ne.symm hi]
    · split
      · split <;> simp [readCell, Ne.symm hi]
      · simp [readCell, ih]

/-! Undefined ranges. -/

theorem undefByte_undefCut_self (l : List UndefRange) (a : Nat) : undefByte (undefCut l a) a = none := by
  simp only [undefByte, Option.map_eq_none_iff, List.find?_eq_none]
  intro r hr
  simp only [undefCut, List.mem_flatMap] at hr
  obtain ⟨q, -, hq⟩ := hr
  split at hq
  · simp only [List.mem_append] at hq
    rcases hq with hq | hq <;> split at hq <;> simp_all
  · simp_all

/-- One range cut at an address answers as before at the others. -/
theorem find?_undefCut_one (r : UndefRange) {a i : Nat} (h : i ≠ a) (hr : r.lo ≤ a ∧ a < r.hi) :
    (List.find? (fun r => decide (r.lo ≤ i) && decide (i < r.hi))
      ((if r.lo < a then [{ r with hi := a }] else []) ++ (if a + 1 < r.hi then [{ r with lo := a + 1 }] else []))).map (·.k) =
      if r.lo ≤ i ∧ i < r.hi then some r.k else none := by
  by_cases h1 : r.lo < a <;> by_cases h2 : a + 1 < r.hi <;> by_cases h3 : r.lo ≤ i <;> by_cases h4 : i < r.hi <;>
    by_cases h5 : i < a <;> by_cases h6 : a + 1 ≤ i <;> simp [h1, h2, h3, h4, h5, h6] <;> omega

theorem undefByte_eq (l : List UndefRange) (i : Nat) :
    undefByte l i = ((l.find? fun r => decide (r.lo ≤ i) && decide (i < r.hi)).map (·.k)).map fun k => Config.freeByte k i := by
  simp [undefByte, Function.comp_def]

theorem undefByte_undefCut_of_ne (l : List UndefRange) {a i : Nat} (h : i ≠ a) : undefByte (undefCut l a) i = undefByte l i := by
  rw [undefByte_eq, undefByte_eq]
  congr 1
  induction l with
  | nil => rfl
  | cons r l ih =>
    have hc : undefCut (r :: l) a =
        (if r.lo ≤ a && a < r.hi then
          (if r.lo < a then [{ r with hi := a }] else []) ++ (if a + 1 < r.hi then [{ r with lo := a + 1 }] else [])
         else [r]) ++ undefCut l a := rfl
    rw [hc]
    by_cases hr : r.lo ≤ a ∧ a < r.hi
    · have hr' : (decide (r.lo ≤ a) && decide (a < r.hi)) = true := by simpa using hr
      rw [if_pos hr', List.find?_append, Option.map_or, find?_undefCut_one r h hr, ih]
      by_cases hn : r.lo ≤ i ∧ i < r.hi
      · simp [hn]
      · have : (decide (r.lo ≤ i) && decide (i < r.hi)) = false := by simpa using hn
        simp [hn, this]
    · have hr' : ¬ (decide (r.lo ≤ a) && decide (a < r.hi)) = true := by simpa using hr
      rw [if_neg hr', List.singleton_append, List.find?_cons, List.find?_cons]
      split
      · rfl
      · exact ih

/-! Bytes of the state. -/

@[simp] theorem State.putByte_wf (s : State) (a : Nat) (b : Byte) (h : Memory.wf s.mem = true) : Memory.wf (s.putByte a b).mem = true :=
  writeCell_wf s.mem a b 0 (Nat.zero_le a) h

theorem State.byte_putByte_self (s : State) (a : Nat) (b : Byte) (h : Memory.wf s.mem = true) : (s.putByte a b).byte a = b := by
  simp only [State.byte, State.putByte, undefByte_undefCut_self, Option.getD_none]
  exact readCell_writeCell_self s.mem a b 0 h

theorem State.byte_putByte_of_ne (s : State) {a i : Nat} (b : Byte) (hi : i ≠ a) : (s.putByte a b).byte i = s.byte i := by
  simp only [State.byte, State.putByte, undefByte_undefCut_of_ne _ hi, readCell_writeCell_of_ne _ b hi]

theorem State.putBytes_wf (s : State) (a : Nat) (bs : List Byte) (h : Memory.wf s.mem = true) : Memory.wf (s.putBytes a bs).mem = true := by
  induction bs generalizing s a with
  | nil => exact h
  | cons b r ih => exact ih _ _ (s.putByte_wf a b h)

/-- Bytes outside a write are as before. -/
theorem State.byte_putBytes_of_outside (s : State) (a : Nat) (bs : List Byte) (i : Nat) (hi : i < a ∨ a + bs.length ≤ i) :
    (s.putBytes a bs).byte i = s.byte i := by
  induction bs generalizing s a with
  | nil => rfl
  | cons b r ih =>
    simp only [List.length_cons] at hi
    simp only [State.putBytes]
    rw [ih _ _ (by omega), s.byte_putByte_of_ne b (by omega)]

/-- Bytes inside a write are those written. -/
theorem State.byte_putBytes_inside (s : State) (a : Nat) (bs : List Byte) (h : Memory.wf s.mem = true) (k : Nat) (hk : k < bs.length) :
    (s.putBytes a bs).byte (a + k) = bs[k] := by
  induction bs generalizing s a k with
  | nil => simp at hk
  | cons b r ih =>
    simp only [State.putBytes]
    cases k with
    | zero =>
      rw [State.byte_putBytes_of_outside _ _ _ _ (by omega)]
      exact s.byte_putByte_self a b h
    | succ k =>
      have := ih (s.putByte a b) (a + 1) (s.putByte_wf a b h) k (by simpa using hk)
      rw [show a + (k + 1) = a + 1 + k by omega, this]
      rfl

@[simp] theorem State.stampPage_wf (s : State) (a : Nat) (h : Memory.wf s.mem = true) : Memory.wf (s.stampPage a).mem = true := by simpa using h

theorem State.write_wf (s : State) (a : Nat) (bs : List Byte) (h : Memory.wf s.mem = true) : Memory.wf (s.write a bs).mem = true := by
  unfold State.write
  exact State.putBytes_wf _ _ _ (by simpa using h)

theorem State.store_wf (s : State) (a : Nat) (bs : List Byte) (h : Memory.wf s.mem = true) : Memory.wf (s.store a bs).mem = true :=
  State.write_wf s a bs h

/-- What a write stores is read back. -/
theorem State.byte_write_inside (s : State) (a : Nat) (bs : List Byte) (h : Memory.wf s.mem = true) (k : Nat) (hk : k < bs.length) :
    (s.write a bs).byte (a + k) = bs[k] :=
  State.byte_putBytes_inside _ _ _ (by simpa using h) k hk

theorem State.byte_store_inside (s : State) (a : Nat) (bs : List Byte) (h : Memory.wf s.mem = true) (k : Nat) (hk : k < bs.length) :
    (s.store a bs).byte (a + k) = bs[k] :=
  State.byte_write_inside s a bs h k hk

end Sys2Proof.Machine
end

