-- ==== Sys2Proof/Laws/Scalar.lean ====
section
/-! SUPPORT. The shared operations of the integer, compare and predicate words. -/

namespace Sys2Proof.Machine

open Sys2Proof

theorem binary_done {a : Agent} {s : State} {g : Guard} {d : SDst} {x y : Scalar} (f : W64 → W64 → W64)
    (h : Ready (accCtl g [.dst d, .src x, .src y]) a s) :
    ∃ t, binary g d x y f s = .next t ∧
      t.task a = settled a (written (s.task a).a.seq d (f (srcVal (s.task a) x) (srcVal (s.task a) y))
        (entered (accCtl g [.dst d, .src x, .src y]) a (s.task a))) ∧ SameOutside s t ∧ SameCores a s t := by
  have ha := h.access rfl
  refine issue_writeDst (b := 1) h ha ?_
  simp only [h.read ha (x := x) (by simp [accCtl]), h.read ha (x := y) (by simp [accCtl])]

theorem binaryImm_done {a : Agent} {s : State} {g : Guard} {d : SDst} {x : Scalar} (y : W64) (f : W64 → W64 → W64)
    (h : Ready (accCtl g [.dst d, .src x]) a s) :
    ∃ t, binaryImm g d x y f s = .next t ∧
      t.task a = settled a (written (s.task a).a.seq d (f (srcVal (s.task a) x) y)
        (entered (accCtl g [.dst d, .src x]) a (s.task a))) ∧ SameOutside s t ∧ SameCores a s t := by
  have ha := h.access rfl
  refine issue_writeDst (b := 1) h ha ?_
  simp only [h.read ha (x := x) (by simp [accCtl])]

theorem unary_done {a : Agent} {s : State} {g : Guard} {d : SDst} {x : Scalar} (f : W64 → W64)
    (h : Ready (accCtl g [.dst d, .src x]) a s) :
    ∃ t, unary g d x f s = .next t ∧
      t.task a = settled a (written (s.task a).a.seq d (f (srcVal (s.task a) x))
        (entered (accCtl g [.dst d, .src x]) a (s.task a))) ∧ SameOutside s t ∧ SameCores a s t := by
  have ha := h.access rfl
  refine issue_writeDst (b := 1) h ha ?_
  simp only [h.read ha (x := x) (by simp [accCtl])]

/-- A predicate set to a value. -/
def setPred (p : Pred) (v : Bool) (m : BitVec 12) : BitVec 12 := if v then m ||| (1#12 <<< p.val) else m &&& ~~~(1#12 <<< p.val)

theorem getLsbD_setPred (p q : Pred) (v : Bool) (m : BitVec 12) : (setPred p v m).getLsbD q.val = if q = p then v else m.getLsbD q.val := by
  revert p q m v
  unfold setPred
  intro p q v m
  have h1 := p.isLt
  have h2 := q.isLt
  by_cases hq : q = p
  · subst hq
    cases v <;> simp [h2]
  · have : q.val ≠ p.val := fun h => hq (Fin.ext h)
    cases v <;> simp [hq, h2] <;> omega

theorem writePred_of_access {c : Ctx} (h : c.a.kind = .access) (p : Pred) (v : Bool) (s : State) :
    writePred c p v s = s.setTask c.a { s.task c.a with preds := setPred p v (s.task c.a).preds } := by
  unfold writePred setPred
  cases hc : c.a <;> simp_all [Agent.kind]

theorem compare_done {a : Agent} {s : State} {g : Guard} {pd : Pred} {x y : Scalar} (cond : Cond)
    (h : Ready (accCtl g [.pdst pd, .src x, .src y]) a s) :
    ∃ t, compare g pd x y cond s = .next t ∧
      t.task a = settled a { entered (accCtl g [.pdst pd, .src x, .src y]) a (s.task a) with
        preds := setPred pd (condHolds cond (srcVal (s.task a) x) (srcVal (s.task a) y)) (s.task a).preds } ∧
      SameOutside s t ∧ SameCores a s t := by
  have ha := h.access rfl
  refine issue_setTask h ?_
  simp only [h.read ha (x := x) (by simp [accCtl]), h.read ha (x := y) (by simp [accCtl])]
  rw [writePred_of_access (c := ctxOf a _ s) ha]
  show Except.ok ((atIssue a _ s).setTask a { (atIssue a _ s).task a with preds := setPred pd _ ((atIssue a _ s).task a).preds }) = _
  rw [atIssue_task_of_rowless (.inl ha), entered_preds]

end Sys2Proof.Machine
end

