-- ==== Sys2Proof/Laws/Access.lean ====
section
/-! SUPPORT. What the shared operations of loads, stores, atomics and cells do at issue. -/

namespace Sys2Proof.Machine

open Sys2Proof

/-- Translation reads the partitions, the window and the selectors only. -/
theorem translate_congr {s t : State} {a : Agent} {u v : Task} (hp : t.parts = s.parts) (hw : v.window = u.window) (hs : v.sels = u.sels)
    (va : W64) (k : AccKind) : translate t a v va k = translate s a u va k := by
  unfold translate
  simp only [hw, hs, State.partOf?_congr hp]
  congr 1
  funext x
  unfold entryTarget
  simp only [State.part_congr hp]

theorem State.partOf_congr {s t : State} (hp : t.parts = s.parts) (a : Agent) : t.partOf a = s.partOf a := by
  unfold State.partOf; rw [State.partOf?_congr hp]

theorem loadAddr_congr {s t : State} (hp : t.parts = s.parts) (p : Nat) (x : Target) : loadAddr t p x = loadAddr s p x := by
  cases x <;> simp only [loadAddr, veneerAddr, State.part_congr hp]

theorem expired_congr {s t : State} (hp : t.parts = s.parts) (ha : t.attr = s.attr) (hm : t.modl = s.modl) (b : Nat) : t.expired b = s.expired b := by
  have h1 : ∀ b, t.stampsOf b = s.stampsOf b := by
    intro b; unfold State.stampsOf State.lpPart; simp only [State.part_congr hp, ha]
  unfold State.expired State.transient State.age
  simp only [h1, hm]

theorem entered_window (w : WordInfo) (a : Agent) (t : Task) : (entered w a t).window = t.window := by
  unfold entered stepPast landReads landKeys
  cases a <;> dsimp only <;> (repeat' split) <;> simp [Task.setPc, Task.setRep] <;> (repeat' split) <;> rfl
theorem entered_sels (w : WordInfo) (a : Agent) (t : Task) : (entered w a t).sels = t.sels := by
  unfold entered stepPast landReads landKeys
  cases a <;> dsimp only <;> (repeat' split) <;> simp [Task.setPc, Task.setRep] <;> (repeat' split) <;> rfl
theorem entered_loads (w : WordInfo) (a : Agent) (t : Task) : (entered w a t).a.loads = t.a.loads := by
  unfold entered stepPast landReads landKeys
  cases a <;> dsimp only <;> (repeat' split) <;> simp [Task.setPc, Task.setRep] <;> (repeat' split) <;> rfl
theorem entered_stores (w : WordInfo) (a : Agent) (t : Task) : (entered w a t).a.stores = t.a.stores := by
  unfold entered stepPast landReads landKeys
  cases a <;> dsimp only <;> (repeat' split) <;> simp [Task.setPc, Task.setRep] <;> (repeat' split) <;> rfl
theorem entered_marks (w : WordInfo) (a : Agent) (t : Task) : (entered w a t).a.marks = t.a.marks := by
  unfold entered stepPast landReads landKeys
  cases a <;> dsimp only <;> (repeat' split) <;> simp [Task.setPc, Task.setRep] <;> (repeat' split) <;> rfl
theorem entered_pend (w : WordInfo) (a : Agent) (t : Task) : (entered w a t).a.pend = t.a.pend := by
  unfold entered stepPast landReads landKeys
  cases a <;> dsimp only <;> (repeat' split) <;> simp [Task.setPc, Task.setRep] <;> (repeat' split) <;> rfl
theorem entered_ended (w : WordInfo) (a : Agent) (t : Task) : (entered w a t).x.ended = t.x.ended := by
  unfold entered stepPast landReads landKeys
  cases a <;> dsimp only <;> (repeat' split) <;> simp [Task.setPc, Task.setRep] <;> (repeat' split) <;> rfl
theorem entered_lineage (w : WordInfo) (a : Agent) (t : Task) : (entered w a t).lineage = t.lineage := by
  unfold entered stepPast landReads landKeys
  cases a <;> dsimp only <;> (repeat' split) <;> simp [Task.setPc, Task.setRep] <;> (repeat' split) <;> rfl

/-- The check of an access answers its element exactly when nothing is wrong with it. -/
theorem checkAccess_eq {a : Agent} {s t : State} {c : Ctx} (hc : c.a = a) (hp : t.parts = s.parts) (ha : t.attr = s.attr) (hm : t.modl = s.modl)
    (hw : (t.task a).window = (s.task a).window) (hs : (t.task a).sels = (s.task a).sels)
    (va : W64) (n al : Nat) (k : AccKind) (e : AccElem) :
    checkAccess c va n al k t = .ok e ↔ Reaches a s va al k e.tgt ∧ e = element 0 va e.tgt n 0#64 := by
  subst hc
  unfold checkAccess
  rw [translate_congr hp hw hs]
  by_cases hal : va.toNat % al = 0
  · cases htr : translate s c.a (s.task c.a) va k with
    | error x =>
      simp only [hal, ne_eq, not_true_eq_false, ↓reduceIte, reduceCtorEq, false_iff]
      rintro ⟨⟨_, h, _⟩, _⟩
      simp [htr] at h
    | ok tgt =>
      simp only [hal, ne_eq, not_true_eq_false, ↓reduceIte, State.partOf_congr hp]
      have key : deadRead t (s.partOf c.a) k tgt = false ↔
          (k = .load ∨ k = .atomic → ∀ b, loadAddr s (s.partOf c.a) tgt = some b → s.expired b = false) := by
        unfold deadRead
        rw [loadAddr_congr hp]
        cases hb : loadAddr s (s.partOf c.a) tgt <;> cases k <;> simp [expired_congr hp ha hm]
      generalize deadRead t (s.partOf c.a) k tgt = d at key ⊢
      constructor
      · intro h
        cases d with
        | true => simp at h
        | false =>
          simp only [Bool.false_eq_true, ↓reduceIte, Except.ok.injEq] at h
          subst h
          exact ⟨⟨hal, htr, key.mp rfl⟩, rfl⟩
      · rintro ⟨⟨_, h2, h3⟩, h4⟩
        have : tgt = e.tgt := by rw [htr] at h2; injection h2
        subst this
        rw [key.mpr h3, h4]
        rfl
  · simp only [hal, ne_eq, not_false_eq_true, ↓reduceIte, reduceCtorEq, false_iff]
    rintro ⟨⟨h, _, _⟩, _⟩
    exact hal h

/-- The check of an access of a word at issue. -/
theorem checkAccess_issue {a : Agent} {s : State} {w : WordInfo} {va : W64} {n al : Nat} {k : AccKind} {e : AccElem} :
    checkAccess (ctxOf a w s) va n al k (atIssue a w s) = .ok e ↔ Reaches a s va al k e.tgt ∧ e = element 0 va e.tgt n 0#64 :=
  checkAccess_eq (s := s) (a := a) rfl (by simp) (by simp) (by simp) (by rw [atIssue_task, entered_window, rowsLanded_window]) (by rw [atIssue_task, entered_sels, rowsLanded_sels]) va n al k e

theorem checkAccess_of_reaches {a : Agent} {s : State} {w : WordInfo} {va : W64} {al : Nat} {k : AccKind} {tgt : Target} (n : Nat)
    (h : Reaches a s va al k tgt) : checkAccess (ctxOf a w s) va n al k (atIssue a w s) = .ok (element 0 va tgt n 0#64) :=
  checkAccess_issue.mpr ⟨h, rfl⟩

/-! The queues. -/

theorem claim_task (c : Ctx) (dst : LoadDst) (ready : Bool) (s : State) : (claim c dst ready s).task c.a = claimed c.seq dst ready (s.task c.a) := by
  cases dst <;> simp only [claim, claimed, pushSq, State.task_modTask]
  all_goals (split <;> simp)

theorem claim_same (c : Ctx) (dst : LoadDst) (ready : Bool) (s : State) : SameOutside s (claim c dst ready s) ∧ SameCores c.a s (claim c dst ready s) := by
  cases dst <;> simp only [claim, pushSq]
  · exact ⟨.refl s, .refl _ s⟩
  · exact ⟨sameOutside_setTask .., sameCores_setTask ..⟩
  all_goals
    split
    · exact ⟨.refl s, .refl _ s⟩
    · exact ⟨sameOutside_setTask .., sameCores_setTask ..⟩

theorem pushLoad_task (c : Ctx) (op : AccOp) (ord : MemOrder) (sc : Scope) (dst : LoadDst) (es : List AccElem) (s : State) :
    (pushLoad c op ord sc dst es s).task c.a = loading (accessOf c op ord sc dst false es) (claimed c.seq dst es.isEmpty (s.task c.a)) := by
  unfold pushLoad loading
  cases es <;> simp [accessOf, claim_task]

theorem pushStore_task (c : Ctx) (op : AccOp) (ord : MemOrder) (sc : Scope) (dst : LoadDst) (es : List AccElem) (s : State) :
    (pushStore c op ord sc dst es s).task c.a = storing (accessOf c op ord sc dst false es) (claimed c.seq dst es.isEmpty (s.task c.a)) := by
  unfold pushStore storing
  cases es <;> simp [accessOf, claim_task]

theorem pushLoad_same (c : Ctx) (op : AccOp) (ord : MemOrder) (sc : Scope) (dst : LoadDst) (es : List AccElem) (s : State) :
    SameOutside s (pushLoad c op ord sc dst es s) ∧ SameCores c.a s (pushLoad c op ord sc dst es s) := by
  obtain ⟨h1, h2⟩ := claim_same c dst es.isEmpty s
  unfold pushLoad
  dsimp only
  split
  · exact ⟨h1.trans (sameOutside_agentCtr ..), h2.trans (sameCores_agentCtr ..)⟩
  · exact ⟨h1.trans (sameOutside_setTask ..), h2.trans (sameCores_setTask ..)⟩

theorem pushStore_same (c : Ctx) (op : AccOp) (ord : MemOrder) (sc : Scope) (dst : LoadDst) (es : List AccElem) (s : State) :
    SameOutside s (pushStore c op ord sc dst es s) ∧ SameCores c.a s (pushStore c op ord sc dst es s) := by
  obtain ⟨h1, h2⟩ := claim_same c dst es.isEmpty s
  unfold pushStore
  dsimp only
  split
  · exact ⟨h1.trans (sameOutside_agentCtr ..), h2.trans (sameCores_agentCtr ..)⟩
  · exact ⟨h1.trans (sameOutside_setTask ..), h2.trans (sameCores_setTask ..)⟩

/-- A ready word that puts a load into its queue. -/
theorem issue_load {w : WordInfo} {a : Agent} {s : State} {op : AccOp} {ord : MemOrder} {sc : Scope} {dst : LoadDst} {es : List AccElem}
    {body : Ctx → State → Except Stop State} (h : Ready w a s) (ha : a.kind = .access)
    (hb : body (ctxOf a w s) (atIssue a w s) = .ok (pushLoad (ctxOf a w s) op ord sc dst es (atIssue a w s))) :
    ∃ t, issue w s body = .next t ∧
      t.task a = settled a (loading (accessOf (ctxOf a w s) op ord sc dst false es) (claimed (s.task a).a.seq dst es.isEmpty (entered w a (s.task a)))) ∧
      SameOutside s t ∧ SameCores a s t := by
  have k := pushLoad_same (ctxOf a w s) op ord sc dst es (atIssue a w s)
  obtain ⟨t, h1, h2, h3⟩ := issue_same h hb k.1 k.2
  refine ⟨t, h1, ?_, h3⟩
  rw [h2]
  show settled a ((pushLoad (ctxOf a w s) op ord sc dst es (atIssue a w s)).task (ctxOf a w s).a) = _
  rw [pushLoad_task]
  show settled a (loading _ (claimed _ dst es.isEmpty ((atIssue a w s).task a))) = _
  rw [atIssue_task_of_rowless (.inl ha)]
  rfl

/-- A ready word that puts a store into its queue. -/
theorem issue_store {w : WordInfo} {a : Agent} {s : State} {op : AccOp} {ord : MemOrder} {sc : Scope} {dst : LoadDst} {es : List AccElem}
    {body : Ctx → State → Except Stop State} (h : Ready w a s) (ha : a.kind = .access)
    (hb : body (ctxOf a w s) (atIssue a w s) = .ok (pushStore (ctxOf a w s) op ord sc dst es (atIssue a w s))) :
    ∃ t, issue w s body = .next t ∧
      t.task a = settled a (storing (accessOf (ctxOf a w s) op ord sc dst false es) (claimed (s.task a).a.seq dst es.isEmpty (entered w a (s.task a)))) ∧
      SameOutside s t ∧ SameCores a s t := by
  have k := pushStore_same (ctxOf a w s) op ord sc dst es (atIssue a w s)
  obtain ⟨t, h1, h2, h3⟩ := issue_same h hb k.1 k.2
  refine ⟨t, h1, ?_, h3⟩
  rw [h2]
  show settled a ((pushStore (ctxOf a w s) op ord sc dst es (atIssue a w s)).task (ctxOf a w s).a) = _
  rw [pushStore_task]
  show settled a (storing _ (claimed _ dst es.isEmpty ((atIssue a w s).task a))) = _
  rw [atIssue_task_of_rowless (.inl ha)]
  rfl

/-- Room in the load queue and in the store queue at issue. -/
theorem loadRoom_issue {a : Agent} {w : WordInfo} {s : State} (h : loadsUsed (s.task a) < 32) : loadRoom (ctxOf a w s) (atIssue a w s) = .ok () := by
  have : loadsUsed ((atIssue a w s).task a) = loadsUsed (s.task a) := by
    rw [atIssue_task]; simp [loadsUsed, entered_loads, entered_marks]
  show (if loadsUsed ((atIssue a w s).task a) < 32 then _ else _) = _
  rw [this, if_pos h]
theorem storeRoom_issue {a : Agent} {w : WordInfo} {s : State} (h : storesUsed (s.task a) < 32) : storeRoom (ctxOf a w s) (atIssue a w s) = .ok () := by
  have : storesUsed ((atIssue a w s).task a) = storesUsed (s.task a) := by
    rw [atIssue_task]; simp [storesUsed, entered_stores, entered_marks]
  show (if storesUsed ((atIssue a w s).task a) < 32 then _ else _) = _
  rw [this, if_pos h]

/-- A scalar load enters the load queue. -/
theorem scalarLoad_done {a : Agent} {s : State} {g : Guard} {d : SDst} {x y : Scalar} {tgt : Target} {n : Nat}
    (h : Ready (accCtl g [.dst d, .src x, .src y]) a s) (hr : loadsUsed (s.task a) < 32)
    (hx : Reaches a s (srcVal (s.task a) x + srcVal (s.task a) y) n .load tgt) :
    ∃ t, scalarLoad g d x y n s = .next t ∧
      t.task a = settled a (loading
        (accessOf (ctxOf a (accCtl g [.dst d, .src x, .src y]) s) .load .relaxed .unit (loadDst d) false
          [element 0 (srcVal (s.task a) x + srcVal (s.task a) y) tgt n 0#64])
        (claimed (s.task a).a.seq (loadDst d) false (entered (accCtl g [.dst d, .src x, .src y]) a (s.task a)))) ∧
      SameOutside s t ∧ SameCores a s t := by
  have ha := h.access rfl
  refine issue_load h ha ?_
  simp only [loadRoom_issue hr, h.read ha (x := x) (by simp [accCtl]), h.read ha (x := y) (by simp [accCtl]), checkAccess_of_reaches n hx]
  rfl

/-- A scalar store enters the store queue. -/
theorem scalarStore_done {a : Agent} {s : State} {g : Guard} {d x y : Scalar} {tgt : Target} {n : Nat}
    (h : Ready (accCtl g [.src d, .src x, .src y]) a s) (hr : storesUsed (s.task a) < 32)
    (hx : Reaches a s (srcVal (s.task a) x + srcVal (s.task a) y) n .store tgt) :
    ∃ t, scalarStore g d x y n s = .next t ∧
      t.task a = settled a (storing
        (accessOf (ctxOf a (accCtl g [.src d, .src x, .src y]) s) .store .relaxed .unit .none false
          [element 0 (srcVal (s.task a) x + srcVal (s.task a) y) tgt n (srcVal (s.task a) d)])
        (entered (accCtl g [.src d, .src x, .src y]) a (s.task a))) ∧
      SameOutside s t ∧ SameCores a s t := by
  have ha := h.access rfl
  refine issue_store (dst := .none) h ha ?_
  simp only [storeRoom_issue hr, h.read ha (x := d) (by simp [accCtl]), h.read ha (x := x) (by simp [accCtl]), h.read ha (x := y) (by simp [accCtl]),
    checkAccess_of_reaches n hx]
  rfl

/-! Vector accesses. -/

/-- Elements that meet no error pass the check. -/
theorem checkElems_of_elements {a : Agent} {s t : State} {c : Ctx} (hc : c.a = a) (hp : t.parts = s.parts) (ha : t.attr = s.attr) (hm : t.modl = s.modl)
    (hw : (t.task a).window = (s.task a).window) (hs : (t.task a).sels = (s.task a).sels)
    {k : AccKind} {l : List (Nat × W64)} {es : List AccElem} (h : Elements a s k l es) : checkElems c k t l = .ok es := by
  induction l generalizing es with
  | nil => cases es with
    | nil => rfl
    | cons e es => exact h.elim
  | cons x l ih => cases es with
    | nil => exact h.elim
    | cons e es =>
      obtain ⟨⟨hr, he⟩, ht⟩ := h
      have h1 : checkAccess c x.2 4 4 k t = .ok (element 0 x.2 e.tgt 4 0#64) :=
        (checkAccess_eq hc hp ha hm hw hs x.2 4 4 k _).mpr ⟨hr, rfl⟩
      simp only [checkElems, h1, ih ht]
      rw [he]
      rfl

/-- A state that differs from another in the task of an agent, but not in the window and the selectors of that task. -/
theorem checkElems_setTask {a : Agent} {s : State} {w : WordInfo} {u : Task} (hw : u.window = (s.task a).window) (hs : u.sels = (s.task a).sels)
    {k : AccKind} {l : List (Nat × W64)} {es : List AccElem} (h : Elements a s k l es) :
    checkElems (ctxOf a w s) k ((atIssue a w s).setTask a u) l = .ok es :=
  checkElems_of_elements (s := s) (a := a) rfl (by simp) (by simp) (by simp) (by simpa using hw) (by simpa using hs) h

theorem checkElems_issue {a : Agent} {s : State} {w : WordInfo} {k : AccKind} {l : List (Nat × W64)} {es : List AccElem}
    (h : Elements a s k l es) : checkElems (ctxOf a w s) k (atIssue a w s) l = .ok es :=
  checkElems_of_elements (s := s) (a := a) rfl (by simp) (by simp) (by simp) (by rw [atIssue_task, entered_window, rowsLanded_window]) (by rw [atIssue_task, entered_sels, rowsLanded_sels]) h

/-- A ready word that changes its task and puts a load into its queue. -/
theorem issue_load_setTask {w : WordInfo} {a : Agent} {s : State} {op : AccOp} {ord : MemOrder} {sc : Scope} {dst : LoadDst} {es : List AccElem} {u : Task}
    {body : Ctx → State → Except Stop State} (h : Ready w a s) (ha : a.kind = .access)
    (hb : body (ctxOf a w s) (atIssue a w s) = .ok (pushLoad (ctxOf a w s) op ord sc dst es ((atIssue a w s).setTask a u))) :
    ∃ t, issue w s body = .next t ∧
      t.task a = settled a (loading (accessOf (ctxOf a w s) op ord sc dst false es) (claimed (s.task a).a.seq dst es.isEmpty u)) ∧
      SameOutside s t ∧ SameCores a s t := by
  have k := pushLoad_same (ctxOf a w s) op ord sc dst es ((atIssue a w s).setTask a u)
  obtain ⟨t, h1, h2, h3⟩ := issue_same h hb ((sameOutside_setTask ..).trans k.1) ((sameCores_setTask ..).trans k.2)
  refine ⟨t, h1, ?_, h3⟩
  rw [h2]
  show settled a ((pushLoad (ctxOf a w s) op ord sc dst es ((atIssue a w s).setTask a u)).task (ctxOf a w s).a) = _
  rw [pushLoad_task]
  show settled a (loading _ (claimed _ dst es.isEmpty (((atIssue a w s).setTask a u).task a))) = _
  rw [State.task_setTask]
  rfl

/-- A ready word that changes its task and puts a store into its queue. -/
theorem issue_store_setTask {w : WordInfo} {a : Agent} {s : State} {op : AccOp} {ord : MemOrder} {sc : Scope} {dst : LoadDst} {es : List AccElem} {u : Task}
    {body : Ctx → State → Except Stop State} (h : Ready w a s) (ha : a.kind = .access)
    (hb : body (ctxOf a w s) (atIssue a w s) = .ok (pushStore (ctxOf a w s) op ord sc dst es ((atIssue a w s).setTask a u))) :
    ∃ t, issue w s body = .next t ∧
      t.task a = settled a (storing (accessOf (ctxOf a w s) op ord sc dst false es) (claimed (s.task a).a.seq dst es.isEmpty u)) ∧
      SameOutside s t ∧ SameCores a s t := by
  have k := pushStore_same (ctxOf a w s) op ord sc dst es ((atIssue a w s).setTask a u)
  obtain ⟨t, h1, h2, h3⟩ := issue_same h hb ((sameOutside_setTask ..).trans k.1) ((sameCores_setTask ..).trans k.2)
  refine ⟨t, h1, ?_, h3⟩
  rw [h2]
  show settled a ((pushStore (ctxOf a w s) op ord sc dst es ((atIssue a w s).setTask a u)).task (ctxOf a w s).a) = _
  rw [pushStore_task]
  show settled a (storing _ (claimed _ dst es.isEmpty (((atIssue a w s).setTask a u).task a))) = _
  rw [State.task_setTask]
  rfl

/-- What stops the first load of VLDFF's elements: an address that meets an error. -/
theorem checkAccess_error {a : Agent} {s t : State} {c : Ctx} (hc : c.a = a) (hp : t.parts = s.parts) (ha : t.attr = s.attr) (hm : t.modl = s.modl)
    (hw : (t.task a).window = (s.task a).window) (hs : (t.task a).sels = (s.task a).sels) {va : W64} {n al : Nat} {k : AccKind}
    (h : ∀ tgt, ¬ Reaches a s va al k tgt) : ∃ i, checkAccess c va n al k t = .error i := by
  cases hx : checkAccess c va n al k t with
  | error i => exact ⟨i, rfl⟩
  | ok e => exact absurd ((checkAccess_eq hc hp ha hm hw hs va n al k e).mp hx).1 (h _)

/-- The elements of VLDFF: the first `n`, when the next one lies past the limit, or is the 257th, or meets an error. -/
theorem firstStop_of_elements {a : Agent} {s t : State} {c : Ctx} (hc : c.a = a) (hp : t.parts = s.parts) (ha : t.attr = s.attr) (hm : t.modl = s.modl)
    (hw : (t.task a).window = (s.task a).window) (hs : (t.task a).sels = (s.task a).sels) {x : W64} {limit : Int} (n fuel j : Nat) {es : List AccElem}
    (hf : n ≤ fuel) (hl : ∀ i, i < n → (4 * ((j + i : Nat) : Int)) < limit)
    (he : Elements a s .load ((List.range n).map fun i => (j + i, addrStep x 4 (j + i))) es)
    (hn : fuel = n ∨ limit ≤ 4 * ((j + n : Nat) : Int) ∨ ∀ tgt, ¬ Reaches a s (addrStep x 4 (j + n)) 4 .load tgt) :
    ∃ i, firstStop c x limit t fuel j = (es, i) ∧ (i.isSome → ∀ tgt, ¬ Reaches a s (addrStep x 4 (j + n)) 4 .load tgt) := by
  induction n generalizing j fuel es with
  | zero =>
    have : es = [] := by cases es with | nil => rfl | cons e es => exact he.elim
    subst this
    cases fuel with
    | zero => exact ⟨none, rfl, by simp⟩
    | succ fuel =>
      simp only [firstStop]
      by_cases hlt : (4 * (j : Int)) < limit
      · have hno : ∀ tgt, ¬ Reaches a s (addrStep x 4 j) 4 .load tgt := by
          rcases hn with h | h | h
          · omega
          · simp at h; omega
          · simpa using h
        obtain ⟨i, hi⟩ := checkAccess_error hc hp ha hm hw hs (n := 4) hno
        exact ⟨some i, by simp [hlt, hi], by simpa using hno⟩
      · exact ⟨none, by simp [hlt], by simp⟩
  | succ n ih =>
    cases fuel with
    | zero => omega
    | succ fuel =>
      rw [List.range_succ_eq_map] at he
      cases es with
      | nil => exact he.elim
      | cons e es =>
        obtain ⟨⟨hr, hee⟩, ht⟩ := he
        have h1 : checkAccess c (addrStep x 4 j) 4 4 .load t = .ok (element 0 (addrStep x 4 j) e.tgt 4 0#64) :=
          (checkAccess_eq hc hp ha hm hw hs _ 4 4 .load _).mpr ⟨by simpa [element] using hr, rfl⟩
        have hlt : (4 * (j : Int)) < limit := by simpa using hl 0 (by omega)
        obtain ⟨i, hi, hno⟩ := ih fuel (j + 1) (es := es) (by omega) (fun i hi => by have := hl (i + 1) (by omega); rw [show j + 1 + i = j + (i + 1) by omega]; exact this)
          (by
            simp only [List.map_map] at ht
            have : ((List.range n).map fun i => (j + 1 + i, addrStep x 4 (j + 1 + i))) = List.map ((fun i => (j + i, addrStep x 4 (j + i))) ∘ Nat.succ) (List.range n) := by
              apply List.map_congr_left
              intro i _
              simp only [Function.comp, show j + 1 + i = j + (i + 1) by omega, Nat.succ_eq_add_one]
            rw [this]; exact ht)
          (by rw [show j + 1 + n = j + (n + 1) by omega]; rcases hn with h | h | h
              · exact .inl (by omega)
              · exact .inr (.inl h)
              · exact .inr (.inr h))
        refine ⟨i, ?_, by rw [show j + (n + 1) = j + 1 + n by omega]; exact hno⟩
        simp only [firstStop, hlt, ↓reduceIte, h1, hi]
        rw [hee]
        simp [element]

end Sys2Proof.Machine
end

