-- ==== Sys2Proof/Laws/Dspace.lean ====
section
/-! SUPPORT. What a read of D-space by the OB3 leaves alone: the launches of the partitions. -/

namespace Sys2Proof.Laws

open Sys2Proof Sys2Proof.Machine

/-- The launches of the partitions are as before. -/
structure SameLaunches (s t : State) : Prop where
  same : ∀ q, (t.part q).launch = (s.part q).launch

theorem SameLaunches.refl (s : State) : SameLaunches s s := ⟨fun _ => rfl⟩

theorem SameLaunches.trans {s t u : State} (h : SameLaunches s t) (k : SameLaunches t u) : SameLaunches s u := ⟨fun q => (k.same q).trans (h.same q)⟩

theorem SameLaunches.of_parts {s t : State} (h : t.parts = s.parts) : SameLaunches s t := ⟨fun q => by rw [State.part_congr h]⟩

/-- A change of a partition that leaves its launch alone. -/
theorem SameLaunches.modPart {s : State} {p : Nat} {f : Part → Part} (h : ∀ x, (f x).launch = x.launch) : SameLaunches s (s.modPart p f) := by
  refine ⟨fun q => ?_⟩
  simp only [State.part, State.modPart]
  by_cases hq : q = p
  · subst hq
    simp [State.setPart, tget_tput_self, h]
  · simp [State.setPart, tget_tput_of_ne _ _ _ hq]

theorem touchImages_launches (s : State) (a n : Nat) : SameLaunches s (s.touchImages a n) := by
  unfold State.touchImages
  split
  · exact .refl s
  · split
    · exact .refl s
    · generalize (s.part _).images = l
      dsimp only
      generalize lpBase + (s.part _).regs.plp.base = b
      rename_i h
      clear h
      induction l generalizing s with
      | nil => exact .refl s
      | cons e r ih =>
        rw [List.foldl_cons]
        refine SameLaunches.trans ?_ (ih _)
        split
        · refine (SameLaunches.modPart (s := s) ?_).trans (.of_parts (State.bbEvent_parts ..))
          exact fun _ => rfl
        · exact .refl s

theorem write_launches (s : State) (a : Nat) (bs : List Byte) : SameLaunches s (s.write a bs) := by
  refine (touchImages_launches s a bs.length).trans (.of_parts ?_)
  simp [State.write]

theorem setLeafBit_launches (a i : Nat) (s : State) : SameLaunches s (setLeafBit a i s) := by
  unfold setLeafBit
  dsimp only
  split
  · exact .refl s
  · exact write_launches ..

theorem useLeaf_launches {p g dva : Nat} {w k : Bool} {e e' : Leaf} {pl : Place} {s t : State} (h : useLeaf p g dva w k e s = .ok e' pl t) : SameLaunches s t := by
  unfold useLeaf at h
  split at h
  · cases h
  · dsimp only at h
    split at h
    · cases h
    · cases h
      have hb (c : Bool) (a i : Nat) (s : State) : SameLaunches s (if c = true then setLeafBit a i s else s) := by
        cases c
        · exact .refl s
        · exact setLeafBit_launches ..
      refine ((hb k e.entry 5 s).trans (hb (w && !bitOf e.leaf 6) e.entry 6 _)).trans (.of_parts ?_)
      split <;> rfl

theorem walkedAccess_launches {p g dva : Nat} {w r : Bool} {e : Leaf} {pl : Place} {s t : State} (h : walkedAccess p g dva w r s = .ok e pl t) : SameLaunches s t := by
  unfold walkedAccess at h
  dsimp only at h
  split at h
  · split at h
    · cases h
    · exact SameLaunches.trans (t := s.clusCtr g .cpwalks 1) (.of_parts rfl) (useLeaf_launches h)
  all_goals cases h

/-- An access to D-space that goes on leaves the launches as they are. -/
theorem dAccess_launches {p g dva : Nat} {w c r : Bool} {e : Leaf} {pl : Place} {s t : State} (h : dAccess p g dva w c r s = .ok e pl t) : SameLaunches s t := by
  unfold dAccess at h
  dsimp only at h
  split at h
  · cases h
  · split at h
    · exact useLeaf_launches h
    · exact walkedAccess_launches h

theorem cpPlace_read_launches {v : CpEnv} {z : Bool} {a : Nat} {s t : State} {pl : Option Place} (h : cpPlace v true false z a s = .ok (pl, t)) : SameLaunches s t := by
  unfold cpPlace at h
  simp only [Bool.false_and, if_true, Bool.false_eq_true, if_false] at h
  split at h <;> try cases h
  rename_i he
  split at h
  · cases h
  · cases h
    exact dAccess_launches he

theorem cpReadPiece_launches {v : CpEnv} {z : Bool} {a n : Nat} {s t : State} {bs : List Byte} (h : cpReadPiece v true z a n s = .ok (bs, t)) : SameLaunches s t := by
  unfold cpReadPiece at h
  simp only [bind, Except.bind] at h
  split at h
  · cases h
  · rename_i x he
    obtain ⟨pl, u⟩ := x
    dsimp only at h
    have hp := cpPlace_read_launches he
    (repeat' split at h) <;> cases h
    all_goals first | exact hp | exact hp.trans (.of_parts rfl)

theorem cpReadAll_launches {v : CpEnv} {z : Bool} : ∀ {l : List (Nat × Nat)} {s t : State} {bs : List Byte}, cpReadAll v true z l s = .ok (bs, t) → SameLaunches s t
  | [], s, t, bs, h => by cases h; exact .refl _
  | (a, n) :: r, s, t, bs, h => by
    unfold cpReadAll at h
    simp only [bind, Except.bind] at h
    split at h
    · cases h
    · rename_i x hx
      split at h
      · cases h
      · rename_i y hy
        cases h
        exact (cpReadPiece_launches hx).trans (cpReadAll_launches hy)

/-- A read of D-space by the OB3 that goes on leaves the launches as they are. -/
theorem dRead_launches {p g addr n : Nat} {who : Reader} {s t : State} {bs : List Byte} (h : dRead p g who addr n s = .ok bs t) : SameLaunches s t := by
  unfold dRead at h
  dsimp only at h
  split at h
  · cases h
  · split at h
    · cases h
    · split at h
      · rename_i he
        cases h
        exact cpReadAll_launches he
      all_goals first | cases h | (split at h <;> cases h)

end Sys2Proof.Laws
end

