-- ==== Sys2Proof/Tests/Demo.lean ====
section
/-! SUPPORT. Small states for the tests and the witnesses, and the checks by which a witness shows that it meets a hypothesis. -/

set_option Elab.async false

namespace Sys2Proof.Tests

open Sys2Proof Sys2Proof.Machine

/-! A small module: partition 0 owns cluster 0 and has allotments; its launch is active; core 0 runs one task. -/

/-- The access stream of core 0, its execute stream. -/
abbrev aa : Agent := .access 0
abbrev ax : Agent := .execute 0

/-- A window entry of 2 ^ (size + 12) bytes; `vbase` and `toff` in pages of 4 KiB. -/
def entryOf (vbase toff : Nat) (size : Nat) (typ : WinType) (x w rd : Bool) : WinEntry :=
  { vbase := vbase, size := size, x := x, w := w, rd := rd, toff := toff, typ := typ, index := 0, back := false }

/-- Code at 0, the unit scratchpad at 0x10000, die memory at 0x100000, a veneered buffer at 0x200000, the bank view at 0x300000, cells at 0x500000. -/
def demoWindow : List WinEntry :=
  [entryOf 0 0 0 .clus true false true, entryOf 0x10 0 2 .unit false true true, entryOf 0x100 0 8 .die false true true, entryOf 0x200 0x20 0 .veneer false false true,
    entryOf 0x300 0 2 .wbank false false true, entryOf 0x500 0x100 0 .defer false true true]

/-- A task with values in s1 to s15. -/
def demoTask : Task :=
  { Task.empty with
    ident := 0x0000000700000005#64, jig := 0, iter := [0], window := demoWindow
    regs := [(1, 5#64), (2, 0x10000#64), (3, 0x100000#64), (4, 1#64), (5, 0x10040#64), (6, 0x100040#64), (7, 0xFFFFFFFFFFFFFFFF#64), (8, 64#64), (9, 0x100080#64),
      (10, 0x10080#64), (12, 0xFFFFFFFF80000000#64), (61, 0x40#64), (62, 0x10800#64)] }

/-- A timetable of one frame of ten ticks. -/
def demoLaunch : Launch :=
  { Launch.empty with phase := .active, windows := [demoWindow], tt := { Timetable.empty with framelen := 10, queues := List.replicate 16 { mode := 2, rstack := 0, rlog := 0, roff := 0 } }, f0 := 10 }

/-- Partition 0. -/
def demoPart : Part :=
  { Part.reset with
    pstate := .active, launch := some demoLaunch
    regs := { PartRegs.reset with pclus := 1#192, pdie := List.replicate 4 { base := 0, size := 0x1000000 }, pwb := List.replicate 4 { base := 0, size := 0x1000000 }, plp := { base := 0, size := 0x1000000 } } }

/-- Core 0. -/
def demoCore (t : Task) : Core := { Core.reset 0 with ctx0 := { state := .running, task := t, saved := none } }

/-- The module in SERVICE with its one task, whose agent `a` has the turn. -/
def demoWith (t : Task) (a : Agent) : State :=
  { State.reset with cur := a, modl := { Module.reset with mstate := 4, frame := 100 }, parts := [(0, demoPart)], cores := [(0, demoCore t)] }

/-- The small module; the access stream has the turn, or the execute stream. -/
def demo : State := demoWith demoTask (.access 0)
def demoX : State := demoWith demoTask (.execute 0)

/-! Checks. -/

/-- Is an answer the one of a word that goes on? -/
def isOk {α : Type} (r : Except Stop α) : Bool := match r with | .ok _ => true | .error _ => false

/-- The conditions of `Ready`, for a guard that is always on. -/
def readyB (w : WordInfo) (a : Agent) (s : State) : Bool :=
  decide (s.cur = a) && s.live a && !(a.kind == .access && (s.task a).a.loads.any (·.waiting)) && w.legal a.kind a.core?.isNone &&
    !((s.task a).x.arm.isSome && a.kind == .execute && (!w.engine || w.roles.any fun r => r.queue?.isSome)) &&
    decide (w.guard = .always) && isOk (rolesStop a s w.roles)

theorem isOk_unit {r : Except Stop Unit} (h : isOk r = true) : r = .ok () := by
  cases r with
  | ok u => rfl
  | error e => cases h

/-- A word that passes the check is ready. -/
theorem ready_of {w : WordInfo} {a : Agent} {s : State} (h : readyB w a s = true) : Ready w a s := by
  simp only [readyB, Bool.and_eq_true, decide_eq_true_eq, Bool.not_eq_true'] at h
  obtain ⟨⟨⟨⟨⟨⟨h1, h2⟩, h3⟩, h4⟩, h5⟩, h6⟩, h7⟩ := h
  exact ⟨h1, h2, h3, h4, h5, by rw [h6]; rfl, by rw [h6]; rfl, isOk_unit h7⟩

/-- The conditions of `Reaches`. -/
def reachesB (a : Agent) (s : State) (va : W64) (align : Nat) (k : AccKind) (tgt : Target) : Bool :=
  decide (va.toNat % align = 0) && (match translate s a (s.task a) va k with | .ok t => decide (t = tgt) | .error _ => false) &&
    (match loadAddr s (s.partOf a) tgt with | some b => !s.expired b | none => true)

/-- An access that passes the check meets no error. -/
theorem reaches_of {a : Agent} {s : State} {va : W64} {n : Nat} {k : AccKind} {tgt : Target} (h : reachesB a s va n k tgt = true) : Reaches a s va n k tgt := by
  simp only [reachesB, Bool.and_eq_true, decide_eq_true_eq] at h
  obtain ⟨⟨h1, h2⟩, h3⟩ := h
  refine ⟨h1, ?_, fun _ b hb => ?_⟩
  · revert h2
    cases translate s a (s.task a) va k with
    | ok t => intro h2; rw [of_decide_eq_true h2]
    | error e => intro h2; cases h2
  · rw [hb] at h3
    simpa using h3

/-- The conditions of `Elements` for elements whose targets are given. -/
def elementsB (a : Agent) (s : State) (k : AccKind) : List (Nat × W64) → List AccElem → Bool
  | [], [] => true
  | x :: l, e :: es => reachesB a s x.2 4 k e.tgt && decide (e = element x.1 x.2 e.tgt 4 0#64) && elementsB a s k l es
  | _, _ => false

theorem elements_of {a : Agent} {s : State} {k : AccKind} : ∀ {l : List (Nat × W64)} {es : List AccElem}, elementsB a s k l es = true → Elements a s k l es
  | [], [], _ => trivial
  | [], _ :: _, h => by cases h
  | _ :: _, [], h => by cases h
  | x :: l, e :: es, h => by
    simp only [elementsB, Bool.and_eq_true, decide_eq_true_eq] at h
    exact ⟨⟨reaches_of h.1.1, h.1.2⟩, elements_of h.2⟩

/-- Elements at the addresses of a list whose bytes stand from address `b` on for virtual address `va`. -/
def elementsAt (va : W64) (b : Nat) (l : List (Nat × W64)) : List AccElem := l.map fun x => element x.1 x.2 (.byte (b + (x.2 - va).toNat)) 4 0#64

/-- Is an answer this value? -/
def okB {ε α : Type} [DecidableEq α] (r : Except ε α) (v : α) : Bool := match r with | .ok x => decide (x = v) | .error _ => false

theorem ok_of {ε α : Type} [DecidableEq α] {r : Except ε α} {v : α} (h : okB r v = true) : r = .ok v := by
  cases r with
  | ok x => rw [of_decide_eq_true h]
  | error e => cases h

/-- Is an answer this error? -/
def errB {ε α : Type} [DecidableEq ε] (r : Except ε α) (e : ε) : Bool := match r with | .ok _ => false | .error x => decide (x = e)

theorem err_of {ε α : Type} [DecidableEq ε] {r : Except ε α} {e : ε} (h : errB r e = true) : r = .error e := by
  cases r with
  | ok x => cases h
  | error x => rw [of_decide_eq_true h]

/-- Does a word with its literal decode to an instruction? -/
noncomputable def decodesTo (w : W32) (l : List W32) (i : Instr) : Bool := okB (decode (bytesOfWord w ++ l.flatMap bytesOfWord)) (i, [])

/-- Does a word decode to nothing? -/
noncomputable def decodesToNone (w : W32) : Bool := match decode (bytesOfWord w ++ bytesOfWord 0#32) with | .ok _ => false | .error _ => true

/-- A property of the next state that a meaning answers. -/
def after (r : Host.Outcome State Fault Refusal) (p : State → Bool) : Bool := match r with | .next t => p t | _ => false

/-- Bytes at an address of the memory space. -/
def placed (a : Nat) (bs : List Byte) (s : State) : State := s.putBytes a bs

/-- The conditions of `Performs`. -/
def performsB (a : Agent) (s : State) (inStore : Bool) (i : Nat) (x : Access) (e : AccElem) : Bool :=
  (s.task? a).isSome && s.accessing a x.seq && decide ((if inStore then (s.task a).a.stores else (s.task a).a.loads)[i]? = some x) && decide (x.waiting = false) &&
    decide (x.elems.find? (fun f => f.j == e.j && !f.done) = some e) &&
    decide (elemBlocked s a (s.task a) inStore ((if inStore then (s.task a).a.stores else (s.task a).a.loads).take i) x e = none)

theorem performs_of {a : Agent} {s : State} {st : Bool} {i : Nat} {x : Access} {e : AccElem} (h : performsB a s st i x e = true) : Performs a s st i x e := by
  simp only [performsB, Bool.and_eq_true, decide_eq_true_eq] at h
  obtain ⟨⟨⟨⟨⟨h1, h2⟩, h3⟩, h4⟩, h5⟩, h6⟩ := h
  exact ⟨h1, h2, h3, h4, h5, h6⟩

/-- The conditions of `Fetches`, for a word of the memory space. -/
def fetchesB (a : Agent) (k : Nat) (s : State) (va : W64) (b : Nat) : Bool :=
  okB (translate s a (s.task a) va .fetch) (.byte b) && decide (loadAddr s (s.partOf a) (.byte b) = some b) && s.owned b && decide (s.eccHit b 4 = false) &&
    decide (s.expired b = false) && (decide (s.old.getD k 0 = 0) || decide (tget? s.attr.prior (b / 4) = none))

theorem fetches_of {a : Agent} {k : Nat} {s : State} {va : W64} {b : Nat} (h : fetchesB a k s va b = true) : Fetches a k s va b := by
  simp only [fetchesB, Bool.and_eq_true, decide_eq_true_eq, Bool.or_eq_true] at h
  obtain ⟨⟨⟨⟨⟨h1, h2⟩, h3⟩, h4⟩, h5⟩, h6⟩ := h
  exact ⟨⟨_, ok_of h1, h2⟩, h3, h4, h5, h6⟩

/-- The conditions of `Issues`. -/
def issuesB (a : Agent) (s : State) : Bool :=
  decide (s.cur = a) && s.live a && !(s.task a).a.loads.any (·.waiting) && decide ((s.task a).x.arm = none)

theorem issues_of {a : Agent} {s : State} (h : issuesB a s = true) : Issues a s := by
  simp only [issuesB, Bool.and_eq_true, decide_eq_true_eq, Bool.not_eq_true'] at h
  obtain ⟨⟨⟨h1, h2⟩, h3⟩, h4⟩ := h
  exact ⟨h1, h2, fun _ => h3, fun _ => h4⟩

/-- An access of one element of `n` bytes at address `b` of the memory space, alone in its queue. -/
def oneAccess (op : AccOp) (va : W64) (tgt : Target) (n : Nat) (data : W64) (dst : LoadDst) : Access :=
  { seq := 0, pc := 0#64, op := op, ord := .relaxed, scope := .unit, dst := dst, fwd := true, elems := [element 0 va tgt n data], hit := false, busy := none, waiting := false, answer := none }

/-- The demo task with one queued load, or one queued store. -/
def withLoad (x : Access) (t : Task) : Task := { t with a := { t.a with seq := 1, loads := [x] } }
def withStore (x : Access) (t : Task) : Task := { t with a := { t.a with seq := 1, stores := [x] } }

/-- Memory whose words of code stand at address `clusBase 0`, which the demo window shows at 0. -/
def demoCode (a : Agent) (ws : List W32) (i : Turn) : State :=
  { placed (clusBase 0) (ws.flatMap bytesOfWord) (demoWith demoTask a) with agenda := [i] }

/-- A stream none of whose results is on its way. -/
theorem landed_of {t : Task} (h : t.x.ready = []) : Landed t := .inr fun k => by rw [h]; exact Nat.zero_le _

/-- The condition of `Grouped`. -/
def groupedB (cfg : W64) (fields : List VReg) : Bool := fields.all fun x => match x with | .v n => decide (n.val % 2 ^ cfgLG cfg = 0) | _ => true

theorem grouped_of {cfg : W64} {fields : List VReg} (h : groupedB cfg fields = true) : Grouped cfg fields := by
  intro n hn
  have := List.all_eq_true.mp h _ hn
  simpa using this

/-- Something that goes on has an answer. -/
theorem some_of {ε α : Type} {r : Except ε α} (h : (match r with | .ok _ => true | .error _ => false) = true) : ∃ x, r = .ok x := by
  cases r with
  | ok x => exact ⟨x, rfl⟩
  | error e => cases h

/-- `fields [(n, v), …]`: values in n bytes each, one after the other. -/
def fields (l : List (Nat × Nat)) : List Byte := l.flatMap fun x => leBytes x.1 x.2

/-- A state whose launch has a group of two devices, and port 0 in the direct mode, owned by partition 0. -/
def grouped (s : State) : State :=
  (s.modLaunch 0 fun l => { l with lrec := { l.lrec with multi := true }, group := some { pgid := 1, rank := 0, size := 2, crc := 0#32, ports := [(0, 1)] } }).modPort 0 fun x =>
    { x with ctl := 0x8084#64 }

/-- A jig record with a MAXDEPTH. -/
def jrecOf (maxdepth : Nat) : JigRec := { JigRec.ofBytes (List.replicate 64 0#8) with ext := [3], ndim := 1, maxdepth := maxdepth }

/-- A released jig of three iterations, one of which has been claimed. -/
def jigOf (maxdepth : Nat) : Jig :=
  { jrec := jrecOf maxdepth, source := .pool, slot := 0, sels := 0#4, rtick := 10, frame := 0, home := 0, first := 0, count := 3, next := 1, open_ := 1, lineage := [], argp := 0#64, claims := [] }

/-- The execute stream has the turn, with values in s48 to s51; its jig allows a depth of 5,000; both engines of the core run. -/
def demoEngines : State :=
  ((demoWith { demoTask with regs := [(48, 0x10040#64), (49, 0x10000#64), (50, 1#64), (51, 7#64)] } ax).modLaunch 0 fun l => { l with jigs := [(0, jigOf 5000)] }).modCore 0 fun k =>
    { k with eng := { k.eng with bk := { k.eng.bk with run := true }, dn := { k.eng.dn with run := true } } }

/-- A jig record of one dimension of three iterations at a level, for queue 0 and window 0. -/
def jigBytes (level dsel : Nat) : List Byte :=
  fields [(8, 0), (8, 0x40), (8, 0x10800), (2, 3), (2, 0), (2, 0), (2, 0), (2, 0), (2, 0), (1, 1), (1, 0), (1, 0), (1, 0), (4, 0), (2, level + 8 * dsel), (2, 0), (4, 0), (4, 0), (8, 0)]

/-- Page tables of partition 0 in die memory: 2 MiB from address 0 of D-space on stand at 0x400000 of its die memory. -/
def dspaced (s : State) : State :=
  let put (a e : Nat) (s : State) : State := placed (dieBase 0 + a) (fields [(8, e)]) s
  (put 0x202000 0x300000000040000F (put 0x201000 0x3000000000202001 (put 0x200000 0x3000000000201001 s))).modPart 0 fun p =>
    { p with regs := { p.regs with dptroot := 0x3000000000200001#64 } }

/-- Bytes at an address of D-space. -/
def dplaced (a : Nat) (bs : List Byte) (s : State) : State := placed (dieBase 0 + 0x400000 + a) bs s

/-- Something that goes on has an answer, and the answer passes a check. -/
theorem ok_with {ε α : Type} {r : Except ε α} {P : α → Bool} (h : (match r with | .ok x => P x | .error _ => false) = true) : ∃ x, r = .ok x ∧ P x = true := by
  cases r with
  | ok x => exact ⟨x, rfl, h⟩
  | error e => cases h

/-- A read of D-space that goes on has bytes, and they and its state pass a check. -/
theorem dread_with {r : DResult} {P : List Byte → State → Bool} (h : (match r with | .ok bs s => P bs s | _ => false) = true) : ∃ bs s, r = .ok bs s ∧ P bs s = true := by
  cases r with
  | ok bs s => exact ⟨bs, s, rfl, h⟩
  | wait => cases h
  | failed => cases h
  | ecc => cases h

/-- The condition of `WritesTo`. -/
def writesB (s : State) (v : View) (va : W64) (b : Nat) : Bool :=
  decide (va.toNat % 4 = 0) && (match v.translate s va .engineStore with | .ok t => decide (engineAddr s (s.partOf v.a) t = some b) | .error _ => false) && s.owned b

theorem writes_of {s : State} {v : View} {va : W64} {b : Nat} (h : writesB s v va b = true) : WritesTo s v va b := by
  simp only [writesB, Bool.and_eq_true, decide_eq_true_eq] at h
  obtain ⟨⟨h1, h2⟩, h3⟩ := h
  revert h2
  cases hv : v.translate s va .engineStore with
  | ok t => intro h2; exact ⟨h1, t, hv, by simpa using h2, h3⟩
  | error e => intro h2; cases h2

/-- The tag of a first command, which asks for no record. -/
def demoTag : CmdTag := { num := 0, idx := 0#32, recEvt := false, held := false, arm := false }

/-- A command that asked for no record can always go on. -/
theorem can_record (s : State) (g : Nat) : CanRecord s g false := fun h => nomatch h

/-- The conditions of `Sees`. -/
def seesB (s : State) (v : View) (p va n b : Nat) : Bool :=
  decide (va % 4096 + n ≤ 4096) && decide (0 < n) && decide (va + n ≤ 2 ^ 64) && (match v.translate s (BitVec.ofNat 64 va) .load with | .ok t => decide (loadAddr s p t = some b) | .error _ => false) &&
    s.owned b && !s.eccHit b n && !s.expired b

theorem sees_of {s : State} {v : View} {p va n b : Nat} (h : seesB s v p va n b = true) : Sees s v p va n b := by
  simp only [seesB, Bool.and_eq_true, decide_eq_true_eq, Bool.not_eq_true'] at h
  obtain ⟨⟨⟨⟨⟨⟨h1, h2⟩, h3⟩, h4⟩, h5⟩, h6⟩, h7⟩ := h
  revert h4
  cases hv : v.translate s (BitVec.ofNat 64 va) .load with
  | ok t => intro h4; exact ⟨h1, h2, h3, ⟨t, hv, by simpa using h4⟩, h5, h6, h7⟩
  | error e => intro h4; cases h4

/-- The conditions of `Lands`. -/
def landsB (s : State) (v : View) (p va n b : Nat) : Bool :=
  decide (va % 4096 + n ≤ 4096) && decide (0 < n) && decide (va + n ≤ 2 ^ 64) &&
    (match v.translate s (BitVec.ofNat 64 va) .engineStore with | .ok t => decide (engineAddr s p t = some b) | .error _ => false) && s.owned b && decide (busyUnit s b n = none)

theorem lands_of {s : State} {v : View} {p va n b : Nat} (h : landsB s v p va n b = true) : Lands s v p va n b := by
  simp only [landsB, Bool.and_eq_true, decide_eq_true_eq] at h
  obtain ⟨⟨⟨⟨⟨h1, h2⟩, h3⟩, h4⟩, h5⟩, h6⟩ := h
  revert h4
  cases hv : v.translate s (BitVec.ofNat 64 va) .engineStore with
  | ok t => intro h4; exact ⟨h1, h2, h3, ⟨t, hv, by simpa using h4⟩, h5, h6⟩
  | error e => intro h4; cases h4

/-- The issuer of a command of the demo task, and a command of its access stream. -/
def demoIssuer : Issuer := { core := 0, task := 0x0000000700000005#64, idx := 0#32, seq := 0, lineage := 0, pcs := none }
def demoCmd (op : CopyOp) (d : CopyDesc) (ctl : CopyCtl) : CopyCmd :=
  { by_ := demoIssuer, op := op, d := d, ctl := ctl, view := demo.view aa, row := 0, x := 0, wait := none, faults := [], flags := 0#6, ddfull := false, ringwait := false, faulted := false,
    n1 := 0, n2 := 0, zlast := 0, sbytes := [], dbytes := [], msg := none, captured := false }
def demoCtl : CopyCtl := { seq := false, recEvt := false, baren := false, bar := 0 }

/-- A command in the queue of engine 0. -/
def withCopy (c : CopyCmd) (s : State) : State := s.modCluster 0 fun k => { k with copies := [(0, [c])] }

end Sys2Proof.Tests
end

