-- ==== Sys2Proof/Tests/Slice0.lean ====
section
/-! SUPPORT. Tests: words that the spec writes out with their meaning, ill-formed terms that the checks refuse, and single steps whose results follow from the spec's tables and worked examples. -/

set_option Elab.async false

namespace Sys2Proof.Tests

open Sys2Proof Sys2Proof.Machine

/-! Words of the spec's examples, one family after another: each decodes to the instruction it stands for. -/

theorem test_decode_integer : decodesTo 0x980041FF#32 [0x3E8#32] (.add (.onFalse 3) (.s 4) (.s 7) (.lit 0x3E8#32)) = true ∧
    decodesTo 0x7800AF3F#32 [5#32] (.add .always (.s 10) .zr (.lit 5#32)) = true ∧ decodesTo 0x7850B302#32 [] (.shli .always (.s 11) (.s 12) 2#6) = true := by decide +kernel
theorem test_decode_compare : decodesTo 0x78A02AF8#32 [] (.cmpEq .always 1 (.s 21) .zr) = true := by decide +kernel
theorem test_decode_predicate : decodesTo 0x78DE0000#32 [] (.pclr .always 8) = true ∧ decodesTo 0x78D62000#32 [] (.pnot .always 8 8) = true := by decide +kernel
theorem test_decode_control : decodesTo 0x08E7FFFE#32 [] (.branch (.onTrue 1) 0x7FFFE#19) = true ∧ decodesTo 0x79387FFF#32 [] (.loop .always (.s 48) 0x7FFF#15) = true ∧
    decodesTo 0x79810000#32 [] (.tend .always) = true := by decide +kernel
theorem test_decode_queues : decodesTo 0x79400280#32 [] (.cqpush .always (.s 10)) = true ∧ decodesTo 0x79470000#32 [] (.cqpop .always (.s 48)) = true ∧
    decodesTo 0x79602000#32 [] (.pqpush .always 8) = true ∧ decodesTo 0x79644000#32 [] (.pqpop .always 1) = true := by decide +kernel
theorem test_decode_load_store : decodesTo 0x7A0942BF#32 [8#32] (.ldw .always (.s 20) (.s 10) (.lit 8#32)) = true ∧
    decodesTo 0x7A2E2516#32 [] (.vldff .always (.vq 1) (.s 10) (.s 11)) = true ∧ decodesTo 0x7A428516#32 [] (.vst .always .vqs (.s 10) (.s 11)) = true := by decide +kernel
theorem test_decode_atomic : decodesTo 0x7A61A24C#32 [] (.aadd .always .acquire .device true (.s 9) (.s 12)) = true ∧
    decodesTo 0x7A7FE50A#32 [] (.acas .always .acqrel .system true (.s 20) (.s 10)) = true := by decide +kernel
theorem test_decode_order : decodesTo 0x7A828000#32 [] (.fence .always .release .device) = true ∧ decodesTo 0x7A840000#32 [] (.dovetail .always) = true ∧
    decodesTo 0x7A8A800C#32 [] (.publish .always .release .device (.s 12)) = true := by decide +kernel
theorem test_decode_cells : decodesTo 0x7AA0028B#32 [] (.cmk .always (.s 10) (.s 11)) = true ∧ decodesTo 0x7AA542BC#32 [] (.cld .always (.s 20) (.s 10) .zr) = true ∧
    decodesTo 0x7AA8030D#32 [] (.cfill .always (.s 12) (.s 13)) = true ∧ decodesTo 0x7AAC030E#32 [] (.cfail .always (.s 12) (.s 14)) = true := by decide +kernel
theorem test_decode_copies : decodesTo 0x7B0030B0#32 [] (.cpt .always (.s 12) (.s 11)) = true ∧ decodesTo 0x7B0628B0#32 [] (.cpd .always (.s 10) (.s 11)) = true := by decide +kernel
theorem test_decode_barriers : decodesTo 0x7B2002FC#32 [] (.barinit .always (.s 11) .zr) = true ∧ decodesTo 0x7B2402FF#32 [0x400#32] (.barx .always (.s 11) (.lit 0x400#32)) = true ∧
    decodesTo 0x7B2802C0#32 [] (.barw .always (.s 11)) = true ∧ decodesTo 0x7B2CD2C0#32 [] (.barrd .always (.s 13) (.s 11)) = true := by decide +kernel
theorem test_decode_queue_units : decodesTo 0x7B83C28B#32 [] (.jpush .always .zr (.s 10) (.s 11)) = true ∧ decodesTo 0x7B8402CC#32 [] (.qpush .always (.s 11) (.s 12)) = true ∧
    decodesTo 0x7B8902CC#32 [] (.qpop .always (.s 16) (.s 11) (.s 12)) = true ∧ decodesTo 0x7B8D12C0#32 [] (.qdepth .always (.s 17) (.s 11)) = true := by decide +kernel
theorem test_decode_rings : decodesTo 0x7BA54280#32 [] (.rngtkt .always (.s 20) (.s 10)) = true := by decide +kernel
theorem test_decode_vector : decodesTo 0x7C4D88A6#32 [] (.vfma .always 3#3 (.v 2) (.v 5) (.v 6)) = true ∧ decodesTo 0x7D0D88A6#32 [] (.vfmaMasked .always 3#3 (.v 2) (.v 5) (.v 6)) = true ∧
    decodesTo 0x7C000088#32 [] (.vadd .always 0#3 (.v 0) (.v 4) (.v 8)) = true := by decide +kernel
theorem test_decode_estimates : decodesTo 0x7C661060#32 [] (.vrsqe .always 4#3 (.v 4) (.v 3)) = true ∧ decodesTo 0x7C9484C3#32 [] (.vfcmplt .always 1#3 1 (.v 6) (.v 3)) = true ∧
    decodesTo 0x7CA00200#32 [] (.vmv .always 0#3 (.v 0) (.vq 0)) = true := by decide +kernel
theorem test_decode_moves : decodesTo 0x7D90303C#32 [] (.vbcst .always 0#3 (.v 6) .zr) = true ∧ decodesTo 0x7DA00038#32 [] (.vsetvl .always (.sq 0)) = true ∧
    decodesTo 0x7DC00022#32 [] (.mand .always 0#3 0 1 2) = true := by decide +kernel
theorem test_decode_bucket : decodesTo 0x7E04FC00#32 [1#32] (.bkshape .always (.lit 1#32)) = true ∧ decodesTo 0x7E00FFC0#32 [7#32] (.bkrun .always (.lit 7#32) .zr) = true ∧
    decodesTo 0x7E03FFC0#32 [7#32] (.bkdrain .always (.lit 7#32) .zr) = true := by decide +kernel
theorem test_decode_dense : decodesTo 0x7E20C3C0#32 [] (.dmma .always (.s 48) .zr) = true ∧ decodesTo 0x7E22C720#32 [] (.ddrain .always (.s 49) (.s 50)) = true ∧
    decodesTo 0x7E240000#32 [] (.dclr .always) = true := by decide +kernel
theorem test_decode_weights : decodesTo 0x7E4028B0#32 [] (.sortw .always (.s 10) (.s 11)) = true ∧ decodesTo 0x7E60F000#32 [] (.swapw .always .zr) = true := by decide +kernel
theorem test_decode_micro_orders : decodesTo 0x7E802BC0#32 [] (.moload .always (.s 10) .zr) = true ∧ decodesTo 0x7E82F000#32 [] (.mostart .always .zr) = true ∧
    decodesTo 0x7EC0FFC0#32 [7#32] (.gather .always (.lit 7#32) .zr) = true := by decide +kernel
theorem test_decode_messages : decodesTo 0x7F0028B0#32 [] (.msend .always (.s 10) (.s 11)) = true ∧ decodesTo 0x7F012BC0#32 [] (.ksend .always (.s 10) .zr) = true ∧
    decodesTo 0x7F022BC0#32 [] (.amtset .always (.s 10) .zr) = true ∧ decodesTo 0x7F032C00#32 [] (.amtclr .always (.s 11)) = true := by decide +kernel
theorem test_decode_kerf : decodesTo 0x7F2C0420#32 [] (.kmrd .always 0#3 1 (.v 1)) = true ∧ decodesTo 0x7F200801#32 [] (.krsum .always 0#3 (.v 2) (.v 0) 1) = true ∧
    decodesTo 0x7F281020#32 [] (.kvcnt .always 0#3 (.v 4) 1) = true := by decide +kernel
theorem test_decode_system : decodesTo 0x7F814000#32 [] (.srrd .always (.s 20) 0#6) = true ∧ decodesTo 0x7F840C02#32 [] (.srwr .always (.s 48) 2#6) = true ∧
    decodesTo 0x7F89428B#32 [] (.syscall .always (.s 20) (.s 10) (.s 11)) = true ∧ decodesTo 0x7F8C0280#32 [] (.tickwt .always (.s 10)) = true ∧
    decodesTo 0x7F915000#32 [] (.framerd .always (.s 21) 0#6) = true := by decide +kernel
theorem test_decode_repeat : decodesTo 0x7FE1E000#32 [] (.rep 3#6 6#3) = true := by decide +kernel

/-- 02 R61: the two words that are never instructions, an unassigned major, a guard without a meaning, a reserved bit. -/
theorem test_decode_refuses : decodesToNone 0#32 = true ∧ decodesToNone 0xFFFFFFFF#32 = true ∧ decodesToNone 0x79C00000#32 = true ∧ decodesToNone 0x60000041#32 = true ∧
    decodesToNone 0x79810001#32 = true := by decide +kernel

/-! Ill-formed terms, one for each check. -/

/-- Two literals in one word (02 R47), an event, and the term whose word is all zero (02 R61). -/
theorem test_ill_formed : (Instr.add .always (.s 1) (.lit 1#32) (.lit 2#32)).wf = false ∧ Instr.romboot.wf = false ∧ Instr.zeroWord.wf = false ∧
    (Instr.add .always (.s 1) (.lit 1#32) (.s 2)).wf = true := by decide +kernel

/-- 02 R48, R49, R61; 04 R92: a stream writes its own registers and predicates, names one queue once, and uses vector registers in the execute stream. -/
theorem test_illegal_uses : (Instr.add .always (.s 48) (.s 1) (.s 2)).legal .access = false ∧ (Instr.pset .always 8).legal .access = false ∧ (Instr.pset .always 7).legal .execute = false ∧
    (Instr.vadd .always 0#3 (.v 0) (.v 1) (.v 2)).legal .access = false ∧ (Instr.vadd .always 0#3 (.v 0) (.vq 1) (.vq 1)).legal .execute = false ∧
    (Instr.vadd .always 0#3 (.v 0) (.vq 1) (.vq 2)).legal .execute = true ∧ (Instr.ldw .always (.s 1) (.s 2) .zr).legal .execute = false := by decide +kernel

/-- What single descriptions rule out: 04 R108, 06 R144, R147, R148, R157; 07 R178; 14 R384. -/
theorem test_illegal_shapes : (Instr.loop .always .zr 0#15).legal .access = false ∧ (Instr.fence .always .relaxed .unit).legal .access = false ∧
    (Instr.aadd .always .relaxed .device true (.s 1) (.s 2)).legal .access = false ∧ (Instr.acas .always .acqrel .system true (.s 21) (.s 10)).legal .access = false ∧
    (Instr.publish .always .acquire .device (.s 1)).legal .access = false ∧ (Instr.vcvtw .always 0#3 (.v 0) (.vq 0)).legal .execute = false ∧
    (Instr.srrd .always (.s 1) 2#6).legal .access = false ∧ (Instr.framerd .always (.s 1) 3#6).legal .access = false := by decide +kernel

/-! Single steps. -/

/-- The value that a word writes to s4 in the access stream of the small module, whose s1 is 5, s7 is all ones, s8 is 64, s12 is 0xFFFF_FFFF_8000_0000. -/
def gives4 (i : Instr) (v : W64) : Bool := after (exec i demo) fun t => decide (srcVal (t.task (.access 0)) (.s 4) = v)

/-- 04 R99: sums wrap, comparisons are signed or not, the amount of a shift is taken modulo 64. -/
theorem test_integer : gives4 (.add .always (.s 4) (.s 7) (.s 1)) 4#64 = true ∧ gives4 (.sub .always (.s 4) .zr (.s 1)) 0xFFFFFFFFFFFFFFFB#64 = true ∧
    gives4 (.shl .always (.s 4) (.s 1) (.s 8)) 5#64 = true ∧ gives4 (.sar .always (.s 4) (.s 12) (.lit 4#32)) 0xFFFFFFFFF8000000#64 = true ∧
    gives4 (.min .always (.s 4) (.s 7) (.s 1)) 0xFFFFFFFFFFFFFFFF#64 = true ∧ gives4 (.minu .always (.s 4) (.s 7) (.s 1)) 5#64 = true ∧
    gives4 (.mulhs .always (.s 4) (.s 7) (.s 1)) 0xFFFFFFFFFFFFFFFF#64 = true ∧ gives4 (.mulhu .always (.s 4) (.s 7) (.s 1)) 4#64 = true ∧
    gives4 (.rol .always (.s 4) (.s 12) (.lit 4#32)) 0xFFFFFFF80000000F#64 = true := by decide +kernel

/-- 04 R102: division by zero and of the most negative number; quotients go towards zero. -/
theorem test_divide : gives4 (.divs .always (.s 4) (.s 1) .zr) 0xFFFFFFFFFFFFFFFF#64 = true ∧ gives4 (.remu .always (.s 4) (.s 1) .zr) 5#64 = true ∧
    gives4 (.divs .always (.s 4) (.lit 0xFFFFFFF9#32) (.lit 2#32)) 0xFFFFFFFFFFFFFFFD#64 = true ∧ gives4 (.rems .always (.s 4) (.lit 0xFFFFFFF9#32) (.lit 2#32)) 0xFFFFFFFFFFFFFFFF#64 = true := by decide +kernel

/-- 04 R100, R101: immediates keep their sign, or not; counts of bits; bytes reversed. -/
theorem test_one_source : gives4 (.addi .always (.s 4) (.s 1) 0x3F#6) 4#64 = true ∧ gives4 (.clz .always (.s 4) (.s 1)) 61#64 = true ∧ gives4 (.ctz .always (.s 4) .zr) 64#64 = true ∧
    gives4 (.popc .always (.s 4) (.s 12)) 33#64 = true ∧ gives4 (.bswap .always (.s 4) (.s 1)) 0x0500000000000000#64 = true ∧ gives4 (.sextw .always (.s 4) (.s 12)) 0xFFFFFFFF80000000#64 = true ∧
    gives4 (.zextw .always (.s 4) (.s 12)) 0x80000000#64 = true := by decide +kernel

/-- 02 R48; 04 R91: zr reads 0 and discards what is written. -/
theorem test_zero_register : gives4 (.add .always .zr (.s 1) (.s 1)) 1#64 = true ∧ gives4 (.add .always (.s 4) .zr .zr) 0#64 = true := by decide +kernel

/-- 02 R43, R45: a word whose guard is off passes. -/
theorem test_guard : gives4 (.add (.onTrue 1) (.s 4) (.s 1) (.s 1)) 1#64 = true ∧ gives4 (.add (.onFalse 1) (.s 4) (.s 1) (.s 1)) 10#64 = true := by decide +kernel

/-- 14 R376, R387; 05 R131: a misaligned load traps with MISALIGN and its address, and the launch is discarded. -/
theorem test_misalign : after (exec (.ldd .always (.s 4) (.s 1) .zr) demo) (fun t =>
    (t.part 0).traplog.map (fun r => (r.code, r.addr)) == [(TrapCode.misalign.code, 5)] && (match (t.part 0).launch with | some l => l.phase == .discarding | none => false)) = true := by decide +kernel

/-- 04 R112: TEND ends the stream at its word. -/
theorem test_tend : after (exec (.tend .always) demo) (fun t => (t.task (.access 0)).a.ended && (t.task (.access 0)).a.pc == 0#64 && !(t.task (.access 0)).x.ended) = true := by decide +kernel

/-- 04 R106: CALL writes lr with the address after it. -/
theorem test_call : after (exec (.call .always 4#19) demo) (fun t => (t.task (.access 0)).a.pc == 16#64 && srcVal (t.task (.access 0)) .lr == 4#64) = true := by decide +kernel

/-- 06 R140: a store changes memory when it is performed, low byte at the lowest address. -/
theorem test_store : after (exec (.stw .always (.s 12) (.s 2) .zr) demo) (fun t => t.value (unitBase 0) 4 == 0 &&
    after (exec (.accessPerformed false 0 true 0 0) t) (fun u => u.bytes (unitBase 0) 4 == [0#8, 0#8, 0#8, 0x80#8])) = true := by decide +kernel

/-- 15 R409: after reset with an empty flash the module enters FWFAIL. -/
theorem test_boot : after (exec .romboot State.reset) (fun t => t.modl.mstate == 1) = true := by decide +kernel

/-- 15 R417, the spec's example: BUCKET 1152, DENSE 576, BUDGET 1800 give a share of 13; with BUDGET 1400, 9; DENSE 0 gives 16, and 14. -/
theorem test_share : shareOfStack 1800 false (BitVec.ofNat 64 (576 * 2 ^ 22 + 1152 * 2 ^ 11)) = 13 ∧ shareOfStack 1400 false (BitVec.ofNat 64 (576 * 2 ^ 22 + 1152 * 2 ^ 11)) = 9 ∧
    shareOfStack 1800 false (BitVec.ofNat 64 (1152 * 2 ^ 11)) = 16 ∧ shareOfStack 1400 false (BitVec.ofNat 64 (1152 * 2 ^ 11)) = 14 := by decide +kernel

/-- A word placed by `withFetchWord` is the one that the next step runs. -/
theorem test_fetch : after (step (State.reset.withFetchWord 64 0x000000057800AF3F)) (fun t => decide (srcVal (t.task (.access 0)) (.s 10) = 5#64)) = true := by decide +kernel

/-- SHA-256 of the empty message (FIPS 180-4; log entry 19). -/
theorem test_sha256 : (sha256 []).take 4 = [0xE3#8, 0xB0#8, 0xC4#8, 0x42#8] := by decide +kernel

end Sys2Proof.Tests
end

