-- ==== Sys2Proof/Tests/WitnessCopy.lean ====
section
/-! SUPPORT. Witnesses of the hypotheses of the statements about the events of copy engines, page requests, caches and messages. -/

set_option Elab.async false

namespace Sys2Proof.Tests

open Sys2Proof Sys2Proof.Machine

/-- 64 bytes of one row from 0x10000 to 0x11000, or from D-space; a result block at 0x12000 if asked for (08 R198). -/
def demoDesc (fmt : Nat) : CopyDesc :=
  { src := if fmt = 0x100 then 0x200000#64 else 0x10000#64, dst := 0x11000#64, xn := 64, yn := 1, zn := 1, srs := 0, sps := 0, drs := 0, dps := 0, fmt := fmt, mcast := 0#24, plane := 0#64, res := 0x12000#64 }

/-- A CPT whose next piece is the first of its row, the last of it. -/
theorem witness_CopyEvents_piece (x : Nat) (h : x = 0 ∨ x = 60) :
    let c := { demoCmd .cpt (demoDesc 0) demoCtl with x := x }
    let s := withCopy c demo
    s.Inv ∧ s.partOf? 0 = some 0 ∧ (s.copyQueue 0 0)[0]? = some c ∧ 0 < activeLen (s.copyQueue 0 0) ∧ c.captured = false ∧ c.wait = none ∧ issuerReady c.by_ s = true ∧ c.op = .cpt ∧ c.done = false ∧
    c.x < c.d.xn ∧ c.d.ssp = false ∧ c.d.dsp = false ∧ Sees s c.view 0 (c.srcRow + c.x) (pieceLen c.dstRow c.x c.d.xn 4) (unitBase 0 + x) ∧
    Lands s c.view 0 (c.dstRow + c.x) (pieceLen c.dstRow c.x c.d.xn 4) (unitBase 0 + 0x1000 + x) := by
  rcases h with rfl | rfl <;>
    exact ⟨by unfold State.Inv; decide +kernel, by decide +kernel, rfl, by decide +kernel, rfl, rfl, by decide +kernel, rfl, by decide +kernel, by decide +kernel, by decide +kernel, by decide +kernel,
      sees_of (by decide +kernel), lands_of (by decide +kernel)⟩

/-- A page of D-space that is not there; D-space bit 8 of FMT. -/
theorem witness_CopyEvents_fault :
    let c := demoCmd .cpt (demoDesc 0x100) demoCtl
    let s := withCopy c (dspaced demo)
    (s.copyQueue 0 0)[0]? = some c ∧ 0 < activeLen (s.copyQueue 0 0) ∧ c.captured = false ∧ c.wait = none ∧ issuerReady c.by_ s = true ∧ c.done = false ∧ c.x < c.d.xn ∧ c.d.ssp = true ∧ c.faults = [] ∧
    walk s 0 ((c.srcRow + c.x) % 2 ^ 48) = .absent :=
  ⟨rfl, by decide +kernel, rfl, rfl, by decide +kernel, by decide +kernel, by decide +kernel, by decide +kernel, rfl, by decide +kernel⟩

/-- A command that has moved everything, with and without a result block; with a record, and a barrier that has room, or none. -/
theorem witness_CopyEvents_complete (resen recEvt : Bool) (count : Int) (_h : count = 64 ∨ count = 63) :
    let c := { demoCmd .cpt (demoDesc (if resen then 0x2000 else 0)) { demoCtl with recEvt := recEvt, baren := true, bar := 3 } with row := 1 }
    let s := (withCopy c demo).modCluster 0 fun k => { k with barriers := [(3, { count := count, overrun := false })] }
    s.Inv ∧ (s.copyQueue 0 0)[0]? = some c ∧ 0 < activeLen (s.copyQueue 0 0) ∧ c.captured = false ∧ c.wait = none ∧ issuerReady c.by_ s = true ∧ c.done = true ∧ c.msg = none ∧ c.d.resen = resen ∧
    CanRecord s 0 c.ctl.recEvt ∧ (resen = true → Lands s c.view 0 c.d.res.toNat 32 (unitBase 0 + 0x2000)) ∧ c.ctl.baren = true ∧ dbytesOf s 0 c.op c.d = 64 := by
  rcases _h with rfl | rfl <;> cases resen <;> cases recEvt <;>
    exact ⟨by unfold State.Inv; decide +kernel, rfl, by decide +kernel, rfl, rfl, by decide +kernel, by decide +kernel, rfl, by decide +kernel, fun _ => ⟨by decide +kernel, by decide +kernel, by decide +kernel⟩,
      fun _ => lands_of (by decide +kernel), rfl, by decide +kernel⟩

/-- All 512 page-request groups outstanding. -/
def demoRequested : List PageReq := (List.range 512).map fun k => { page := k, write := false, cluster := 0, group := some k }

theorem witness_CopyEvents_groups : ∀ k, k < 512 → k ∈ ((demo.modPart 0 fun p => { p with preqs := demoRequested }).part 0).preqs.filterMap (·.group) := by
  have h : ∀ l, ((demo.modPart 0 fun p => { p with preqs := l }).part 0).preqs = l := fun _ => rfl
  intro k hk
  rw [h]
  exact List.mem_filterMap.mpr ⟨_, List.mem_map.mpr ⟨k, List.mem_range.mpr hk, rfl⟩, rfl⟩

/-- A request that has not been sent; one that has, for which a command waits. -/
theorem witness_CopyEvents_pages :
    let r (g : Option Nat) : PageReq := { page := 0x200, write := false, cluster := 0, group := g }
    let s (g : Option Nat) (off : Bool) : State := ((withCopy { demoCmd .cpt (demoDesc 0x100) demoCtl with wait := some (.page 0x200 false) } demo).modPart 0 fun p => { p with preqs := [r g] }).modFn 0
      fun f => { f with priAlloc := 32, priOff := off }
    let new (s : State) := ((s.part 0).preqs.filter fun r => r.group.isNone).take (Nat.min 16 ((s.fn (s.fnOf 0)).priAlloc - ((s.part 0).preqs.filterMap (·.group)).length))
    (((s none false).fn ((s none false).fnOf 0)).priOff = false ∧ new (s none false) = [r none]) ∧ ((s none true).fn ((s none true).fnOf 0)).priOff = true ∧ new (s (some 0) false) = [] ∧
    (let u := s (some 0) false
     ∃ l, (u.part 0).launch = some l ∧ l.phase = .active ∧ (∃ c ∈ allCopies 0 u, ((u.part 0).preqs.any fun r => c.wait = some (.page r.page r.write)) = true) ∧
      ∀ c ∈ allCopies 0 u, u.partOf? (clusterOfCore c.by_.core) = some 0) :=
  ⟨⟨by decide +kernel, by decide +kernel⟩, by decide +kernel, by decide +kernel, _, rfl, rfl, by decide +kernel, by decide +kernel⟩

/-- A range to invalidate, with a page of it in the cache; a translation to host memory in the range of an ATS invalidation. -/
theorem witness_CopyEvents_invalidate :
    (0x5003#64 : W64).extractLsb' 0 6 = 3#6 ∧
    (let s := (demo.modPart 0 fun p => { p with inval := [(5, 8)] }).modCluster 0 fun k => { k with tlb := [{ part := 0, first := 6, unit := 1, leaf := 0x300000000040000F, homes := [dieBase 0] }] }
     (∃ r ∈ (s.part 0).inval, r.1 ≤ 6 ∧ 6 < r.1 + r.2) ∧ (tlbFind 0 6 (s.cluster 0).tlb).isSome = true) ∧
    (let x : TlbEntry := { part := 0, first := 6, unit := 1, leaf := 0x600000000000700F, homes := [dieBase 0] }
     let s := { demo with plat := { demo.plat with vdbind := [(1, 0x20#64)] } }.modCluster 0 fun k => { k with tlb := [x] }
     s.boundTo 1 = some 0 ∧ x ∈ (s.cluster 0).tlb ∧ x.part = 0 ∧ locTgt x.leaf = 6 ∧ locOff x.leaf / 4096 < 5 + 3 ∧ 5 < locOff x.leaf / 4096 + x.pages) :=
  ⟨by decide, ⟨⟨_, List.mem_singleton.mpr rfl, by decide, by decide⟩, by decide +kernel⟩, by decide +kernel, by decide +kernel, by decide, by decide +kernel, by decide +kernel, by decide +kernel⟩

/-- A ring whose page another device owns. -/
theorem witness_CopyEvents_fradd_away :
    let s : State := { demo.modPart 0 (fun p => { p with regs := { p.regs with ddtab := 0x3000000000200009#64, ddring := 0x3000000000201009#64 } }) with
      attr := { demo.attr with away := [((dieBase 0 + 0x201000) / 4096, (dieBase 0 + 0x201000) / 4096 + 1)] } }
    ringOwned s 0 = false ∧ (s.part 0).mig.state ≠ .serving :=
  ⟨by decide +kernel, by decide +kernel⟩

/-- A ring of sixteen frames with room, and full. -/
theorem witness_CopyEvents_fradd (n : Nat) (h : n = 15 ∨ n = 16) :
    let s := demo.modPart 0 fun p => { p with regs := { p.regs with ddtab := 0x3000000000200009#64, ddring := 0x3000000000201009#64, ddCount := n } }
    ∃ a m, s.Inv ∧ ringOwned s 0 = true ∧ ddTable s 0 (s.part 0).regs.ddring 8 = some (a, m) ∧ m = 16 ∧ (s.part 0).regs.ddCount = n := by
  rcases h with rfl | rfl <;> exact ⟨dieBase 0 + 0x201000, 16, by unfold State.Inv; decide +kernel, by decide +kernel, by decide +kernel, rfl, rfl⟩

end Sys2Proof.Tests
end

