-- ==== Sys2Proof/Tests/WitnessEngines.lean ====
section
/-! SUPPORT. Witnesses of the hypotheses of the statements about events of the engines: gather unit, bucket engine, sorting engine, dense engine, tile moves, predictions. -/

set_option Elab.async false

namespace Sys2Proof.Tests

open Sys2Proof Sys2Proof.Machine

/-! Gather unit and bucket engine. -/

/-- A GATHER of two lines of 16 bytes into half 1, in order or by a list at 0x10100. -/
def demoGather (held : Bool) (idxa : Option W64) : State :=
  demoEngines.modEng 0 fun e => { e with gathers := [{ tag := { demoTag with held := held }, half := 1, src := 0x10000#64, pstr := 64, tstr := 1, nline := 2, llen := 16, idxa := idxa, fills := none }] }

theorem witness_BucketEvents_gather (l : Option W64) (h : l = none ∨ l = some 0x10100#64) :
    let s := demoGather false l
    ∃ z ix, s.Inv ∧ (s.core 0).eng.gathers.find? (·.half == 1) = some z ∧ z.tag.held = false ∧ z.fills = none ∧ s.engineLive 0 = true ∧ armTurn (s.core 0).eng z.tag = true ∧ bucketReads (s.core 0).eng z.tag.num 1 = false ∧ (∃ fills, gatherFill (s.view ax) s z = .ok fills) ∧
      CanRecord s 0 z.tag.recEvt ∧ z.nline ≤ 128 ∧ z.llen ≤ 128 ∧ z.idxa = l ∧ (match z.idxa with | none => ix = [] | some l => (s.view ax).read s l.toNat (2 * z.nline) = .ok ix) := by
  rcases h with rfl | rfl
  · exact ⟨_, [], by unfold State.Inv; decide +kernel, rfl, rfl, rfl, by decide +kernel, by decide +kernel, by decide +kernel, some_of (by decide +kernel), can_record _ _, by decide, by decide, rfl, rfl⟩
  · exact ⟨_, List.replicate 4 0#8, by unfold State.Inv; decide +kernel, rfl, rfl, rfl, by decide +kernel, by decide +kernel, by decide +kernel, some_of (by decide +kernel), can_record _ _, by decide, by decide, rfl,
      ok_of (ε := TrapInfo) (by decide +kernel)⟩

/-- A GATHER on a predicted arm. -/
theorem witness_BucketEvents_gather_held :
    let s := demoGather true none
    ∃ z, (s.core 0).eng.gathers.find? (·.half == 1) = some z ∧ z.tag.held = true ∧ z.fills = none ∧ CanRecord s 0 z.tag.recEvt ∧ s.engineLive 0 = true ∧ ∃ fills, gatherFill (s.view ax) s z = .ok fills :=
  ⟨_, rfl, rfl, rfl, can_record _ _, by decide +kernel, some_of (by decide +kernel)⟩

/-- One command at the head of the bucket queue. -/
def demoBucket (op : BkOp) (held run : Bool) (grp : Option (Nat × BkRun)) : State :=
  demoEngines.modBk 0 fun e => { e with run := run, openGrp := grp, queue := [{ tag := { demoTag with held := held }, op := op, depth := 1, writes := [] }] }

/-- Each command at the head, free to act; one that is held; an engine that is stopped; an empty queue. -/
theorem witness_BucketEvents_expansion (op : BkOp) (_h : op = .rst ∨ op = .shape true ∨ op = .fin ∨ op = .drain 0x10000#64 0 true) :
    (∃ k, ((demoBucket op false true none).core 0).eng.bk.queue = [k] ∧ k.tag.held = false ∧ k.op = op) ∧ ((demoBucket op false true none).core 0).eng.bk.run = true ∧
    ((demoBucket op false true none).core 0).eng.bk.openGrp = none ∧ (∃ k, ((demoBucket op true true none).core 0).eng.bk.queue = [k] ∧ k.tag.held = true) ∧
    (∀ r, op ≠ .run r) ∧ (demoBucket op false true none).engineLive 0 = true ∧ (demoBucket op true true none).engineLive 0 = true ∧
    ((demoBucket op false false none).core 0).eng.bk.run = false ∧ (demoEngines.core 0).eng.bk.queue = [] := by
  refine ⟨⟨_, rfl, rfl, rfl⟩, rfl, rfl, ⟨_, rfl, rfl⟩, ?_, by rcases _h with rfl | rfl | rfl | rfl <;> decide +kernel, by rcases _h with rfl | rfl | rfl | rfl <;> decide +kernel, rfl, rfl⟩
  rintro r rfl
  simp at _h

/-- A BKRUN from entry 0 of the micro-order store. -/
def demoRun : BkRun := { entry := 0, tile := 0x300000#64, ascl := 0x10000#64, azp := 0x10000#64, afe := 8, half := 0, rowb := 0, share := { mcast := 0#24, lead := 0 }, g := 4, data := none }

/-- A bank tile of one bit and groups of 32 whose sixteen first rows have their positions in code 1 of group 0; a BKRUN of it stands at the head. -/
def demoTile (held : Bool) (mo : W32) (grp : Option (Nat × BkRun)) : State :=
  (List.range 16).foldl (fun s i => placed (bankBase 0 0 + 896 + 144 * i + 113) (List.replicate 7 0x20#8) s)
    (placed (bankBase 0 0) (fields [(1, 2), (1, 1), (1, 0), (1, 1), (4, 10112)]) ((demoBucket (.run demoRun) held true grp).modBk 0 fun e => { e with store := [(0, mo)] }))

/-- Has an engine's read gone well? -/
def isOkT {α : Type} (r : Except TrapInfo α) : Bool := match r with | .ok _ => true | .error _ => false

/-- A BKRUN on a predicted arm, whose tile can be read. -/
theorem witness_BucketEvents_held_run :
    let s := demoTile true 0x10000000#32 none
    (∃ k, (s.core 0).eng.bk.queue = [k] ∧ k.tag.held = true ∧ k.op = .run demoRun) ∧ s.engineLive 0 = true ∧ (s.core 0).eng.bk.run = true ∧ demoRun.share.mcast = 0#24 ∧ demoRun.data = none ∧
      ∃ bs, tileBytes (s.view ax) s demoRun.tile = .ok bs :=
  ⟨⟨_, rfl, rfl, rfl⟩, by decide +kernel, by decide +kernel, rfl, rfl, some_of (by decide +kernel)⟩

/-- ACC of group 0, and FIN of it, by a command that the engine may take. -/
theorem witness_BucketEvents_orders :
    (∃ d, bkData 0 demoRun (demoTile false 0x10000000#32 none) = .ok d ∧ (decide (0 < d.h.ng) && (shapeRows false 0).all (fun x => segmentOk d (rowRecord d x.2) 0)) = true) ∧
    demoRun.ready = true ∧ (demoTile false 0x10000000#32 none).eccHit (gbufBase 0 + demoRun.half * 16384) 16384 = false ∧ gatherPending ((demoTile false 0x10000000#32 none).core 0).eng 0 0 = false ∧ tget 0#32 ((demoTile false 0x10000000#32 none).core 0).eng.bk.store 1 = 0#32 ∧
    tget 0#32 ((demoTile false 0x10000000#32 none).core 0).eng.bk.store 0 = BitVec.ofNat 32 (2 ^ 28 + 0 * 2 ^ 26) ∧
    (∃ d, bkData 0 demoRun (demoTile false 0x20000000#32 (some (0, demoRun))) = .ok d ∧
      (isOkT (finData 0 demoRun d 0 128 (demoTile false 0x20000000#32 (some (0, demoRun)))) && (shapeRows false 0).all fun x => decide (cbIndex d x.2 0 < d.h.ncb)) = true) ∧
    tget 0#32 ((demoTile false 0x20000000#32 (some (0, demoRun))).core 0).eng.bk.store 0 = BitVec.ofNat 32 (2 * 2 ^ 28 + 0 * 2 ^ 26) :=
  ⟨ok_with (by decide +kernel), rfl, by decide +kernel, by decide +kernel, by decide +kernel, by decide +kernel, ok_with (by decide +kernel), by decide +kernel⟩

/-- An ended command with two words to write, and with none; a BKDRAIN behind a BKRUN that left a group open. -/
theorem witness_BucketEvents_retire :
    let k (ws : List (W64 × W32)) : BkCmd := { tag := demoTag, op := .drain 0x10000#64 0 true, depth := 64, writes := ws }
    let s := demoEngines.modBk 0 fun e => { e with ended := [k [(0x10000#64, 7#32), (0x10004#64, 8#32)]] }
    let t := demoEngines.modBk 0 fun e => { e with ended := [k []] }
    let run : BkCmd := { tag := demoTag, op := .run demoRun, depth := 64, writes := [] }
    let u := demoEngines.modBk 0 fun e => { e with openGrp := some (0, demoRun), ended := [run, k []] }
    s.Inv ∧ (s.core 0).eng.bk.ended = k [(0x10000#64, 7#32), (0x10004#64, 8#32)] :: [] ∧ WritesTo s (s.view ax) 0x10000#64 (unitBase 0) ∧
    t.Inv ∧ (t.core 0).eng.bk.ended = k [] :: [] ∧ (t.core 0).eng.bk.openGrp = none ∧ CanRecord t 0 false ∧ armTurn (s.core 0).eng demoTag = true ∧
    (u.core 0).eng.bk.ended = run :: k [] :: [] ∧ run.writes = [] ∧ run.isDrain = false ∧ (u.core 0).eng.bk.openGrp.isSome = true ∧ (k []).isDrain = true ∧ CanRecord u 0 false :=
  ⟨by unfold State.Inv; decide +kernel, rfl, writes_of (by decide +kernel), by unfold State.Inv; decide +kernel, rfl, rfl, can_record _ _, by decide +kernel, rfl, rfl, rfl, rfl, rfl, can_record _ _⟩

/-- A shared read of the cores 0 and 1, whose commands have both been accepted. -/
def demoShare : State :=
  let r : BkOp := .run { demoRun with share := { mcast := 3#24, lead := 1 } }
  let s := demoBucket r false true none
  (s.modCore 1 fun k => { k with ctx0 := { state := .running, task := demoTask, saved := none } }).modBk 1 fun e =>
    { e with run := true, queue := [{ tag := { demoTag with num := 5 }, op := r, depth := 1, writes := [] }] }

theorem witness_BucketEvents_share : ∃ key, openShares demoShare 0 .bank = (0, key) :: [] ∧ demoShare.engineLive 0 = true ∧ key.lead < 24 ∧ key.mcast.getLsbD key.lead = true ∧
    (∃ lead bs, (openShares demoShare (0 / 24 * 24 + key.lead) .bank).find? (·.2 == key) = some (lead, key) ∧ leaderRead (0 / 24 * 24 + key.lead) lead .bank demoShare = .ok (.tile bs)) ∧
    ∀ i, i < 24 → key.mcast.getLsbD i = true → ∃ m, (openShares demoShare (0 / 24 * 24 + i) .bank).find? (·.2 == key) = some (m, key) := by
  refine ⟨{ mcast := 3#24, lead := 1, names := [tileOffset demoShare 0 0x300000#64] }, by decide +kernel, by decide +kernel, by decide, by decide, ⟨5, List.replicate 64 0#8, by decide +kernel, ok_of (by decide +kernel)⟩, ?_⟩
  intro i hi h
  have : i = 0 ∨ i = 1 := by revert i; decide
  rcases this with rfl | rfl
  · exact ⟨0, by decide +kernel⟩
  · exact ⟨5, by decide +kernel⟩

/-- A SORTW of a code tile at 0x10000 into slot 0. -/
def demoSort : SortCmd :=
  { by_ := { core := 0, task := 0x0000000700000005#64, idx := 0#32, seq := 0, lineage := 0, pcs := none }, view := demo.view aa, src := 0x10000#64, slot := 0,
    ctl := { seq := false, recEvt := false, baren := false, bar := 0 }, written := none }

theorem witness_BucketEvents_sort :
    let s := (placed (unitBase 0) (fields [(1, 1), (1, 1), (1, 0), (1, 1), (4, 1920)]) demo).modCluster 0 fun k => { k with sorts := [demoSort] }
    s.Inv ∧ (s.cluster 0).sorts = demoSort :: [] ∧ demoSort.written = none ∧ demoSort.ctl.baren = false ∧ demoSort.ctl.recEvt = false ∧ tget? (s.part 0).swap 0 = none ∧ issuerReady demoSort.by_ s = true ∧
    (∃ hb, demoSort.view.read s demoSort.src.toNat 64 = .ok hb ∧ decide ((tileHeader? 1 hb).map (fun h => (h.ng, h.bits)) = some (4, 1)) = true) ∧
    (∃ tile, demoSort.view.read s demoSort.src.toNat (codeTileSize 4 1) = .ok tile) ∧ s.ownedRange (bankBase 0 1) (bankTileSize 4) = true ∧ bankBase 0 1 + 2 ^ 16 ≤ lpBase :=
  ⟨by unfold State.Inv; decide +kernel, rfl, rfl, rfl, rfl, rfl, by decide +kernel, ok_with (by decide +kernel), some_of (by decide +kernel), by decide +kernel, by decide⟩

/-! Dense engine. -/

/-- One command at the head of the dense queue. -/
def demoDense (op : DnOp) (store : Table W32) (readDone : Bool) (ws : List (W64 × W32)) (held : Bool := false) : State :=
  demoEngines.modDn 0 fun e => { e with store := store, queue := [{ tag := { demoTag with held := held }, op := op, depth := 64, readDone := readDone, flags := 0#6, writes := ws }] }

/-- An operand in the format of entry 1 at 0x10000. -/
def demoOperand : DenseOperand := { base := 0x10000#64, plane := 0#64, stride := 128, fe := 1, share := { mcast := 0#24, lead := 0 }, data := none }

/-- A product of 32 steps. -/
theorem witness_DenseEvents_product (keep : Bool) :
    let s := demoDense (.mma keep 0 32 0 false demoOperand demoOperand) [(0, 0x10000020#32)] false []
    let n := (s.core 0).eng.dn
    (∃ k, n.queue = [k] ∧ k.tag.held = false ∧ k.op = .mma keep 0 32 0 false demoOperand demoOperand) ∧ (n.run = true ∧ s.engineLive 0 = true) ∧ demoOperand.ready = true ∧
    (∃ x, sourceA 0 n 0 false demoOperand 32 s = .ok x) ∧ (∃ fb, legalOperand s (s.partOf ax) 1 = some fb ∧ ∃ d, operandData 0 n s demoOperand fb false 32 = .ok d) ∧
    tget 0#32 n.store ((n.base + 0) % 256) = BitVec.ofNat 32 (2 ^ 28 + 32) ∧ tget 0#32 n.store (((n.base + 0) % 256 + 1) % 256) = 0#32 ∧ CanRecord s 0 false := by
  cases keep <;>
    exact ⟨⟨_, rfl, rfl, rfl⟩, ⟨rfl, by decide +kernel⟩, rfl, some_of (by decide +kernel), ⟨_, rfl, some_of (by decide +kernel)⟩, rfl, rfl, can_record _ _⟩

/-- A product on a predicted arm, whose operands can be read. -/
theorem witness_DenseEvents_held (keep : Bool) :
    let s := demoDense (.mma keep 0 32 0 false demoOperand demoOperand) [(0, 0x10000020#32)] false [] true
    let n := (s.core 0).eng.dn
    (∃ k, n.queue = [k] ∧ k.tag.held = true ∧ k.op = .mma keep 0 32 0 false demoOperand demoOperand) ∧ CanRecord s 0 false ∧ (n.run = true ∧ s.engineLive 0 = true) ∧ demoOperand.data = none ∧
    ∃ f, legalOperand s (s.partOf ax) 1 = some f ∧ (∃ x, operandBytes n (s.view ax) s demoOperand f true 32 = .ok x) ∧ ∃ y, operandBytes n (s.view ax) s demoOperand f false 32 = .ok y := by
  cases keep <;>
    exact ⟨⟨_, rfl, rfl, rfl⟩, can_record _ _, ⟨rfl, by decide +kernel⟩, rfl, _, rfl, some_of (by decide +kernel), some_of (by decide +kernel)⟩

/-- DCLR, DBYP and DDRAIN at the head; a drain that has two words left. -/
theorem witness_DenseEvents_others :
    (∃ k, ((demoDense .clr [] false []).core 0).eng.dn.queue = [k] ∧ k.op = .clr ∧ k.readDone = false ∧ k.tag.held = false) ∧ (((demoDense .clr [] false []).core 0).eng.dn.run = true ∧ (demoDense .clr [] false []).engineLive 0 = true) ∧
    (let s := demoDense (.byp 1 true) [] false []
     (∃ k, (s.core 0).eng.dn.queue = [k] ∧ k.op = .byp 1 true) ∧ (chainOperand s (s.partOf ax) 1).isSome = true) ∧
    (let s := demoDense (.drain 0x10000#64 0 0 false false true) [] false []
     (∃ k, (s.core 0).eng.dn.queue = [k] ∧ k.op = .drain 0x10000#64 0 0 false false true) ∧ ∃ f, s.ftEntry (s.partOf ax) 0 = some f ∧ f.scale = 0 ∧ 4 ≤ f.elem.width ∧ f.elem = .fp32) ∧
    (let ws : List (W64 × W32) := [(0x10000#64, 7#32), (0x10004#64, 8#32)]
     let s := demoDense (.drain 0x10000#64 0 0 false false true) [] true ws
     s.Inv ∧ (∃ k, (s.core 0).eng.dn.queue = [k] ∧ k.readDone = true ∧ k.writes = ws ∧ armTurn (s.core 0).eng k.tag = true) ∧ WritesTo s (s.view ax) 0x10000#64 (unitBase 0)) :=
  ⟨⟨_, rfl, rfl, rfl, rfl⟩, ⟨rfl, by decide +kernel⟩, ⟨⟨_, rfl, rfl⟩, by decide +kernel⟩, ⟨⟨_, rfl, rfl⟩, _, rfl, by decide +kernel, by decide +kernel, by decide +kernel⟩,
    by unfold State.Inv; decide +kernel, ⟨_, rfl, rfl, rfl, by decide +kernel⟩, writes_of (by decide +kernel)⟩

/-- A tile move at the head. -/
def demoMove (toMem : Bool) : State :=
  demoEngines.modEng 0 fun e => { e with tiles := [{ tag := demoTag, tile := 1, toMem := toMem, trans := true, base := 0x10000#64, stride := 256, rows := none }] }

theorem witness_DenseEvents_moves :
    (∃ z, ((demoMove false).core 0).eng.tiles = [z] ∧ z.tag.held = false ∧ z.toMem = false ∧ z.rows = none ∧ armTurn ((demoMove false).core 0).eng z.tag = true) ∧ (demoMove false).engineLive 0 = true ∧ CanRecord (demoMove false) 0 false ∧
    (∀ i, i < 64 → ((demoMove false).view ax).read (demoMove false) ((0x10000 + i * 256) % 2 ^ 64) 256 = .ok (List.replicate 256 0#8)) ∧
    (demoMove true).Inv ∧ (∃ z, ((demoMove true).core 0).eng.tiles = [z] ∧ z.toMem = true) ∧
    (∀ i k, i < 64 → k < 64 → WritesTo (demoMove true) ((demoMove true).view ax) (BitVec.ofNat 64 ((0x10000 + i * 256) % 2 ^ 64 + 4 * k)) (unitBase 0 + 4 * (64 * i + k)) ∧
      (0x10000 + i * 256) % 2 ^ 64 + 256 ≤ 2 ^ 64 ∧ (demoMove true).expired (unitBase 0 + 4 * (64 * i + k)) = false) ∧
    (∀ i k, i < 4096 → k < 4096 → i ≠ k → unitBase 0 + 4 * i + 4 ≤ unitBase 0 + 4 * k ∨ unitBase 0 + 4 * k + 4 ≤ unitBase 0 + 4 * i) := by
  have h : ∀ i, i < 64 → ∀ k, k < 64 → (writesB (demoMove true) ((demoMove true).view ax) (BitVec.ofNat 64 ((0x10000 + i * 256) % 2 ^ 64 + 4 * k)) (unitBase 0 + 4 * (64 * i + k)) &&
      !(demoMove true).expired (unitBase 0 + 4 * (64 * i + k))) = true := by decide +kernel
  refine ⟨⟨_, rfl, rfl, rfl, rfl, by decide +kernel⟩, by decide +kernel, can_record _ _, fun i hi => ok_of (by revert i; decide +kernel), by unfold State.Inv; decide +kernel, ⟨_, rfl, rfl⟩, ?_, ?_⟩
  · intro i k hi hk
    have h := h i hi k hk
    simp only [Bool.and_eq_true, Bool.not_eq_true'] at h
    exact ⟨writes_of h.1, by omega, h.2⟩
  · omega

/-- A prediction that p8 is 1: it is, and it is not. -/
theorem witness_DenseEvents_prediction (v : BitVec 12) (_h : v = 0x100#12 ∨ v = 0#12) :
    let m : Arm := { pred := 8, sense := true, taken := true, other := 4#64 }
    let t : Task := { demoTask with preds := v, x := { demoTask.x with arm := some m, unlanded := [8] } }
    let s := demoWith t ax
    s.task? ax = some t ∧ t.x.arm = some m ∧ (s.core 0).armFaults = [] ∧ (v = 0x100#12 → (t.preds.getLsbD m.pred.val == m.sense) = m.taken) ∧ (v = 0#12 → (t.preds.getLsbD m.pred.val == m.sense) ≠ m.taken) :=
  ⟨rfl, rfl, rfl, fun h => by subst h; decide, fun h => by subst h; decide⟩

end Sys2Proof.Tests
end

