-- ==== Sys2Proof/Tests/WitnessEvents.lean ====
section
/-! SUPPORT. Witnesses of the hypotheses of the statements about the events of time, of timetables and of tasks. -/

set_option Elab.async false

namespace Sys2Proof.Tests

open Sys2Proof Sys2Proof.Machine

/-! Intervals and frames: the launch has frames of ten ticks from tick 10 on. -/

/-- The demo module at a tick, slipping or not; its launch is changed by `f`. -/
def demoAt (frame : Nat) (slip : Bool) (f : Launch → Launch) : State :=
  { demo.modLaunch 0 f with modl := { Module.reset with mstate := 4, frame := frame, slip := slip, intcnt := 50 } }

/-- Two nodes: node 0 depends on node 1, is due at tick 5 of the frame, and reads its predicate at 0x100000, if at all. -/
def demoNodes (cond : Bool) (nodes : Table NodeState) (l : Launch) : Launch :=
  let n (deps : List Nat) : TNode := { relt := 5, period := 1, phase := 0, deps := deps, pwin := 0, cond := cond, pinv := false, pva := 0x100000#64, jrec := jrecOf 0 }
  { l with tt := { l.tt with nodes := [n [1], n []] }, nodes := nodes }

/-- Is a node of an active launch due? -/
def dueB (s : State) : Bool :=
  (List.range 24).any fun q => match (s.part q).launch with
    | some l => l.phase == .active && (List.range l.tt.nodes.length).any fun i => match l.tt.nodes[i]? with
      | some n => n.runs l.frame && tget .waiting l.nodes i == .waiting && s.reached ((l.frameStart l.frame + n.relt) % 2 ^ 48) &&
          n.deps.all fun d => match l.tt.nodes[d]? with | some m => !m.runs l.frame || tget .waiting l.nodes d == .done | none => true
      | none => false
    | none => false

/-- Is a delayed push of an active launch due? -/
def owedB (s : State) : Bool :=
  (List.range 24).any fun q => match (s.part q).launch with
    | some l => l.phase == .active && l.delayed.any fun d => s.reached d.due
    | none => false

/-- No push is due where the check finds none. -/
theorem not_owed {s : State} (h : owedB s = false) :
    ¬ ∃ q, q < 24 ∧ ∃ l d, (s.part q).launch = some l ∧ l.phase = .active ∧ d ∈ l.delayed ∧ s.reached d.due = true := by
  rintro ⟨q, hq, l, d, hl, hp, hd, hr⟩
  rw [owedB, List.any_eq_false] at h
  have := h q (List.mem_range.mpr hq)
  simp only [hl, hp, beq_self_eq_true, Bool.true_and, List.any_eq_true, not_exists, not_and] at this
  exact this d hd hr

/-- No node is due where the check finds none. -/
theorem not_due {s : State} (h : dueB s = false) :
    ¬ ∃ q, q < 24 ∧ ∃ l i n, (s.part q).launch = some l ∧ l.tt.nodes[i]? = some n ∧ l.phase = .active ∧ n.runs l.frame = true ∧
      tget .waiting l.nodes i = .waiting ∧ s.reached ((l.frameStart l.frame + n.relt) % 2 ^ 48) = true ∧
      ∀ d ∈ n.deps, ∀ m, l.tt.nodes[d]? = some m → m.runs l.frame = true → tget .waiting l.nodes d = .done := by
  rintro ⟨q, hq, l, i, n, hl, hn, hp, hr, hw, hb, hd⟩
  rw [dueB, List.any_eq_false] at h
  have := h q (List.mem_range.mpr hq)
  simp only [hl, hp, beq_self_eq_true, Bool.true_and, List.any_eq_true, not_exists, not_and, List.mem_range] at this
  refine this i (List.getElem?_eq_some_iff.mp hn).1 ?_
  simp only [hn, hr, hw, hb, beq_self_eq_true, Bool.true_and, Bool.and_true, List.all_eq_true]
  intro d hm
  cases hx : l.tt.nodes[d]? with
  | none => rfl
  | some m =>
    cases hy : m.runs l.frame with
    | false => simp [hy]
    | true => simp [hy, hd d hm m hx hy]

/-- Does a launch hold the counter, when its frame is marked if it is complete? -/
def holdB (s : State) : List Nat :=
  (List.range 24).filter fun q => match (s.part q).launch with | some l => { l with complete := l.complete || l.closes s }.holds s.modl.frame | none => false

theorem holds_of {s : State} {q : Nat} (h : q ∈ holdB s) : q < 24 ∧ ∃ l, (s.part q).launch = some l ∧ { l with complete := l.complete || l.closes s }.holds s.modl.frame = true := by
  obtain ⟨hq, h⟩ := List.mem_filter.mp h
  refine ⟨List.mem_range.mp hq, ?_⟩
  cases hl : (s.part q).launch with
  | none => rw [hl] at h; cases h
  | some l => exact ⟨l, rfl, by rw [hl] at h; exact h⟩

theorem no_holder {s : State} (h : holdB s = []) : ¬ ∃ q, q < 24 ∧ ∃ l, (s.part q).launch = some l ∧ { l with complete := l.complete || l.closes s }.holds s.modl.frame = true := by
  rintro ⟨q, hq, l, hl, hh⟩
  have : q ∈ holdB s := by
    refine List.mem_filter.mpr ⟨List.mem_range.mpr hq, ?_⟩
    rw [hl]
    exact hh
  rw [h] at this
  cases this

/-- Tick 19 is the last of frame 0. A released node that has not retired keeps the frame open, and the launch holds, slipping or not; with no node the frame is complete at that moment, and no launch holds; then frame 1 begins. A module without launches. -/
theorem witness_FrameEvents_pulse (slip : Bool) :
    let s := demoAt 19 slip (demoNodes false [(1, .released)])
    let u := demoAt 19 slip fun l => { l with tt := { l.tt with nframe := 2 } }
    (s.modl.slip = slip ∧ dueB s = false ∧ owedB s = false ∧ 0 ∈ holdB s) ∧
    (u.modl.slip = slip ∧ dueB u = false ∧ owedB u = false ∧ holdB u = [] ∧ ∃ l, (u.part 0).launch = some l ∧ l.phase = .active ∧ (u.modl.frame + 1) % 2 ^ 48 = l.frameStart (l.frame + 1) ∧ l.frame + 1 < l.tt.nframe) ∧
    (∀ q, q < 24 → (State.reset.part q).launch = none) := by
  cases slip <;>
    exact ⟨⟨rfl, by decide +kernel, by decide +kernel, by decide +kernel⟩, ⟨rfl, by decide +kernel, by decide +kernel, by decide +kernel, _, rfl, rfl, by decide +kernel, by decide +kernel⟩, fun _ _ => rfl⟩

/-- A hold of 40 intervals, four frames long. -/
theorem witness_FrameEvents_slip :
    let s := demoAt 19 true fun l => { l with slipAt := some 10 }
    ∃ l, (s.part 0).launch = some l ∧ l.slipAt = some 10 ∧ s.modl.slip = true ∧ l.holds s.modl.frame = true ∧ l.tt.framelen ≤ (s.modl.intcnt + 2 ^ 48 - 10) % 2 ^ 48 ∧ CanRecord s (s.lowCluster 0) true :=
  ⟨_, rfl, rfl, rfl, by decide +kernel, by decide +kernel, fun _ => ⟨by decide +kernel, by decide +kernel, by decide +kernel⟩⟩

/-- The last node has retired; the hold of the frame may be over. -/
theorem witness_FrameEvents_complete (slip : Bool) :
    let s := demoAt 19 slip (demoNodes false [(0, .done), (1, .done)])
    ∃ l, (s.part 0).launch = some l ∧ l.phase = .active ∧ l.complete = false ∧ s.reached (l.frameStart l.frame) = true ∧
      (∀ i n, l.tt.nodes[i]? = some n → n.runs l.frame = true → tget .waiting l.nodes i = .done) ∧ (∀ x ∈ l.jigs, x.2.frame ≠ l.frame) ∧ (∀ d ∈ l.delayed, s.reached d.due = false) ∧ l.group = none ∧ s.modl.slip = slip ∧
      (∀ q, q ≠ 0 → ¬ (q < 24 ∧ ∃ l, (s.part q).launch = some l ∧ l.holds s.modl.frame = true)) := by
  refine ⟨_, rfl, rfl, rfl, by cases slip <;> decide +kernel, ?_, (by intro x hx; cases hx), (by intro x hx; cases hx), rfl, rfl, ?_⟩
  · rintro (_ | _ | i) n hn hr
    · rfl
    · rfl
    · cases hn
  · rintro (_ | q) hq ⟨_, l, hl, _⟩
    · exact absurd rfl hq
    · cases hl

/-- Node 0 with its dependence met and not met, before its tick and after it; its predicate word is not 0, and 0. -/
theorem witness_FrameEvents_release (cond : Bool) (v : Nat) (_h : v = 0 ∨ v = 1) :
    let s := placed (dieBase 0) (fields [(4, v)]) (demoAt 15 false (demoNodes cond [(1, .done)]))
    ∃ l n, (s.part 0).launch = some l ∧ l.phase = .active ∧ l.tt.nodes[0]? = some n ∧ n.runs l.frame = true ∧ tget .waiting l.nodes 0 = .waiting ∧
      s.reached ((l.frameStart l.frame + n.relt) % 2 ^ 48) = true ∧ (∀ d ∈ n.deps, ∀ m, l.tt.nodes[d]? = some m → m.runs l.frame = true → tget .waiting l.nodes d = .done) ∧
      (iterations l n.jrec).2 ≠ 0 ∧ n.cond = cond ∧ predicateAddr s 0 l n ((l.frameStart l.frame + n.relt) % 2 ^ 48) = some (dieBase 0) ∧ s.owned (dieBase 0) = true ∧ s.eccHit (dieBase 0) 4 = false ∧
      s.expired (dieBase 0) = false ∧ s.value (dieBase 0) 4 = v ∧ n.pinv = false := by
  rcases _h with rfl | rfl <;> cases cond <;>
    exact ⟨_, _, rfl, rfl, rfl, by decide +kernel, rfl, by decide +kernel, by intro d hd m hm _; rw [List.mem_singleton.mp hd]; rfl, by decide +kernel, rfl, by decide +kernel, by decide +kernel,
      by decide +kernel, by decide +kernel, by decide +kernel, rfl⟩

theorem witness_FrameEvents_early :
    let s := demoAt 14 false (demoNodes false [(1, .done)])
    let t := demoAt 15 false (demoNodes false [])
    (∃ l n, (s.part 0).launch = some l ∧ l.tt.nodes[0]? = some n ∧ s.reached ((l.frameStart l.frame + n.relt) % 2 ^ 48) = false) ∧
    (∃ l n, (t.part 0).launch = some l ∧ l.tt.nodes[0]? = some n ∧ ∃ d ∈ n.deps, ∃ m, l.tt.nodes[d]? = some m ∧ m.runs l.frame = true ∧ tget .waiting l.nodes d ≠ .done) :=
  ⟨⟨_, _, rfl, rfl, by decide +kernel⟩, _, _, rfl, rfl, 1, by decide, _, rfl, by decide +kernel, by decide⟩

/-- A delayed push whose tick has come stands behind one whose tick has not. -/
theorem witness_FrameEvents_jpush :
    let d (t : Nat) : DelayedJig := { jrec := jrecOf 0, due := t, slot := 0, lineage := [] }
    let s := demoAt 15 false fun l => { l with delayed := [d 16, d 15] }
    (∃ l, (s.part 0).launch = some l ∧ l.phase = .active ∧ l.delayed = [d 16] ++ d 15 :: [] ∧ (∀ e ∈ [d 16], s.reached e.due = false) ∧ s.reached (d 15).due = true ∧ (iterations l (d 15).jrec).2 ≠ 0) ∧
    (∃ l, ((demoAt 14 false fun l => { l with delayed := [d 16, d 15] }).part 0).launch = some l ∧ ∀ e ∈ l.delayed, (demoAt 14 false id).reached e.due = false) :=
  ⟨⟨_, rfl, rfl, rfl, by decide +kernel, by decide +kernel, by decide +kernel⟩, _, rfl, by decide +kernel⟩

/-- A group of two devices and a port in the direct mode: the other device is done with frame 0, and reports a phase of level 4, of which core 0 is the only member. -/
theorem witness_FrameEvents_group (arrived : List Nat) (h : arrived = [] ∨ arrived = [0]) :
    let s := (grouped demo).modLaunch 0 fun l => { l with dmap := [(0, 0x11#5)], phases := [(4000, { count := 3, arrived := arrived, ranks := [(3, 0)] })] }
    ∃ l g, (s.port 0).owner? = some 0 ∧ (s.port 0).direct = true ∧ (s.part 0).launch = some l ∧ l.group = some g ∧ l.phase ≠ .discarding ∧ (0, 1) ∉ l.frameDone ∧ 1 ≠ g.rank ∧ 1 < g.size ∧ s.modl.slip = false ∧
      (3, 1) ∉ (l.phaseOf 4000).ranks ∧ (phaseMembers s 0 l 4 0 = [0]) ∧ (l.phaseOf 4000).arrived = arrived ∧ (∀ r, r < g.size → ((l.phaseOf 4000).count, r) ∈ (3, 1) :: (l.phaseOf 4000).ranks) := by
  rcases h with rfl | rfl <;>
    exact ⟨_, _, by decide +kernel, by decide +kernel, rfl, rfl, by decide, by decide, by decide, by decide, rfl, by decide, by decide +kernel, rfl, by intro r hr; revert r; decide⟩

/-- A dispatch queue with an entry in its ring, a data queue with one in die memory, an event queue with one. -/
theorem witness_FrameEvents_refill :
    let d (mode : Nat) : QDesc := { mode := mode, rstack := 0, rlog := 1, roff := 0x200000 }
    let s (mode : Nat) : State := ((demo.modLaunch 0 fun l => { l with tt := { l.tt with queues := [d mode], evqd := d 2 } }).setQueue 0 0
      { TaskQueue.empty with dispRing := if mode = 1 then [some 0] else [], count := 1 }).modCluster 0 fun k => { k with evq := { k.evq with count := 1 } }
    (let k := (s 1).queue 0 0
     (s 1).partOf? 0 = some 0 ∧ ((s 1).qdesc 0 0).mode = 1 ∧ k.dispRing = some 0 :: [] ∧ ([] : List (Option Nat)).head? ≠ some none ∧ k.disp.length < 32 ∧ k.dispWait = [] ∧
      (∃ l, ((s 1).part 0).launch = some l) ∧ (let at_ := ringAddr (s 1) 0 ((s 1).qdesc 0 0) 0 32 (k.head % ringSize ((s 1).qdesc 0 0)); (s 1).owned at_ = true ∧ (s 1).eccHit at_ 32 = false)) ∧
    (let k := (s 2).queue 0 0
     ((s 2).qdesc 0 0).mode = 2 ∧ 0 < k.count ∧ k.data.length < 32 ∧ (let at_ := ringAddr (s 2) 0 ((s 2).qdesc 0 0) 0 32 (k.head % ringSize ((s 2).qdesc 0 0)); (s 2).owned at_ = true ∧ (s 2).eccHit at_ 32 = false)) ∧
    (let k := ((s 2).cluster 0).evq
     0 < k.count ∧ k.hw.length < 128 ∧ (let at_ := ringAddr (s 2) 0 ((s 2).evqd 0) 0 16 (k.head % ringSize ((s 2).evqd 0)); (s 2).owned at_ = true ∧ (s 2).eccHit at_ 16 = false) ∧ ((s 2).cluster 0).evWait = []) :=
  ⟨⟨by decide +kernel, rfl, rfl, nofun, by decide +kernel, rfl, ⟨_, rfl⟩, by decide +kernel, by decide +kernel⟩, ⟨rfl, by decide +kernel, by decide +kernel, by decide +kernel, by decide +kernel⟩,
    by decide +kernel, by decide +kernel, ⟨by decide +kernel, by decide +kernel⟩, rfl⟩

/-- An evaluation of the cell at 0x100000 of the die memory, whose evaluator's record stands at 0x1000 of D-space; the record has been read already, or not. -/
def demoEvaluation (jig : Option (List Byte)) : Evaluation := { cell := dieBase 0 + 0x100000, rec_ := fields [(8, 0x1000), (8, 0), (8, 0), (8, 0)], jig := jig, loader := 0, va := 0x500000#64, lineage := [] }

/-- An evaluation of the cell at 0x100000 of the die memory, whose evaluator's record stands at 0x1000 of D-space; `n` delayed pushes use the pool. -/
def demoPool (n : Nat) : State :=
  let s := (dspaced (placed (dieBase 0 + 0x100000) (fields [(8, 0x1000)]) demo)).modLaunch 0 fun l =>
    { l with
      lrec := { l.lrec with wscount := 1 }, tt := { l.tt with queues := [{ mode := 1, rstack := 0, rlog := 1, roff := 0x600000 }] }, dmap := [(0, 3#5)]
      delayed := List.replicate n { jrec := jrecOf 0, due := 200, slot := 0, lineage := [] } }
  s.modCluster 0 fun k => { k with evals := [demoEvaluation none] }
def demoPlacedEval (record : List Byte) (n : Nat) : State := dplaced 0x1000 record (demoPool n)

/-- The launch of that state. -/
def poolLaunch (n : Nat) : Launch := ((demoPool n).part 0).launch.getD .empty

/-- The check of an evaluator's record as read. -/
def evalCheck (n : Nat) (ok : Bool) (bs : List Byte) (s : State) : Bool :=
  let l := poolLaunch n
  let dom := hintDomain (fieldOf (demoEvaluation none).rec_ 0x10 4) 0 0
  let j := { JigRec.ofBytes bs with level := dom.1, dsel := dom.2 }
  decide (jigOk s 0 l bs j = ok) && (!ok || decide ((iterations l { j with prio := bitsOf (fieldOf (demoEvaluation none).rec_ 0x14 1) 2 0, arg := 0x500000#64 }).2 ≠ 0))

theorem evalPool (n : Nat) : (poolLaunch n).poolFree = decide (n < 4096) := by
  have hj : (poolLaunch n).jigs = [] := rfl
  have hd : (poolLaunch n).delayed = List.replicate n { jrec := jrecOf 0, due := 200, slot := 0, lineage := [] } := rfl
  simp only [Launch.poolFree, Launch.poolUsed, hj, hd, List.filter_nil, List.length_nil, List.length_replicate, Nat.zero_add]

/-- Its record is sound, and the pool has a free entry or none; or it is not. -/
theorem witness_FrameEvents_evaluation (record : List Byte) (n : Nat) (ok : Bool) (h : (record, n, ok) ∈ [(jigBytes 0 0, 0, true), (jigBytes 0 0, 4096, true), (fields [(64, 0)], 0, false)]) :
    let s := demoPlacedEval record n
    ∃ ev bs s' l, s.partOf? 0 = some 0 ∧ (s.cluster 0).evals = ev :: [] ∧ (s.part 0).launch = some l ∧ l.phase = .active ∧ dRead 0 0 (.evaluation ev.cell) (fieldOf ev.rec_ 0 8) 64 s = .ok bs s' ∧
      (s'.part 0).launch = some l ∧ ev = demoEvaluation none ∧ evalCheck n ok bs s' = true ∧ l.poolFree = decide (n < 4096) := by
  have hl : ((demoPlacedEval record n).part 0).launch = some (poolLaunch n) := by
    rw [demoPlacedEval, dplaced, placed, State.part_congr (State.putBytes_parts ..)]
    rfl
  have hr : ∃ bs s', dRead 0 0 (.evaluation (dieBase 0 + 0x100000)) (fieldOf (demoEvaluation none).rec_ 0 8) 64 (demoPlacedEval record n) = .ok bs s' ∧ evalCheck n ok bs s' = true := by
    simp only [List.mem_cons, Prod.mk.injEq, List.not_mem_nil, or_false] at h
    rcases h with ⟨rfl, rfl, rfl⟩ | ⟨rfl, rfl, rfl⟩ | ⟨rfl, rfl, rfl⟩ <;> exact dread_with (by decide +kernel)
  obtain ⟨bs, s', hr, hc⟩ := hr
  refine ⟨_, bs, s', poolLaunch n, ?_, ?_, hl, rfl, hr, ((Laws.dRead_launches hr).same 0).trans hl, rfl, hc, evalPool n⟩
  · rw [demoPlacedEval, dplaced, placed, State.partOf?_congr (State.putBytes_parts ..)]
    simp only [List.mem_cons, Prod.mk.injEq, List.not_mem_nil, or_false] at h
    rcases h with ⟨_, rfl, _⟩ | ⟨_, rfl, _⟩ | ⟨_, rfl, _⟩ <;> decide +kernel
  · rw [demoPlacedEval, dplaced, placed, State.cluster_congr (State.putBytes_clus ..)]
    rfl

/-- An evaluation whose record has been read, and which goes on with a free pool or waits for one. -/
theorem witness_FrameEvents_evaluation_read (n : Nat) :
    let s := (demoPool n).modCluster 0 fun k => { k with evals := [demoEvaluation (some (jigBytes 0 0))] }
    ∃ ev l, (s.cluster 0).evals = ev :: [] ∧ (s.part 0).launch = some l ∧ ev.jig = some (jigBytes 0 0) ∧ l = poolLaunch n ∧ l.poolFree = decide (n < 4096) :=
  ⟨_, _, rfl, rfl, rfl, rfl, evalPool n⟩

/-! Tasks: core 0 with a running and a staged context, a jig of three iterations in its queue 0. -/

def demoCtx (run st : Context) (lastLaunch : Option (Nat × Nat)) (f : Launch → Launch) (q : List DEntry) : State :=
  (((demo.modLaunch 0 fun l => f { l with tt := { l.tt with queues := [{ mode := 1, rstack := 0, rlog := 1, roff := 0 }] }, jigs := [(0, jigOf 0)], nextJig := 1 }).setQueue 0 0
    { TaskQueue.empty with disp := q }).modCore 0 fun k => { k with ctx0 := run, ctx1 := st, lastLaunch := lastLaunch })

def ctxWith (st : CtxState) (saved : Option CoreImage) (t : Task) : Context := { state := st, task := t, saved := saved }

/-- What every state of this part meets. -/
theorem demoCtx_active (run st : Context) (k : Option (Nat × Nat)) (f : Launch → Launch) (q : List DEntry) (h : ∀ l, (f l).phase = l.phase) :
    (demoCtx run st k f q).partOf? 0 = some 0 ∧ (∃ l, ((demoCtx run st k f q).part 0).launch = some l ∧ l.phase = .active) ∧ ((demoCtx run st k f q).part 0).pstate = .active ∧ (demoCtx run st k f q).Inv :=
  ⟨by
    have hp : (List.range 24).find? (fun q => if q = 0 then true else false) = some 0 := by decide
    rw [State.partOf?, ← hp]
    exact congrArg (fun g => (List.range 24).find? g) (funext fun q => match q with
      | 0 => show demoPart.regs.pclus.getLsbD 0 = true by decide
      | _ + 1 => show (0#192).getLsbD 0 = false by decide), ⟨_, rfl, (h _).trans rfl⟩, rfl, rfl⟩

/-- The running task waits in a CLD; it has been parked and woken. -/
def demoParked : Parked := { core := 0, slot := 0, image := { task := demoTask, core := { vec := .reset, eng := .reset, gbuf := [] } }, back := false }

/-- An entry of jig 0. -/
def demoDispatched : DEntry := { jig := some 0, prio := 0, sel := 0#4, frame := 0, rtick := 10, age := 0, agedAt := 0 }

/-- A candidate and no woken task; a woken task and no candidate; neither; no free context. -/
theorem witness_TaskEvents_selection :
    let s (f : Launch → Launch) (q : List DEntry) : State := demoCtx (ctxWith .running none demoTask) .free none f q
    let e : DEntry := demoDispatched
    (let s := s id [e]
     ∃ l, (s.part 0).launch = some l ∧ (s.core 0).stagedCtx.state = .free ∧ claimBack s 0 l 0 = none ∧ wokenTask s 0 l 0 = none ∧
      ∃ b, best s (s.cluster 0).lastq (candidates s 0 0 l) = some b ∧ b.jig.next + 1 ≠ b.jig.count ∧ b.entry = e ∧ b.entry.jig = some 0) ∧
    (let s := s (fun l => { l with parked := [demoParked] }) []
     ∃ l, (s.part 0).launch = some l ∧ (s.core 0).stagedCtx.state = .free ∧ claimBack s 0 l 0 = none ∧ wokenTask s 0 l 0 = some demoParked ∧ candidates s 0 0 l = []) ∧
    (let s := s id []
     ∃ l, (s.part 0).launch = some l ∧ (s.core 0).stagedCtx.state = .free ∧ claimBack s 0 l 0 = none ∧ wokenTask s 0 l 0 = none ∧ candidates s 0 0 l = []) ∧
    ((demoCtx .free (ctxWith .staged none demoTask) none id []).core 0).stagedCtx.state ≠ .free :=
  ⟨⟨_, rfl, rfl, by decide +kernel, by decide +kernel, { q := 0, entry := demoDispatched, jig := jigOf 0 }, by decide +kernel, by decide, rfl, rfl⟩,
    ⟨_, rfl, rfl, by decide +kernel, by decide +kernel, by decide +kernel⟩, ⟨_, rfl, rfl, by decide +kernel, by decide +kernel, by decide +kernel⟩, by decide⟩

/-- The pages of one park slot, from 0x800000 on. -/
def demoPages : List Nat := (List.range imagePages).map fun i => dieBase 0 + 0x800000 + 4096 * i

/-- A task and a parked task that load; a staged task whose core ran the same launch before, or another one; a parked task that is staged; a running task. -/
theorem witness_TaskEvents_switch :
    ((demoCtx .free (ctxWith (.loading false) none demoTask) none id []).core 0).stagedCtx.state = .loading false ∧
    (let s := demoCtx .free (ctxWith (.loading true) (some demoParked.image.core) demoTask) none
       (fun l => { l with lrec := { l.lrec with parken := true, parkslots := 1 }, parkPages := demoPages, parked := [demoParked] }) []
     (s.core 0).stagedCtx.state = .loading true ∧ ∃ l, (s.part 0).launch = some l ∧ l.parked.find? (fun x => x.core == 0 && x.image.task.ident == (s.core 0).stagedCtx.task.ident) = some demoParked ∧
       (slotPages l 0 0).all s.owned = true ∧ imageError (slotPages l 0 0) s = none) ∧
    (∀ same : Bool,
      let s := demoCtx .free (ctxWith .staged none demoTask) (if same then some (0, 0) else none) id []
      (s.core 0).running.state = .free ∧ (s.core 0).stagedCtx.state = .staged ∧ (s.core 0).stagedCtx.saved = none ∧ (decide ((s.core 0).lastLaunch = some (0, s.seqOf 0)) = same) ∧ ∀ r ∈ s.attr.undef, lpBase ≤ r.lo) ∧
    (let s := demoCtx .free (ctxWith .staged (some demoParked.image.core) demoTask) none id []
     (s.core 0).running.state = .free ∧ (s.core 0).stagedCtx.state = .staged ∧ (s.core 0).stagedCtx.saved = some demoParked.image.core ∧ (s.core 0).stagedCtx.task.a.loads = []) ∧
    ((demoCtx (ctxWith .running none demoTask) .free none id []).core 0).running.state ≠ .free :=
  ⟨rfl, ⟨rfl, _, rfl, by decide +kernel, by decide +kernel, by decide +kernel⟩, fun same => ⟨rfl, rfl, rfl, by cases same <;> decide +kernel, by cases same <;> exact nofun⟩, ⟨rfl, rfl, rfl, rfl⟩, by decide⟩

/-- A task that has ended both streams, the last of its jig, and one with a store left. -/
theorem witness_TaskEvents_retirement (last : Bool) :
    let u : Task := { demoTask with a := { demoTask.a with ended := true }, x := { demoTask.x with ended := true } }
    let J : Jig := { jigOf 0 with next := if last then 3 else 1 }
    let s := demoCtx (ctxWith .running none u) .free none (fun l => { l with jigs := [(0, J)] }) []
    s.task? aa = some u ∧ (u.a.ended && u.x.ended && u.a.loads.isEmpty && u.a.stores.isEmpty && u.a.pend.isEmpty && u.x.arm.isNone && enginesIdle (s.core 0).eng) = true ∧
    (∃ l, (s.part 0).launch = some l ∧ tget? l.jigs u.jig = some J ∧ u.jig < l.nextJig ∧ J.jrec.retrec = false ∧ J.source = .pool ∧ (last = true → J.next = J.count ∧ J.open_ - 1 = 0 ∧ J.claims = [])) ∧
    (let x := withStore (oneAccess .store 0x10000#64 (.byte (unitBase 0)) 4 0#64 .none) u
     (demoCtx (ctxWith .running none x) .free none id []).task? aa = some x ∧ x.a.stores.isEmpty = false) := by
  cases last <;> exact ⟨rfl, by decide +kernel, ⟨_, rfl, rfl, by decide, by decide, rfl, by decide⟩, rfl, rfl⟩

/-- A task that waits in a CLD, with a task staged behind it, or with one released for its core; one park slot of pages from 0x800000 on. -/
theorem witness_TaskEvents_park (staged : Bool) :
    let u := withLoad { oneAccess (.cell .ld []) 0x500000#64 (.byte (dieBase 0 + 0x100000)) 8 0#64 .none with waiting := true } demoTask
    let s := demoCtx (ctxWith .running none u) (if staged then ctxWith .staged none demoTask else .free) none
      (fun l => { l with lrec := { l.lrec with parken := true, parkslots := 1 }, parkPages := demoPages }) []
    s.task? aa = some u ∧ (∃ l, (s.part 0).launch = some l ∧ l.lrec.parken = true ∧ u.a.loads ≠ [] ∧ (∀ x ∈ u.a.loads, x.waiting = true ∧ x.answer = none) ∧ u.a.stores = [] ∧
      enginesIdle (s.core 0).eng = true ∧ u.x.arm = none ∧ u.brk = false ∧ ((s.core 0).stagedCtx.state = .staged ∨ releasedFor s 0 0 l = true) ∧ (staged = true → (s.core 0).stagedCtx.state = .staged) ∧ freeSlot l 0 = some 0 ∧ (slotPages l 0 0).all s.owned = true) :=
  by cases staged <;> exact ⟨rfl, _, rfl, rfl, by decide, by decide +kernel, rfl, by decide +kernel, rfl, rfl, by decide +kernel, by decide +kernel, by decide +kernel, by decide +kernel⟩

end Sys2Proof.Tests
end

