-- ==== Sys2Proof/Tests/WitnessHost.lean ====
section
/-! SUPPORT. Witnesses of the hypotheses of the statements about the host, functions, boot, ports, faults and images. -/

set_option Elab.async false

namespace Sys2Proof.Tests

open Sys2Proof Sys2Proof.Machine

/-- Function 1 is bound to partition 0. -/
def demoHost : State := { demo with plat := { demo.plat with vdbind := [(1, 0x20#64)] } }

/-! The host (BAR2 offset 0x100000 is die memory of stack 0, offset 0x80000000 of stack 1). -/

/-- An access of four and of eight bytes that reaches die memory; one beyond the allotment, one across its end, one of a function that is bound to nothing, and one in D3hot. -/
theorem witness_HostEvents_access :
    (demoHost.fn 1).d3 = false ∧ demoHost.modl.mstate ≠ 1 ∧ demoHost.boundTo 1 = some 0 ∧ demoHost.boundTo 2 = none ∧ demoHost.Inv ∧
    (∀ n, n = 4 ∨ n = 8 → bar2Range demoHost 0 0x100000 n = some (dieBase 0 + 0x100000) ∧ demoHost.ownedRange (dieBase 0 + 0x100000) n = true ∧ busyUnit demoHost (dieBase 0 + 0x100000) n = none ∧
      demoHost.eccHit (dieBase 0 + 0x100000) n = false ∧ demoHost.expired (dieBase 0 + 0x100000) = false ∧ demoHost.expired (dieBase 0 + 0x100000 + (n - 1)) = false) ∧
    bar2Range demoHost 0 0x1000000 4 = none ∧ bar2Range demoHost 0 0xFFFFFC 8 = none ∧ ((demoHost.modFn 1 fun f => { f with d3 := true }).fn 1).d3 = true := by
  refine ⟨rfl, by decide, by decide +kernel, by decide +kernel, by unfold State.Inv; decide +kernel, ?_, by decide +kernel, by decide +kernel, rfl⟩
  rintro n (rfl | rfl) <;> and_intros <;> decide +kernel

/-- A cell in SUSPENDED, and a unit in error. -/
theorem witness_HostEvents_units :
    busyUnit (demoHost.setCellSt (dieBase 0 + 0x100000) .suspended) (dieBase 0 + 0x100000) 4 ≠ none ∧
    (let s := { demoHost with attr := { demoHost.attr with ecc := [(dieBase 0 + 0x100000) / 32] } }
     busyUnit s (dieBase 0 + 0x100000) 4 = none ∧ s.eccHit (dieBase 0 + 0x100000) 4 = true) :=
  ⟨by decide +kernel, by decide +kernel, by decide +kernel⟩

/-- Budgets inside their range and outside it; a word of the format table that is consistent, and one that is not; a transient region inside the allotment and beyond it. -/
theorem witness_HostEvents_registers :
    (1000 ≤ ((1000#64 : W64).extractLsb' 0 11).toNat ∧ ((1800#64 : W64).extractLsb' 0 11).toNat ≤ 1800) ∧ ((999#64 : W64).extractLsb' 0 11).toNat < 1000 ∧ 1800 < ((1801#64 : W64).extractLsb' 0 11).toNat ∧
    (let s := demoHost.modPart 0 fun p => { p with launch := none }
     activeLaunch s 0 = false ∧ 15 < (s.part 0).regs.ft.length ∧ ftConsistent (0x80#32 &&& 0x7F8F#32) = true ∧ ftConsistent (0x0F#32 &&& 0x7F8F#32) = false ∧
      (let v := 0x0000002000001001#64 &&& 0xFFFFFFFFFFFFFF01#64
       ((v.extractLsb' 36 28).toNat + (v.extractLsb' 8 28).toNat) * 4096 ≤ (s.part 0).regs.plp.size ∧ v ≠ tget 0#64 (s.part 0).regs.trans 0 ∧ v.getLsbD 0 = true ∧ (tget 0#64 (s.part 0).regs.trans 0).getLsbD 0 = false) ∧
      (s.part 0).regs.plp.size < (((0x0010000000000000#64 : W64).extractLsb' 36 28).toNat + 0) * 4096) ∧
    activeLaunch demoHost 0 = true :=
  ⟨by decide, by decide, by decide, ⟨by decide +kernel, by decide +kernel, by decide +kernel, by decide +kernel, by decide +kernel, by decide +kernel⟩, by decide +kernel⟩

/-- A starting launch, an active one, and one of another function. -/
theorem witness_HostEvents_flr (fn : Nat) (ph : LaunchPhase) (_h : (fn, ph) ∈ [(1, LaunchPhase.starting), (1, .active), (2, .active)]) :
    let s := demoHost.modLaunch 0 fun l => { l with fn := fn, phase := ph }
    ∃ l, (s.part 0).launch = some l ∧ l.fn = fn ∧ l.phase = ph := ⟨_, rfl, rfl, rfl⟩

/-! Boot: a signature under the prime 2^3072 - 1103717, made outside Lean from its private exponent. -/

def demoModulus : List Byte := leBytes 384 (2 ^ 3072 - 1103717)

/-- The signature of a firmware copy without a body. -/
def sigEmpty : List Byte := [0xcfaa2f3048abf9ad3882b964800eed053165e77cf668266a494f3bb14f8a55ffcc6e75b785df725f3edaa576ca3131fbe9d6acc3ae2d7cd3ed93c72a84189112,
  0xe38eb82d52cc31ea546663d003b856ce149aaa2c87e7381692f33087ecc93af9e630495a92fff03a6127e91b8abe385a876cada3e5105860fc682540314bbf52,
  0x6799d49dd03b724a949af35c56144de498c9dccdf908f8d3dd509664615a02688b486ea159c918057d53a82aeb17a99d6910da7426bb8887194f1e98c822e493,
  0x2e9b5b07550e83b93715c4ad0d3e3fee82648b0f5a5a6a73abef85e3066515732e2deeaf46aee9860c2327ad3767b0ba508172c08c3b338424d3248df61598dd,
  0xf3345c1acbf6e43cd6a89e211fb3a4a98dc79a386c7f1abbc69d3d33eedc1d93f38fde41c2c293851a2754cc39ad5021a4705af25e9156c294c8000d9ebdc78a,
  0xc8039592a0ccb6398a6b2ffcf609ce2fd2f28b47973dafd63ae27b928877cc11acb7146a7243d0d5dcbb11a203a331247c9325547d47e7c1ad91676a9ac830dd].flatMap fun x => (leBytes 64 x).reverse

/-- The signature of an image without tiles. -/
def sigImage : List Byte := [0xac51f5c55de43dc1ebd6049f33af320b01ad2bd8b0f429acc776808707e38d3a325c9115147d1beb38900e1d97d4b7eefedeb6980cb63d00154396518b36882b,
  0x8a2df2a404f4abce932a596759ad520d22f64b82f16be8dd91ca2e482fcb0dfc100fcf8211b7a9e509faa952036be3b928ec8dbd1c0185739628aacea8df9751,
  0x17e4f198fb03d4aaf460169797704d7edc629da76f34f2f98d4d58bc1adc1554b7d5fd442c6ea8be7acc0539354a3dac772f4785eb23443e609abc3650d81bb2,
  0x1e5fea470a9cbb29866f13b5d865bf1e4181bd5e73fb07bda0274a26eb7240e1fec86fc683cd037347df30f62028f10184da3223e15273f2add47c91d56c168e,
  0x2602673586387b61fefd1a3fe473011469bbda28acfa98d50c0af62866fa802f33d939bead12fa4659cdb8b8340829d8f8d7f33a4af622e22227f06805b60945,
  0xb7db3d0a6b24d4cfd382c6a254bf4cbf51bad7a854ad52124c4daf0c00f879b0e0b415447b381a17c375e0562cb8718a8cb634ff7f8185c11effcbb1be0447ed].flatMap fun x => (leBytes 64 x).reverse

/-- The module before its firmware runs; its flash holds a copy that verifies, or one whose SVN is too low or whose signature is another's. -/
theorem witness_ModuleEvents_romboot :
    let c (svn : Nat) (sig : List Byte) : Firmware := { svn := svn, body := [], signature := sig }
    let s (c : Firmware) : State := { State.reset with plat := { Plat.reset with flash := [c], keyModulus := demoModulus, minSvn := 1 } }
    (∀ x, (s x).modl.mstate = 0 ∧ (s x).plat.flash[0]? = some x ∧ (s x).plat.keyModulus = demoModulus ∧ (s x).plat.minSvn = 1) ∧
    rsaVerifies demoModulus (c 1 sigEmpty).body (c 1 sigEmpty).signature = true ∧ 1 ≤ (c 1 sigEmpty).svn ∧ (c 0 sigEmpty).svn < 1 ∧
    rsaVerifies demoModulus (c 1 sigImage).body (c 1 sigImage).signature = false :=
  ⟨fun x => ⟨rfl, rfl, rfl, rfl⟩, by decide +kernel, by decide, by decide, by decide +kernel⟩

/-- Each state of the module in which a step of its start is enabled. -/
theorem witness_ModuleEvents_states (n : Nat) :
    let s := { State.reset with modl := { Module.reset with mstate := n } }
    s.modl.mstate = n ∧ (1#32 ≠ 0#32 ∧ (1#32 : W32) ≠ 0xFFFFFFFF#32) ∧ (demo.port 0).mode = 0 ∧ ((demo.modPort 0 fun x => { x with ctl := 0x8044#64 }).port 0).mode ≠ 0 :=
  ⟨rfl, by decide, by decide +kernel, by decide +kernel⟩

/-- Port 0 is owned by partition 0 with its launch, or by none and the write gives it an owner; its cluster's faults are charged to partition 0. -/
theorem witness_ModuleEvents_owner :
    let s := demo.modPort 0 fun x => { x with ctl := 0x8044#64 }
    (s.port 0).owner? = some 0 ∧ activeLaunch s 0 = true ∧ (demo.port 0).owner? = none ∧ (0x8400#64 : W64).getLsbD 15 = true ∧ ((0x8400#64 : W64).extractLsb' 10 5).toNat = 1 ∧ s.partOf? 0 = some 0 ∧
    ∃ l, (s.part 0).launch = some l ∧ l.phase = .active :=
  ⟨by decide +kernel, by decide +kernel, by decide +kernel, by decide, by decide, by decide +kernel, _, rfl, rfl⟩

/-- A load of 448 bytes to offset 0x1000, and to one that is misaligned. -/
theorem witness_ModuleEvents_go (dst : Nat) (_h : dst = 0x1000 ∨ dst = 0x1020) :
    let s := demoHost.modFn 1 fun f => { f with imgdst := BitVec.ofNat 64 dst, imglen := 448#64 }
    s.boundTo 1 = some 0 ∧ (s.fn 1).load = none ∧ (dst = 0x1020 → (s.fn 1).imgdst.toNat % 64 ≠ 0) ∧
    (dst = 0x1000 → imgRange s { part := 0, slot := 3, src := (s.fn 1).imgsrc, dst := (s.fn 1).imgdst.toNat, len := (s.fn 1).imglen.toNat, bytes := [] } = false) := by
  rcases _h with rfl | rfl <;> exact ⟨by decide +kernel, rfl, by decide +kernel, by decide +kernel⟩

/-- An image without tiles: its header with KEYSEL 0. -/
def imageHeader : List Byte := fields [(4, 0x4E44594C), (2, 1), (58, 0)]

/-- A load in LOADING; its bytes are right and its key is valid, or not, and verifies it, or not; its bytes are not right. -/
theorem witness_ModuleEvents_load (valid : Bool) :
    let l : ImgLoad := { part := 0, slot := 3, src := 0#64, dst := 0x1000, len := 448, bytes := [] }
    let s := (demoHost.modFn 1 fun f => { f with load := some l }).modPart 0 fun p =>
      { p with images := [(3, { off := 0x1000, state := 1, result := 0, len := 64, digest := [] })], pubkeys := [(0, { modulus := demoModulus, valid := valid })] }
    let key (data : List Byte) := tget { modulus := [], valid := false } (s.part l.part).pubkeys (fieldOf data 6 2)
    let data := imageHeader ++ sigImage
    let bad := imageHeader ++ sigEmpty
    (s.fn 1).load = some l ∧ (imgEntry s 0 3).state = 1 ∧ imageOk [] l.len = false ∧ imageOk data l.len = true ∧ (key data).valid = valid ∧
    rsaVerifies (key data).modulus (data.take l.size) (data.drop l.size) = true ∧ imageOk bad l.len = true ∧ rsaVerifies (key bad).modulus (bad.take l.size) (bad.drop l.size) = false := by
  cases valid <;>
    exact ⟨rfl, by decide +kernel, by decide +kernel, by decide +kernel, by decide +kernel, by decide +kernel, by decide +kernel, by decide +kernel⟩

/-- A report is asked for, or not. -/
theorem witness_ModuleEvents_report (b : Bool) : ({ demo with plat := { demo.plat with attBusy := b } } : State).plat.attBusy = b := rfl

end Sys2Proof.Tests
end

