-- ==== Sys2Proof/Tests/WitnessLaunch.lean ====
section
/-! SUPPORT. Witnesses of the hypotheses of the statements about the submission, the start, the exchange, the activation and the end of launches. -/

set_option Elab.async false

namespace Sys2Proof.Tests

open Sys2Proof Sys2Proof.Machine

/-- The demo module without a launch; function 1 is bound to partition 0. -/
def demoIdle : State :=
  ({ demo with plat := { demo.plat with vdbind := [(1, 0x20#64)] }, cores := [] }).modPart 0 fun p => { p with launch := none, pstate := .idle }

/-- A launch record at 0x40 of D-space whose structures stand at 0x1000, 0x2000 and 0x4000. -/
def recordBytes (flags wscount : Nat) : List Byte :=
  fields [(4, 7), (4, flags), (8, 0x4000), (8, 0x1000), (2, wscount), (2, 0), (4, 0), (8, 0), (8, 0x2000), (8, 0), (8, 0)]

/-- The submission of that record, read. -/
def demoSubmission (bs : List Byte) : Submission := { num := 0, fn := 1, addr := 0x40, bytes := some bs, bad := false }

/-- A window with one entry of code, an empty domain map, and a timetable of one frame of ten ticks without nodes. -/
def demoStructures (s : State) : State :=
  dplaced 0x4000 (fields [(4, 10), (4, 1)]) (dplaced 0x1000 (fields [(8, 0x51), (8, 0x200)]) (dspaced s))

/-- A write to SUBMIT that is rejected for each reason, and one that is accepted. -/
theorem witness_LaunchEvents_submit :
    demoIdle.boundTo 0 = none ∧ ({ demoIdle with modl := { demoIdle.modl with mstate := 2 } } : State).serving = false ∧ (0x41#64).toNat % 64 ≠ 0 ∧ 2 ^ 48 ≤ (0x1000000000000#64).toNat ∧
    (let s := demoIdle.modPart 0 fun p => { p with waiting := List.replicate 16 (demoSubmission []) }
     s.boundTo 1 = some 0 ∧ 16 ≤ ((s.part 0).waiting.filter (·.fn == 1)).length) ∧
    (demoIdle.boundTo 1 = some 0 ∧ demoIdle.serving = true ∧ (0x40#64).toNat % 64 = 0 ∧ (0x40#64).toNat < 2 ^ 48 ∧ ((demoIdle.part 0).waiting.filter (·.fn == 1)).length < 16) :=
  ⟨by decide +kernel, by decide +kernel, by decide, by decide, ⟨by decide +kernel, by decide +kernel⟩, by decide +kernel, by decide +kernel, by decide, by decide, by decide +kernel⟩

/-- Does a start go on, for code 0, or is it refused with the code? -/
def startWith (r : Except StartStop (Launch × State)) (code : Nat) : Bool :=
  match r, code with
  | .ok _, 0 => true
  | .error (.refuse c _ _), n + 1 => c == n + 1
  | _, _ => false

theorem start_refused {r : Except StartStop (Launch × State)} {n : Nat} (h : startWith r (n + 1) = true) : ∃ pgid s, r = .error (.refuse (n + 1) pgid s) := by
  cases r with
  | ok x => cases h
  | error e =>
    cases e with
    | wait s => cases h
    | refuse c g s => exact ⟨g, s, by rw [show c = n + 1 by simpa [startWith] using h]⟩

theorem start_made {r : Except StartStop (Launch × State)} (h : startWith r 0 = true) : ∃ l s, r = .ok (l, s) := by
  cases r with
  | ok x => exact ⟨x.1, x.2, rfl⟩
  | error e => cases e <;> cases h

/-- A record that breaks R20; sound records whose structures cannot be read, and are sound. -/
theorem witness_LaunchEvents_start (bs : List Byte) (code : Nat) (h : (bs, code) ∈ [(recordBytes 0 0, 1), (recordBytes 0 1, 1), (recordBytes 0 1, 0)]) :
    let x := demoSubmission bs
    let s0 := if code = 0 then demoStructures demoIdle else demoIdle
    let s := s0.modPart 0 fun p => { p with waiting := [x] }
    (s.part 0).waiting = x :: [] ∧ x.bytes = some bs ∧ (s.part 0).launch = none ∧ (s.part 0).pstate = .idle ∧ (s.part 0).mig.state ≠ .receiving ∧ s.clustersOf 0 ≠ [] ∧ s.modl.hwHeld = false ∧
      s.serving = true ∧ startWith (startLaunch 0 x (s.modPart 0 fun pt => { pt with waiting := x :: [] })) code = true := by
  simp only [List.mem_cons, Prod.mk.injEq, List.not_mem_nil, or_false] at h
  rcases h with ⟨rfl, rfl⟩ | ⟨rfl, rfl⟩ | ⟨rfl, rfl⟩ <;>
    exact ⟨rfl, rfl, by decide +kernel, by decide +kernel, by decide +kernel, by decide +kernel, by decide +kernel, by decide +kernel, by decide +kernel⟩

/-- A refused launch of a group, in a partition with a port in the direct mode. -/
theorem witness_LaunchEvents_refused :
    let s := (demoIdle.modPort 0 fun x => { x with ctl := 0x8084#64 }).modPart 0 fun p => { p with waiting := [demoSubmission (recordBytes 1 1)] }
    startWith (startLaunch 0 (demoSubmission (recordBytes 1 1)) s) 1 = true ∧ fieldOf (recordBytes 1 1) 4 4 % 2 = 1 ∧ s.directPorts 0 = [0] :=
  ⟨by decide +kernel, by decide +kernel, by decide +kernel⟩

/-- A launch that starts, alone or in a group of two whose exchange has matched or not. -/
def demoStarting (group : Bool) (exchanged : List Nat) (frame : Nat) : State :=
  let s := if group then grouped demo else demo
  ({ s with modl := { s.modl with frame := frame } }.modLaunch 0 fun l => { l with phase := .starting, exchanged := exchanged, startTick := 50 }).modPart 0 fun p => { p with pstate := .idle }

/-- The launch starts alone, and in a group. -/
theorem witness_LaunchEvents_activate :
    (∃ l, ((demoStarting false [] 100).part 0).launch = some l ∧ l.phase = .starting ∧ l.group = none ∧ ∀ r ∈ (demoStarting false [] 100).attr.undef, lpBase ≤ r.lo) ∧
    (∃ l g, ((demoStarting true [0] 100).part 0).launch = some l ∧ l.phase = .starting ∧ l.group = some g ∧ exchanged l = true) ∧
    (∃ l g, ((demoStarting true [] 100).part 0).launch = some l ∧ l.group = some g ∧ exchanged l = false ∧ (demoStarting true [] 100049).reached (l.startTick + 100000) = false ∧
      (demoStarting true [] 100050).reached (l.startTick + 100000) = true ∧ l.lrec.multi = true ∧ ((demoStarting true [] 100).port 0).owner? = some 0 ∧ tget? g.ports 0 = some 1 ∧ g.pgid = 1 ∧ g.crc = 0#32 ∧
      (demoStarting true [] 100).directPorts 0 = [0]) :=
  ⟨⟨_, rfl, rfl, rfl, by decide⟩, ⟨_, _, rfl, rfl, rfl, by decide⟩, _, _, rfl, rfl, by decide, by decide +kernel, by decide +kernel, rfl, by decide +kernel, rfl, rfl, rfl, by decide +kernel⟩

/-- The last frame is complete and everything has ended; the frame is not complete. -/
theorem witness_LaunchEvents_end (done : Bool) :
    let s := { demo with cores := [] }.modLaunch 0 fun l => { l with complete := done }
    ∃ l, (s.part 0).launch = some l ∧ l.phase = .active ∧ l.group = none ∧ l.silent = false ∧ (s.part 0).pstate = .active ∧ l.complete = done ∧ l.tt.nframe ≤ l.frame + 1 ∧ l.jigs = [] ∧ l.delayed = [] ∧
      quietPart s 0 = true := by
  cases done <;> exact ⟨_, rfl, rfl, rfl, rfl, rfl, rfl, by decide, rfl, rfl, by decide +kernel⟩

end Sys2Proof.Tests
end

