-- ==== Sys2Proof/Tests/WitnessMachine.lean ====
section
/-! SUPPORT. Witnesses of the hypotheses of the statements about the step, fetches, traps, accesses performed at their homes, cells and barriers. -/

set_option Elab.async false

namespace Sys2Proof.Tests

open Sys2Proof Sys2Proof.Machine

/-- ADD s4, s1, 7 stands at 0 and is decoded with its literal. -/
theorem witness_StepIssuesDecodedWord :
    let s := demoCode (.execute 0) [0x7800407F#32, 7#32] (.issue (.access 0) [] false)
    let s1 : State := { s with agenda := [], cur := .access 0, old := [], late := false }
    s.agenda = [.issue (.access 0) [] false] ∧ s1.live (.access 0) = true ∧ s1.tooHot 0 = false ∧ (s1.task (.access 0)).repOf .access = 0 ∧
    (s1.task (.access 0)).pcOf .access = 0#64 ∧ Fetches (.access 0) 0 s1 0#64 (clusBase 0) ∧ Fetches (.access 0) 1 s1 (0#64 + 4#64) (clusBase 0 + 4) ∧
    (Instr.add .always (.s 4) (.s 1) (.lit 7#32)).wf = true ∧ (Instr.add .always (.s 4) (.s 1) (.lit 7#32)).major ≠ some 0x3F#6 ∧
    okB (decode (s1.bytes (clusBase 0) 8)) (.add .always (.s 4) (.s 1) (.lit 7#32), []) = true :=
  ⟨rfl, by decide +kernel, by decide +kernel, by decide +kernel, by decide +kernel, fetches_of (by decide +kernel), fetches_of (by decide +kernel), by decide +kernel, by decide +kernel, by decide +kernel⟩

/-- REP 3, 0b100 before ADDI s4, s1, 1 in the access stream: d steps from s4 to s7; between repeats, with two to go. -/
theorem witness_StepRepeats (k : Nat) (hk : k = 0 ∨ k = 2) :
    let a := Agent.access 0
    let s := (demoCode (.execute 0) [0x7FE1C000#32, 0x78404041#32] (.issue (.access 0) [] false)).modTask a fun t => t.setRep .access k
    let s1 : State := { s with agenda := [], cur := a, old := [], late := false }
    s.agenda = [.issue a [] false] ∧ s1.tooHot 0 = false ∧ Issues a s1 ∧ Fetches a 0 s1 0#64 (clusBase 0) ∧ okB (decode (s1.bytes (clusBase 0) 4)) (.rep 3#6 4#3, []) = true ∧
    Fetches a 1 s1 (0#64 + 4#64) (clusBase 0 + 4) ∧ okB (decode (s1.bytes (clusBase 0 + 4) 4 ++ bytesOfWord 0#32)) (.addi .always (.s 4) (.s 1) 1#6, [0#8, 0#8, 0#8, 0#8]) = true ∧
    (s1.task a).repOf .access = k ∧ repLegal .access 3#6 4#3 (.addi .always (.s 4) (.s 1) 1#6) = true ∧
    (k = 2 → 0 < k ∧ k ≤ 4 ∧ okB ((Instr.addi .always (.s 4) (.s 1) 1#6).stepped 4#3 (4 - k)) (.addi .always (.s 6) (.s 1) 1#6) = true) := by
  rcases hk with rfl | rfl <;>
    exact ⟨rfl, by decide +kernel, issues_of (by decide +kernel), fetches_of (by decide +kernel), by decide +kernel, fetches_of (by decide +kernel), by decide +kernel,
      by decide +kernel, by decide +kernel, by decide +kernel⟩

/-- Under REP, a word with a literal: the first repeat reads it, the later ones have it kept (02 R55). -/
theorem witness_StepRepeats_literal (l : Option W32) (hl : l = none ∨ l = some 0x12345678#32) :
    let a := Agent.access 0
    let s := (demoCode (.execute 0) [0x7FE1C000#32, 0x7800407F#32, 0x12345678#32] (.issue (.access 0) [] false)).modTask a fun t => (t.setRep .access 2).setLit .access l
    let s1 : State := { s with agenda := [], cur := a, old := [], late := false }
    Issues a s1 ∧ Fetches a 0 s1 0#64 (clusBase 0) ∧ Fetches a 1 s1 (0#64 + 4#64) (clusBase 0 + 4) ∧ Fetches a 2 s1 (0#64 + 8#64) (clusBase 0 + 4 + 4) ∧
    okB (decode (s1.bytes (clusBase 0 + 4) 4 ++ bytesOfWord 0x12345678#32)) (.add .always (.s 4) (.s 1) (.lit 0x12345678#32), []) = true ∧
    (s1.task a).litOf .access = l ∧ s1.value (clusBase 0 + 4 + 4) 4 = 0x12345678 := by
  rcases hl with rfl | rfl <;>
    exact ⟨issues_of (by decide +kernel), fetches_of (by decide +kernel), fetches_of (by decide +kernel), fetches_of (by decide +kernel), by decide +kernel, rfl, by decide +kernel⟩

/-- REP 3, 0 before a branch, which may not repeat (02 R56). -/
theorem witness_StepRepeats_illegal :
    let a := Agent.access 0
    let s := demoCode (.execute 0) [0x7FE18000#32, 0x78E00001#32] (.issue (.access 0) [] false)
    let s1 : State := { s with agenda := [], cur := a, old := [], late := false }
    s1.tooHot 0 = false ∧ Issues a s1 ∧ Fetches a 0 s1 0#64 (clusBase 0) ∧ okB (decode (s1.bytes (clusBase 0) 4)) (.rep 3#6 0#3, []) = true ∧
    Fetches a 1 s1 (0#64 + 4#64) (clusBase 0 + 4) ∧ okB (decode (s1.bytes (clusBase 0 + 4) 4 ++ bytesOfWord 0#32)) (.branch .always 1#19, [0#8, 0#8, 0#8, 0#8]) = true ∧
    (s1.task a).repOf .access = 0 ∧ repLegal .access 3#6 0#3 (.branch .always 1#19) = false :=
  ⟨by decide +kernel, issues_of (by decide +kernel), fetches_of (by decide +kernel), by decide +kernel, fetches_of (by decide +kernel), by decide +kernel, by decide +kernel, by decide +kernel⟩

theorem witness_StepTakesTurns : ({ State.reset with agenda := [.event .romboot] } : State).agenda = [.event .romboot] ∧ Instr.romboot.isWord = false ∧
    (Instr.tend .always).isWord = true ∧ State.reset.live (.access 0) = false := by decide +kernel

/-- A launch that has begun to be discarded, in interval 0, at a NOP. -/
def demoFading (n : Nat) : State :=
  let s := (demoCode (.execute 0) [0x7FE18000#32] (.issue (.access 0) [] false)).modLaunch 0 fun l => { l with phase := .discarding, fade := some 0 }
  { s with modl := { s.modl with intcnt := n } }

/-- In its first clocks its stream issues, and the discard goes on; after two pulses it issues no more. -/
theorem witness_StepTakesTurns_discard :
    (∀ n, n = 1 ∨ n = 2 → (demoFading n).agenda = [.issue (.access 0) [] false] ∧ (demoFading n).partOf? 0 = some 0 ∧
      ((demoFading n).part 0).launch.any (fun l => l.phase == .discarding && l.fresh n == decide (n = 1)) = true) ∧
    after (step (demoFading 1)) (fun u => (u.part 0).launch.any fun l => l.phase == .discarding) = true := by
  constructor
  · rintro n (rfl | rfl) <;> decide +kernel
  · decide +kernel

/-- The access stream at an address. -/
def demoPc (pc : W64) : State := demoWith { demoTask with a := { demoTask.a with pc := pc } } aa

/-- The execute stream at clock 4, and p8 with its bound at clock `n`. -/
def demoBound (n : Nat) : State := demoWith { demoTask with x := { demoTask.x with clk := 4, ready := [(keyPred 8, n)] } } ax

/-- A PC without an entry; one in the bank view, which may not be fetched; and a word that is 0. -/
theorem witness_UnfetchedWordsTrap :
    ((demoPc 0#64).tooHot 0 = false ∧ Issues aa (demoPc 0#64) ∧ Issues aa (demoPc 0x9000000#64) ∧ translate (demoPc 0x9000000#64) aa ((demoPc 0x9000000#64).task aa) 0x9000000#64 .fetch = .error .fetchwin ∧
     Issues aa (demoPc 0x300000#64) ∧ translate (demoPc 0x300000#64) aa ((demoPc 0x300000#64).task aa) 0x300000#64 .fetch = .error .fetchwin ∧
     Fetches aa 0 (demoPc 0#64) 0#64 (clusBase 0) ∧ okB (decodeFields 0#32 0#32) .zeroWord = false ∧ (BitVec.ofNat 32 ((demoPc 0#64).value (clusBase 0) 4)) = 0#32) ∧
    (Instr.ldw .always (.s 1) (.s 2) .zr).isWord = true ∧ (Instr.ldw .always (.s 1) (.s 2) .zr).major ≠ some 0x3F#6 ∧ Issues ax demoX ∧ (Instr.ldw .always (.s 1) (.s 2) .zr).legal .execute = false :=
  ⟨⟨by decide +kernel, issues_of (by decide +kernel), issues_of (by decide +kernel), rfl, issues_of (by decide +kernel), rfl, fetches_of (by decide +kernel), by decide +kernel, by decide +kernel⟩,
    by decide +kernel, by decide +kernel, issues_of (by decide +kernel), by decide +kernel⟩

/-- A control core of cluster 0 that runs, and a word that it may not issue. -/
theorem witness_UnfetchedWordsTrap_control :
    let s := { demo.modCluster 0 (fun k => { k with ctl := some demoTask }) with cur := .control 0 }
    Issues (.control 0) s ∧ (Instr.vadd .always 0#3 (.v 0) (.v 1) (.v 2)).isWord = true ∧ (∀ m, (Instr.vadd .always 0#3 (.v 0) (.v 1) (.v 2)).major = some m → m.toNat ∉ ctlMajors) :=
  ⟨issues_of (by decide +kernel), by decide +kernel, fun m h => by simp only [show (Instr.vadd .always 0#3 (.v 0) (.v 1) (.v 2)).major = some 0x20#6 by decide +kernel, Option.some.injEq] at h; subst h; decide⟩

/-- A word guarded on p1, which is 0, in the access stream; one guarded on !p9, which is 1, in the execute stream. -/
theorem witness_GuardedOffWords :
    (let i : Instr := .add (.onTrue 1) (.s 4) (.s 1) (.lit 7#32)
     i.isWord = true ∧ i.major ≠ some 0x3F#6 ∧ Issues aa demo ∧ i.legal .access = true ∧ guardStop aa i.guard demo = .ok () ∧ predicts i.guard demo = none ∧ guardOff aa (demo.task aa) i.guard) ∧
    (let s := demoWith { demoTask with preds := 0x200#12 } ax
     let i : Instr := .vadd (.onFalse 9) 0#3 (.v 0) (.vq 0) (.v 1)
     i.isWord = true ∧ i.major ≠ some 0x3F#6 ∧ Issues ax s ∧ i.legal .execute = true ∧ guardStop ax i.guard s = .ok () ∧ predicts i.guard s = none ∧ guardOff ax (s.task ax) i.guard) :=
  ⟨⟨by decide +kernel, by decide +kernel, issues_of (by decide +kernel), by decide +kernel, rfl, rfl, .inl rfl, by decide +kernel⟩,
    by decide +kernel, by decide +kernel, issues_of (by decide +kernel), by decide +kernel, rfl, rfl, .inr (.inr (by decide +kernel)), by decide +kernel⟩

/-- The same in a control core. -/
theorem witness_GuardedOffWords_control :
    let a := Agent.control 0
    let s := { demo.modCluster 0 (fun k => { k with ctl := some demoTask }) with cur := .control 0 }
    let i : Instr := .add (.onTrue 1) (.s 4) (.s 1) (.lit 7#32)
    i.isWord = true ∧ Issues a s ∧ (i.inStream .access = true ∧ i.major = some 0#6 ∧ (0#6).toNat ∈ ctlMajors ∧ (∀ r ∈ i.roles, r.queue? = none) ∧ i.shapeOk .access = true) ∧
      guardStop a i.guard s = .ok () ∧ predicts i.guard s = none ∧ guardOff a (s.task a) i.guard :=
  ⟨by decide +kernel, issues_of (by decide +kernel), by decide +kernel, rfl, rfl, .inl rfl, by decide +kernel⟩

/-- p8 before its bound, and at it. -/
theorem witness_EarlyReads :
    (Ready (exe .always [.psrc 8]) ax (demoBound 5) ∧ ((demoBound 5).task ax).a.ended = false ∧ ((demoBound 5).task ax).q.pq.length < 32 ∧ ((demoBound 5).task ax).scoreboard = false ∧
      ((demoBound 5).task ax).x.clk < tget 0 ((demoBound 5).task ax).x.ready (keyPred 8)) ∧
    (Ready (exe .always [.psrc 8]) ax (demoBound 4) ∧ tget 0 ((demoBound 4).task ax).x.ready (keyPred 8) ≤ ((demoBound 4).task ax).x.clk) :=
  ⟨⟨ready_of (by decide +kernel), by decide +kernel, by decide +kernel, by decide +kernel, by decide +kernel⟩, ready_of (by decide +kernel), by decide +kernel⟩

theorem witness_TrapsAreLogged : demo.partOf? aa.cluster = some 0 ∧ ({ code := .illegal } : TrapInfo).wait = false ∧ (demo.part 0).traplog.length < 8 ∧ (demo.fn (demo.fnOf 0)).d3 = false ∧
    (demo.part 0).logStale = false := by decide +kernel

/-- The small module with bytes of memory meets the invariant and steps. -/
theorem witness_StepsKeepMemoryCanonical : (demoCode (.execute 0) [0x7800407F#32, 7#32] (.issue (.access 0) [] false)).Inv ∧
    after (step (demoCode (.execute 0) [0x7800407F#32, 7#32] (.issue (.access 0) [] false))) (fun _ => true) = true :=
  ⟨by unfold State.Inv; decide +kernel, by decide +kernel⟩

/-! Accesses. -/

/-- A doubleword load at 8 of the unit scratchpad, whose first byte an earlier queued store writes. -/
theorem witness_LoadsPerformed :
    let z : Access := oneAccess .store 0x10008#64 (.byte (unitBase 0 + 8)) 1 0x7F#64 .none
    let x : Access := { oneAccess .load 0x10008#64 (.byte (unitBase 0 + 8)) 8 0#64 (.reg 4) with seq := 1 }
    let e := element 0 0x10008#64 (.byte (unitBase 0 + 8)) 8 0#64
    let s := demoWith { demoTask with a := { demoTask.a with seq := 2, loads := [x], stores := [z], pend := [(4, 1)] } } aa
    Performs aa s false 0 x e ∧ x.op = .load ∧ loadAddr s (s.partOf aa) e.tgt = some (unitBase 0 + 8) ∧ s.eccHit (unitBase 0 + 8) e.n = false ∧ s.expired (unitBase 0 + 8) = false ∧ e.n ≤ 8 ∧
    x.busy = none ∧ (s.task aa).a.stores = [] ++ z :: [] ∧ z.isStore = true ∧ z.open_.map (·.tgt) = [.byte (unitBase 0 + 8)] :=
  ⟨performs_of (by decide +kernel), rfl, rfl, by decide +kernel, by decide +kernel, by decide, rfl, rfl, rfl, rfl⟩

/-- A word stored to die memory, where the unit is in VALUE, and where it is suspended. -/
theorem witness_StoresPerformed :
    let x : Access := oneAccess .store 0x100010#64 (.byte 16) 4 0x12345678#64 .none
    let e := element 0 0x100010#64 (.byte 16) 4 0x12345678#64
    let s := demoWith (withStore x demoTask) aa
    let s2 := s.setCellSt 16 .suspended
    s.Inv ∧ Performs aa s true 0 x e ∧ s.cellSt 16 = .value ∧
    (s2.Inv ∧ Performs aa s2 true 0 x e ∧ s2.cellSt 16 ≠ .value ∧ (elemDone 0 x).open_ = [] ∧ s2.partOf? aa.cluster = some (s2.partOf aa) ∧
      (s2.part (s2.partOf aa)).logStale = false ∧ (s2.part (s2.partOf aa)).traplog.length < 8) :=
  ⟨by unfold State.Inv; decide +kernel, performs_of (by decide +kernel), by decide +kernel, by unfold State.Inv; decide +kernel, performs_of (by decide +kernel), by decide +kernel, by decide +kernel,
    by decide +kernel, by decide +kernel, by decide +kernel⟩

/-- A doubleword compare-and-swap at 8 of die memory, which holds 0, and one that compares with 1. -/
theorem witness_AtomicsPerformed (v : W64) (hv : v = 0#64 ∨ v = 1#64) :
    let x : Access := oneAccess (.atomic .cas true 9#64) 0x100008#64 (.byte 8) 8 v (.reg 4)
    let e := element 0 0x100008#64 (.byte 8) 8 v
    let s := demoWith (withStore x demoTask) aa
    s.Inv ∧ Performs aa s true 0 x e ∧ e.n = 8 ∧ s.eccHit 8 8 = false ∧ s.expired 8 = false ∧ s.cellSt 8 = .value ∧ (v = 1#64 → BitVec.ofNat 64 (s.value 8 8) ≠ v) := by
  rcases hv with rfl | rfl <;>
    exact ⟨by unfold State.Inv; decide +kernel, performs_of (by decide +kernel), rfl, by decide +kernel, by decide +kernel, by decide +kernel, by decide +kernel⟩

/-! Cells: s1 names the cell at 0x500000, s2 memory. -/

/-- The demo task whose s0 names a cell. -/
def demoCell : Task := { demoTask with regs := (0, 0x500000#64) :: demoTask.regs }

/-- The same, evaluating that cell. -/
def demoEval : Task := { demoCell with lineage := [0x100000] }

/-- CMK and CFILL read the 32 bytes at s2: zeros, and a template with a reserved bit. -/
theorem witness_Cells_write :
    let w := acc .always [.src (.s 0), .src (.s 2)]
    let s := demoWith demoCell aa
    let s2 := placed (unitBase 0) [1#8] s
    Ready w aa s ∧ storesUsed (s.task aa) < 32 ∧ Reaches aa s 0x500000#64 32 .cell (.byte 0x100000) ∧ Reaches aa s 0x10000#64 32 .load (.byte (unitBase 0)) ∧
    innerRead (ctxOf aa w s) 0x10000#64 (.byte (unitBase 0)) 32 (atIssue aa w s) = .ok (List.replicate 32 0#8) ∧ templateOk (List.replicate 32 0#8) = true ∧
    (Ready w aa s2 ∧ innerRead (ctxOf aa w s2) 0x10000#64 (.byte (unitBase 0)) 32 (atIssue aa w s2) = .ok (1#8 :: List.replicate 31 0#8) ∧ templateOk (1#8 :: List.replicate 31 0#8) = false) :=
  ⟨ready_of (by decide +kernel), by decide +kernel, reaches_of (by decide +kernel), reaches_of (by decide +kernel), ok_of (by decide +kernel), by decide +kernel,
    ready_of (by decide +kernel), ok_of (by decide +kernel), by decide +kernel⟩

/-- CFAIL with the codes 0x100 and 5; CLD of a cell outside the lineage, and of one in it. -/
theorem witness_Cells_fail_and_load :
    let s := demoWith demoCell aa
    let s2 := demoWith demoEval aa
    Ready (acc .always [.src (.s 0), .src (.lit 0x100#32)]) aa s ∧ 0x100 ≤ (srcVal (s.task aa) (.lit 0x100#32)).toNat ∧ (srcVal (s.task aa) (.lit 0x100#32)).toNat < 2 ^ 32 ∧
    Ready (acc .always [.src (.s 0), .src (.s 1)]) aa s ∧ (srcVal (s.task aa) (.s 1)).toNat < 0x100 ∧
    Ready (acc .always [.dst (.s 4), .src (.s 0), .src (.lit 8#32)]) aa s ∧ loadsUsed (s.task aa) < 32 ∧ Reaches aa s 0x500008#64 8 .cell (.byte 0x100008) ∧
    0x100008 / 32 * 32 ∉ (s.task aa).lineage ∧ Ready (acc .always [.dst (.s 4), .src (.s 0), .src (.lit 8#32)]) aa s2 ∧ Reaches aa s2 0x500008#64 8 .cell (.byte 0x100008) ∧
    0x100008 / 32 * 32 ∈ (s2.task aa).lineage :=
  ⟨ready_of (by decide +kernel), by decide +kernel, by decide +kernel, ready_of (by decide +kernel), by decide +kernel, ready_of (by decide +kernel), by decide +kernel, reaches_of (by decide +kernel),
    by decide +kernel, ready_of (by decide +kernel), reaches_of (by decide +kernel), by decide +kernel⟩

/-- CMK, CFILL and CFAIL at their home: the cell is in VALUE, and in evaluation. -/
theorem witness_Cells_performed (op : CellOp) (arg : List Byte) (c : CellSt)
    (h : (op, arg) = (.mk, List.replicate 32 0#8) ∨ (op, arg) = (.fill, List.replicate 32 0#8) ∨ (op, arg) = (.fail, leBytes 4 0x100)) (hc : c = .value ∨ c = .evaluating) :
    let x : Access := oneAccess (.cell op arg) 0x500000#64 (.byte 0x100000) 32 0#64 .none
    let e := element 0 0x500000#64 (.byte 0x100000) 32 0#64
    let s := (demoWith (withStore x demoEval) aa).setCellSt 0x100000 c
    s.Inv ∧ Performs aa s true 0 x e ∧ s.eccHit 0x100000 32 = false ∧ s.cellSt 0x100000 = c ∧ 0x100000 ∈ (s.task aa).lineage ∧ spillSize (s.part (s.partOf aa)).regs.cwspill = 0 := by
  rcases h with h | h | h <;> cases h <;> rcases hc with rfl | rfl <;>
    exact ⟨by unfold State.Inv; decide +kernel, performs_of (by decide +kernel), by decide +kernel, by decide +kernel, by decide +kernel, by decide +kernel⟩

/-- CLD at its home: a cell in each of its states; a lineage of eight cells. -/
theorem witness_Cells_loaded (c : CellSt) (l : List Nat) (hl : l = [] ∨ l = List.replicate 8 0) :
    let x : Access := oneAccess (.cell .ld []) 0x500008#64 (.byte 0x100008) 8 0#64 (.reg 4)
    let e := element 0 0x500008#64 (.byte 0x100008) 8 0#64
    let s := (demoWith (withLoad x { demoCell with lineage := l }) aa).setCellSt 0x100008 c
    Performs aa s false 0 x e ∧ e.n = 8 ∧ s.eccHit 0x100008 8 = false ∧ s.expired 0x100008 = false ∧ s.cellSt 0x100008 = c ∧ (s.task aa).lineage = l := by
  rcases hl with rfl | rfl <;> cases c <;>
    exact ⟨performs_of (by decide +kernel), rfl, by decide +kernel, by decide +kernel, by decide +kernel, by decide +kernel⟩

/-! Barriers. -/

/-- Barrier 0 with 5 and with 2^64 - 1; a barrier of cluster 1, which is not the partition's. -/
theorem witness_Barriers :
    let w (x y : Scalar) := acc .always [.src x, .src y]
    let s := demo
    let t := s.setBarrier 0 { count := -1, overrun := true }
    (Ready (w .zr (.s 1)) aa s ∧ storesUsed (s.task aa) < 32 ∧ s.hasCluster (s.partOf aa) 0 = true ∧ (srcVal (s.task aa) (.s 1)).toNat < 2 ^ 36) ∧
    (Ready (w .zr (.s 7)) aa s ∧ 2 ^ 36 ≤ (srcVal (s.task aa) (.s 7)).toNat) ∧
    (Ready (w (.s 8) (.s 1)) aa s ∧ ((srcVal (s.task aa) (.s 8)).extractLsb' 0 14).toNat = 64 ∧ s.hasCluster (s.partOf aa) 1 = false) ∧
    (Ready (acc .always [.src .zr]) aa s ∧ barsOpen (s.task aa) = false ∧ (s.barrier 0).overrun = false ∧ (s.barrier 0).count = 0) ∧
    (Ready (acc .always [.src .zr]) aa t ∧ barsOpen (t.task aa) = false ∧ (t.barrier 0).overrun = true) ∧
    (Ready (acc .always [.dst (.s 4), .src .zr]) aa s ∧ loadsUsed (s.task aa) < 32) :=
  ⟨⟨ready_of (by decide +kernel), by decide +kernel, by decide +kernel, by decide +kernel⟩, ⟨ready_of (by decide +kernel), by decide +kernel⟩,
    ⟨ready_of (by decide +kernel), by decide +kernel, by decide +kernel⟩, ⟨ready_of (by decide +kernel), by decide +kernel, by decide +kernel, by decide +kernel⟩,
    ⟨ready_of (by decide +kernel), by decide +kernel, by decide +kernel⟩, ready_of (by decide +kernel), by decide +kernel⟩

/-- At the home of barrier 0, which holds 0 or 2^36 - 1. -/
theorem witness_Barriers_performed (op : AccOp) (c : Int) (h : op = .barInit ∨ op = .barAdd) (hc : c = 0 ∨ c = 2 ^ 36 - 1) :
    let x : Access := { oneAccess op 0#64 (.barrier 0) 8 5#64 .none with elems := [barElem 0 5#64] }
    let s := (demoWith (withStore x demoTask) aa).setBarrier 0 { count := c, overrun := false }
    Performs aa s true 0 x (barElem 0 5#64) ∧ x.busy = none ∧ (barElem 0 5#64).tgt = .barrier 0 ∧ (s.barrier 0).count = c ∧ ((s.barrier 0).count + 5 < 2 ^ 36 ∨ 2 ^ 36 ≤ (s.barrier 0).count + 5) := by
  rcases h with rfl | rfl <;> rcases hc with rfl | rfl <;>
    exact ⟨performs_of (by decide +kernel), rfl, rfl, by decide +kernel, by decide +kernel⟩

theorem witness_Barriers_read :
    let x : Access := { oneAccess .barRead 0#64 (.barrier 0) 8 0#64 (.reg 4) with elems := [barElem 0 0#64] }
    let s := (demoWith (withLoad x demoTask) aa).setBarrier 0 { count := 7, overrun := true }
    Performs aa s false 0 x (barElem 0 0#64) ∧ x.busy = none ∧ 0 ≤ (s.barrier 0).count ∧ (s.barrier 0).count < 2 ^ 63 :=
  ⟨performs_of (by decide +kernel), rfl, by decide +kernel, by decide +kernel⟩

end Sys2Proof.Tests
end

