-- ==== Sys2Proof/Tests/WitnessMessages.lean ====
section
/-! SUPPORT. Witnesses of the hypotheses of the statements about messages between devices. -/

set_option Elab.async false

namespace Sys2Proof.Tests

open Sys2Proof Sys2Proof.Machine

/-- An entry of port 0 with its buffer of `len` bytes at 0x12000. -/
def demoEntry (kerf : Bool) (len : Nat) (j : Option JigRec) (etick : Nat) : AmtEntry :=
  { state := .armed, tag := 9, len := len, buf := 0x12000#64, maska := 0#64, jrec := j, arg := 5#64, etick := etick, kerf := kerf, persist := false, view := demo.view aa }

/-- The demo launch in a group; port 0 with the entry, with a sequence number acknowledged, and its kerf channel. -/
def demoPort (amt : Table AmtEntry) (kerf : KerfChannel) : State := (grouped demo).modPort 0 fun x => { x with amt := amt, kerf := kerf, lastAck := some 3 }

/-- Message 3 has been acknowledged, message 4 has not; a launch of another PGID, which was here and left, or was not. -/
theorem witness_ExactMessages_arrival :
    let s := demoPort [(0, demoEntry false 64 none 0)] .idle
    let u := s.modPart 0 fun p => { p with mig := { p.mig with left := some { Launch.empty with group := some { pgid := 8, rank := 0, size := 2, crc := 0#32, ports := [] } } } }
    (s.port 0).direct = true ∧ channelBusy s 0 false = false ∧ (s.port 0).lastAck = some 3 ∧ receiver s 0 8 = none ∧ hasLeft s 0 8 = false ∧ receiver u 0 8 = none ∧ hasLeft u 0 8 = true ∧
    receiver s 0 1 = some 0 ∧ (∀ x ∈ (s.port 0).amt, ¬ (x.2.state = .armed ∧ x.2.kerf = false ∧ x.2.tag = 10 ∧ x.2.len = 64)) ∧
    channelBusy (demoPort [(0, { demoEntry false 64 none 0 with state := .waiting })] .idle) 0 false = true :=
  by intro s u; and_intros <;> decide +kernel

/-- A match, without a jig and with one. -/
theorem witness_ExactMessages_match (j : Option JigRec) (h : j = none ∨ j = some (jrecOf 0)) :
    let e := demoEntry false 64 j 0
    let s := demoPort [(0, e)] .idle
    s.Inv ∧ matchEntry s 0 false 9 64 = some (0, e) ∧ e.maska = 0#64 ∧ entryOwned e s = true ∧ (List.replicate 64 1#8).length = 64 ∧
    Lands s e.view (s.partOf e.view.a) e.buf.toNat 64 (unitBase 0 + 0x2000) ∧ e.jrec = j ∧
    (∀ x, j = some x → ∃ l, (s.part 0).launch = some l ∧ l.poolFree = true ∧ (iterations l { x with arg := e.arg }).2 ≠ 0) := by
  rcases h with rfl | rfl <;>
    exact ⟨by unfold State.Inv; decide +kernel, by decide +kernel, rfl, by decide +kernel, rfl, lands_of (by decide +kernel), rfl,
      fun x hx => by cases hx <;> exact ⟨_, rfl, by decide +kernel, by decide +kernel⟩⟩

/-- A message of 64 bytes under way. -/
def demoMsg (phase : MsgPhase) (attempts : Nat) : CopyCmd :=
  let d : CopyDesc := { src := 0x10000#64, dst := 0#64, xn := 64, yn := 1, zn := 1, srs := 0, sps := 0, drs := 0, dps := 0, fmt := 0, mcast := 0#24, plane := 0#64, res := 0#64 }
  { demoCmd .msend d demoCtl with
    msg := some { kerf := false, len := 64, tag := 9, port := 0, dl := 0, seq := 4, attempts := attempts, phase := phase, bytes := List.replicate 64 1#8, bad := [] } }

/-- An attempt on the link before its timeout and at it; the wait for the next attempt; the sixteenth attempt has failed; a message that waits for a redirect to port 1. -/
theorem witness_ExactMessages_sender :
    let s (c : CopyCmd) (frame : Nat) : State := { withCopy c (grouped demo) with modl := { demo.modl with frame := frame } }
    (∀ p n, ∃ m, ((s (demoMsg p n) 100).copyQueue 0 0)[0]? = some (demoMsg p n) ∧ (demoMsg p n).msg = some m ∧ m.phase = p ∧ m.attempts = n ∧ m.kerf = false) ∧
    (s (demoMsg (.sent 50) 1) 305).reached (50 + 256) = false ∧ (s (demoMsg (.sent 50) 1) 306).reached (50 + 256) = true ∧
    (s (demoMsg (.backoff 50) 1) 113).reached (50 + 64) = false ∧ (s (demoMsg (.backoff 50) 15) 114).reached (50 + 64) = true ∧
    (let s := s (demoMsg (.backoff 50) 16) 114
     s.partOf? (clusterOfCore (demoMsg (.backoff 50) 16).by_.core) = some 0 ∧ ∃ l, (s.part 0).launch = some l) ∧
    (let s := (s (demoMsg .moved 1) 100).modPort 1 fun x => { x with ctl := 0x8084#64 }
     (s.port 1).owner? = some 0 ∧ (s.port 1).direct = true ∧ 0 ∈ s.clustersOf 0) ∧
    ((grouped demo).port 0).direct = true ∧ (demo.port 0).direct = false :=
  ⟨fun p n => ⟨_, rfl, rfl, rfl, rfl, rfl⟩, by decide +kernel, by decide +kernel, by decide +kernel, by decide +kernel, ⟨by decide +kernel, _, rfl⟩, ⟨by decide +kernel, by decide +kernel, by decide +kernel⟩, by decide +kernel, by decide +kernel⟩

/-- The launch of the notice, and another one. -/
theorem witness_ExactMessages_discard :
    ((grouped demo).port 0).owner? = some 0 ∧ ((grouped demo).port 0).direct = true ∧ ∃ l, ((grouped demo).part 0).launch = some l ∧ l.group.map (·.pgid) = some 1 ∧ l.group.map (·.pgid) ≠ some 2 ∧ ((grouped demo).part 0).held = none :=
  ⟨by decide +kernel, by decide +kernel, _, rfl, rfl, by decide, rfl⟩

/-- A header that matches, one that does not, and a launch of another PGID; the channel of a lost message, and of one that is over. -/
theorem witness_KerfMessages_header :
    let s := demoPort [(0, demoEntry true 256 none 0)] .idle
    (s.port 0).direct = true ∧ channelBusy s 0 true = false ∧ receiver s 0 1 = some 0 ∧ matchEntry s 0 true 9 256 = some (0, demoEntry true 256 none 0) ∧ matchEntry s 0 true 9 512 = none ∧
    receiver s 0 2 = none ∧ ((demoPort [] .ended).port 0).kerf = .ended ∧ ((demoPort [] .ended).port 0).direct = true ∧ ((demoPort [] .dropping).port 0).kerf = .dropping :=
  ⟨by decide +kernel, by decide +kernel, by decide +kernel, by decide +kernel, by decide +kernel, by decide +kernel, rfl, by decide +kernel, rfl⟩

/-- A message of two blocks in reception: with none, the first, or both of its blocks; its tick is 100, its deadline 5 ticks later. -/
theorem witness_KerfMessages_reception (got : List Nat) (h : got = [] ∨ got = [0] ∨ got = [1, 0]) :
    let e := { demoEntry true 512 none 0 with state := .receiving }
    let m : KerfIn := { entry := 0, h := 100, dl := 5, rank := 1, got := got }
    let s := demoPort [(0, e)] (.receiving m)
    s.Inv ∧ (s.port 0).kerf = .receiving m ∧ tget? (s.port 0).amt m.entry = some e ∧ (s.port 0).owner? = some 0 ∧ entryOwned e s = true ∧ ceilDiv e.len 256 = 2 ∧ e.jrec = none ∧ e.maska = 0#64 ∧
    (∀ i, i < 2 → Lands s e.view (s.partOf e.view.a) (e.buf.toNat + 256 * i) 256 (unitBase 0 + 0x2000 + 256 * i)) ∧ (got = [1, 0] → ∀ i, i < 2 → i ∈ m.got) ∧ (got = [0] → 1 ∉ m.got ∧ ∀ i, i < 2 → i ≠ 1 → i ∈ m.got) ∧
    (s.port 0).direct = true ∧ kerfDue 0 m s = none ∧ kerfDue 0 m { s with modl := { s.modl with frame := 105 } } ≠ none ∧ (tget? (s.port 0).amt m.entry).bind (·.etick?) = none := by
  have hb : ∀ g, g = [] ∨ g = [0] ∨ g = [1, 0] → ∀ i, i < 2 →
      landsB (demoPort [(0, { demoEntry true 512 none 0 with state := .receiving })] (.receiving { entry := 0, h := 100, dl := 5, rank := 1, got := g })) (demo.view aa)
        ((demoPort [] .idle).partOf (demo.view aa).a) (0x12000 + 256 * i) 256 (unitBase 0 + 0x2000 + 256 * i) = true := by
    rintro g (rfl | rfl | rfl) <;> decide +kernel
  have hl := hb got h
  rcases h with rfl | rfl | rfl <;>
    exact ⟨by unfold State.Inv; decide +kernel, rfl, rfl, by decide +kernel, by decide +kernel, by decide, rfl, rfl, fun i hi => lands_of (hl i hi), by decide, by decide, by decide +kernel, by decide +kernel, by decide +kernel, by decide +kernel⟩

/-- An armed entry of one block at tick 100, before it and at it. -/
theorem witness_KerfMessages_etick :
    let e := demoEntry true 256 none 100
    let s := demoPort [(0, e)] .idle
    s.Inv ∧ (s.port 0).owner? = some 0 ∧ tget? (s.port 0).amt 0 = some e ∧ e.kerf = true ∧ e.state = .armed ∧ e.etick ≠ 0 ∧ e.etick < 2 ^ 48 ∧ s.reached e.etick = true ∧
    ({ s with modl := { s.modl with frame := 99 } } : State).reached e.etick = false ∧ entryOwned e s = true ∧ e.jrec = none ∧ e.maska = 0#64 ∧ e.len = 256 ∧
    Lands s e.view (s.partOf e.view.a) e.buf.toNat 256 (unitBase 0 + 0x2000) :=
  ⟨by unfold State.Inv; decide +kernel, by decide +kernel, rfl, rfl, rfl, by decide, by decide, by decide +kernel, by decide +kernel, by decide +kernel, rfl, rfl, rfl, lands_of (by decide +kernel)⟩

end Sys2Proof.Tests
end

