-- ==== Sys2Proof/Tests/WitnessScalar.lean ====
section
/-! SUPPORT. Witnesses of the hypotheses of the statements about scalar words, branches, queues and accesses: each theorem shows a state and operands that meet a clause's hypotheses together. -/

set_option Elab.async false

namespace Sys2Proof.Tests

open Sys2Proof Sys2Proof.Machine

theorem witness_IntegerWords : Ready (accCtl .always [.dst (.s 4), .src (.s 1), .src (.lit 7#32)]) aa demo ∧ Ready (accCtl .always [.dst .zr, .src (.s 7)]) aa demo :=
  ⟨ready_of (by decide +kernel), ready_of (by decide +kernel)⟩

theorem witness_CompareWords : Ready (accCtl .always [.pdst 1, .src (.s 1), .src .zr]) aa demo := ready_of (by decide +kernel)

/-- Words with a reserved op, a field that must be 0, a reserved condition. -/
theorem witness_IntegerWords_reserved :
    (let w := 0x785C0000#32; w.extractLsb' 21 6 = 2#6 ∧ (w.extractLsb' 18 3).toNat = 7) ∧
    (let w := 0x78600001#32; w.extractLsb' 21 6 = 3#6 ∧ w.extractLsb' 0 6 ≠ 0#6) ∧ (let w := 0x78900000#32; w.extractLsb' 21 6 = 4#6 ∧ 4 ≤ (w.extractLsb' 18 3).toNat) := by decide

theorem witness_CompareWords_reserved :
    (let w := 0x78B40000#32; w.extractLsb' 21 6 = 5#6 ∧ 10 ≤ (w.extractLsb' 17 4).toNat) ∧ (let w := 0x78A00001#32; w.extractLsb' 21 6 = 5#6 ∧ w.getLsbD 0 = true) ∧
    Issues ax demoX ∧ Issues aa demo ∧ aa = .access 0 ∧ ax = .execute 0 :=
  ⟨by decide, by decide, issues_of (by decide +kernel), issues_of (by decide +kernel), rfl, rfl⟩

theorem witness_PredicateWords :
    (Ready (both .always [.pdst 9, .psrc 8, .psrc 1]) ax demoX ∧ predLanded ax (demoX.task ax) 8 ∧ predLanded ax (demoX.task ax) 1) ∧
    (Ready (both .always [.pdst 1, .psrc 0]) aa demo ∧ predLanded aa (demo.task aa) 0) ∧ Ready (both .always [.pdst 11]) ax demoX :=
  ⟨⟨ready_of (by decide +kernel), .inr (.inr (by decide +kernel)), .inr (.inl (by decide +kernel))⟩, ⟨ready_of (by decide +kernel), .inl rfl⟩, ready_of (by decide +kernel)⟩

theorem witness_ControlWords_branch : Ready (both .always []) ax demoX ∧ predicts .always demoX = none ∧ (wordAddr (demoX.task ax) .execute + 4#64 * (3#19).signExtend 64).toNat % 4 = 0 :=
  ⟨ready_of (by decide +kernel), rfl, by decide +kernel⟩

theorem witness_ControlWords_call : Ready (accCtl .always []) aa demo ∧ (wordAddr (demo.task aa) .access + 4#64 * (0x7FFFF#19).signExtend 64).toNat % 4 = 0 ∧
    tget? (demo.task aa).a.pend keyLr = none ∧ (tget 0#64 (demo.task aa).regs keyLr).toNat % 4 = 0 :=
  ⟨ready_of (by decide +kernel), by decide +kernel, by decide +kernel, by decide +kernel⟩

theorem witness_ControlWords_register : Ready (both .always [.src (.s 2)]) aa demo ∧ (readScalar (ctxOf aa (both .always [.src (.s 2)]) demo) (.s 2) (atIssue aa (both .always [.src (.s 2)]) demo)).1.toNat % 4 = 0 ∧
    Ready (accCtl .always [.src (.s 2)]) aa demo ∧ (srcVal (demo.task aa) (.s 2)).toNat % 4 = 0 :=
  ⟨ready_of (by decide +kernel), by decide +kernel, ready_of (by decide +kernel), by decide +kernel⟩

/-- LOOP on s4, which holds 1, and on s1, which holds 5. -/
theorem witness_ControlWords_loop :
    (let w := { both .always [.rw (.s 4)] with shape := (SDst.s 4) ≠ .zr }
     Ready w aa demo ∧ (readDst (ctxOf aa w demo) (.s 4) (atIssue aa w demo)).1 = 1#64) ∧
    (let w := { both .always [.rw (.s 1)] with shape := (SDst.s 1) ≠ .zr }
     Ready w aa demo ∧ (readDst (ctxOf aa w demo) (.s 1) (atIssue aa w demo)).1 ≠ 1#64 ∧ (wordAddr (demo.task aa) .access + 4#64 * (1#15).signExtend 64).toNat % 4 = 0) ∧
    Ready (accCtl .always [.dst (.s 4)]) aa demo :=
  ⟨⟨ready_of (by decide +kernel), by decide +kernel⟩, ⟨ready_of (by decide +kernel), by decide +kernel, by decide +kernel⟩, ready_of (by decide +kernel)⟩

/-- A stream at an address that is no multiple of 4, which no PC of a run is, and a register that holds one. -/
theorem witness_MisalignedBranchTraps :
    let s := demoWith { demoTask with a := { demoTask.a with pc := 2#64 } } aa
    Ready (both .always []) aa s ∧ (s.task aa).x.arm = none ∧ predicts .always s = none ∧ (wordAddr (s.task aa) .access + 4#64 * (1#19).signExtend 64).toNat % 4 ≠ 0 ∧
    Ready (accCtl .always []) aa s ∧ Ready (both .always [.src (.s 1)]) aa s ∧
    (readScalar (ctxOf aa (both .always [.src (.s 1)]) s) (.s 1) (atIssue aa (both .always [.src (.s 1)]) s)).1.toNat % 4 ≠ 0 ∧
    Ready (accCtl .always [.src (.s 1)]) aa s ∧ (srcVal (s.task aa) (.s 1)).toNat % 4 ≠ 0 :=
  ⟨ready_of (by decide +kernel), by decide +kernel, rfl, by decide +kernel, ready_of (by decide +kernel), ready_of (by decide +kernel), by decide +kernel, ready_of (by decide +kernel), by decide +kernel⟩

/-- A guard on p8, which has passed its bound and has not landed. -/
theorem witness_PredictedBranch : let s := demoWith { demoTask with x := { demoTask.x with unlanded := [8] } } ax
    s.cur = ax ∧ s.live ax = true ∧ predicts (.onTrue 8) s = some (8, true) := ⟨rfl, by decide +kernel, by decide +kernel⟩

theorem witness_QueueWords :
    (Ready (acc .always [.src (.s 1)]) aa demo ∧ (demo.task aa).q.cq.length < 16) ∧
    (let s := demoWith { demoTask with a := { demoTask.a with seq := 3 }, q := { demoTask.q with cq := [{ seq := 1, val := some 9#64 }] } } ax
     Ready (exe .always [.dst (.s 48)]) ax s ∧ entryReady ax (s.task ax) 1 true = true) ∧
    (Ready (exe .always [.psrc 8]) ax demoX ∧ predLanded ax (demoX.task ax) 8 ∧ (demoX.task ax).q.pq.length < 32) ∧
    (let s := demoWith { demoTask with q := { demoTask.q with pq := [true] } } aa
     Ready (acc .always [.pdst 1]) aa s ∧ (s.task aa).q.pq = true :: []) :=
  ⟨⟨ready_of (by decide +kernel), by decide +kernel⟩, ⟨ready_of (by decide +kernel), by decide +kernel⟩,
    ⟨ready_of (by decide +kernel), .inr (.inr (by decide +kernel)), by decide +kernel⟩, ⟨ready_of (by decide +kernel), by decide +kernel⟩⟩

theorem witness_TendEndsStream : Ready (both .always []) ax demoX ∧ (demoX.core 0).eng.bk.queue = [] ∧ (demoX.core 0).eng.bk.openGrp = none :=
  ⟨ready_of (by decide +kernel), by decide +kernel, by decide +kernel⟩

/-- BRKEN 0, and BRKEN 1. -/
theorem witness_BrkTrapsOrStops : (Ready (both .always []) aa demo ∧ (demo.task aa).x.arm = none ∧ demo.partOf? aa.cluster = some 0 ∧ (demo.part 0).regs.brken = false) ∧
    (let s := demo.modPart 0 fun pt => { pt with regs := { pt.regs with brken := true } }
     Ready (both .always []) aa s ∧ s.partOf? aa.cluster = some 0 ∧ (s.part 0).regs.brken = true) :=
  ⟨⟨ready_of (by decide +kernel), by decide +kernel, by decide +kernel, by decide +kernel⟩, ready_of (by decide +kernel), by decide +kernel, by decide +kernel⟩

theorem witness_ScalarAccesses :
    (Ready (accCtl .always [.dst (.s 4), .src (.s 2), .src (.lit 8#32)]) aa demo ∧ loadsUsed (demo.task aa) < 32 ∧ Reaches aa demo 0x10008#64 8 .load (.byte (unitBase 0 + 8))) ∧
    (Ready (accCtl .always [.src (.s 1), .src (.s 3), .src (.lit 0xFFFF8#32)]) aa demo ∧ storesUsed (demo.task aa) < 32 ∧ Reaches aa demo 0x1FFFF8#64 8 .store (.byte (dieBase 0 + 0xFFFF8))) :=
  ⟨⟨ready_of (by decide +kernel), by decide +kernel, reaches_of (by decide +kernel)⟩, ready_of (by decide +kernel), by decide +kernel, reaches_of (by decide +kernel)⟩

/-- A transient region of LP memory that has expired, behind a window entry of die memory with BACK. -/
def demoExpired : State :=
  let back : WinEntry := { entryOf 0x400 0 0 .die false true true with back := true }
  { demoWith { demoTask with window := back :: demoWindow, regs := (0, 0x400000#64) :: demoTask.regs } aa with
    modl := { Module.reset with mstate := 4, intcnt := 40000 }
    parts := [(0, { demoPart with regs := { demoPart.regs with trans := [(0, 0x101#64)], transStamp := [(0, 1)] } })] }

theorem witness_AccessErrorsTrap :
    (Ready (accCtl .always [.dst (.s 4), .src (.s 2), .src (.lit 1#32)]) aa demo ∧ (srcVal (demo.task aa) (.s 2) + srcVal (demo.task aa) (.lit 1#32)).toNat % 8 ≠ 0) ∧
    translate demo aa (demo.task aa) 0x9000000#64 .load = .error .winmiss ∧ translate demo aa (demo.task aa) 0#64 .store = .error .winperm ∧
    (Ready (accCtl .always [.dst (.s 4), .src (.s 0), .src .zr]) aa demoExpired ∧ translate demoExpired aa (demoExpired.task aa) 0x400000#64 .load = .ok (.byte lpBase) ∧
      loadAddr demoExpired 0 (.byte lpBase) = some lpBase ∧ demoExpired.expired lpBase = true) ∧
    Ready (accCtl .always [.src (.s 1), .src (.s 2), .src (.lit 3#32)]) aa demo :=
  ⟨⟨ready_of (by decide +kernel), by decide +kernel⟩, rfl, rfl, ⟨ready_of (by decide +kernel), rfl, by decide +kernel, by decide +kernel⟩, ready_of (by decide +kernel)⟩

/-- A store of two elements and a mask, and the indices of an earlier group, stand in vqs. -/
def demoVec : Task := { demoTask with q := { demoTask.q with vqs := [{ data := [(0, 1#32), (1, 3#32)], mask := 3#256 }, { data := [(0, 7#32)], mask := 3#256 }] } }

theorem witness_VectorAccesses_contiguous :
    let l := (List.range 256).map fun (j : Nat) => (j, 0x10000#64 + 0#64 + BitVec.ofInt 64 (4 * j))
    Ready (vmInfo .always (.vdst (.vq 0)) (.s 2) .zr) aa demo ∧ loadsUsed (demo.task aa) < 32 ∧ Elements aa demo .load l (elementsAt 0x10000#64 (unitBase 0) l) :=
  ⟨ready_of (by decide +kernel), by decide +kernel, elements_of (by decide +kernel)⟩

/-- A stride of 64 bytes. -/
theorem witness_VectorAccesses_strided :
    let l := (List.range 256).map fun (j : Nat) => (j, 0x100000#64 + BitVec.ofInt 64 ((64#64).toInt * j))
    Ready (vmInfo .always (.vdst (.vq 1)) (.s 3) (.s 8)) aa demo ∧ (0x100000#64).toNat % 4 = 0 ∧ (64#64).toNat % 4 = 0 ∧ Elements aa demo .load l (elementsAt 0x100000#64 0 l) :=
  ⟨ready_of (by decide +kernel), by decide, by decide, elements_of (by decide +kernel)⟩

/-- Indices 1 and 3 of a bound of 64. -/
theorem witness_VectorAccesses_indexed :
    let s := demoWith demoVec aa
    let l : List (Nat × W64) := [(0, 0x10004#64), (1, 0x1000C#64)]
    Ready (vmInfo .always (.vdst (.vq 2)) (.s 2) (.s 8)) aa s ∧ (s.task aa).q.vqs.length = 2 ∧
    l = ((List.range 256).filterMap fun j => let i := (tget 0#32 [(0, 1#32), (1, 3#32)] j).toNat; if (3#256).getLsbD j && i < 64 then some (j, 0x10000#64 + BitVec.ofNat 64 (4 * i)) else none) ∧
    Elements aa s .load l (elementsAt 0x10000#64 (unitBase 0) l) :=
  ⟨ready_of (by decide +kernel), by decide +kernel, by decide +kernel, elements_of (by decide +kernel)⟩

/-- A first-fault load of 64 bytes at most: sixteen elements. -/
theorem witness_VectorAccesses_first :
    let l := (List.range 16).map fun (j : Nat) => (j, 0x10000#64 + BitVec.ofInt 64 (4 * j))
    Ready (vmInfo .always (.vdst (.vq 3)) (.s 2) (.s 8)) aa demo ∧ (tget [] (demo.task aa).q.sq 3).length < 16 ∧ (∀ i < 16, 4 * ((i : Nat) : Int) < (64#64).toInt) ∧
    (64#64).toInt ≤ 4 * ((16 : Nat) : Int) ∧ Elements aa demo .load l (elementsAt 0x10000#64 (unitBase 0) l) :=
  ⟨ready_of (by decide +kernel), by decide +kernel, by decide, by decide, elements_of (by decide +kernel)⟩

theorem witness_VectorAccesses_stores :
    let s := demoWith demoVec aa
    let l : List (Nat × W64) := [(0, 0x10000#64), (1, 0x10004#64)]
    let m : List (Nat × W64) := [(0, 0x10004#64), (1, 0x1000C#64)]
    Ready (vmInfo .always (.vsrc .vqs) (.s 2) .zr) aa s ∧ Ready (vmInfo .always (.vsrc .vqs) (.s 2) (.s 8)) aa s ∧ storesUsed (s.task aa) < 32 ∧
    l = ((List.range 256).map fun (j : Nat) => (j, 0x10000#64 + 0#64 + BitVec.ofInt 64 (4 * j))).filter (fun x => (3#256).getLsbD x.1) ∧
    Elements aa s .store l (elementsAt 0x10000#64 (unitBase 0) l) ∧ Elements aa s .store m (elementsAt 0x10000#64 (unitBase 0) m) :=
  ⟨ready_of (by decide +kernel), ready_of (by decide +kernel), by decide +kernel, by decide +kernel, elements_of (by decide +kernel), elements_of (by decide +kernel)⟩

/-- An acquire at device scope on s1, and ACAS on s46 and s47. -/
theorem witness_Atomics : (Ready { accCtl .always [.rw (.s 1), .src (.s 3)] with shape := MemOrder.acquire ≠ .relaxed || Scope.device == .unit } aa demo ∧ storesUsed (demo.task aa) < 32 ∧
      Reaches aa demo 0x100000#64 8 .atomic (.byte 0)) ∧
    Ready { accCtl .always [.rw (.s 46), .src (.s 3)] with shape := MemOrder.relaxed ≠ .relaxed || Scope.unit == .unit } aa demo ∧ tget? (demo.task aa).a.pend 47 = none :=
  ⟨⟨ready_of (by decide +kernel), by decide +kernel, reaches_of (by decide +kernel)⟩, ready_of (by decide +kernel), by decide +kernel⟩

theorem witness_OrderWords : Ready { accCtl .always [] with shape := MemOrder.release ≠ .relaxed } aa demo ∧
    (Ready (accCtl .always []) aa demo ∧ loadsUsed (demo.task aa) < 32 ∧ storesUsed (demo.task aa) < 32) ∧
    Ready { accCtl .always [.src (.s 1)] with shape := releases .release } aa (demoWith { demoTask with regs := [(1, 0x200000#64)] } aa) ∧
    Reaches aa demo 0x200000#64 1 .publish (.veneer 0 0x20000 4096 0) :=
  ⟨ready_of (by decide +kernel), ⟨ready_of (by decide +kernel), by decide +kernel, by decide +kernel⟩, ready_of (by decide +kernel), reaches_of (by decide +kernel)⟩

end Sys2Proof.Tests
end

