-- ==== Sys2Proof/Tests/WitnessStop.lean ====
section
/-! SUPPORT. Witnesses of the hypotheses of the statements about stopping, holding, resuming, discarding and migrating launches. -/

set_option Elab.async false

namespace Sys2Proof.Tests

open Sys2Proof Sys2Proof.Machine

/-! Stopping. -/

/-- Partition 0 in a state, with or without a suspension area at 0x1000000 of its die memory, and its migration. -/
def stopIn (st : PState) (area : Bool) (mig : MigState) (s : State) : State :=
  s.modPart 0 fun p =>
    { p with
      pstate := st, stopTick := 50, mig := { p.mig with state := mig, port := 0 }
      regs := { p.regs with susparea := if area then 0x3000000001000001#64 else 0#64, ptimeout := 1, pdie := List.replicate 4 { base := 0, size := 0x10000000 } } }

/-- An active launch with and without a suspension area, one that is stopping already; a partition that sends. -/
theorem witness_StopEvents_preempt :
    (0x0000000100000000#64 : W64).extractLsb' 0 3 = 0#3 ∧
    (∀ area : Bool,
      let s := stopIn .active area .idle demo
      (∃ l, (s.part 0).launch = some l ∧ l.phase = .active) ∧ (s.part 0).pstate = .active ∧ (s.part 0).held = none ∧ decide (suspArea s 0 = none) = !area) ∧
    ((stopIn .stopping true .idle demo).part 0).pstate ≠ .active ∧ ((stopIn .sending true .sending demo).part 0).mig.state = .sending :=
  ⟨by decide, fun area => ⟨⟨_, rfl, rfl⟩, rfl, rfl, by cases area <;> decide +kernel⟩, by decide +kernel, rfl⟩

/-- A task at a break. -/
theorem witness_StopEvents_brkgo (brk : Bool) :
    let u := { demoTask with brk := brk }
    aa.cluster ∈ (demoWith u aa).clustersOf 0 ∧ (demoWith u aa).task? aa = some u ∧ u.ident = 0x0000000700000005#64 ∧ u.brk = brk := by
  cases brk <;> exact ⟨by decide +kernel, rfl, rfl, rfl⟩

/-- The task has a store to perform, or none; the timeout at tick 1050. -/
theorem witness_StopEvents_stopping :
    let x := withStore (oneAccess .store 0x10000#64 (.byte (unitBase 0)) 4 0#64 .none) demoTask
    let s := stopIn .stopping true .idle (demoWith demoTask aa)
    atStopPoint (stopIn .stopping true .idle (demoWith x aa)) 0 = false ∧ atStopPoint s 0 = true ∧ (∃ l, (s.part 0).launch = some l ∧ l.phase = .active) ∧ (s.part 0).pstate = .stopping ∧
    (s.part 0).mig.state = .idle ∧ (s.part 0).regs.ptimeout ≠ 0 ∧ ({ s with modl := { s.modl with frame := 1049 } } : State).reached ((s.part 0).stopTick + 1000 * (s.part 0).regs.ptimeout) = false ∧
    ({ s with modl := { s.modl with frame := 1050 } } : State).reached ((s.part 0).stopTick + 1000 * (s.part 0).regs.ptimeout) = true :=
  ⟨by decide +kernel, by decide +kernel, ⟨_, rfl, rfl⟩, rfl, rfl, by decide +kernel, by decide +kernel, by decide +kernel⟩

/-- Everything has stopped and drained: the launch can be saved. -/
theorem witness_StopEvents_save :
    let s := stopIn .saving true .idle demo
    s.Inv ∧ (∃ l, (s.part 0).launch = some l ∧ l.phase = .active) ∧ (s.part 0).pstate = .saving ∧ suspArea s 0 = some (dieBase 0 + 0x1000000) ∧ drained s 0 = true ∧ saveError s 0 = none ∧ s.modl.slip = false :=
  ⟨by unfold State.Inv; decide +kernel, ⟨_, rfl, rfl⟩, rfl, by decide +kernel, by decide +kernel, by decide +kernel, rfl⟩

/-! Holding and resuming. -/

/-- The launch of the demo module is held. -/
def demoHeld (st : PState) (area : Bool) : State :=
  (stopIn st area .idle demo).modPart 0 fun p => { p with launch := none, held := some (heldOf 0 demoLaunch demo) }

/-- No area; another launch; a restoring partition; a held launch that can be discarded. -/
theorem witness_StopEvents_held :
    (((demoHeld .idle false).part 0).held.isSome = true ∧ suspArea (demoHeld .idle false) 0 = none) ∧
    (let s := (demoHeld .idle true).modPart 0 fun p => { p with launch := some demoLaunch }
     suspArea s 0 = some (dieBase 0 + 0x1000000) ∧ (s.part 0).launch ≠ none) ∧
    (let s := demoHeld .restoring true
     (s.part 0).pstate = .restoring ∧ suspArea s 0 = some (dieBase 0 + 0x1000000) ∧ s.eccHit (dieBase 0 + 0x1000000) (areaSize s 0) = false) ∧
    (let s := demoHeld .idle true
     (s.part 0).launch = none ∧ (s.part 0).pstate = .idle ∧ ∃ h, (s.part 0).held = some h ∧ h.launch.silent = false) ∧
    (let s := demoHeld .idle true
     suspArea s 0 = some (dieBase 0 + 0x1000000) ∧ s.value (dieBase 0 + 0x1000000) 4 ≠ 0x4F423353) :=
  ⟨⟨rfl, by decide +kernel⟩, ⟨by decide +kernel, by decide +kernel⟩, ⟨rfl, by decide +kernel, by decide +kernel⟩, ⟨rfl, rfl, _, rfl, rfl⟩, by decide +kernel, by decide +kernel⟩

theorem value4 {s : State} {a n : Nat} (h : Memory.wf s.mem = true) (hn : n < 2 ^ 32) : (s.putBytes a (leBytes 4 n)).value a 4 = n := by
  have hb : (s.putBytes a (leBytes 4 n)).bytes a 4 = leBytes 4 n := by
    refine List.ext_getElem (by simp [State.bytes, leBytes]) fun k h1 h2 => ?_
    have hk : k < (leBytes 4 n).length := h2
    have := State.byte_putBytes_inside s a (leBytes 4 n) h k hk
    simp only [State.bytes, List.getElem_map, List.getElem_range]
    rw [this]
  rw [State.value, hb]
  simp only [leBytes, leValue, BitVec.toNat_ofNat]
  omega

theorem bytes_outside (s : State) {a b n : Nat} {bs : List Byte} (h : b + n ≤ a ∨ a + bs.length ≤ b) : (s.putBytes a bs).bytes b n = s.bytes b n := by
  refine List.map_congr_left fun i hi => State.byte_putBytes_of_outside s a bs _ ?_
  have := List.mem_range.mp hi
  omega

theorem suspArea_congr {s t : State} (h : t.parts = s.parts) (p : Nat) : suspArea t p = suspArea s p := by
  have hp := State.part_congr h p
  unfold suspArea locFlat placeOf areaSize State.clustersOf State.hasCore State.hasCluster
  rw [hp]

theorem ecc_putBytes (s : State) (a : Nat) (bs : List Byte) : (s.putBytes a bs).attr.ecc = s.attr.ecc := by
  induction bs generalizing s a with
  | nil => rfl
  | cons b r ih => exact (ih _ _).trans rfl

/-- The held launch whose area begins with MAGIC and VERSION, and has a layout, or none. -/
def demoArea (layout : Bool) : State :=
  placed (dieBase 0 + 0x1000000) (fields [(4, 0x4F423353), (4, 1)])
    (if layout then placed (dieBase 0 + 0x1000000 + 0x10) (layoutBytes ((demoHeld .idle true).part 0).regs) (demoHeld .idle true) else demoHeld .idle true)

/-- With its CRC the header is right; the layout agrees, or not. -/
theorem witness_StopEvents_resume (layout : Bool) :
    ∃ s area h, (s.part 0).held = some h ∧ suspArea s 0 = some area ∧ (s.part 0).launch = none ∧ (s.part 0).pstate = .idle ∧ s.eccHit area 0x100000 = false ∧ s.value area 4 = 0x4F423353 ∧
      s.value (area + 4) 4 = 1 ∧ s.value (area + 8) 4 = areaCrc s area ∧ decide (s.bytes (area + 0x10) 60 = layoutBytes (s.part 0).regs) = layout := by
  have hwf : Memory.wf (demoArea layout).mem = true := by cases layout <;> decide +kernel
  generalize ha : dieBase 0 + 0x1000000 = area
  refine ⟨(demoArea layout).putBytes (area + 8) (leBytes 4 (areaCrc (demoArea layout) area)), area, heldOf 0 demoLaunch demo, ?_⟩
  have hp : ∀ v, (((demoArea layout).putBytes (area + 8) (leBytes 4 v)).part 0) = (demoArea layout).part 0 := fun v => State.part_congr (State.putBytes_parts ..) 0
  have hl : ∀ v, (leBytes 4 v).length = 4 := fun v => rfl
  have hc : ∀ v, areaCrc ((demoArea layout).putBytes (area + 8) (leBytes 4 v)) area = areaCrc (demoArea layout) area := by
    intro v
    rw [areaCrc, areaCrc, bytes_outside _ (by rw [hl]; omega)]
  have hv : ∀ v b, b + 4 ≤ area + 8 → ((demoArea layout).putBytes (area + 8) (leBytes 4 v)).value b 4 = (demoArea layout).value b 4 := by
    intro v b hb
    rw [State.value, State.value, bytes_outside _ (by omega)]
  refine ⟨?_, ?_, ?_, ?_, ?_, ?_, ?_, ?_, ?_⟩
  · rw [hp]; cases layout <;> rfl
  · rw [suspArea_congr (State.putBytes_parts ..), ← ha]; cases layout <;> decide +kernel
  · rw [hp]; cases layout <;> rfl
  · rw [hp]; cases layout <;> rfl
  · rw [State.eccHit, ecc_putBytes]; cases layout <;> rfl
  · rw [hv _ _ (by omega), ← ha]; cases layout <;> decide +kernel
  · rw [hv _ _ (by omega), ← ha]; cases layout <;> decide +kernel
  · rw [hc]; exact value4 hwf (BitVec.isLt _)
  · rw [bytes_outside _ (by rw [hl]; omega), hp, ← ha]; cases layout <;> decide +kernel

/-- A launch that is being discarded; one that is not. -/
theorem witness_StopEvents_discard :
    (∃ l, ((demo.modLaunch 0 fun l => { l with phase := .discarding }).part 0).launch = some l ∧ l.phase = .discarding) ∧ demo.modl.slip = false ∧
    ∃ l, (demo.part 0).launch = some l ∧ l.phase ≠ .discarding ∧ (demo.part 0).held = none :=
  ⟨⟨_, rfl, rfl⟩, rfl, _, rfl, by decide, rfl⟩

/-! Migrating: the ranges of pages that another device owns are `away`. -/

def migrating (st : PState) (mig : MigState) (role : Nat) (launch : Bool) (away : List (Nat × Nat)) : State :=
  let s := (stopIn st false mig (grouped demo)).modPart 0 fun p => { p with launch := if launch then p.launch else none, mig := { p.mig with role := role } }
  { s with attr := { s.attr with away := away } }

/-- A source whose conditions hold, and one whose port is not in the direct mode; a migration that is under way. -/
theorem witness_MigrationEvents_go :
    let s := migrating .active .idle 0 true []
    let u := s.modPort 0 fun x => { x with ctl := 0x8044#64 }
    (0x40#64 : W64).extractLsb' 6 2 = 1#2 ∧ ((0x40#64 : W64).extractLsb' 8 3).toNat = 0 ∧ (s.part 0).mig.state = .idle ∧
    (s.modl.mstate = 4 ∧ (s.port 0).owner? = some 0 ∧ (s.port 0).direct = true ∧ runningLaunch s 0 = true ∧ (s.part 0).pstate = .active) ∧ (u.port 0).direct = false ∧
    ((migrating .stopping .stopping 1 true []).part 0).mig.state ≠ .idle :=
  ⟨by decide, by decide, rfl, ⟨rfl, by decide +kernel, by decide +kernel, by decide +kernel, rfl⟩, by decide +kernel, by decide⟩

/-- The source with its launch: stopping at its stop point, sending; the target that owns the launch. -/
theorem witness_MigrationEvents_launch (st : PState) (mig : MigState) (h : (st, mig) ∈ [(PState.sending, MigState.sending), (.sending, .drain), (.stopping, .stopping), (.active, .owning)]) :
    let s := migrating st mig 1 true []
    (∃ l, (s.part 0).launch = some l ∧ l.phase = .active) ∧ (s.part 0).mig.state = mig ∧ (s.part 0).pstate = st ∧ atStopPoint s 0 = true ∧ drained s 0 = true ∧ (s.port (s.part 0).mig.port).direct = true := by
  simp only [List.mem_cons, Prod.mk.injEq, List.not_mem_nil, or_false] at h
  rcases h with ⟨rfl, rfl⟩ | ⟨rfl, rfl⟩ | ⟨rfl, rfl⟩ | ⟨rfl, rfl⟩ <;> exact ⟨⟨_, rfl, rfl⟩, rfl, rfl, by decide +kernel, by decide +kernel, by decide +kernel⟩

/-- A target before its first block, one that receives; every last block holds a launch or none. -/
theorem witness_MigrationEvents_target (data : List Byte) :
    (let s := migrating .idle .idle 2 false []
     (s.part 0).launch = none ∧ (s.part 0).held = none ∧ (s.part 0).pstate = .idle ∧ (s.part 0).mig.role = 2 ∧ (s.part 0).mig.state = .idle) ∧
    (let s := migrating .idle .receiving 2 false []
     (s.part 0).launch = none ∧ (s.part 0).mig.state = .receiving) ∧
    (Config.blockContents data = none ∨ ∃ h, Config.blockContents data = some h) ∧ ((migrating .active .idle 0 true []).part 0).mig.role ≠ 2 :=
  ⟨⟨rfl, rfl, rfl, rfl, rfl⟩, ⟨rfl, rfl⟩, by cases Config.blockContents data <;> simp, by decide +kernel⟩

/-- Page 5 of the die memory of stack 0, which is here, or elsewhere; every page elsewhere. -/
theorem witness_MigrationEvents_pages :
    let k := dieBase 0 / 4096 + 5
    let all := [(0, 2 ^ 52)]
    (let s := migrating .serving .serving 1 false []
     (s.part 0).mig.state = .serving ∧ pageAt s 0 0 5 = some k ∧ s.owned (k * 4096) = true ∧ lowestOwned s 0 = some (dieBase 0 / 4096) ∧ (s.port (s.part 0).mig.port).direct = true) ∧
    (let s := migrating .serving .serving 1 false [(k, k + 1)]
     pageAt s 0 0 5 = some k ∧ s.owned (k * 4096) = false) ∧
    (let s := migrating .active .owning 2 true [(k, k + 1)]
     s.Inv ∧ (s.part 0).mig.state = .owning ∧ pageAt s 0 0 5 = some k ∧ s.owned (k * 4096) = false ∧ (List.replicate 4096 7#8).length = 4096 ∧ awayPages s 0 = 1 ∧ (s.part 0).pushes = []) ∧
    awayPages (migrating .active .owning 2 true []) 0 = 0 ∧ lowestOwned (migrating .serving .serving 1 false all) 0 = none :=
  ⟨⟨rfl, by decide +kernel, by decide +kernel, by decide +kernel, by decide +kernel⟩, ⟨by decide +kernel, by decide +kernel⟩,
    ⟨by unfold State.Inv; decide +kernel, rfl, by decide +kernel, by decide +kernel, List.length_replicate, by decide +kernel, rfl⟩, by decide +kernel, by decide +kernel⟩

end Sys2Proof.Tests
end

