-- ==== Sys2Proof/Tests/WitnessUnits.lean ====
section
/-! SUPPORT. Witnesses of the hypotheses of the statements about copy words, messages, queue units, jigs, domains, rings and system words. -/

set_option Elab.async false

namespace Sys2Proof.Tests

open Sys2Proof Sys2Proof.Machine

/-- A copy descriptor: 64 bytes a row, two rows, from 0x10000 to 0x11000. -/
def copyBytes (xn fmt mcast dst : Nat) : List Byte :=
  fields [(8, 0x10000), (8, dst), (2, xn), (2, 2), (2, 1), (2, 0), (4, 4096), (4, 0), (4, 4096), (4, 0), (4, fmt), (4, mcast), (8, 0), (8, 0)]

/-- The demo module with bytes at s5, which is 0x10040. -/
def demoBlock (bs : List Byte) : State := placed (unitBase 0 + 0x40) bs demo

/-- Every copy word finds a descriptor that keeps its rules; engine 0 by number, and engine 0 by AUTO. -/
theorem witness_CopyWords (op : CopyOp) (bs : List Byte)
    (h : (op, bs) ∈ [(.cpt, copyBytes 64 0 0 0x11000), (.cpc, copyBytes 64 0x10 0 0x11000), (.cpx, copyBytes 64 0x03 0 0x11000), (.cptr, copyBytes 64 0 0 0x11000), (.cpm, copyBytes 64 0 3 0x11000),
      (.cpz, copyBytes 256 0 0 0x11000)]) :
    let s := demoBlock bs
    let w (y : Scalar) := acc .always [.src (.s 5), .src y]
    Ready (w .zr) aa s ∧ readBlock (ctxOf aa (w .zr) s) (srcVal (s.task aa) (.s 5)) 64 (atIssue aa (w .zr) s) = .ok bs ∧ (s.task aa).a.kept = none ∧ Accepts s 0 0 0#64 0 ∧
    Ready (w (.lit 0x40000#32)) aa s ∧ Accepts s 0 0 0x40000#64 0 ∧
    fieldsOk bs op (.ofBytes bs) = true ∧ shapeOk s 0 op (.ofBytes bs) = true ∧ (op = .cpm → multicastOk (s.task aa).window (.ofBytes bs) = true) ∧ entriesOk s 0 op (.ofBytes bs) = true ∧
    planeOk s 0 op (.ofBytes bs) = true := by
  simp only [List.mem_cons, Prod.mk.injEq, List.not_mem_nil, or_false] at h
  rcases h with ⟨rfl, rfl⟩ | ⟨rfl, rfl⟩ | ⟨rfl, rfl⟩ | ⟨rfl, rfl⟩ | ⟨rfl, rfl⟩ | ⟨rfl, rfl⟩ <;>
    exact ⟨ready_of (by decide +kernel), ok_of (by decide +kernel), rfl, ⟨by decide, by decide, by decide, by unfold Names; decide +kernel, by decide +kernel⟩, ready_of (by decide +kernel),
      ⟨by decide, by decide, by decide, by unfold Names; decide +kernel, by decide +kernel⟩, by decide +kernel, by decide +kernel, by decide +kernel, by decide +kernel, by decide +kernel⟩

/-- CPD: a deduplication table and a free-frame ring of sixteen entries in die memory; two pages to D-space. -/
theorem witness_CopyWords_cpd :
    let bs := copyBytes 4096 0x200 0 0x11000
    let s := (demoBlock bs).modPart 0 fun p => { p with regs := { p.regs with ddtab := 0x3000000000200009#64, ddring := 0x3000000000201009#64 } }
    let w := acc .always [.src (.s 5), .src .zr]
    Ready w aa s ∧ readBlock (ctxOf aa w s) (srcVal (s.task aa) (.s 5)) 64 (atIssue aa w s) = .ok bs ∧ (s.task aa).a.kept = none ∧ Accepts s 0 0 0#64 0 ∧
    fieldsOk bs .cpd (.ofBytes bs) = true ∧ shapeOk s 0 .cpd (.ofBytes bs) = true ∧ entriesOk s 0 .cpd (.ofBytes bs) = true ∧ planeOk s 0 .cpd (.ofBytes bs) = true :=
  ⟨ready_of (by decide +kernel), ok_of (by decide +kernel), rfl, ⟨by decide, by decide, by decide, by unfold Names; decide +kernel, by decide +kernel⟩, by decide +kernel, by decide +kernel,
    by decide +kernel, by decide +kernel⟩

/-! Messages. -/

/-- An exact message of 4 bytes, a kerf message of 256 bytes with DL 1. -/
theorem witness_MessageWords (kerf : Bool) :
    let bs := fields [(8, 0x10000), (4, if kerf then 256 else 4), (4, 9), (2, 0), (2, if kerf then 1 else 0), (12, 0)]
    let s := grouped (demoBlock bs)
    let w := acc .always [.src (.s 5), .src .zr]
    Ready w aa s ∧ readBlock (ctxOf aa w s) (srcVal (s.task aa) (.s 5)) 32 (atIssue aa w s) = .ok bs ∧ (s.task aa).a.kept = none ∧ Accepts s 0 0 0#64 0 ∧ msgDescOk kerf bs = true ∧ portOk s 0 (fieldOf bs 0x10 1) = true := by
  cases kerf <;>
    exact ⟨ready_of (by decide +kernel), ok_of (by decide +kernel), rfl, ⟨by decide, by decide, by decide, by unfold Names; decide +kernel, by decide +kernel⟩, by decide +kernel, by decide +kernel⟩

/-- AMTSET of entry 1 of port 0, a kerf entry with a status area and no jig; AMTCLR of it. -/
theorem witness_MessageWords_table :
    let bs := fields [(4, 9), (4, 256), (8, 0x10000), (8, 0x10800), (8, 0), (8, 5), (8, 0), (1, 1), (15, 0)]
    let s := grouped (demoBlock bs)
    let w := acc .always [.src (.s 5), .src (.lit 0x100#32)]
    let w1 := acc .always [.src (.lit 0x100#32)]
    let s0 := atIssue aa w s
    (Ready w aa s ∧ readBlock (ctxOf aa w s) (srcVal (s.task aa) (.s 5)) 64 s0 = .ok bs ∧ (s.task aa).a.kept = none ∧ storable? (s0.view aa) (fieldOf bs 8 8) (fieldOf bs 4 4) s0 = .ok () ∧ fieldOf bs 0x10 8 ≠ 0 ∧
      storable? (s0.view aa) (fieldOf bs 0x10 8) (statusSize (fieldOf bs 4 4)) s0 = .ok () ∧ portOk s 0 0 = true ∧ entryNameOk 0x100 = true ∧ templateFieldsOk bs = true ∧
      entryTurn (ctxOf aa w s) s0 = .ok () ∧ entryBusy s 0 1 = false ∧ arrivalRecord 0 (ctxOf aa w s) (fieldOf bs 0x18 8) s0 = .ok (none, s0)) ∧
    (Ready w1 aa s ∧ entryTurn (ctxOf aa w1 s) (atIssue aa w1 s) = .ok ()) :=
  ⟨⟨ready_of (by decide +kernel), ok_of (by decide +kernel), rfl, ok_of (by decide +kernel), by decide +kernel, ok_of (by decide +kernel), by decide +kernel, by decide +kernel, by decide +kernel,
    ok_of (by decide +kernel), by decide +kernel, rfl⟩, ready_of (by decide +kernel), ok_of (by decide +kernel)⟩

/-! Data queues and event queues. -/

/-- Queue 0 of cluster 0 in data mode with a ring of two entries; `n` entries in the hardware part, `c` in the ring. -/
def demoQueue (n c : Nat) : State :=
  (demoBlock []).modLaunch 0 (fun l => { l with tt := { l.tt with queues := [{ mode := 2, rstack := 0, rlog := 1, roff := 0x200000 }], evqd := { mode := 2, rstack := 0, rlog := 1, roff := 0x300000 } } }) |>.setQueue 0 0
    { TaskQueue.empty with data := List.replicate n (List.replicate 32 7#8), count := c }

/-- QPUSH with room in the hardware part, in the ring, and nowhere. -/
theorem witness_QueueUnitWords_push (n c : Nat) (h : (n, c) = (31, 0) ∨ (n, c) = (32, 0) ∨ (n, c) = (32, 1) ∨ (n, c) = (32, 2)) :
    let w := accCtl .always [.src .zr, .src (.s 5)]
    let s := demoQueue n c
    (s.qdesc (s.partOf aa) 0).mode = 2 ∧ Ready w aa s ∧ readBlock (ctxOf aa w s) (srcVal (s.task aa) (.s 5)) 32 (atIssue aa w s) = .ok (List.replicate 32 0#8) ∧ (s.task aa).a.kept = none ∧
    unitReady (ctxOf aa w s) true .release 0 (atIssue aa w s) = .ok () ∧ (s.queue 0 0).data.length = n ∧ (s.queue 0 0).count = c ∧ ringSize (s.qdesc (s.partOf aa) 0) = 2 ∧
    s.owned (ringAddr s (s.partOf aa) (s.qdesc (s.partOf aa) 0) 0 32 (c % 2)) = true ∧ s.Inv := by
  rcases h with h | h | h | h <;> cases h <;>
    exact ⟨by decide +kernel, ready_of (by decide +kernel), ok_of (by decide +kernel), rfl, ok_of (by decide +kernel), by decide +kernel, by decide +kernel, by decide +kernel, by decide +kernel,
      by unfold State.Inv; decide +kernel⟩

/-- A QPUSH that waits with the entry that it has read. -/
theorem witness_QueueUnitWords_kept :
    let w := accCtl .always [.src .zr, .src (.s 5)]
    let s := (demoQueue 32 2).modTask aa fun t => { t with a := { t.a with kept := some (List.replicate 32 7#8) } }
    Ready w aa s ∧ (s.task aa).a.kept = some (List.replicate 32 7#8) ∧ unitReady (ctxOf aa w s) true .release 0 (atIssue aa w s) = .ok () :=
  ⟨ready_of (by decide +kernel), rfl, ok_of (by decide +kernel)⟩

/-- QPOP and QDEPTH: a head entry, an empty queue, and a refill that is due. -/
theorem witness_QueueUnitWords_pop (n c : Nat) (h : (n, c) = (1, 0) ∨ (n, c) = (0, 0) ∨ (n, c) = (0, 1)) :
    let wo := accCtl .always [.dst (.s 4), .src .zr, .src (.s 2)]
    let wd := accCtl .always [.dst (.s 4), .src .zr]
    let s := demoQueue n c
    Ready wo aa s ∧ storesUsed (s.task aa) < 32 ∧ Reaches aa s (srcVal (s.task aa) (.s 2)) 32 .store (.byte (unitBase 0)) ∧ unitReady (ctxOf aa wo s) false .relaxed 0 (atIssue aa wo s) = .ok () ∧
    (s.queue 0 0).data.length = n ∧ (s.queue 0 0).count = c ∧ Ready wd aa s ∧ unitReady (ctxOf aa wd s) false .relaxed 0 (atIssue aa wd s) = .ok () := by
  rcases h with h | h | h <;> cases h <;>
    exact ⟨ready_of (by decide +kernel), by decide +kernel, reaches_of (by decide +kernel), ok_of (by decide +kernel), by decide +kernel, by decide +kernel, ready_of (by decide +kernel), ok_of (by decide +kernel)⟩

/-- The same of the event queue of cluster 0. -/
def demoEvents (n c : Nat) : State :=
  (demoQueue 0 0).modCluster 0 fun k => { k with evq := { k.evq with hw := List.replicate n { kind := 0xC, src := 0, stat := 0, idx := 0, data := 5#64 }, count := c } }

theorem witness_QueueUnitWords_evqpush (n c : Nat) (h : (n, c) = (127, 0) ∨ (n, c) = (128, 0) ∨ (n, c) = (128, 2)) :
    let w := accCtl .always [.src .zr, .src (.s 1)]
    let s := demoEvents n c
    Ready w aa s ∧ s.hasCluster (s.partOf aa) 0 = true ∧ unitReady (ctxOf aa w s) true .release 0 (atIssue aa w s) = .ok () ∧ (s.cluster 0).evWait = [] ∧ (s.cluster 0).evDone = [] ∧
    (s.cluster 0).evq.hw.length = n ∧ (s.cluster 0).evq.count = c ∧ ringSize (s.evqd (s.partOf aa)) = 2 ∧ s.owned (ringAddr s (s.partOf aa) (s.evqd (s.partOf aa)) 0 16 (c % 2)) = true ∧ s.Inv := by
  rcases h with h | h | h <;> cases h <;>
    exact ⟨ready_of (by decide +kernel), by decide +kernel, ok_of (by decide +kernel), rfl, rfl, by decide +kernel, by decide +kernel, by decide +kernel, by decide +kernel,
      by unfold State.Inv; decide +kernel⟩

/-- An EVQPUSH whose record has been posted from its place in line. -/
theorem witness_QueueUnitWords_evqpush_done :
    let w := accCtl .always [.src .zr, .src (.s 1)]
    let x : EvPost := { rec_ := { kind := 0xC, src := 0, stat := 0, idx := 0, data := 5#64 }, poster := .word aa }
    let s := (demoEvents 0 0).modCluster 0 fun k => { k with evDone := [x] }
    Ready w aa s ∧ s.hasCluster (s.partOf aa) 0 = true ∧ srcVal (s.task aa) (.s 1) = 5#64 ∧ x ∈ (s.cluster 0).evDone :=
  ⟨ready_of (by decide +kernel), by decide +kernel, by decide +kernel, by decide +kernel⟩

/-- EVQPUSH to cluster 64, which is no cluster of the partition; EVQPOP of a record and of nothing. -/
theorem witness_QueueUnitWords_evqpop (n : Nat) (h : n = 0 ∨ n = 1) :
    let wo := accCtl .always [.dst (.s 4), .src (.s 2)]
    let s := demoEvents n 0
    Ready (accCtl .always [.src (.s 8), .src (.s 1)]) aa s ∧ s.hasCluster (s.partOf aa) (srcVal (s.task aa) (.s 8)).toNat = false ∧
    Ready wo aa s ∧ storesUsed (s.task aa) < 32 ∧ Reaches aa s (srcVal (s.task aa) (.s 2)) 16 .store (.byte (unitBase 0)) ∧ unitReady (ctxOf aa wo s) false .relaxed 0 (atIssue aa wo s) = .ok () ∧
    (s.cluster 0).evq.hw.length = n ∧ (s.cluster 0).evq.count = 0 := by
  rcases h with rfl | rfl <;>
    exact ⟨ready_of (by decide +kernel), by decide +kernel, ready_of (by decide +kernel), by decide +kernel, reaches_of (by decide +kernel), ok_of (by decide +kernel), by decide +kernel, by decide +kernel⟩

/-! Jigs and domains. -/

/-- The launch dispatches through queue 0 and has one window; core 1 is the only member of level 4. -/
def demoJig (bs : List Byte) : State :=
  (grouped (demoBlock bs)).modLaunch 0 fun l =>
    { l with
      lrec := { l.lrec with wscount := 1 }, tt := { l.tt with queues := [{ mode := 1, rstack := 0, rlog := 1, roff := 0x200000 }] }
      dmap := [(0, 3#5), (1, 0x13#5)], group := some { pgid := 1, rank := 3, size := 4, crc := 0#32, ports := [(0, 1)] } }

/-- JPUSH of a jig with iterations here, and of one of level 4 whose three outer indices lie on ranks 0 to 2, with and without a delay. -/
theorem witness_JigAndDomainWords_jpush (d : Scalar) (level : Nat) (hd : d = .zr ∨ d = .s 1) (h : level = 0 ∨ level = 4) :
    let bs := jigBytes level 0
    let s := demoJig bs
    let w := accCtl .always [.src d, .src (.s 5), .src (.s 7)]
    let l := (s.part 0).launch.getD .empty
    Ready w aa s ∧ readBlock (ctxOf aa w s) (srcVal (s.task aa) (.s 5)) 64 (atIssue aa w s) = .ok bs ∧ (s.task aa).a.kept = none ∧ (s.part (s.partOf aa)).launch = some l ∧ (srcVal (s.task aa) d).toNat < 2 ^ 32 ∧
    jigOk s 0 l bs (.ofBytes bs) = true ∧ releaseReady (ctxOf aa w s) .device (atIssue aa w s) = .ok () ∧ l.poolFree = true ∧
    (iterations l { JigRec.ofBytes bs with arg := srcVal (s.task aa) (.s 7) }).2 = (if level = 0 then 3 else 0) := by
  rcases hd with rfl | rfl <;> rcases h with rfl | rfl <;>
    exact ⟨ready_of (by decide +kernel), ok_of (by decide +kernel), rfl, rfl, by decide +kernel, by decide +kernel, ok_of (by decide +kernel), by decide +kernel, by decide +kernel⟩

/-- The same, with a full pool. -/
theorem witness_JigAndDomainWords_full :
    let bs := jigBytes 0 0
    let s := (demoJig bs).modLaunch 0 fun l => { l with delayed := List.replicate 4096 { jrec := jrecOf 0, due := 200, slot := 0, lineage := [] } }
    let w := accCtl .always [.src .zr, .src (.s 5), .src (.s 7)]
    Ready w aa s ∧ readBlock (ctxOf aa w s) (srcVal (s.task aa) (.s 5)) 64 (atIssue aa w s) = .ok bs ∧ (s.task aa).a.kept = none ∧ releaseReady (ctxOf aa w s) .device (atIssue aa w s) = .ok () ∧
    ∃ l, (s.part (s.partOf aa)).launch = some l ∧ jigOk s 0 l bs (.ofBytes bs) = true ∧ l.poolFree = false := by
  refine ⟨ready_of (by decide +kernel), ok_of (by decide +kernel), rfl, ok_of (by decide +kernel), _, rfl, by decide +kernel, ?_⟩
  simp only [Launch.poolFree, Launch.poolUsed, List.length_replicate]
  exact decide_eq_false (by omega)

/-- Core 0 is a member of levels 0 and 1; 0 and 1 are the members of level 1. -/
def demoDomain (arrived : List Nat) (count : Nat) (wait : Option WaitFor) : State :=
  ((demoJig []).modLaunch 0 fun l => { l with phases := [(phaseKey 1 0, { count := count, arrived := arrived, ranks := [] })], dmap := [(0, 3#5), (1, 3#5)] }).modCore 0
    (fun k => { k with dmr := k.dmr ||| 0x2000000#64 }) |>.modTask aa fun t => { t with a := { t.a with wait := wait } }

/-- DARRIVE at levels 0, 1 and 2, at 5; the first to arrive, the last, and one whose phase has completed. -/
theorem witness_JigAndDomainWords_darrive :
    let w (x : Scalar) := acc .always [.dst (.s 4), .src x]
    let p (s : State) := phaseMembers s 0 ((s.part 0).launch.getD .empty) 1 0
    let s := demoDomain [] 7 none
    let t := demoDomain [1] 7 none
    let u := demoDomain [] 8 (some (.phase 1 7))
    (Ready (w .zr) aa s ∧ (s.core 0).dmr.getLsbD (24 + 0) = true ∧ releaseReady (ctxOf aa (w .zr) s) (phaseScope 0) (atIssue aa (w .zr) s) = .ok ()) ∧
    (Ready (w (.s 1)) aa s ∧ 5 ≤ (srcVal (s.task aa) (.s 1)).toNat) ∧ (Ready (w (.lit 2#32)) aa s ∧ (s.core 0).dmr.getLsbD (24 + 2) = false) ∧
    (Ready (w (.s 4)) aa s ∧ (s.core 0).dmr.getLsbD (24 + 1) = true ∧ phaseWait (s.task aa) = none ∧ (p s).all (fun m => m == 0 || [].contains m) = false ∧
      releaseReady (ctxOf aa (w (.s 4)) s) (phaseScope 1) (atIssue aa (w (.s 4)) s) = .ok ()) ∧
    (Ready (w (.s 4)) aa t ∧ phaseWait (t.task aa) = none ∧ (p t).all (fun m => m == 0 || [1].contains m) = true ∧
      releaseReady (ctxOf aa (w (.s 4)) t) (phaseScope 1) (atIssue aa (w (.s 4)) t) = .ok ()) ∧
    (Ready (w (.s 4)) aa u ∧ releaseReady (ctxOf aa (w (.s 4)) u) (phaseScope 1) (atIssue aa (w (.s 4)) u) = .ok () ∧ phaseWait (u.task aa) = some (1, 7) ∧ (((u.part 0).launch.getD .empty).phaseOf (phaseKey 1 0)).count = 8) := by
  refine ⟨⟨ready_of (by decide +kernel), by decide +kernel, ok_of (by decide +kernel)⟩, ⟨ready_of (by decide +kernel), by decide +kernel⟩, ⟨ready_of (by decide +kernel), by decide +kernel⟩,
    ⟨ready_of (by decide +kernel), by decide +kernel, by decide +kernel, by decide +kernel, ok_of (by decide +kernel)⟩,
    ⟨ready_of (by decide +kernel), by decide +kernel, by decide +kernel, ok_of (by decide +kernel)⟩, ready_of (by decide +kernel), ok_of (by decide +kernel), by decide +kernel, by decide +kernel⟩

/-! Rings: s2 names a ring of two slots. -/

/-- A ring with TKT, HEAD and its two stamps. -/
def demoRing (tkt head st0 st1 : Nat) : State :=
  placed (unitBase 0) (fields [(8, tkt), (8, head), (4, 2), (44, 0), (8, st0), (8, st1)]) demo

/-- The ring as a word finds it. -/
def ringOf (tkt head : Nat) : RingView := { base := unitBase 0, va := 0x10000#64, room := 0x4000, nslot := 2, tkt := tkt, head := head }

theorem witness_RingWords_make :
    let wi := accCtl .always [.src (.s 2), .src (.lit 2#32)]
    let wt := accCtl .always [.dst (.s 4), .src (.s 2)]
    let s := demoRing 7 5 5 6
    let r := ringOf 7 5
    s.Inv ∧ (Ready wi aa s ∧ ringReach (ctxOf aa wi s) 0x10000#64 (atIssue aa wi s) = .ok r ∧ ringFits r 2 (atIssue aa wi s) = .ok () ∧
      ringWritable (ctxOf aa wi s) r r.base 20 (atIssue aa wi s) = .ok () ∧ ringWritable (ctxOf aa wi s) r (r.base + 0x40) 16 (atIssue aa wi s) = .ok ()) ∧
    (Ready wt aa s ∧ ringReach (ctxOf aa wt s) 0x10000#64 (atIssue aa wt s) = .ok r ∧ ringSound r (atIssue aa wt s) = .ok () ∧ ringWritable (ctxOf aa wt s) r r.base 8 (atIssue aa wt s) = .ok ()) :=
  ⟨by unfold State.Inv; decide +kernel, ⟨ready_of (by decide +kernel), ok_of (by decide +kernel), ok_of (by decide +kernel), ok_of (by decide +kernel), ok_of (by decide +kernel)⟩,
    ready_of (by decide +kernel), ok_of (by decide +kernel), ok_of (by decide +kernel), ok_of (by decide +kernel)⟩

/-- Ticket 5 with HEAD 5: a free slot, a filled one; with HEAD 3 the ring has no room for it; with HEAD 6 it is past. -/
theorem witness_RingWords_fill (head stamp : Nat) (h : (head, stamp) = (5, 4) ∨ (head, stamp) = (5, 5) ∨ (head, stamp) = (3, 4) ∨ (head, stamp) = (6, 4)) :
    let w := accCtl .always [.src (.s 1), .src (.s 2), .src (.s 3)]
    let s := demoRing 7 head 0 stamp
    let r := ringOf 7 head
    s.Inv ∧ Ready w aa s ∧ ringReach (ctxOf aa w s) 0x10000#64 (atIssue aa w s) = .ok r ∧ releaseReady (ctxOf aa w s) .device (atIssue aa w s) = .ok () ∧ ringSound r (atIssue aa w s) = .ok () ∧
    ringWritable (ctxOf aa w s) r (payloadAddr r (5 % 2)) 32 (atIssue aa w s) = .ok () ∧ ringWritable (ctxOf aa w s) r (stampAddr r (5 % 2)) 8 (atIssue aa w s) = .ok () ∧ (s.task aa).a.kept = none ∧
    readBlock (ctxOf aa w s) (srcVal (s.task aa) (.s 3)) 32 (atIssue aa w s) = .ok (List.replicate 32 0#8) ∧ (srcVal (s.task aa) (.s 1)).toNat = 5 ∧ s.value (stampAddr r (5 % 2)) 8 = stamp ∧
    readTrap (atIssue aa w s) aa (innerElem (r.va + BitVec.ofNat 64 (stampAddr r (5 % 2) - r.base)) (.byte (stampAddr r (5 % 2))) 8) = none := by
  rcases h with h | h | h | h <;> cases h <;>
    exact ⟨by unfold State.Inv; decide +kernel, ready_of (by decide +kernel), ok_of (by decide +kernel), ok_of (by decide +kernel), ok_of (by decide +kernel), ok_of (by decide +kernel), ok_of (by decide +kernel),
      rfl, ok_of (by decide +kernel), by decide +kernel, by decide +kernel, by decide +kernel⟩

/-- HEAD 5: its slot is filled, or not. -/
theorem witness_RingWords_get (stamp : Nat) (h : stamp = 5 ∨ stamp = 4) :
    let w := accCtl .always [.dst (.s 4), .src (.s 2), .src (.s 3)]
    let s := demoRing 7 5 0 stamp
    let r := ringOf 7 5
    s.Inv ∧ Ready w aa s ∧ ringReach (ctxOf aa w s) 0x10000#64 (atIssue aa w s) = .ok r ∧ storesUsed (s.task aa) < 32 ∧ Reaches aa s 0x100000#64 32 .store (.byte 0) ∧
    ringSound r (atIssue aa w s) = .ok () ∧ ringWritable (ctxOf aa w s) r (stampAddr r (r.head % r.nslot)) 8 (atIssue aa w s) = .ok () ∧
    ringWritable (ctxOf aa w s) r (r.base + 8) 8 (atIssue aa w s) = .ok () ∧ s.value (stampAddr r (r.head % r.nslot)) 8 = stamp ∧
    readTrap (atIssue aa w s) aa (innerElem (r.va + BitVec.ofNat 64 (stampAddr r (r.head % r.nslot) - r.base)) (.byte (stampAddr r (r.head % r.nslot))) 8) = none ∧
    (∀ k, k < 4 → readTrap (atIssue aa w s) aa (innerElem (r.va + BitVec.ofNat 64 (payloadAddr r (r.head % r.nslot) + 8 * k - r.base)) (.byte (payloadAddr r (r.head % r.nslot) + 8 * k)) 8) = none) := by
  rcases h with rfl | rfl <;>
    exact ⟨by unfold State.Inv; decide +kernel, ready_of (by decide +kernel), ok_of (by decide +kernel), by decide +kernel, reaches_of (by decide +kernel), ok_of (by decide +kernel), ok_of (by decide +kernel),
      ok_of (by decide +kernel), by decide +kernel, by decide +kernel, by decide +kernel⟩

/-! What the words refuse. -/

/-- Queue 1, which is in no mode, and queue 64, which does not exist; s1 holds 5, which is no multiple of 16 or more. -/
theorem witness_RefusedOperandsTrap_queue (x : Scalar) (h : x = .s 4 ∨ x = .s 8) :
    let s := demoQueue 0 0
    let wp (y : Scalar) := accCtl .always [.src x, .src y]
    let wo (y : Scalar) := accCtl .always [.dst (.s 11), .src x, .src y]
    let X := srcVal (s.task aa) x
    (16 ≤ X.toNat ∨ (s.qdesc (s.partOf aa) X.toNat).mode ≠ 2) ∧ (Ready (wp (.s 5)) aa s ∧ (s.task aa).a.kept = none ∧ readBlock (ctxOf aa (wp (.s 5)) s) 0x10040#64 32 (atIssue aa (wp (.s 5)) s) = .ok (List.replicate 32 0#8)) ∧
    (Ready (wo (.s 2)) aa s ∧ storesUsed (s.task aa) < 32 ∧ Reaches aa s 0x10000#64 32 .store (.byte (unitBase 0))) ∧ Ready (accCtl .always [.dst (.s 11), .src x]) aa s ∧
    Ready (wp (.s 1)) aa s ∧ Ready (wo (.s 1)) aa s ∧ (srcVal (s.task aa) (.s 1)).toNat % 32 ≠ 0 := by
  rcases h with rfl | rfl <;>
    exact ⟨by decide +kernel, ⟨ready_of (by decide +kernel), rfl, ok_of (by decide +kernel)⟩, ⟨ready_of (by decide +kernel), by decide +kernel, reaches_of (by decide +kernel)⟩, ready_of (by decide +kernel),
      ready_of (by decide +kernel), ready_of (by decide +kernel), by decide +kernel⟩

/-- A delay of 2^64 - 1 ticks; a record of zeros; a record at an address of 5. -/
theorem witness_RefusedOperandsTrap_jpush (v : Scalar) (bs : List Byte) (h : (v, bs) = (.s 7, jigBytes 0 0) ∨ (v, bs) = (.zr, List.replicate 64 0#8)) :
    let s := demoJig bs
    let w (x : Scalar) := accCtl .always [.src v, .src x, .src (.s 3)]
    ∃ l, (s.part (s.partOf aa)).launch = some l ∧ Ready (w (.s 5)) aa s ∧ (s.task aa).a.kept = none ∧ readBlock (ctxOf aa (w (.s 5)) s) 0x10040#64 64 (atIssue aa (w (.s 5)) s) = .ok bs ∧
      (2 ^ 32 ≤ (srcVal (s.task aa) v).toNat ∨ jigOk s 0 l bs (.ofBytes bs) = false) ∧ Ready (w (.s 1)) aa s ∧ (srcVal (s.task aa) (.s 1)).toNat % 64 ≠ 0 := by
  rcases h with h | h <;> cases h <;>
    exact ⟨_, rfl, ready_of (by decide +kernel), rfl, ok_of (by decide +kernel), by decide +kernel, ready_of (by decide +kernel), by decide +kernel⟩

/-- Rings of three slots, of 1,024 slots in 16 KiB, and with a reserved byte; RNGINIT of five slots and of 1,024. -/
theorem witness_RefusedOperandsTrap_ring (nslot reserved : Nat) (y : Scalar) (h : (nslot, reserved, y) = (3, 0, .s 1) ∨ (nslot, reserved, y) = (1024, 0, .lit 1024#32) ∨ (nslot, reserved, y) = (2, 1, .s 1)) :
    let s := placed (unitBase 0) (fields [(16, 0), (4, nslot), (4, reserved), (40, 0)]) demo
    let r : RingView := { ringOf 0 0 with nslot := nslot }
    let wd := accCtl .always [.dst (.s 4), .src (.s 2)]
    let wj := accCtl .always [.src (.s 1), .src (.s 2), .src (.s 3)]
    let wo := accCtl .always [.dst (.s 4), .src (.s 2), .src (.s 3)]
    let wp := accCtl .always [.src (.s 2), .src y]
    let Reach (w : WordInfo) : Prop := Ready w aa s ∧ ringReach (ctxOf aa w s) 0x10000#64 (atIssue aa w s) = .ok r
    (((∀ k, k ≤ 16 → nslot ≠ 2 ^ k) ∨ r.room < 0x40 + 40 * nslot) ∨ ∃ b ∈ s.bytes (r.base + 0x14) 44, b ≠ 0#8) ∧ Reach wd ∧
    (Reach wj ∧ (s.task aa).a.kept = none ∧ readBlock (ctxOf aa wj s) 0x100000#64 32 (atIssue aa wj s) = .ok (List.replicate 32 0#8) ∧ releaseReady (ctxOf aa wj s) .device (atIssue aa wj s) = .ok ()) ∧
    (Reach wo ∧ storesUsed (s.task aa) < 32 ∧ Reaches aa s 0x100000#64 32 .store (.byte 0)) ∧
    (Reach wp ∧ ((∀ k, k ≤ 16 → (srcVal (s.task aa) y).toNat ≠ 2 ^ k) ∨ r.room < 0x40 + 40 * (srcVal (s.task aa) y).toNat)) := by
  rcases h with h | h | h <;> cases h <;>
    exact ⟨by decide +kernel, ⟨ready_of (by decide +kernel), ok_of (by decide +kernel)⟩, ⟨⟨ready_of (by decide +kernel), ok_of (by decide +kernel)⟩, rfl, ok_of (by decide +kernel), ok_of (by decide +kernel)⟩,
      ⟨⟨ready_of (by decide +kernel), ok_of (by decide +kernel)⟩, by decide +kernel, reaches_of (by decide +kernel)⟩, ⟨ready_of (by decide +kernel), ok_of (by decide +kernel)⟩, by decide +kernel⟩

/-- A copy word's first fault: a bit above 19, AUTO with an engine, a multicast set of a CPT, a multicast into die memory, a scaled source of a CPC, a plane of a CPT, barrier 16,383, and one of cluster 1. -/
theorem witness_RefusedOperandsTrap_copy (op : CopyOp) (y : Scalar) (bs : List Byte) (first : Nat)
    (h : (op, y, bs, first) ∈ [(CopyOp.cpt, Scalar.s 7, copyBytes 64 0 0 0x11000, 0), (.cpt, .lit 0x50000#32, copyBytes 64 0 0 0x11000, 0), (.cpt, .zr, copyBytes 64 0 3 0x11000, 1), (.cpm, .zr, copyBytes 64 0 3 0x100000, 1),
      (.cpc, .zr, copyBytes 64 0x13 0 0x11000, 2), (.cpt, .zr, (copyBytes 64 0 0 0x11000).take 48 ++ fields [(8, 64), (8, 0)], 3), (.cpt, .lit 0x7FFF#32, copyBytes 64 0 0 0x11000, 4),
      (.cpt, .lit 0x4040#32, copyBytes 64 0 0 0x11000, 4)]) :
    let s := demoBlock bs
    let w := acc .always [.src (.s 5), .src y]
    let e := CopyDesc.ofBytes bs
    let Y := srcVal (s.task aa) y
    let Sound : Prop := Y.toNat < 2 ^ 20 ∧ (Y.getLsbD 18 = true → (Y.extractLsb' 16 2).toNat = 0)
    let Fine : Prop := fieldsOk bs op e = true ∧ shapeOk s 0 op e = true ∧ (op = .cpm → multicastOk (s.task aa).window e = true)
    Ready w aa s ∧ (s.task aa).a.kept = none ∧ readBlock (ctxOf aa w s) 0x10040#64 64 (atIssue aa w s) = .ok bs ∧ (Sound ↔ first ≠ 0) ∧ (2 ≤ first → Fine) ∧ (first = 1 → ¬ Fine) ∧
      (2 < first ∧ entriesOk s 0 op e = true ∨ first < 2 ∨ first = 2 ∧ entriesOk s 0 op e = false) ∧ (3 < first ∧ planeOk s 0 op e = true ∨ first < 3 ∨ first = 3 ∧ planeOk s 0 op e = false) ∧
      (first = 4 → Y.getLsbD 14 = true ∧ (12288 ≤ (Y.extractLsb' 0 14).toNat ∨ s.hasCluster 0 ((Y.extractLsb' 0 14).toNat / 64) = false)) ∧
      Ready (acc .always [.src (.s 1), .src y]) aa s ∧ (srcVal (s.task aa) (.s 1)).toNat % 64 ≠ 0 := by
  simp only [List.mem_cons, Prod.mk.injEq, List.not_mem_nil, or_false] at h
  rcases h with ⟨rfl, rfl, rfl, rfl⟩ | ⟨rfl, rfl, rfl, rfl⟩ | ⟨rfl, rfl, rfl, rfl⟩ | ⟨rfl, rfl, rfl, rfl⟩ | ⟨rfl, rfl, rfl, rfl⟩ | ⟨rfl, rfl, rfl, rfl⟩ | ⟨rfl, rfl, rfl, rfl⟩ | ⟨rfl, rfl, rfl, rfl⟩ <;>
    exact ⟨ready_of (by decide +kernel), rfl, ok_of (by decide +kernel), by decide +kernel, by decide +kernel, by decide +kernel, by decide +kernel, by decide +kernel, by decide +kernel, ready_of (by decide +kernel),
      by decide +kernel⟩

/-- Messages: a control word that is none, a length of 0, a port that the partition does not own, barrier 16,383. -/
theorem witness_RefusedOperandsTrap_message (kerf : Bool) (y : Scalar) (len first : Nat) (h : (y, len, first) = (.s 7, 256, 0) ∨ (y, len, first) = (.zr, 0, 1) ∨ (y, len, first) = (.zr, 256, 2) ∨ (y, len, first) = (.lit 0x7FFF#32, 256, 3)) :
    let bs := fields [(8, 0x10000), (4, len), (4, 9), (2, 0), (2, if kerf then 1 else 0), (12, 0)]
    let s := if first = 2 then demoBlock bs else grouped (demoBlock bs)
    let w := acc .always [.src (.s 5), .src y]
    let Y := srcVal (s.task aa) y
    Ready w aa s ∧ (s.task aa).a.kept = none ∧ readBlock (ctxOf aa w s) 0x10040#64 32 (atIssue aa w s) = .ok bs ∧ ((Y.toNat < 2 ^ 20 ∧ (Y.getLsbD 18 = true → (Y.extractLsb' 16 2).toNat = 0)) ↔ first ≠ 0) ∧
      (msgDescOk kerf bs = true ↔ first ≠ 1) ∧ (portOk s 0 (leValue ((bs.drop 0x10).take 1)) = true ↔ first ≠ 2) ∧ (first = 3 → Y.getLsbD 14 = true ∧ 12288 ≤ (Y.extractLsb' 0 14).toNat) ∧
      Ready (acc .always [.src (.s 1), .src y]) aa s ∧ (srcVal (s.task aa) (.s 1)).toNat % 32 ≠ 0 := by
  cases kerf <;> rcases h with h | h | h | h <;> cases h <;>
    exact ⟨ready_of (by decide +kernel), rfl, ok_of (by decide +kernel), by decide +kernel, by decide +kernel, by decide +kernel, by decide +kernel, ready_of (by decide +kernel), by decide +kernel⟩

/-- AMTSET of a port that is not the partition's, with a reserved bit in b, and with a length of 0; AMTCLR with a reserved bit. -/
theorem witness_RefusedOperandsTrap_table (y : W32) (len : Nat) (h : (y, len) = (0x101#32, 256) ∨ (y, len) = (0x108#32, 256) ∨ (y, len) = (0x100#32, 0)) :
    let bs := fields [(4, 9), (4, len), (8, 0x10000), (8, 0x10800), (8, 0), (8, 5), (8, 0), (1, 1), (15, 0)]
    let s := grouped (demoBlock bs)
    let w := acc .always [.src (.s 5), .src (.lit y)]
    let s0 := atIssue aa w s
    (Ready w aa s ∧ (s.task aa).a.kept = none ∧ readBlock (ctxOf aa w s) 0x10040#64 64 s0 = .ok bs ∧ storable? (s0.view aa) (fieldOf bs 8 8) (fieldOf bs 4 4) s0 = .ok () ∧
      storable? (s0.view aa) (fieldOf bs 0x10 8) (statusSize (fieldOf bs 4 4)) s0 = .ok () ∧ (portOk s 0 (y.toNat % 8) = false ↔ y = 0x101#32) ∧
      (entryNameOk y.toNat = false ∨ templateFieldsOk bs = false ∨ y = 0x101#32)) ∧ (Ready (acc .always [.src (.lit 8#32)]) aa s ∧ entryNameOk 8 = false) ∧
      Ready (acc .always [.src (.s 1), .src (.lit y)]) aa s := by
  rcases h with h | h | h <;> cases h <;>
    exact ⟨⟨ready_of (by decide +kernel), rfl, ok_of (by decide +kernel), ok_of (by decide +kernel), ok_of (by decide +kernel), by decide +kernel, by decide +kernel⟩, ⟨ready_of (by decide +kernel), by decide +kernel⟩,
      ready_of (by decide +kernel)⟩

/-! System words. -/

/-- SRRD and FRAMERD of every register, by an access stream, an execute stream and a control core. -/
theorem witness_SystemWords_read (n : BitVec 6) (hn : n ∈ [0#6, 1#6, 4#6, 5#6, 6#6, 7#6, 8#6]) :
    let w : WordInfo := { both .always [.dst .zr] with shape := srReadable .access n }
    Ready w aa demo ∧ (n.toNat ≤ 2 → Ready { both .always [.dst (.s 4)] with shape := decide (n.toNat ≤ 2) } aa demo) := by
  simp only [List.mem_cons, List.not_mem_nil, or_false] at hn
  rcases hn with rfl | rfl | rfl | rfl | rfl | rfl | rfl <;>
    exact ⟨ready_of (by decide +kernel), fun h => by first | exact ready_of (by decide +kernel) | exact absurd h (by decide)⟩

theorem witness_SystemWords_vector (n : BitVec 6) (hn : n = 2#6 ∨ n = 3#6 ∨ n = 8#6) :
    Ready { both .always [.dst (.s 48)] with shape := srReadable .execute n } ax demoX ∧ Ready { both .always [.src (.lit 0x7FF#32)] with shape := srReadable .execute n } ax demoX := by
  rcases hn with rfl | rfl | rfl <;> exact ⟨ready_of (by decide +kernel), ready_of (by decide +kernel)⟩

/-- A control core of cluster 0; the frame's first tick is past; writes of the access stream. -/
theorem witness_SystemWords_others :
    (let s := { demo.modCluster 0 (fun k => { k with ctl := some demoTask }) with cur := .control 0 }
     Ready { both .always [.dst (.s 4)] with shape := srReadable s.cur.kind 4#6 } (.control 0) s ∧ Ready { both .always [.dst (.s 4)] with shape := srReadable s.cur.kind 8#6 } (.control 0) s) ∧
    demo.reached (((demo.part 0).launch.getD .empty).frameStart ((demo.part 0).launch.getD .empty).frame) = true ∧ Ready { both .always [.src (.s 1)] with shape := srReadable .access 0#6 } aa demo := by
  exact ⟨⟨ready_of (by decide +kernel), ready_of (by decide +kernel)⟩, by decide +kernel, ready_of (by decide +kernel)⟩

/-- TICKWT of tick 100, which it is, of 101, and of 2^64 - 1. -/
theorem witness_SystemWords_tickwt :
    let w (x : Scalar) := accCtl .always [.src x]
    (Ready (w (.lit 100#32)) aa demo ∧ (srcVal (demo.task aa) (.lit 100#32)).toNat ≤ demo.modl.frame) ∧
    (Ready (w (.lit 101#32)) aa demo ∧ demo.modl.frame < (srcVal (demo.task aa) (.lit 101#32)).toNat ∧ (srcVal (demo.task aa) (.lit 101#32)).toNat < 2 ^ 48) ∧
    (Ready (w (.s 7)) aa demo ∧ 2 ^ 48 ≤ (srcVal (demo.task aa) (.s 7)).toNat) :=
  ⟨⟨ready_of (by decide +kernel), by decide +kernel⟩, ⟨ready_of (by decide +kernel), by decide +kernel, by decide +kernel⟩, ready_of (by decide +kernel), by decide +kernel⟩

/-- SVCQ names die memory of stack 0 at 0x200000. -/
def demoService (svc : List SvcReq) (wait : Option WaitFor) : State :=
  (demo.modPart 0 fun p => { p with svc := svc, regs := { p.regs with svcq := 0x3000000000200001#64 } }).modTask aa fun t => { t with a := { t.a with wait := wait } }

/-- SYSCALL 5: slot 0 is free; the request stands in slot 0, answered or not. -/
theorem witness_SystemWords_syscall :
    let w := accCtl .always [.dst (.s 4), .src (.s 1), .src (.s 7)]
    let s := demoService [] none
    let req (done : Bool) : SvcReq := { slot := 0, core := some 0, task := 0x0000000700000005#64, arg := 0#64, code := 5, done := done }
    let x : Access := { innerAccess (ctxOf aa w s) .release .system (innerElem 0#64 (.byte lpBase) 0) with op := .store }
    (Ready w aa s ∧ slotAddr s 0 0 = some 0x200000 ∧ bitOf (s.part 0).regs.svcq.toNat 0 = true ∧ (srcVal (s.task aa) (.s 1)).toNat < 2 ^ 16 ∧ s.owned (0x200000 + 32 * 0) = true ∧
      heldSlot (s.task aa) = none ∧ s.Inv ∧ freeService s 0 = some 0 ∧ s.owned ((slotAddr s 0 0).getD 0) = true ∧
      marksAllow aa (s.task aa) x (innerElem 0#64 (.byte lpBase) 0) = true ∧ accessesAllow aa (s.task aa) x (innerElem 0#64 (.byte lpBase) 0) = true) ∧
    (let u := demoService [req true] (some (.service (some 0)))
     Ready w aa u ∧ heldSlot (u.task aa) = some 0 ∧ (u.part 0).svc.find? (·.slot == 0) = some (req true) ∧ (req true).done = true ∧ u.eccHit (0x200000 + 32 * 0 + 0x18) 8 = false) ∧
    (let u := demoService [req false] (some (.service (some 0)))
     Ready w aa u ∧ heldSlot (u.task aa) = some 0 ∧ (u.part 0).svc.find? (·.slot == 0) = some (req false) ∧ (req false).done = false) := by
  exact ⟨⟨ready_of (by decide +kernel), by decide +kernel, by decide +kernel, by decide +kernel, by decide +kernel, by decide +kernel, by unfold State.Inv; decide +kernel, by decide +kernel,
      by decide +kernel, by decide +kernel, by decide +kernel⟩, ⟨ready_of (by decide +kernel), by decide +kernel, by decide +kernel, rfl, by decide +kernel⟩,
    ready_of (by decide +kernel), by decide +kernel, by decide +kernel, rfl⟩

end Sys2Proof.Tests
end

