-- ==== Sys2Proof/Tests/WitnessVector.lean ====
section
/-! SUPPORT. Witnesses of the hypotheses of the statements about vector words and about the words that send commands to the engines. -/

set_option Elab.async false

namespace Sys2Proof.Tests

open Sys2Proof Sys2Proof.Machine

/-- The execute stream has the turn; groups of two registers, VL 1500; an entry in vq0 and in vq1. -/
def demoGroups : State :=
  (demoWith { demoTask with q := { demoTask.q with vq := [(0, [{ seq := 0, data := [(0, 5#32)], ready := true }]), (1, [{ seq := 1, data := [(1, 6#32)], ready := true }])] }, a := { demoTask.a with seq := 2 } } ax).modCore 0
    fun k => { k with vec := { k.vec with v := [(2, [(0, 0x40000000#32), (1, 0x7FC00000#32)]), (3, [(5, 9#32)])], m := [(0, 5#1024), (2, 3#1024)], vcfg := 0x1000005DC#64 } }

theorem witness_Landed : Landed (demoGroups.task ax) ∧ cfgLG (demoGroups.core 0).vec.vcfg = 1 ∧ cfgVL (demoGroups.core 0).vec.vcfg = 1500 := ⟨landed_of rfl, by decide +kernel, by decide +kernel⟩

/-- Groups, a queue operand and a push to vqs; and a register that names no group. -/
theorem witness_VectorIntegerWords :
    let s := demoGroups
    let k := (s.core 0).vec.vcfg
    (Ready (exe .always [.vdst (.v 4), .vsrc (.v 2), .vsrc (.v 6)]) ax s ∧ Grouped k [.v 4, .v 2, .v 6]) ∧
    (Ready (exe .always [.vdst .vqs, .vsrc (.vq 0), .vsrc (.vq 1)]) ax s ∧ Grouped k [.vqs, .vq 0, .vq 1]) ∧
    (Ready (exe .always [.vdst (.v 3), .vsrc (.v 2), .vsrc (.v 6)]) ax s ∧ groupedB k [.v 3, .v 2, .v 6] = false) ∧ Landed (s.task ax) :=
  ⟨⟨ready_of (by decide +kernel), grouped_of (by decide +kernel)⟩, ⟨ready_of (by decide +kernel), grouped_of (by decide +kernel)⟩, ⟨ready_of (by decide +kernel), by decide +kernel⟩, landed_of rfl⟩

theorem witness_VectorFloatWords :
    let s := demoGroups
    let k := (s.core 0).vec.vcfg
    Landed (s.task ax) ∧ (Ready (exe .always [.vdst .vqs, .vsrc (.vq 0), .vsrc (.v 2)]) ax s ∧ Grouped k [.vqs, .vq 0, .v 2]) ∧
    (Ready (exe .always [.vrw (.v 4), .vsrc (.v 2), .vsrc (.vq 1)]) ax s ∧ Grouped k [.v 4, .v 2, .vq 1]) ∧ (Ready (exe .always [.vdst (.v 2), .vsrc (.v 2)]) ax s ∧ Grouped k [.v 2, .v 2]) :=
  ⟨landed_of rfl, ⟨ready_of (by decide +kernel), grouped_of (by decide +kernel)⟩, ⟨ready_of (by decide +kernel), grouped_of (by decide +kernel)⟩, ready_of (by decide +kernel), grouped_of (by decide +kernel)⟩

theorem witness_VectorCompareWords :
    let s := demoGroups
    let k := (s.core 0).vec.vcfg
    Landed (s.task ax) ∧ (Ready (exe .always [.mdst 6, .vsrc (.v 2), .vsrc (.vq 0)]) ax s ∧ Grouped k [.v 2, .vq 0] ∧ (6 : MReg).val % 2 ^ cfgLG k = 0) ∧
    Ready (exe .always [.mdst 6, .msrc 0, .msrc 2]) ax s ∧ (0 : MReg).val % 2 ^ cfgLG k = 0 ∧ (2 : MReg).val % 2 ^ cfgLG k = 0 ∧ Ready (exe .always [.mdst 6, .msrc 0]) ax s ∧
    Ready (exe .always [.mdst 6]) ax s :=
  ⟨landed_of rfl, ⟨ready_of (by decide +kernel), grouped_of (by decide +kernel), by decide +kernel⟩, ready_of (by decide +kernel), by decide +kernel, by decide +kernel, ready_of (by decide +kernel),
    ready_of (by decide +kernel)⟩

/-- CVTF names entry 2 of the format table, which is FP16 or its like, and entry 12, which is not valid. -/
theorem witness_VectorMoveWords :
    let s := demoGroups
    let k := (s.core 0).vec.vcfg
    let s2 := s.modCore 0 fun c => { c with vec := { c.vec with vcfg := 0x21000005DC#64 } }
    let s12 := s.modCore 0 fun c => { c with vec := { c.vec with vcfg := 0xC1000005DC#64 } }
    Landed (s.task ax) ∧ (Ready (exe .always [.vdst .vqs, .vsrc (.v 2)]) ax s ∧ Grouped k [.vqs, .v 2]) ∧
    (Ready (vvInfo .always (.v 4) (.v 2) []) ax s2 ∧ Grouped (s2.core 0).vec.vcfg [.v 4, .v 2] ∧ (cvtFormat s2 ax).isSome = true) ∧
    (Ready (vvInfo .always (.v 4) (.v 2) []) ax s12 ∧ Grouped (s12.core 0).vec.vcfg [.v 4, .v 2] ∧ cvtFormat s12 ax = none) ∧
    Ready (vvInfo .always (.v 4) (.v 2) [.src (.lit 3#32)]) ax s ∧ (Ready (exe .always [.vdst .vqs, .src (.lit 7#32)]) ax s ∧ Grouped k [.vqs]) ∧
    (let t := demoWith { demoTask with regs := [(48, 0x10000000000#64), (49, 0xD00000200#64)] } ax
     Ready (exe .always [.src (.s 48)]) ax t ∧ (xVal (t.task ax) (.s 48)).toNat / 2 ^ 40 ≠ 0 ∧ Ready (exe .always [.src (.s 49)]) ax t ∧ (xVal (t.task ax) (.s 49)).toNat / 2 ^ 40 = 0) :=
  ⟨landed_of rfl, ⟨ready_of (by decide +kernel), grouped_of (by decide +kernel)⟩, ⟨ready_of (by decide +kernel), grouped_of (by decide +kernel), by decide +kernel⟩,
    ⟨ready_of (by decide +kernel), grouped_of (by decide +kernel), by decide +kernel⟩, ready_of (by decide +kernel), ⟨ready_of (by decide +kernel), grouped_of (by decide +kernel)⟩,
    ready_of (by decide +kernel), by decide +kernel, ready_of (by decide +kernel), by decide +kernel⟩

/-- VREDI on 2.0 and a NaN; on one whose elements below VL are all NaNs, VL being 1. -/
theorem witness_VectorReductionWords :
    let s := demoGroups
    let k := (s.core 0).vec.vcfg
    let t := s.modCore 0 fun c => { c with vec := { c.vec with vcfg := 1#64, v := [(2, [(0, 0x7FC00001#32)])] } }
    Landed (s.task ax) ∧ Grouped k [.v 4, .v 2] ∧ Ready (vvInfo .always (.v 4) (.v 2) [.dst (.s 48)]) ax s ∧ Ready (vvInfo .always (.v 4) (.v 2) [.src (.lit 3#32)]) ax s ∧
    Ready (vvInfo .always (.v 4) (.v 2) []) ax s ∧
    (let u := s.modCore 0 fun c => { c with vec := { c.vec with vcfg := 2#64, v := [(2, [(0, 0x40000000#32), (1, 0x7FC00000#32)])] } }
     let X := vElem (u.core 0).vec 2
     Ready (vvInfo .always (.v 4) (.v 2) [.dst .zr]) ax u ∧ vBelow (u.core 0).vec.vcfg = 2 ∧ (fp32 (X 0)).isNaN = false ∧
       (∀ f, f < 2 → (fp32 (X f)).isNaN = false → fltSigned (fp32 (X 0)) (fp32 (X f)) = false) ∧ (∀ f, f < 0 → (fp32 (X f)).isNaN = false → fltSigned (fp32 (X f)) (fp32 (X 0)) = true)) ∧
    (Ready (vvInfo .always (.v 4) (.v 2) [.dst (.s 48)]) ax t ∧ vBelow (t.core 0).vec.vcfg = 1 ∧ (fp32 (vElem (t.core 0).vec 2 0)).isNaN = true) :=
  ⟨landed_of rfl, grouped_of (by decide +kernel), ready_of (by decide +kernel), ready_of (by decide +kernel), ready_of (by decide +kernel),
    ⟨ready_of (by decide +kernel), by decide +kernel, by decide +kernel, by decide +kernel, by decide +kernel⟩, ready_of (by decide +kernel), by decide +kernel, by decide +kernel⟩

theorem witness_TileAndLatchWords :
    let s := demoGroups
    let k := (s.core 0).vec.vcfg
    Landed (s.task ax) ∧ Ready { exe .always [.tdst 1, .vsrc (.v 3)] with shape := (VReg.v 3).isV } ax s ∧ Ready { exe .always [.vdst (.v 3), .tsrc 1] with shape := (VReg.v 3).isV } ax s ∧
    (Ready (exe .always [.ldst 2, .vsrc (.vq 0)]) ax s ∧ Grouped k [.vq 0]) ∧ (Ready (exe .always [.vdst (.v 2), .lsrc 2]) ax s ∧ Grouped k [.v 2]) ∧ Ready (exe .always [.vdst .vqs, .lsrc 2]) ax s ∧
    Ready (exe .always [.ldst 2]) ax s :=
  ⟨landed_of rfl, ready_of (by decide +kernel), ready_of (by decide +kernel), ⟨ready_of (by decide +kernel), grouped_of (by decide +kernel)⟩,
    ⟨ready_of (by decide +kernel), grouped_of (by decide +kernel)⟩, ready_of (by decide +kernel), ready_of (by decide +kernel)⟩

theorem witness_KerfWords :
    let s := demoGroups
    let k := (s.core 0).vec.vcfg
    Landed (s.task ax) ∧ (2 : MReg).val % 2 ^ cfgLG k = 0 ∧ Grouped k [.v 4, .v 2] ∧ Ready { exe .always [.vdst (.v 4), .vsrc (.v 2), .msrc 2] with shape := (VReg.v 4).isV && (VReg.v 2).isV } ax s ∧
    Ready { exe .always [.vdst (.v 4), .msrc 2] with shape := (VReg.v 4).isV } ax s ∧ Ready { exe .always [.mdst 2, .vsrc (.v 4)] with shape := (VReg.v 4).isV } ax s :=
  ⟨landed_of rfl, by decide +kernel, grouped_of (by decide +kernel), ready_of (by decide +kernel), ready_of (by decide +kernel), ready_of (by decide +kernel)⟩

/-! Words that send commands. -/

/-- Memory of the unit scratchpad from 0x10040 on. -/
def demoCommand (bs : List Byte) : State := placed (unitBase 0 + 0x40) bs demoEngines

theorem witness_BucketWords_plain :
    let s := demoEngines
    let b := (s.core 0).eng.bk
    let w0 := cmdInfo .always [] false
    let full := s.modBk 0 fun e => { e with queue := List.replicate 4 { tag := demoTag, op := .rst, depth := 1, writes := [] } }
    let shallow := s.modLaunch 0 fun l => { l with jigs := [(0, jigOf 0)] }
    let stopped := s.modBk 0 fun e => { e with run := false }
    Landed (s.task ax) ∧ Ready w0 ax s ∧ (b.queue.length < 4 ∧ b.run = true) ∧ bkDepth b + 36 ≤ maxDepth 0 s ∧ (Ready w0 ax shallow ∧ maxDepth 0 shallow < bkDepth (shallow.core 0).eng.bk + 1) ∧
    (Ready w0 ax full ∧ 4 ≤ (full.core 0).eng.bk.queue.length) ∧ (Ready w0 ax stopped ∧ (stopped.core 0).eng.bk.run = false) ∧
    (Ready (cmdInfo .always [.s 50] false) ax s ∧ (xVal (s.task ax) (.s 50)).toNat < 2) :=
  ⟨landed_of rfl, ready_of (by decide +kernel), by decide +kernel, by decide +kernel, ⟨ready_of (by decide +kernel), by decide +kernel⟩, ⟨ready_of (by decide +kernel), by decide +kernel⟩,
    ⟨ready_of (by decide +kernel), by decide +kernel⟩, ready_of (by decide +kernel), by decide +kernel⟩

/-- BKDRAIN to 0x10000, with a stride of 512 bytes and CLR. -/
theorem witness_BucketWords_drain :
    let s := demoEngines
    let w := cmdInfo .always [.s 49, .lit 0x2000001#32] true
    let s2 := sending w ax s [.s 49, .lit 0x2000001#32]
    let Y := xVal (s.task ax) (.lit 0x2000001#32)
    Ready w ax s ∧ Commits 0 s 8192 ∧ Y.toNat < 2 ^ 40 ∧ (Y.extractLsb' 2 14).toNat = 0 ∧ (Y.extractLsb' 16 24).toNat = 512 ∧ bkDepth (s.core 0).eng.bk + 64 ≤ maxDepth 0 s ∧
    (∀ i, i < 2048 / 128 → (s2.view ax).check s2 ((xVal (s.task ax) (.s 49)).toNat + i * 512) (4 * 128) .engineStore = .ok ()) :=
  ⟨ready_of (by decide +kernel), .inl rfl, by decide +kernel, by decide +kernel, by decide +kernel, by decide +kernel, fun i hi => ok_of (by revert i; decide +kernel)⟩

/-- BKRUN of a bank tile of one bit and groups of 32, with the activation format of entry 8. -/
theorem witness_BucketWords_run :
    let d := fields [(8, 0x300000), (8, 0x10000), (8, 0x10000), (4, 0), (1, 8), (1, 9), (34, 0)]
    let s := placed (bankBase 0 0) (fields [(1, 2), (1, 1), (1, 0), (1, 1), (4, 10112)]) (demoCommand d)
    let w := cmdInfo .always [.s 48, .s 51] true
    let s2 := sending w ax s [.s 48, .s 51]
    Ready w ax s ∧ Commits 0 s 0 ∧ (s2.view ax).read s2 (xVal (s.task ax) (.s 48)).toNat 64 = .ok d ∧
    ∃ s3, acceptRun 0 (ctxOf ax w s) (s.task ax).cmdx (xVal (s.task ax) (.s 48)) (xVal (s.task ax) (.s 51)) s2 = .ok s3 :=
  ⟨ready_of (by decide +kernel), .inl rfl, ok_of (by decide +kernel), some_of (by decide +kernel)⟩

/-- GATHER of two lines of 16 bytes; GWAIT while it fills half 1, and for half 0. -/
theorem witness_BucketWords_gather :
    let d := fields [(8, 0x10000), (4, 64), (4, 64), (2, 2), (1, 16), (1, 0), (4, 0), (8, 0)]
    let s := demoCommand d
    let w := cmdInfo .always [.s 48, .s 50] true
    let s2 := sending w ax s [.s 48, .s 50]
    let z : GatherCmd := { tag := demoTag, half := 1, src := 0#64, pstr := 0, tstr := 0, nline := 1, llen := 1, idxa := none, fills := none }
    let t := s.modEng 0 fun e => { e with gathers := [z] }
    Ready w ax s ∧ Commits 0 s 16384 ∧ (s2.view ax).read s2 (xVal (s.task ax) (.s 48)).toNat 32 = .ok d ∧
    (∃ s3, acceptGather 0 (ctxOf ax w s) (s.task ax).cmdx (xVal (s.task ax) (.s 48)) (xVal (s.task ax) (.s 50)) s2 = .ok s3) ∧
    (Ready (cmdInfo .always [.s 50] false) ax t ∧ (t.core 0).eng.gathers = [z] ∧ z.half = (xVal (t.task ax) (.s 50)).toNat % 2) ∧
    (Ready (cmdInfo .always [.s 49] false) ax t ∧ z.half ≠ (xVal (t.task ax) (.s 49)).toNat % 2) :=
  ⟨ready_of (by decide +kernel), .inl rfl, ok_of (by decide +kernel), some_of (by decide +kernel), ⟨ready_of (by decide +kernel), by decide +kernel, by decide +kernel⟩,
    ready_of (by decide +kernel), by decide +kernel⟩

theorem witness_DenseWords_plain :
    let s := demoEngines
    let n := (s.core 0).eng.dn
    let w0 := cmdInfo .always [] false
    let full := s.modDn 0 fun e => { e with queue := List.replicate 4 { tag := demoTag, op := .clr, depth := 64, readDone := false, flags := 0#6, writes := [] } }
    let stopped := s.modDn 0 fun e => { e with run := false }
    Landed (s.task ax) ∧ Ready w0 ax s ∧ (n.queue.length < 4 ∧ n.run = true) ∧ (n.queue.map (·.depth)).foldl (· + ·) 0 + 64 ≤ maxDepth 0 s ∧
    (Ready w0 ax full ∧ 4 ≤ (full.core 0).eng.dn.queue.length) ∧ (Ready w0 ax stopped ∧ (stopped.core 0).eng.dn.run = false) ∧
    (Ready (cmdInfo .always [.s 50] false) ax s ∧ (xVal (s.task ax) (.s 50)).toNat < 32 ∧ (chainOperand s 0 (1 % 16)).isSome = true) :=
  ⟨landed_of rfl, ready_of (by decide +kernel), by decide +kernel, by decide +kernel, ⟨ready_of (by decide +kernel), by decide +kernel⟩, ⟨ready_of (by decide +kernel), by decide +kernel⟩,
    ready_of (by decide +kernel), by decide +kernel, by decide +kernel⟩

/-- DDRAIN to 0x10000 in the format of entry 0; into the bypass buffer with BTR in that of entry 1. -/
theorem witness_DenseWords_drain (Y : Nat) (fe : Nat) (h : (Y, fe) = (1, 0) ∨ (Y, fe) = (0x10C, 1)) :
    let s := demoEngines
    let y := Scalar.lit (BitVec.ofNat 32 Y)
    let w := cmdInfo .always [.s 49, y] true
    let s2 := sending w ax s [.s 49, y]
    let Y := xVal (s.task ax) y
    Ready w ax s ∧ Commits 0 s 16384 ∧ Y.toNat < 2 ^ 40 ∧ (Y.extractLsb' 12 4).toNat = 0 ∧ (Y.extractLsb' 4 4).toNat = 0 ∧ (Y.extractLsb' 16 24).toNat = 0 ∧
    (Y.getLsbD 3 = true → Y.getLsbD 2 = true) ∧ (Y.extractLsb' 8 4).toNat = fe ∧
    ∃ f, s.ftEntry 0 fe = some f ∧ f.scale = 0 ∧ f.elem.isCode = false ∧ (Y.getLsbD 2 = true → (dotWidth f.elem).isSome = true) ∧
      (∀ i, i < 64 → (s2.view ax).check s2 ((xVal (s.task ax) (.s 49)).toNat + i * (8 * f.elem.width)) (8 * f.elem.width) .engineStore = .ok ()) := by
  rcases h with h | h <;> cases h <;>
    exact ⟨ready_of (by decide +kernel), .inl rfl, by decide +kernel, by decide +kernel, by decide +kernel, by decide +kernel, by decide +kernel, by decide +kernel,
      _, rfl, by decide +kernel, by decide +kernel, by decide +kernel, fun i hi => ok_of (by revert i; decide +kernel)⟩

/-- DMMA and DMMAC of 32 steps of K in the format of entry 1. -/
theorem witness_DenseWords_mma (keep : Bool) :
    let d := fields [(8, 0x10000), (8, 0x10000), (8, 0), (8, 0), (4, 128), (4, 128), (2, 32), (1, 0x11), (1, 0), (4, 0), (4, 0), (12, 0)]
    let s := demoCommand d
    let w := cmdInfo .always [.s 48, .s 51] true
    let s2 := sending w ax s [.s 48, .s 51]
    Ready w ax s ∧ Commits 0 s 0 ∧ (s2.view ax).read s2 (xVal (s.task ax) (.s 48)).toNat 64 = .ok d ∧
    (∃ s3, acceptMma keep 0 (ctxOf ax w s) (s.task ax).cmdx (xVal (s.task ax) (.s 48)) (xVal (s.task ax) (.s 51)) s2 = .ok s3) ∧
    (entryA s 0 0 1 (s.core 0).eng.dn).isSome = true ∧ (legalOperand s 0 1).isSome = true := by
  cases keep <;> exact ⟨ready_of (by decide +kernel), .inl rfl, ok_of (by decide +kernel), some_of (by decide +kernel), by decide +kernel, by decide +kernel⟩

/-- A product behind a drain; TXFER while t0 moves, and with a reserved bit set. -/
theorem witness_DenseWords_waits :
    let k : DnCmd := { tag := demoTag, op := .drain 0x10000#64 0 0 false false true, depth := 64, readDone := false, flags := 0#6, writes := [] }
    let s := demoEngines.modDn 0 fun e => { e with queue := [k] }
    let z : TileCmd := { tag := demoTag, tile := 0, toMem := false, trans := false, base := 0x10000#64, stride := 256, rows := none }
    let m := demoEngines.modEng 0 fun e => { e with tiles := [z] }
    let w (y : Scalar) := cmdInfo .always [.s 49, y] true
    let y := Scalar.lit 0x1000000#32
    let bad := Scalar.lit 0xFFFFFFFE#32
    (Ready (w y) ax s ∧ ((s.core 0).eng.dn.queue.length < 4 ∧ (s.core 0).eng.dn.run = true) ∧ Commits 0 s 0 ∧ (s.core 0).eng.dn.queue = [k]) ∧
    (Ready (w y) ax m ∧ tileBusy (m.core 0) 0 = true) ∧
    (Ready (w bad) ax demoEngines ∧ tileBusy (demoEngines.core 0) 0 = false ∧ (demoEngines.core 0).eng.tiles.length < 2 ∧ Commits 0 demoEngines 16384 ∧ 2 ^ 40 ≤ (xVal (demoEngines.task ax) bad).toNat ∧
      (xVal (demoEngines.task ax) bad).getLsbD 0 = false ∧ (demoEngines.task ax).x.arm = none) :=
  ⟨⟨ready_of (by decide +kernel), by decide +kernel, .inl rfl, rfl⟩, ⟨ready_of (by decide +kernel), by decide +kernel⟩, ready_of (by decide +kernel), by decide +kernel, by decide +kernel, .inl rfl,
    by decide +kernel, by decide +kernel, rfl⟩

/-- TXFER of t0 from and to 0x10000, with a stride of 256 bytes. -/
theorem witness_DenseWords_txfer (Y : Nat) (h : Y = 0x1000000 ∨ Y = 0x1000002) :
    let s := demoEngines
    let y := Scalar.lit (BitVec.ofNat 32 Y)
    let w := cmdInfo .always [.s 49, y] true
    let s2 := sending w ax s [.s 49, y]
    let Y := xVal (s.task ax) y
    Ready w ax s ∧ Commits 0 s 16384 ∧ (s.core 0).eng.tiles.length < 2 ∧ tileBusy (s.core 0) 0 = false ∧ Y.toNat < 2 ^ 40 ∧ (Y.extractLsb' 4 12).toNat = 0 ∧ (Y.extractLsb' 16 24).toNat = 256 ∧
    (∀ i, i < 64 → (s2.view ax).check s2 (((xVal (s.task ax) (.s 49)).toNat + i * 256) % 2 ^ 64) 256 (if Y.getLsbD 1 then .engineStore else .load) = .ok ()) := by
  rcases h with rfl | rfl <;>
    exact ⟨ready_of (by decide +kernel), .inl rfl, by decide +kernel, by decide +kernel, by decide +kernel, by decide +kernel, by decide +kernel, fun i hi => ok_of (by revert i; decide +kernel)⟩

/-! Micro-order stores, weights. -/

/-- MOLOAD of 1,024 bytes at s2 into either engine; MOBASE, MOSTOP and MOSTART; an engine 2, a base 256. -/
theorem witness_OrderAndWeightWords_stores (y : Scalar) (h : y = .zr ∨ y = .s 4) :
    let w := acc .always [.src (.s 2), .src y]
    let m := acc .always [.src (.s 1), .src y]
    let l := acc .always [.src (.lit 256#32), .src y]
    Ready w aa demo ∧ (srcVal (demo.task aa) y).toNat < 2 ∧ Reaches aa demo 0x10000#64 1024 .load (.byte (unitBase 0)) ∧
    innerRead (ctxOf aa w demo) 0x10000#64 (.byte (unitBase 0)) 1024 (atIssue aa w demo) = .ok (List.replicate 1024 0#8) ∧ Ready m aa demo ∧ (srcVal (demo.task aa) (.s 1)).toNat < 256 ∧
    Ready l aa demo ∧ 256 ≤ (srcVal (demo.task aa) (.lit 256#32)).toNat ∧ Ready (acc .always [.src y]) aa demo ∧ (demo.core 0).eng.bk.queue = [] ∧
    Ready (acc .always [.src (.s 1)]) aa demo ∧ 2 ≤ (srcVal (demo.task aa) (.s 1)).toNat ∧ Ready (acc .always [.src (.s 2), .src (.s 1)]) aa demo := by
  rcases h with rfl | rfl <;>
    exact ⟨ready_of (by decide +kernel), by decide +kernel, reaches_of (by decide +kernel), ok_of (by decide +kernel), ready_of (by decide +kernel), by decide +kernel, ready_of (by decide +kernel),
      by decide +kernel, ready_of (by decide +kernel), by decide +kernel, ready_of (by decide +kernel), by decide +kernel, ready_of (by decide +kernel)⟩

/-- SWAPW of stack 0 STEADY, PENDING, and of stack 1, where the partition has no core; WPIN with pin counts 0 and 255. -/
theorem witness_OrderAndWeightWords_banks :
    let w1 (x : Scalar) := acc .always [.src x]
    let pending : State := demo.modPart 0 fun p => { p with swap := [(0, { recEvt := false, cluster := 0, core := 0, idx := 0#32, task := 0#64, lseq := 0 })] }
    let pinned : State := demo.modPart 0 fun p => { p with pins := [(0, 255)] }
    (Ready (w1 .zr) aa demo ∧ demo.hasStack 0 0 = true ∧ tget? (demo.part 0).swap 0 = none ∧ shadowOpen demo 0 0 = false) ∧
    (Ready (w1 .zr) aa pending ∧ pending.hasStack 0 0 = true ∧ (tget? (pending.part 0).swap 0).isSome = true) ∧
    (Ready (w1 (.s 4)) aa demo ∧ demo.hasStack 0 1 = false) ∧ (Ready (w1 (.s 8)) aa demo ∧ 8 ≤ (srcVal (demo.task aa) (.s 8)).toNat) ∧
    (Ready (acc .always [.src .zr, .src (.s 4)]) aa demo ∧ Ready (acc .always [.src .zr, .src .zr]) aa demo ∧ tget 0 (demo.part 0).pins 0 = 0) ∧
    (Ready (acc .always [.src .zr, .src (.s 4)]) aa pinned ∧ Ready (acc .always [.src .zr, .src .zr]) aa pinned ∧ tget 0 (pinned.part 0).pins 0 = 255) :=
  ⟨⟨ready_of (by decide +kernel), by decide +kernel, by decide +kernel, by decide +kernel⟩, ⟨ready_of (by decide +kernel), by decide +kernel, by decide +kernel⟩,
    ⟨ready_of (by decide +kernel), by decide +kernel⟩, ⟨ready_of (by decide +kernel), by decide +kernel⟩, ⟨ready_of (by decide +kernel), ready_of (by decide +kernel), by decide +kernel⟩,
    ready_of (by decide +kernel), ready_of (by decide +kernel), by decide +kernel⟩

/-- SORTW of a code tile into slot 0; a block of zeros, and a control word of more than 42 bits. -/
theorem witness_OrderAndWeightWords_sort :
    let bs := fields [(1, 1), (1, 1), (1, 0), (1, 1), (4, 1920), (56, 0)]
    let s := placed (unitBase 0 + 0x40) bs demo
    let w := acc .always [.src (.s 5), .src .zr]
    (Ready w aa s ∧ (s.task aa).a.kept = none ∧ readBlock (ctxOf aa w s) (srcVal (s.task aa) (.s 5)) 64 (atIssue aa w s) = .ok bs ∧ (tileHeader? 1 bs).map (·.ng) = some 4 ∧
      (0#64 : W64).toNat * 64 + (0x80 + 192 * 4 + 64 * (112 + 8 * 4)) ≤ ((s.part 0).regs.pwb.getD aa.stack .none).size ∧ (s.cluster 0).sorts.length < 16) ∧
    (Ready w aa demo ∧ readBlock (ctxOf aa w demo) (srcVal (demo.task aa) (.s 5)) 64 (atIssue aa w demo) = .ok (List.replicate 64 0#8) ∧ tileHeader? 1 (List.replicate 64 0#8) = none) ∧
    (Ready (acc .always [.src (.s 5), .src (.s 7)]) aa s ∧ 2 ^ 42 ≤ (srcVal (s.task aa) (.s 7)).toNat) :=
  ⟨⟨ready_of (by decide +kernel), by decide +kernel, ok_of (by decide +kernel), by decide +kernel, by decide +kernel, by decide +kernel⟩, ⟨ready_of (by decide +kernel), ok_of (by decide +kernel), by decide +kernel⟩,
    ready_of (by decide +kernel), by decide +kernel⟩

/-- SORTW that waits with the header that it has read, since sixteen commands are queued. -/
theorem witness_OrderAndWeightWords_waits :
    let bs := fields [(1, 1), (1, 1), (1, 0), (1, 1), (4, 1920), (56, 0)]
    let q : SortCmd := { by_ := { core := 0, task := 0#64, idx := 0#32, seq := 0, lineage := 0, pcs := none }, view := demo.view aa, src := 0#64, slot := 0, ctl := { seq := false, recEvt := false, baren := false, bar := 0 }, written := none }
    let s := (demo.modCluster 0 fun k => { k with sorts := List.replicate 16 q }).modTask aa fun t => { t with a := { t.a with kept := some bs } }
    Ready (acc .always [.src (.s 5), .src .zr]) aa s ∧ (s.task aa).a.kept = some bs ∧ (tileHeader? 1 bs).isSome = true ∧ 16 ≤ (s.cluster 0).sorts.length :=
  ⟨ready_of (by decide +kernel), by decide +kernel, by decide +kernel, by decide +kernel⟩

end Sys2Proof.Tests
end

