-- ==== Sys2Proof/Tests/Words.lean ====
section
/-! SUPPORT. Tests: one word of every instruction, written from its row of the opcode table, decodes to that instruction with every field in its place. -/

set_option Elab.async false

namespace Sys2Proof.Tests

open Sys2Proof Sys2Proof.Machine

/-- Do the words decode to their instructions? -/
noncomputable def rowsDecode (l : List (W32 × Instr)) : Bool := l.all fun x => decodesTo x.1 [] x.2

theorem test_words_00 : rowsDecode
  [(0x0800645C#32, (.add (.onTrue 1) (.s 6) (.s 17) (.s 28))),
   (0x9004749D#32, (.sub (.onFalse 2) (.s 7) (.s 18) (.s 29))),
   (0x780884DE#32, (.and .always (.s 8) (.s 19) (.s 30))),
   (0x200C951F#32, (.or (.onTrue 4) (.s 9) (.s 20) (.s 31))),
   (0xA810A560#32, (.xor (.onFalse 5) (.s 10) (.s 21) (.s 32))),
   (0x7814B5A1#32, (.shl .always (.s 11) (.s 22) (.s 33))),
   (0x3818C5E2#32, (.shr (.onTrue 7) (.s 12) (.s 23) (.s 34))),
   (0xC01CD623#32, (.sar (.onFalse 8) (.s 13) (.s 24) (.s 35)))] = true := by decide +kernel
theorem test_words_01 : rowsDecode
  [(0x7820E664#32, (.mul .always (.s 14) (.s 25) (.s 36))),
   (0x5024F6A5#32, (.mulhs (.onTrue 10) (.s 15) (.s 26) (.s 37))),
   (0xD82906E6#32, (.mulhu (.onFalse 11) (.s 16) (.s 27) (.s 38))),
   (0x782D1727#32, (.min .always (.s 17) (.s 28) (.s 39))),
   (0x08312768#32, (.max (.onTrue 1) (.s 18) (.s 29) (.s 40))),
   (0x903537A9#32, (.minu (.onFalse 2) (.s 19) (.s 30) (.s 41))),
   (0x783947EA#32, (.maxu .always (.s 20) (.s 31) (.s 42))),
   (0x203D582B#32, (.rol (.onTrue 4) (.s 21) (.s 32) (.s 43)))] = true := by decide +kernel
theorem test_words_02 : rowsDecode
  [(0xA8416871#32, (.addi (.onFalse 5) (.s 22) (.s 33) 49#6)),
   (0x784578B1#32, (.andi .always (.s 23) (.s 34) 49#6)),
   (0x384988F1#32, (.ori (.onTrue 7) (.s 24) (.s 35) 49#6)),
   (0xC04D9931#32, (.xori (.onFalse 8) (.s 25) (.s 36) 49#6)),
   (0x7851A971#32, (.shli .always (.s 26) (.s 37) 49#6)),
   (0x5055B9B1#32, (.shri (.onTrue 10) (.s 27) (.s 38) 49#6)),
   (0xD859C9F1#32, (.sari (.onFalse 11) (.s 28) (.s 39) 49#6))] = true := by decide +kernel
theorem test_words_03 : rowsDecode
  [(0x7861DA00#32, (.clz .always (.s 29) (.s 40))),
   (0x0865EA40#32, (.ctz (.onTrue 1) (.s 30) (.s 41))),
   (0x9069FA80#32, (.popc (.onFalse 2) (.s 31) (.s 42))),
   (0x786E0AC0#32, (.bswap .always (.s 32) (.s 43))),
   (0x20721B00#32, (.sextb (.onTrue 4) (.s 33) (.s 44))),
   (0xA8762B40#32, (.sexth (.onFalse 5) (.s 34) (.s 45))),
   (0x787A3B80#32, (.sextw .always (.s 35) (.s 46))),
   (0x387E4BC0#32, (.zextw (.onTrue 7) (.s 36) (.s 47)))] = true := by decide +kernel
theorem test_words_04 : rowsDecode
  [(0xC0825C03#32, (.divs (.onFalse 8) (.s 37) (.s 48) (.s 3))),
   (0x78866C44#32, (.divu .always (.s 38) (.s 49) (.s 4))),
   (0x508A7C85#32, (.rems (.onTrue 10) (.s 39) (.s 50) (.s 5))),
   (0xD88E8CC6#32, (.remu (.onFalse 11) (.s 40) (.s 51) (.s 6)))] = true := by decide +kernel
theorem test_words_05 : rowsDecode
  [(0x78A03A0E#32, (.cmpEq .always 1 (.s 52) (.s 7))),
   (0x08A25A90#32, (.cmpNe (.onTrue 1) 2 (.s 53) (.s 8))),
   (0x90A47B12#32, (.cmpLt (.onFalse 2) 3 (.s 54) (.s 9))),
   (0x78A69B94#32, (.cmpGe .always 4 (.s 55) (.s 10))),
   (0x20A8A016#32, (.cmpLtu (.onTrue 4) 5 (.s 0) (.s 11))),
   (0xA8AAC098#32, (.cmpGeu (.onFalse 5) 6 (.s 1) (.s 12))),
   (0x78ACE11A#32, (.cmpLe .always 7 (.s 2) (.s 13))),
   (0x38AF019C#32, (.cmpGt (.onTrue 7) 8 (.s 3) (.s 14))),
   (0xC0B1221E#32, (.cmpLeu (.onFalse 8) 9 (.s 4) (.s 15))),
   (0x78B342A0#32, (.cmpGtu .always 10 (.s 5) (.s 16)))] = true := by decide +kernel
theorem test_words_06 : rowsDecode
  [(0x50C2C940#32, (.pand (.onTrue 10) 11 2 5)),
   (0xD8C40D80#32, (.por (.onFalse 11) 0 3 6)),
   (0x78C851C0#32, (.pxor .always 1 4 7)),
   (0x08CC9600#32, (.pandn (.onTrue 1) 2 5 8)),
   (0x90D0DA40#32, (.porn (.onFalse 2) 3 6 9)),
   (0x78D51C00#32, (.pnot .always 4 7)),
   (0x20D94000#32, (.pset (.onTrue 4) 5)),
   (0xA8DD8000#32, (.pclr (.onFalse 5) 6))] = true := by decide +kernel
theorem test_words_07 : rowsDecode
  [(0x78E59C5B#32, (.branch .always 367707#19)),
   (0x38ED9C5B#32, (.call (.onTrue 7) 367707#19))] = true := by decide +kernel
theorem test_words_08 : rowsDecode
  [(0xC1000140#32, (.br (.onFalse 8) (.s 5))),
   (0x79040180#32, (.callr .always (.s 6))),
   (0x51080000#32, (.ret (.onTrue 10)))] = true := by decide +kernel
theorem test_words_09 : rowsDecode
  [(0xD924338B#32, (.loop (.onFalse 11) (.s 8) 13195#15))] = true := by decide +kernel
theorem test_words_0A : rowsDecode
  [(0x79400240#32, (.cqpush .always (.s 9))),
   (0x0944A000#32, (.cqpop (.onTrue 1) (.s 10)))] = true := by decide +kernel
theorem test_words_0B : rowsDecode
  [(0x91600C00#32, (.pqpush (.onFalse 2) 3)),
   (0x79650000#32, (.pqpop .always 4))] = true := by decide +kernel
theorem test_words_0C : rowsDecode
  [(0x21800000#32, (.nop (.onTrue 4))),
   (0xA9810000#32, (.tend (.onFalse 5))),
   (0x79820000#32, (.brk .always))] = true := by decide +kernel
theorem test_words_0D : rowsDecode
  [(0x39A8338B#32, (.adr (.onTrue 7) (.s 16) 13195#15))] = true := by decide +kernel
theorem test_words_10 : rowsDecode
  [(0xC2011727#32, (.ldb (.onFalse 8) (.s 17) (.s 28) (.s 39))),
   (0x7A052768#32, (.ldh .always (.s 18) (.s 29) (.s 40))),
   (0x520937A9#32, (.ldw (.onTrue 10) (.s 19) (.s 30) (.s 41))),
   (0xDA0D47EA#32, (.ldd (.onFalse 11) (.s 20) (.s 31) (.s 42))),
   (0x7A11582B#32, (.stb .always (.s 21) (.s 32) (.s 43))),
   (0x0A15686C#32, (.sth (.onTrue 1) (.s 22) (.s 33) (.s 44))),
   (0x921978AD#32, (.stw (.onFalse 2) (.s 23) (.s 34) (.s 45))),
   (0x7A1D88EE#32, (.std .always (.s 24) (.s 35) (.s 46)))] = true := by decide +kernel
theorem test_words_11 : rowsDecode
  [(0x2221D25E#32, (.vld (.onTrue 4) (.v 14) (.s 36) (.s 47))),
   (0xAA25F2E0#32, (.vlds (.onFalse 5) (.v 15) (.s 37) (.s 48))),
   (0x7A281362#32, (.vldx .always (.v 0) (.s 38) (.s 49))),
   (0x3A2C33E4#32, (.vldff (.onTrue 7) (.v 1) (.s 39) (.s 50)))] = true := by decide +kernel
theorem test_words_12 : rowsDecode
  [(0xC2405466#32, (.vst (.onFalse 8) (.v 2) (.s 40) (.s 51))),
   (0x7A4474E8#32, (.vsts .always (.v 3) (.s 41) (.s 52))),
   (0x5248956A#32, (.vstx (.onTrue 10) (.v 4) (.s 42) (.s 53)))] = true := by decide +kernel
theorem test_words_13 : rowsDecode
  [(0xDA632254#32, (.aadd (.onFalse 11) .acqrel .unit true (.s 9) (.s 20))),
   (0x7A646295#32, (.aand .always .relaxed .group true (.s 10) (.s 21))),
   (0x0A6962D6#32, (.aor (.onTrue 1) .acquire .group true (.s 11) (.s 22))),
   (0x926E6317#32, (.axor (.onFalse 2) .release .group true (.s 12) (.s 23))),
   (0x7A736358#32, (.amin .always .acqrel .group true (.s 13) (.s 24))),
   (0x2274A399#32, (.amax (.onTrue 4) .relaxed .device true (.s 14) (.s 25))),
   (0xAA79A3DA#32, (.aswp (.onFalse 5) .acquire .device true (.s 15) (.s 26))),
   (0x7A7EA41B#32, (.acas .always .release .device true (.s 16) (.s 27)))] = true := by decide +kernel
theorem test_words_14 : rowsDecode
  [(0x3A838000#32, (.fence (.onTrue 7) .acqrel .device)),
   (0xC2840000#32, (.dovetail (.onFalse 8))),
   (0x7A89C008#32, (.publish .always .acquire .system (.s 8)))] = true := by decide +kernel
theorem test_words_15 : rowsDecode
  [(0x52A00AF6#32, (.cmk (.onTrue 10) (.s 43) (.s 54))),
   (0xDAA6CDCA#32, (.cld (.onFalse 11) (.s 44) (.s 55) (.s 10))),
   (0x7AA80B40#32, (.cfill .always (.s 45) (.s 0))),
   (0x0AAC0B81#32, (.cfail (.onTrue 1) (.s 46) (.s 1)))] = true := by decide +kernel
theorem test_words_18 : rowsDecode
  [(0x9300BC20#32, (.cpt (.onFalse 2) (.s 47) (.s 2))),
   (0x7B01C030#32, (.cpc .always (.s 48) (.s 3))),
   (0x2302C440#32, (.cpx (.onTrue 4) (.s 49) (.s 4))),
   (0xAB03C850#32, (.cptr (.onFalse 5) (.s 50) (.s 5))),
   (0x7B04CC60#32, (.cpm .always (.s 51) (.s 6))),
   (0x3B05D070#32, (.cpz (.onTrue 7) (.s 52) (.s 7))),
   (0xC306D480#32, (.cpd (.onFalse 8) (.s 53) (.s 8)))] = true := by decide +kernel
theorem test_words_19 : rowsDecode
  [(0x7B200D89#32, (.barinit .always (.s 54) (.s 9))),
   (0x53240DCA#32, (.barx (.onTrue 10) (.s 55) (.s 10))),
   (0xDB280000#32, (.barw (.onFalse 11) (.s 0))),
   (0x7B2C1300#32, (.barrd .always (.s 1) (.s 12)))] = true := by decide +kernel
theorem test_words_1C : rowsDecode
  [(0x0B802358#32, (.jpush (.onTrue 1) (.s 2) (.s 13) (.s 24))),
   (0x938400CE#32, (.qpush (.onFalse 2) (.s 3) (.s 14))),
   (0x7B8843DA#32, (.qpop .always (.s 4) (.s 15) (.s 26))),
   (0x238C5400#32, (.qdepth (.onTrue 4) (.s 5) (.s 16))),
   (0xAB906440#32, (.darrive (.onFalse 5) (.s 6) (.s 17))),
   (0x7B947480#32, (.evqpop .always (.s 7) (.s 18))),
   (0x3B980213#32, (.evqpush (.onTrue 7) (.s 8) (.s 19)))] = true := by decide +kernel
theorem test_words_1D : rowsDecode
  [(0xC3A00254#32, (.rnginit (.onFalse 8) (.s 9) (.s 20))),
   (0x7BA4A540#32, (.rngtkt .always (.s 10) (.s 21))),
   (0x53A8B5A1#32, (.rngfill (.onTrue 10) (.s 11) (.s 22) (.s 33))),
   (0xDBACC5E2#32, (.rngget (.onFalse 11) (.s 12) (.s 23) (.s 34)))] = true := by decide +kernel
theorem test_words_20 : rowsDecode
  [(0x7C01BC89#32, (.vadd .always 3#3 (.v 15) (.v 4) (.v 9))),
   (0x0C0600AA#32, (.vsub (.onTrue 1) 4#3 (.v 0) (.v 5) (.v 10))),
   (0x940A84CB#32, (.vmul (.onFalse 2) 5#3 (.v 1) (.v 6) (.v 11))),
   (0x7C0F08EC#32, (.vmulh .always 6#3 (.v 2) (.v 7) (.v 12))),
   (0x24138D0D#32, (.vand (.onTrue 4) 7#3 (.v 3) (.v 8) (.v 13))),
   (0xAC14112E#32, (.vor (.onFalse 5) 0#3 (.v 4) (.v 9) (.v 14))),
   (0x7C18954F#32, (.vxor .always 1#3 (.v 5) (.v 10) (.v 15))),
   (0x3C1D1960#32, (.vshl (.onTrue 7) 2#3 (.v 6) (.v 11) (.v 0)))] = true := by decide +kernel
theorem test_words_21 : rowsDecode
  [(0xC4219D81#32, (.vshr (.onFalse 8) 3#3 (.v 7) (.v 12) (.v 1))),
   (0x7C2621A2#32, (.vsar .always 4#3 (.v 8) (.v 13) (.v 2))),
   (0x542AA5C3#32, (.vmin (.onTrue 10) 5#3 (.v 9) (.v 14) (.v 3))),
   (0xDC2F29E4#32, (.vmax (.onFalse 11) 6#3 (.v 10) (.v 15) (.v 4))),
   (0x7C33AC05#32, (.vminu .always 7#3 (.v 11) (.v 0) (.v 5))),
   (0x0C343026#32, (.vmaxu (.onTrue 1) 0#3 (.v 12) (.v 1) (.v 6))),
   (0x9438B447#32, (.vadds (.onFalse 2) 1#3 (.v 13) (.v 2) (.v 7))),
   (0x7C3D3868#32, (.vsubs .always 2#3 (.v 14) (.v 3) (.v 8)))] = true := by decide +kernel
theorem test_words_22 : rowsDecode
  [(0x2441BC89#32, (.vfadd (.onTrue 4) 3#3 (.v 15) (.v 4) (.v 9))),
   (0xAC4600AA#32, (.vfsub (.onFalse 5) 4#3 (.v 0) (.v 5) (.v 10))),
   (0x7C4A84CB#32, (.vfmul .always 5#3 (.v 1) (.v 6) (.v 11))),
   (0x3C4F08EC#32, (.vfma (.onTrue 7) 6#3 (.v 2) (.v 7) (.v 12))),
   (0xC4538D0D#32, (.vfms (.onFalse 8) 7#3 (.v 3) (.v 8) (.v 13))),
   (0x7C54112E#32, (.vfnma .always 0#3 (.v 4) (.v 9) (.v 14))),
   (0x5458954F#32, (.vfmin (.onTrue 10) 1#3 (.v 5) (.v 10) (.v 15))),
   (0xDC5D1960#32, (.vfmax (.onFalse 11) 2#3 (.v 6) (.v 11) (.v 0)))] = true := by decide +kernel
theorem test_words_23 : rowsDecode
  [(0x7C619D80#32, (.vrcpe .always 3#3 (.v 7) (.v 12))),
   (0x0C6621A0#32, (.vrsqe (.onTrue 1) 4#3 (.v 8) (.v 13))),
   (0x946AA5C0#32, (.vexp2e (.onFalse 2) 5#3 (.v 9) (.v 14))),
   (0x7C6F29E0#32, (.vlog2e .always 6#3 (.v 10) (.v 15))),
   (0x2473AC00#32, (.vtanhe (.onTrue 4) 7#3 (.v 11) (.v 0))),
   (0xAC743020#32, (.vfabs (.onFalse 5) 0#3 (.v 12) (.v 1))),
   (0x7C78B440#32, (.vfneg .always 1#3 (.v 13) (.v 2))),
   (0x3C7D3860#32, (.vfclass (.onTrue 7) 2#3 (.v 14) (.v 3)))] = true := by decide +kernel
theorem test_words_24 : rowsDecode
  [(0xC4819089#32, (.vcmpeq (.onFalse 8) 3#3 4 (.v 4) (.v 9))),
   (0x7C8614AA#32, (.vcmpne .always 4#3 5 (.v 5) (.v 10))),
   (0x548A98CB#32, (.vcmplt (.onTrue 10) 5#3 6 (.v 6) (.v 11))),
   (0xDC8F1CEC#32, (.vcmpltu (.onFalse 11) 6#3 7 (.v 7) (.v 12))),
   (0x7C93810D#32, (.vfcmpeq .always 7#3 0 (.v 8) (.v 13))),
   (0x0C94052E#32, (.vfcmplt (.onTrue 1) 0#3 1 (.v 9) (.v 14))),
   (0x9498894F#32, (.vfcmple (.onFalse 2) 1#3 2 (.v 10) (.v 15))),
   (0x7C9D0D60#32, (.vfcmpun .always 2#3 3 (.v 11) (.v 0)))] = true := by decide +kernel
theorem test_words_25 : rowsDecode
  [(0x24A19D80#32, (.vmv (.onTrue 4) 3#3 (.v 7) (.v 12))),
   (0xACA621A0#32, (.vcvtw (.onFalse 5) 4#3 (.v 8) (.v 13))),
   (0x7CAAA5C0#32, (.vcvtn .always 5#3 (.v 9) (.v 14))),
   (0x3CAF29E0#32, (.vcvtfi (.onTrue 7) 6#3 (.v 10) (.v 15))),
   (0xC4B3AC00#32, (.vcvtif (.onFalse 8) 7#3 (.v 11) (.v 0)))] = true := by decide +kernel
theorem test_words_26 : rowsDecode
  [(0x7CC03026#32, (.vaddMasked .always 0#3 (.v 12) (.v 1) (.v 6))),
   (0x54C4B447#32, (.vsubMasked (.onTrue 10) 1#3 (.v 13) (.v 2) (.v 7))),
   (0xDCC93868#32, (.vmulMasked (.onFalse 11) 2#3 (.v 14) (.v 3) (.v 8))),
   (0x7CCDBC89#32, (.vmulhMasked .always 3#3 (.v 15) (.v 4) (.v 9))),
   (0x0CD200AA#32, (.vandMasked (.onTrue 1) 4#3 (.v 0) (.v 5) (.v 10))),
   (0x94D684CB#32, (.vorMasked (.onFalse 2) 5#3 (.v 1) (.v 6) (.v 11))),
   (0x7CDB08EC#32, (.vxorMasked .always 6#3 (.v 2) (.v 7) (.v 12))),
   (0x24DF8D0D#32, (.vshlMasked (.onTrue 4) 7#3 (.v 3) (.v 8) (.v 13)))] = true := by decide +kernel
theorem test_words_27 : rowsDecode
  [(0xACE0112E#32, (.vshrMasked (.onFalse 5) 0#3 (.v 4) (.v 9) (.v 14))),
   (0x7CE4954F#32, (.vsarMasked .always 1#3 (.v 5) (.v 10) (.v 15))),
   (0x3CE91960#32, (.vminMasked (.onTrue 7) 2#3 (.v 6) (.v 11) (.v 0))),
   (0xC4ED9D81#32, (.vmaxMasked (.onFalse 8) 3#3 (.v 7) (.v 12) (.v 1))),
   (0x7CF221A2#32, (.vminuMasked .always 4#3 (.v 8) (.v 13) (.v 2))),
   (0x54F6A5C3#32, (.vmaxuMasked (.onTrue 10) 5#3 (.v 9) (.v 14) (.v 3))),
   (0xDCFB29E4#32, (.vaddsMasked (.onFalse 11) 6#3 (.v 10) (.v 15) (.v 4))),
   (0x7CFFAC05#32, (.vsubsMasked .always 7#3 (.v 11) (.v 0) (.v 5)))] = true := by decide +kernel
theorem test_words_28 : rowsDecode
  [(0x0D003026#32, (.vfaddMasked (.onTrue 1) 0#3 (.v 12) (.v 1) (.v 6))),
   (0x9504B447#32, (.vfsubMasked (.onFalse 2) 1#3 (.v 13) (.v 2) (.v 7))),
   (0x7D093868#32, (.vfmulMasked .always 2#3 (.v 14) (.v 3) (.v 8))),
   (0x250DBC89#32, (.vfmaMasked (.onTrue 4) 3#3 (.v 15) (.v 4) (.v 9))),
   (0xAD1200AA#32, (.vfmsMasked (.onFalse 5) 4#3 (.v 0) (.v 5) (.v 10))),
   (0x7D1684CB#32, (.vfnmaMasked .always 5#3 (.v 1) (.v 6) (.v 11))),
   (0x3D1B08EC#32, (.vfminMasked (.onTrue 7) 6#3 (.v 2) (.v 7) (.v 12))),
   (0xC51F8D0D#32, (.vfmaxMasked (.onFalse 8) 7#3 (.v 3) (.v 8) (.v 13)))] = true := by decide +kernel
theorem test_words_29 : rowsDecode
  [(0x7D201120#32, (.vrcpeMasked .always 0#3 (.v 4) (.v 9))),
   (0x55249540#32, (.vrsqeMasked (.onTrue 10) 1#3 (.v 5) (.v 10))),
   (0xDD291960#32, (.vexp2eMasked (.onFalse 11) 2#3 (.v 6) (.v 11))),
   (0x7D2D9D80#32, (.vlog2eMasked .always 3#3 (.v 7) (.v 12))),
   (0x0D3221A0#32, (.vtanheMasked (.onTrue 1) 4#3 (.v 8) (.v 13))),
   (0x9536A5C0#32, (.vfabsMasked (.onFalse 2) 5#3 (.v 9) (.v 14))),
   (0x7D3B29E0#32, (.vfnegMasked .always 6#3 (.v 10) (.v 15))),
   (0x253FAC00#32, (.vfclassMasked (.onTrue 4) 7#3 (.v 11) (.v 0)))] = true := by decide +kernel
theorem test_words_2A : rowsDecode
  [(0xAD400426#32, (.vcmpeqMasked (.onFalse 5) 0#3 1 (.v 1) (.v 6))),
   (0x7D448847#32, (.vcmpneMasked .always 1#3 2 (.v 2) (.v 7))),
   (0x3D490C68#32, (.vcmpltMasked (.onTrue 7) 2#3 3 (.v 3) (.v 8))),
   (0xC54D9089#32, (.vcmpltuMasked (.onFalse 8) 3#3 4 (.v 4) (.v 9))),
   (0x7D5214AA#32, (.vfcmpeqMasked .always 4#3 5 (.v 5) (.v 10))),
   (0x555698CB#32, (.vfcmpltMasked (.onTrue 10) 5#3 6 (.v 6) (.v 11))),
   (0xDD5B1CEC#32, (.vfcmpleMasked (.onFalse 11) 6#3 7 (.v 7) (.v 12))),
   (0x7D5F810D#32, (.vfcmpunMasked .always 7#3 0 (.v 8) (.v 13)))] = true := by decide +kernel
theorem test_words_2B : rowsDecode
  [(0x0D601120#32, (.vmvMasked (.onTrue 1) 0#3 (.v 4) (.v 9))),
   (0x95649540#32, (.vcvtwMasked (.onFalse 2) 1#3 (.v 5) (.v 10))),
   (0x7D691960#32, (.vcvtnMasked .always 2#3 (.v 6) (.v 11))),
   (0x256D9D80#32, (.vcvtfiMasked (.onTrue 4) 3#3 (.v 7) (.v 12))),
   (0xAD7221A0#32, (.vcvtifMasked (.onFalse 5) 4#3 (.v 8) (.v 13)))] = true := by decide +kernel
theorem test_words_2C : rowsDecode
  [(0x7D854B98#32, (.vrotr .always 5#3 (.v 9) (.v 14) (.s 24))),
   (0x3D8E53D9#32, (.vrotc (.onTrue 7) 6#3 (.v 10) (.v 15) (.s 25))),
   (0xC597580F#32, (.vbcst (.onFalse 8) 7#3 (.v 11) (.s 15))),
   (0x7D98605B#32, (.vextr .always 0#3 (.v 12) (.v 1) (.s 27)))] = true := by decide +kernel
theorem test_words_2D : rowsDecode
  [(0x55A00033#32, (.vsetvl (.onTrue 10) (.s 51))),
   (0xDDAA70DD#32, (.vcompress (.onFalse 11) 2#3 (.v 14) (.v 3) (.s 29))),
   (0x7DB3791E#32, (.vexpand .always 3#3 (.v 15) (.v 4) (.s 30))),
   (0x0DBC015F#32, (.vredi (.onTrue 1) 4#3 (.v 0) (.v 5) (.s 31)))] = true := by decide +kernel
theorem test_words_2E : rowsDecode
  [(0x95C29824#32, (.mand (.onFalse 2) 5#3 6 1 4)),
   (0x7DC71C45#32, (.mor .always 6#3 7 2 5)),
   (0x25CB8066#32, (.mxor (.onTrue 4) 7#3 0 3 6)),
   (0xADCC0487#32, (.mandn (.onFalse 5) 0#3 1 4 7)),
   (0x7DD088A0#32, (.mnot .always 1#3 2 5)),
   (0x3DD50C00#32, (.mset (.onTrue 7) 2#3 3)),
   (0xC5D99000#32, (.mclr (.onFalse 8) 3#3 4)),
   (0x7DDE1400#32, (.mmov .always 4#3 5 0))] = true := by decide +kernel
theorem test_words_2F : rowsDecode
  [(0x55E285C0#32, (.twr (.onTrue 10) 5#3 1 (.v 14))),
   (0xDDE72820#32, (.trd (.onFalse 11) 6#3 (.v 10) 1)),
   (0x7DEB8800#32, (.psadd .always 7#3 2 (.v 0))),
   (0x0DEC3060#32, (.psrd (.onTrue 1) 0#3 (.v 12) 3)),
   (0x95F08800#32, (.psclr (.onFalse 2) 1#3 2)),
   (0x7DF53860#32, (.vredadd .always 2#3 (.v 14) (.v 3))),
   (0x25F9BC80#32, (.vredmax (.onTrue 4) 3#3 (.v 15) (.v 4))),
   (0xADFE00A0#32, (.vfredadd (.onFalse 5) 4#3 (.v 0) (.v 5)))] = true := by decide +kernel
theorem test_words_30 : rowsDecode
  [(0x7E003DA0#32, (.bkrun .always (.s 15) (.s 26))),
   (0x3E010000#32, (.bkrst (.onTrue 7))),
   (0xC6020000#32, (.bkfin (.onFalse 8))),
   (0x7E0349D0#32, (.bkdrain .always (.s 18) (.s 29))),
   (0x56044C00#32, (.bkshape (.onTrue 10) (.s 19)))] = true := by decide +kernel
theorem test_words_31 : rowsDecode
  [(0xDE2051F0#32, (.dmma (.onFalse 11) (.s 20) (.s 31))),
   (0x7E215600#32, (.dmmac .always (.s 21) (.s 32))),
   (0x0E225A10#32, (.ddrain (.onTrue 1) (.s 22) (.s 33))),
   (0x96235C00#32, (.dbyp (.onFalse 2) (.s 23))),
   (0x7E240000#32, (.dclr .always))] = true := by decide +kernel
theorem test_words_32 : rowsDecode
  [(0x26406640#32, (.sortw (.onTrue 4) (.s 25) (.s 36)))] = true := by decide +kernel
theorem test_words_33 : rowsDecode
  [(0xAE606800#32, (.swapw (.onFalse 5) (.s 26))),
   (0x7E616E60#32, (.wpin .always (.s 27) (.s 38)))] = true := by decide +kernel
theorem test_words_34 : rowsDecode
  [(0x3E807270#32, (.moload (.onTrue 7) (.s 28) (.s 39))),
   (0xC6817680#32, (.mobase (.onFalse 8) (.s 29) (.s 40))),
   (0x7E827800#32, (.mostart .always (.s 30))),
   (0x56837C00#32, (.mostop (.onTrue 10) (.s 31)))] = true := by decide +kernel
theorem test_words_35 : rowsDecode
  [(0xDEA082B0#32, (.txfer (.onFalse 11) (.s 32) (.s 43)))] = true := by decide +kernel
theorem test_words_36 : rowsDecode
  [(0x7EC086C0#32, (.gather .always (.s 33) (.s 44))),
   (0x0EC18800#32, (.gwait (.onTrue 1) (.s 34)))] = true := by decide +kernel
theorem test_words_38 : rowsDecode
  [(0x97008EE0#32, (.msend (.onFalse 2) (.s 35) (.s 46))),
   (0x7F0192F0#32, (.ksend .always (.s 36) (.s 47))),
   (0x27029700#32, (.amtset (.onTrue 4) (.s 37) (.s 48))),
   (0xAF039800#32, (.amtclr (.onFalse 5) (.s 38)))] = true := by decide +kernel
theorem test_words_39 : rowsDecode
  [(0x7F22A5C4#32, (.krsum .always 5#3 (.v 9) (.v 14) 4)),
   (0x3F2729E5#32, (.krmean (.onTrue 7) 6#3 (.v 10) (.v 15) 5)),
   (0xC72BAC60#32, (.kvcnt (.onFalse 8) 7#3 (.v 11) 3)),
   (0x7F2C0420#32, (.kmrd .always 0#3 1 (.v 1)))] = true := by decide +kernel
theorem test_words_3C : rowsDecode
  [(0x5782B00B#32, (.srrd (.onTrue 10) (.s 43) 11#6)),
   (0xDF840B0B#32, (.srwr (.onFalse 11) (.s 44) 11#6)),
   (0x7F8AD00B#32, (.syscall .always (.s 45) (.s 0) (.s 11))),
   (0x0F8C0B80#32, (.tickwt (.onTrue 1) (.s 46))),
   (0x9792F00B#32, (.framerd (.onFalse 2) (.s 47) 11#6))] = true := by decide +kernel
theorem test_words_3F : rowsDecode
  [(0x7FEDD000#32, (.rep 27#6 5#3))] = true := by decide +kernel

end Sys2Proof.Tests
end

section
namespace Sys2Proof.Machine

open Sys2Proof

/-- The shares granted to the stacks: those written last and those in force (15 R417). -/
def Plat.grants (x : Plat) : (Table Nat × Table Nat) × Table Nat × Table Nat := ((x.bshare, x.dshare), x.forceB, x.forceD)

theorem Plat.bshare_of_grants {x y : Plat} (h : x.grants = y.grants) : x.bshare = y.bshare := (Prod.mk.inj (Prod.mk.inj h).1).1

theorem Plat.dshare_of_grants {x y : Plat} (h : x.grants = y.grants) : x.dshare = y.dshare := (Prod.mk.inj (Prod.mk.inj h).1).2

/-- What jobs that move records, tasks and messages leave alone: the module's time and the grants; then the states of the cells. -/
def State.steady (s : State) : (Module × (Table Nat × Table Nat) × Table Nat × Table Nat) × Table CellSt := ((s.modl, s.plat.grants), s.attr.cells)

theorem State.steady_congr {s t : State} (hm : t.modl = s.modl) (hp : t.plat.grants = s.plat.grants) (ha : t.attr.cells = s.attr.cells) : t.steady = s.steady := by
  simp only [State.steady, hm, hp, ha]

theorem State.modl_of_fst {s t : State} (h : t.steady.1 = s.steady.1) : t.modl = s.modl := congrArg (fun x => x.1) h

theorem State.grants_of_fst {s t : State} (h : t.steady.1 = s.steady.1) : t.plat.grants = s.plat.grants := congrArg (fun x => x.2) h

theorem State.modl_of_steady {s t : State} (h : t.steady = s.steady) : t.modl = s.modl := State.modl_of_fst (congrArg Prod.fst h)

theorem State.grants_of_steady {s t : State} (h : t.steady = s.steady) : t.plat.grants = s.plat.grants := State.grants_of_fst (congrArg Prod.fst h)

theorem State.fst_foldl {α : Type} {f : State → α → State} (h : ∀ s x, (f s x).steady.1 = s.steady.1) (l : List α) (s : State) :
    (l.foldl f s).steady.1 = s.steady.1 := foldl_fixed (fun s : State => s.steady.1) f h l s

theorem State.steady_modPlat {s : State} {f : Plat → Plat} (h : (f s.plat).grants = s.plat.grants) : (s.modPlat f).steady = s.steady :=
  State.steady_congr rfl h rfl

@[simp] theorem State.steady_modCore (s : State) (c : Nat) (f : Core → Core) : (s.modCore c f).steady = s.steady := State.steady_congr rfl rfl rfl
@[simp] theorem State.steady_modCluster (s : State) (g : Nat) (f : Cluster → Cluster) : (s.modCluster g f).steady = s.steady := State.steady_congr rfl rfl rfl
@[simp] theorem State.steady_setPart (s : State) (p : Nat) (x : Part) : (s.setPart p x).steady = s.steady := State.steady_congr rfl rfl rfl
@[simp] theorem State.steady_modPart (s : State) (p : Nat) (f : Part → Part) : (s.modPart p f).steady = s.steady := State.steady_congr rfl rfl rfl
@[simp] theorem State.steady_modLaunch (s : State) (p : Nat) (f : Launch → Launch) : (s.modLaunch p f).steady = s.steady := State.steady_congr rfl rfl rfl
@[simp] theorem State.steady_setQueue (s : State) (g q : Nat) (x : TaskQueue) : (s.setQueue g q x).steady = s.steady := State.steady_congr rfl rfl rfl
@[simp] theorem State.steady_drawn (s : State) : s.drawn.steady = s.steady := State.steady_congr rfl rfl rfl
@[simp] theorem State.steady_coreCtr (s : State) (c : Nat) (k : CoreCtr) (n : Nat) : (s.coreCtr c k n).steady = s.steady := State.steady_congr rfl rfl rfl
@[simp] theorem State.steady_clusCtr (s : State) (g : Nat) (k : ClusCtr) (n : Nat) : (s.clusCtr g k n).steady = s.steady := State.steady_congr rfl rfl rfl
@[simp] theorem State.steady_partCtr (s : State) (p : Nat) (k : PartCtr) (n : Nat) : (s.partCtr p k n).steady = s.steady := State.steady_congr rfl rfl rfl
@[simp] theorem State.steady_coreClk (s : State) (c : Nat) (k : CoreCtr) : (s.coreClk c k).steady = s.steady := State.steady_congr rfl rfl rfl
@[simp] theorem State.steady_partClk (s : State) (p : Nat) (k : PartCtr) : (s.partClk p k).steady = s.steady := State.steady_congr rfl rfl rfl
@[simp] theorem State.steady_setCellSt (s : State) (a : Nat) (c : CellSt) : (s.setCellSt a c).steady.1 = s.steady.1 := Prod.ext rfl rfl

@[simp] theorem State.steady_modTask (s : State) (a : Agent) (f : Task → Task) : (s.modTask a f).steady = s.steady :=
  State.steady_congr (by simp) (by simp) (by simp)
@[simp] theorem State.steady_agentCtr (s : State) (a : Agent) (k : CoreCtr) (n : Nat) : (s.agentCtr a k n).steady = s.steady :=
  State.steady_congr (by simp) (by simp) (by simp)

@[simp] theorem State.steady_bbEvent (s : State) (k p : Nat) (d : List Byte) : (s.bbEvent k p d).steady = s.steady := by
  unfold State.bbEvent; dsimp only; split <;> rfl
@[simp] theorem State.steady_raiseVec (s : State) (n v : Nat) : (s.raiseVec n v).steady = s.steady := by unfold State.raiseVec; split <;> rfl
@[simp] theorem State.steady_raisePart (s : State) (p v : Nat) : (s.raisePart p v).steady = s.steady := s.steady_raiseVec ..
@[simp] theorem State.steady_sendPort (s : State) (n : Nat) (k : PortKind) (ws : List Nat) (d : List Byte) : (s.sendPort n k ws d).steady = s.steady := by
  unfold State.sendPort; split <;> rfl

/-! Memory. -/

@[simp] theorem State.steady_putBytes (s : State) (a : Nat) (bs : List Byte) : (s.putBytes a bs).steady = s.steady := by
  induction bs generalizing s a with
  | nil => rfl
  | cons b r ih => exact (ih ..).trans rfl
@[simp] theorem State.steady_stampPage (s : State) (a : Nat) : (s.stampPage a).steady = s.steady := by
  unfold State.stampPage; dsimp only; (repeat' split) <;> rfl
@[simp] theorem State.steady_touchImages (s : State) (a n : Nat) : (s.touchImages a n).steady = s.steady := by
  unfold State.touchImages
  split
  · rfl
  · split
    · rfl
    · exact foldl_fixed State.steady _ (by intro b x; dsimp only; split <;> simp) _ _
@[simp] theorem State.steady_write (s : State) (a : Nat) (bs : List Byte) : (s.write a bs).steady = s.steady := by
  have h : ((s.touchImages a bs.length).stampPage a).steady = s.steady := by simp
  exact (State.steady_putBytes ..).trans h
@[simp] theorem State.steady_putField (s : State) (c off n v : Nat) : (putField s c off n v).steady = s.steady := s.steady_putBytes ..

/-! Event records, traps and messages. -/

@[simp] theorem steady_evqPost (p g : Nat) (r : EvRec) (s : State) : (evqPost p g r s).steady = s.steady := by
  unfold evqPost; dsimp only; split <;> simp
@[simp] theorem steady_evqSend (p g : Nat) (r : EvRec) (s : State) : (evqSend p g r s).steady = s.steady := by
  unfold evqSend evqStand; split <;> simp
@[simp] theorem steady_logTrap (p : Nat) (r : TrapRecord) (s : State) : (logTrap p r s).steady = s.steady := by
  unfold logTrap
  dsimp only
  generalize (if (s.part p).logStale = true then [] else (s.part p).traplog) = log
  by_cases h : log.length < 8 <;> simp [h]
@[simp] theorem steady_logMachine (p : Nat) (i : TrapInfo) (s : State) : (logMachine p i s).steady = s.steady := by
  unfold logMachine; split <;> simp
@[simp] theorem steady_startDiscard (p : Nat) (s : State) : (startDiscard p s).steady = s.steady := State.steady_congr rfl rfl rfl
@[simp] theorem steady_chargePart (p : Nat) (i : TrapInfo) (s : State) : (chargePart p i s).steady = s.steady := by
  unfold chargePart; dsimp only; split
  · split <;> simp
  · simp
@[simp] theorem steady_homeTrap (a : Agent) (x : Access) (i : TrapInfo) (s : State) : (homeTrap a x i s).steady = s.steady := by
  unfold homeTrap stopStream raiseTrap
  split
  · rfl
  · split <;> simp
@[simp] theorem steady_sendGroupPorts (g : Group) (e : Option Nat) (k : PortKind) (ws : List Nat) (s : State) : (sendGroupPorts g e k ws s).steady = s.steady :=
  foldl_fixed State.steady _ (by simp) _ _

/-! Waiters of cells. -/

@[simp] theorem steady_seatWaiter (g : Nat) (w : Waiter) (s : State) : (seatWaiter g w s).steady = s.steady := State.steady_congr rfl rfl rfl
@[simp] theorem steady_recordAt (p g : Nat) (w : Waiter) (pl : WaiterPlace) (s : State) : (recordAt p g w pl s).steady = s.steady := by
  unfold recordAt; cases pl <;> cases w.counted <;> simp
@[simp] theorem steady_recordHeld (p n : Nat) (s : State) : (recordHeld p n s).steady = s.steady := by
  induction n generalizing s with
  | zero => rfl
  | succ n ih => unfold recordHeld; split <;> simp [ih]
@[simp] theorem steady_modAccess (a : Agent) (st : Bool) (i : Nat) (f : Access → Access) (s : State) : (modAccess a st i f s).steady = s.steady := by
  simp [modAccess]
@[simp] theorem steady_retireAccess (a : Agent) (st : Bool) (i : Nat) (s : State) : (retireAccess a st i s).steady = s.steady := by
  unfold retireAccess
  dsimp only
  (repeat' split) <;> simp
@[simp] theorem steady_deliverOne (a : Agent) (s : State) : (deliverOne a s).steady = s.steady := by
  unfold deliverOne
  dsimp only
  (repeat' split) <;> simp
@[simp] theorem steady_modHeldTask (p c : Nat) (i : W64) (f : Task → Task) (s : State) : (modHeldTask p c i f s).steady = s.steady := State.steady_congr rfl rfl rfl
@[simp] theorem steady_wakeOne (p : Nat) (w : Waiter) (f : Access → CellAnswer) (s : State) : (wakeOne p w f s).steady = s.steady := by
  unfold wakeOne; dsimp only; (repeat' split) <;> simp
@[simp] theorem steady_wakeAll (p c : Nat) (f : Access → CellAnswer) (s : State) : (wakeAll p c f s).steady = s.steady := by
  unfold wakeAll
  rw [steady_recordHeld, foldl_fixed State.steady _ (by simp)]
  rfl
@[simp] theorem steady_failCell (p c k : Nat) (s : State) : (failCell p c k s).steady.1 = s.steady.1 := by simp [failCell]

/-- A cell that fails is FAILED: those that are woken leave its state alone (12 R339). -/
theorem failCell_cellSt (p c k : Nat) (s : State) : (failCell p c k s).cellSt c = .failed := by
  have h : (failCell p c k s).attr.cells = ((putField s c 0x18 4 k).setCellSt c .failed).attr.cells :=
    congrArg Prod.snd ((steady_wakeAll ..).trans (State.steady_clusCtr ..))
  simp [State.cellSt, h, State.setCellSt]

end Sys2Proof.Machine
end

section
namespace Sys2Proof.Machine

open Sys2Proof Sys2Proof.Laws

/-- The launches by partition. -/
def State.launches (s : State) (q : Nat) : Option Launch := (s.part q).launch

theorem State.launches_congr {s t : State} (h : t.parts = s.parts) : t.launches = s.launches := funext fun q => by
  simp only [State.launches, State.part_congr h]

theorem State.launches_of_same {s t : State} (h : SameLaunches s t) : t.launches = s.launches := funext h.same

theorem State.launches_modPart {s : State} {p : Nat} {f : Part → Part} (h : ∀ x, (f x).launch = x.launch) : (s.modPart p f).launches = s.launches :=
  State.launches_of_same (.modPart h)

/-- An update of a launch reads back at its partition, and at no other. -/
theorem State.launches_modLaunch (s : State) (p : Nat) (f : Launch → Launch) :
    (s.modLaunch p f).launches = Function.update s.launches p ((s.launches p).map f) := by
  funext q
  by_cases h : q = p
  · subst h; simp [State.launches, State.modLaunch]
  · simp [State.launches, State.modLaunch, State.part_modPart_of_ne _ _ h, h]

theorem State.launch_modLaunch_self {s : State} {p : Nat} {l : Launch} (f : Launch → Launch) (h : (s.part p).launch = some l) :
    ((s.modLaunch p f).part p).launch = some (f l) := by
  simp [State.modLaunch, h]

theorem State.part_modLaunch_of_ne (s : State) {p q : Nat} (f : Launch → Launch) (h : q ≠ p) : (s.modLaunch p f).part q = s.part q :=
  State.part_modPart_of_ne _ _ h

/-- Only the launch that a partition has matters. -/
theorem State.modLaunch_congr {s : State} {p : Nat} {l : Launch} {f g : Launch → Launch} (h : (s.part p).launch = some l) (hf : f l = g l) :
    s.modLaunch p f = s.modLaunch p g := by
  simp [State.modLaunch, State.modPart, h, hf]

@[simp] theorem State.regs_modLaunch (s : State) (p q : Nat) (f : Launch → Launch) : ((s.modLaunch p f).part q).regs = (s.part q).regs := by
  by_cases h : q = p
  · subst h; simp [State.modLaunch]
  · rw [s.part_modLaunch_of_ne f h]

@[simp] theorem State.launches_modCore (s : State) (c : Nat) (f : Core → Core) : (s.modCore c f).launches = s.launches := State.launches_congr rfl
@[simp] theorem State.launches_modCluster (s : State) (g : Nat) (f : Cluster → Cluster) : (s.modCluster g f).launches = s.launches := State.launches_congr rfl
@[simp] theorem State.launches_setQueue (s : State) (g q : Nat) (x : TaskQueue) : (s.setQueue g q x).launches = s.launches := State.launches_congr rfl
@[simp] theorem State.launches_modPlat (s : State) (f : Plat → Plat) : (s.modPlat f).launches = s.launches := State.launches_congr rfl
@[simp] theorem State.launches_drawn (s : State) : s.drawn.launches = s.launches := State.launches_congr rfl
@[simp] theorem State.launches_coreCtr (s : State) (c : Nat) (k : CoreCtr) (n : Nat) : (s.coreCtr c k n).launches = s.launches := State.launches_congr rfl
@[simp] theorem State.launches_coreClk (s : State) (c : Nat) (k : CoreCtr) : (s.coreClk c k).launches = s.launches := State.launches_congr rfl
@[simp] theorem State.launches_clusCtr (s : State) (g : Nat) (k : ClusCtr) (n : Nat) : (s.clusCtr g k n).launches = s.launches := State.launches_congr rfl
@[simp] theorem State.launches_bbEvent (s : State) (k p : Nat) (d : List Byte) : (s.bbEvent k p d).launches = s.launches := State.launches_congr (by simp)
@[simp] theorem State.launches_raiseVec (s : State) (n v : Nat) : (s.raiseVec n v).launches = s.launches := State.launches_congr (by simp)
@[simp] theorem State.launches_partCtr (s : State) (p : Nat) (k : PartCtr) (n : Nat) : (s.partCtr p k n).launches = s.launches :=
  State.launches_modPart fun _ => rfl
@[simp] theorem State.launches_partClk (s : State) (p : Nat) (k : PartCtr) : (s.partClk p k).launches = s.launches := by simp [State.partClk]
@[simp] theorem State.launches_write (s : State) (a : Nat) (bs : List Byte) : (s.write a bs).launches = s.launches :=
  State.launches_of_same (write_launches s a bs)

@[simp] theorem launches_evqPost (p g : Nat) (r : EvRec) (s : State) : (evqPost p g r s).launches = s.launches := by
  unfold evqPost; dsimp only; split <;> simp
@[simp] theorem launches_evqSend (p g : Nat) (r : EvRec) (s : State) : (evqSend p g r s).launches = s.launches := by
  unfold evqSend evqStand; split <;> simp

/-! Messages to a group leave the platform's messages only. -/

/-- A message to a port leaves all but the messages that have left (13 R356). -/
theorem State.sendPort_same (s : State) (n : Nat) (k : PortKind) (ws : List Nat) (d : List Byte) :
    ∃ o, s.sendPort n k ws d = s.modPlat (fun x => { x with out := o ++ x.out }) ∧ ((s.port n).direct = true → OutMsg.port n k ws d ∈ o) := by
  unfold State.sendPort
  split
  · exact ⟨[.port n k ws d], rfl, by simp⟩
  · exact ⟨[], rfl, by simp_all⟩

/-- Messages to a group leave all but the messages that have left; among these is one for every port in direct mode. -/
theorem sendGroupPorts_same (g : Group) (e : Option Nat) (k : PortKind) (ws : List Nat) (s : State) :
    ∃ o, sendGroupPorts g e k ws s = s.modPlat (fun x => { x with out := o ++ x.out }) ∧
      ∀ x ∈ g.ports, some x.1 ≠ e → (s.port x.1).direct = true → OutMsg.port x.1 k ws [] ∈ o := by
  have h : ∀ (l : List (Nat × Nat)) (s : State), ∃ o, l.foldl (fun s x => s.sendPort x.1 k ws []) s = s.modPlat (fun x => { x with out := o ++ x.out }) ∧
      ∀ x ∈ l, (s.port x.1).direct = true → OutMsg.port x.1 k ws [] ∈ o := by
    intro l
    induction l with
    | nil => exact fun s => ⟨[], rfl, by simp⟩
    | cons y r ih =>
      intro s
      obtain ⟨o, ho, hm⟩ := s.sendPort_same y.1 k ws []
      obtain ⟨o', ho', hm'⟩ := ih (s.sendPort y.1 k ws [])
      refine ⟨o' ++ o, ?_, ?_⟩
      · rw [List.foldl_cons, ho', ho]
        simp [State.modPlat]
      · intro x hx hd
        rcases List.mem_cons.mp hx with rfl | hx
        · exact List.mem_append_right _ (hm hd)
        · refine List.mem_append_left _ (hm' x hx ?_)
          rw [ho]; exact hd
  obtain ⟨o, ho, hm⟩ := h (g.ports.filter fun x => some x.1 ≠ e) s
  exact ⟨o, ho, fun x hx he hd => hm x (by simp [hx, he]) hd⟩

/-- The group has been told, and nothing else has changed. -/
theorem sendGroupPorts_told (g : Group) (e : Option Nat) (k : PortKind) (ws : List Nat) (s : State) : Told (sendGroupPorts g e k ws s) g e k ws := by
  obtain ⟨o, ho, hm⟩ := sendGroupPorts_same g e k ws s
  rw [ho]
  exact fun x hx he hd => List.mem_append_left _ (hm x hx he hd)

@[simp] theorem sendGroupPorts_parts (g : Group) (e : Option Nat) (k : PortKind) (ws : List Nat) (s : State) : (sendGroupPorts g e k ws s).parts = s.parts := by
  obtain ⟨o, ho, -⟩ := sendGroupPorts_same g e k ws s
  rw [ho]; rfl

/-- A change of the launch alone, and what is sent to the group after it. -/
theorem onlyLaunch_modLaunch {p : Nat} {s : State} {l : Launch} (f : Launch → Launch) (h : (s.part p).launch = some l) : OnlyLaunch p s (s.modLaunch p f) (f l) :=
  ⟨s.launch_modLaunch_self f h, rfl, rfl, rfl, fun _ hq => s.part_modLaunch_of_ne f hq⟩

theorem OnlyLaunch.sendGroupPorts {p : Nat} {s t : State} {l : Launch} (h : OnlyLaunch p s t l) (g : Group) (e : Option Nat) (k : PortKind) (ws : List Nat) :
    OnlyLaunch p s (sendGroupPorts g e k ws t) l := by
  obtain ⟨o, ho, -⟩ := sendGroupPorts_same g e k ws t
  rw [ho]
  exact h

/-! Members of domains. -/

/-- The members of a domain are as the partition's clusters and the launch's membership bits say. -/
theorem members_congr {s t : State} {p : Nat} {l l' : Launch} (hr : (t.part p).regs = (s.part p).regs) (hd : l'.dmap = l.dmap) (v d : Nat) :
    members t p l' v d = members s p l v d := by
  unfold members State.hasCore State.hasCluster State.clustersOf
  simp only [hr, hd]

theorem memberClusters_congr {s t : State} {p : Nat} {l l' : Launch} (hr : (t.part p).regs = (s.part p).regs) (hd : l'.dmap = l.dmap) (v d : Nat) :
    memberClusters t p l' v d = memberClusters s p l v d := by
  unfold memberClusters State.clustersOf
  simp only [hr, members_congr hr hd]

end Sys2Proof.Machine
end

section
namespace Sys2Proof.Machine

open Sys2Proof Sys2Proof.Laws

/-! Queues of a cluster. -/

theorem State.queue_congr {s t : State} (h : t.clus = s.clus) (g q : Nat) : t.queue g q = s.queue g q := by
  simp only [State.queue, State.cluster_congr h]

@[simp] theorem State.queue_setQueue_self (s : State) (g q : Nat) (x : TaskQueue) : (s.setQueue g q x).queue g q = x := by
  simp [State.queue, State.setQueue]

theorem State.queue_setQueue_of_ne (s : State) {g q h r : Nat} (x : TaskQueue) (hne : ¬ (h = g ∧ r = q)) : (s.setQueue g q x).queue h r = s.queue h r := by
  by_cases hg : h = g
  · subst hg
    have hr : r ≠ q := fun e => hne ⟨rfl, e⟩
    simp [State.queue, State.setQueue, tget_tput_of_ne _ _ _ hr]
  · simp [State.queue, State.setQueue, State.cluster_modCluster_of_ne _ _ hg]

@[simp] theorem State.queue_clusCtr (s : State) (c : Nat) (k : ClusCtr) (n g q : Nat) : (s.clusCtr c k n).queue g q = s.queue g q := by
  by_cases h : g = c
  · subst h; simp [State.queue, State.clusCtr]
  · simp [State.queue, State.clusCtr, State.cluster_modCluster_of_ne _ _ h]

@[simp] theorem State.queue_write (s : State) (a : Nat) (bs : List Byte) (g q : Nat) : (s.write a bs).queue g q = s.queue g q := State.queue_congr (by simp) g q

@[simp] theorem State.evals_setQueue (s : State) (g q : Nat) (x : TaskQueue) (h : Nat) : ((s.setQueue g q x).cluster h).evals = (s.cluster h).evals := by
  by_cases hg : h = g
  · subst hg; simp [State.setQueue]
  · simp [State.setQueue, State.cluster_modCluster_of_ne _ _ hg]

@[simp] theorem State.evals_clusCtr (s : State) (c : Nat) (k : ClusCtr) (n h : Nat) : ((s.clusCtr c k n).cluster h).evals = (s.cluster h).evals := by
  by_cases hg : h = c
  · subst hg; simp [State.clusCtr]
  · simp [State.clusCtr, State.cluster_modCluster_of_ne _ _ hg]

@[simp] theorem State.evals_write (s : State) (a : Nat) (bs : List Byte) (h : Nat) : ((s.write a bs).cluster h).evals = (s.cluster h).evals := by
  rw [State.cluster_congr (by simp : (s.write a bs).clus = s.clus)]

/-! Pushing an entry (11 R313). -/

/-- An entry of the jig stands in the queue: in its hardware part, in its ring, or waiting. -/
def Queued (s : State) (h r id : Nat) : Prop :=
  (∃ e ∈ (s.queue h r).disp ++ (s.queue h r).dispWait, e.jig = some id) ∨ some id ∈ (s.queue h r).dispRing

/-- Nothing but entries of queues moves: launches, evaluations, time and grants are as before, and no entry is lost. -/
structure Pushes (s t : State) : Prop where
  launches : t.launches = s.launches
  steady : t.steady = s.steady
  evals : ∀ h, (t.cluster h).evals = (s.cluster h).evals
  queued : ∀ h r i, Queued s h r i → Queued t h r i

theorem Pushes.refl (s : State) : Pushes s s := ⟨rfl, rfl, fun _ => rfl, fun _ _ _ h => h⟩

theorem Pushes.trans {s t u : State} (h : Pushes s t) (k : Pushes t u) : Pushes s u :=
  ⟨k.launches.trans h.launches, k.steady.trans h.steady, fun g => (k.evals g).trans (h.evals g), fun g r i hq => k.queued g r i (h.queued g r i hq)⟩

theorem Pushes.of_queue {s t : State} (hl : t.launches = s.launches) (hs : t.steady = s.steady) (he : ∀ h, (t.cluster h).evals = (s.cluster h).evals)
    (hq : ∀ h r, t.queue h r = s.queue h r) : Pushes s t :=
  ⟨hl, hs, he, fun h r i h' => by simpa only [Queued, hq] using h'⟩

/-- A queue is changed in which every entry still stands: in the hardware part, in the ring, or waiting. -/
theorem Pushes.setQueue {s : State} {g q : Nat} {x : TaskQueue}
    (hd : ∀ e ∈ (s.queue g q).disp ++ (s.queue g q).dispWait, e ∈ x.disp ++ x.dispWait ∨ e.jig ∈ x.dispRing)
    (hr : ∀ e ∈ (s.queue g q).dispRing, e ∈ x.dispRing) : Pushes s (s.setQueue g q x) := by
  refine ⟨by simp, by simp, by simp, fun h r i hq => ?_⟩
  by_cases hne : h = g ∧ r = q
  · obtain ⟨rfl, rfl⟩ := hne
    simp only [Queued, State.queue_setQueue_self]
    rcases hq with ⟨e, he, hi⟩ | he
    · exact (hd e he).imp (fun h => ⟨e, h, hi⟩) (fun h => hi ▸ h)
    · exact .inr (hr _ he)
  · simpa only [Queued, State.queue_setQueue_of_ne _ _ hne] using hq

theorem Pushes.write (s : State) (a : Nat) (bs : List Byte) : Pushes s (s.write a bs) := .of_queue (by simp) (by simp) (by simp) (by simp)

theorem Pushes.clusCtr (s : State) (c : Nat) (k : ClusCtr) (n : Nat) : Pushes s (s.clusCtr c k n) := .of_queue (by simp) (by simp) (by simp) (by simp)

/-- A waiting entry goes to the ring. -/
theorem Pushes.spill {s : State} {g q : Nat} {e : DEntry} {rest : List DEntry} (hw : (s.queue g q).dispWait = e :: rest) (a n : Nat) (bs : List Byte) :
    Pushes s ((s.write a bs).setQueue g q { s.queue g q with dispRing := (s.queue g q).dispRing ++ [e.jig], count := n, dispWait := rest }) := by
  refine (Pushes.write s a bs).trans ?_
  refine .setQueue (fun x hx => ?_) fun x hx => ?_
  · rw [State.queue_write, hw] at hx
    rcases (by simpa using hx : x ∈ (s.queue g q).disp ∨ x = e ∨ x ∈ rest) with hx | rfl | hx
    · exact .inl (by simp [hx])
    · exact .inr (by simp)
    · exact .inl (by simp [hx])
  · rw [State.queue_write] at hx
    simp [hx]

theorem settle_pushes (p g q : Nat) (l : Launch) (n : Nat) (s : State) : Pushes s (settle p g q l n s) := by
  induction n generalizing s with
  | zero => exact .refl s
  | succ n ih =>
    unfold settle
    dsimp only
    split
    · exact .refl s
    · rename_i e rest hw
      split
      · refine Pushes.trans ?_ (ih _)
        refine .setQueue (fun x hx => .inl ?_) fun _ hx => hx
        rw [hw] at hx
        simpa using hx
      · split
        · exact ((Pushes.spill hw ..).trans (.clusCtr ..)).trans (ih _)
        · exact .refl s

/-- A push loses no entry, and queues its own. -/
theorem pushEntry_pushes (p q id : Nat) (j : Jig) (l : Launch) (s : State) (g : Nat) :
    Pushes s (pushEntry p q id j l s g) ∧ Queued (pushEntry p q id j l s g) g q id := by
  have hs := settle_pushes p g q l ((s.queue g q).dispWait.length + 1)
  constructor
  · refine Pushes.trans ?_ (hs _)
    refine .setQueue (fun e he => .inl ?_) fun _ he => he
    simp only [List.mem_append] at he ⊢
    exact he.imp_right .inl
  · refine (hs _).queued _ _ _ (.inl ?_)
    rw [State.queue_setQueue_self]
    exact ⟨_, List.mem_append_right _ (List.mem_append_right _ (List.mem_singleton_self _)), rfl⟩

/-- The pushes of a release: an entry stands at every cluster. -/
theorem pushEntries_pushes (p q id : Nat) (j : Jig) (l : Launch) (gs : List Nat) (s : State) :
    Pushes s (gs.foldl (pushEntry p q id j l) s) ∧ ∀ h ∈ gs, Queued (gs.foldl (pushEntry p q id j l) s) h q id := by
  induction gs generalizing s with
  | nil => exact ⟨.refl s, by simp⟩
  | cons g gs ih =>
    obtain ⟨h1, h2⟩ := ih (pushEntry p q id j l s g)
    obtain ⟨k1, k2⟩ := pushEntry_pushes p q id j l s g
    refine ⟨k1.trans h1, fun h hm => ?_⟩
    rcases List.mem_cons.mp hm with rfl | hm
    · exact h1.queued _ _ _ k2
    · exact h2 h hm

/-! Release and retirement (11 R311, R319). -/

/-- Time and grants are as before when a jig retires. -/
@[simp] theorem steady_retireJig (p id : Nat) (s : State) : (retireJig p id s).steady.1 = s.steady.1 := by
  unfold retireJig
  dsimp only
  (repeat' split) <;> simp

@[simp] theorem steady_releaseAt (p slot : Nat) (r : JigRec) (src : JigSource) (lin : List Nat) (argp : W64) (s : State) :
    (releaseAt p slot r src lin argp s).steady.1 = s.steady.1 := by
  unfold releaseAt
  dsimp only
  split
  · rfl
  · split
    · simp
    · split
      · rw [(pushEntries_pushes ..).1.steady]; simp
      · simp

@[simp] theorem steady_releaseJig (p : Nat) (r : JigRec) (src : JigSource) (lin : List Nat) (argp : W64) (s : State) :
    (releaseJig p r src lin argp s).steady.1 = s.steady.1 := by
  unfold releaseJig
  dsimp only
  rw [steady_releaseAt]

/-- The jig that a release makes (11 R311). -/
def releasedJig (p slot : Nat) (r : JigRec) (src : JigSource) (lin : List Nat) (argp : W64) (l : Launch) (s : State) : Jig :=
  { jrec := r, source := src, slot := slot, sels := captureSels (s.part p) r.bpin, rtick := s.modl.frame, frame := l.frame,
    home := (memberClusters s p l r.level r.dsel).headD 0, first := (iterations l r).1, count := (iterations l r).2, next := 0, open_ := 0, lineage := lin, argp := argp, claims := [] }

/-- The launch once it has the jig. -/
def Launch.withJig (l : Launch) (src : JigSource) (j : Jig) : Launch :=
  { l with
    jigs := tput l.jigs l.nextJig j, nextJig := l.nextJig + 1
    nodes := match src with | .node n => tput l.nodes n .released | _ => l.nodes }

theorem Launch.tget?_withJig (l : Launch) (src : JigSource) (j : Jig) : tget? (l.withJig src j).jigs l.nextJig = some j := tget?_tput_self ..

/-- A release of a jig with iterations: the launch takes it, and its entry goes to every cluster with a member. -/
theorem releaseAt_eq {p slot : Nat} {r : JigRec} {src : JigSource} {lin : List Nat} {argp : W64} {s : State} {l : Launch}
    (hl : (s.part p).launch = some l) (hc : (iterations l r).2 ≠ 0) :
    let j := releasedJig p slot r src lin argp l s
    releaseAt p slot r src lin argp s = (memberClusters s p l r.level r.dsel).foldl (pushEntry p r.queue l.nextJig j (l.withJig src j))
      ((s.modLaunch p fun x => x.withJig src j).partCtr p .jigsrel 1) := by
  intro j
  have h : (((s.modLaunch p fun x => x.withJig src j).partCtr p .jigsrel 1).part p).launch = some (l.withJig src j) :=
    (congrFun (State.launches_partCtr ..) p).trans (State.launch_modLaunch_self _ hl)
  unfold releaseAt
  rw [hl]
  dsimp only
  rw [if_neg hc, State.modLaunch_congr (g := fun x => x.withJig src j) hl rfl, h]
  rfl

/-- What a release of a jig with iterations leaves. -/
theorem releaseAt_spec {p slot : Nat} {r : JigRec} {src : JigSource} {lin : List Nat} {argp : W64} {s : State} {l : Launch}
    (hl : (s.part p).launch = some l) (hc : (iterations l r).2 ≠ 0) :
    ((releaseAt p slot r src lin argp s).part p).launch = some (l.withJig src (releasedJig p slot r src lin argp l s)) ∧
      (∀ h, ((releaseAt p slot r src lin argp s).cluster h).evals = (s.cluster h).evals) ∧ Released p s (releaseAt p slot r src lin argp s) l r src lin := by
  rw [releaseAt_eq hl hc]
  generalize hj : releasedJig p slot r src lin argp l s = j
  generalize hu : (s.modLaunch p fun x => x.withJig src j).partCtr p .jigsrel 1 = u
  obtain ⟨h1, h2⟩ := pushEntries_pushes p r.queue l.nextJig j (l.withJig src j) (memberClusters s p l r.level r.dsel) u
  have hu1 : (u.part p).launch = some (l.withJig src j) := by
    have : u.launches = _ := hu ▸ State.launches_partCtr ..
    exact (congrFun this p).trans (State.launch_modLaunch_self _ hl)
  have hL := (congrFun h1.launches p).trans hu1
  refine ⟨hL, fun h => (h1.evals h).trans (by rw [State.cluster_congr (by rw [← hu]; rfl : u.clus = s.clus)]), ?_⟩
  refine ⟨_, j, hL, rfl, l.tget?_withJig .., ?_⟩
  subst hj
  refine ⟨rfl, rfl, rfl, rfl, rfl, rfl, rfl, rfl, fun id hid => tget?_tput_of_ne _ _ hid, h2⟩

/-- A jig released from a launch that differs in its delayed pushes is the same. -/
theorem Released.of_delayed {p : Nat} {s u t : State} {l : Launch} {d : List DelayedJig} {j : JigRec} {src : JigSource} {lin : List Nat}
    (h : Released p u t { l with delayed := d } j src lin) (hm : u.modl = s.modl) (hr : (u.part p).regs = (s.part p).regs) : Released p s t l j src lin := by
  unfold Released at h ⊢
  rw [memberClusters_congr (l := l) (l' := { l with delayed := d }) hr rfl, hm] at h
  exact h

end Sys2Proof.Machine
end

section
namespace Sys2Proof.Machine

open Sys2Proof Sys2Proof.Laws

/-! Nodes (11 R306). -/

/-- Node `i` of a launch is due: it runs in the frame and has not been released, its base tick has come, and its dependences have retired. -/
def NodeDue (s : State) (l : Launch) (i : Nat) (n : TNode) : Prop :=
  l.phase = .active ∧ n.runs l.frame = true ∧ tget .waiting l.nodes i = .waiting ∧ s.reached ((l.frameStart l.frame + n.relt) % 2 ^ 48) = true ∧
    ∀ d ∈ n.deps, ∀ m, l.tt.nodes[d]? = some m → m.runs l.frame = true → tget .waiting l.nodes d = .done

theorem depsMet_iff (l : Launch) (n : TNode) :
    depsMet l n = true ↔ ∀ d ∈ n.deps, ∀ m, l.tt.nodes[d]? = some m → m.runs l.frame = true → tget .waiting l.nodes d = .done := by
  simp only [depsMet, List.all_eq_true]
  refine forall_congr' fun d => imp_congr_right fun _ => ?_
  cases l.tt.nodes[d]? with
  | none => simp
  | some m => cases h : m.runs l.frame <;> simp [h]

/-- The test of NODE_RELEASE. -/
theorem nodeDue_iff (s : State) (l : Launch) (i : Nat) (n : TNode) :
    (l.phase ≠ .active || !n.runs l.frame || tget .waiting l.nodes i ≠ .waiting || !s.reached ((l.frameStart l.frame + n.relt) % 2 ^ 48) || !depsMet l n) = true ↔
      ¬ NodeDue s l i n := by
  rw [NodeDue, ← depsMet_iff]
  simp only [Bool.or_eq_true, decide_eq_true_eq, Bool.not_eq_true', ← Bool.not_eq_true, ne_eq]
  tauto

variable {p i : Nat} {s : State} {l : Launch} {n : TNode}

theorem nodeRelease_of_not_due (hl : (s.part p).launch = some l) (hn : l.tt.nodes[i]? = some n) (h : ¬ NodeDue s l i n) : nodeRelease p i s = s := by
  unfold nodeRelease
  simp only [hl, hn]
  exact if_pos ((nodeDue_iff ..).mpr h)

/-- A conditional node is released or skipped as its predicate says. -/
def nodeTake (p i : Nat) (n : TNode) (v : Nat) (s : State) : State :=
  if (v == 0) == n.pinv then releaseJig p n.jrec (.node i) [] 0#64 s else s.modLaunch p fun l => { l with nodes := tput l.nodes i .done }

theorem nodeRelease_of_due (hl : (s.part p).launch = some l) (hn : l.tt.nodes[i]? = some n) (h : NodeDue s l i n) (hc : n.cond = false) :
    nodeRelease p i s = releaseJig p n.jrec (.node i) [] 0#64 s := by
  have hd := mt (nodeDue_iff s l i n).mp (not_not.mpr h)
  unfold nodeRelease
  simp only [hl, hn]
  rw [if_neg hd, hc]
  rfl

theorem nodeRelease_of_predicate (hl : (s.part p).launch = some l) (hn : l.tt.nodes[i]? = some n) (h : NodeDue s l i n) (hc : n.cond = true) {b : Nat}
    (hb : predicateAddr s p l n ((l.frameStart l.frame + n.relt) % 2 ^ 48) = some b) (ho : s.owned b = true) (he : s.eccHit b 4 = false) (hx : s.expired b = false) :
    nodeRelease p i s = nodeTake p i n (s.value b 4) s := by
  have hd := mt (nodeDue_iff s l i n).mp (not_not.mpr h)
  unfold nodeRelease
  simp only [hl, hn]
  rw [if_neg hd]
  simp only [hc, hb, ho, he, hx, Bool.not_true, Bool.false_eq_true, if_false, nodeTake]

/-- A node's jig is released, and the node with it. -/
theorem releaseJig_node (hl : (s.part p).launch = some l) (r : JigRec) (i : Nat) (hc : (iterations l r).2 ≠ 0) :
    Released p s (releaseJig p r (.node i) [] 0#64 s) l r (.node i) [] ∧
      ∃ l', ((releaseJig p r (.node i) [] 0#64 s).part p).launch = some l' ∧ tget .waiting l'.nodes i = .released := by
  obtain ⟨h1, -, h3⟩ := releaseAt_spec (slot := i) (src := .node i) (lin := []) (argp := 0#64) hl hc
  exact ⟨h3, _, h1, tget_tput_self ..⟩

/-! Delayed pushes (11 R309). -/

theorem findIdx?_eq_none {α : Type} {f : α → Bool} {l : List α} (h : ∀ x ∈ l, f x = false) : findIdx? f l = none := by
  induction l with
  | nil => rfl
  | cons x r ih => simp [findIdx?, h x (by simp), ih fun y hy => h y (by simp [hy])]

theorem findIdx?_append_cons {α : Type} {f : α → Bool} {l : List α} {x : α} {r : List α} (h : ∀ y ∈ l, f y = false) (hx : f x = true) :
    findIdx? f (l ++ x :: r) = some l.length := by
  induction l with
  | nil => simp [findIdx?, hx]
  | cons y l ih => simp [findIdx?, h y (by simp), ih fun z hz => h z (by simp [hz])]

theorem ldel_append_cons {α : Type} (l : List α) (x : α) (r : List α) : ldel (l ++ x :: r) l.length = l ++ r := by
  induction l with
  | nil => rfl
  | cons y l ih => simp [ldel, ih]

theorem jpushDue_of_none (hl : (s.part p).launch = some l) (h : l.phase = .active → ∀ d ∈ l.delayed, s.reached d.due = false) : jpushDue p s = s := by
  unfold jpushDue
  simp only [hl]
  split
  · rfl
  · rename_i ha
    rw [findIdx?_eq_none (h (not_not.mp ha))]

/-- The first delayed push whose tick has come is released with its number in the pool. -/
theorem jpushDue_of_due (hl : (s.part p).launch = some l) (ha : l.phase = .active) {pre post : List DelayedJig} {d : DelayedJig} (hd : l.delayed = pre ++ d :: post)
    (hp : ∀ e ∈ pre, s.reached e.due = false) (hr : s.reached d.due = true) :
    jpushDue p s = releaseAt p d.slot d.jrec .pool d.lineage 0#64 (s.modLaunch p fun _ => { l with delayed := pre ++ post }) := by
  have h1 : findIdx? (fun d : DelayedJig => s.reached d.due) l.delayed = some pre.length := by rw [hd]; exact findIdx?_append_cons hp hr
  have h2 : l.delayed[pre.length]? = some d := by simp [hd]
  have h3 : ldel l.delayed pre.length = pre ++ post := by rw [hd, ldel_append_cons]
  unfold jpushDue
  simp only [hl]
  rw [if_neg (not_not.mpr ha), h1]
  simp only [h2]
  rw [State.modLaunch_congr (g := fun _ => { l with delayed := pre ++ post }) hl (by rw [h3])]

theorem jpushDue_released (hl : (s.part p).launch = some l) (ha : l.phase = .active) {pre post : List DelayedJig} {d : DelayedJig} (hd : l.delayed = pre ++ d :: post)
    (hp : ∀ e ∈ pre, s.reached e.due = false) (hr : s.reached d.due = true) (hc : (iterations l d.jrec).2 ≠ 0) :
    Released p s (jpushDue p s) l d.jrec .pool d.lineage ∧ ∃ l', ((jpushDue p s).part p).launch = some l' ∧ l'.delayed = pre ++ post := by
  rw [jpushDue_of_due hl ha hd hp hr]
  obtain ⟨h1, -, h3⟩ := releaseAt_spec (slot := d.slot) (r := d.jrec) (src := .pool) (lin := d.lineage) (argp := 0#64)
    (State.launch_modLaunch_self (fun _ => { l with delayed := pre ++ post }) hl) hc
  exact ⟨h3.of_delayed rfl (by simp), _, h1, rfl⟩

/-! Evaluations (12 R341). -/

/-- The jig of an evaluation's record, in the domain of the cell's hint. -/
def Evaluation.jigRec (ev : Evaluation) (g : Nat) (bs : List Byte) : JigRec :=
  { JigRec.ofBytes bs with level := (hintDomain (fieldOf ev.rec_ 0x10 4) g ev.loader).1, dsel := (hintDomain (fieldOf ev.rec_ 0x10 4) g ev.loader).2 }

/-- The oldest evaluation, once its record has been read, fails, waits for the pool, or releases its jig. -/
theorem evaluationStart_of_read {g : Nat} {ev : Evaluation} {rest : List Evaluation} {bs : List Byte} {s' : State} (hp : s.partOf? g = some p)
    (he : (s.cluster g).evals = ev :: rest) (hl : (s.part p).launch = some l) (ha : l.phase = .active)
    (hr : ev.jig = none ∧ dRead p g (.evaluation ev.cell) (fieldOf ev.rec_ 0 8) 64 s = .ok bs s' ∨ ev.jig = some bs ∧ s' = s) :
    evaluationStart g s =
      if jigOk s' p l bs (ev.jigRec g bs) = false then failCell p ev.cell 2 (s'.modCluster g fun k => { k with evals := rest })
      else if l.poolFree = false then (s'.partClk p .poolwaitclk).modCluster g fun k => { k with evals := { ev with jig := some bs } :: rest }
      else releaseJig p { ev.jigRec g bs with prio := bitsOf (fieldOf ev.rec_ 0x14 1) 2 0, arg := ev.va } (.cell ev.cell) ev.lineage
        (BitVec.ofNat 64 (fieldOf ev.rec_ 8 8)) (s'.modCluster g fun k => { k with evals := rest }) := by
  unfold evaluationStart
  simp only [he, hp, Option.getD_some, hl]
  rw [if_neg (not_not.mpr ha)]
  rcases hr with ⟨hj, hd⟩ | ⟨hj, rfl⟩
  · simp only [hj, hd, Bool.not_eq_true']
    rfl
  · simp only [hj, Bool.not_eq_true']
    rfl

/-- The jig of a cell takes the lowest free number of the pool. -/
theorem releaseJig_cell {c : Nat} {lin : List Nat} {argp : W64} {r : JigRec} (hl : (s.part p).launch = some l) :
    releaseJig p r (.cell c) lin argp s = releaseAt p l.poolSlot r (.cell c) lin argp s := by
  unfold releaseJig
  rw [hl]

/-- An evaluation releases its jig, and leaves the others. -/
theorem releaseJig_cell_spec {c : Nat} {lin : List Nat} {argp : W64} {r : JigRec} (hl : (s.part p).launch = some l) (hc : (iterations l r).2 ≠ 0) :
    Released p s (releaseJig p r (.cell c) lin argp s) l r (.cell c) lin ∧ (∀ g, ((releaseJig p r (.cell c) lin argp s).cluster g).evals = (s.cluster g).evals) ∧
      ∀ l' J, ((releaseJig p r (.cell c) lin argp s).part p).launch = some l' → tget? l'.jigs l.nextJig = some J → J.argp = argp := by
  rw [releaseJig_cell hl]
  obtain ⟨h1, h2, h3⟩ := releaseAt_spec (slot := l.poolSlot) (src := .cell c) (lin := lin) (argp := argp) hl hc
  refine ⟨h3, h2, fun l' J hl' hJ => ?_⟩
  obtain rfl := Option.some.inj (h1.symm.trans hl')
  exact Option.some.inj ((l.tget?_withJig ..).symm.trans hJ) ▸ rfl

end Sys2Proof.Machine
end

section
namespace Sys2Proof.Machine

open Sys2Proof Sys2Proof.Laws

/-! What an interval pulse does beside the frames: it counts, and writes the platform's records (01 R38; 15 R417-R420). -/

/-- Time, grants, launches and the attributes of memory are as before. -/
structure Counts (s t : State) : Prop where
  steady : t.steady = s.steady
  launches : t.launches = s.launches
  attr : t.attr = s.attr

theorem Counts.refl (s : State) : Counts s s := ⟨rfl, rfl, rfl⟩

theorem Counts.trans {s t u : State} (h : Counts s t) (k : Counts t u) : Counts s u := ⟨k.steady.trans h.steady, k.launches.trans h.launches, k.attr.trans h.attr⟩

/-- Steps that only count, in states with the launches of the first. -/
theorem Counts.foldl {α : Type} {f : State → α → State} {s : State} {l : List α} (h : ∀ t, t.launches = s.launches → ∀ x ∈ l, Counts t (f t x)) :
    Counts s (l.foldl f s) := by
  induction l generalizing s with
  | nil => exact .refl s
  | cons x r ih =>
    have hx := h s rfl x (by simp)
    exact hx.trans (ih fun t ht y hy => h t (ht.trans hx.launches) y (by simp [hy]))

theorem softPulse_counts (es : List SoftError) (s : State) : Counts s (softPulse es s) :=
  .foldl fun t _ e _ => ⟨(t.modPlat _).steady_bbEvent .. |>.trans (State.steady_modPlat rfl), by simp, by simp⟩

theorem coreClocks_counts (s : State) : Counts s (coreClocks s) := .foldl fun _ _ _ _ => ⟨by simp, by simp, by simp⟩

theorem countRanges_counts (p : Nat) (s : State) : Counts s (countRanges p s) := by
  unfold countRanges
  split
  · exact .refl s
  · exact .foldl fun _ _ _ _ => ⟨by simp, by simp, by simp⟩

theorem countWaits_counts (s : State) : Counts s (countWaits s) := by
  refine Counts.trans (.foldl fun _ _ k _ => .foldl fun _ _ w _ => ?_) (.foldl fun t _ p _ => ?_)
  · exact ⟨by simp, by simp, by simp⟩
  · split
    · exact .refl t
    · dsimp only
      split
      · exact (countRanges_counts p t).trans ⟨by simp, by simp, by simp⟩
      · exact countRanges_counts p t

theorem lpPulse_counts (vs : List Sensor) (s : State) : Counts s (lpPulse vs s) := ⟨State.steady_modPlat rfl, rfl, rfl⟩

theorem columnPulse_counts (c : Table TCol) (s : State) (v : Sensor) : Counts s (columnPulse c s v) := by
  have put (s : State) (y : TCol) : Counts s (s.modPlat fun z => { z with tcol := tput z.tcol v.col y }) := ⟨State.steady_modPlat rfl, rfl, rfl⟩
  have told (s : State) (k p : Nat) (d : List Byte) (n m : Nat) : Counts s ((s.bbEvent k p d).raiseVec n m) := ⟨by simp, by simp, by simp⟩
  unfold columnPulse
  extract_lets x x' cause p put' y s1 s2 cap
  have h : Counts s s2 := by
    simp only [s2]
    split
    · exact put ..
    · exact (put ..).trans (told ..)
  split
  · exact h
  · exact (h.trans (put ..)).trans (told ..)

theorem thermalPulse_counts (vs : List Sensor) (s : State) : Counts s (thermalPulse vs s) := by
  refine Counts.trans (.foldl fun _ _ v _ => ?_) (.foldl fun t _ v _ => columnPulse_counts _ t v)
  exact ⟨State.steady_modPlat rfl, rfl, rfl⟩

/-- The state in which the frames of an interval pulse are looked at: its counts are made, and the interval has opened. -/
def pulseOpened (soft : List SoftError) (broken : List Nat) (s : State) : State :=
  let s := countWaits (coreClocks (breakUnits broken (softPulse soft s)))
  { s with modl := { s.modl with intcnt := (s.modl.intcnt + 1) % 2 ^ 48 } }

/-- What an interval pulse does after the frames. -/
def pulseClosed (sensors : List Sensor) (s : State) : State := thermalPulse sensors (lpPulse sensors (powerPulse s))

theorem exec_intervalPulse (sensors : List Sensor) (soft : List SoftError) (broken : List Nat) (s : State) :
    exec (.intervalPulse sensors soft broken) s = .next (pulseClosed sensors (tickOrSlip (pulseOpened soft broken s))) := rfl

/-- The counts of a pulse. -/
theorem pulseOpened_counts (soft : List SoftError) (broken : List Nat) (s : State) :
    ∃ u, Counts (breakUnits broken (softPulse soft s)) u ∧ pulseOpened soft broken s = { u with modl := { u.modl with intcnt := (u.modl.intcnt + 1) % 2 ^ 48 } } :=
  ⟨_, (coreClocks_counts _).trans (countWaits_counts _), rfl⟩

theorem pulseOpened_spec (soft : List SoftError) (broken : List Nat) (s : State) :
    (pulseOpened soft broken s).modl = { s.modl with intcnt := (s.modl.intcnt + 1) % 2 ^ 48 } ∧ (pulseOpened soft broken s).plat.grants = s.plat.grants ∧
      (pulseOpened soft broken s).launches = s.launches ∧ ∀ k ∈ broken, k ∈ (pulseOpened soft broken s).attr.ecc := by
  obtain ⟨u, hu, ho⟩ := pulseOpened_counts soft broken s
  have hs := softPulse_counts soft s
  have hus : u.steady = s.steady := hu.steady.trans hs.steady
  rw [ho]
  refine ⟨by rw [State.modl_of_steady hus], (State.grants_of_steady hus : u.plat.grants = _), hu.launches.trans hs.launches, fun k hk => ?_⟩
  · show k ∈ u.attr.ecc
    rw [hu.attr]
    exact List.mem_append_left _ hk

/-- After the frames, the shares written at the last pulse are in force; time, launches and memory are as before (15 R417). -/
theorem pulseClosed_spec (sensors : List Sensor) (s : State) :
    (pulseClosed sensors s).modl = s.modl ∧ (pulseClosed sensors s).launches = s.launches ∧ (pulseClosed sensors s).attr = s.attr ∧
      (pulseClosed sensors s).plat.forceB = s.plat.bshare ∧ (pulseClosed sensors s).plat.forceD = s.plat.dshare := by
  have h : Counts (powerPulse s) (pulseClosed sensors s) := (lpPulse_counts ..).trans (thermalPulse_counts ..)
  have hg : (pulseClosed sensors s).plat.grants = (powerPulse s).plat.grants := State.grants_of_steady h.steady
  exact ⟨(State.modl_of_steady h.steady).trans rfl, h.launches, h.attr, congrArg (fun x => x.2.1) hg, congrArg (fun x => x.2.2) hg⟩

/-! Frames (11 R305, R307). -/

theorem State.reached_congr {s t : State} (h : t.modl.frame = s.modl.frame) (n : Nat) : t.reached n = s.reached n := by simp only [State.reached, h]

theorem Launch.closes_congr (l : Launch) {s t : State} (h : t.modl.frame = s.modl.frame) : l.closes t = l.closes s := by
  simp only [Launch.closes, State.reached_congr h]

theorem frameQuiet_iff (l : Launch) :
    frameQuiet l = true ↔ (∀ i n, l.tt.nodes[i]? = some n → n.runs l.frame = true → tget .waiting l.nodes i = .done) ∧ ∀ x ∈ l.jigs, x.2.frame ≠ l.frame := by
  simp only [frameQuiet, Bool.and_eq_true, List.all_eq_true, List.mem_range, decide_eq_true_eq]
  refine and_congr_left fun _ => ⟨fun h i n hn hr => ?_, fun h i hi => ?_⟩
  · have := h i (List.getElem?_eq_some_iff.mp hn).1
    simpa [hn, hr] using this
  · rw [List.getElem?_eq_getElem hi]
    cases hr : (l.tt.nodes[i]).runs l.frame with
    | false => simp [hr]
    | true => simp [h i _ (List.getElem?_eq_getElem hi) hr]

theorem Launch.closes_iff (l : Launch) (s : State) :
    l.closes s = true ↔ l.phase = .active ∧ l.complete = false ∧ s.reached (l.frameStart l.frame) = true ∧ frameQuiet l = true ∧ ∀ d ∈ l.delayed, s.reached d.due = false := by
  simp [Launch.closes, and_assoc]

/-- The launch with its frame marked, if it is complete. -/
def Launch.marked (s : State) (l : Launch) : Launch := { l with complete := l.complete || l.closes s }

theorem Launch.marked_of_closes {s : State} {l : Launch} (h : l.closes s = true) : l.marked s = { l with complete := true } := by simp [Launch.marked, h]

theorem Launch.marked_of_not_closes {s : State} {l : Launch} (h : l.closes s = false) : l.marked s = l := by simp [Launch.marked, h]

variable {p : Nat} {s : State} {l : Launch}

theorem closeFrame_of_not_closes (hl : (s.part p).launch = some l) (h : l.closes s = false) : closeFrame p s = s := by
  unfold closeFrame
  simp [hl, h]

theorem closeFrame_of_none (hl : (s.part p).launch = some l) (h : l.closes s = true) (hg : l.group = none) :
    closeFrame p s = s.modLaunch p fun l => { l with complete := true } := by simp [closeFrame, hl, h, hg]

theorem closeFrame_of_some (hl : (s.part p).launch = some l) (h : l.closes s = true) {g : Group} (hg : l.group = some g) :
    closeFrame p s = sendGroupPorts g none .frameDone [l.frame, g.rank] (s.modLaunch p fun l => { l with complete := true }) := by simp [closeFrame, hl, h, hg]

/-- A complete frame is marked, and the group is told. -/
theorem closeFrame_of_closes (hl : (s.part p).launch = some l) (h : l.closes s = true) :
    OnlyLaunch p s (closeFrame p s) { l with complete := true } ∧ ∀ g, l.group = some g → Told (closeFrame p s) g none .frameDone [l.frame, g.rank] := by
  have hm := onlyLaunch_modLaunch (fun l => { l with complete := true }) hl
  obtain hg | ⟨g, hg⟩ := Option.eq_none_or_eq_some l.group
  · rw [closeFrame_of_none hl h hg]
    exact ⟨hm, by simp [hg]⟩
  · rw [closeFrame_of_some hl h hg]
    exact ⟨hm.sendGroupPorts .., fun g' hg' => Option.some.inj (hg.symm.trans hg') ▸ sendGroupPorts_told _ _ _ _ _⟩

@[simp] theorem steady_closeFrame (p : Nat) (s : State) : (closeFrame p s).steady = s.steady := by
  unfold closeFrame
  (repeat' split) <;> simp

theorem closeFrame_launches (p : Nat) (s : State) : (closeFrame p s).launches = Function.update s.launches p ((s.launches p).map (Launch.marked s)) := by
  cases hl : (s.part p).launch with
  | none =>
    have : s.launches p = none := hl
    rw [show closeFrame p s = s by simp [closeFrame, hl], this, Option.map_none, ← this, Function.update_eq_self]
  | some l =>
    have h1 : s.launches p = some l := hl
    rw [h1]
    cases h : l.closes s with
    | false => rw [closeFrame_of_not_closes hl h, Option.map_some, Launch.marked_of_not_closes h, ← h1, Function.update_eq_self]
    | true =>
      obtain ⟨⟨hp, -, -, -, hq⟩, -⟩ := closeFrame_of_closes hl h
      rw [Option.map_some, Launch.marked_of_closes h]
      funext q
      by_cases hqp : q = p
      · subst hqp; simpa [State.launches] using hp
      · simp [State.launches, hqp, hq q hqp]

/-- Launches after a step for each partition that changes its own launch. -/
theorem launches_foldl {f : State → Nat → State} {h : Launch → Launch} {ok : State → Prop}
    (hf : ∀ s p, ok s → ok (f s p) ∧ (f s p).launches = Function.update s.launches p ((s.launches p).map h)) {ps : List Nat} (hn : ps.Nodup) {s : State} (hs : ok s) (q : Nat) :
    (ps.foldl f s).launches q = if q ∈ ps then (s.launches q).map h else s.launches q := by
  induction ps generalizing s with
  | nil => simp
  | cons p ps ih =>
    obtain ⟨hp, hn⟩ := List.nodup_cons.mp hn
    obtain ⟨h1, h2⟩ := hf s p hs
    rw [List.foldl_cons, ih hn h1, h2]
    by_cases hq : q = p
    · subst hq; simp [hp]
    · simp [hq]

/-- Every complete frame is marked. -/
def closeFrames (s : State) : State := (List.range 24).foldl (fun s p => closeFrame p s) s

@[simp] theorem steady_closeFrames (s : State) : (closeFrames s).steady = s.steady := foldl_fixed State.steady _ (by simp) _ _

theorem closeFrames_launches (s : State) {q : Nat} (hq : q < 24) : (closeFrames s).launches q = (s.launches q).map (Launch.marked s) := by
  have h := launches_foldl (f := fun s p => closeFrame p s) (h := Launch.marked s) (ok := fun t => t.modl = s.modl)
    (fun t p ht => ⟨(State.modl_of_steady (steady_closeFrame p t)).trans ht, by
      have : Launch.marked t = Launch.marked s := funext fun l => by rw [Launch.marked, Launch.marked, l.closes_congr (congrArg Module.frame ht)]
      rw [closeFrame_launches, this]⟩) (List.nodup_range (n := 24)) (s := s) rfl q
  rwa [if_pos (List.mem_range.mpr hq)] at h

theorem mem_holders {s : State} {q : Nat} : q ∈ holders s ↔ q < 24 ∧ ∃ l, s.launches q = some l ∧ l.holds s.modl.frame = true := by
  simp only [holders, List.mem_filter, List.mem_range, State.launches]
  refine and_congr_right fun _ => ?_
  cases (s.part q).launch <;> simp

/-- Those that hold the counter once frames are marked. -/
theorem mem_holders_closeFrames {s : State} {q : Nat} :
    q ∈ holders (closeFrames s) ↔ q < 24 ∧ ∃ l, s.launches q = some l ∧ (l.marked s).holds s.modl.frame = true := by
  rw [mem_holders]
  refine and_congr_right fun hq => ?_
  rw [closeFrames_launches s hq, State.modl_of_steady (steady_closeFrames s)]
  cases s.launches q <;> simp

/-! The tick (00 R2; 09 R248). -/

@[simp] theorem steady_swapTick (p st : Nat) (s : State) : (swapTick p st s).steady = s.steady := by
  unfold swapTick
  dsimp only
  (repeat' split) <;> simp

@[simp] theorem launches_swapTick (p st : Nat) (s : State) : (swapTick p st s).launches = s.launches := by
  have hm (s : State) (x : Part → BitVec 4) (y : Part → Table Pending) : (s.modPart p fun pt => { pt with sel := x pt, swap := y pt }).launches = s.launches :=
    State.launches_modPart fun _ => rfl
  unfold swapTick
  dsimp only
  (repeat' split) <;> simp [hm]

/-- A swap of a partition without a launch posts no record. -/
theorem swapTick_counts {p : Nat} (st : Nat) {s : State} (h : s.launches p = none) : Counts s (swapTick p st s) := by
  refine ⟨by simp, by simp, ?_⟩
  have hl : (s.part p).launch = none := h
  unfold swapTick
  simp only [hl, Bool.and_false]
  (repeat' split) <;> simp_all

/-- The next tick of the frame counter. -/
def State.nextTick (s : State) : Nat := (s.modl.frame + 1) % 2 ^ 48

/-- The launches enter their frames. -/
def stepFrames (s : State) : State :=
  (List.range 24).foldl (fun t p => if (t.part p).launch.isSome then t.modLaunch p (stepFrame s.nextTick) else t) { s with modl := { s.modl with frame := s.nextTick } }

/-- The swaps that are pending take effect. -/
def swapTicks (s : State) : State := (List.range 24).foldl (fun s p => (List.range 4).foldl (fun s st => swapTick p st s) s) s

theorem tick_eq (s : State) : tick s = swapTicks (stepFrames s) := rfl

@[simp] theorem steady_swapTicks (s : State) : (swapTicks s).steady = s.steady := foldl_fixed State.steady _ (fun _ _ => foldl_fixed State.steady _ (by simp) _ _) _ _

@[simp] theorem launches_swapTicks (s : State) : (swapTicks s).launches = s.launches :=
  foldl_fixed State.launches _ (fun _ _ => foldl_fixed State.launches _ (by simp) _ _) _ _

theorem stepFrames_steady (s : State) : (stepFrames s).steady = ({ s with modl := { s.modl with frame := s.nextTick } } : State).steady :=
  foldl_fixed State.steady _ (by intro t p; split <;> simp) _ _

theorem tick_steady (s : State) : (tick s).steady = ({ s with modl := { s.modl with frame := s.nextTick } } : State).steady :=
  (steady_swapTicks _).trans (stepFrames_steady s)

theorem tick_modl (s : State) : (tick s).modl = { s.modl with frame := s.nextTick } := State.modl_of_steady (tick_steady s)

theorem tick_launches (s : State) {q : Nat} (hq : q < 24) : (tick s).launches q = (s.launches q).map (stepFrame s.nextTick) := by
  rw [tick_eq, launches_swapTicks]
  have h := launches_foldl (f := fun t p => if (t.part p).launch.isSome then t.modLaunch p (stepFrame s.nextTick) else t) (h := stepFrame s.nextTick) (ok := fun _ => True)
    (fun t p _ => ⟨trivial, by
      cases hl : (t.part p).launch with
      | none =>
        have h1 : t.launches p = none := hl
        simp only [Option.isSome_none, Bool.false_eq_true, if_false]
        rw [h1, Option.map_none, ← h1, Function.update_eq_self]
      | some l => exact t.launches_modLaunch p _⟩) (List.nodup_range (n := 24)) (s := { s with modl := { s.modl with frame := s.nextTick } }) trivial q
  rw [if_pos (List.mem_range.mpr hq)] at h
  exact h

end Sys2Proof.Machine
end

section
namespace Sys2Proof.Machine

open Sys2Proof Sys2Proof.Laws

/-! What the tick that ends still holds (11 R306, R309). -/

/-- A node of the partition's launch is due. -/
def HasDue (s : State) (q : Nat) : Prop := ∃ l i n, s.launches q = some l ∧ l.tt.nodes[i]? = some n ∧ NodeDue s l i n

/-- A delayed push of the partition's launch is due. -/
def HasOwed (s : State) (q : Nat) : Prop := ∃ l d, s.launches q = some l ∧ l.phase = .active ∧ d ∈ l.delayed ∧ s.reached d.due = true

theorem foldl_eq_self {α β : Type} {f : β → α → β} {b : β} {l : List α} (h : ∀ x ∈ l, f b x = b) : l.foldl f b = b := by
  induction l with
  | nil => rfl
  | cons x r ih => rw [List.foldl_cons, h x (by simp), ih fun y hy => h y (by simp [hy])]

theorem releaseDue_of_none {s : State} (hd : ∀ q, q < 24 → ¬ HasDue s q) (ho : ∀ q, q < 24 → ¬ HasOwed s q) : releaseDue s = s := by
  refine foldl_eq_self fun q hq => ?_
  replace hq := List.mem_range.mp hq
  split
  · rename_i l hl
    have hj : jpushDue q s = s := jpushDue_of_none hl fun ha d hm => Bool.eq_false_iff.mpr fun hr => ho q hq ⟨l, d, hl, ha, hm, hr⟩
    rw [foldl_eq_self (f := fun s _ => jpushDue q s) (l := List.range l.delayed.length) fun _ _ => hj]
    refine foldl_eq_self fun i hi => ?_
    have hn := List.getElem?_eq_getElem (List.mem_range.mp hi)
    exact nodeRelease_of_not_due hl hn fun h => hd q hq ⟨l, i, _, hl, hn, h⟩
  · rfl

@[simp] theorem steady_nodeRelease (p i : Nat) (s : State) : (nodeRelease p i s).steady.1 = s.steady.1 := by
  unfold nodeRelease
  dsimp only
  (repeat' split) <;> simp

@[simp] theorem steady_jpushDue (p : Nat) (s : State) : (jpushDue p s).steady.1 = s.steady.1 := by
  unfold jpushDue
  (repeat' split) <;> simp

@[simp] theorem steady_releaseDue (s : State) : (releaseDue s).steady.1 = s.steady.1 := by
  refine State.fst_foldl (fun s p => ?_) _ _
  split
  · exact (State.fst_foldl (fun t i => steady_nodeRelease p i t) _ _).trans (State.fst_foldl (fun t _ => steady_jpushDue p t) _ _)
  · rfl

/-! The tick or the slip (11 R307). -/

@[simp] theorem steady_slipRecord (p : Nat) (s : State) : (slipRecord p s).steady = s.steady := by
  unfold slipRecord
  split <;> simp

/-- A slip begins: each launch that holds slips. -/
def beginSlip (ps : List Nat) (s : State) : State :=
  ps.foldl (fun s p => (slipRecord p s).modPlat fun x => { x with slips := (x.slips + 1) % 2 ^ 64 }) { s with modl := { s.modl with slip := true } }

theorem beginSlip_steady (ps : List Nat) (s : State) : (beginSlip ps s).steady = ({ s with modl := { s.modl with slip := true } } : State).steady :=
  foldl_fixed State.steady _ (fun t p => (State.steady_modPlat (s := slipRecord p t) rfl).trans (steady_slipRecord p t)) _ _

/-- The state in which a hold that is over lets the counter go on. -/
def slipEnded (s : State) : State :=
  (({ s with modl := { s.modl with slip := false } } : State).modPlat fun x => { x with slipclk := (x.slipclk + Config.freeClocks s.freeCtr % 601) % 2 ^ 64 }).drawn

theorem endHold_of_not_slip {s : State} (h : s.modl.slip = false) : endHold s = s := by simp [endHold, h]

theorem endHold_of_free {s : State} (h : s.modl.slip = true) (hh : holders s = []) : endHold s = tick (slipEnded s) := by
  simp [endHold, h, hh, slipEnded]

/-- What a pulse does once complete frames are marked: a hold goes on or ends, or the counter advances, or a slip begins. -/
def hold (s : State) : State :=
  if s.modl.slip = true then if holders s = [] then tick (slipEnded s) else s.modPlat fun x => { x with slipclk := (x.slipclk + 600) % 2 ^ 64 }
  else if holders s = [] then tick s else beginSlip (holders s) s

theorem tickOrSlip_eq (s : State) : tickOrSlip s = hold (closeFrames (releaseDue s)) := by
  unfold tickOrSlip hold
  dsimp only
  rw [← closeFrames]
  generalize closeFrames (releaseDue s) = c
  cases hs : c.modl.slip with
  | true =>
    cases hh : holders c with
    | nil => simp [endHold_of_free hs hh]
    | cons q qs => simp
  | false => cases hh : holders c <;> simp [beginSlip]

/-- The interval count and the grants, which the tick and the slip leave alone. -/
def State.paced (s : State) : Nat × (Table Nat × Table Nat) × Table Nat × Table Nat := (s.modl.intcnt, s.plat.grants)

theorem State.paced_of_fst {s t : State} (h : t.steady.1 = s.steady.1) : t.paced = s.paced := by
  simp only [State.paced, State.modl_of_fst h, State.grants_of_fst h]

theorem tick_paced (s : State) : (tick s).paced = s.paced := (State.paced_of_fst (congrArg Prod.fst (tick_steady s))).trans rfl

theorem hold_paced (s : State) : (hold s).paced = s.paced := by
  unfold hold
  split
  · split
    · exact (tick_paced _).trans rfl
    · exact State.paced_of_fst (congrArg Prod.fst (State.steady_modPlat (by simp only [Plat.grants])))
  · split
    · exact tick_paced s
    · exact (State.paced_of_fst (congrArg Prod.fst (beginSlip_steady ..))).trans rfl

theorem tickOrSlip_paced (s : State) : (tickOrSlip s).paced = s.paced := by
  rw [tickOrSlip_eq, hold_paced]
  exact State.paced_of_fst ((congrArg Prod.fst (steady_closeFrames _)).trans (steady_releaseDue s))

theorem tickOrSlip_intcnt (s : State) : (tickOrSlip s).modl.intcnt = s.modl.intcnt := (Prod.mk.inj (tickOrSlip_paced s)).1

theorem tickOrSlip_grants (s : State) : (tickOrSlip s).plat.grants = s.plat.grants := (Prod.mk.inj (tickOrSlip_paced s)).2

/-- A pulse's tick or slip where nothing is due. -/
theorem tickOrSlip_of_none_due {s : State} (hd : ∀ q, q < 24 → ¬ HasDue s q) (ho : ∀ q, q < 24 → ¬ HasOwed s q) : tickOrSlip s = hold (closeFrames s) := by
  rw [tickOrSlip_eq, releaseDue_of_none hd ho]

/-- A launch holds the counter, its frame marked if it is complete. -/
def HoldsCounter (s : State) (q : Nat) : Prop := q < 24 ∧ ∃ l, s.launches q = some l ∧ (l.marked s).holds s.modl.frame = true

theorem holders_closeFrames_eq_nil {s : State} : holders (closeFrames s) = [] ↔ ¬ ∃ q, HoldsCounter s q := by
  rw [List.eq_nil_iff_forall_not_mem, not_exists]
  exact forall_congr' fun q => not_congr mem_holders_closeFrames

theorem closeFrames_modl (s : State) : (closeFrames s).modl = s.modl := State.modl_of_steady (steady_closeFrames s)

theorem hold_of_held {s : State} (h : ∃ q, HoldsCounter s q) : (hold (closeFrames s)).modl = { s.modl with slip := true } := by
  have hh : holders (closeFrames s) ≠ [] := mt holders_closeFrames_eq_nil.mp (not_not.mpr h)
  unfold hold
  rw [if_neg hh, if_neg hh]
  split
  · rename_i hs
    rw [State.modPlat_modl, closeFrames_modl]
    rw [closeFrames_modl] at hs
    rw [← hs]
  · rw [State.modl_of_steady (beginSlip_steady ..)]
    simp only [closeFrames_modl]

theorem hold_of_free {s : State} (h : ¬ ∃ q, HoldsCounter s q) : (hold (closeFrames s)).modl = { s.modl with frame := s.nextTick, slip := false } := by
  have hh : holders (closeFrames s) = [] := holders_closeFrames_eq_nil.mpr h
  unfold hold
  rw [if_pos hh, if_pos hh]
  split
  · rw [tick_modl]
    simp [slipEnded, State.nextTick, closeFrames_modl]
  · rename_i hs
    rw [tick_modl, State.nextTick, closeFrames_modl, State.nextTick]
    rw [closeFrames_modl, Bool.not_eq_true] at hs
    rw [← hs]

/-- Where no launch holds the counter and no slip is over, the launches enter their frames. -/
theorem hold_launches {s : State} (h : ¬ ∃ q, HoldsCounter s q) (hs : s.modl.slip = false) {q : Nat} (hq : q < 24) :
    (hold (closeFrames s)).launches q = (s.launches q).map fun l => stepFrame s.nextTick (l.marked s) := by
  unfold hold
  rw [closeFrames_modl, if_neg (by simp [hs]), if_pos (holders_closeFrames_eq_nil.mpr h), tick_launches _ hq, closeFrames_launches s hq, Option.map_map, State.nextTick,
    closeFrames_modl]
  rfl

theorem stepFrame_frame (now : Nat) (l : Launch) :
    (stepFrame now l).phase = l.phase ∧ (stepFrame now l).jigs = l.jigs ∧
      (stepFrame now l).frame = if l.phase = .active ∧ now = l.frameStart (l.frame + 1) ∧ l.frame + 1 < l.tt.nframe then l.frame + 1 else l.frame := by
  have h : (l.phase == .active && now == l.frameStart (l.frame + 1) && decide (l.frame + 1 < l.tt.nframe)) = true ↔
      l.phase = .active ∧ now = l.frameStart (l.frame + 1) ∧ l.frame + 1 < l.tt.nframe := by simp [and_assoc]
  unfold stepFrame
  split
  · rename_i hc
    exact ⟨rfl, rfl, (if_pos (h.mp hc)).symm⟩
  · rename_i hc
    exact ⟨rfl, rfl, (if_neg (mt h.mpr hc)).symm⟩

/-- Where nothing is due, a launch that holds the counter keeps it, and it advances otherwise. -/
theorem tickOrSlip_frames {s : State} (hd : ∀ q, q < 24 → ¬ HasDue s q) (ho : ∀ q, q < 24 → ¬ HasOwed s q) :
    ((∃ q, HoldsCounter s q) → (tickOrSlip s).modl.frame = s.modl.frame ∧ (tickOrSlip s).modl.slip = true) ∧
    ((¬ ∃ q, HoldsCounter s q) → (tickOrSlip s).modl.frame = s.nextTick ∧ (tickOrSlip s).modl.slip = false ∧
      (s.modl.slip = false → ∀ q, q < 24 → (tickOrSlip s).launches q = (s.launches q).map fun l => stepFrame s.nextTick (l.marked s))) := by
  rw [tickOrSlip_of_none_due hd ho]
  refine ⟨fun h => ?_, fun h => ⟨?_, ?_, fun hs q hq => hold_launches h hs hq⟩⟩
  · simp only [hold_of_held h, and_self]
  · simp only [hold_of_free h]
  · simp only [hold_of_free h]

/-- What is due, what is owed and who holds the counter are told by the launches and the frame counter. -/
theorem hasDue_congr {s t : State} (hl : t.launches = s.launches) (hf : t.modl.frame = s.modl.frame) (q : Nat) : HasDue t q ↔ HasDue s q := by
  simp only [HasDue, NodeDue, hl, State.reached_congr hf]

theorem hasOwed_congr {s t : State} (hl : t.launches = s.launches) (hf : t.modl.frame = s.modl.frame) (q : Nat) : HasOwed t q ↔ HasOwed s q := by
  simp only [HasOwed, hl, State.reached_congr hf]

theorem Launch.marked_congr {s t : State} (hf : t.modl.frame = s.modl.frame) (l : Launch) : l.marked t = l.marked s := by
  rw [Launch.marked, Launch.marked, l.closes_congr hf]

theorem holdsCounter_congr {s t : State} (hl : t.launches = s.launches) (hf : t.modl.frame = s.modl.frame) (q : Nat) : HoldsCounter t q ↔ HoldsCounter s q := by
  simp only [HoldsCounter, hl, hf, Launch.marked_congr hf]

/-! A module without launches. -/

theorem closeFrames_of_no_launch {s : State} (h : ∀ q, q < 24 → s.launches q = none) : closeFrames s = s := by
  refine foldl_eq_self fun q hq => ?_
  have hl : (s.part q).launch = none := h q (List.mem_range.mp hq)
  simp [closeFrame, hl]

theorem tick_attr_of_no_launch {s : State} (h : ∀ q, q < 24 → s.launches q = none) : (tick s).attr = s.attr := by
  have hs : stepFrames s = { s with modl := { s.modl with frame := s.nextTick } } := by
    refine foldl_eq_self fun q hq => ?_
    have hl : (s.part q).launch = none := h q (List.mem_range.mp hq)
    exact if_neg (Bool.eq_false_iff.mp (congrArg Option.isSome hl))
  have hw : Counts (stepFrames s) (swapTicks (stepFrames s)) := by
    rw [hs]
    exact .foldl fun t ht q hq => .foldl fun u hu st _ => swapTick_counts st ((congrFun (hu.trans ht) q).trans (h q (List.mem_range.mp hq)))
  rw [tick_eq, hw.attr, hs]

theorem tickOrSlip_attr_of_no_launch {s : State} (h : ∀ q, q < 24 → s.launches q = none) : (tickOrSlip s).attr = s.attr := by
  have hn {q : Nat} (hq : q < 24) {l : Launch} (hl : s.launches q = some l) : False := by simp [h q hq] at hl
  rw [tickOrSlip_of_none_due (fun q hq ⟨l, _, _, hl, _⟩ => hn hq hl) (fun q hq ⟨l, _, hl, _⟩ => hn hq hl), hold,
    if_pos (holders_closeFrames_eq_nil.mpr fun ⟨q, hq, l, hl, _⟩ => hn hq hl), if_pos (holders_closeFrames_eq_nil.mpr fun ⟨q, hq, l, hl, _⟩ => hn hq hl),
    closeFrames_of_no_launch h]
  split
  · exact (tick_attr_of_no_launch (s := slipEnded s) h).trans rfl
  · exact tick_attr_of_no_launch h

end Sys2Proof.Machine
end

section
namespace Sys2Proof.Machine

open Sys2Proof Sys2Proof.Laws

variable {p : Nat} {s : State} {l : Launch}

/-! Slips (11 R307, R322). -/

/-- A record that can be posted goes to the hardware part of its queue. -/
theorem evqSend_of_canRecord {g : Nat} (h : CanRecord s g true) (p : Nat) (r : EvRec) :
    evqSend p g r s = s.modCluster g fun k => { k with evq := { (s.cluster g).evq with hw := (s.cluster g).evq.hw ++ [r] } } := by
  obtain ⟨hw, -, hc, hn⟩ := h rfl
  simp [evqSend, evqTurn, evqRoom, evqPost, hw, hc, hn]

theorem slipRecord_spec (hl : (s.part p).launch = some l) (hr : CanRecord s (s.lowCluster p) true) :
    ((slipRecord p s).part p).launch = some { l with slipAt := some s.modl.intcnt } ∧
      Recorded s (slipRecord p s) (s.lowCluster p) true { kind := 0xB, src := 31, stat := 0, idx := openJigs l, data := BitVec.ofNat 64 l.frame } := by
  have hg : (s.bbEvent 2 p (leBytes 8 l.frame)).lowCluster p = s.lowCluster p := by
    simp only [State.lowCluster, State.clustersOf, State.part_congr (State.bbEvent_parts ..)]
  have hc (g : Nat) : (s.bbEvent 2 p (leBytes 8 l.frame)).cluster g = s.cluster g := State.cluster_congr (State.bbEvent_clus ..) g
  have hr' : CanRecord (s.bbEvent 2 p (leBytes 8 l.frame)) (s.lowCluster p) true := by simpa only [CanRecord, hc] using hr
  have hl' : ((s.bbEvent 2 p (leBytes 8 l.frame)).part p).launch = some l := by rwa [State.part_congr (State.bbEvent_parts ..)]
  unfold slipRecord
  simp only [hl, hg]
  rw [evqSend_of_canRecord hr']
  refine ⟨(State.launch_modLaunch_self _ hl').trans (by simp), ?_⟩
  unfold Recorded
  rw [State.cluster_congr (State.modLaunch_clus ..), State.cluster_modCluster_self, hc]
  rfl

theorem slipRepeat_of_due (hl : (s.part p).launch = some l) {t0 : Nat} (ht : l.slipAt = some t0) (hs : s.modl.slip = true) (hh : l.holds s.modl.frame = true)
    (ha : l.tt.framelen ≤ (s.modl.intcnt + 2 ^ 48 - t0) % 2 ^ 48) : slipRepeat p s = slipRecord p s := by
  unfold slipRepeat
  simp only [hl, ht]
  rw [if_pos]
  simp only [hs, hh, Bool.and_self, Bool.true_and]
  exact decide_eq_true ha

/-! Frames that end (11 R305, R307). -/

theorem frameComplete_of_closes (hl : (s.part p).launch = some l) (h : l.closes s = true) : frameComplete p s = endHold (closeFrame p s) := by
  simp [frameComplete, hl, h]

theorem frameComplete_of_not_closes (hl : (s.part p).launch = some l) (h : l.closes s = false) : frameComplete p s = s := by simp [frameComplete, hl, h]

/-- A frame in which a jig has not retired, or a push is due, is not complete. -/
theorem Launch.not_closes_of_open (h : (∃ x ∈ l.jigs, x.2.frame = l.frame) ∨ ∃ d ∈ l.delayed, s.reached d.due = true) : l.closes s = false := by
  rw [← Bool.not_eq_true, l.closes_iff]
  rintro ⟨-, -, -, hq, hd⟩
  obtain ⟨x, hx, hf⟩ | ⟨d, hm, hr⟩ := h
  · exact ((frameQuiet_iff l).mp hq).2 x hx hf
  · exact Bool.false_ne_true ((hd d hm).symm.trans hr)

/-- A marked launch of no group holds nothing. -/
theorem Launch.holds_of_complete (hg : l.group = none) (n : Nat) : ({ l with complete := true } : Launch).holds n = false := by
  simp [Launch.holds, Launch.frameEnded, hg]

/-- The end of the last hold lets the counter go on. -/
theorem frameComplete_ends_hold (hl : (s.part p).launch = some l) (h : l.closes s = true) (hs : s.modl.slip = true) (hg : l.group = none)
    (ho : ∀ q l', q < 24 → q ≠ p → (s.part q).launch = some l' → l'.holds s.modl.frame = false) :
    (frameComplete p s).modl.frame = s.nextTick ∧ (frameComplete p s).modl.slip = false := by
  obtain ⟨⟨hp, -, -, -, hq⟩, -⟩ := closeFrame_of_closes hl h
  have hm : (closeFrame p s).modl = s.modl := State.modl_of_steady (steady_closeFrame p s)
  have hn : holders (closeFrame p s) = [] := by
    rw [List.eq_nil_iff_forall_not_mem]
    intro q hmem
    obtain ⟨hlt, l', hl', hh⟩ := mem_holders.mp hmem
    rw [hm] at hh
    by_cases hqp : q = p
    · subst hqp
      obtain rfl := Option.some.inj (hp.symm.trans hl')
      rw [Launch.holds_of_complete hg] at hh
      exact Bool.false_ne_true hh
    · have hl'' : (s.part q).launch = some l' := by rw [← hq q hqp]; exact hl'
      rw [ho q l' hlt hqp hl''] at hh
      exact Bool.false_ne_true hh
  rw [frameComplete_of_closes hl h, endHold_of_free (by rw [hm, hs]) hn, tick_modl]
  simp [slipEnded, State.nextTick, hm]

/-! What other devices of the group report (11 R305; 01 R31). -/

theorem reaches_of_direct {port : Nat} (hd : (s.port port).direct = true) (ho : (s.port port).owner? = some p) : s.reaches? port = some p := by
  simp [State.reaches?, hd, ho]

theorem frameDone_spec {port frame rank : Nat} {g : Group} (hr : s.reaches? port = some p) (hl : (s.part p).launch = some l) (hg : l.group = some g)
    (ha : l.phase ≠ .discarding) (hn : (frame, rank) ∉ l.frameDone) (hk : rank ≠ g.rank) (hlt : rank < g.size) (hs : s.modl.slip = false) :
    OnlyLaunch p s (frameDone port frame rank s) { l with frameDone := (frame, rank) :: l.frameDone } ∧ Told (frameDone port frame rank s) g (some port) .frameDone [frame, rank] := by
  have he : frameDone port frame rank s =
      sendGroupPorts g (some port) .frameDone [frame, rank] (s.modLaunch p fun l => { l with frameDone := (frame, rank) :: l.frameDone }) := by
    unfold frameDone
    simp only [hr, hl, hg]
    rw [if_neg (by simp [ha, hn, hk, hlt]), endHold_of_not_slip]
    rw [State.modl_of_steady (steady_sendGroupPorts ..)]
    exact hs
  rw [he]
  exact ⟨(onlyLaunch_modLaunch (fun l => { l with frameDone := (frame, rank) :: l.frameDone }) hl).sendGroupPorts .., sendGroupPorts_told _ _ _ _ _⟩

@[simp] theorem Launch.phaseOf_tput_self (l : Launch) (k : Nat) (x : Phase) : ({ l with phases := tput l.phases k x } : Launch).phaseOf k = x := tget_tput_self ..

/-- A phase of level 4 with a report that has come. -/
def reported (x : Phase) (count rank : Nat) : Phase := { x with ranks := (count, rank) :: x.ranks }

def reportedLaunch (l : Launch) (count rank : Nat) : Launch := { l with phases := tput l.phases 4000 (reported (l.phaseOf 4000) count rank) }

/-- The state in which a device's report stands, relayed to the group. -/
def phaseReported (p port count rank : Nat) (g : Group) (l : Launch) (s : State) : State :=
  sendGroupPorts g (some port) .phase [count, rank] (s.modLaunch p fun _ => reportedLaunch l count rank)

theorem level4Phase_of_report {port count rank : Nat} {g : Group} (hr : s.reaches? port = some p) (hl : (s.part p).launch = some l) (hg : l.group = some g)
    (ha : l.phase ≠ .discarding) (hn : (count, rank) ∉ (l.phaseOf 4000).ranks) (hk : rank ≠ g.rank) (hlt : rank < g.size) :
    level4Phase port count rank s = completePhase p 4 0 (completePhase p 4 0 (phaseReported p port count rank g l s)) := by
  unfold level4Phase
  simp only [hr, hl, hg]
  rw [if_neg (by simp [ha, hn, hk, hlt]), State.modLaunch_congr (g := fun _ => reportedLaunch l count rank) hl rfl]
  rfl

theorem phaseReported_spec {port count rank : Nat} {g : Group} (hl : (s.part p).launch = some l) :
    OnlyLaunch p s (phaseReported p port count rank g l s) (reportedLaunch l count rank) ∧
      Told (phaseReported p port count rank g l s) g (some port) .phase [count, rank] ∧
      ((phaseReported p port count rank g l s).part p).regs = (s.part p).regs :=
  ⟨(onlyLaunch_modLaunch (fun _ => reportedLaunch l count rank) hl).sendGroupPorts .., sendGroupPorts_told _ _ _ _ _,
    by rw [phaseReported, State.part_congr (sendGroupPorts_parts ..), State.regs_modLaunch]⟩


/-- A member that has not arrived keeps the phase open. -/
theorem completePhase_of_missing (hl : (s.part p).launch = some l) (h : ∃ m ∈ phaseMembers s p l 4 0, m ∉ (l.phaseOf 4000).arrived) : completePhase p 4 0 s = s := by
  obtain ⟨m, hm, ha⟩ := h
  have hf : ((phaseMembers s p l 4 0).all fun c => (l.phaseOf 4000).arrived.contains c) = false := by
    rw [List.all_eq_false]
    exact ⟨m, hm, by simpa using ha⟩
  unfold completePhase
  simp only [hl, phaseKey, Nat.reduceMul, hf, Bool.false_and]
  rfl

/-- A phase that has completed: its count has risen, and reports of the old one are gone. -/
def Phase.next (x : Phase) : Phase := { count := (x.count + 1) % 2 ^ 32, arrived := [], ranks := x.ranks.filter fun r => r.1 ≠ x.count }

/-- A launch in whose level-4 phase all have arrived and reported. -/
def Launch.nextPhase (l : Launch) : Launch := { l with phases := tput l.phases 4000 (l.phaseOf 4000).next }

theorem Launch.phaseOf_nextPhase (l : Launch) : l.nextPhase.phaseOf 4000 = (l.phaseOf 4000).next := l.phaseOf_tput_self ..

theorem phaseMembers_nextPhase (s : State) (p : Nat) (l : Launch) :
    phaseMembers (s.modLaunch p fun _ => l.nextPhase) p l.nextPhase 4 0 = phaseMembers s p l 4 0 := members_congr (State.regs_modLaunch ..) rfl 4 0

/-- A device none of whose members has arrived reports nothing. -/
theorem reportPhase_of_none_arrived (hl : (s.part p).launch = some l) (hne : members s p l 4 0 ≠ []) (ha : (l.phaseOf 4000).arrived = []) : reportPhase p s = s := by
  obtain ⟨m, hmem⟩ := List.exists_mem_of_ne_nil _ hne
  have hf : ((members s p l 4 0).all fun c => (l.phaseOf 4000).arrived.contains c) = false := by
    rw [ha, List.all_eq_false]
    exact ⟨m, hmem, by simp⟩
  unfold reportPhase
  simp only [hl, hf]
  split <;> rfl

/-- A phase at which all have arrived and reported completes; with a member here, this device has not yet arrived at the next. -/
theorem completePhase_of_all {g : Group} (hl : (s.part p).launch = some l) (hg : l.group = some g) (hne : phaseMembers s p l 4 0 ≠ [])
    (hm : ∀ m ∈ phaseMembers s p l 4 0, m ∈ (l.phaseOf 4000).arrived) (hr : ∀ r, r < g.size → ((l.phaseOf 4000).count, r) ∈ (l.phaseOf 4000).ranks) :
    completePhase p 4 0 s = s.modLaunch p fun _ => l.nextPhase := by
  have h1 : ((phaseMembers s p l 4 0).all fun c => (l.phaseOf 4000).arrived.contains c) = true := by simpa using hm
  have h2 : ((List.range g.size).all fun r => (l.phaseOf 4000).ranks.contains ((l.phaseOf 4000).count, r)) = true := by simpa using hr
  unfold completePhase
  simp only [hl, phaseKey, Nat.reduceMul, hg, h1, h2, Bool.or_true, Bool.and_self, if_true]
  have hn : (s.modLaunch p fun l' => { l' with phases := tput l'.phases 4000 (l.phaseOf 4000).next }) = s.modLaunch p fun _ => l.nextPhase := State.modLaunch_congr hl rfl
  refine (congrArg (reportPhase p) hn).trans (reportPhase_of_none_arrived (State.launch_modLaunch_self _ hl) ?_ ?_)
  · exact fun h0 => hne ((phaseMembers_nextPhase s p l).symm.trans h0)
  · rw [Launch.phaseOf_nextPhase]
    rfl

/-! Refills (11 R313). -/

/-- The queue of a cluster is replaced, and its counters alone change beside it. -/
theorem queueIs_setQueue (s : State) (g q : Nat) (x : TaskQueue) (k : ClusCtr) (n : Nat) : QueueIs s ((s.setQueue g q x).clusCtr g k n) g q x :=
  ⟨by simp, fun h r hne => by rw [State.queue_clusCtr, State.queue_setQueue_of_ne _ _ hne]⟩

/-- The address of the head of a ring (11 R302). -/
def headAddr (s : State) (p g n : Nat) (d : QDesc) (head : Nat) : Nat := ringAddr s p d g n (head % Nat.max 1 (ringSize d))

/-- The head of a ring that is here and sound is read. -/
theorem ringHead_of_sound {g n head : Nat} {d : QDesc} (take : List Byte → State) (ho : s.owned (headAddr s p g n d head) = true)
    (he : s.eccHit (headAddr s p g n d head) n = false) :
    ringHead p g n d head take s = take (s.bytes (headAddr s p g n d head) n) := by
  unfold headAddr at ho he
  unfold ringHead
  simp only [ho, he]
  rfl

/-- A ring whose head is an entry that stands is not trimmed. -/
theorem TaskQueue.trim_of_head {d : QDesc} {k : TaskQueue} (h : k.dispRing.head? ≠ some none) (hh : k.head < Nat.max 1 (ringSize d)) : k.trim d = k := by
  have ht : k.dispRing.takeWhile Option.isNone = [] := by
    cases hr : k.dispRing with
    | nil => rfl
    | cons e r => cases e with
      | none => simp [hr] at h
      | some i => rfl
  unfold TaskQueue.trim
  simp only [ht, List.length_nil, List.drop_zero, Nat.add_zero, Nat.sub_zero, Nat.mod_eq_of_lt hh]

theorem ringMax_pos (d : QDesc) : 0 < Nat.max 1 (ringSize d) := Nat.lt_of_lt_of_le Nat.one_pos (Nat.le_max_left ..)

/-- The dispatch queue of a cluster takes the entry that its ring's head holds. -/
theorem refill_dispatch {g q : Nat} {e : Option Nat} {rest : List (Option Nat)} (hp : s.partOf? g = some p) (hq : q < 16) (hm : (s.qdesc p q).mode = 1)
    (hl : (s.part p).launch = some l) (hr : (s.queue g q).dispRing = e :: rest) (hh : rest.head? ≠ some none) (hn : (s.queue g q).disp.length < 32)
    (hw : (s.queue g q).dispWait = [])
    (ho : s.owned (headAddr s p g 32 (s.qdesc p q) (s.queue g q).head) = true)
    (he : s.eccHit (headAddr s p g 32 (s.qdesc p q) (s.queue g q).head) 32 = false) :
    refill g q s = (s.setQueue g q { s.queue g q with
      disp := (s.queue g q).disp ++ [DEntry.ofBytes l e (s.bytes (headAddr s p g 32 (s.qdesc p q) (s.queue g q).head) 32)]
      dispRing := rest, head := ((s.queue g q).head + 1) % Nat.max 1 (ringSize (s.qdesc p q)), count := (s.queue g q).count - 1 }).clusCtr g .qrefills 1 := by
  unfold refill
  simp only [hp, Option.getD_some]
  rw [if_neg (by omega)]
  simp only [hm, hl, hr]
  rw [if_neg (by omega), ringHead_of_sound _ ho he, hw, TaskQueue.trim_of_head hh (Nat.mod_lt _ (ringMax_pos _))]
  rfl

/-- The data queue of a cluster takes the entry at its ring's head. -/
theorem refill_data {g q : Nat} (hp : s.partOf? g = some p) (hq : q < 16) (hm : (s.qdesc p q).mode = 2) (hc : 0 < (s.queue g q).count) (hn : (s.queue g q).data.length < 32)
    (ho : s.owned (headAddr s p g 32 (s.qdesc p q) (s.queue g q).head) = true)
    (he : s.eccHit (headAddr s p g 32 (s.qdesc p q) (s.queue g q).head) 32 = false) :
    refill g q s = (s.setQueue g q { s.queue g q with
      data := (s.queue g q).data ++ [s.bytes (headAddr s p g 32 (s.qdesc p q) (s.queue g q).head) 32]
      head := ((s.queue g q).head + 1) % Nat.max 1 (ringSize (s.qdesc p q)), count := (s.queue g q).count - 1 }).clusCtr g .qrefills 1 := by
  unfold refill
  simp only [hp, Option.getD_some]
  rw [if_neg (by omega)]
  simp only [hm]
  rw [if_neg (by simp; omega), ringHead_of_sound _ ho he]

theorem evqTake_evq (p g : Nat) (bs : List Byte) (s : State) : ((evqTake p g bs s).cluster g).evq =
    { hw := (s.cluster g).evq.hw ++ [EvRec.ofBytes bs], head := ((s.cluster g).evq.head + 1) % Nat.max 1 (ringSize (s.evqd p)), count := (s.cluster g).evq.count - 1 } := by
  simp [evqTake]

/-- The event queue of a cluster, for which nothing waits, takes the record at its ring's head. -/
theorem refill_events {g : Nat} (hp : s.partOf? g = some p) (hc : 0 < (s.cluster g).evq.count) (hn : (s.cluster g).evq.hw.length < 128)
    (ho : s.owned (headAddr s p g 16 (s.evqd p) (s.cluster g).evq.head) = true)
    (he : s.eccHit (headAddr s p g 16 (s.evqd p) (s.cluster g).evq.head) 16 = false) (hw : (s.cluster g).evWait = []) :
    refill g 16 s = evqTake p g (s.bytes (headAddr s p g 16 (s.evqd p) (s.cluster g).evq.head) 16) s := by
  have hw' (bs : List Byte) : ((evqTake p g bs s).cluster g).evWait = [] := by simp [evqTake, State.clusCtr, hw]
  unfold refill
  simp only [hp, Option.getD_some, if_true]
  rw [if_neg (by simp; omega), ringHead_of_sound _ ho he, evqFlushAll, hw']
  rfl

end Sys2Proof.Machine
end

section
open Sys2Proof Sys2Proof.Machine

namespace Sys2Proof.Machine.FrameEvents

variable {p : Nat} {s : State} {l : Launch}

theorem fires {e : Instr} {t : State} {P : State → Prop} (h : exec e s = .next t) (ht : P t) : Fires e s P := ⟨t, h, ht⟩

theorem idle {e : Instr} {t : State} (h : exec e s = .next t) (ht : t = s) : Idle e s := h.trans (congrArg _ ht)

/-- An interval opens: its count advances, and the shares written last are in force. -/
theorem pulse_counts (s : State) (sensors : List Sensor) (soft : List SoftError) (broken : List Nat) :
    Fires (.intervalPulse sensors soft broken) s fun t =>
      t.modl.intcnt = (s.modl.intcnt + 1) % 2 ^ 48 ∧ t.plat.forceB = s.plat.bshare ∧ t.plat.forceD = s.plat.dshare := by
  obtain ⟨hm, hg, -, -⟩ := pulseOpened_spec soft broken s
  obtain ⟨cm, -, -, cb, cd⟩ := pulseClosed_spec sensors (tickOrSlip (pulseOpened soft broken s))
  have hs := (tickOrSlip_grants (pulseOpened soft broken s)).trans hg
  refine fires (exec_intervalPulse ..) ⟨?_, cb.trans (Plat.bshare_of_grants hs), cd.trans (Plat.dshare_of_grants hs)⟩
  rw [cm, tickOrSlip_intcnt, hm]

/-- Where no launch stands, the units that broke stay in error. -/
theorem pulse_breaks (sensors : List Sensor) (soft : List SoftError) (broken : List Nat) (h : ∀ q, q < 24 → (s.part q).launch = none) :
    Fires (.intervalPulse sensors soft broken) s fun t => ∀ k ∈ broken, k ∈ t.attr.ecc := by
  obtain ⟨-, -, hl, he⟩ := pulseOpened_spec soft broken s
  obtain ⟨-, -, ca, -, -⟩ := pulseClosed_spec sensors (tickOrSlip (pulseOpened soft broken s))
  refine fires (exec_intervalPulse ..) fun k hk => ?_
  rw [ca, tickOrSlip_attr_of_no_launch fun q hq => (congrFun hl q).trans (h q hq)]
  exact he k hk

/-- Where nothing is due, a launch that holds the counter keeps it, and it advances otherwise. -/
theorem pulse_frames (sensors : List Sensor) (soft : List SoftError) (broken : List Nat) (hd : ¬ ∃ q, q < 24 ∧ HasDue s q) (ho : ¬ ∃ q, q < 24 ∧ HasOwed s q) :
    Fires (.intervalPulse sensors soft broken) s fun t =>
      ((∃ q, HoldsCounter s q) → t.modl.frame = s.modl.frame ∧ t.modl.slip = true) ∧
      ((¬ ∃ q, HoldsCounter s q) → t.modl.frame = s.nextTick ∧ t.modl.slip = false ∧
        (s.modl.slip = false → ∀ q, q < 24 → t.launches q = (s.launches q).map fun l => stepFrame s.nextTick (l.marked s))) := by
  obtain ⟨hm, -, hl, -⟩ := pulseOpened_spec soft broken s
  obtain ⟨cm, cl, -, -, -⟩ := pulseClosed_spec sensors (tickOrSlip (pulseOpened soft broken s))
  refine fires (exec_intervalPulse ..) ?_
  rw [cm, cl]
  have hf : (pulseOpened soft broken s).modl.frame = s.modl.frame := by rw [hm]
  have hs : (pulseOpened soft broken s).modl.slip = s.modl.slip := by rw [hm]
  generalize pulseOpened soft broken s = u at hl hf hs
  have hn : u.nextTick = s.nextTick := by rw [State.nextTick, hf, State.nextTick]
  have h := tickOrSlip_frames (s := u) (fun q hq h => hd ⟨q, hq, (hasDue_congr hl hf q).mp h⟩) (fun q hq h => ho ⟨q, hq, (hasOwed_congr hl hf q).mp h⟩)
  simpa only [holdsCounter_congr hl hf, Launch.marked_congr hf, hl, hf, hs, hn] using h

/-- A frame that has become complete is marked, and may end a hold. -/
theorem frame_completes (hl : (s.part p).launch = some l) (h : l.closes s = true) :
    (s.modl.slip = false → Fires (.frameComplete p) s fun t => OnlyLaunch p s t { l with complete := true } ∧ t.modl.frame = s.modl.frame ∧
      ∀ g, l.group = some g → Told t g none .frameDone [l.frame, g.rank]) ∧
    (s.modl.slip = true → l.group = none → (∀ q l', q < 24 → q ≠ p → (s.part q).launch = some l' → l'.holds s.modl.frame = false) →
      Fires (.frameComplete p) s fun t => t.modl.frame = s.nextTick ∧ t.modl.slip = false) := by
  refine ⟨fun hs => fires rfl ?_, fun hs hg ho => fires rfl ?_⟩
  · have hm : (closeFrame p s).modl = s.modl := State.modl_of_steady (steady_closeFrame p s)
    obtain ⟨h1, h2⟩ := closeFrame_of_closes hl h
    rw [frameComplete_of_closes hl h, endHold_of_not_slip (by rw [hm]; exact hs)]
    exact ⟨h1, congrArg Module.frame hm, h2⟩
  · exact frameComplete_ends_hold hl h hs hg ho

/-- A node that is due is released, or skipped, as its predicate says. -/
theorem node_is_released {i : Nat} {n : TNode} (hl : (s.part p).launch = some l) (hn : l.tt.nodes[i]? = some n) (hd : NodeDue s l i n) :
    let Releases : Prop := (iterations l n.jrec).2 ≠ 0 → Fires (.nodeRelease p i) s fun t => Released p s t l n.jrec (.node i) [] ∧
      ∃ l', (t.part p).launch = some l' ∧ tget .waiting l'.nodes i = .released
    (n.cond = false → Releases) ∧
    (∀ b, n.cond = true → predicateAddr s p l n ((l.frameStart l.frame + n.relt) % 2 ^ 48) = some b → s.owned b = true → s.eccHit b 4 = false → s.expired b = false →
      ((s.value b 4 = 0 ↔ n.pinv = true) → Releases) ∧
      (¬ (s.value b 4 = 0 ↔ n.pinv = true) → Fires (.nodeRelease p i) s fun t => OnlyLaunch p s t { l with nodes := tput l.nodes i .done })) := by
  have hv (b : Nat) : ((s.value b 4 == 0) == n.pinv) = true ↔ (s.value b 4 = 0 ↔ n.pinv = true) := by rw [beq_iff_eq, Bool.eq_iff_iff, beq_iff_eq]
  refine ⟨fun hc hi => fires rfl ?_, fun b hc hpa ho he hx => ⟨fun h hi => fires rfl ?_, fun h => fires rfl ?_⟩⟩
  · rw [nodeRelease_of_due hl hn hd hc]
    exact releaseJig_node hl n.jrec i hi
  · rw [nodeRelease_of_predicate hl hn hd hc hpa ho he hx, nodeTake, if_pos ((hv b).mpr h)]
    exact releaseJig_node hl n.jrec i hi
  · rw [nodeRelease_of_predicate hl hn hd hc hpa ho he hx, nodeTake, if_neg (mt (hv b).mp h)]
    exact onlyLaunch_modLaunch (fun l => { l with nodes := tput l.nodes i .done }) hl

/-- A report of a level-4 phase is kept and relayed; with the last one, and all members arrived, the phase completes. -/
theorem phase_is_reported {port count rank : Nat} {g : Group} (hr : s.reaches? port = some p) (hl : (s.part p).launch = some l) (hg : l.group = some g)
    (ha : l.phase ≠ .discarding) (hn : (count, rank) ∉ (l.phaseOf 4000).ranks) (hk : rank ≠ g.rank) (hlt : rank < g.size) :
    let x := l.phaseOf 4000
    ((∃ m ∈ phaseMembers s p l 4 0, m ∉ x.arrived) → Fires (.level4PhaseMessage port count rank) s fun t =>
      OnlyLaunch p s t { l with phases := tput l.phases 4000 { x with ranks := (count, rank) :: x.ranks } } ∧ Told t g (some port) .phase [count, rank]) ∧
    (phaseMembers s p l 4 0 ≠ [] → (∀ m ∈ phaseMembers s p l 4 0, m ∈ x.arrived) → (∀ r, r < g.size → (x.count, r) ∈ (count, rank) :: x.ranks) →
      Fires (.level4PhaseMessage port count rank) s fun t => ∃ l', (t.part p).launch = some l' ∧ (l'.phaseOf 4000).count = (x.count + 1) % 2 ^ 32 ∧ (l'.phaseOf 4000).arrived = []) := by
  intro x
  obtain ⟨h1, h2, h3⟩ := phaseReported_spec (port := port) (count := count) (rank := rank) (g := g) hl
  have he := level4Phase_of_report hr hl hg ha hn hk hlt
  have hx : (reportedLaunch l count rank).phaseOf 4000 = reported x count rank := Launch.phaseOf_tput_self ..
  have hmem : phaseMembers (phaseReported p port count rank g l s) p (reportedLaunch l count rank) 4 0 = phaseMembers s p l 4 0 := members_congr h3 rfl 4 0
  refine ⟨fun hm => fires rfl ?_, fun hne hall hranks => fires rfl ?_⟩
  · have hc := completePhase_of_missing h1.1 (by rw [hmem, hx]; exact hm)
    rw [he, hc, hc]
    exact ⟨h1, h2⟩
  · have hc := completePhase_of_all h1.1 hg (by rw [hmem]; exact hne) (by rw [hmem, hx]; exact hall) (by rw [hx]; exact hranks)
    obtain ⟨m, hm⟩ := List.exists_mem_of_ne_nil _ hne
    have hl' := State.launch_modLaunch_self (fun _ => (reportedLaunch l count rank).nextPhase) h1.1
    have hd := completePhase_of_missing hl' ⟨m, by rw [phaseMembers_nextPhase, hmem]; exact hm, by rw [Launch.phaseOf_nextPhase]; exact List.not_mem_nil⟩
    rw [he, hc, hd]
    refine ⟨_, hl', ?_⟩
    rw [Launch.phaseOf_nextPhase, hx]
    exact ⟨rfl, rfl⟩

/-- A dispatch entry from a ring's bytes. -/
theorem ofBytes_fields (l : Launch) (e : Option Nat) (bs : List Byte) :
    let x := DEntry.ofBytes l e bs
    let field (o n : Nat) : Nat := leValue ((bs.drop o).take n)
    x.prio = field 2 1 ∧ x.sel = BitVec.ofNat 4 (field 3 1) ∧ x.frame = field 4 4 ∧ x.rtick = field 8 8 ∧ x.age = 0 ∧
      ∀ id j, e = some id → tget? l.jigs id = some j → j.slot = field 0 2 → x.jig = some id := by
  refine ⟨rfl, rfl, rfl, rfl, rfl, fun id j he hj hs => ?_⟩
  subst he
  show jigOfIndex l (some id) (fieldOf bs 0 2) = some id
  simp only [jigOfIndex, Option.bind_some, hj]
  exact if_pos hs

/-- An evaluation whose record has been read. -/
theorem evaluation_goes_on {g : Nat} {ev : Evaluation} {rest : List Evaluation} {bs : List Byte} {s' : State} (hp : s.partOf? g = some p)
    (he : (s.cluster g).evals = ev :: rest) (hl : (s.part p).launch = some l) (ha : l.phase = .active)
    (hr : ev.jig = none ∧ dRead p g (.evaluation ev.cell) (fieldOf ev.rec_ 0 8) 64 s = .ok bs s' ∨ ev.jig = some bs ∧ s' = s) (hl' : (s'.part p).launch = some l) :
    let j := ev.jigRec g bs
    let k := { j with prio := bitsOf (fieldOf ev.rec_ 0x14 1) 2 0, arg := ev.va }
    (jigOk s' p l bs j = true → l.poolFree = true → (iterations l k).2 ≠ 0 → Fires (.evaluationStart g) s fun t =>
      Released p s' t l k (.cell ev.cell) ev.lineage ∧ (t.cluster g).evals = rest ∧
      ∀ l' J, (t.part p).launch = some l' → tget? l'.jigs l.nextJig = some J → J.argp = BitVec.ofNat 64 (fieldOf ev.rec_ 8 8)) ∧
    (jigOk s' p l bs j = true → l.poolFree = false → Fires (.evaluationStart g) s fun t =>
      (t.cluster g).evals = { ev with jig := some bs } :: rest ∧ (t.part p).launch = some l ∧ t.mem = s'.mem) ∧
    (jigOk s' p l bs j = false → Fires (.evaluationStart g) s fun t => t.cellSt ev.cell = .failed) := by
  intro j k
  have h := evaluationStart_of_read hp he hl ha hr
  refine ⟨fun hj hf hi => fires rfl ?_, fun hj hf => fires rfl ?_, fun hj => fires rfl ?_⟩
  · rw [h, if_neg (by simp [hj, j]), if_neg (by simp [hf])]
    obtain ⟨h1, h2, h3⟩ := releaseJig_cell_spec (s := s'.modCluster g fun k => { k with evals := rest }) (c := ev.cell) (lin := ev.lineage)
      (argp := BitVec.ofNat 64 (fieldOf ev.rec_ 8 8)) (r := k) hl' hi
    exact ⟨h1.of_delayed (d := l.delayed) rfl rfl, (h2 g).trans (by simp), h3⟩
  · rw [h, if_neg (by simp [hj, j]), if_pos hf]
    refine ⟨by simp, ?_, rfl⟩
    exact (congrFun (State.launches_modCluster ..) p).trans ((congrFun (State.launches_partClk ..) p).trans hl')
  · rw [h, if_pos hj]
    exact failCell_cellSt ..

end Sys2Proof.Machine.FrameEvents

open Sys2Proof.Machine.FrameEvents

/-- Settles O50, event by event: what is due, and when a frame is complete, are told by the test of each event; an interval pulse is cut into its counts, the frames, and the grants. -/
theorem frameEvents : Obligations.FrameEvents := by
  unfold Obligations.FrameEvents
  intro p s now Holds Due Owed
  refine ⟨pulse_counts s, fun _ _ _ => pulse_breaks _ _ _, fun sensors soft broken hd ho => ?pulse, fun l hl => ⟨?slip, ?frame, ?unfinished, ?node, ?push, ?early⟩,
    ?frameDone, ?phase, ?queues, ?events, ?evaluation⟩
  case pulse =>
    have hd' : ¬ ∃ q, q < 24 ∧ HasDue s q := fun ⟨q, hq, l, i, n, h1, h2, h3⟩ => hd ⟨q, hq, l, i, n, h1, h2, h3⟩
    obtain ⟨t, ht, hh, hf⟩ := pulse_frames sensors soft broken hd' ho
    refine ⟨t, ht, fun _ => hh, fun _ h => ⟨(hf h).1, (hf h).2.1⟩, fun _ => hh, fun hs h => ⟨(hf h).1, (hf h).2.1, fun q l hq hl => ?_⟩⟩
    obtain ⟨f1, f2, f3⟩ := stepFrame_frame s.nextTick (l.marked s)
    exact ⟨_, ((hf h).2.2 hs q hq).trans (congrArg _ hl), f1, f2, f3⟩
  case slip =>
    intro t0 ht hs hh ha hr
    exact fires rfl (by rw [slipRepeat_of_due hl ht hs hh ha]; exact slipRecord_spec hl hr)
  case frame =>
    intro ha hc hr hn hj hd
    obtain ⟨h1, h2⟩ := frame_completes hl ((l.closes_iff s).mpr ⟨ha, hc, hr, (frameQuiet_iff l).mpr ⟨hn, hj⟩, hd⟩)
    exact ⟨h1, fun hs hg ho _ => h2 hs hg ho⟩
  case unfinished => exact fun h => idle rfl (frameComplete_of_not_closes hl (Launch.not_closes_of_open h))
  case node =>
    intro i n ha hn hr hw base
    refine ⟨fun hb => idle rfl (nodeRelease_of_not_due hl hn ?_), fun ⟨d, hd, m, hm, hmr, hne⟩ => idle rfl (nodeRelease_of_not_due hl hn ?_),
      fun hb hdeps => node_is_released hl hn ⟨ha, hr, hw, hb, hdeps⟩⟩
    · exact fun ⟨_, _, _, h, _⟩ => Bool.false_ne_true (hb.symm.trans h)
    · exact fun ⟨_, _, _, _, h⟩ => hne (h d hd m hm hmr)
  case push => exact fun pre d post ha hd hpre hr hi => fires rfl (jpushDue_released hl ha hd hpre hr hi)
  case early => exact fun h => idle rfl (jpushDue_of_none hl fun _ => h)
  case frameDone =>
    exact fun port frame rank l g ho hdir hl hg ha hn hk hlt hs => fires rfl (frameDone_spec (reaches_of_direct hdir ho) hl hg ha hn hk hlt hs)
  case phase => exact fun port count rank l g ho hdir hl hg ha hn hk hlt => phase_is_reported (reaches_of_direct hdir ho) hl hg ha hn hk hlt
  case queues =>
    intro g q k hp hk hq size at_ field ho he
    subst hk
    refine ⟨fun e rest l hm hl hr hh hn hw => fires rfl (by
        rw [refill_dispatch hp hq hm hl hr hh hn hw ho he]
        exact ⟨rfl, _, queueIs_setQueue .., ofBytes_fields ..⟩),
      fun hm hc hn => fires rfl (by
        rw [refill_data hp hq hm hc hn ho he]
        exact ⟨rfl, queueIs_setQueue ..⟩)⟩
  case events =>
    intro g hp k size at_ hc hn ho he hw
    exact fires rfl (by rw [refill_events hp hc hn ho he hw]; exact ⟨rfl, evqTake_evq ..⟩)
  case evaluation =>
    exact fun g ev rest l bs s' hp he hl ha hr hl' => evaluation_goes_on hp he hl ha hr hl'

end

section
namespace Sys2Proof.Machine

open Sys2Proof Sys2Proof.Laws

/-! What the reads of a submission leave alone (01 R21; 15 R415). -/

/-- What the intake of launches goes by in a partition: its launch, its last LSEQ, the submissions that wait. -/
def Part.intake (x : Part) : Option Launch × Nat × List Submission := (x.launch, x.lseq, x.waiting)

/-- The intake of every partition; then the functions and the ports. -/
def State.intake (s : State) : (Nat → Option Launch × Nat × List Submission) × Table Fn × Table Port := (fun q => (s.part q).intake, s.plat.fns, s.plat.ports)

section
variable {s t : State}

theorem State.launch_of_intake (h : t.intake = s.intake) (q : Nat) : (t.part q).launch = (s.part q).launch := congrArg (fun x => (x.1 q).1) h

theorem State.lseq_of_intake (h : t.intake = s.intake) (q : Nat) : (t.part q).lseq = (s.part q).lseq := congrArg (fun x => (x.1 q).2.1) h

theorem State.waiting_of_intake (h : t.intake = s.intake) (q : Nat) : (t.part q).waiting = (s.part q).waiting := congrArg (fun x => (x.1 q).2.2) h

theorem State.fn_of_fns (h : t.plat.fns = s.plat.fns) (n : Nat) : t.fn n = s.fn n := by simp only [State.fn, h]

theorem State.fn_of_intake (h : t.intake = s.intake) (n : Nat) : t.fn n = s.fn n := State.fn_of_fns (congrArg (fun x => x.2.1) h) n

theorem State.port_of_ports (h : t.plat.ports = s.plat.ports) (n : Nat) : t.port n = s.port n := by simp only [State.port, h]

theorem State.port_of_intake (h : t.intake = s.intake) (n : Nat) : t.port n = s.port n := State.port_of_ports (congrArg (fun x => x.2.2) h) n

theorem State.intake_congr (hp : t.parts = s.parts) (hf : t.plat.fns = s.plat.fns) (ho : t.plat.ports = s.plat.ports) : t.intake = s.intake := by
  simp only [State.intake, State.part_congr hp, hf, ho]

end

theorem State.intake_modPart {s : State} {p : Nat} {f : Part → Part} (h : ∀ x, (f x).intake = x.intake) : (s.modPart p f).intake = s.intake := by
  refine Prod.ext (funext fun q => ?_) rfl
  by_cases hq : q = p
  · subst hq; simp [State.intake, h]
  · simp [State.intake, State.part_modPart_of_ne _ _ hq]

@[simp] theorem State.intake_modCluster (s : State) (g : Nat) (f : Cluster → Cluster) : (s.modCluster g f).intake = s.intake := State.intake_congr rfl rfl rfl
@[simp] theorem State.intake_clusCtr (s : State) (g : Nat) (k : ClusCtr) (n : Nat) : (s.clusCtr g k n).intake = s.intake := State.intake_congr rfl rfl rfl
@[simp] theorem State.intake_drawn (s : State) : s.drawn.intake = s.intake := State.intake_congr rfl rfl rfl

@[simp] theorem State.intake_bbEvent (s : State) (k p : Nat) (d : List Byte) : (s.bbEvent k p d).intake = s.intake := by
  unfold State.bbEvent
  dsimp only
  split <;> exact State.intake_congr rfl rfl rfl

@[simp] theorem State.intake_touchImages (s : State) (a n : Nat) : (s.touchImages a n).intake = s.intake := by
  unfold State.touchImages
  split
  · rfl
  · split
    · rfl
    · refine foldl_fixed State.intake _ (fun b x => ?_) _ _
      dsimp only
      split
      · exact (State.intake_bbEvent ..).trans (State.intake_modPart fun _ => rfl)
      · rfl

@[simp] theorem State.intake_write (s : State) (a : Nat) (bs : List Byte) : (s.write a bs).intake = s.intake := by
  refine Eq.trans ?_ (s.intake_touchImages a bs.length)
  exact State.intake_congr (by simp [State.write]) (by simp [State.write]) (by simp [State.write])

@[simp] theorem intake_setLeafBit (a i : Nat) (s : State) : (setLeafBit a i s).intake = s.intake := by
  unfold setLeafBit
  dsimp only
  split <;> simp

@[simp] theorem intake_logMachine (p : Nat) (i : TrapInfo) (s : State) : (logMachine p i s).intake = s.intake := by
  unfold logMachine
  split <;> simp

@[simp] theorem intake_requestPage (p g page : Nat) (w : Bool) (s : State) : (requestPage p g page w s).intake = s.intake :=
  State.intake_modPart fun x => by split <;> rfl

/-! Results of reads: a property of what is answered, and one of why nothing is. -/

/-- A computation answers with `P`, or stops with `Q`. -/
def Ends {ε α : Type} (P : α → Prop) (Q : ε → Prop) : Except ε α → Prop
  | .ok a => P a
  | .error e => Q e

theorem Ends.bind {ε α β : Type} {P : α → Prop} {P' : β → Prop} {Q : ε → Prop} {x : Except ε α} {f : α → Except ε β} (hx : Ends P Q x)
    (hf : ∀ a, P a → Ends P' Q (f a)) : Ends P' Q (x >>= f) := by
  cases x with
  | ok a => exact hf a hx
  | error e => exact hx

theorem Ends.imp {ε α : Type} {P P' : α → Prop} {Q Q' : ε → Prop} {x : Except ε α} (hx : Ends P Q x) (hp : ∀ a, P a → P' a) (hq : ∀ e, Q e → Q' e) : Ends P' Q' x := by
  cases x with
  | ok a => exact hp a hx
  | error e => exact hq e hx

/-- The state in which a command of the copy engines stops. -/
def CpStop.state : CpStop → State
  | .fault _ _ s | .ring s | .hold s | .err _ s => s

/-- The state that a read of D-space by the OB3 leaves. -/
def DResult.state : DResult → State
  | .ok _ s | .wait s | .failed s | .ecc _ s => s

/-- The state in which a launch start goes no further. -/
def StartStop.state : StartStop → State
  | .wait s | .refuse _ _ s => s

/-- A read answers or stops in a state with the intake of `s`. -/
abbrev CpKeeps {α : Type} (s : State) : Except CpStop (α × State) → Prop := Ends (fun x => x.2.intake = s.intake) fun e => e.state.intake = s.intake

/-- A structure of a launch is read, or the start stops, in a state with the intake of `s`. -/
abbrev StartKeeps {α : Type} (s : State) : Except StartStop (α × State) → Prop := Ends (fun x => x.2.intake = s.intake) fun e => e.state.intake = s.intake

/-- An access to D-space leaves the intake of `s`. -/
def DAccess.Keeps (s : State) : DAccess → Prop
  | .ok _ _ t | .fault t | .bad _ t => t.intake = s.intake
  | .hold => True

theorem useLeaf_keeps (p g dva : Nat) (w k : Bool) (e : Leaf) (s : State) : (useLeaf p g dva w k e s).Keeps s := by
  have hb (c : Bool) (a i : Nat) (s : State) : (if c = true then setLeafBit a i s else s).intake = s.intake := by cases c <;> simp
  unfold useLeaf
  split
  · rfl
  · dsimp only
    split
    · trivial
    · refine Eq.trans ?_ ((hb (w && !bitOf e.leaf 6) e.entry 6 _).trans (hb k e.entry 5 s))
      split
      · exact State.intake_modCluster ..
      · rfl

theorem walkedAccess_keeps (p g dva : Nat) (w r : Bool) (s : State) : (walkedAccess p g dva w r s).Keeps s := by
  have hs : (s.clusCtr g .cpwalks 1).intake = s.intake := by simp
  unfold walkedAccess
  dsimp only
  split
  · split
    · exact hs
    · rename_i e _ _
      have h := useLeaf_keeps p g dva w true e (s.clusCtr g .cpwalks 1)
      revert h
      cases useLeaf p g dva w true e (s.clusCtr g .cpwalks 1) with
      | hold => exact id
      | _ => exact fun h => Eq.trans h hs
  · exact hs
  · exact hs
  · rfl
  · trivial

theorem dAccess_keeps (p g dva : Nat) (w c r : Bool) (s : State) : (dAccess p g dva w c r s).Keeps s := by
  unfold dAccess
  dsimp only
  split
  · rfl
  · split
    · exact useLeaf_keeps ..
    · exact walkedAccess_keeps ..

theorem cpPlace_keeps (v : CpEnv) (z : Bool) (a : Nat) (s : State) : CpKeeps s (cpPlace v true false z a s) := by
  have h := dAccess_keeps v.p v.g a false v.cached v.refused s
  unfold cpPlace
  simp only [Bool.false_and, if_true, Bool.false_eq_true, if_false]
  revert h
  cases dAccess v.p v.g a false v.cached v.refused s with
  | ok e pl t =>
    intro h
    dsimp only
    split
    · show (refusedWalk v s t).intake = s.intake
      exact State.intake_modCluster ..
    · exact h
  | fault t => exact id
  | bad c t => exact id
  | hold => exact fun _ => rfl

theorem placeAddr_keeps (v : CpEnv) (w : Bool) (pl : Place) (s : State) : Ends (fun _ => True) (fun e : CpStop => e.state.intake = s.intake) (placeAddr v w pl s) := by
  unfold placeAddr
  dsimp only
  (repeat' split) <;> trivial

theorem cpReadPiece_keeps (v : CpEnv) (z : Bool) (a n : Nat) (s : State) : CpKeeps s (cpReadPiece v true z a n s) := by
  unfold cpReadPiece
  refine (cpPlace_keeps v z (wrapAddr true a) s).bind fun ⟨pl, t⟩ ht => ?_
  dsimp only at ht ⊢
  split
  · exact ht
  · exact ht
  · refine ((placeAddr_keeps ..).imp (fun _ h => h) fun e he => he.trans ht).bind fun x _ => ?_
    (repeat' split) <;> exact ht

theorem cpReadAll_keeps (v : CpEnv) (z : Bool) (l : List (Nat × Nat)) (s : State) : CpKeeps s (cpReadAll v true z l s) := by
  induction l generalizing s with
  | nil => rfl
  | cons x r ih =>
    unfold cpReadAll
    refine (cpReadPiece_keeps v z x.1 x.2 s).bind fun ⟨bs, t⟩ ht => ?_
    refine ((ih t).imp (fun _ h => h.trans ht) fun _ h => h.trans ht).bind fun ⟨cs, u⟩ hu => hu

/-- A read of D-space by the OB3 moves no launch and no submission. -/
theorem dRead_keeps (p g : Nat) (who : Reader) (a n : Nat) (s : State) : (dRead p g who a n s).state.intake = s.intake := by
  have hd (t : State) (f : List DRead → List DRead) : (t.modPart p fun pt => { pt with dreads := f pt.dreads }).intake = t.intake := State.intake_modPart fun _ => rfl
  unfold dRead
  dsimp only
  split
  · exact hd s _
  · split
    · rfl
    · have h := cpReadAll_keeps { p := p, g := g, view := noView g, cached := false, refused := false } false (pieces a n) s
      unfold cpRead
      revert h
      cases cpReadAll { p := p, g := g, view := noView g, cached := false, refused := false } true false (pieces a n) s with
      | ok x => exact id
      | error e =>
        cases e with
        | fault page w t =>
          intro h
          exact (hd (requestPage p g page false t) fun ds => ds ++ [{ who := who, page := page, failed := false }]).trans ((intake_requestPage ..).trans h)
        | ring t => exact id
        | hold t => exact id
        | err i t =>
          intro h
          dsimp only
          split <;> exact h

/-! Submissions (15 R415). -/

/-- A submission's record is read: who submitted it, and where it stands, are as before. -/
theorem readRecord_keeps (p : Nat) (x : Submission) (s : State) :
    (readRecord p x s).2.intake = s.intake ∧ (readRecord p x s).1.fn = x.fn ∧ (readRecord p x s).1.addr = x.addr := by
  unfold readRecord
  split
  · exact ⟨rfl, rfl, rfl⟩
  · have h := dRead_keeps p (s.lowCluster p) (.submission x.num) x.addr 64 s
    revert h
    cases dRead p (s.lowCluster p) (.submission x.num) x.addr 64 s with
    | ecc a t => exact fun h => ⟨(intake_logMachine ..).trans h, rfl, rfl⟩
    | _ => exact fun h => ⟨h, rfl, rfl⟩

theorem readRecord_of_read {x : Submission} {bs : List Byte} (h : x.bytes = some bs) (p : Nat) (s : State) : readRecord p x s = (x, s) := by simp [readRecord, h]

/-! Launch start (01 R20, R21). -/

theorem startRead_keeps (p num a n : Nat) (s : State) : StartKeeps s (startRead p num a n s) := by
  have h := dRead_keeps p (s.lowCluster p) (.submission num) a n s
  unfold startRead
  revert h
  cases dRead p (s.lowCluster p) (.submission num) a n s with
  | ecc b t => exact fun h => (intake_logMachine ..).trans h
  | _ => exact id

theorem check_keeps (ok : Bool) (code : Nat) (s : State) : Ends (fun _ => True) (fun e : StartStop => e.state.intake = s.intake) (check ok code s) := by
  cases ok <;> trivial

theorem Ends.after {ε α : Type} {P P' : α → Prop} {st : ε → State} {s t : State} {x : Except ε α} (h : Ends P (fun e => (st e).intake = t.intake) x) (ht : t.intake = s.intake)
    (hp : ∀ a, P a → P' a) : Ends P' (fun e => (st e).intake = s.intake) x := h.imp hp fun _ he => he.trans ht

theorem readNodes_keeps (p num : Nat) (l : Launch) (bs : List Byte) (is : List Nat) (s : State) : StartKeeps s (readNodes p num l bs is s) := by
  induction is generalizing s with
  | nil => rfl
  | cons i r ih =>
    unfold readNodes
    refine (check_keeps ..).bind fun _ _ => ?_
    refine (startRead_keeps ..).bind fun ⟨jb, t⟩ ht => ?_
    refine ((check_keeps ..).after ht fun _ h => h).bind fun _ _ => ?_
    exact ((ih t).after ht fun _ h => h.trans ht).bind fun ⟨ns, u⟩ hu => hu

theorem readGroup_keeps (p num : Nat) (r : LaunchRec) (s : State) : StartKeeps s (readGroup p num r s) := by
  unfold readGroup
  split
  · rfl
  · refine (startRead_keeps ..).bind fun ⟨h, t⟩ ht => ?_
    dsimp only at ht ⊢
    split
    · exact ht
    · exact (startRead_keeps ..).after ht fun _ h => h.trans ht

/-- A launch whose structures are sound starts: it has the record and the function of its submission. -/
def Starts (x : Submission) (bs : List Byte) (s : State) (y : Launch × State) : Prop :=
  y.2.intake = s.intake ∧ y.1.phase = .starting ∧ y.1.fn = x.fn ∧ y.1.lrec = LaunchRec.ofBytes bs

/-- What a launch start reads moves no launch and no submission. -/
theorem startLaunch_keeps (p : Nat) {x : Submission} {bs : List Byte} (hx : x.bytes = some bs) (s : State) :
    Ends (Starts x bs s) (fun e => e.state.intake = s.intake) (startLaunch p x s) := by
  unfold startLaunch
  simp only [hx]
  refine (check_keeps ..).bind fun _ _ => ?_
  refine (startRead_keeps ..).bind fun ⟨wb, s1⟩ h1 => ?_
  refine ((startRead_keeps ..).after h1 fun _ h => h.trans h1).bind fun ⟨db, s2⟩ h2 => ?_
  refine ((startRead_keeps ..).after h2 fun _ h => h.trans h2).bind fun ⟨hb, s3⟩ h3 => ?_
  refine ((check_keeps ..).after h3 fun _ h => h).bind fun _ _ => ?_
  refine ((check_keeps ..).after h3 fun _ h => h).bind fun _ _ => ?_
  split
  · refine ((check_keeps ..).after h3 fun _ h => h).bind fun _ _ => ?_
    refine ((check_keeps ..).after h3 fun _ h => h).bind fun _ _ => ?_
    refine ((startRead_keeps ..).after h3 fun _ h => h.trans h3).bind fun ⟨nb, s4⟩ h4 => ?_
    refine ((readNodes_keeps ..).after h4 fun _ h => h.trans h4).bind fun ⟨nodes, s5⟩ h5 => ?_
    split
    · exact h5
    · refine ((readGroup_keeps ..).after h5 fun _ h => h.trans h5).bind fun ⟨gb, s6⟩ h6 => ?_
      dsimp only at h6 ⊢
      split
      · exact ⟨h6, rfl, rfl, rfl⟩
      · refine ((check_keeps ..).after h6 fun _ h => h).bind fun _ _ => ?_
        split
        · exact h6
        · split
          · exact ⟨h6, rfl, rfl, rfl⟩
          · exact h6
  · exact h3

end Sys2Proof.Machine
end

section
namespace Sys2Proof.Machine

open Sys2Proof Sys2Proof.Laws

/-! Completion statuses and refusal notices (01 R20, R36; 15 R415, R416). -/

/-- A completion status leaves all but the platform's functions and the messages that have left. -/
theorem completion_frame (fn id code : Nat) (s : State) :
    (completion fn id code s).parts = s.parts ∧ (completion fn id code s).mem = s.mem ∧ (completion fn id code s).plat.ports = s.plat.ports := by
  refine ⟨?_, ?_, ?_⟩ <;> unfold completion State.raiseVec <;> split <;> rfl

theorem completion_reported (fn id code : Nat) {s t : State} (h : t.plat.fns = s.plat.fns) : Reported s (completion fn id code t) fn id code := by
  have hd : (t.fn fn).d3 = (s.fn fn).d3 := by rw [State.fn_of_fns h]
  unfold completion State.raiseVec
  rw [State.fn_modFn_self]
  cases h3 : (s.fn fn).d3 with
  | true =>
    rw [if_pos (hd.trans h3)]
    exact ⟨by simp, fun h => by simp [h3] at h⟩
  | false =>
    rw [if_neg (by simp [hd, h3])]
    exact ⟨congrArg Fn.lstat (State.fn_modFn_self t fn fun f => { f with lstat := BitVec.ofNat 64 (id * 2 ^ 32 + 2 ^ 31 + code) }), fun _ => List.mem_cons_self⟩

/-- More messages may leave after a report. -/
theorem Reported.sent {s t u : State} {fn id code : Nat} (h : Reported s t fn id code) {o : List OutMsg}
    (hu : u = t.modPlat fun x => { x with out := o ++ x.out }) : Reported s u fn id code := by
  subst hu
  exact ⟨h.1, fun h3 => List.mem_append_right _ (h.2 h3)⟩

/-- Messages to ports leave all but the messages that have left; among these is one for each port in direct mode. -/
theorem sendPorts_same {α : Type} (f : α → Nat) (k : PortKind) (ws : List Nat) (l : List α) (s : State) :
    ∃ o, l.foldl (fun s x => s.sendPort (f x) k ws []) s = s.modPlat (fun x => { x with out := o ++ x.out }) ∧
      ∀ x ∈ l, (s.port (f x)).direct = true → OutMsg.port (f x) k ws [] ∈ o := by
  obtain ⟨o, ho, hm⟩ := sendGroupPorts_same { pgid := 0, rank := 0, size := 0, crc := 0#32, ports := l.map fun x => (f x, 0) } none k ws s
  refine ⟨o, ?_, fun x hx hd => hm (f x, 0) (List.mem_map_of_mem hx) (by simp) hd⟩
  rw [← ho, sendGroupPorts, List.filter_eq_self.mpr (by simp), List.foldl_map]

theorem mem_directPorts {s : State} {p n : Nat} (h : n ∈ s.directPorts p) : (s.port n).direct = true := by
  simp only [State.directPorts, List.mem_filter, Bool.and_eq_true] at h
  exact h.2.2

theorem directPorts_congr {s t : State} (h : ∀ n, t.port n = s.port n) (p : Nat) : t.directPorts p = s.directPorts p := by
  simp only [State.directPorts, h]

/-- Notices leave all but the messages that have left; each port of the partition in direct mode has one. -/
theorem refusalNotices_same (p pgid : Nat) (s : State) :
    ∃ o, refusalNotices p pgid none s = s.modPlat (fun x => { x with out := o ++ x.out }) ∧ ∀ n ∈ s.directPorts p, OutMsg.port n .refusalNotice [pgid] [] ∈ o := by
  obtain ⟨o, ho, hm⟩ := sendPorts_same id .refusalNotice [pgid] (s.directPorts p) s
  refine ⟨o, ?_, fun n hn => hm n hn (mem_directPorts hn)⟩
  rw [refusalNotices, List.filter_eq_self.mpr (by simp)]
  exact ho

/-- Notices leave where the launch has a group, and only there. -/
def noticed (p pgid : Nat) (multi : Bool) (s : State) : State := if multi then refusalNotices p pgid none s else s

theorem noticed_same (p pgid : Nat) (multi : Bool) (s : State) :
    ∃ o, noticed p pgid multi s = s.modPlat (fun x => { x with out := o ++ x.out }) ∧
      (multi = true → ∀ n ∈ s.directPorts p, OutMsg.port n .refusalNotice [pgid] [] ∈ o) := by
  cases multi with
  | false => exact ⟨[], rfl, nofun⟩
  | true =>
    obtain ⟨o, ho, hm⟩ := refusalNotices_same p pgid s
    exact ⟨o, ho, fun _ => hm⟩

/-- The completion of a launch leaves the partitions and the ports, and is reported unless the launch is silent. -/
theorem completeLaunch_spec (l : Launch) (code : Nat) {s t : State} (h : t.plat.fns = s.plat.fns) :
    (completeLaunch l code t).parts = t.parts ∧ (completeLaunch l code t).plat.ports = t.plat.ports ∧
      (l.silent = false → Reported s (completeLaunch l code t) l.fn l.lrec.launchid code) := by
  unfold completeLaunch
  split
  · exact ⟨rfl, rfl, fun hs => by simp_all⟩
  · obtain ⟨h1, -, h3⟩ := completion_frame l.fn l.lrec.launchid code t
    exact ⟨h1, h3, fun _ => completion_reported _ _ _ h⟩

/-- A starting launch that is refused has ended with the code, and every port in direct mode has a notice if the launch has a group. -/
theorem refuseStarting_ended {p : Nat} {s : State} {l : Launch} (hl : (s.part p).launch = some l) (code : Nat) :
    Ended p s (refuseStarting p code none s) l code ∧
      (l.lrec.multi = true → ∀ n ∈ s.directPorts p, OutMsg.port n .refusalNotice [(l.group.map (·.pgid)).getD 0] [] ∈ (refuseStarting p code none s).plat.out) := by
  have he : refuseStarting p code none s =
      noticed p ((l.group.map (·.pgid)).getD 0) l.lrec.multi (completeLaunch l code (s.modPart p fun pt => { pt with launch := none })) := by
    simp only [refuseStarting, hl, noticed]
  obtain ⟨h1, h2, h3⟩ := completeLaunch_spec l code (s := s) (t := s.modPart p fun pt => { pt with launch := none }) rfl
  obtain ⟨o, ho, hm⟩ := noticed_same p ((l.group.map (·.pgid)).getD 0) l.lrec.multi (completeLaunch l code (s.modPart p fun pt => { pt with launch := none }))
  have hd := directPorts_congr (s := s) (fun n => by simp only [State.port, h2]; rfl : ∀ n, (completeLaunch l code (s.modPart p fun pt => { pt with launch := none })).port n = s.port n) p
  rw [he, ho]
  refine ⟨⟨?_, fun hs => (h3 hs).sent rfl⟩, fun hx n hn => List.mem_append_left _ (hm hx n (hd ▸ hn))⟩
  rw [State.part_congr (State.modPlat_parts ..), State.part_congr h1, State.part_modPart_self]

/-! Submission (15 R415). -/

theorem dspaceOk_iff (a n : Nat) : dspaceOk a n = true ↔ a % n = 0 ∧ a < 2 ^ 48 := by simp [dspaceOk]

theorem submit_rejected {fn : Nat} {v : W64} {s : State}
    (h : s.boundTo fn = none ∨ s.serving = false ∨ v.toNat % 64 ≠ 0 ∨ 2 ^ 48 ≤ v.toNat ∨ ∃ q, s.boundTo fn = some q ∧ 16 ≤ ((s.part q).waiting.filter (·.fn == fn)).length) :
    submit fn v s = s.modFn fn fun f => { f with lstat := f.lstat ||| 0x40000000#64 } := by
  unfold submit
  cases hb : s.boundTo fn with
  | none => rfl
  | some p =>
    refine if_pos ?_
    rcases h with h | h | h | h | ⟨q, hq, h⟩
    · simp [h] at hb
    · simp [h]
    · simp [Bool.eq_false_iff.mpr fun hd => h ((dspaceOk_iff _ _).mp hd).1]
    · simp [Bool.eq_false_iff.mpr fun hd => Nat.not_lt.mpr h ((dspaceOk_iff _ _).mp hd).2]
    · obtain rfl := Option.some.inj (hb.symm.trans hq)
      simp [h]

theorem submit_accepted {p fn : Nat} {v : W64} {s : State} (hb : s.boundTo fn = some p) (hs : s.serving = true) (h64 : v.toNat % 64 = 0) (h48 : v.toNat < 2 ^ 48)
    (hn : ((s.part p).waiting.filter (·.fn == fn)).length < 16) :
    (submit fn v s).fn fn = s.fn fn ∧ ((submit fn v s).part p).lastFn = some fn ∧
      ∃ x, ((submit fn v s).part p).waiting = (s.part p).waiting ++ [x] ∧ x.fn = fn ∧ x.addr = v.toNat := by
  unfold submit
  simp only [hb]
  rw [if_neg (by simp [hs, (dspaceOk_iff _ _).mpr ⟨h64, h48⟩, hn])]
  obtain ⟨h1, h2, h3⟩ := readRecord_keeps p { num := (s.part p).submitted, fn := fn, addr := v.toNat, bytes := none, bad := false } s
  refine ⟨State.fn_of_intake h1 fn, by simp, _, ?_, h2, h3⟩
  rw [State.part_modPart_self, State.waiting_of_intake h1]

/-! Launch start (01 R21). -/

/-- LAUNCH_START takes no submission. -/
theorem launchStart_idle {p : Nat} {s : State} (h : (s.part p).waiting = [] ∨ (s.part p).launch ≠ none ∨ s.modl.hwHeld = true) : launchStart p s = s := by
  unfold launchStart
  split
  · rfl
  · rename_i hw
    refine if_pos ?_
    rcases h with h | h | h
    · simp [h] at hw
    · simp [Option.isSome_iff_ne_none.mpr h]
    · simp [h]

/-- A partition whose launch starts (01 R21). -/
def Part.starting (rest : List Submission) (l : Launch) (x : Part) : Part :=
  { x with waiting := rest, lseq := (x.lseq + 1) % 2 ^ 19, launch := some { l with lseq := (x.lseq + 1) % 2 ^ 19 } }

/-- The exchange of a launch that starts (01 R36). -/
def sendExchange (l : Launch) (s : State) : State :=
  match l.group with
  | none => s
  | some g => g.ports.foldl (fun s q => s.sendPort q.1 .exchange [g.rank, g.pgid, g.crc.toNat] []) s

theorem sendExchange_spec (l : Launch) (s : State) :
    (sendExchange l s).parts = s.parts ∧ ∀ g, l.group = some g → Told (sendExchange l s) g none .exchange [g.rank, g.pgid, g.crc.toNat] := by
  unfold sendExchange
  cases l.group with
  | none => exact ⟨rfl, nofun⟩
  | some g =>
    obtain ⟨o, ho, hm⟩ := sendPorts_same Prod.fst .exchange [g.rank, g.pgid, g.crc.toNat] g.ports s
    dsimp only
    rw [ho]
    refine ⟨rfl, fun g' hg' => ?_⟩
    obtain rfl := Option.some.inj hg'
    exact fun x hx _ hd => List.mem_append_left _ (hm x hx hd)

/-- What keeps LAUNCH_START from its oldest submission, whose record has been read, is not there. -/
structure MayStart (p : Nat) (x : Submission) (rest : List Submission) (bs : List Byte) (s : State) : Prop where
  waiting : (s.part p).waiting = x :: rest
  read : x.bytes = some bs
  free : (s.part p).launch = none
  idle : (s.part p).pstate = .idle
  here : (s.part p).mig.state ≠ .receiving
  clusters : s.clustersOf p ≠ []
  sound : s.modl.hwHeld = false
  serving : s.serving = true

section
variable {p : Nat} {x : Submission} {rest : List Submission} {bs : List Byte} {s : State}

theorem MayStart.launchStart_of_refused (h : MayStart p x rest bs s) {code pgid : Nat} {t : State}
    (hr : startLaunch p x (s.modPart p fun pt => { pt with waiting := x :: rest }) = .error (.refuse code pgid t)) :
    launchStart p s = noticed p pgid (bitOf (fieldOf bs 4 4) 0) (completion x.fn (fieldOf bs 0 4) code (t.modPart p fun pt => { pt with waiting := rest })) := by
  unfold launchStart
  simp only [h.waiting]
  rw [if_neg (by simp [h.free, h.idle, h.here, h.clusters, h.sound, h.serving]), readRecord_of_read h.read]
  dsimp only
  simp only [hr, h.read, Option.getD_some]
  rfl

theorem MayStart.launchStart_of_started (h : MayStart p x rest bs s) {l : Launch} {t : State}
    (hr : startLaunch p x (s.modPart p fun pt => { pt with waiting := x :: rest }) = .ok (l, t)) :
    launchStart p s = sendExchange l (t.modPart p (Part.starting rest l)) := by
  unfold launchStart
  simp only [h.waiting]
  rw [if_neg (by simp [h.free, h.idle, h.here, h.clusters, h.sound, h.serving]), readRecord_of_read h.read]
  dsimp only
  rw [hr]
  rfl

/-- The state in which the structures of a submission are read has the intake of the first, once its record has been read. -/
theorem MayStart.intake (h : MayStart p x rest bs s) : (s.modPart p fun pt => { pt with waiting := x :: rest }).intake = s.intake := by
  refine Prod.ext (funext fun q => ?_) rfl
  by_cases hq : q = p
  · subst hq; simp [State.intake, Part.intake, h.waiting]
  · simp [State.intake, State.part_modPart_of_ne _ _ hq]

theorem bitOf_zero_iff (n : Nat) : bitOf n 0 = true ↔ n % 2 = 1 := by simp [bitOf]

theorem MayStart.refused (h : MayStart p x rest bs s) {code pgid : Nat} {s1 : State}
    (hr : startLaunch p x (s.modPart p fun pt => { pt with waiting := x :: rest }) = .error (.refuse code pgid s1)) :
    ((launchStart p s).part p).waiting = rest ∧ ((launchStart p s).part p).launch = none ∧ Reported s (launchStart p s) x.fn (fieldOf bs 0 4) code ∧
      (launchStart p s).mem = s1.mem ∧
      (fieldOf bs 4 4 % 2 = 1 → ∀ n ∈ s.directPorts p, OutMsg.port n .refusalNotice [pgid] [] ∈ (launchStart p s).plat.out) := by
  have hi : s1.intake = s.intake := by
    have := startLaunch_keeps p h.read (s.modPart p fun pt => { pt with waiting := x :: rest })
    rw [hr] at this
    exact Eq.trans this h.intake
  obtain ⟨h1, h2, h3⟩ := completion_frame x.fn (fieldOf bs 0 4) code (s1.modPart p fun pt => { pt with waiting := rest })
  have h4 := completion_reported x.fn (fieldOf bs 0 4) code (s := s) (t := s1.modPart p fun pt => { pt with waiting := rest }) (congrArg (fun x => x.2.1) hi)
  obtain ⟨o, ho, hm⟩ := noticed_same p pgid (bitOf (fieldOf bs 4 4) 0) (completion x.fn (fieldOf bs 0 4) code (s1.modPart p fun pt => { pt with waiting := rest }))
  have hd := directPorts_congr (s := s)
    (fun n => (by simp only [State.port, h3]; exact State.port_of_intake hi n) : ∀ n, (completion x.fn (fieldOf bs 0 4) code (s1.modPart p fun pt => { pt with waiting := rest })).port n = s.port n) p
  rw [h.launchStart_of_refused hr, ho]
  refine ⟨?_, ?_, h4.sent rfl, h2, fun hb n hn => List.mem_append_left _ (hm ((bitOf_zero_iff _).mpr hb) n (hd ▸ hn))⟩
  · rw [State.part_congr (State.modPlat_parts ..), State.part_congr h1, State.part_modPart_self]
  · rw [State.part_congr (State.modPlat_parts ..), State.part_congr h1, State.part_modPart_self, State.launch_of_intake hi, h.free]

theorem MayStart.refused_of_bad (h : MayStart p x rest bs s) (hb : recordOk bs = false) :
    startLaunch p x (s.modPart p fun pt => { pt with waiting := x :: rest }) = .error (.refuse 1 0 (s.modPart p fun pt => { pt with waiting := x :: rest })) := by
  unfold startLaunch
  simp only [h.read, hb]
  rfl

theorem MayStart.started (h : MayStart p x rest bs s) {l : Launch} {s1 : State}
    (hr : startLaunch p x (s.modPart p fun pt => { pt with waiting := x :: rest }) = .ok (l, s1)) :
    ((launchStart p s).part p).waiting = rest ∧ ((launchStart p s).part p).launch = some { l with lseq := ((s.part p).lseq + 1) % 2 ^ 19 } ∧ l.phase = .starting ∧
      l.fn = x.fn ∧ l.lrec = LaunchRec.ofBytes bs ∧ ∀ g, l.group = some g → Told (launchStart p s) g none .exchange [g.rank, g.pgid, g.crc.toNat] := by
  have hk := startLaunch_keeps p h.read (s.modPart p fun pt => { pt with waiting := x :: rest })
  rw [hr] at hk
  obtain ⟨hi, hph, hfn, hlr⟩ := hk
  have hq : (s1.part p).lseq = (s.part p).lseq := State.lseq_of_intake (hi.trans h.intake) p
  obtain ⟨h1, h2⟩ := sendExchange_spec l (s1.modPart p (Part.starting rest l))
  rw [h.launchStart_of_started hr]
  refine ⟨?_, ?_, hph, hfn, hlr, h2⟩
  · rw [State.part_congr h1, State.part_modPart_self]; rfl
  · rw [State.part_congr h1, State.part_modPart_self, Part.starting, hq]

end

end Sys2Proof.Machine
end

section
namespace Sys2Proof.Machine

open Sys2Proof Sys2Proof.Laws

variable {p : Nat} {s : State} {l : Launch}

/-! The launch exchange (01 R36). -/

theorem startingOn_of_group {port : Nat} {g : Group} (hr : s.reaches? port = some p) (hl : (s.part p).launch = some l) (hg : l.group = some g) (hp : l.phase = .starting) :
    startingOn port s = some (p, l, g) := by simp [startingOn, hr, hl, hg, hp]

theorem launchExchange_matched {port want rank pgid : Nat} {crc : BitVec 32} {g : Group} (hs : startingOn port s = some (p, l, g)) (hw : tget? g.ports port = some want)
    (h : rank = want ∧ pgid = g.pgid ∧ crc = g.crc) :
    launchExchange port rank pgid crc s = s.modLaunch p fun l => { l with exchanged := port :: l.exchanged.filter (· ≠ port) } := by
  unfold launchExchange
  simp only [hs, hw]
  exact if_pos (by simp [h])

theorem launchExchange_mismatched {port want rank pgid : Nat} {crc : BitVec 32} {g : Group} (hs : startingOn port s = some (p, l, g)) (hw : tget? g.ports port = some want)
    (h : ¬ (rank = want ∧ pgid = g.pgid ∧ crc = g.crc)) : launchExchange port rank pgid crc s = refuseStarting p 4 none s := by
  unfold launchExchange
  simp only [hs, hw]
  exact if_neg (by simpa [and_assoc] using h)

theorem refusalNotice_taken {port pgid : Nat} {g : Group} (hs : startingOn port s = some (p, l, g)) (hw : (tget? g.ports port).isSome = true) (h : pgid = g.pgid ∨ pgid = 0) :
    refusalNotice port pgid s = refuseStarting p 4 none s := by
  unfold refusalNotice
  simp only [hs]
  exact if_pos (by simp [hw, h])

theorem refusalNotice_ignored {port pgid : Nat} {g : Group} (hs : startingOn port s = some (p, l, g)) (h : pgid ≠ g.pgid) (h0 : pgid ≠ 0) : refusalNotice port pgid s = s := by
  unfold refusalNotice
  simp only [hs]
  exact if_neg (by simp [h, h0])

theorem pgTimeout_idle (hl : (s.part p).launch = some l) (h : s.reached (l.startTick + 100000) = false) : pgTimeout p s = s := by
  unfold pgTimeout
  simp [hl, h]

theorem pgTimeout_fires (hl : (s.part p).launch = some l) (hp : l.phase = .starting) (he : exchanged l = false) (h : s.reached (l.startTick + 100000) = true) :
    pgTimeout p s = refuseStarting p 5 none s := by
  unfold pgTimeout
  simp [hl, hp, he, h]

/-! The end of a launch (11 R308). -/

theorem plat_suspendCell (s : State) (c : Nat) : (suspendCell s c).plat = s.plat := by
  unfold suspendCell
  split
  · exact (State.putBytes_plat ..).trans (State.putBytes_plat ..)
  · rfl

theorem plat_revertCells (p : Nat) (s : State) : (revertCells p s).plat = s.plat := by
  have h (gs : List Nat) (t : State) : (gs.foldl (fun s g => s.modCluster g fun k => { k with waiters := [], evals := [] }) t).plat = t.plat :=
    foldl_fixed State.plat _ (by intros; rfl) gs t
  exact (h ..).trans (foldl_fixed State.plat suspendCell plat_suspendCell _ _)

/-- Of the platform, arrivals that become IDLE change the ports only. -/
theorem fns_idleArrivals (p : Nat) (s : State) : (idleArrivals p s).plat.fns = s.plat.fns :=
  foldl_fixed (fun s : State => s.plat.fns) _ (fun _ _ => by dsimp only; split <;> rfl) _ _

theorem fns_clearLaunch (p : Nat) (s : State) : (clearLaunch p s).plat.fns = s.plat.fns := by
  have h := foldl_fixed State.plat (fun s g => s.modCluster g fun k => { k with ctl := none }) (fun _ _ => rfl) ((idleArrivals p (revertCells p s)).clustersOf p)
    (idleArrivals p (revertCells p s))
  exact (congrArg Plat.fns h).trans ((fns_idleArrivals ..).trans (congrArg Plat.fns (plat_revertCells p s)))

/-- A partition whose launch has been cleared has none, is IDLE, and has no pins. -/
theorem part_clearLaunch (p : Nat) (s : State) :
    ((clearLaunch p s).part p).launch = none ∧ ((clearLaunch p s).part p).pstate = .idle ∧ ((clearLaunch p s).part p).pins = [] := by
  unfold clearLaunch
  dsimp only
  rw [State.part_modPart_self]
  exact ⟨rfl, rfl, rfl⟩

theorem launchEnd_idle (hl : (s.part p).launch = some l) (h : l.complete = false ∨ l.jigs ≠ [] ∨ quietPart s p = false) : launchEnd p s = s := by
  unfold launchEnd
  simp only [hl]
  refine if_pos ?_
  rcases h with h | h | h <;> simp [Launch.finished, h]

/-- A launch whose timetable is finished, and which has no jig, no delayed push and no command left. -/
structure Over (p : Nat) (s : State) (l : Launch) : Prop where
  active : l.phase = .active
  running : (s.part p).pstate = .active
  complete : l.complete = true
  last : l.tt.nframe ≤ l.frame + 1
  jigs : l.jigs = []
  delayed : l.delayed = []
  quiet : quietPart s p = true

theorem launchEnd_ended (hl : (s.part p).launch = some l) (h : Over p s l) :
    Ended p s (launchEnd p s) l 0 ∧ ((launchEnd p s).part p).pstate = .idle ∧ ((launchEnd p s).part p).pins = [] := by
  have he : launchEnd p s = completeLaunch l 0 (clearLaunch p s) := by
    unfold launchEnd
    simp only [hl]
    exact if_neg (by simp [Launch.finished, h.active, h.running, h.complete, h.last, h.jigs, h.delayed, h.quiet])
  obtain ⟨h1, -, h3⟩ := completeLaunch_spec l 0 (fns_clearLaunch p s)
  obtain ⟨k1, k2, k3⟩ := part_clearLaunch p s
  rw [he]
  exact ⟨⟨by rw [State.part_congr h1, k1], h3⟩, by rw [State.part_congr h1, k2], by rw [State.part_congr h1, k3]⟩

end Sys2Proof.Machine
end

section
namespace Sys2Proof.Machine

open Sys2Proof Sys2Proof.Laws

/-! Zeros in memory (05 R118; 01 R24). -/

/-- No byte outside LP memory is undefined. -/
def State.OnlyLpUndef (s : State) : Prop := ∀ r ∈ s.attr.undef, lpBase ≤ r.lo

theorem readCell_filter (q : Nat → Bool) (m : List Host.Cell) (a : Nat) : readCell (m.filter fun c => q c.1) a = if q a then readCell m a else unlistedByte := by
  induction m with
  | nil => simp [readCell]
  | cons c r ih =>
    obtain ⟨j, b⟩ := c
    by_cases hj : j = a
    · subst hj
      cases hq : q j <;> simp [hq, readCell, ih]
    · cases hq : q j <;> simp [hq, readCell, ih, hj]

theorem undefByte_of_low {s : State} (h : s.OnlyLpUndef) {a : Nat} (ha : a < lpBase) : undefByte s.attr.undef a = none := by
  rw [undefByte, List.find?_eq_none.mpr fun r hr => ?_]
  · rfl
  · have := h r hr
    simp only [Bool.and_eq_true, decide_eq_true_eq]
    omega

theorem undef_zeroRange {s : State} (h : s.OnlyLpUndef) (lo : Nat) {hi : Nat} (hh : hi ≤ lpBase) : (zeroRange lo hi s).attr.undef = s.attr.undef :=
  List.filter_eq_self.mpr fun r hr => by
    have := h r hr
    simp only [Bool.or_eq_true, decide_eq_true_eq]
    omega

theorem onlyLpUndef_zeroRange {s : State} (h : s.OnlyLpUndef) (lo hi : Nat) : (zeroRange lo hi s).OnlyLpUndef := fun r hr => h r (List.mem_filter.mp hr).1

/-- Outside LP memory, a range that is zeroed reads as 0, and every other byte as before. -/
theorem byte_zeroRange {s : State} (h : s.OnlyLpUndef) (lo : Nat) {hi : Nat} (hh : hi ≤ lpBase) (b : Nat) :
    (zeroRange lo hi s).byte b = if lo ≤ b ∧ b < hi then 0#8 else s.byte b := by
  have hr : readCell (zeroRange lo hi s).mem b = if (decide (b < lo) || decide (hi ≤ b)) = true then readCell s.mem b else unlistedByte :=
    readCell_filter (fun a => decide (a < lo) || decide (hi ≤ a)) s.mem b
  rw [State.byte, undef_zeroRange h lo hh, hr]
  by_cases hb : lo ≤ b ∧ b < hi
  · rw [if_pos hb, undefByte_of_low h (by omega), if_neg (by simp; omega)]
    rfl
  · rw [if_neg hb, if_pos (by simp; omega)]
    rfl

/-- The scratchpads and gather buffers of a cluster: those bytes that an activation zeroes (05 R118). -/
def InCluster (g b : Nat) : Prop :=
  (gbufBase (24 * g) ≤ b ∧ b < gbufBase (24 * g + 24)) ∨ (unitBase (24 * g) ≤ b ∧ b < unitBase (24 * g + 24)) ∨ (clusBase g ≤ b ∧ b < clusBase g + 2 ^ 24)

theorem inCluster_low {g b : Nat} (hg : g < 192) (h : InCluster g b) : b < lpBase := by
  simp only [InCluster, clusBase, unitBase, gbufBase, lpBase] at *
  omega

theorem onlyLpUndef_zeroCluster {s : State} (h : s.OnlyLpUndef) (g : Nat) : (zeroCluster s g).OnlyLpUndef :=
  onlyLpUndef_zeroRange (onlyLpUndef_zeroRange (onlyLpUndef_zeroRange h _ _) _ _) _ _

theorem byte_zeroCluster {s : State} (h : s.OnlyLpUndef) {g : Nat} (hg : g < 192) (b : Nat) :
    (InCluster g b → (zeroCluster s g).byte b = 0#8) ∧ (¬ InCluster g b → (zeroCluster s g).byte b = s.byte b) := by
  have h1 := onlyLpUndef_zeroRange h (clusBase g) (clusBase g + 2 ^ 24)
  have h2 := onlyLpUndef_zeroRange h1 (unitBase (24 * g)) (unitBase (24 * g + 24))
  have hc : clusBase g + 2 ^ 24 ≤ lpBase := by simp only [clusBase, lpBase]; omega
  have hu : unitBase (24 * g + 24) ≤ lpBase := by simp only [unitBase, lpBase]; omega
  have hb : gbufBase (24 * g + 24) ≤ lpBase := by simp only [gbufBase, lpBase]; omega
  rw [zeroCluster, byte_zeroRange h2 _ hb, byte_zeroRange h1 _ hu, byte_zeroRange h _ hc]
  refine ⟨fun hi => ?_, fun ho => ?_⟩
  · split
    · rfl
    · split
      · rfl
      · rename_i h3 h4
        exact if_pos ((hi.resolve_left h3).resolve_left h4)
  · obtain ⟨k1, k2, k3⟩ : _ ∧ _ ∧ _ := ⟨fun k => ho (.inl k), fun k => ho (.inr (.inl k)), fun k => ho (.inr (.inr k))⟩
    rw [if_neg k1, if_neg k2, if_neg k3]

/-- Once clusters have been zeroed, their scratchpads and gather buffers read as 0, and every other byte as before. -/
theorem byte_zeroClusters {s : State} (h : s.OnlyLpUndef) {gs : List Nat} (hg : ∀ g ∈ gs, g < 192) (b : Nat) :
    ((∃ g ∈ gs, InCluster g b) → (gs.foldl zeroCluster s).byte b = 0#8) ∧ ((¬ ∃ g ∈ gs, InCluster g b) → (gs.foldl zeroCluster s).byte b = s.byte b) := by
  induction gs generalizing s with
  | nil => simp
  | cons g gs ih =>
    obtain ⟨h1, h2⟩ := byte_zeroCluster h (hg g List.mem_cons_self) b
    obtain ⟨k1, k2⟩ := ih (onlyLpUndef_zeroCluster h g) fun x hx => hg x (List.mem_cons_of_mem _ hx)
    simp only [List.mem_cons, exists_eq_or_imp, List.foldl_cons, not_or]
    refine ⟨fun hi => ?_, fun ho => (k2 ho.2).trans (h2 ho.1)⟩
    by_cases hr : ∃ g ∈ gs, InCluster g b
    · exact k1 hr
    · exact (k2 hr).trans (h1 (hi.resolve_right hr))

/-! Clusters and cores that a launch finds when it becomes active (01 R30; 05 R118; 11 R324). -/

/-- The clusters of a launch that becomes active. -/
def freshCluster (p : Nat) (l : Launch) (g : Nat) (k : Cluster) : Cluster :=
  { k with queues := [], evq := .empty, evWait := [], evDone := [], barriers := [], ctl := some (controlTask p g l), seq := 0, lastq := 15, waiters := [], evals := [] }

def freshClusters (p : Nat) (l : Launch) (gs : List Nat) (s : State) : State := gs.foldl (fun s g => s.modCluster g (freshCluster p l g)) s

def setDmr (p : Nat) (l : Launch) (c : Nat) (s : State) : State := s.modCore c fun k => { k with dmr := launchDmr p l c }

def setDmrs (p : Nat) (l : Launch) (gs : List Nat) (s : State) : State := gs.foldl (fun s g => (List.range 24).foldl (fun s i => setDmr p l (24 * g + i) s) s) s

theorem cluster_freshClusters_of_not_mem (p : Nat) (l : Launch) {gs : List Nat} {g : Nat} (hg : g ∉ gs) (s : State) : (freshClusters p l gs s).cluster g = s.cluster g := by
  induction gs generalizing s with
  | nil => rfl
  | cons d gs ih =>
    obtain ⟨hd, hm⟩ := not_or.mp (mt List.mem_cons.mpr hg)
    exact (ih hm _).trans (State.cluster_modCluster_of_ne _ _ hd)

theorem cluster_freshClusters (p : Nat) (l : Launch) {gs : List Nat} (hn : gs.Nodup) {g : Nat} (hg : g ∈ gs) (s : State) :
    (freshClusters p l gs s).cluster g = freshCluster p l g (s.cluster g) := by
  induction gs generalizing s with
  | nil => simp at hg
  | cons d gs ih =>
    obtain ⟨hd, hn⟩ := List.nodup_cons.mp hn
    show (freshClusters p l gs (s.modCluster d (freshCluster p l d))).cluster g = _
    rcases List.mem_cons.mp hg with rfl | hm
    · rw [cluster_freshClusters_of_not_mem p l hd, State.cluster_modCluster_self]
    · have hne : g ≠ d := fun h => hd (h ▸ hm)
      rw [ih hn hm, State.cluster_modCluster_of_ne _ _ hne]

/-- What a step keeps, and one step of a list of steps brings about, holds after all of them. -/
theorem foldl_of_mem {α β : Type} {P : β → Prop} {f : β → α → β} (hk : ∀ b x, P b → P (f b x)) {l : List α} {y : α} (hy : y ∈ l) (he : ∀ b, P (f b y)) (b : β) :
    P (l.foldl f b) := by
  have keep (l : List α) (b : β) (h : P b) : P (l.foldl f b) := by
    induction l generalizing b with
    | nil => exact h
    | cons x r ih => exact ih _ (hk b x h)
  induction l generalizing b with
  | nil => simp at hy
  | cons x r ih =>
    rcases List.mem_cons.mp hy with rfl | hr
    · exact keep r _ (he b)
    · exact ih hr _

/-- DMR of a core is the launch's. -/
def HasDmr (p : Nat) (l : Launch) (c : Nat) (s : State) : Prop := (s.core c).dmr = launchDmr p l c

theorem setDmr_self (p : Nat) (l : Launch) (c : Nat) (s : State) : HasDmr p l c (setDmr p l c s) := by simp [HasDmr, setDmr]

theorem setDmr_keeps (p : Nat) (l : Launch) (c d : Nat) (s : State) (h : HasDmr p l c s) : HasDmr p l c (setDmr p l d s) := by
  by_cases hd : c = d
  · subst hd; exact setDmr_self ..
  · rw [HasDmr, setDmr, State.core_modCore_of_ne _ _ hd]; exact h

theorem dmr_setDmrs (p : Nat) (l : Launch) {gs : List Nat} {g i : Nat} (hg : g ∈ gs) (hi : i < 24) (s : State) : HasDmr p l (24 * g + i) (setDmrs p l gs s) := by
  have keep (b : State) (h : Nat) : HasDmr p l (24 * g + i) b → HasDmr p l (24 * g + i) ((List.range 24).foldl (fun s j => setDmr p l (24 * h + j) s) b) := by
    intro hb
    generalize List.range 24 = js
    induction js generalizing b with
    | nil => exact hb
    | cons j js ih => exact ih _ (setDmr_keeps _ _ _ _ _ hb)
  exact foldl_of_mem (f := fun s h => (List.range 24).foldl (fun s j => setDmr p l (24 * h + j) s) s) keep hg
    (foldl_of_mem (f := fun s j => setDmr p l (24 * g + j) s) (fun b j => setDmr_keeps p l _ _ b) (List.mem_range.mpr hi) (setDmr_self p l _)) s

/-- MEMB of DMR is what the domain map says, with level 0 always set (01 R30). -/
theorem launchDmr_memb {p : Nat} {l : Launch} (hp : p < 24) (hg : l.group = none) (c : Nat) {k : Nat} (hk : k < 5) :
    (launchDmr p l c).getLsbD (24 + k) = (tget 1#5 l.dmap c ||| 1#5).getLsbD k := by
  have hmask : (~~~(0x1F000000#64)).getLsbD (24 + k) = false := by
    have : k = 0 ∨ k = 1 ∨ k = 2 ∨ k = 3 ∨ k = 4 := by omega
    rcases this with rfl | rfl | rfl | rfl | rfl <;> decide
  have hlt : 24 + k < 64 := by omega
  have hb (m : Nat) : (p + m * 2 ^ 24 + 0 * 2 ^ 32 + 0 * 2 ^ 48 + 0 * 2 ^ 56).testBit (24 + k) = m.testBit k := by
    rw [Nat.testBit_eq_decide_div_mod_eq, Nat.testBit_eq_decide_div_mod_eq, pow_add, ← Nat.div_div_eq_div_mul]
    have : (p + m * 2 ^ 24 + 0 * 2 ^ 32 + 0 * 2 ^ 48 + 0 * 2 ^ 56) / 2 ^ 24 = m := by omega
    rw [this]
  rw [launchDmr, hg, Option.map_none, Option.map_none, Option.map_none, Option.getD_none, BitVec.getLsbD_or,
    BitVec.getLsbD_and, hmask, Bool.and_false, Bool.false_or, BitVec.getLsbD_ofNat, hb, decide_eq_true hlt, Bool.true_and, BitVec.testBit_toNat]

/-! Activation (05 R118). -/

theorem clustersOf_lt {s : State} {p g : Nat} (h : g ∈ s.clustersOf p) : g < 192 := List.mem_range.mp (List.mem_filter.mp h).1

theorem nodup_clustersOf (s : State) (p : Nat) : (s.clustersOf p).Nodup := List.nodup_range.filter _

/-- The machine as a launch finds it: memory zeroed, its clusters fresh, DMR set. -/
def launchReady (p : Nat) (l : Launch) (s : State) : State :=
  let gs := s.clustersOf p
  setDmrs p l gs (freshClusters p l gs ((gs.foldl zeroCluster s).forgetPrior p))

/-- The launch that becomes active at a frame counter. -/
def Launch.begun (l : Launch) (now : Nat) : Launch := { l with phase := .active, f0 := ((now / l.tt.framelen + 1) * l.tt.framelen) % 2 ^ 48 }

/-- The state in which a launch is active, before a phase without a member here is reported. -/
def launchBegun (p : Nat) (l : Launch) (s : State) : State :=
  idleArrivals p ((launchReady p l s).modPart p fun pt =>
    { pt with launch := some (l.begun (launchReady p l s).modl.frame), pins := [], logStale := true, pstate := .active, cwTail := 0 })

variable {p : Nat} {s : State} {l : Launch}

theorem launchActivate_of_exchanged (hl : (s.part p).launch = some l) (hp : l.phase = .starting) (he : exchanged l = true) :
    launchActivate p s = reportPhase p (launchBegun p l s) := by
  unfold launchActivate
  simp only [hl]
  rw [if_neg (by simp [hp, he])]
  rfl

theorem launchActivate_idle (hl : (s.part p).launch = some l) (he : exchanged l = false) : launchActivate p s = s := by
  unfold launchActivate
  simp [hl, he]

@[simp] theorem parts_idleArrivals (p : Nat) (s : State) : (idleArrivals p s).parts = s.parts := foldl_fixed State.parts _ (fun _ _ => by dsimp only; split <;> rfl) _ _
@[simp] theorem clus_idleArrivals (p : Nat) (s : State) : (idleArrivals p s).clus = s.clus := foldl_fixed State.clus _ (fun _ _ => by dsimp only; split <;> rfl) _ _
@[simp] theorem cores_idleArrivals (p : Nat) (s : State) : (idleArrivals p s).cores = s.cores := foldl_fixed State.cores _ (fun _ _ => by dsimp only; split <;> rfl) _ _
@[simp] theorem mem_idleArrivals (p : Nat) (s : State) : (idleArrivals p s).mem = s.mem := foldl_fixed State.mem _ (fun _ _ => by dsimp only; split <;> rfl) _ _
@[simp] theorem attr_idleArrivals (p : Nat) (s : State) : (idleArrivals p s).attr = s.attr := foldl_fixed State.attr _ (fun _ _ => by dsimp only; split <;> rfl) _ _

theorem setDmrs_fixed {γ : Type} (f : State → γ) (h : ∀ t c x, f (t.modCore c x) = f t) (p : Nat) (l : Launch) (gs : List Nat) (s : State) :
    f (setDmrs p l gs s) = f s := foldl_fixed f _ (fun t g => foldl_fixed f (fun t i => setDmr p l (24 * g + i) t) (fun _ _ => h ..) _ t) gs s

theorem freshClusters_fixed {γ : Type} (f : State → γ) (h : ∀ t g x, f (t.modCluster g x) = f t) (p : Nat) (l : Launch) (gs : List Nat) (s : State) :
    f (freshClusters p l gs s) = f s := foldl_fixed f _ (fun _ _ => h ..) gs s

/-- Fresh clusters and DMR leave the partitions, time and memory alone. -/
theorem launchReady_frame (p : Nat) (l : Launch) (s : State) :
    (launchReady p l s).parts = s.parts ∧ (launchReady p l s).modl = s.modl ∧ (launchReady p l s).mem = ((s.clustersOf p).foldl zeroCluster s).mem ∧
      (launchReady p l s).attr.undef = ((s.clustersOf p).foldl zeroCluster s).attr.undef := by
  have h {γ : Type} (f : State → γ) (hk : ∀ t c x, f (t.modCore c x) = f t) (hc : ∀ t g x, f (t.modCluster g x) = f t) :
      f (launchReady p l s) = f (((s.clustersOf p).foldl zeroCluster s).forgetPrior p) := (setDmrs_fixed f hk ..).trans (freshClusters_fixed f hc ..)
  refine ⟨(h State.parts (fun _ _ _ => rfl) fun _ _ _ => rfl).trans ?_, (h State.modl (fun _ _ _ => rfl) fun _ _ _ => rfl).trans ?_,
    h State.mem (fun _ _ _ => rfl) fun _ _ _ => rfl, h (fun t => t.attr.undef) (fun _ _ _ => rfl) fun _ _ _ => rfl⟩
  · exact foldl_fixed State.parts zeroCluster (fun _ _ => rfl) (s.clustersOf p) s
  · exact foldl_fixed State.modl zeroCluster (fun _ _ => rfl) (s.clustersOf p) s

/-- The partition of a launch that has begun. -/
theorem part_launchBegun (p : Nat) (l : Launch) (s : State) :
    ((launchBegun p l s).part p).launch = some (l.begun s.modl.frame) ∧ ((launchBegun p l s).part p).pstate = .active ∧ ((launchBegun p l s).part p).pins = [] ∧
      ((launchBegun p l s).part p).logStale = true := by
  rw [launchBegun, State.part_congr (parts_idleArrivals ..), State.part_modPart_self, (launchReady_frame p l s).2.1]
  exact ⟨rfl, rfl, rfl, rfl⟩

theorem byte_launchBegun (h : s.OnlyLpUndef) (p : Nat) (l : Launch) (b : Nat) :
    ((∃ g ∈ s.clustersOf p, InCluster g b) → (launchBegun p l s).byte b = 0#8) ∧ ((¬ ∃ g ∈ s.clustersOf p, InCluster g b) → (launchBegun p l s).byte b = s.byte b) := by
  obtain ⟨-, -, hm, hu⟩ := launchReady_frame p l s
  have hb : (launchBegun p l s).byte b = ((s.clustersOf p).foldl zeroCluster s).byte b := by
    simp only [State.byte, launchBegun, mem_idleArrivals, attr_idleArrivals, State.modPart_mem, State.modPart_attr, hm, hu]
  rw [hb]
  exact byte_zeroClusters h (fun g hg => clustersOf_lt hg) b

theorem cluster_launchBegun {g : Nat} (hg : g ∈ s.clustersOf p) : ∃ k, (launchBegun p l s).cluster g = freshCluster p l g k := by
  have h : (launchBegun p l s).clus = (freshClusters p l (s.clustersOf p) (((s.clustersOf p).foldl zeroCluster s).forgetPrior p)).clus :=
    (clus_idleArrivals ..).trans (setDmrs_fixed State.clus (fun _ _ _ => rfl) ..)
  exact ⟨_, (State.cluster_congr h g).trans (cluster_freshClusters p l (nodup_clustersOf s p) hg _)⟩

theorem dmr_launchBegun {g i : Nat} (hg : g ∈ s.clustersOf p) (hi : i < 24) : ((launchBegun p l s).core (24 * g + i)).dmr = launchDmr p l (24 * g + i) := by
  have h : (launchBegun p l s).cores = (launchReady p l s).cores := cores_idleArrivals ..
  rw [State.core_congr h]
  exact dmr_setDmrs p l hg hi _

/-- A launch without a group reports no phase. -/
theorem reportPhase_of_no_group (hl : (s.part p).launch = some l) (hg : l.group = none) : reportPhase p s = s := by simp [reportPhase, hl, hg]

/-- A report of a phase leaves the record of the launch and its place, and the state of the partition. -/
theorem reportPhase_keeps (hl : (s.part p).launch = some l) :
    ((reportPhase p s).part p).pstate = (s.part p).pstate ∧ ∃ l', ((reportPhase p s).part p).launch = some l' ∧ l'.phase = l.phase ∧ l'.lrec = l.lrec := by
  unfold reportPhase
  simp only [hl]
  split
  · exact ⟨rfl, l, hl, rfl, rfl⟩
  · split
    · simp only [State.part_congr (sendGroupPorts_parts ..)]
      exact ⟨by rw [State.modLaunch, State.part_modPart_self], _, State.launch_modLaunch_self _ hl, rfl, rfl⟩
    · exact ⟨rfl, l, hl, rfl, rfl⟩

theorem exchanged_of_no_group (hg : l.group = none) : exchanged l = true := by simp [exchanged, hg]

end Sys2Proof.Machine
end

section
open Sys2Proof Sys2Proof.Machine

namespace Sys2Proof.Machine.LaunchEvents

variable {p : Nat} {s : State} {l : Launch}

/-- An event fires that answers a state known by another name. -/
theorem fires_of_eq {e : Instr} {t u : State} {P : State → Prop} (h : exec e s = .next t) (ht : t = u) (hu : P u) : Fires e s P := ⟨u, h.trans (congrArg _ ht), hu⟩

/-- A launch without a group becomes active (05 R118). -/
theorem activates_alone (hp : p < 24) (hl : (s.part p).launch = some l) (hph : l.phase = .starting) (hg : l.group = none) (hu : s.OnlyLpUndef) :
    let t := launchActivate p s
    (t.part p).launch = some (l.begun s.modl.frame) ∧ (t.part p).pstate = .active ∧ (t.part p).pins = [] ∧ (t.part p).logStale = true ∧
      (∀ b, lpBase ≤ b → t.byte b = s.byte b) ∧ ∀ g ∈ s.clustersOf p, (∃ k, t.cluster g = freshCluster p l g k) ∧ (∀ b, InCluster g b → t.byte b = 0#8) ∧
        ∀ i, i < 24 → ∀ k, k < 5 → (t.core (24 * g + i)).dmr.getLsbD (24 + k) = (tget 1#5 l.dmap (24 * g + i) ||| 1#5).getLsbD k := by
  obtain ⟨h1, h2, h3, h4⟩ := part_launchBegun p l s
  have he : launchActivate p s = launchBegun p l s :=
    (launchActivate_of_exchanged hl hph (exchanged_of_no_group hg)).trans (reportPhase_of_no_group h1 hg)
  rw [he]
  refine ⟨h1, h2, h3, h4, fun b hb => (byte_launchBegun hu p l b).2 fun ⟨g, hm, hi⟩ => Nat.not_lt.mpr hb (inCluster_low (clustersOf_lt hm) hi),
    fun g hm => ⟨cluster_launchBegun hm, fun b hb => (byte_launchBegun hu p l b).1 ⟨g, hm, hb⟩, fun i hi k hk => ?_⟩⟩
  rw [dmr_launchBegun hm hi, launchDmr_memb hp hg _ hk]

/-- A launch whose exchanges have matched becomes active. -/
theorem activates (hl : (s.part p).launch = some l) (hph : l.phase = .starting) (he : exchanged l = true) :
    ((launchActivate p s).part p).pstate = .active ∧ ∃ l', ((launchActivate p s).part p).launch = some l' ∧ l'.phase = .active ∧ l'.lrec = l.lrec := by
  obtain ⟨h1, h2, -, -⟩ := part_launchBegun p l s
  obtain ⟨k1, l', k2, k3, k4⟩ := reportPhase_keeps h1
  rw [launchActivate_of_exchanged hl hph he]
  exact ⟨k1.trans h2, l', k2, k3, k4⟩

/-- The control core of a fresh cluster (11 R324). -/
theorem freshCluster_control (p g : Nat) (l : Launch) (k : Cluster) :
    ∃ z, (freshCluster p l g k).ctl = some z ∧ z.a.pc = l.lrec.ctlbase ∧ z.window = l.windows.headD [] ∧ z.ident = taskIdent p l.lseq g 0xFFFFFFFF ∧
      tget 0#64 z.regs 0 = BitVec.ofNat 64 g := by
  refine ⟨_, rfl, rfl, rfl, rfl, ?_⟩
  by_cases hg : g = 0
  · subst hg; rfl
  · simp [controlTask, hg, tget, tget?]

end Sys2Proof.Machine.LaunchEvents

open Sys2Proof.Machine.FrameEvents Sys2Proof.Machine.LaunchEvents

/-- Settles O52, event by event: what is read at a start moves no launch and no submission, a refusal is one operation for every cause, and an activation is cut into the memories, the clusters and DMR. -/
theorem launchEvents : Obligations.LaunchEvents := by
  unfold Obligations.LaunchEvents
  intro p fn v s
  refine ⟨fun h => ?rejected, fun hb hs h64 h48 hn => fires rfl (submit_accepted hb hs h64 h48 hn), fun h => idle rfl (launchStart_idle h),
    fun x rest bs hw hx hl hi hm hc hh hs => ?start, fun l hl => ⟨fun hp hph hg hu => ?alone, ?ended, fun h => idle rfl (launchEnd_idle hl h), fun g hph hg => ?group⟩⟩
  case rejected =>
    refine fires rfl ?_
    rw [submit_rejected h]
    exact ⟨by rw [State.fn_modFn_self], rfl, rfl⟩
  case start =>
    have hst : MayStart p x rest bs s := ⟨hw, hx, hl, hi, hm, hc, hh, hs⟩
    refine ⟨fun hb => ?_, fun code pgid s1 hr => ?_, fun l s1 hr => fires rfl (hst.started hr)⟩
    · obtain ⟨h1, h2, h3, h4, -⟩ := hst.refused (hst.refused_of_bad hb)
      exact fires rfl ⟨h1, h2, h3, h4⟩
    · obtain ⟨h1, h2, h3, -, h5⟩ := hst.refused hr
      exact fires rfl ⟨h1, h2, h3, h5⟩
  case alone =>
    obtain ⟨h1, h2, h3, h4, h5, h6⟩ := activates_alone hp hl hph hg hu
    refine fires rfl ⟨h1, h2, h3, h4, h5, fun g hm => ?_⟩
    obtain ⟨⟨k, hk⟩, hz, hd⟩ := h6 g hm
    rw [hk]
    exact ⟨rfl, rfl, rfl, rfl, freshCluster_control p g l k, fun b h h' => hz b (.inr (.inr ⟨h, h'⟩)), fun b h h' => hz b (.inr (.inl ⟨h, h'⟩)),
      fun b h h' => hz b (.inl ⟨h, h'⟩), hd⟩
  case ended =>
    exact fun ha _ _ hr hc hn hj hd hq => fires rfl (launchEnd_ended hl ⟨ha, hr, hc, hn, hj, hd, hq⟩)
  case group =>
    refine ⟨fun he => fires rfl (activates hl hph he), fun he => idle rfl (launchActivate_idle hl he), fun _ hr => idle rfl (pgTimeout_idle hl hr), fun he hr => ?_,
      fun port want ho hd hw => ?_⟩
    · obtain ⟨h1, h2⟩ := refuseStarting_ended hl 5
      rw [hg] at h2
      exact fires_of_eq rfl (pgTimeout_fires hl hph he hr) ⟨h1, h2⟩
    · have hs := startingOn_of_group (reaches_of_direct hd ho) hl hg hph
      have hend := (refuseStarting_ended hl 4).1
      refine ⟨fun rank pgid crc => ⟨fun h => fires_of_eq rfl (launchExchange_matched hs hw h) (onlyLaunch_modLaunch _ hl),
        fun h => fires_of_eq rfl (launchExchange_mismatched hs hw h) hend⟩, fun pgid => ⟨fun h => fires_of_eq rfl (refusalNotice_taken hs (by simp [hw]) h) hend,
        fun h h0 => idle rfl (refusalNotice_ignored hs h h0)⟩⟩

end

section
namespace Sys2Proof.Machine

open Sys2Proof Sys2Proof.Laws

/-! The order of candidates (11 R317). -/

/-- What R317 compares: the age first, then what candidates of one age go by. -/
theorem before_iff (s : State) (q : Nat) (a b : Candidate) : before s q a b = true ↔
    if a.entry.age = 16 then
      b.entry.age ≠ 16 ∨ a.entry.agedAt < b.entry.agedAt ∨
        a.entry.agedAt = b.entry.agedAt ∧ (s.since b.entry.rtick < s.since a.entry.rtick ∨ s.since a.entry.rtick = s.since b.entry.rtick ∧ a.q < b.q)
    else b.entry.age ≠ 16 ∧ (b.entry.prio < a.entry.prio ∨ a.entry.prio = b.entry.prio ∧
      (s.since b.entry.rtick < s.since a.entry.rtick ∨ s.since a.entry.rtick = s.since b.entry.rtick ∧ (a.q + 15 - q) % 16 < (b.q + 15 - q) % 16)) := by
  unfold before
  split <;> simp [or_assoc]

theorem before_irrefl (s : State) (q : Nat) (a : Candidate) : before s q a a = false := by
  rw [← Bool.not_eq_true, before_iff]
  split <;> omega

theorem before_trans {s : State} {q : Nat} {a b c : Candidate} (h : before s q a b = true) (k : before s q b c = true) : before s q a c = true := by
  rw [before_iff] at h k ⊢
  generalize (a.q + 15 - q) % 16 = ra at *
  generalize (b.q + 15 - q) % 16 = rb at *
  generalize (c.q + 15 - q) % 16 = rc at *
  split at h <;> split at k <;> split <;> omega

/-- No candidate is to be taken before the best one. -/
theorem best_spec {s : State} {q : Nat} {cs : List Candidate} {b : Candidate} (h : best s q cs = some b) : b ∈ cs ∧ ∀ d ∈ cs, before s q d b = false := by
  induction cs generalizing b with
  | nil => simp [best] at h
  | cons c r ih =>
    unfold best at h
    split at h
    · rename_i d hd
      obtain ⟨hm, hb⟩ := ih hd
      split at h <;> obtain rfl := Option.some.inj h
      · rename_i hc
        refine ⟨List.mem_cons_self, fun e he => ?_⟩
        rcases List.mem_cons.mp he with rfl | he
        · exact before_irrefl ..
        · exact Bool.eq_false_iff.mpr fun hx => Bool.false_ne_true ((hb e he).symm.trans (before_trans hx hc))
      · rename_i hc
        refine ⟨List.mem_cons_of_mem _ hm, fun e he => ?_⟩
        rcases List.mem_cons.mp he with rfl | he
        · exact Bool.eq_false_iff.mpr hc
        · exact hb e he
    · rename_i hn
      obtain rfl := Option.some.inj h
      have hr : r = [] := by
        cases r with
        | nil => rfl
        | cons x r =>
          unfold best at hn
          split at hn
          · split at hn <;> cases hn
          · cases hn
      subst hr
      exact ⟨List.mem_cons_self, fun e he => List.mem_singleton.mp he ▸ before_irrefl ..⟩

/-! The contexts of a core (01 R22). -/

@[simp] theorem Core.stagedCtx_setCtx_staged (k : Core) (x : Context) : (k.setCtx (1 - k.run) x).stagedCtx = x := by simp [Core.stagedCtx]

theorem Core.ctx_setCtx_of_ne (k : Core) {m n : Nat} (x : Context) (h : (n = 0) ↔ m ≠ 0) : (k.setCtx n x).ctx m = k.ctx m := by
  unfold Core.setCtx Core.ctx
  by_cases hm : m = 0
  · have hn : n ≠ 0 := fun hn => h.mp hn hm
    simp [hm, hn]
  · simp [hm, h.mpr hm]

@[simp] theorem Core.running_setCtx_staged (k : Core) (x : Context) : (k.setCtx (1 - k.run) x).running = k.running := by
  rw [Core.running, Core.setCtx_run, k.ctx_setCtx_of_ne x (by omega), Core.running]

@[simp] theorem Core.stagedCtx_setCtx_run (k : Core) (x : Context) : (k.setCtx k.run x).stagedCtx = k.stagedCtx := by
  rw [Core.stagedCtx, Core.setCtx_run, k.ctx_setCtx_of_ne x (by omega), Core.stagedCtx]

@[simp] theorem stagedCtx_loadTask (c : Nat) (t : Task) (x : Option CoreImage) (s : State) :
    ((loadTask c t x s).core c).stagedCtx = { state := .loading x.isSome, task := t, saved := x } := by simp [loadTask]

theorem loadTask_parts (c : Nat) (t : Task) (x : Option CoreImage) (s : State) : (loadTask c t x s).parts = s.parts := rfl

theorem loadTask_clus (c : Nat) (t : Task) (x : Option CoreImage) (s : State) : (loadTask c t x s).clus = s.clus := rfl

@[simp] theorem running_loadTask (c : Nat) (t : Task) (x : Option CoreImage) (s : State) : ((loadTask c t x s).core c).running = (s.core c).running := by simp [loadTask]

/-! Jigs of a launch. -/

theorem tget?_map_key {α : Type} (t : Table α) (k : Nat) (f : α → α) (j : Nat) :
    tget? (t.map fun x => if x.1 = k then (k, f x.2) else x) j = if j = k then (tget? t j).map f else tget? t j := by
  induction t with
  | nil => simp
  | cons x r ih =>
    rw [List.map_cons, tget?_cons, tget?_cons, ih]
    by_cases hx : x.1 = k
    · subst hx
      rw [if_pos rfl]
      by_cases hj : j = x.1
      · subst hj; simp
      · simp [hj, Ne.symm hj]
    · rw [if_neg hx]
      by_cases hj : x.1 = j
      · subst hj; simp [hx]
      · simp [hj]

/-- A launch with one jig changed. -/
def Launch.changeJig (l : Launch) (id : Nat) (f : Jig → Jig) : Launch := { l with jigs := l.jigs.map fun x => if x.1 = id then (id, f x.2) else x }

theorem Launch.tget?_changeJig (l : Launch) (id : Nat) (f : Jig → Jig) (j : Nat) :
    tget? (l.changeJig id f).jigs j = if j = id then (tget? l.jigs j).map f else tget? l.jigs j := tget?_map_key ..

theorem modJig_eq (p id : Nat) (f : Jig → Jig) (s : State) : modJig p id f s = s.modLaunch p fun l => l.changeJig id f := rfl

theorem State.seqOf_of_launch {s : State} {p : Nat} {l : Launch} (h : (s.part p).launch = some l) : s.seqOf p = l.lseq := by simp [State.seqOf, h]

/-! A task in its first state (01 R24). -/

/-- An index goes to its register; an index of 0 leaves it at 0. -/
def putIndex (t : Table W64) (x : Nat × Nat) : Table W64 := if x.2 = 0 then t else tput t x.1 (BitVec.ofNat 64 x.2)

theorem tget_putIndex (t : Table W64) (k v i : Nat) : tget 0#64 (putIndex t (k, v)) i = if i = k ∧ v ≠ 0 then BitVec.ofNat 64 v else tget 0#64 t i := by
  unfold putIndex
  by_cases hv : v = 0
  · simp [hv]
  · simp [hv, tget_tput]

/-- Registers that were 0 hold the indices. -/
theorem tget_putIndices (n a : Nat) (idx : List Nat) (t : Table W64) (h : ∀ i, a ≤ i → tget 0#64 t i = 0#64) (i : Nat) :
    tget 0#64 (((List.range' a n).zip idx).foldl putIndex t) i = if a ≤ i ∧ i < a + n then BitVec.ofNat 64 (idx.getD (i - a) 0) else tget 0#64 t i := by
  induction n generalizing a idx t with
  | zero => rw [if_neg (by omega)]; rfl
  | succ n ih =>
    cases idx with
    | nil =>
      rw [List.zip_nil_right, List.foldl_nil]
      split
      · rename_i hi
        rw [h i hi.1]
        rfl
      · rfl
    | cons v idx =>
      have hp : ∀ j, a + 1 ≤ j → tget 0#64 (putIndex t (a, v)) j = 0#64 := fun j hj => by rw [tget_putIndex, if_neg (by omega), h j (by omega)]
      rw [List.range'_succ, List.zip_cons_cons, List.foldl_cons, ih (a + 1) idx _ hp, tget_putIndex]
      by_cases hi : i = a
      · subst hi
        have h1 : ¬ (i + 1 ≤ i ∧ i < i + 1 + n) := by omega
        have h2 : i ≤ i ∧ i < i + (n + 1) := by omega
        rw [if_neg h1, if_pos h2, Nat.sub_self, List.getD_cons_zero]
        split
        · rfl
        · rename_i hv
          rw [h i (Nat.le_refl i), show v = 0 by simpa using hv]
      · have h1 : ¬ (i = a ∧ v ≠ 0) := fun h => hi h.1
        rw [if_neg h1]
        by_cases hr : a + 1 ≤ i ∧ i < a + 1 + n
        · have h2 : a ≤ i ∧ i < a + (n + 1) := by omega
          rw [if_pos hr, if_pos h2, show i - a = i - (a + 1) + 1 by omega, List.getD_cons_succ]
        · have h2 : ¬ (a ≤ i ∧ i < a + (n + 1)) := by omega
          rw [if_neg hr, if_neg h2]

/-- The first registers of a new task hold the indices of its iteration (01 R24). -/
theorem regs_newTask (l : Launch) (ident : W64) (id : Nat) (j : Jig) (n : Nat) {i : Nat} (hi : i < 6) :
    tget 0#64 (newTask l ident id j n).regs i = BitVec.ofNat 64 ((indices j.jrec n).getD i 0) := by
  have h := tget_putIndices 6 0 (indices j.jrec n) [] (fun _ _ => rfl) i
  rw [if_pos (by omega), Nat.sub_zero, ← List.range_eq_range'] at h
  rw [← h]
  unfold newTask
  dsimp only
  split
  · rfl
  · exact tget_tput_of_ne _ _ _ (by unfold keySp; omega)

/-! Selection (11 R316). -/

@[simp] theorem State.seq_setQueue (s : State) (g q : Nat) (x : TaskQueue) (h : Nat) : ((s.setQueue g q x).cluster h).seq = (s.cluster h).seq := by
  by_cases hg : h = g
  · subst hg; simp [State.setQueue]
  · simp [State.setQueue, State.cluster_modCluster_of_ne _ _ hg]

@[simp] theorem State.seq_clusCtr (s : State) (c : Nat) (k : ClusCtr) (n h : Nat) : ((s.clusCtr c k n).cluster h).seq = (s.cluster h).seq := by
  by_cases hg : h = c
  · subst hg; simp [State.clusCtr]
  · simp [State.clusCtr, State.cluster_modCluster_of_ne _ _ hg]

theorem passOver_cores (g : Nat) (cs : List Candidate) (s : State) : (passOver g cs s).cores = s.cores := foldl_fixed State.cores _ (by intros; rfl) _ _

theorem passOver_parts (g : Nat) (cs : List Candidate) (s : State) : (passOver g cs s).parts = s.parts := foldl_fixed State.parts _ (by intros; rfl) _ _

theorem passOver_seq (g : Nat) (cs : List Candidate) (s : State) (h : Nat) : ((passOver g cs s).cluster h).seq = (s.cluster h).seq :=
  foldl_fixed (fun s : State => (s.cluster h).seq) _ (by intros; simp) _ _

/-- The task that a candidate's iteration becomes, with the selectors of its entry (11 R314, R316). -/
def Candidate.task (c : Candidate) (l : Launch) (ident : W64) (id : Nat) : Task :=
  { newTask l ident id c.jig (c.jig.first + c.jig.next) with sels := c.entry.sel }

/-- An iteration of a jig is claimed. -/
def Jig.claimed (j : Jig) : Jig := { j with next := j.next + 1, open_ := j.open_ + 1 }

variable {p c : Nat} {s : State} {l : Launch}

/-- The queue of a candidate whose entry starts to age again (11 R316). -/
def Candidate.restart (b : Candidate) (k : TaskQueue) : TaskQueue := { k with disp := k.disp.map fun e => if e = b.entry then { e with age := 0, agedAt := 0 } else e }

/-- The state in which a candidate's iteration has been claimed. -/
def claimState (p c : Nat) (b : Candidate) (id : Nat) (s : State) : State :=
  modJig p id Jig.claimed
    ((s.setQueue (clusterOfCore c) b.q (b.restart (s.queue (clusterOfCore c) b.q))).modCluster (clusterOfCore c) fun x => { x with seq := (x.seq + 1) % 2 ^ 32, lastq := b.q })

/-- A claim that is not its jig's last: the task is on its way, and the claim is counted. -/
theorem claimFor_eq {b : Candidate} {id : Nat} (hl : (s.part p).launch = some l) (hj : b.entry.jig = some id) (hn : b.jig.next + 1 ≠ b.jig.count) :
    claimFor p c l b s = loadTask c (b.task l (taskIdent p l.lseq (clusterOfCore c) (s.cluster (clusterOfCore c)).seq) id) none (claimState p c b id s) := by
  have hq : (claimState p c b id s).seqOf p = l.lseq :=
    State.seqOf_of_launch (l := l.changeJig id Jig.claimed) (State.launch_modLaunch_self (fun l => l.changeJig id Jig.claimed) hl)
  have hs := s.seq_setQueue (clusterOfCore c) b.q (b.restart (s.queue (clusterOfCore c) b.q)) (clusterOfCore c)
  rw [← hq, ← hs]
  unfold claimFor
  dsimp only
  rw [if_neg hn, hj]
  rfl

theorem claimState_launch (b : Candidate) (id : Nat) (hl : (s.part p).launch = some l) :
    ((claimState p c b id s).part p).launch = some (l.changeJig id Jig.claimed) := State.launch_modLaunch_self (fun l => l.changeJig id Jig.claimed) hl

theorem claimState_core (p c : Nat) (b : Candidate) (id : Nat) (s : State) (d : Nat) : (claimState p c b id s).core d = s.core d := rfl

theorem claimState_lastq (p c : Nat) (b : Candidate) (id : Nat) (s : State) : ((claimState p c b id s).cluster (clusterOfCore c)).lastq = b.q := by
  rw [claimState, modJig_eq, State.cluster_congr (State.modLaunch_clus ..), State.cluster_modCluster_self]

/-- SELECTION may look for a task for the core. -/
structure MaySelect (c p : Nat) (s : State) (l : Launch) : Prop where
  part : s.partOf? (clusterOfCore c) = some p
  launch : (s.part p).launch = some l
  active : l.phase = .active
  running : (s.part p).pstate = .active

theorem MaySelect.idle (h : MaySelect c p s l) (hf : (s.core c).stagedCtx.state ≠ .free) : selection c s = s := by
  unfold selection
  simp only [h.part, h.launch]
  exact if_pos (by simp [hf])

theorem MaySelect.selection_of_queues (h : MaySelect c p s l) (hf : (s.core c).stagedCtx.state = .free) (hc : claimBack s p l c = none) (hw : wokenTask s p l c = none) :
    selection c s = selection.take c p (clusterOfCore c) l (candidates s p c l) (best s (s.cluster (clusterOfCore c)).lastq (candidates s p c l)) s := by
  unfold selection
  simp only [h.part, h.launch]
  rw [if_neg (by simp [h.active, h.running, hf])]
  simp only [hc, hw]

/-- A woken task is taken where no queue has a candidate (01 R28). -/
theorem MaySelect.selection_of_woken (h : MaySelect c p s l) (hf : (s.core c).stagedCtx.state = .free) (hc : claimBack s p l c = none) {x : Parked}
    (hw : wokenTask s p l c = some x) (hn : candidates s p c l = []) : ((selection c s).core c).stagedCtx = { state := .loading true, task := x.image.task, saved := some x.image.core } := by
  unfold selection
  simp only [h.part, h.launch]
  rw [if_neg (by simp [h.active, h.running, hf])]
  simp only [hc, hw, hn, best, if_true]
  rw [stagedCtx_loadTask]
  rfl

/-- The best candidate is taken: a task of its next iteration is on its way (11 R316). -/
theorem MaySelect.selection_of_best (h : MaySelect c p s l) (hf : (s.core c).stagedCtx.state = .free) (hc : claimBack s p l c = none) (hw : wokenTask s p l c = none)
    {b : Candidate} {id : Nat} (hb : best s (s.cluster (clusterOfCore c)).lastq (candidates s p c l) = some b) (hj : b.entry.jig = some id)
    (hn : b.jig.next + 1 ≠ b.jig.count) :
    let t := selection c s
    (t.core c).stagedCtx = { state := .loading false, task := b.task l (taskIdent p l.lseq (clusterOfCore c) (s.cluster (clusterOfCore c)).seq) id, saved := none } ∧
      (t.core c).running = (s.core c).running ∧ (t.cluster (clusterOfCore c)).lastq = b.q ∧ (t.part p).launch = some (l.changeJig id Jig.claimed) := by
  intro t
  let u := passOver (clusterOfCore c) ((candidates s p c l).filter (· ≠ b)) ((s.clusCtr (clusterOfCore c) .selects 1).clusCtr (clusterOfCore c) .aged (b2n (b.entry.age == 16)))
  have hl : (u.part p).launch = some l := by rw [State.part_congr (passOver_parts ..)]; exact h.launch
  have hq : (u.cluster (clusterOfCore c)).seq = (s.cluster (clusterOfCore c)).seq := by rw [passOver_seq, State.seq_clusCtr, State.seq_clusCtr]
  have hk : u.core c = s.core c := State.core_congr (passOver_cores ..) c
  have ht : t = loadTask c (b.task l (taskIdent p l.lseq (clusterOfCore c) (s.cluster (clusterOfCore c)).seq) id) none (claimState p c b id u) := by
    rw [← hq, ← claimFor_eq hl hj hn]
    exact (h.selection_of_queues hf hc hw).trans (by rw [hb]; rfl)
  clear_value t u
  subst ht
  rw [stagedCtx_loadTask, running_loadTask, State.cluster_congr (loadTask_clus ..), State.part_congr (loadTask_parts ..), claimState_lastq, claimState_launch b id hl,
    claimState_core, hk]
  exact ⟨rfl, rfl, rfl, rfl⟩

/-! Loading (01 R22, R28). -/

/-- A task that starts is STAGED. -/
theorem loadingComplete_of_new (h : (s.core c).stagedCtx.state = .loading false) :
    loadingComplete c s = s.modCore c fun k => k.setCtx (1 - k.run) { (s.core c).stagedCtx with state := .staged } := by
  unfold loadingComplete
  simp only [h]

/-- A task that comes back is restored from its park slot, which is free again. -/
theorem loadingComplete_of_parked (hp : s.partOf? (clusterOfCore c) = some p) (hl : (s.part p).launch = some l) (h : (s.core c).stagedCtx.state = .loading true) {x : Parked}
    (hx : l.parked.find? (fun x => x.core == c && x.image.task.ident == (s.core c).stagedCtx.task.ident) = some x)
    (ho : (slotPages l (clusterOfCore c) x.slot).all s.owned = true) (he : imageError (slotPages l (clusterOfCore c) x.slot) s = none) :
    let pages := slotPages l (clusterOfCore c) x.slot
    loadingComplete c s = ((s.modCore c fun k => k.setCtx (1 - k.run)
      { state := .staged, task := readControl (readPages pages 0 0x208 s) (s.core c).stagedCtx.task, saved := some (readImage pages x.image.core s) }).modLaunch p
        fun l => { l with parked := l.parked.filter (· ≠ x) }).clusCtr (clusterOfCore c) .resumes 1 := by
  unfold loadingComplete unpark
  simp only [h, hp, hl, hx, ho, he]
  rfl

end Sys2Proof.Machine
end

section
namespace Sys2Proof.Machine

open Sys2Proof Sys2Proof.Laws

variable {p c : Nat} {s : State} {l : Launch}

/-! The context switch (01 R22, R24, R28). -/

/-- The core of a partition's cluster is one of the module's. -/
theorem cluster_lt_of_partOf? {g : Nat} (h : s.partOf? g = some p) : g < 192 := by
  have := List.find?_some h
  exact BitVec.lt_of_getLsbD this

/-- The contexts of a core have changed places. -/
def Core.switched (k : Core) (mine : Nat × Nat) : Core := { k with run := 1 - k.run, lastLaunch := some mine, armFaults := [], use := k.used }

/-- The core in which the staged task runs. -/
def Core.entered (k : Core) (mine : Nat × Nat) (t : Task) : Core := (k.switched mine).setCtx (1 - k.run) { state := .running, task := t, saved := none }

/-- The core in which a task begins: what another launch has left is 0, and the engines are stopped (01 R24; 09 R265). -/
def Core.begun (k : Core) (mine : Nat × Nat) (t : Task) : Core :=
  { k.entered mine t with
    vec := { (if k.lastLaunch == some mine then k.vec else .reset) with vcfg := vcfgReset, fsr := 0#64 }
    eng := if k.lastLaunch == some mine then k.eng.stopped else .reset }

/-- The core in which a task goes on with what its image holds. -/
def Core.resumed (k : Core) (mine : Nat × Nat) (t : Task) (x : CoreImage) : Core := { k.entered mine t with vec := x.vec, eng := x.eng }

theorem Core.running_entered (k : Core) (mine : Nat × Nat) (t : Task) : (k.entered mine t).running = { state := .running, task := t, saved := none } :=
  Core.running_setCtx_run (k.switched mine) _

/-- What ran before stands where the task was staged. -/
theorem Core.stagedCtx_entered (k : Core) (mine : Nat × Nat) (t : Task) : (k.entered mine t).stagedCtx = k.running := by
  refine (Core.stagedCtx_setCtx_run (k.switched mine) _).trans ?_
  show k.ctx (1 - (1 - k.run)) = k.ctx k.run
  unfold Core.ctx
  by_cases h : k.run = 0
  · simp [h]
  · have : 1 - (1 - k.run) ≠ 0 := by omega
    rw [if_neg this, if_neg h]

theorem Core.dmr_entered (k : Core) (mine : Nat × Nat) (t : Task) : (k.entered mine t).dmr = k.dmr := Core.setCtx_dmr ..

/-- The staged task of a core may become RUNNING. -/
structure MaySwitch (c p : Nat) (s : State) : Prop where
  part : s.partOf? (clusterOfCore c) = some p
  free : (s.core c).running.state = .free
  staged : (s.core c).stagedCtx.state = .staged

theorem contextSwitch_idle (h : (s.core c).running.state ≠ .free) : contextSwitch c s = s := if_pos (by simp [h])

theorem MaySwitch.begins (h : MaySwitch c p s) (hs : (s.core c).stagedCtx.saved = none) :
    contextSwitch c s = (if (s.core c).lastLaunch == some (p, s.seqOf p) then s else zeroGather c s).setCore c
      ((s.core c).begun (p, s.seqOf p) (s.core c).stagedCtx.task) := by
  unfold contextSwitch
  dsimp only
  rw [if_neg (by simp [h.free, h.staged])]
  simp only [h.part, hs]
  rfl

theorem MaySwitch.resumes (h : MaySwitch c p s) {x : CoreImage} (hs : (s.core c).stagedCtx.saved = some x) :
    contextSwitch c s = deliverAll ((s.core c).stagedCtx.task.a.loads.length + 1) (.access c)
      (putGather c x.gbuf (s.setCore c ((s.core c).resumed (p, s.seqOf p) (scoreboardTask (s.core c).stagedCtx.task) x))) := by
  unfold contextSwitch
  dsimp only
  rw [if_neg (by simp [h.free, h.staged])]
  simp only [h.part, hs]
  rfl

theorem task?_of_running {a : Agent} {t : Task} (ha : a = .access c) (h : (s.core c).running = { state := .running, task := t, saved := none }) : s.task? a = some t := by
  subst ha
  simp [State.task?, h]

/-- The gather buffer of a core is 0, and every other byte is as before (01 R24). -/
theorem byte_zeroGather (h : s.OnlyLpUndef) (hc : c < 4608) (b : Nat) : (zeroGather c s).byte b = if gbufBase c ≤ b ∧ b < gbufBase (c + 1) then 0#8 else s.byte b :=
  byte_zeroRange h _ (by simp only [gbufBase, lpBase]; omega) b

theorem deliverOne_of_no_loads {a : Agent} (h : (s.task a).a.loads = []) : deliverOne a s = s := by simp [deliverOne, h, findIdx?]

theorem putGather_cores (c : Nat) (bs : List Byte) (s : State) : (putGather c bs s).cores = s.cores := foldl_fixed State.cores _ (by intros; simp) _ _

/-- A task without loads goes on as its image says, in interlocked scoreboard mode (14 R401). -/
theorem MaySwitch.resumes_of_no_loads (h : MaySwitch c p s) {x : CoreImage} (hs : (s.core c).stagedCtx.saved = some x) (hn : (s.core c).stagedCtx.task.a.loads = []) :
    (contextSwitch c s).core c = (s.core c).resumed (p, s.seqOf p) (scoreboardTask (s.core c).stagedCtx.task) x := by
  let u := putGather c x.gbuf (s.setCore c ((s.core c).resumed (p, s.seqOf p) (scoreboardTask (s.core c).stagedCtx.task) x))
  have hu : u.core c = (s.core c).resumed (p, s.seqOf p) (scoreboardTask (s.core c).stagedCtx.task) x :=
    (State.core_congr (putGather_cores ..) c).trans (State.core_setCore_self ..)
  have ht : u.task? (.access c) = some (scoreboardTask (s.core c).stagedCtx.task) :=
    task?_of_running rfl ((congrArg Core.running hu).trans (Core.running_entered ..))
  have hl : (u.task (.access c)).a.loads = [] := by rw [State.task, ht]; exact hn
  rw [h.resumes hs, hn]
  exact (congrArg (fun v : State => v.core c) (deliverOne_of_no_loads hl)).trans hu

/-! What retirement and parking leave of the cores. -/

/-- The contexts of a core, and which of them runs. -/
def Core.contexts (k : Core) : Context × Context × Nat := (k.ctx0, k.ctx1, k.run)

/-- The contexts of every core. -/
def State.contexts (s : State) (d : Nat) : Context × Context × Nat := (s.core d).contexts

theorem Core.stagedCtx_of_contexts {k j : Core} (h : k.contexts = j.contexts) : k.stagedCtx = j.stagedCtx := by
  obtain ⟨h0, h1, hr⟩ : k.ctx0 = j.ctx0 ∧ k.ctx1 = j.ctx1 ∧ k.run = j.run := by simpa [Core.contexts] using h
  simp only [Core.stagedCtx, Core.ctx, h0, h1, hr]

@[simp] theorem Core.running_freed (k : Core) : k.freed.running = .free := Core.running_setCtx_run ..

@[simp] theorem Core.stagedCtx_freed (k : Core) : k.freed.stagedCtx = k.stagedCtx := Core.stagedCtx_setCtx_run ..

@[simp] theorem State.contexts_coreCtr (s : State) (d : Nat) (k : CoreCtr) (n : Nat) : (s.coreCtr d k n).contexts = s.contexts := by
  funext e
  rw [State.contexts, State.core_coreCtr]
  split
  · subst_vars; rfl
  · rfl

@[simp] theorem State.contexts_coreClk (s : State) (d : Nat) (k : CoreCtr) : (s.coreClk d k).contexts = s.contexts := s.contexts_coreCtr ..

theorem contexts_countRanges (p : Nat) (s : State) : (countRanges p s).contexts = s.contexts := by
  unfold countRanges
  split
  · rfl
  · exact foldl_fixed State.contexts _ (by intros; simp) _ _

@[simp] theorem State.setQueue_cores (s : State) (g q : Nat) (x : TaskQueue) : (s.setQueue g q x).cores = s.cores := rfl

theorem evqPost_cores (p g : Nat) (r : EvRec) (s : State) : (evqPost p g r s).cores = s.cores := by
  unfold evqPost
  dsimp only
  split
  · rfl
  · exact (State.modCluster_cores ..).trans ((State.clusCtr_cores ..).trans (State.write_cores ..))

@[simp] theorem evqSend_cores (p g : Nat) (r : EvRec) (s : State) : (evqSend p g r s).cores = s.cores := by
  unfold evqSend
  split
  · exact evqPost_cores ..
  · rfl

@[simp] theorem settle_cores (p g q : Nat) (l : Launch) (n : Nat) (s : State) : (settle p g q l n s).cores = s.cores := by
  induction n generalizing s with
  | zero => rfl
  | succ n ih =>
    unfold settle
    dsimp only
    split
    · rfl
    · split
      · exact (ih _).trans (State.setQueue_cores ..)
      · split
        · exact (ih _).trans ((State.clusCtr_cores ..).trans ((State.setQueue_cores ..).trans (State.write_cores ..)))
        · rfl

@[simp] theorem pushEntry_cores (p q id : Nat) (j : Jig) (l : Launch) (s : State) (g : Nat) : (pushEntry p q id j l s g).cores = s.cores :=
  (settle_cores ..).trans (State.setQueue_cores ..)

/-! Jigs of the pool that retire or are released (11 R310, R311, R319). -/

/-- A jig of the pool retires: its launch has it no longer. -/
theorem retireJig_pool {id : Nat} {j : Jig} (hl : (s.part p).launch = some l) (hj : tget? l.jigs id = some j) (hs : j.source = .pool) :
    ((retireJig p id s).part p).launch = some { l with jigs := tdel l.jigs id } ∧ (retireJig p id s).cores = s.cores := by
  let r : EvRec := { kind := 0xA, src := 31, stat := 0, idx := j.frame % 2 ^ 32, data := j.jrec.arg }
  have he : retireJig p id s = ((if j.jrec.retrec then evqSend p j.home r s else s).modLaunch p fun l => { l with jigs := tdel l.jigs id }).partCtr p .jigsret 1 := by
    unfold retireJig
    simp only [hl, hj, hs]
    rfl
  have hu : (if j.jrec.retrec then evqSend p j.home r s else s).launches = s.launches := by split <;> simp
  have hc : (if j.jrec.retrec then evqSend p j.home r s else s).cores = s.cores := by split <;> simp
  rw [he]
  exact ⟨(congrFun (State.launches_partCtr ..) p).trans (State.launch_modLaunch_self _ ((congrFun hu p).trans hl)), hc⟩

/-- A jig of the pool is released: other jigs of the launch are as before. -/
theorem releaseAt_pool (slot : Nat) (r : JigRec) (lin : List Nat) (argp : W64) (hl : (s.part p).launch = some l) :
    (∃ l', ((releaseAt p slot r .pool lin argp s).part p).launch = some l' ∧ ∀ id, id ≠ l.nextJig → tget? l'.jigs id = tget? l.jigs id) ∧
      (releaseAt p slot r .pool lin argp s).cores = s.cores := by
  let j := releasedJig p slot r .pool lin argp l s
  by_cases hc : (iterations l r).2 = 0
  · let u := (s.modLaunch p fun x => x.withJig .pool j).partCtr p .jigsrel 1
    have hu : (u.part p).launch = some (l.withJig .pool j) := (congrFun (State.launches_partCtr ..) p).trans (State.launch_modLaunch_self _ hl)
    have he : releaseAt p slot r .pool lin argp s = retireJig p l.nextJig u := by
      unfold releaseAt
      rw [hl]
      dsimp only
      rw [if_pos hc, State.modLaunch_congr (g := fun x => x.withJig .pool j) hl rfl]
    obtain ⟨h1, h2⟩ := retireJig_pool hu (l.tget?_withJig .pool j) rfl
    rw [he]
    exact ⟨⟨_, h1, fun id hid => (tget?_tdel_of_ne _ hid).trans (tget?_tput_of_ne _ _ hid)⟩, h2⟩
  · obtain ⟨h1, -, -⟩ := releaseAt_spec (slot := slot) (src := .pool) (lin := lin) (argp := argp) hl hc
    refine ⟨⟨_, h1, fun id hid => tget?_tput_of_ne _ _ hid⟩, ?_⟩
    rw [releaseAt_eq hl hc]
    exact (foldl_fixed State.cores _ (by intros; simp) _ _).trans rfl

/-- A message that waited for the pool releases its jig: jigs that the launch had before are as they were. -/
theorem flushArrival_spec (hl : (s.part p).launch = some l) :
    (∃ l', ((flushArrival p s).part p).launch = some l' ∧ ∀ id, id ≠ l.nextJig → tget? l'.jigs id = tget? l.jigs id) ∧ (flushArrival p s).cores = s.cores := by
  have hs : (∃ l', (s.part p).launch = some l' ∧ ∀ id, id ≠ l.nextJig → tget? l'.jigs id = tget? l.jigs id) ∧ s.cores = s.cores := ⟨⟨l, hl, fun _ _ => rfl⟩, rfl⟩
  have hu (n : Nat) (f : Port → Port) : (((s.partClk p .poolwaitclk).modPort n f).part p).launch = some l := (congrFun (State.launches_partClk ..) p).trans hl
  unfold flushArrival
  simp only [hl]
  split
  · exact hs
  · split
    · exact hs
    · split
      · exact releaseAt_pool _ _ _ _ (hu ..)
      · exact ⟨⟨l, hu .., fun _ _ => rfl⟩, rfl⟩

/-- Has a jig no iteration left to claim, none claimed back and none running (11 R319)? -/
def Jig.isDone (j : Jig) : Prop := j.next = j.count ∧ j.open_ = 0 ∧ j.claims = []

theorem Jig.isDone_iff (j : Jig) : (j.next = j.count && j.open_ = 0 && j.claims.isEmpty) = true ↔ j.isDone := by simp [Jig.isDone, and_assoc]

theorem Launch.nextJig_ne_of_lt {id : Nat} (h : id < l.nextJig) : id ≠ ({ l with jigs := tdel l.jigs id } : Launch).nextJig := Nat.ne_of_lt h

/-- A jig of the pool whose tasks have all retired goes; else it stays as it is. -/
theorem retireIfDone_pool {id : Nat} {j : Jig} (hl : (s.part p).launch = some l) (hj : tget? l.jigs id = some j) (hs : j.source = .pool) (hid : id < l.nextJig) :
    (∃ l', ((retireIfDone p id s).part p).launch = some l' ∧ (j.isDone → tget? l'.jigs id = none) ∧ (¬ j.isDone → tget? l'.jigs id = some j)) ∧
      (retireIfDone p id s).cores = s.cores := by
  by_cases hd : j.isDone
  · have he : retireIfDone p id s = flushArrival p (retireJig p id s) := by
      unfold retireIfDone
      simp only [hl, hj]
      exact if_pos (j.isDone_iff.mpr hd)
    obtain ⟨h1, h2⟩ := retireJig_pool hl hj hs
    obtain ⟨⟨l', h3, h4⟩, h5⟩ := flushArrival_spec h1
    rw [he]
    exact ⟨⟨l', h3, fun _ => (h4 id (Launch.nextJig_ne_of_lt hid)).trans (tget?_tdel_self ..), absurd hd⟩, h5.trans h2⟩
  · have he : retireIfDone p id s = s := by
      unfold retireIfDone
      simp only [hl, hj]
      exact if_neg (mt j.isDone_iff.mp hd)
    rw [he]
    exact ⟨⟨l, hl, fun h => absurd h hd, fun _ => hj⟩, rfl⟩

/-! Retirement (01 R23). -/

theorem State.issuing_of_active (hl : (s.part p).launch = some l) (ha : l.phase = .active) (hs : (s.part p).pstate = .active) : s.issuing p = true := by
  simp [State.issuing, hl, ha, hs]

theorem retirement_idle {u : Task} (hu : s.task? (.access c) = some u) (hp : s.partOf? (clusterOfCore c) = some p) (h : retired (s.core c) u = false) : retirement c s = s := by
  unfold retirement
  simp only [hu, hp]
  exact if_pos (by simp [h])

/-- One task fewer of a jig runs. -/
def Jig.closed (j : Jig) : Jig := { j with open_ := j.open_ - 1 }

/-- The state in which the running task of a core has been counted, and its context freed. -/
def taskRetired (p c : Nat) (u : Task) (s : State) : State := freeRunning c ((keepPcs c u (countRanges p s)).coreCtr c .qleft (queueLeft u.q))

theorem retirement_of_retired {u : Task} (hu : s.task? (.access c) = some u) (hp : s.partOf? (clusterOfCore c) = some p) (hi : s.issuing p = true)
    (h : retired (s.core c) u = true) : retirement c s = retireIfDone p u.jig (modJig p u.jig Jig.closed (taskRetired p c u s)) := by
  unfold retirement
  simp only [hu, hp]
  rw [if_neg (by simp [h, hi])]
  rfl

theorem launches_taskRetired (p c : Nat) (u : Task) (s : State) : (taskRetired p c u s).launches = s.launches := by
  rw [taskRetired, freeRunning, State.launches_modCore, State.launches_coreCtr, keepPcs, State.launches_modCluster, (countRanges_counts p s).launches]

theorem core_taskRetired (p c : Nat) (u : Task) (s : State) :
    ((taskRetired p c u s).core c).running = .free ∧ ((taskRetired p c u s).core c).stagedCtx = (s.core c).stagedCtx := by
  have h : ((keepPcs c u (countRanges p s)).coreCtr c .qleft (queueLeft u.q)).contexts = s.contexts :=
    (State.contexts_coreCtr ..).trans (contexts_countRanges p s)
  rw [taskRetired, freeRunning, State.core_modCore_self]
  exact ⟨Core.running_freed _, (Core.stagedCtx_freed _).trans (Core.stagedCtx_of_contexts (congrFun h c))⟩

/-- The running task of a core retires, and its jig with its last one. -/
theorem retirement_spec {u : Task} {J : Jig} (hu : s.task? (.access c) = some u) (hp : s.partOf? (clusterOfCore c) = some p) (hl : (s.part p).launch = some l)
    (hi : s.issuing p = true) (h : retired (s.core c) u = true) (hj : tget? l.jigs u.jig = some J) (hid : u.jig < l.nextJig) (hs : J.source = .pool) :
    ((retirement c s).core c).running = .free ∧ ((retirement c s).core c).stagedCtx = (s.core c).stagedCtx ∧
      ∃ l', ((retirement c s).part p).launch = some l' ∧ (J.closed.isDone → tget? l'.jigs u.jig = none) ∧ (¬ J.closed.isDone → tget? l'.jigs u.jig = some J.closed) := by
  have h1 : ((modJig p u.jig Jig.closed (taskRetired p c u s)).part p).launch = some (l.changeJig u.jig Jig.closed) :=
    State.launch_modLaunch_self (fun l => l.changeJig u.jig Jig.closed) ((congrFun (launches_taskRetired p c u s) p).trans hl)
  have h2 : tget? (l.changeJig u.jig Jig.closed).jigs u.jig = some J.closed := by rw [Launch.tget?_changeJig, if_pos rfl, hj]; rfl
  obtain ⟨h3, h4⟩ := retireIfDone_pool h1 h2 hs hid
  obtain ⟨h5, h6⟩ := core_taskRetired p c u s
  have hc : (retireIfDone p u.jig (modJig p u.jig Jig.closed (taskRetired p c u s))).core c = (taskRetired p c u s).core c := State.core_congr h4 c
  rw [retirement_of_retired hu hp hi h, hc]
  exact ⟨h5, h6, h3⟩

/-! Parking (01 R26). -/

@[simp] theorem launches_makeUndef (s : State) (lo hi : Nat) : (s.makeUndef lo hi).launches = s.launches := State.launches_congr rfl

@[simp] theorem launches_writePages (pages : List Nat) (off : Nat) (bs : List Byte) (s : State) : (writePages pages off bs s).launches = s.launches :=
  foldl_fixed State.launches _ (by intros; simp) _ _

@[simp] theorem writePages_cores (pages : List Nat) (off : Nat) (bs : List Byte) (s : State) : (writePages pages off bs s).cores = s.cores :=
  foldl_fixed State.cores _ (by intros; simp) _ _

theorem launches_writeImage (pages : List Nat) (t : Task) (x : CoreImage) (s : State) : (writeImage pages t x s).launches = s.launches :=
  (foldl_fixed State.launches _ (by intros; simp) _ _).trans (foldl_fixed State.launches _ (by intros; simp) _ _)

theorem writeImage_cores (pages : List Nat) (t : Task) (x : CoreImage) (s : State) : (writeImage pages t x s).cores = s.cores :=
  (foldl_fixed State.cores _ (by intros; simp) _ _).trans (foldl_fixed State.cores _ (by intros; simp) _ _)

theorem launches_markParked (p c : Nat) (id : W64) (s : State) : (markParked p c id s).launches = s.launches :=
  foldl_fixed State.launches _ (by intros; exact foldl_fixed State.launches _ (by intros; (repeat' split) <;> simp) _ _) _ _

theorem markParked_cores (p c : Nat) (id : W64) (s : State) : (markParked p c id s).cores = s.cores :=
  foldl_fixed State.cores _ (by intros; exact foldl_fixed State.cores _ (by intros; (repeat' split) <;> simp) _ _) _ _

/-- A task that only waits for cells: each of its accesses is a CLD without an answer. -/
structure OnlyWaits (u : Task) : Prop where
  some : u.a.loads ≠ []
  waiting : ∀ x ∈ u.a.loads, x.waiting = true ∧ x.answer = none
  stores : u.a.stores = []

theorem OnlyWaits.waits {u : Task} (h : OnlyWaits u) : ((waitingCld u).isSome && restsOnCld u && u.a.loads.all fun x => !x.waiting || x.answer.isNone) = true := by
  obtain ⟨x, hx⟩ := List.exists_mem_of_ne_nil _ h.some
  have h1 : (waitingCld u).isSome = true := List.find?_isSome.mpr ⟨x, hx, (h.waiting x hx).1⟩
  have h2 : restsOnCld u = true := by
    obtain ⟨y, hy⟩ := Option.isSome_iff_exists.mp h1
    unfold restsOnCld
    simp only [hy, h.stores, List.append_nil, List.all_eq_true]
    exact fun x hx => by simp [(h.waiting x hx).1]
  rw [h1, h2, Bool.and_self, Bool.true_and, List.all_eq_true]
  exact fun x hx => by simp [(h.waiting x hx).2]

/-- The running task of a core may be parked: it waits, its engines are idle, and another task is there (01 R26). -/
structure MayPark (c p : Nat) (u : Task) (s : State) (l : Launch) : Prop where
  part : s.partOf? (clusterOfCore c) = some p
  launch : (s.part p).launch = some l
  issuing : s.issuing p = true
  task : s.task? (.access c) = some u
  enabled : l.lrec.parken = true
  waits : OnlyWaits u
  engines : enginesIdle (s.core c).eng = true
  arm : u.x.arm = none
  brk : u.brk = false
  next : (s.core c).stagedCtx.state = .staged ∨ releasedFor s p c l = true

/-- The state in which the image of a parked task stands in its slot. -/
def imageParked (p c : Nat) (u : Task) (l : Launch) (i : Nat) (s : State) : State :=
  markParked p c u.ident (writeImage (slotPages l (clusterOfCore c) i) u (coreImage s c) s)

theorem launches_imageParked (p c : Nat) (u : Task) (l : Launch) (i : Nat) (s : State) : (imageParked p c u l i s).launches = s.launches :=
  (launches_markParked ..).trans (launches_writeImage ..)

theorem core_imageParked (p c : Nat) (u : Task) (l : Launch) (i : Nat) (s : State) (d : Nat) : (imageParked p c u l i s).core d = s.core d :=
  State.core_congr ((markParked_cores ..).trans (writeImage_cores ..)) d

/-- A parked task in its slot. -/
def parkedTask (c : Nat) (u : Task) (i : Nat) (s : State) : Parked := { core := c, slot := i, image := { task := u, core := coreImage s c }, back := false }

theorem MayPark.park_eq {u : Task} (h : MayPark c p u s l) {i : Nat} (hf : freeSlot l (clusterOfCore c) = some i) (ho : (slotPages l (clusterOfCore c) i).all s.owned = true) :
    park c s = freeRunning c (((imageParked p c u l i s).modLaunch p fun m => { m with parked := m.parked ++ [parkedTask c u i (imageParked p c u l i s)] }).clusCtr (clusterOfCore c) .parks 1) := by
  have hn : ((s.core c).stagedCtx.state == .staged || releasedFor s p c l) = true := by simpa using h.next
  unfold park
  simp only [h.task, h.part, h.launch]
  rw [if_neg (by simp only [h.issuing, h.enabled, h.waits.waits, h.engines, h.arm, h.brk, hn]; decide), hf]
  simp only [Option.filter, ho, if_true]
  rfl

/-- A waiting task is parked: its context is free, and its image stands in the slot. -/
theorem MayPark.park_spec {u : Task} (h : MayPark c p u s l) {i : Nat} (hf : freeSlot l (clusterOfCore c) = some i)
    (ho : (slotPages l (clusterOfCore c) i).all s.owned = true) :
    ((park c s).core c).running = .free ∧ ((park c s).core c).stagedCtx = (s.core c).stagedCtx ∧
      ((park c s).part p).launch = some { l with parked := l.parked ++ [parkedTask c u i (imageParked p c u l i s)] } := by
  rw [h.park_eq hf ho, freeRunning, State.core_modCore_self, State.core_congr (State.clusCtr_cores ..), State.core_congr (State.modLaunch_cores ..), core_imageParked]
  refine ⟨Core.running_freed _, Core.stagedCtx_freed _, ?_⟩
  have hl : ((imageParked p c u l i s).part p).launch = some l := (congrFun (launches_imageParked p c u l i s) p).trans h.launch
  rw [State.part_congr (State.modCore_parts ..), State.part_congr (State.clusCtr_parts ..), State.launch_modLaunch_self _ hl]

end Sys2Proof.Machine
end

section
open Sys2Proof Sys2Proof.Machine

namespace Sys2Proof.Machine.TaskEvents

open Sys2Proof.Machine.FrameEvents

variable {p c : Nat} {s : State} {l : Launch}

theorem selection_idle_of_nil (h : MaySelect c p s l) (hf : (s.core c).stagedCtx.state = .free) (hc : claimBack s p l c = none) (hw : wokenTask s p l c = none)
    (hn : candidates s p c l = []) : selection c s = s := by
  rw [h.selection_of_queues hf hc hw, hn]
  rfl

/-- The best candidate's task is on its way with its jig's record, its entry's selectors and its iteration's indices (11 R316). -/
theorem selects (h : MaySelect c p s l) (hf : (s.core c).stagedCtx.state = .free) (hc : claimBack s p l c = none) (hw : wokenTask s p l c = none)
    {b : Candidate} {id : Nat} (hb : best s (s.cluster (clusterOfCore c)).lastq (candidates s p c l) = some b) (hj : b.entry.jig = some id)
    (hn : b.jig.next + 1 ≠ b.jig.count) : Fires (.selection c) s fun t =>
      ∃ z, (t.core c).stagedCtx = { state := .loading false, task := z, saved := none } ∧ (t.core c).running = (s.core c).running ∧
        (t.cluster (clusterOfCore c)).lastq = b.q ∧ z.jig = id ∧ z.sels = b.entry.sel ∧ z.iter = [b.jig.first + b.jig.next] ∧
        z.ident = taskIdent p (s.seqOf p) (clusterOfCore c) (s.cluster (clusterOfCore c)).seq ∧
        z.a.pc = b.jig.jrec.aentry ∧ z.x.pc = b.jig.jrec.xentry ∧ z.window = l.windows.getD b.jig.jrec.window [] ∧ z.lineage = b.jig.lineage ∧ z.jarg = b.jig.jrec.arg ∧
        (∀ i, i < 6 → tget 0#64 z.regs i = BitVec.ofNat 64 ((indices b.jig.jrec (b.jig.first + b.jig.next)).getD i 0)) ∧
        (∃ l', (t.part p).launch = some l' ∧ ∀ J, tget? l.jigs id = some J → tget? l'.jigs id = some { J with next := J.next + 1, open_ := J.open_ + 1 }) := by
  obtain ⟨h1, h2, h3, h4⟩ := h.selection_of_best hf hc hw hb hj hn
  refine fires rfl ⟨_, h1, h2, h3, rfl, rfl, rfl, ?_, rfl, rfl, rfl, rfl, rfl, fun i hi => regs_newTask l (taskIdent p l.lseq (clusterOfCore c) (s.cluster (clusterOfCore c)).seq) id b.jig _ hi, _, h4, fun J hJ => ?_⟩
  · rw [State.seqOf_of_launch h.launch]
    rfl
  · rw [Launch.tget?_changeJig, if_pos rfl, hJ]
    rfl

/-- A loaded task is STAGED; nothing else changes (01 R22). -/
theorem stages (hl : (s.part p).launch = some l) (h : (s.core c).stagedCtx.state = .loading false) : Fires (.loadingComplete c) s fun t =>
    (t.core c).stagedCtx = { (s.core c).stagedCtx with state := .staged } ∧ (t.core c).running = (s.core c).running ∧ OnlyLaunch p s { t with cores := s.cores } l := by
  refine LaunchEvents.fires_of_eq rfl (loadingComplete_of_new h) ?_
  rw [State.core_modCore_self]
  exact ⟨Core.stagedCtx_setCtx_staged .., Core.running_setCtx_staged .., hl, rfl, rfl, rfl, fun _ _ => rfl⟩

/-- A task that comes back is STAGED with what its park slot holds, and the slot is free (01 R28). -/
theorem restores (hp : s.partOf? (clusterOfCore c) = some p) (hl : (s.part p).launch = some l) (h : (s.core c).stagedCtx.state = .loading true) {x : Parked}
    (hx : l.parked.find? (fun x => x.core == c && x.image.task.ident == (s.core c).stagedCtx.task.ident) = some x)
    (ho : (slotPages l (clusterOfCore c) x.slot).all s.owned = true) (he : imageError (slotPages l (clusterOfCore c) x.slot) s = none) :
    let pages := slotPages l (clusterOfCore c) x.slot
    Fires (.loadingComplete c) s fun t => t.mem = s.mem ∧
      (t.core c).stagedCtx = { state := .staged, task := readControl (readPages pages 0 0x208 s) (s.core c).stagedCtx.task, saved := some (readImage pages x.image.core s) } ∧
      ∃ l', (t.part p).launch = some l' ∧ l'.parked = l.parked.filter (· ≠ x) := by
  refine LaunchEvents.fires_of_eq rfl (loadingComplete_of_parked hp hl h hx ho he) ⟨?_, ?_, { l with parked := l.parked.filter (· ≠ x) }, ?_, rfl⟩
  · simp
  · rw [State.core_congr (State.clusCtr_cores ..), State.core_congr (State.modLaunch_cores ..), State.core_modCore_self]
    exact Core.stagedCtx_setCtx_staged ..
  · rw [State.part_congr (State.clusCtr_parts ..)]
    exact State.launch_modLaunch_self (fun l => { l with parked := l.parked.filter (· ≠ x) }) hl

/-- A new task runs: the other context holds what ran before, and what another launch has left in the core is 0 (01 R22, R24). -/
theorem begins (h : MaySwitch c p s) (hs : (s.core c).stagedCtx.saved = none) : Fires (.contextSwitch c) s fun t =>
    let k := s.core c
    t.task? (.access c) = some k.stagedCtx.task ∧ (t.core c).stagedCtx = k.running ∧ (t.core c).vec.vcfg = 0x400#64 ∧ (t.core c).vec.fsr = 0#64 ∧
      (t.core c).eng.bk.run = false ∧ (t.core c).eng.dn.run = false ∧ (t.core c).dmr = k.dmr ∧ t.parts = s.parts ∧
      ((∀ r ∈ s.attr.undef, lpBase ≤ r.lo) → ∀ d, d < gbufBase c ∨ gbufBase (c + 1) ≤ d → t.byte d = s.byte d) ∧
      (k.lastLaunch = some (p, s.seqOf p) → t.mem = s.mem ∧ (t.core c).vec.v = k.vec.v ∧ (t.core c).vec.m = k.vec.m ∧ (t.core c).vec.t = k.vec.t ∧ (t.core c).vec.ps = k.vec.ps) ∧
      (k.lastLaunch ≠ some (p, s.seqOf p) → (t.core c).vec = VecState.reset ∧ (t.core c).eng = .reset ∧
        ((∀ r ∈ s.attr.undef, lpBase ≤ r.lo) → ∀ d, gbufBase c ≤ d → d < gbufBase (c + 1) → t.byte d = 0#8)) := by
  let k := s.core c
  let mine := (p, s.seqOf p)
  have hc : c < 4608 := by
    have := cluster_lt_of_partOf? h.part
    unfold clusterOfCore at this
    omega
  have hrun (u : State) : (u.setCore c (k.begun mine k.stagedCtx.task)).task? (.access c) = some k.stagedCtx.task :=
    task?_of_running rfl ((congrArg Core.running (State.core_setCore_self ..)).trans (Core.running_entered ..))
  have hstaged : (k.begun mine k.stagedCtx.task).stagedCtx = k.running := Core.stagedCtx_entered ..
  have hdmr : (k.begun mine k.stagedCtx.task).dmr = k.dmr := Core.dmr_entered ..
  refine LaunchEvents.fires_of_eq rfl (h.begins hs) ?_
  rw [State.core_setCore_self]
  by_cases hm : k.lastLaunch = some mine
  · have hb : (k.lastLaunch == some mine) = true := beq_iff_eq.mpr hm
    rw [if_pos hb]
    have he : k.begun mine k.stagedCtx.task = { k.entered mine k.stagedCtx.task with vec := { k.vec with vcfg := vcfgReset, fsr := 0#64 }, eng := k.eng.stopped } := by
      rw [Core.begun, if_pos hb, if_pos hb]
    refine ⟨hrun s, hstaged, rfl, rfl, ?_, ?_, hdmr, rfl, fun _ _ _ => rfl, fun _ => ?_, fun hne => absurd hm hne⟩
    · rw [he]; rfl
    · rw [he]; rfl
    · rw [he]; exact ⟨rfl, rfl, rfl, rfl, rfl⟩
  · have hb : ¬ (k.lastLaunch == some mine) = true := fun hb => hm (beq_iff_eq.mp hb)
    rw [if_neg hb]
    have he : k.begun mine k.stagedCtx.task = { k.entered mine k.stagedCtx.task with vec := VecState.reset, eng := .reset } := by
      rw [Core.begun, if_neg hb, if_neg hb]
      rfl
    refine ⟨hrun _, hstaged, rfl, rfl, ?_, ?_, hdmr, rfl, fun hu d hd => ?_, fun hm' => absurd hm' hm, fun _ => ⟨?_, ?_, fun hu d h1 h2 => ?_⟩⟩
    · rw [he]; rfl
    · rw [he]; rfl
    · exact (byte_zeroGather hu hc d).trans (if_neg (by omega))
    · rw [he]
    · rw [he]
    · exact (byte_zeroGather hu hc d).trans (if_pos ⟨h1, h2⟩)

/-- A task that comes back runs with the vector state and the engines of its image (01 R28; 14 R401). -/
theorem resumes (h : MaySwitch c p s) {x : CoreImage} (hs : (s.core c).stagedCtx.saved = some x) (hn : (s.core c).stagedCtx.task.a.loads = []) :
    Fires (.contextSwitch c) s fun t =>
      t.task? (.access c) = some (scoreboardTask (s.core c).stagedCtx.task) ∧ (t.core c).vec = x.vec ∧ (t.core c).eng = x.eng := by
  have hk := h.resumes_of_no_loads hs hn
  exact fires rfl ⟨task?_of_running rfl ((congrArg Core.running hk).trans (Core.running_entered ..)), congrArg Core.vec hk, congrArg Core.eng hk⟩

/-- A task that is done retires; its jig is closed by one task, and gone with its last (01 R23; 11 R319). -/
theorem retires {u : Task} {J : Jig} (hu : s.task? (.access c) = some u) (hp : s.partOf? (clusterOfCore c) = some p) (hl : (s.part p).launch = some l)
    (hi : s.issuing p = true) (h : retired (s.core c) u = true) (hj : tget? l.jigs u.jig = some J) (hid : u.jig < l.nextJig) (hs : J.source = .pool) :
    Fires (.retirement c) s fun t => t.task? (.access c) = none ∧ (t.core c).running = .free ∧ (t.core c).stagedCtx = (s.core c).stagedCtx ∧
      ∃ l', (t.part p).launch = some l' ∧ tget? l'.jigs u.jig =
        if J.next = J.count ∧ J.open_ - 1 = 0 ∧ J.claims = [] then none else some { J with open_ := J.open_ - 1 } := by
  obtain ⟨hrun, hstaged, l', hl', hdone, hopen⟩ := retirement_spec hu hp hl hi h hj hid hs
  refine fires rfl ⟨?_, hrun, hstaged, l', hl', ?_⟩
  · simp only [State.task?, hrun]
    rfl
  · split
    · rename_i hd
      exact hdone hd
    · rename_i hd
      exact hopen hd

/-- A waiting task is parked in the slot (01 R26). -/
theorem parks {u : Task} (h : MayPark c p u s l) {i : Nat} (hf : freeSlot l (clusterOfCore c) = some i) (ho : (slotPages l (clusterOfCore c) i).all s.owned = true) :
    Fires (.park c) s fun t => (t.core c).running = .free ∧ (t.core c).stagedCtx = (s.core c).stagedCtx ∧
      ∃ l' x, (t.part p).launch = some l' ∧ l'.parked = l.parked ++ [x] ∧ x.core = c ∧ x.slot = i ∧
        x.image.task = u ∧ x.image.core.vec = (s.core c).vec ∧ x.image.core.eng = (s.core c).eng ∧ x.back = false := by
  obtain ⟨hrun, hstaged, hl⟩ := h.park_spec hf ho
  have hk := core_imageParked p c u l i s c
  exact fires rfl ⟨hrun, hstaged, _, _, hl, rfl, rfl, rfl, rfl, congrArg Core.vec hk, congrArg Core.eng hk, rfl⟩

end Sys2Proof.Machine.TaskEvents

open Sys2Proof.Machine.FrameEvents Sys2Proof.Machine.TaskEvents

/-- Settles O51, event by event, each cut at what enables it: the staged context, the queues and the woken tasks for a selection, the image for a switch, and what the running task still waits for. -/
theorem taskEvents : Obligations.TaskEvents := by
  unfold Obligations.TaskEvents
  intro c p s l g k a cs _ hp hl ha hs
  have hsel : MaySelect c p s l := ⟨hp, hl, ha, hs⟩
  have hi : s.issuing p = true := State.issuing_of_active hl ha hs
  refine ⟨fun hf => idle rfl (hsel.idle hf), fun hf hc hw => ⟨fun hn => idle rfl (selection_idle_of_nil hsel hf hc hw hn), fun b id hb hj => ?best⟩,
    fun x hf hc hw hn => fires rfl (hsel.selection_of_woken hf hc hw hn), stages hl, fun x h hx ho he => restores hp hl h hx ho he,
    fun hf => idle rfl (contextSwitch_idle hf), fun hf hg hn => begins ⟨hp, hf, hg⟩ hn, fun x hf hg hx hn => resumes ⟨hp, hf, hg⟩ hx hn,
    fun u hu => ⟨fun h => idle rfl (retirement_idle hu hp h), fun h J hj hid _ hJ => retires hu hp hl hi h hj hid hJ, ?park⟩⟩
  case best =>
    obtain ⟨hm, hmax⟩ := best_spec hb
    exact ⟨hm, hmax, selects hsel hf hc hw hb hj⟩
  case park =>
    intro i hpk hsome hwait hst heng harm hbrk hnext hf ho
    exact parks ⟨hp, hl, hi, hu, hpk, ⟨hsome, hwait, hst⟩, heng, harm, hbrk, hnext⟩ hf ho

end

section
namespace Sys2Proof

/-! Operand fields and what they name (02 R43, R46, R49, R53). -/

theorem Guard.gs_gp_of_ok : ∀ (gs : BitVec 1) (gp : BitVec 4), ∀ g ∈ (Guard.ofFields gs gp).toOption, g.gs = gs ∧ g.gp = gp := by decide

theorem Guard.ofFields_gs_gp (g : Guard) : Guard.ofFields g.gs g.gp = .ok g := by
  cases g with
  | always => rfl
  | onTrue p => revert p; decide
  | onFalse p => revert p; decide

theorem SDst.field_of_ok : ∀ f : BitVec 6, ∀ d ∈ (SDst.ofField f).toOption, d.field = f := by decide

@[simp] theorem SDst.ofField_field (d : SDst) : SDst.ofField d.field = .ok d := by
  cases d with
  | s n => revert n; decide
  | sq n => revert n; decide
  | zr | lr | sp => rfl

theorem VReg.field_of_ok : ∀ f : BitVec 5, ∀ d ∈ (VReg.ofField f).toOption, d.field = f := by decide

@[simp] theorem VReg.ofField_field (r : VReg) : VReg.ofField r.field = .ok r := by
  cases r with
  | v n => revert n; decide
  | vq n => revert n; decide
  | vqs => rfl

theorem pred_of_ok : ∀ f : BitVec 4, ∀ p ∈ (predOfField f).toOption, BitVec.ofNat 4 p.val = f := by decide
@[simp] theorem predOfField_ofNat : ∀ p : Pred, predOfField (BitVec.ofNat 4 p.val) = .ok p := by decide

theorem mreg_of_ok : ∀ f : BitVec 5, ∀ m ∈ (mregOfField f).toOption, BitVec.ofNat 5 m.val = f := by decide
@[simp] theorem mregOfField_ofNat : ∀ m : MReg, mregOfField (BitVec.ofNat 5 m.val) = .ok m := by decide

theorem tile_of_ok : ∀ f : BitVec 5, ∀ t ∈ (tileOfField f).toOption, BitVec.ofNat 5 t.val = f := by decide
@[simp] theorem tileOfField_ofNat : ∀ t : Tile, tileOfField (BitVec.ofNat 5 t.val) = .ok t := by decide

theorem latch_of_ok : ∀ f : BitVec 5, ∀ l ∈ (latchOfField f).toOption, BitVec.ofNat 5 l.val = f := by decide
@[simp] theorem latchOfField_ofNat : ∀ l : Latch, latchOfField (BitVec.ofNat 5 l.val) = .ok l := by decide

@[simp] theorem MemOrder.field_ofField : ∀ f : BitVec 2, (MemOrder.ofField f).field = f := by decide
@[simp] theorem MemOrder.ofField_field (o : MemOrder) : MemOrder.ofField o.field = o := by cases o <;> rfl

@[simp] theorem Scope.field_ofField : ∀ f : BitVec 2, (Scope.ofField f).field = f := by decide
@[simp] theorem Scope.ofField_field (c : Scope) : Scope.ofField c.field = c := by cases c <;> rfl

@[simp] theorem ofBool_beq_one : ∀ b : BitVec 1, BitVec.ofBool (b == 1#1) = b := by decide
@[simp] theorem beq_one_ofBool : ∀ b : Bool, (BitVec.ofBool b == 1#1) = b := by decide

/-- A scalar source with another literal word in place of its own. -/
def Scalar.withLit (l : W32) : Scalar → Scalar
  | .lit _ => .lit l
  | x => x

@[simp] theorem Scalar.ofField_field (x : Scalar) (l : W32) : Scalar.ofField x.field l = x.withLit l := by
  cases x with
  | s n =>
    have h : n.val % 64 = n.val := Nat.mod_eq_of_lt (by omega)
    simp [Scalar.field, Scalar.ofField, Scalar.withLit, h]
  | sq n => fin_cases n <;> rfl
  | zr | lr | sp | lit => rfl

@[simp] theorem Scalar.field_ofField (f : BitVec 6) (l : W32) : (Scalar.ofField f l).field = f := by
  have h : ∀ f : BitVec 6, (Scalar.ofField f 0#32).field = f := by decide
  rw [← h f, Scalar.ofField_field]
  cases Scalar.ofField f 0#32 <;> rfl

@[simp] theorem Scalar.withLit_ofField (f : BitVec 6) (l : W32) : (Scalar.ofField f l).withLit l = Scalar.ofField f l := by
  conv_rhs => rw [← Scalar.field_ofField f l, Scalar.ofField_field]

theorem unused_eq_ok {n : Nat} {f : BitVec n} {u : Unit} : unused f = .ok u ↔ f = 0#n := by
  unfold unused; split <;> simp_all

@[simp] theorem unused_zero (n : Nat) : unused 0#n = .ok () := unused_eq_ok.2 rfl

end Sys2Proof
end

section
namespace Sys2Proof

/-! What decodes spells its instruction (02 R52, R58, R61). -/

/-- Everything that a computation answers has the property. -/
def Yields {α : Type} (x : Except DecodeError α) (P : α → Prop) : Prop := ∀ a, x = .ok a → P a

theorem yields_bind {α β : Type} {x : Except DecodeError α} {f : α → Except DecodeError β} {P : β → Prop} :
    Yields (x >>= f) P ↔ Yields x fun a => Yields (f a) P := by
  cases x <;> simp [Yields, bind, Except.bind]

theorem yields_pure {α : Type} {a : α} {P : α → Prop} : Yields (pure a) P ↔ P a := by simp [Yields, pure, Except.pure]

theorem yields_error {α : Type} {e : DecodeError} {P : α → Prop} : Yields (.error e) P := nofun

/-- A field reader answers only what stands for the field. -/
theorem yields_iff_of_field {α β : Type} {x : Except DecodeError α} {field : α → β} {f : β} (hf : ∀ a ∈ x.toOption, field a = f)
    (hx : ∀ a, field a = f → x = .ok a) {P : α → Prop} : Yields x P ↔ ∀ a, field a = f → P a :=
  ⟨fun h a ha => h a (hx a ha), fun h a ha => h a (hf a (by rw [ha]; rfl))⟩

theorem yields_sdst {f : BitVec 6} {P : SDst → Prop} : Yields (SDst.ofField f) P ↔ ∀ d : SDst, d.field = f → P d :=
  yields_iff_of_field (SDst.field_of_ok f) fun d hd => hd ▸ d.ofField_field

theorem yields_vreg {f : BitVec 5} {P : VReg → Prop} : Yields (VReg.ofField f) P ↔ ∀ r : VReg, r.field = f → P r :=
  yields_iff_of_field (VReg.field_of_ok f) fun r hr => hr ▸ r.ofField_field

theorem yields_pred {f : BitVec 4} {P : Pred → Prop} : Yields (predOfField f) P ↔ ∀ p : Pred, BitVec.ofNat 4 p.val = f → P p :=
  yields_iff_of_field (pred_of_ok f) fun p hp => hp ▸ predOfField_ofNat p

theorem yields_mreg {f : BitVec 5} {P : MReg → Prop} : Yields (mregOfField f) P ↔ ∀ m : MReg, BitVec.ofNat 5 m.val = f → P m :=
  yields_iff_of_field (mreg_of_ok f) fun m hm => hm ▸ mregOfField_ofNat m

theorem yields_tile {f : BitVec 5} {P : Tile → Prop} : Yields (tileOfField f) P ↔ ∀ t : Tile, BitVec.ofNat 5 t.val = f → P t :=
  yields_iff_of_field (tile_of_ok f) fun t ht => ht ▸ tileOfField_ofNat t

theorem yields_latch {f : BitVec 5} {P : Latch → Prop} : Yields (latchOfField f) P ↔ ∀ l : Latch, BitVec.ofNat 5 l.val = f → P l :=
  yields_iff_of_field (latch_of_ok f) fun l hl => hl ▸ latchOfField_ofNat l

theorem yields_unused {n : Nat} {f : BitVec n} {P : Unit → Prop} : Yields (unused f) P ↔ (f = 0#n → P ()) :=
  ⟨fun h hf => h () (unused_eq_ok.2 hf), fun h _ hu => h (unused_eq_ok.1 hu)⟩

theorem yields_unguarded {g : Guard} {P : Unit → Prop} : Yields (unguarded g) P ↔ (g = .always → P ()) := by
  unfold unguarded
  split
  · exact ⟨fun h _ => h () rfl, fun h _ _ => h ‹_›⟩
  · exact ⟨fun _ h => absurd h ‹_›, fun _ => yields_error⟩

/-- A field with another literal word in place of its own. -/
@[simp] def Role.withLit (l : W32) : Role → Role
  | .src x => .src (x.withLit l)
  | r => r

/-- An instruction is written with this guard, this major and these fields, and the literal that a field names is this word. -/
structure Spells (lit : W32) (g : Guard) (m : BitVec 6) (f : Form) (i : Instr) : Prop where
  guard : i.guard = g
  major : i.major = some m
  form : i.form = some f
  lits : i.roles.map (Role.withLit lit) = i.roles

theorem Spells.of_form {lit : W32} {g : Guard} {m : BitVec 6} {f f' : Form} {i : Instr} (hg : i.guard = g) (hm : i.major = some m)
    (hi : i.form = some f') (hf : f' = f) (hl : i.roles.map (Role.withLit lit) = i.roles) : Spells lit g m f i :=
  ⟨hg, hm, hf ▸ hi, hl⟩

/-- A minor that is matched by its number. -/
theorem eq_ofNat_of_toNat {w n : Nat} {op : BitVec w} (h : op.toNat = n) : op = BitVec.ofNat w n := by rw [← h]; simp

/-- The instruction that a word's fields are read as is written with those fields. -/
theorem ofForm_spells (g : Guard) (m : Nat) (f : Form) (lit : W32) : Yields (Instr.ofForm g m f lit) (Spells lit g (BitVec.ofNat 6 m) f) := by
  -- by format; a reserved field is 0
  cases f <;> simp only [Instr.ofForm, yields_bind, yields_unused]
  any_goals rintro rfl
  -- by major
  all_goals split
  any_goals exact yields_error
  all_goals simp only [ofMajor00, ofMajor01, ofMajor02, ofMajor03, ofMajor04, ofMajor05, ofMajor06, ofMajor07, ofMajor08, ofMajor09, ofMajor0A, ofMajor0B,
    ofMajor0C, ofMajor0D, ofMajor10, ofMajor11, ofMajor12, ofMajor13, ofMajor14, ofMajor15, ofMajor18, ofMajor19, ofMajor1C, ofMajor1D,
    ofMajor20, ofMajor21, ofMajor22, ofMajor23, ofMajor24, ofMajor25, ofMajor26, ofMajor27, ofMajor28, ofMajor29, ofMajor2A, ofMajor2B,
    ofMajor2C, ofMajor2D, ofMajor2E, ofMajor2F, ofMajor30, ofMajor31, ofMajor32, ofMajor33, ofMajor34, ofMajor35, ofMajor36, ofMajor38,
    ofMajor39, ofMajor3C, ofMajor3F]
  -- by minor, in the majors that have one
  any_goals
    split <;> rename_i h
    any_goals exact yields_error
    all_goals cases eq_ofNat_of_toNat h
  -- by operands
  all_goals
    simp only [yields_bind, yields_pure, yields_sdst, yields_vreg, yields_pred, yields_mreg, yields_tile, yields_latch, yields_unused, yields_unguarded]
    intros
    subst_vars
    exact .of_form rfl rfl rfl (by simp only [Scalar.field_ofField, MemOrder.field_ofField, Scope.field_ofField, ofBool_beq_one])
      (by unfold Instr.roles; simp)

end Sys2Proof
end

section
namespace Sys2Proof

/-! The fields of an instruction are read as the instruction (02 R41, R42, R46-R53). -/

/-- The computation answers, and its answer has the property. -/
def Answers {α : Type} (x : Except DecodeError α) (P : α → Prop) : Prop := ∃ a, x = .ok a ∧ P a

theorem answers_pure {α : Type} {a : α} {P : α → Prop} : Answers (pure a) P ↔ P a := by simp [Answers, pure, Except.pure]

theorem answers_ok_bind {α β : Type} {a : α} {f : α → Except DecodeError β} {P : β → Prop} : Answers (.ok a >>= f) P ↔ Answers (f a) P := by
  simp [Answers, bind, Except.bind]

theorem unguarded_always : unguarded .always = .ok () := rfl

/-- An instruction's fields read with a literal word: its literal is that word, and it is the instruction itself if that was its literal. -/
def ReadWith (l : W32) (i j : Instr) : Prop := j.roles = i.roles.map (Role.withLit l) ∧ (i.roles.map (Role.withLit l) = i.roles → j = i)

/-- Majors 0x00 to 0x1D: the scalar words of both streams and the words of the access stream. -/
theorem ofForm_form_of_lt {i : Instr} {m : BitVec 6} {f : Form} (hm : i.major = some m) (hf : i.form = some f) (hlt : m.toNat < 32) (l : W32) :
    Answers (Instr.ofForm i.guard m.toNat f l) (ReadWith l i) := by
  cases i <;> cases hm <;> cases hf
  any_goals contradiction
  all_goals
    unfold Instr.guard
    simp only [Instr.ofForm, ofMajor00, ofMajor01, ofMajor02, ofMajor03, ofMajor04, ofMajor05, ofMajor06, ofMajor07, ofMajor08, ofMajor09, ofMajor0A,
      ofMajor0B, ofMajor0C, ofMajor0D, ofMajor10, ofMajor11, ofMajor12, ofMajor13, ofMajor14, ofMajor15, ofMajor18, ofMajor19, ofMajor1C, ofMajor1D,
      BitVec.reduceToNat, answers_ok_bind, answers_pure, Scalar.ofField_field, SDst.ofField_field, VReg.ofField_field, predOfField_ofNat,
      MemOrder.ofField_field, Scope.ofField_field, beq_one_ofBool, unused_zero]
    refine ⟨rfl, fun h => ?_⟩
    unfold Instr.roles at h
    simp only [List.map_cons, List.map_nil, List.cons.injEq, Role.withLit, Role.src.injEq, true_and, and_true] at h
    simp only [h]

/-- Majors 0x20 to 0x3F: vector words, commands to engines and system words. -/
theorem ofForm_form_of_ge {i : Instr} {m : BitVec 6} {f : Form} (hm : i.major = some m) (hf : i.form = some f) (hlt : 32 ≤ m.toNat) (l : W32) :
    Answers (Instr.ofForm i.guard m.toNat f l) (ReadWith l i) := by
  cases i <;> cases hm <;> cases hf
  any_goals contradiction
  all_goals
    unfold Instr.guard
    simp only [Instr.ofForm, ofMajor20, ofMajor21, ofMajor22, ofMajor23, ofMajor24, ofMajor25, ofMajor26, ofMajor27, ofMajor28, ofMajor29, ofMajor2A,
      ofMajor2B, ofMajor2C, ofMajor2D, ofMajor2E, ofMajor2F, ofMajor30, ofMajor31, ofMajor32, ofMajor33, ofMajor34, ofMajor35, ofMajor36, ofMajor38,
      ofMajor39, ofMajor3C, ofMajor3F, BitVec.reduceToNat, answers_ok_bind, answers_pure, Scalar.ofField_field, SDst.ofField_field,
      VReg.ofField_field, mregOfField_ofNat, tileOfField_ofNat, latchOfField_ofNat, unused_zero, unguarded_always]
    refine ⟨rfl, fun h => ?_⟩
    unfold Instr.roles at h
    simp only [List.map_cons, List.map_nil, List.cons.injEq, Role.withLit, Role.src.injEq, true_and, and_true] at h
    simp only [h]

theorem ofForm_form {i : Instr} {m : BitVec 6} {f : Form} (hm : i.major = some m) (hf : i.form = some f) (l : W32) :
    Answers (Instr.ofForm i.guard m.toNat f l) (ReadWith l i) :=
  (Nat.lt_or_ge m.toNat 32).elim (fun h => ofForm_form_of_lt hm hf h l) fun h => ofForm_form_of_ge hm hf h l

end Sys2Proof
end

section
namespace Sys2Proof

/-! Words and their bytes (00 R11; 02 R41, R42, R52). -/

theorem Form.ofBits_bits (f : Form) : Form.ofBits f.format f.bits = f := by
  cases f <;> simp only [Form.format, Form.bits, Form.ofBits] <;> congr 1 <;> (ext i hi; grind)

theorem Form.bits_ofBits (f : Format) (w : BitVec 21) : (Form.ofBits f w).bits = w := by
  cases f <;> simp only [Form.bits, Form.ofBits] <;> (ext i hi; grind)

theorem Form.format_ofBits (f : Format) (w : BitVec 21) : (Form.ofBits f w).format = f := by cases f <;> rfl

theorem Instr.isWord_eq_isSome (i : Instr) : i.isWord = i.major.isSome := by cases i <;> rfl

theorem Instr.format_form (i : Instr) : i.form.map Form.format = i.major.bind fun m => formatOf m.toNat := by cases i <;> rfl

section
variable (gs : BitVec 1) (gp : BitVec 4) (m : BitVec 6) (b : BitVec 21)

theorem extract_gs : (gs ++ gp ++ m ++ b).extractLsb' 31 1 = gs := by ext i hi; grind
theorem extract_gp : (gs ++ gp ++ m ++ b).extractLsb' 27 4 = gp := by ext i hi; grind
theorem extract_major : (gs ++ gp ++ m ++ b).extractLsb' 21 6 = m := by ext i hi; grind
theorem extract_bits : (gs ++ gp ++ m ++ b).extractLsb' 0 21 = b := by ext i hi; grind

end

theorem word_eq_append (w : W32) : w.extractLsb' 31 1 ++ w.extractLsb' 27 4 ++ w.extractLsb' 21 6 ++ w.extractLsb' 0 21 = w := by
  ext i hi; grind

@[simp] theorem takeWord_bytesOfWord (w : W32) (r : List Byte) : takeWord (bytesOfWord w ++ r) = some (w, r) := by
  have h : wordOfBytes (w.extractLsb' 0 8) (w.extractLsb' 8 8) (w.extractLsb' 16 8) (w.extractLsb' 24 8) = w := by
    unfold wordOfBytes
    ext i hi; grind
  simp [bytesOfWord, takeWord, h]

theorem bytesOfWord_of_takeWord {bs r : List Byte} {w : W32} (h : takeWord bs = some (w, r)) : bytesOfWord w ++ r = bs := by
  match bs with
  | b0 :: b1 :: b2 :: b3 :: r' =>
    simp only [takeWord, Option.some.injEq, Prod.mk.injEq] at h
    obtain ⟨rfl, rfl⟩ := h
    simp only [bytesOfWord, wordOfBytes, List.cons_append, List.nil_append, List.cons.injEq, and_true]
    refine ⟨?_, ?_, ?_, ?_⟩ <;> (ext i hi; grind)
  | [] | [_] | [_, _] | [_, _, _] => simp [takeWord] at h

end Sys2Proof
end

section
namespace Sys2Proof

/-! The encoder and the decoder of one word (02 R41, R52, R61). -/

/-- A word instruction has a major and fields. -/
theorem Instr.exists_form {i : Instr} (h : i.isWord = true) : ∃ m f, i.major = some m ∧ i.form = some f ∧ formatOf m.toNat = some f.format := by
  rw [i.isWord_eq_isSome, Option.isSome_iff_exists] at h
  obtain ⟨m, hm⟩ := h
  have hf := i.format_form
  cases h : i.form with
  | none => revert h hm; cases i <;> nofun
  | some f => exact ⟨m, f, hm, rfl, by simpa [hm, h] using hf.symm⟩

theorem encodeWord_eq {i : Instr} {m : BitVec 6} {f : Form} (hm : i.major = some m) (hf : i.form = some f) :
    encodeWord i = i.guard.gs ++ i.guard.gp ++ m ++ f.bits := by simp [encodeWord, hm, hf]

/-- A word that is neither 0 nor all ones is read as its guard, its major and the fields of the major's format say. -/
theorem decodeFields_eq {w : W32} (h0 : w ≠ 0#32) (h1 : w ≠ 0xFFFFFFFF#32) {g : Guard} {f : Format}
    (hg : Guard.ofFields (w.extractLsb' 31 1) (w.extractLsb' 27 4) = .ok g) (hf : formatOf (w.extractLsb' 21 6).toNat = some f) (l : W32) :
    decodeFields w l = Instr.ofForm g (w.extractLsb' 21 6).toNat (Form.ofBits f (w.extractLsb' 0 21)) l := by
  simp only [decodeFields, h0, h1, decide_false, Bool.or_self, Bool.false_eq_true, if_false, hg, hf, bind, Except.bind]

theorem decodeFields_ne_zero {w l : W32} {i : Instr} (h : decodeFields w l = .ok i) : w ≠ 0#32 ∧ w ≠ 0xFFFFFFFF#32 := by
  constructor <;> rintro rfl <;> simp [decodeFields] at h

/-- A word that decodes has a guard, and a major with a format. -/
theorem guard_format_of_decodeFields {w l : W32} {i : Instr} (h : decodeFields w l = .ok i) :
    (∃ g, Guard.ofFields (w.extractLsb' 31 1) (w.extractLsb' 27 4) = .ok g) ∧ ∃ f, formatOf (w.extractLsb' 21 6).toNat = some f := by
  obtain ⟨h0, h1⟩ := decodeFields_ne_zero h
  cases hg : Guard.ofFields (w.extractLsb' 31 1) (w.extractLsb' 27 4) with
  | error e => simp [decodeFields, h0, h1, hg, bind, Except.bind] at h
  | ok g =>
    cases hf : formatOf (w.extractLsb' 21 6).toNat with
    | none => simp only [decodeFields, h0, h1, decide_false, Bool.or_self, Bool.false_eq_true, if_false, hg, hf, bind, Except.bind, reduceCtorEq] at h
    | some f => exact ⟨⟨g, rfl⟩, f, rfl⟩

/-- The fields that an encoded word is cut into are those of its instruction. -/
theorem decodeFields_encodeWord_eq {i : Instr} {m : BitVec 6} {f : Form} (hm : i.major = some m) (hf : i.form = some f)
    (hfmt : formatOf m.toNat = some f.format) (h0 : encodeWord i ≠ 0#32) (h1 : encodeWord i ≠ 0xFFFFFFFF#32) (l : W32) :
    decodeFields (encodeWord i) l = Instr.ofForm i.guard m.toNat f l := by
  have he := encodeWord_eq hm hf
  have hmaj : (encodeWord i).extractLsb' 21 6 = m := by rw [he, extract_major]
  rw [decodeFields_eq h0 h1 (by rw [he, extract_gs, extract_gp]; exact i.guard.ofFields_gs_gp) (by rw [hmaj]; exact hfmt), hmaj, he, extract_bits,
    Form.ofBits_bits]

/-- What decodes is written in the word that it is read from (02 R61). -/
theorem decodeFields_spells {w l : W32} {i : Instr} (h : decodeFields w l = .ok i) :
    ∃ f, formatOf (w.extractLsb' 21 6).toNat = some f ∧ Guard.ofFields (w.extractLsb' 31 1) (w.extractLsb' 27 4) = .ok i.guard ∧
      Spells l i.guard (w.extractLsb' 21 6) (Form.ofBits f (w.extractLsb' 0 21)) i := by
  obtain ⟨h0, h1⟩ := decodeFields_ne_zero h
  obtain ⟨⟨g, hg⟩, f, hf⟩ := guard_format_of_decodeFields h
  rw [decodeFields_eq h0 h1 hg hf] at h
  have hs := ofForm_spells g _ _ l i h
  simp only [BitVec.ofNat_toNat, BitVec.setWidth_eq] at hs
  obtain rfl := hs.guard
  exact ⟨f, hf, hg, hs⟩

theorem encodeWord_of_decodeFields {w l : W32} {i : Instr} (h : decodeFields w l = .ok i) : encodeWord i = w := by
  obtain ⟨f, -, hg, hs⟩ := decodeFields_spells h
  obtain ⟨hgs, hgp⟩ := Guard.gs_gp_of_ok _ _ i.guard (by rw [hg]; rfl)
  rw [encodeWord_eq hs.major hs.form, hgs, hgp, Form.bits_ofBits, word_eq_append]

theorem isWord_of_decodeFields {w l : W32} {i : Instr} (h : decodeFields w l = .ok i) : i.isWord = true := by
  obtain ⟨f, -, -, hs⟩ := decodeFields_spells h
  rw [i.isWord_eq_isSome, hs.major]; rfl

/-- No instruction word is all ones: GP = 15 with GS = 1 is no guard (02 R61 cases 1 and 2). -/
theorem encodeWord_ne_allOnes {i : Instr} (h : i.isWord = true) : encodeWord i ≠ 0xFFFFFFFF#32 := by
  obtain ⟨m, f, hm, hf, -⟩ := Instr.exists_form h
  intro he
  rw [encodeWord_eq hm hf] at he
  have hgs := congrArg (BitVec.extractLsb' 31 1) he
  have hgp := congrArg (BitVec.extractLsb' 27 4) he
  rw [extract_gs] at hgs
  rw [extract_gp] at hgp
  have hg := i.guard.ofFields_gs_gp
  rw [hgs, hgp] at hg
  cases hg

/-! Literals (02 R42, R47, R55). -/

theorem Role.withLit_eq_self_iff {l : W32} {r : Role} : r.withLit l = r ↔ ∀ w, r.lit? = some w → w = l := by
  cases r with
  | src x => cases x <;> simp [Scalar.withLit, Role.lit?, eq_comm]
  | _ => simp [Role.lit?]

theorem Role.lit?_withLit (l : W32) (r : Role) : (r.withLit l).lit? = r.lit?.map fun _ => l := by
  cases r with
  | src x => cases x <;> rfl
  | _ => rfl

/-- With a literal word in place of its own an instruction has the same fields exactly if that word was its literal. -/
theorem map_withLit_eq_self_iff {l : W32} {i : Instr} : i.roles.map (Role.withLit l) = i.roles ↔ ∀ w ∈ i.lits, w = l := by
  unfold Instr.lits
  induction i.roles with
  | nil => simp
  | cons r rs ih =>
    rw [List.map_cons, List.cons.injEq, Role.withLit_eq_self_iff, ih, List.filterMap_cons]
    cases r.lit? <;> simp

theorem ReadWith.lits {l : W32} {i j : Instr} (h : ReadWith l i j) : j.lits = i.lits.map fun _ => l := by
  unfold Instr.lits
  rw [h.1, List.filterMap_map, List.map_filterMap]
  exact congrArg (fun g => List.filterMap g i.roles) (funext (Role.lit?_withLit l))

theorem ReadWith.eq {l : W32} {i j : Instr} (h : ReadWith l i j) (hl : ∀ w ∈ i.lits, w = l) : j = i := h.2 (map_withLit_eq_self_iff.2 hl)

theorem Spells.eq_lit {l : W32} {g : Guard} {m : BitVec 6} {f : Form} {i : Instr} (h : Spells l g m f i) : ∀ w ∈ i.lits, w = l :=
  map_withLit_eq_self_iff.1 h.lits

/-- A word that decodes with one literal word decodes with any: to the same instruction, but for its literal. -/
theorem decodeFields_withLit {w l : W32} {i : Instr} (h : decodeFields w l = .ok i) (l' : W32) :
    ∃ j, decodeFields w l' = .ok j ∧ ReadWith l' i j := by
  obtain ⟨m, f, hm, hf, hfmt⟩ := Instr.exists_form (isWord_of_decodeFields h)
  obtain ⟨h0, h1⟩ := decodeFields_ne_zero h
  rw [← encodeWord_of_decodeFields h] at h0 h1 ⊢
  rw [decodeFields_encodeWord_eq hm hf hfmt h0 h1]
  exact ofForm_form hm hf l'

/-! Well-formed instructions (02 R47, R61 case 1). -/

theorem Instr.wf_iff {i : Instr} : i.wf = true ↔ i.isWord = true ∧ i.lits.length ≤ 1 ∧ i ≠ Instr.zeroWord := by
  simp [Instr.wf, and_assoc]

theorem eq_headD_of_mem {α : Type} {l : List α} (h : l.length ≤ 1) (d : α) : ∀ x ∈ l, x = l.headD d := by
  match l with
  | [] => simp
  | [y] => simp
  | _ :: _ :: _ => simp at h

/-- Only one word with at most one literal is written as 0 (02 R61 case 1). -/
theorem eq_zeroWord_of_encodeWord {i : Instr} (h : i.isWord = true) (hl : i.lits.length ≤ 1) (he : encodeWord i = 0#32) : i = Instr.zeroWord := by
  obtain ⟨m, f, hm, hf, hfmt⟩ := Instr.exists_form h
  rw [encodeWord_eq hm hf] at he
  have hgs : i.guard.gs = 0#1 := (extract_gs ..).symm.trans (congrArg (BitVec.extractLsb' 31 1) he)
  have hgp : i.guard.gp = 0#4 := (extract_gp ..).symm.trans (congrArg (BitVec.extractLsb' 27 4) he)
  have hg := i.guard.ofFields_gs_gp
  rw [hgs, hgp] at hg
  obtain rfl : m = 0#6 := (extract_major ..).symm.trans (congrArg (BitVec.extractLsb' 21 6) he)
  obtain rfl : f = .ss 0#3 0#6 0#6 0#6 := by
    rw [← f.ofBits_bits, ← Option.some.inj hfmt, (extract_bits ..).symm.trans (congrArg (BitVec.extractLsb' 0 21) he)]
    rfl
  obtain ⟨j, hj, hr⟩ := ofForm_form hm hf (i.lits.headD 0#32)
  rw [← Except.ok.inj hg] at hj
  rw [← hr.eq (eq_headD_of_mem hl _)]
  exact (Except.ok.inj hj).symm

/-- The word of a well-formed instruction, cut into its fields, is the instruction again. -/
theorem decodeFields_encodeWord {i : Instr} (h : i.wf = true) {l : W32} (hl : ∀ w ∈ i.lits, w = l) : decodeFields (encodeWord i) l = .ok i := by
  obtain ⟨hw, hlen, hz⟩ := Instr.wf_iff.1 h
  obtain ⟨m, f, hm, hf, hfmt⟩ := Instr.exists_form hw
  obtain ⟨j, hj, hr⟩ := ofForm_form hm hf l
  rw [decodeFields_encodeWord_eq hm hf hfmt (fun he => hz (eq_zeroWord_of_encodeWord hw hlen he)) (encodeWord_ne_allOnes hw), hj, hr.eq hl]

/-! Decoding (02 R42, R47). -/

theorem encode_eq {i : Instr} (h : i.isWord = true) : encode i = bytesOfWord (encodeWord i) ++ i.lits.flatMap bytesOfWord := by
  simp [encode, h]

/-- An instruction without a literal is one word. -/
theorem decode_of_word {w : W32} {i : Instr} (h : ∀ l, decodeFields w l = .ok i) (hl : i.lits = []) (rest : List Byte) :
    decode (bytesOfWord w ++ rest) = .ok (i, rest) := by
  simp only [decode, takeWord_bytesOfWord]
  cases takeWord rest <;> simp [decodeWords, h, hl, bind, Except.bind, pure, Except.pure]

/-- An instruction with a literal takes the word after its own. -/
theorem decode_of_word_lit {w l : W32} {i : Instr} (h : decodeFields w l = .ok i) (hl : i.lits = [l]) (rest : List Byte) :
    decode (bytesOfWord w ++ (bytesOfWord l ++ rest)) = .ok (i, rest) := by
  simp [decode, takeWord_bytesOfWord, decodeWords, h, hl, bind, Except.bind, pure, Except.pure]

theorem decode_encode {i : Instr} (h : i.wf = true) (rest : List Byte) : decode (encode i ++ rest) = .ok (i, rest) := by
  obtain ⟨hw, hlen, -⟩ := Instr.wf_iff.1 h
  rw [encode_eq hw]
  match hl : i.lits with
  | [] =>
    simp only [List.flatMap_nil, List.append_nil]
    exact decode_of_word (fun l => decodeFields_encodeWord h (by simp [hl])) hl rest
  | [l] =>
    simp only [List.flatMap_cons, List.flatMap_nil, List.append_nil, List.append_assoc]
    exact decode_of_word_lit (decodeFields_encodeWord h (by simp [hl])) hl rest
  | _ :: _ :: _ => simp [hl] at hlen

/-- The words of an instruction are decoded with the first of them, which is an instruction whose literal, if it has one, is the second. -/
theorem decodeWords_eq_ok {w : W32} {next : Option W32} {i : Instr} {n : Nat} (h : decodeWords w next = .ok (i, n)) :
    decodeFields w (next.getD 0#32) = .ok i ∧ (i.lits = [] ∧ n = 1 ∨ ∃ l, next = some l ∧ i.lits = [l] ∧ n = 2) := by
  unfold decodeWords at h
  cases hd : decodeFields w (next.getD 0#32) with
  | error e => rw [hd] at h; cases h
  | ok j =>
    rw [hd] at h
    obtain ⟨f, -, -, hs⟩ := decodeFields_spells hd
    simp only [bind, Except.bind] at h
    split at h
    · cases h
      exact ⟨rfl, .inl ⟨‹_›, rfl⟩⟩
    · rename_i l hl
      cases next with
      | none => cases h
      | some l' =>
        cases h
        exact ⟨rfl, .inr ⟨l', rfl, by rw [hl, hs.eq_lit l (by simp [hl])]; rfl, rfl⟩⟩
    · cases h

/-- A word without a literal decodes with any word after it. -/
theorem decodeFields_of_lits_nil {w l : W32} {i : Instr} (h : decodeFields w l = .ok i) (hl : i.lits = []) (l' : W32) : decodeFields w l' = .ok i := by
  obtain ⟨j, hj, hr⟩ := decodeFields_withLit h l'
  rw [hj, hr.eq (by simp [hl])]

/-- What decodes is one word without a literal, or a word and the literal word after it. -/
theorem decode_eq_ok {bs rest : List Byte} {i : Instr} (h : decode bs = .ok (i, rest)) :
    ∃ w r, takeWord bs = some (w, r) ∧
      (i.lits = [] ∧ rest = r ∧ (∀ l, decodeFields w l = .ok i) ∨ ∃ l, i.lits = [l] ∧ takeWord r = some (l, rest) ∧ decodeFields w l = .ok i) := by
  unfold decode at h
  match hb : takeWord bs with
  | none => rw [hb] at h; cases h
  | some (w, r) =>
    simp only [hb, bind, Except.bind] at h
    refine ⟨w, r, rfl, ?_⟩
    match hr : takeWord r with
    | none =>
      simp only [hr] at h
      match hd : decodeWords w none with
      | .error e => rw [hd] at h; cases h
      | .ok (j, n) =>
        rw [hd] at h
        cases h
        obtain ⟨hf, ⟨hl, -⟩ | ⟨l, hn, -⟩⟩ := decodeWords_eq_ok hd
        · exact .inl ⟨hl, rfl, decodeFields_of_lits_nil hf hl⟩
        · cases hn
    | some (l, r') =>
      simp only [hr] at h
      match hd : decodeWords w (some l) with
      | .error e => rw [hd] at h; cases h
      | .ok (j, n) =>
        rw [hd] at h
        cases h
        obtain ⟨hf, ⟨hl, rfl⟩ | ⟨l', hn, hl, rfl⟩⟩ := decodeWords_eq_ok hd
        · exact .inl ⟨hl, rfl, decodeFields_of_lits_nil hf hl⟩
        · cases hn
          exact .inr ⟨l, hl, rfl, hf⟩

theorem wf_of_decodeFields {w l : W32} {i : Instr} (h : decodeFields w l = .ok i) (hl : i.lits.length ≤ 1) : i.wf = true := by
  refine Instr.wf_iff.2 ⟨isWord_of_decodeFields h, hl, ?_⟩
  rintro rfl
  exact (decodeFields_ne_zero h).1 (encodeWord_of_decodeFields h).symm

/-- What decodes is the encoding of a well-formed instruction, with the bytes after it. -/
theorem encode_of_decode {bs rest : List Byte} {i : Instr} (h : decode bs = .ok (i, rest)) : i.wf = true ∧ encode i ++ rest = bs := by
  obtain ⟨w, r, hb, ⟨hl, rfl, hd⟩ | ⟨l, hl, hr, hd⟩⟩ := decode_eq_ok h
  · have hd := hd 0#32
    rw [encode_eq (isWord_of_decodeFields hd), hl, encodeWord_of_decodeFields hd]
    exact ⟨wf_of_decodeFields hd (by simp [hl]), by simpa using bytesOfWord_of_takeWord hb⟩
  · rw [encode_eq (isWord_of_decodeFields hd), hl, encodeWord_of_decodeFields hd, ← bytesOfWord_of_takeWord hb, ← bytesOfWord_of_takeWord hr]
    exact ⟨wf_of_decodeFields hd (by simp [hl]), by simp⟩

end Sys2Proof
end

section
namespace Sys2Proof

/-! Reserved minors and reserved fields (02 R52, R58, R61 cases 4 and 5). -/

/-- The minor opcode of a word's fields; 0 in the formats without one. -/
def Form.minor : Form → Nat
  | .ss op _ _ _ | .si op _ _ _ | .pl op _ _ _ _ | .atm op _ _ _ _ _ _ | .fn op _ _ _ _ | .vm op _ _ _ _ | .v op _ _ _ _ => op.toNat
  | .sc op _ _ _ _ => op.toNat
  | .j op _ | .vx op _ _ _ _ => op.toNat
  | .zf op _ | .e op _ _ _ => op.toNat
  | .l _ _ | .rp _ _ _ => 0

/-- The reserved field of a word's fields; 0 in the formats without one. -/
def Form.reserved : Form → Nat
  | .sc _ _ _ _ z | .vm _ _ _ _ z | .atm _ _ _ _ z _ _ => z.toNat
  | .pl _ _ _ _ z => z.toNat
  | .zf _ z => z.toNat
  | .fn _ _ _ z _ => z.toNat
  | .e _ _ _ z => z.toNat
  | .rp _ _ z => z.toNat
  | _ => 0

/-- The lowest bit and the width of a format's minor opcode (02 R52). -/
def Format.minorBits : Format → Nat × Nat
  | .ss | .si | .pl | .atm | .fn | .vm | .v => (18, 3)
  | .sc => (17, 4)
  | .j | .vx => (19, 2)
  | .zf | .e => (16, 5)
  | .l | .rp => (0, 0)

/-- The lowest bit and the width of a format's reserved field (02 R52). -/
def Format.reservedBits : Format → Nat × Nat
  | .sc | .vm => (0, 1)
  | .pl => (0, 6)
  | .zf => (0, 16)
  | .atm => (12, 1)
  | .fn => (6, 8)
  | .e => (0, 4)
  | .rp => (0, 12)
  | _ => (0, 0)

/-- The number of minor opcodes that a major assigns (02 R58). -/
def minorCount (m : Nat) : Nat :=
  if m ∈ [0x09, 0x0D, 0x32, 0x35, 0x3F] then 1
  else if m ∈ [0x07, 0x0A, 0x0B, 0x33, 0x36] then 2
  else if m ∈ [0x08, 0x0C, 0x12, 0x14] then 3
  else if m ∈ [0x04, 0x11, 0x15, 0x19, 0x1D, 0x2C, 0x2D, 0x34, 0x38, 0x39] then 4
  else if m ∈ [0x25, 0x2B, 0x30, 0x31, 0x3C] then 5
  else if m ∈ [0x02, 0x18, 0x1C] then 7
  else if m = 0x05 then 10
  else 8

theorem Form.minor_ofBits (f : Format) (w : W32) :
    (Form.ofBits f (w.extractLsb' 0 21)).minor = (w.extractLsb' f.minorBits.1 f.minorBits.2).toNat := by
  cases f <;> simp [Form.ofBits, Form.minor, Format.minorBits]

theorem Form.reserved_ofBits (f : Format) (w : W32) :
    (Form.ofBits f (w.extractLsb' 0 21)).reserved = (w.extractLsb' f.reservedBits.1 f.reservedBits.2).toNat := by
  cases f <;> simp [Form.ofBits, Form.reserved, Format.reservedBits]

/-- Is the minor one that the major assigns, and the reserved field 0? -/
def fitsMajor : Option (BitVec 6) → Option Form → Bool
  | some m, some f => decide (f.minor < minorCount m.toNat) && f.reserved == 0
  | _, _ => true

theorem Instr.fits (i : Instr) : fitsMajor i.major i.form = true := by cases i <;> rfl

/-- A word of a major that decodes has a minor which the major assigns, and 0 in its reserved field. -/
theorem minor_lt_of_decodeFields {w l : W32} {i : Instr} (h : decodeFields w l = .ok i) {m : Nat} {f : Format}
    (hm : (w.extractLsb' 21 6).toNat = m) (hf : formatOf m = some f) :
    (w.extractLsb' f.minorBits.1 f.minorBits.2).toNat < minorCount m ∧ (w.extractLsb' f.reservedBits.1 f.reservedBits.2).toNat = 0 := by
  obtain ⟨f', hf', -, hs⟩ := decodeFields_spells h
  rw [hm, hf, Option.some.injEq] at hf'
  have hfit := i.fits
  rw [hs.major, hs.form, ← hf'] at hfit
  simpa [fitsMajor, Form.minor_ofBits, Form.reserved_ofBits, hm] using hfit

/-- Bytes of this word and the literal word after it are no instruction. -/
def Refused (w l : W32) : Prop := ∀ i, decodeFields w l ≠ .ok i

section
variable {w l : W32} {m : Nat} {f : Format}

theorem refused_of_minor (hm : (w.extractLsb' 21 6).toNat = m) (hf : formatOf m = some f)
    (h : minorCount m ≤ (w.extractLsb' f.minorBits.1 f.minorBits.2).toNat) : Refused w l :=
  fun _ hi => Nat.not_lt.2 h (minor_lt_of_decodeFields hi hm hf).1

theorem refused_of_reserved (hm : (w.extractLsb' 21 6).toNat = m) (hf : formatOf m = some f)
    (h : (w.extractLsb' f.reservedBits.1 f.reservedBits.2).toNat ≠ 0) : Refused w l :=
  fun _ hi => h (minor_lt_of_decodeFields hi hm hf).2

theorem refused_of_major (h : formatOf (w.extractLsb' 21 6).toNat = none) : Refused w l := by
  intro i hi
  obtain ⟨f, hf, -⟩ := decodeFields_spells hi
  rw [h] at hf
  cases hf

theorem refused_of_guard {e : DecodeError} (h : Guard.ofFields (w.extractLsb' 31 1) (w.extractLsb' 27 4) = .error e) : Refused w l := by
  intro i hi
  obtain ⟨f, -, hg, -⟩ := decodeFields_spells hi
  rw [h] at hg
  cases hg

end

/-- Guard fields without a meaning (02 R61 case 2). -/
theorem Guard.ofFields_error : ∀ (gs : BitVec 1) (gp : BitVec 4), 12 ≤ gp.toNat ∧ gp.toNat ≤ 14 ∨ gp.toNat = 15 ∧ gs = 1#1 →
    Guard.ofFields gs gp = .error .guard := by decide

/-- A bit of a word, as a field of width 1. -/
theorem extractLsb'_one (w : W32) (k : Nat) : w.extractLsb' k 1 = BitVec.ofBool (w.getLsbD k) := by
  ext i hi
  obtain rfl : i = 0 := by omega
  simp

theorem getLsbD_eq_true_iff (w : W32) (k : Nat) : w.getLsbD k = true ↔ (w.extractLsb' k 1).toNat ≠ 0 := by
  rw [extractLsb'_one]
  cases w.getLsbD k <;> decide

/-- Settles O16: the fields of a word instruction are cut and read as the instruction again, and its literal is the word that a field 63 takes. -/
theorem decodeEncode : Obligations.DecodeEncode := fun _ rest h => decode_encode h rest

/-- Settles O17: what decodes spells its instruction, so each refused encoding would be one of an instruction that no row of the tables is. -/
theorem decodedWordsEncode : Obligations.DecodedWordsEncode := by
  unfold Obligations.DecodedWordsEncode
  refine ⟨fun bs rest i h => encode_of_decode h, fun w l => ⟨?words, ?guards, ?majors, ?minors, ?reserved⟩⟩
  case words => rintro h i hi; exact h.elim (decodeFields_ne_zero hi).1 (decodeFields_ne_zero hi).2
  case guards =>
    intro h
    exact refused_of_guard (Guard.ofFields_error _ _ (h.imp_right fun h => ⟨h.1, by rw [extractLsb'_one, h.2]; rfl⟩))
  case majors =>
    simp only [List.mem_cons, List.not_mem_nil, or_false, or_imp]
    and_intros <;> exact fun hm => refused_of_major (by rw [hm]; rfl)
  case minors =>
    simp only [List.mem_cons, List.not_mem_nil, or_false, or_and_right, or_imp, and_imp]
    and_intros
    · exact fun hm h => refused_of_minor hm rfl h.ge
    all_goals exact fun hm h => refused_of_minor hm rfl h
  case reserved =>
    simp only [List.mem_cons, List.not_mem_nil, or_false, or_and_right, or_imp, and_imp, getLsbD_eq_true_iff]
    and_intros <;> exact fun hm h => refused_of_reserved hm rfl h

/-- An instruction is what its encoding decodes to. -/
theorem decode_of_encode {i : Instr} {bs : List Byte} (hb : encode i = bs) (h : i.wf = true) : decode bs = .ok (i, []) := by
  rw [← hb, ← List.append_nil (encode i)]
  exact decode_encode h []

/-- Settles O15: each of the words is the encoding of its instruction. -/
theorem exampleWordsDecode : Obligations.ExampleWordsDecode := by
  unfold Obligations.ExampleWordsDecode
  and_intros <;> exact decode_of_encode (by decide) (by decide)

end Sys2Proof
end

section
namespace Sys2Proof.Machine

open Sys2Proof

/-! Words in memory, fetched and decoded (02 R41, R42; 05 R123). -/

theorem bytesOfWord_leValue (b0 b1 b2 b3 : Byte) : bytesOfWord (BitVec.ofNat 32 (leValue [b0, b1, b2, b3])) = [b0, b1, b2, b3] := by
  simp only [bytesOfWord, List.cons.injEq, and_true]
  refine ⟨?_, ?_, ?_, ?_⟩ <;> apply BitVec.eq_of_toNat_eq <;>
    simp only [leValue, BitVec.extractLsb'_toNat, BitVec.toNat_ofNat, Nat.shiftRight_eq_div_pow] <;> omega

theorem State.bytes_four (s : State) (b : Nat) : s.bytes b 4 = bytesOfWord (BitVec.ofNat 32 (s.value b 4)) :=
  (bytesOfWord_leValue ..).symm

theorem State.bytes_add (s : State) (b m n : Nat) : s.bytes b (m + n) = s.bytes b m ++ s.bytes (b + m) n := by
  simp [State.bytes, List.range_add, Nat.add_assoc, Function.comp_def]

theorem decode_bytesOfWord {w : W32} {i : Instr} {rest : List Byte} (h : decode (bytesOfWord w) = .ok (i, rest)) :
    i.lits = [] ∧ ∀ l, decodeFields w l = .ok i := by
  rw [← List.append_nil (bytesOfWord w)] at h
  obtain ⟨w', r, hb, hc⟩ := decode_eq_ok h
  rw [takeWord_bytesOfWord] at hb
  cases hb
  rcases hc with ⟨hl, -, hd⟩ | ⟨l, -, hr, -⟩
  · exact ⟨hl, hd⟩
  · cases hr

theorem decode_bytesOfWord_lit {w l : W32} {i : Instr} {rest : List Byte} (h : decode (bytesOfWord w ++ bytesOfWord l) = .ok (i, rest)) :
    i.lits.length ≤ 1 ∧ decodeFields w l = .ok i := by
  obtain ⟨w', r, hb, hc⟩ := decode_eq_ok h
  rw [takeWord_bytesOfWord] at hb
  cases hb
  rcases hc with ⟨hl, -, hd⟩ | ⟨l', hl, hr, hd⟩
  · exact ⟨by simp [hl], hd l⟩
  · rw [← List.append_nil (bytesOfWord l), takeWord_bytesOfWord] at hr
    cases hr
    exact ⟨by simp [hl], hd⟩

theorem major_of_decodeFields {w l : W32} {i : Instr} (h : decodeFields w l = .ok i) : i.major = some (w.extractLsb' 21 6) := by
  obtain ⟨_, -, -, hs⟩ := decodeFields_spells h
  exact hs.major

variable {a : Agent} {k : Nat} {s : State} {va : W64} {b : Nat}

theorem Fetches.fetchWord (h : Fetches a k s va b) : fetchWord a k va s = .ok (BitVec.ofNat 32 (s.value b 4), s) := by
  obtain ⟨⟨tgt, ht, hb⟩, ho, he, hx, hs⟩ := h
  have hb : loadAddr s ((s.partOf? a.cluster).getD 0) tgt = some b := hb
  have hc : codeWord s b (s.old.getD k 0) = (BitVec.ofNat 32 (s.value b 4), s) := by
    simp only [codeWord, hx, Bool.false_eq_true, if_false]
    rcases hs with hs | hs
    · rw [hs]; rfl
    · simp only [tget, hs]
      cases s.old.getD k 0 <;> rfl
  simp only [Machine.fetchWord, ht, hb, ho, he, hc, Bool.not_true, Bool.false_eq_true, if_false]

theorem Fetches.fetchBare (h : Fetches a k s va b) {i : Instr} (hi : decodeFields (BitVec.ofNat 32 (s.value b 4)) 0#32 = .ok i) :
    fetchBare a k va s = .ok (BitVec.ofNat 32 (s.value b 4), i, s) := by
  simp [Machine.fetchBare, h.fetchWord, hi]

theorem fetchBare_error {st : Stop} (h : Machine.fetchWord a k va s = .error st) : Machine.fetchBare a k va s = .error st := by
  simp [Machine.fetchBare, h]

/-- The word of an instruction takes its literal from what stands there, if it has one. -/
theorem withLit_eq {w l : W32} {i j : Instr} {s' : State} (hj : decodeFields w 0#32 = .ok j) (hi : decodeFields w l = .ok i) (hlen : i.lits.length ≤ 1)
    (hl : i.lits = [] ∧ s' = s ∨ i.lits ≠ [] ∧ fetchLit a (k + 1) (va + 4#64) s = .ok (l, s')) : withLit a k va w j s = .ok (i, s') := by
  obtain ⟨i', hi', hr⟩ := decodeFields_withLit hj l
  obtain rfl : i' = i := Except.ok.inj (hi'.symm.trans hi)
  have hlits := hr.lits
  rcases hl with ⟨hl, rfl⟩ | ⟨hl, hf⟩
  · have hjl : j.lits = [] := by simpa [hl] using hlits.symm
    obtain rfl := hr.eq (by simp [hjl])
    simp [withLit, hjl]
  · match hjl : j.lits with
    | [] => simp [hjl] at hlits; exact absurd hlits hl
    | [_] => simp [withLit, hjl, hf, hi]
    | _ :: _ :: _ => simp [hlits, hjl] at hlen

/-- A word that is no REP, with its literal. -/
theorem nextInstr_of_not_rep {w : W32} {i : Instr} (h : Machine.fetchBare a 0 ((s.task a).pcOf a.kind) s = .ok (w, i, s)) (hm : i.major ≠ some 0x3F#6)
    (hr : (s.task a).repOf a.kind = 0) : nextInstr a s = withLit a 0 ((s.task a).pcOf a.kind) w i s := by
  simp only [nextInstr, h, hr, if_true]
  split
  · exact absurd rfl hm
  · rfl

/-- A turn of a live stream on a core that is not too hot issues its next word. -/
theorem step_issue {s : State} {a : Agent} {old : List Nat} {late : Bool} {r : List Turn} (h : s.agenda = .issue a old late :: r)
    (hl : State.live { s with agenda := r, cur := a, old := old, late := late } a = true)
    (hh : State.tooHot { s with agenda := r, cur := a, old := old, late := late } a.cluster = false) :
    step s = issueWord { s with agenda := r, cur := a, old := old, late := late } := by
  simp only [step, takeTurn, h, runTurn, atTurn, issueTurn, hl, hh, Bool.not_true, Bool.false_and, Bool.false_eq_true, if_false, if_true]

theorem issueWord_of_next {i : Instr} {s' : State} (h : nextInstr s.cur s = .ok (i, s')) : issueWord s = exec i s' := by simp only [issueWord, h]

theorem issueWord_of_stop {st : Stop} (h : nextInstr s.cur s = .error st) : issueWord s = .next (stopFetch s.cur st s) := by simp only [issueWord, h]

/-- Settles O18: the word is fetched bare, and its literal, if it has one, in its place. -/
theorem stepIssuesDecodedWord : Obligations.StepIssuesDecodedWord := by
  unfold Obligations.StepIssuesDecodedWord
  intro s a old late r b i s1 pc hagenda hlive hhot hrep hf0 hf1 hwf hm hd
  obtain ⟨hw, hlen, -⟩ := Instr.wf_iff.1 hwf
  rw [step_issue hagenda hlive hhot]
  refine issueWord_of_next (s := s1) ?_
  obtain ⟨l, hi, hl⟩ : ∃ l, decodeFields (BitVec.ofNat 32 (s1.value b 4)) l = .ok i ∧
      (i.lits = [] ∧ s1 = s1 ∨ i.lits ≠ [] ∧ fetchLit a 1 (pc + 4#64) s1 = .ok (l, s1)) := by
    by_cases hl : i.lits = []
    · rw [Instr.words, hl, List.length_nil, State.bytes_four] at hd
      exact ⟨0#32, (decode_bytesOfWord hd).2 _, .inl ⟨hl, rfl⟩⟩
    · have hone : i.lits.length = 1 := Nat.le_antisymm hlen (List.length_pos_iff.2 hl)
      rw [Instr.words, hone, State.bytes_add s1 b 4 4, State.bytes_four, State.bytes_four] at hd
      refine ⟨_, (decode_bytesOfWord_lit hd).2, .inr ⟨hl, ?_⟩⟩
      simp only [fetchLit, show (s1.task a).repOf a.kind = 0 from hrep, if_true]
      exact (hf1 hl).fetchWord
  obtain ⟨j, hj, -⟩ := decodeFields_withLit hi 0#32
  have hmj : j.major ≠ some 0x3F#6 := by rwa [major_of_decodeFields hj, ← major_of_decodeFields hi]
  show nextInstr a s1 = _
  rw [nextInstr_of_not_rep (hf0.fetchBare hj) hmj hrep]
  exact withLit_eq hj hi hlen hl

end Sys2Proof.Machine
end

section
namespace Sys2Proof.Machine

open Sys2Proof

variable {a : Agent} {s : State}

/-! What stops a word of a stream that can issue (02 R61, R62; 05 R123). -/

theorem Issues.cldWaits (h : Issues a s) : cldWaits a s = none := by
  unfold Machine.cldWaits
  split
  · rename_i hk
    have hn := h.noCell (by simpa using hk)
    rw [List.any_eq_false] at hn
    rw [List.find?_eq_none.2 hn]
    rfl
  · rfl

theorem Issues.onArm (h : Issues a s) : ((s.task a).x.arm.isSome && a.kind == .execute) = false := by
  cases hk : a.kind with
  | access => simp
  | execute => simp [h.noArm hk]

theorem Issues.stopStep_trap (h : Issues a s) (i : TrapInfo) : stopStep a (.trap i) s = takeTrap a i i.home none s := by
  simp only [stopStep, h.onArm, Bool.false_eq_true, if_false]

theorem Issues.stopFetch (h : Issues a s) (st : Stop) : stopFetch a st s = stopStep a st s := by
  simp only [Machine.stopFetch, h.cldWaits]

/-- A word that cannot be fetched or decoded traps where it stands. -/
theorem Issues.issueWord_trap (h : Issues a s) {i : TrapInfo} (hn : nextInstr a s = .error (.trap i)) :
    issueWord s = .next (takeTrap a i i.home none s) := by
  obtain rfl := h.cur
  rw [issueWord_of_stop hn, h.stopFetch, h.stopStep_trap]

theorem nextInstr_of_fetch_error {st : Stop} (h : fetchBare a 0 ((s.task a).pcOf a.kind) s = .error st) : nextInstr a s = .error st := by
  simp only [nextInstr, h]

/-- What keeps a word from being fetched or decoded. -/
theorem fetchBare_of_untranslated {e : TrapCode} {k : Nat} {va : W64} (h : translate s a (s.task a) va .fetch = .error e) :
    fetchBare a k va s = .error (.trap { code := e }) := fetchBare_error (by simp only [fetchWord, h])

theorem fetchBare_of_no_memory {tgt : Target} {k : Nat} {va : W64} (h : translate s a (s.task a) va .fetch = .ok tgt)
    (ht : loadAddr s (s.partOf a) tgt = none) : fetchBare a k va s = .error (.trap { code := .fetchwin }) :=
  fetchBare_error (by simp only [fetchWord, h, show loadAddr s ((s.partOf? a.cluster).getD 0) tgt = none from ht])

theorem fetchBare_of_refused {k : Nat} {va : W64} {b : Nat} (h : Fetches a k s va b) (hr : Refused (BitVec.ofNat 32 (s.value b 4)) 0#32) :
    fetchBare a k va s = .error (.trap { code := .illegal }) := by
  cases hd : decodeFields (BitVec.ofNat 32 (s.value b 4)) 0#32 with
  | error e => simp only [fetchBare, h.fetchWord, hd, illegalWord]
  | ok i => exact absurd hd (hr i)

/-! REP (02 R54-R56). -/

section
variable {cnt : BitVec 6} {st : BitVec 3} {j : Instr} {w w' : W32} (hc : a.core?.isSome = true)
  (h0 : fetchBare a 0 ((s.task a).pcOf a.kind) s = .ok (w, .rep cnt st, s)) (h1 : fetchBare a 1 ((s.task a).pcOf a.kind + 4#64) s = .ok (w', j, s))
include hc h0 h1

/-- Before the first repeat the next instruction is the REP word itself, if its target may be repeated so. -/
theorem nextInstr_rep_first (hr : (s.task a).repOf a.kind = 0) :
    nextInstr a s = if repLegal a.kind cnt st j then .ok (.rep cnt st, s) else .error (.trap { code := .illegal }) := by
  have hn : a.core?.isNone = false := by simpa using hc
  simp only [nextInstr, h0, h1, hr, hn, Bool.false_eq_true, if_false, if_true, illegalWord]

/-- While repeats are left it is the target, stepped. -/
theorem nextInstr_rep_repeat (hr : (s.task a).repOf a.kind ≠ 0) {i k : Instr} {s' : State}
    (hl : withLit a 1 ((s.task a).pcOf a.kind + 4#64) w' j s = .ok (i, s')) (hk : i.stepped st (cnt.toNat + 1 - (s.task a).repOf a.kind) = .ok k) :
    nextInstr a s = .ok (k, s') := by
  have hn : a.core?.isNone = false := by simpa using hc
  simp only [nextInstr, h0, h1, hr, hn, Bool.false_eq_true, if_false, hl, hk]

end

theorem Issues.execRep (h : Issues a s) (hc : a.core?.isSome = true) (hr : (s.task a).repOf a.kind = 0) (cnt : BitVec 6) (st : BitVec 3) :
    exec (.rep cnt st) s = .next (s.modTask a fun t => (t.setRep a.kind (cnt.toNat + 1)).setLit a.kind none) := by
  have hn : a.core?.isNone = false := by simpa using hc
  obtain rfl := h.cur
  show Machine.execRep cnt st s = _
  simp only [Machine.execRep, h.live, repStart, h.cldWaits, hn, h.onArm, hr, Bool.false_eq_true, if_false, if_true]

/-- The literal that the repeats share is fetched by the first of them. -/
theorem fetchLit_rep_first {l : W32} {k : Nat} {va : W64} (hr : (s.task a).repOf a.kind ≠ 0) (hl : (s.task a).litOf a.kind = none)
    (h : fetchWord a k va s = .ok (l, s)) : fetchLit a k va s = .ok (l, s.modTask a fun t => t.setLit a.kind (some l)) := by
  simp only [fetchLit, hr, hl, h, if_false]

theorem fetchLit_rep_kept {l : W32} {k : Nat} {va : W64} (hr : (s.task a).repOf a.kind ≠ 0) (hl : (s.task a).litOf a.kind = some l) :
    fetchLit a k va s = .ok (l, s) := by
  simp only [fetchLit, hr, hl, if_false]

/-- Settles O19: the REP word and its target are fetched, and what issues is the REP word before the first repeat, its target stepped after it. -/
theorem stepRepeats : Obligations.StepRepeats := by
  unfold Obligations.StepRepeats
  refine ⟨?step, fun a s cnt st h hc hr => ⟨_, h.execRep hc hr cnt st, by simp, sameOutside_setTask .., sameCores_setTask ..⟩⟩
  intro s a old late r b b' cnt st j lit rest s1 u pc hagenda hhot h hc hf0 hd0 hf1 hd1
  rw [State.bytes_four] at hd0 hd1
  obtain ⟨hlen, hj⟩ := decode_bytesOfWord_lit hd1
  obtain ⟨j0, hj0, -⟩ := decodeFields_withLit hj 0#32
  have h0 := hf0.fetchBare ((decode_bytesOfWord hd0).2 _)
  have h1 := hf1.fetchBare hj0
  rw [step_issue hagenda h.live hhot]
  have hissue : ∀ {k s'}, nextInstr a s1 = .ok (k, s') → issueWord s1 = exec k s' := issueWord_of_next (s := s1)
  refine ⟨fun hr hlit hleg => ?first, fun hr hlit hleg => ?illegal, fun k hpos _ hk => ?repeated⟩
  case first =>
    subst hlit
    obtain rfl : j0 = j := Except.ok.inj (hj0.symm.trans hj)
    rw [hissue ((nextInstr_rep_first hc h0 h1 hr).trans (if_pos hleg)), h.execRep hc hr]
  case illegal =>
    subst hlit
    obtain rfl : j0 = j := Except.ok.inj (hj0.symm.trans hj)
    exact h.issueWord_trap ((nextInstr_rep_first hc h0 h1 hr).trans (if_neg (by simp [hleg])))
  case repeated =>
    have hr : (s1.task a).repOf a.kind ≠ 0 := Nat.ne_of_gt hpos
    have hnext : ∀ {s'}, (j.lits = [] ∧ s' = s1 ∨ j.lits ≠ [] ∧ fetchLit a 2 (pc + 4#64 + 4#64) s1 = .ok (lit, s')) → issueWord s1 = exec k s' :=
      fun hl => hissue (nextInstr_rep_repeat hc h0 h1 hr (withLit_eq hj0 hj hlen hl) hk)
    refine ⟨fun hl => hnext (.inl ⟨hl, rfl⟩), fun hl hkept => hnext (.inr ⟨hl, fetchLit_rep_kept hr hkept⟩), fun hl hnone hf2 hlit => hnext (.inr ⟨hl, ?_⟩)⟩
    rw [hlit, BitVec.add_assoc]
    exact fetchLit_rep_first hr hnone hf2.fetchWord

end Sys2Proof.Machine
end

section
namespace Sys2Proof.Machine

open Sys2Proof

/-! Every word's meaning is an issue of what the word shows (02 R43, R48, R58; 11 R324). -/

/-- A word that a control core may issue, by its major; DARRIVE is none of them (11 R324). -/
def forControl : Instr → Bool
  | .darrive .. => false
  | i => i.major.any fun m => ctlMajors.contains m.toNat

/-- What a word shows at its issue is what the tables say of its instruction. -/
structure Shows (w : WordInfo) (i : Instr) (k : StreamKind) : Prop where
  guard : w.guard = i.guard
  roles : w.roles = i.roles
  access : w.access = i.inStream .access
  execute : w.execute = i.inStream .execute
  ctl : w.ctl = forControl i
  shape : w.shape = i.shapeOk k

/-- The agent at hand waits for what it waited for, or for nothing. -/
def KeepsWait (s t : State) : Prop := (t.task t.cur).a.wait = (s.task s.cur).a.wait ∨ (t.task t.cur).a.wait = none

/-- The instruction issues `w`. DARRIVE and SYSCALL act besides where their issue begins a wait. -/
structure IssuesAs (i : Instr) (s : State) (w : WordInfo) (body : Ctx → State → Except Stop State) : Prop where
  shows : Shows w i s.cur.kind
  runs : ∀ t, issue w s body = .next t → KeepsWait s t → exec i s = .next t

theorem issuesAs_of_eq {i : Instr} {s : State} {w : WordInfo} {body : Ctx → State → Except Stop State} (h : exec i s = issue w s body)
    (hw : Shows w i s.cur.kind) : ∃ w body, IssuesAs i s w body := ⟨w, body, hw, fun _ ht _ => h.trans ht⟩

theorem phaseWait_keeps {s t : State} (h : KeepsWait s t) (hs : phaseWait (s.task s.cur) = none) : phaseWait (t.task t.cur) = none := by
  unfold phaseWait at *
  rcases h with h | h
  · rwa [h]
  · rw [h]

theorem heldSlot_keeps {s t : State} (h : KeepsWait s t) (hs : heldSlot (s.task s.cur) = none) : heldSlot (t.task t.cur) = none := by
  unfold heldSlot at *
  rcases h with h | h
  · rwa [h]
  · rw [h]

theorem execDarrive_of_keeps {g : Guard} {d : SDst} {x : Scalar} {s t : State} (ht : issueDarrive g d x s = .next t) (h : KeepsWait s t) :
    execDarrive g d x s = .next t := by
  simp only [execDarrive, ht]
  cases hs : phaseWait (s.task s.cur) with
  | none => rw [phaseWait_keeps h hs]
  | some _ => rfl

theorem execSyscall_of_keeps {g : Guard} {d : SDst} {x y : Scalar} {s t : State} (ht : issueSyscall g d x y s = .next t) (h : KeepsWait s t) :
    execSyscall g d x y s = .next t := by
  simp only [execSyscall, ht]
  cases hs : heldSlot (s.task s.cur) with
  | none => rw [heldSlot_keeps h hs]
  | some _ => rfl

theorem execBranch_of_unpredicted {g : Guard} {s : State} (off : BitVec 19) (h : predicts g s = none) :
    execBranch g off s = issue (both g []) s fun c s => jumpTo c (offsetTarget c.pc off) 2 s := by
  simp only [execBranch, h]

theorem execAcas_issues (g : Guard) (o : MemOrder) (c : Scope) (wide : Bool) (d : SDst) (x : Scalar) (s : State) :
    ∃ w body, IssuesAs (.acas g o c wide d x) s w body := by
  cases d
  case s n => exact issuesAs_of_eq (i := .acas g o c wide (.s n) x) rfl ⟨rfl, rfl, rfl, rfl, rfl, Bool.and_comm ..⟩
  all_goals exact issuesAs_of_eq (i := .acas g o c wide _ x) rfl ⟨rfl, rfl, rfl, rfl, rfl, (Bool.and_false _).symm⟩

theorem releases_eq (o : MemOrder) : releases o = (o == .release || o == .acqrel) := by cases o <;> rfl

theorem exec_issues {i : Instr} {m : BitVec 6} {s : State} (hm : i.major = some m) (hrep : m ≠ 0x3F#6)
    (hb : ∀ g off, i = .branch g off → predicts g s = none) : ∃ w body, IssuesAs i s w body := by
  cases i <;> cases hm
  case rep => exact absurd rfl hrep
  case branch g off => exact issuesAs_of_eq (execBranch_of_unpredicted off (hb g off rfl)) ⟨rfl, rfl, rfl, rfl, rfl, rfl⟩
  case acas => exact execAcas_issues ..
  case publish g o c x => exact issuesAs_of_eq (i := .publish g o c x) rfl ⟨rfl, rfl, rfl, rfl, rfl, releases_eq o⟩
  case darrive => exact ⟨_, _, ⟨rfl, rfl, rfl, rfl, rfl, rfl⟩, fun t => execDarrive_of_keeps⟩
  case syscall => exact ⟨_, _, ⟨rfl, rfl, rfl, rfl, rfl, rfl⟩, fun t => execSyscall_of_keeps⟩
  all_goals exact ⟨_, _, ⟨rfl, rfl, rfl, rfl, rfl, rfl⟩, fun t ht _ => ht⟩

end Sys2Proof.Machine
end

section
namespace Sys2Proof.Machine

open Sys2Proof

variable {a : Agent} {s : State} {i : Instr} {w : WordInfo} {body : Ctx → State → Except Stop State}

/-! Legality (02 R60-R62; 11 R324). -/

theorem Shows.legal_core {k : StreamKind} (h : Shows w i k) : w.legal k false = i.legal k := by
  cases k
  · simp only [WordInfo.legal, Instr.legal, h.roles, h.shape, h.access, Bool.not_false, Bool.true_or, Bool.and_true, Bool.false_eq_true, if_false]
  · simp only [WordInfo.legal, Instr.legal, h.roles, h.shape, h.execute, Bool.not_false, Bool.true_or, Bool.and_true, Bool.false_eq_true, if_false]

theorem Shows.legal_control (h : Shows w i .access) : w.legal .access true =
    (i.inStream .access && forControl i && i.roles.all Role.okCtl && noRepeat (i.roles.filterMap Role.queue?) && i.shapeOk .access) := by
  simp only [WordInfo.legal, h.roles, h.shape, h.access, h.ctl, Bool.not_true, Bool.false_or, if_true]

/-- The fields that a control core has: registers and predicates. -/
def isScalarField : Role → Bool
  | .src _ | .dst _ | .rw _ | .psrc _ | .pdst _ => true
  | _ => false

theorem okCtl_eq (r : Role) : r.okCtl = (r.queue?.isNone && isScalarField r) := by cases r <;> rfl

theorem isScalarField_of_forControl (h : forControl i = true) : ∀ r ∈ i.roles, isScalarField r = true := by
  have hall : (!forControl i || i.roles.all isScalarField) = true := by cases i <;> rfl
  simpa [h] using hall

theorem forControl_eq_true : forControl i = true ↔ (∃ m, i.major = some m ∧ m.toNat ∈ ctlMajors) ∧ ∀ g d x, i ≠ .darrive g d x := by
  by_cases hd : ∃ g d x, i = .darrive g d x
  · obtain ⟨g, d, x, rfl⟩ := hd
    simp [forControl]
  · have hne : ∀ g d x, i ≠ .darrive g d x := fun g d x h => hd ⟨g, d, x, h⟩
    have heq : forControl i = i.major.any fun m => ctlMajors.contains m.toNat := by
      cases i
      case darrive g d x => exact absurd rfl (hne g d x)
      all_goals rfl
    simp [heq, hne, Option.any_eq_true]

/-! A trap leaves the cores and the agent at hand as they are. -/

theorem logTrap_same (p : Nat) (r : TrapRecord) (s : State) :
    (logTrap p r s).cores = s.cores ∧ (logTrap p r s).clus = s.clus ∧ (logTrap p r s).cur = s.cur := by
  simp [logTrap, apply_ite State.cores, apply_ite State.clus, apply_ite State.cur]

theorem logMachine_same (p : Nat) (i : TrapInfo) (s : State) :
    (logMachine p i s).cores = s.cores ∧ (logMachine p i s).clus = s.clus ∧ (logMachine p i s).cur = s.cur := by
  unfold logMachine
  split <;> simp

theorem takeTrap_same (a : Agent) (i : TrapInfo) (home : Bool) (pc : Option W64) (s : State) :
    (takeTrap a i home pc s).cores = s.cores ∧ (takeTrap a i home pc s).clus = s.clus ∧ (takeTrap a i home pc s).cur = s.cur := by
  cases hp : s.partOf? a.cluster with
  | none => simp [takeTrap, hp]
  | some p =>
    cases hw : i.wait
    · simp [takeTrap, raiseTrap, hp, hw, stopStream, startDiscard, logMachine_same, logTrap_same]
    · simp [takeTrap, hp, hw]

theorem takeTrap_keepsWait (a : Agent) (i : TrapInfo) (home : Bool) (pc : Option W64) (s : State) : KeepsWait s (takeTrap a i home pc s) := by
  obtain ⟨hcores, hclus, hcur⟩ := takeTrap_same a i home pc s
  exact .inl (by rw [hcur, State.task_congr hcores hclus])

/-! Words that are not fetched, not decoded or not legal (02 R60-R62). -/

theorem Issues.cellFree (h : Issues a s) : (a.kind == .access && (s.task a).a.loads.any (·.waiting)) = false := by
  cases hk : a.kind with
  | access => simpa using h.noCell hk
  | execute => rfl

/-- A word that is not legal where it stands traps, before its guard and its operands are looked at. -/
theorem IssuesAs.exec_of_illegal (h : Issues a s) (hi : IssuesAs i s w body) (hl : w.legal a.kind a.core?.isNone = false) :
    exec i s = .next (takeTrap a { code := .illegal } false none s) := by
  refine hi.runs _ ?_ (takeTrap_keepsWait ..)
  obtain rfl := h.cur
  simp only [issue, h.live, issueLive, h.cellFree, hl, h.stopStep_trap, Bool.false_eq_true, Bool.not_false, if_false, if_true]

theorem Agent.kind_of_core?_none (h : a.core? = none) : a.kind = .access := by
  cases a
  case control => rfl
  all_goals cases h

theorem illegal_for_control {k : StreamKind} (hk : k = .access) (hw : Shows w i k)
    (h : i.inStream .access = false ∨ (∀ m, i.major = some m → m.toNat ∉ ctlMajors) ∨ (∃ g d x, i = .darrive g d x) ∨ ∃ r ∈ i.roles, r.queue?.isSome = true) :
    w.legal k true = false := by
  subst hk
  rw [hw.legal_control]
  rcases h with hin | hmajor | ⟨g, d, x, rfl⟩ | ⟨r, hr, hq⟩
  · simp [hin]
  · have hf : forControl i = false := by
      rw [← Bool.not_eq_true, forControl_eq_true]
      rintro ⟨⟨m, hm, hmem⟩, -⟩
      exact hmajor m hm hmem
    simp [hf]
  · simp [forControl]
  · have hall : i.roles.all Role.okCtl = false := by
      rw [List.all_eq_false]
      refine ⟨r, hr, ?_⟩
      rw [okCtl_eq, ← Option.not_isSome, hq]
      simp
    simp [hall]

theorem branch_legal (g : Guard) (off : BitVec 19) (k : StreamKind) : (Instr.branch g off).legal k = true := by cases k <;> rfl

/-- B is a word of control cores. -/
theorem branch_for_control {g : Guard} {off : BitVec 19}
    (h : (Instr.branch g off).inStream .access = false ∨ (∀ m, (Instr.branch g off).major = some m → m.toNat ∉ ctlMajors) ∨
      (∃ h d x, Instr.branch g off = .darrive h d x) ∨ ∃ r ∈ (Instr.branch g off).roles, r.queue?.isSome = true) : False := by
  rcases h with hin | hmajor | ⟨_, _, _, h⟩ | ⟨r, hr, -⟩
  · cases hin
  · exact hmajor _ rfl (by decide)
  · cases h
  · cases hr

theorem legal_for_control {k : StreamKind} (hk : k = .access) (hw : Shows w i k)
    (h : i.inStream .access = true ∧ (∃ m, i.major = some m ∧ m.toNat ∈ ctlMajors) ∧ (∀ g d x, i ≠ .darrive g d x) ∧ (∀ r ∈ i.roles, r.queue? = none) ∧
      i.shapeOk .access = true) : w.legal k true = true := by
  subst hk
  obtain ⟨hin, hmajor, hne, hq, hshape⟩ := h
  have hf : forControl i = true := forControl_eq_true.2 ⟨hmajor, hne⟩
  have hall : i.roles.all Role.okCtl = true := List.all_eq_true.2 fun r hr => by rw [okCtl_eq, hq r hr, isScalarField_of_forControl hf r hr]; rfl
  have hqueues : i.roles.filterMap Role.queue? = [] := List.filterMap_eq_nil_iff.2 hq
  rw [hw.legal_control, hin, hf, hall, hqueues, hshape]
  rfl

/-- Settles O21: what stops the fetch stops the step, and every word's legality is looked at first at its issue. -/
theorem unfetchedWordsTrap : Obligations.UnfetchedWordsTrap := by
  unfold Obligations.UnfetchedWordsTrap
  refine ⟨?fetch, ?legality⟩
  case fetch =>
    intro s a old late r s1 pc hagenda hhot h
    have htrap : ∀ {t : TrapInfo}, fetchBare a 0 pc s1 = .error (.trap t) → step s = .next (takeTrap a t t.home none s1) := fun hf => by
      rw [step_issue hagenda h.live hhot]
      exact h.issueWord_trap (nextInstr_of_fetch_error hf)
    exact ⟨fun e he => htrap (fetchBare_of_untranslated he), fun tgt ht hl => htrap (fetchBare_of_no_memory ht hl),
      fun b hf hr => htrap (fetchBare_of_refused hf hr)⟩
  case legality =>
    intro a s i hword hrep h hcore hctl
    obtain ⟨m, hm⟩ := Option.isSome_iff_exists.1 ((Instr.isWord_eq_isSome i).symm.trans hword)
    have hbranch : ∀ g off, i ≠ .branch g off := by
      rintro g off rfl
      cases hc : a.core? with
      | some n => exact absurd (hcore (by simp [hc])) (by simp [branch_legal])
      | none => exact branch_for_control (hctl hc)
    obtain ⟨w, body, hi⟩ := exec_issues (s := s) hm (fun hm' => hrep (hm' ▸ hm)) fun g off hb => absurd hb (hbranch g off)
    have hw : Shows w i a.kind := h.cur ▸ hi.shows
    refine hi.exec_of_illegal h ?_
    cases hc : a.core? with
    | some n => exact hw.legal_core.trans (hcore (by simp [hc]))
    | none => exact illegal_for_control (Agent.kind_of_core?_none hc) hw (hctl hc)

end Sys2Proof.Machine
end

section
namespace Sys2Proof.Machine

open Sys2Proof

variable {a : Agent} {s : State} {i : Instr} {w : WordInfo} {body : Ctx → State → Except Stop State}

/-! Guards (02 R43-R45, R51). -/

/-- A predicate that has landed is read as it is, and no free value is drawn. -/
theorem readPred_of_landed {c : Ctx} {p : Pred} (h : predLanded c.a (s.task c.a) p) : readPred c p s = (predVal c.a (s.task c.a) p, s) := by
  obtain ⟨a, pc, next, seq⟩ := c
  cases a with
  | access n => rfl
  | control n => rfl
  | execute n =>
    by_cases hp : p.val < 8
    · simp [readPred, predVal, Agent.kind, hp]
    · have he : early (s.task (.execute n)) (keyPred p) (s.task (.execute n)).x.clk = false := by simpa [predLanded, Agent.kind, hp] using h
      simp [readPred, predVal, Agent.kind, hp, he]

theorem guardOn_of_guardOff {c : Ctx} {g : Guard} (h : guardOff c.a (s.task c.a) g) : guardOn c g s = (false, s) := by
  cases g with
  | always => exact h.elim
  | onTrue p => rw [guardOn, readPred_of_landed h.1, h.2]
  | onFalse p => rw [guardOn, readPred_of_landed h.1, h.2]; rfl

/-- A word's issue takes its guard, its roles and its mask. -/
theorem atIssue_congr {v : WordInfo} (hg : w.guard = v.guard) (hr : w.roles = v.roles) (hm : w.masked = v.masked) : atIssue a w s = atIssue a v s := by
  cases w
  cases v
  cases hg
  cases hr
  cases hm
  rfl

theorem rowless_skipped (i : Instr) : rowless (skipped i) = true := by
  rw [rowless, Bool.and_eq_true]
  refine ⟨rfl, List.all_eq_true.2 fun r hr => ?_⟩
  have hlit : r.lit?.isSome = true := (List.mem_filter.1 hr).2
  cases r with
  | src x => rfl
  | _ => cases hlit

theorem stepPast_execute_a (n : Nat) (t : Task) : (stepPast .execute n t).a = t.a := by
  unfold stepPast
  split
  · rfl
  · split <;> rfl

theorem settled_entered_wait (w : WordInfo) (a : Agent) (t : Task) :
    (settled a (entered w a t)).a.wait = t.a.wait ∨ (settled a (entered w a t)).a.wait = none := by
  cases a with
  | access n => exact .inr rfl
  | control n => exact .inr rfl
  | execute n =>
    have hstep : (stepPast .execute w.words (landReads (.execute n) w t)).a = t.a := stepPast_execute_a ..
    exact .inl (congrArg AccessSide.wait hstep)

theorem keepsWait_skipped (hc : s.cur = a) : KeepsWait s (afterIssue a (atIssue a (skipped i) s)) := by
  subst hc
  unfold KeepsWait
  rw [afterIssue_cur, atIssue_cur, afterIssue_task, atIssue_task_of_rowless (.inr (rowless_skipped i))]
  exact settled_entered_wait ..

/-- A legal word whose guard is off issues as what is left of it. -/
theorem IssuesAs.exec_of_guardOff (h : Issues a s) (hi : IssuesAs i s w body) (hl : w.legal a.kind a.core?.isNone = true)
    (hg : guardStop a i.guard s = .ok ()) (hoff : guardOff a (s.task a) i.guard) : exec i s = .next (afterIssue a (atIssue a (skipped i) s)) := by
  refine hi.runs _ ?_ (keepsWait_skipped h.cur)
  have hw : Shows w i a.kind := h.cur ▸ hi.shows
  have hon : guardOn (ctxOf a w s) w.guard s = (false, s) := guardOn_of_guardOff (c := ctxOf a w s) (hw.guard ▸ hoff)
  rw [← hw.guard] at hg
  have hw' : atIssue a { w with roles := w.roles.filter fun r => r.lit?.isSome, masked := false } s = atIssue a (skipped i) s :=
    atIssue_congr hw.guard (congrArg (List.filter fun r => r.lit?.isSome) hw.roles) rfl
  obtain rfl := h.cur
  simp only [issue, h.live, issueLive, h.cellFree, hl, h.onArm, hg, hon, hw', Bool.false_and, Bool.false_eq_true, Bool.not_false, Bool.not_true, if_false, if_true]

/-- Settles O22: what is left of a word whose guard is off is its guard and its literal, and its issue moves its stream past it. -/
theorem guardedOffWords : Obligations.GuardedOffWords := by
  unfold Obligations.GuardedOffWords
  intro a s i hword hrep h hcore hctl hg hp hoff
  obtain ⟨m, hm⟩ := Option.isSome_iff_exists.1 ((Instr.isWord_eq_isSome i).symm.trans hword)
  obtain ⟨w, body, hi⟩ := exec_issues (s := s) hm (fun hm' => hrep (hm' ▸ hm)) fun g off hb => by subst hb; exact hp
  have hw : Shows w i a.kind := h.cur ▸ hi.shows
  have hl : w.legal a.kind a.core?.isNone = true := by
    cases hc : a.core? with
    | some n => exact hw.legal_core.trans (hcore (by simp [hc]))
    | none => exact legal_for_control (Agent.kind_of_core?_none hc) hw (hctl hc)
  exact ⟨_, hi.exec_of_guardOff h hl hg hoff, by rw [afterIssue_task, atIssue_task_of_rowless (.inr (rowless_skipped i))]; rfl,
    (sameOutside_atIssue ..).trans (sameOutside_afterIssue ..), (sameCores_atIssue ..).trans (sameCores_afterIssue ..)⟩

end Sys2Proof.Machine
end

section
namespace Sys2Proof.Machine

open Sys2Proof

variable {c : Nat} {s : State} {p : Pred}

/-! PQPUSH of a predicate that may be read before its bound (02 R51). -/

/-- The word of PQPUSH with the guard `always`. -/
abbrev pushWord (p : Pred) : WordInfo := exe .always [.psrc p]

/-! At its issue a word of the execute stream keeps its task's access side, its clock, and which reads are early. -/

theorem entered_execute_a (w : WordInfo) (c : Nat) (t : Task) : (entered w (.execute c) t).a = t.a := stepPast_execute_a ..

theorem stepPast_execute_early (n k at_ : Nat) (t : Task) : early (stepPast .execute n t) k at_ = early t k at_ := by
  unfold stepPast
  split
  · rfl
  · split <;> rfl

theorem stepPast_execute_clk (n : Nat) (t : Task) : (stepPast .execute n t).x.clk = t.x.clk := by
  unfold stepPast
  split
  · rfl
  · split <;> rfl

theorem entered_execute_clk (w : WordInfo) (c : Nat) (t : Task) : (entered w (.execute c) t).x.clk = t.x.clk := stepPast_execute_clk ..

theorem entered_execute_early (w : WordInfo) (c k : Nat) (t : Task) : early (entered w (.execute c) t) k t.x.clk = early t k t.x.clk :=
  (stepPast_execute_early ..).trans (early_landKeys _ _ _ (Nat.le_refl _))

/-- The bit that PQPUSH pushes. -/
def pushedBit (c : Nat) (p : Pred) (s : State) : Bool :=
  if early (s.task (.execute c)) (keyPred p) (s.task (.execute c)).x.clk then Config.freeBit (atIssue (.execute c) (pushWord p) s).freeCtr 0
  else (s.task (.execute c)).preds.getLsbD p.val

theorem atIssue_pushWord_task (c : Nat) (p : Pred) (s : State) :
    (atIssue (.execute c) (pushWord p) s).task (.execute c) = entered (pushWord p) (.execute c) (s.task (.execute c)) :=
  atIssue_task_of_rowless (.inr rfl) s

theorem readPred_atIssue (hp : 8 ≤ p.val) : ∃ s', readPred (ctxOf (.execute c) (pushWord p) s) p (atIssue (.execute c) (pushWord p) s) = (pushedBit c p s, s') ∧
    s'.task (.execute c) = entered (pushWord p) (.execute c) (s.task (.execute c)) := by
  have hlt : ¬ p.val < 8 := Nat.not_lt.2 hp
  have ht := atIssue_pushWord_task c p s
  unfold pushedBit
  simp only [readPred, ctxOf, ht, hlt, if_false, entered_execute_clk, entered_execute_early, entered_preds]
  split
  · exact ⟨_, rfl, ht⟩
  · exact ⟨_, rfl, ht⟩

theorem pqpush_pushes (h : Ready (pushWord p) (.execute c) s) (hp : 8 ≤ p.val) (hend : (s.task (.execute c)).a.ended = false)
    (hroom : (s.task (.execute c)).q.pq.length < 32) : ∃ t, exec (.pqpush .always p) s = .next t ∧
      (t.task (.execute c)).q = { (s.task (.execute c)).q with pq := (s.task (.execute c)).q.pq ++ [pushedBit c p s] } ∧
      (t.task (.execute c)).regs = (s.task (.execute c)).regs := by
  obtain ⟨s', hread, ht⟩ := readPred_atIssue (c := c) (s := s) hp
  refine ⟨_, issue_ready h (s2 := s'.modTask (.execute c) fun t => { t with q := { t.q with pq := t.q.pq ++ [pushedBit c p s] } }) ?_, ?_, ?_⟩
  · have hctx : (ctxOf (.execute c) (pushWord p) s).a = .execute c := rfl
    simp only [hread, hctx, atIssue_pushWord_task, entered_execute_a, entered_q, hend, pushRoom, hroom]
    simp
  · rw [afterIssue_task]
    simp [settled, ht, entered_q]
  · rw [afterIssue_task]
    simp [settled, ht, entered_regs]

/-- Counting a freeze draws one free number. -/
theorem atIssue_freeCtr (c : Nat) (w : WordInfo) (s : State) : (atIssue (.execute c) w s).freeCtr =
    if freezes (.execute c) w (countRendezvous (.execute c) w s) then s.freeCtr + 1 else s.freeCtr := by
  have hr : (countRendezvous (.execute c) w s).freeCtr = s.freeCtr := by
    unfold countRendezvous
    split
    · split <;> simp
    · rfl
  rw [atIssue_eq, State.setTask_freeCtr]
  unfold counting countFreeze
  split
  · exact congrArg (· + 1) hr
  · exact hr

/-- A task with p8 before its bound, in a table of bounds that lists p8 once more, with a bound that has elapsed and freezes issue. -/
def twiceTask : Task := { Task.empty with x := { Task.empty.x with clk := 4, ready := [(keyPred 8, 5), (keyPred 8, 3)] } }

/-- Partition 0 has cluster 0 and runs a launch. -/
def twicePart : Part := { Part.reset with pstate := .active, launch := some { Launch.empty with phase := .active }, regs := { PartRegs.reset with pclus := 1#192 } }

/-- Core 0 runs the task, whose execute stream has the turn; the next free value has the number `n`. -/
def twiceState (n : Nat) : State :=
  { State.reset with
    freeCtr := n, cur := .execute 0, parts := [(0, twicePart)]
    cores := [(0, { Core.reset 0 with ctx0 := { state := .running, task := twiceTask, saved := none } })] }

theorem live_numbered (s : State) (n : Nat) (a : Agent) : State.live { s with freeCtr := n } a = s.live a := by cases a <;> rfl

theorem twiceState_ready (n : Nat) : Ready (pushWord 8) (.execute 0) (twiceState n) :=
  { cur := rfl, live := (live_numbered (twiceState 0) n _).trans (by decide +kernel), noCell := rfl, legal := by decide, arm := rfl, guard := rfl, on := rfl, roles := rfl }

theorem pushedBit_twiceState (n : Nat) : pushedBit 0 8 (twiceState n) = Config.freeBit (n + 1) 0 := rfl

/-- What O23 comes to: free bits of successive numbers are equal, which is neither proved nor refuted, `Config.freeBit` being opaque.
In a state whose table of bounds lists a predicate twice, which O23 does not rule out though `bound` makes no such table, an early read freezes issue for the second entry,
and counting that freeze draws the number that O23 gives to the read. -/
theorem earlyReads_iff : Obligations.EarlyReads ↔ ∀ n, Config.freeBit (n + 1) 0 = Config.freeBit n 0 := by
  unfold Obligations.EarlyReads
  constructor
  · intro h n
    have hroom : ((twiceState n).task (.execute 0)).q.pq.length < 32 := (by decide : 0 < 32)
    obtain ⟨hearly, -⟩ := h 0 (twiceState n) 8 (twiceState_ready n) (Nat.le_refl _) rfl hroom
    obtain ⟨t, ht, hq, -⟩ := hearly rfl (by decide : 4 < 5)
    obtain ⟨t', ht', hq', -⟩ := pqpush_pushes (twiceState_ready n) (Nat.le_refl _) rfl hroom
    obtain rfl : t = t' := Host.Outcome.next.inj (ht.symm.trans ht')
    have hpq := congrArg Queues.pq (hq.symm.trans hq')
    rw [pushedBit_twiceState] at hpq
    exact (List.singleton_inj.1 (List.append_cancel_left hpq)).symm
  · intro h c s p a w u Pushes hr hp hend hroom
    have hpush := pqpush_pushes hr hp hend hroom
    refine ⟨fun hb hlt => ?_, fun hlate => ?_⟩
    · have hbit : pushedBit c p s = Config.freeBit s.freeCtr 0 := by
        have he : early u (keyPred p) u.x.clk = true := by simp [early, hb, hlt]
        rw [pushedBit, if_pos he, atIssue_freeCtr]
        split
        · exact h _
        · rfl
      exact hbit ▸ hpush
    · have hbit : pushedBit c p s = u.preds.getLsbD p.val := by
        have he : early u (keyPred p) u.x.clk = false := by
          rcases hlate with hb | hle
          · simp [early, hb]
          · simp [early, Nat.not_lt.2 hle]
        exact if_neg (by rw [he]; exact Bool.false_ne_true)
      exact hbit ▸ hpush

end Sys2Proof.Machine
end

section
namespace Sys2Proof.Machine

/-! The values of the integer words, as their tables give them (04 R99-R102). -/

theorem add_eq_ofNat (a b : W64) : a + b = BitVec.ofNat 64 (a.toNat + b.toNat) := BitVec.eq_of_toNat_eq (by simp)

theorem sub_eq_ofInt (a b : W64) : a - b = BitVec.ofInt 64 (a.toNat - b.toNat) := by
  rw [Int.sub_eq_add_neg, BitVec.ofInt_add, BitVec.ofInt_neg, BitVec.ofInt_natCast, BitVec.ofInt_natCast, BitVec.ofNat_toNat, BitVec.ofNat_toNat]
  simp [BitVec.sub_eq_add_neg]

theorem mul_eq_ofNat (a b : W64) : a * b = BitVec.ofNat 64 (a.toNat * b.toNat) := BitVec.eq_of_toNat_eq (by simp)

theorem aluShl_eq (a b : W64) : aluShl a b = BitVec.ofNat 64 (a.toNat * 2 ^ (b.toNat % 64)) :=
  BitVec.eq_of_toNat_eq (by simp [aluShl, shiftCount, Nat.shiftLeft_eq])

theorem aluShr_eq (a b : W64) : aluShr a b = BitVec.ofNat 64 (a.toNat / 2 ^ (b.toNat % 64)) := by
  have h : a.toNat / 2 ^ (b.toNat % 64) < 2 ^ 64 := Nat.lt_of_le_of_lt (Nat.div_le_self ..) a.isLt
  apply BitVec.eq_of_toNat_eq
  rw [BitVec.toNat_ofNat, Nat.mod_eq_of_lt h, aluShr, BitVec.toNat_ushiftRight, Nat.shiftRight_eq_div_pow, shiftCount]

theorem aluSar_eq (a b : W64) : aluSar a b = BitVec.ofInt 64 (Int.fdiv a.toInt (2 ^ (b.toNat % 64))) := by
  rw [Int.fdiv_eq_ediv_of_nonneg _ (by positivity)]
  simp [aluSar, shiftCount, BitVec.sshiftRight_eq, Int.shiftRight_eq_div_pow]

theorem aluMin_eq (a b : W64) : aluMin a b = BitVec.ofInt 64 (min a.toInt b.toInt) := by
  unfold aluMin
  split
  · rw [min_eq_left ‹_›, BitVec.ofInt_toInt]
  · rw [min_eq_right (by omega), BitVec.ofInt_toInt]

theorem aluMax_eq (a b : W64) : aluMax a b = BitVec.ofInt 64 (max a.toInt b.toInt) := by
  unfold aluMax
  split
  · rw [max_eq_right ‹_›, BitVec.ofInt_toInt]
  · rw [max_eq_left (by omega), BitVec.ofInt_toInt]

theorem aluMinu_eq (a b : W64) : aluMinu a b = BitVec.ofNat 64 (min a.toNat b.toNat) := by
  unfold aluMinu
  split
  · rw [min_eq_left ‹_›, BitVec.ofNat_toNat, BitVec.setWidth_eq]
  · rw [min_eq_right (by omega), BitVec.ofNat_toNat, BitVec.setWidth_eq]

theorem aluMaxu_eq (a b : W64) : aluMaxu a b = BitVec.ofNat 64 (max a.toNat b.toNat) := by
  unfold aluMaxu
  split
  · rw [max_eq_right ‹_›, BitVec.ofNat_toNat, BitVec.setWidth_eq]
  · rw [max_eq_left (by omega), BitVec.ofNat_toNat, BitVec.setWidth_eq]

/-- The bits that leave a rotated word at its top come back at its bottom, where the shift has left zeros. -/
theorem aluRol_eq (a b : W64) : aluRol a b = BitVec.ofNat 64 (a.toNat * 2 ^ (b.toNat % 64) + a.toNat / 2 ^ (64 - b.toNat % 64)) := by
  have hzero : a <<< (b.toNat % 64) &&& a >>> (64 - b.toNat % 64) = 0#64 := by
    ext i hi
    simp only [BitVec.getElem_and, BitVec.getElem_shiftLeft, BitVec.getElem_ushiftRight, BitVec.getElem_zero]
    by_cases h : i < b.toNat % 64
    · simp [h]
    · rw [BitVec.getLsbD_of_ge _ _ (by omega), Bool.and_false]
  rw [aluRol, shiftCount, BitVec.rotateLeft_def, Nat.mod_mod, ← BitVec.add_eq_or_of_and_eq_zero _ _ hzero]
  apply BitVec.eq_of_toNat_eq
  simp [Nat.shiftLeft_eq, Nat.shiftRight_eq_div_pow]

theorem aluRems_eq (a b : W64) : aluRems a b = if b = 0#64 then a else BitVec.ofInt 64 (a.toInt - b.toInt * Int.tdiv a.toInt b.toInt) := by
  rw [aluRems, Int.tmod_def]

theorem aluRemu_eq (a b : W64) : aluRemu a b = if b = 0#64 then a else BitVec.ofNat 64 (a.toNat - b.toNat * (a.toNat / b.toNat)) := by
  rw [aluRemu, Nat.mod_eq_sub]

theorem add_immS (a : W64) (i : BitVec 6) : a + immS i = BitVec.ofInt 64 (a.toNat + i.toInt) := by
  rw [BitVec.ofInt_add, BitVec.ofInt_natCast, BitVec.ofNat_toNat, BitVec.setWidth_eq]
  rfl

theorem toNat_immU_mod (i : BitVec 6) : (immU i).toNat % 64 = i.toNat := by
  have h : i.toNat < 2 ^ 6 := i.isLt
  simp only [immU, BitVec.truncate_eq_setWidth, BitVec.toNat_setWidth]
  omega

/-! Counts of bits. -/

theorem leadingZeros_le (n x : Nat) : leadingZeros n x ≤ n := by
  unfold leadingZeros
  split <;> omega

theorem log2_of_leadingZeros {n x : Nat} (hx : x ≠ 0) (h : x < 2 ^ n) : x.log2 < n ∧ leadingZeros n x = n - 1 - x.log2 :=
  ⟨(Nat.log2_lt hx).2 h, if_neg hx⟩

theorem testBit_of_leadingZeros_le {n x j : Nat} (h : x < 2 ^ n) (hj : n - leadingZeros n x ≤ j) : x.testBit j = false := by
  by_cases hx : x = 0
  · rw [hx, Nat.zero_testBit]
  · obtain ⟨hlog, hz⟩ := log2_of_leadingZeros hx h
    exact Nat.testBit_lt_two_pow (Nat.lt_of_lt_of_le Nat.lt_log2_self (Nat.pow_le_pow_right (by decide) (by omega)))

theorem testBit_leadingZeros {n x : Nat} (h : x < 2 ^ n) (hz : leadingZeros n x < n) : x.testBit (n - 1 - leadingZeros n x) = true := by
  have hx : x ≠ 0 := by
    rintro rfl
    exact Nat.lt_irrefl _ hz
  obtain ⟨hlog, hz⟩ := log2_of_leadingZeros hx h
  rw [show n - 1 - leadingZeros n x = x.log2 by omega]
  exact Nat.testBit_log2 hx

theorem trailingZeros_spec (n : Nat) : ∀ x, trailingZeros n x ≤ n ∧ (∀ j, j < trailingZeros n x → x.testBit j = false) ∧
    (trailingZeros n x < n → x.testBit (trailingZeros n x) = true) := by
  induction n with
  | zero => simp [trailingZeros]
  | succ n ih =>
    intro x
    obtain ⟨hle, hlow, htop⟩ := ih (x / 2)
    by_cases hx : x % 2 = 1
    · simp [trailingZeros, hx, Nat.testBit_zero]
    · rw [trailingZeros, if_neg hx, Nat.add_comm 1]
      refine ⟨Nat.succ_le_succ hle, fun j hj => ?_, fun h => ?_⟩
      · cases j with
        | zero => simp [Nat.testBit_zero, hx]
        | succ j => rw [Nat.testBit_succ, hlow j (Nat.lt_of_succ_lt_succ hj)]
      · rw [Nat.testBit_succ, htop (Nat.lt_of_succ_lt_succ h)]

theorem popcount_eq_countP (n : Nat) : ∀ x, popcount n x = (List.range n).countP fun j => x.testBit j := by
  induction n with
  | zero => intro x; rfl
  | succ n ih =>
    intro x
    rw [popcount, ih, List.range_succ_eq_map, List.countP_cons, List.countP_map, Nat.add_comm]
    have hbit : x % 2 = if x.testBit 0 = true then 1 else 0 := by
      rw [Nat.testBit_zero]
      rcases Nat.mod_two_eq_zero_or_one x with h | h <;> simp [h]
    rw [hbit]
    congr 2
    funext j
    simp [Nat.testBit_succ]

/-! Bytes. -/

/-- Byte `k` of the value of bytes is the byte that stands there. -/
theorem ofNat_leValue_div (k : Nat) : ∀ bs : List Byte, BitVec.ofNat 8 (leValue bs / 256 ^ k) = bs.getD k 0#8 := by
  induction k with
  | zero =>
    intro bs
    cases bs with
    | nil => rfl
    | cons b bs =>
      apply BitVec.eq_of_toNat_eq
      have := b.isLt
      simp only [leValue, pow_zero, Nat.div_one, BitVec.toNat_ofNat, List.getD_cons_zero]
      omega
  | succ k ih =>
    intro bs
    cases bs with
    | nil => simp [leValue]
    | cons b bs =>
      have hb : (b.toNat + 256 * leValue bs) / 256 = leValue bs := by have := b.isLt; omega
      rw [leValue, Nat.pow_succ', ← Nat.div_div_eq_div_mul, hb, ih, List.getD_cons_succ]

theorem getD_leBytes {n k : Nat} (hk : k < n) : ∀ x, (leBytes n x).getD k 0#8 = BitVec.ofNat 8 (x / 256 ^ k) := by
  induction n generalizing k with
  | zero => omega
  | succ n ih =>
    intro x
    cases k with
    | zero => simp [leBytes]
    | succ k => rw [leBytes, List.getD_cons_succ, ih (Nat.lt_of_succ_lt_succ hk), Nat.pow_succ', Nat.div_div_eq_div_mul]

theorem length_leBytes (n : Nat) : ∀ x, (leBytes n x).length = n := by
  induction n with
  | zero => intro x; rfl
  | succ n ih => intro x; rw [leBytes, List.length_cons, ih]

theorem extractLsb'_byte (v : W64) (k : Nat) : v.extractLsb' (8 * k) 8 = BitVec.ofNat 8 (v.toNat / 256 ^ k) := by
  apply BitVec.eq_of_toNat_eq
  rw [BitVec.extractLsb'_toNat, Nat.shiftRight_eq_div_pow, pow_mul, BitVec.toNat_ofNat]
  rfl

theorem ofNat_mod_div (x : Nat) {k : Nat} (hk : k < 8) : BitVec.ofNat 8 (x % 2 ^ 64 / 256 ^ k) = BitVec.ofNat 8 (x / 256 ^ k) := by
  apply BitVec.eq_of_toNat_eq
  rw [BitVec.toNat_ofNat, BitVec.toNat_ofNat, show (2 : Nat) ^ 64 = 256 ^ k * 256 ^ (8 - k) by rw [← pow_add, Nat.add_sub_cancel' hk.le]; rfl,
    Nat.mod_mul_right_div_self, Nat.mod_mod_of_dvd]
  exact dvd_pow_self 256 (by omega)

theorem aluBswap_byte (a : W64) {k : Nat} (hk : k < 8) : (aluBswap a).extractLsb' (8 * k) 8 = a.extractLsb' (8 * (7 - k)) 8 := by
  have hlen : k < (leBytes 8 a.toNat).length := by rwa [length_leBytes]
  rw [extractLsb'_byte, extractLsb'_byte, aluBswap, BitVec.toNat_ofNat, ofNat_mod_div _ hk, ofNat_leValue_div, List.getD_reverse _ hlen, length_leBytes,
    getD_leBytes (by omega)]

/-! Extensions. -/

theorem aluSext_eq {n : Nat} (a : W64) (hn : n ≤ 64) : aluSext n a = (a.extractLsb' 0 n).signExtend 64 := by
  rw [aluSext, signExt, BitVec.truncate_eq_setWidth, BitVec.setWidth_eq_extractLsb' hn]

theorem aluZext_eq {n : Nat} (a : W64) (hn : n ≤ 64) : aluZext n a = (a.extractLsb' 0 n).zeroExtend 64 := by
  rw [aluZext, zeroExt, BitVec.truncate_eq_setWidth, BitVec.setWidth_eq_extractLsb' hn]

end Sys2Proof.Machine
end

section
namespace Sys2Proof.Machine

open Sys2Proof

/-! Integer words: completion, layout and the words that decode to none of them (04 R99-R102). -/

section
variable {i : Instr} {a : Agent} {s : State} {g : Guard} {d : SDst} {x y : Scalar} {v : W64}

theorem completes_of_binary {f : W64 → W64 → W64} (h : Ready (accCtl g [.dst d, .src x, .src y]) a s) (hi : exec i s = binary g d x y f s)
    (hv : f (srcVal (s.task a) x) (srcVal (s.task a) y) = v) : Completes i (accCtl g [.dst d, .src x, .src y]) a s (written (s.task a).a.seq d v) := by
  obtain ⟨t, ht, hu, hs⟩ := binary_done f h
  exact ⟨t, hi.trans ht, hv ▸ hu, hs⟩

theorem completes_of_binaryImm {f : W64 → W64 → W64} {k : W64} (h : Ready (accCtl g [.dst d, .src x]) a s) (hi : exec i s = binaryImm g d x k f s)
    (hv : f (srcVal (s.task a) x) k = v) : Completes i (accCtl g [.dst d, .src x]) a s (written (s.task a).a.seq d v) := by
  obtain ⟨t, ht, hu, hs⟩ := binaryImm_done k f h
  exact ⟨t, hi.trans ht, hv ▸ hu, hs⟩

theorem completes_of_unary {f : W64 → W64} (h : Ready (accCtl g [.dst d, .src x]) a s) (hi : exec i s = unary g d x f s)
    (hv : f (srcVal (s.task a) x) = v) : Completes i (accCtl g [.dst d, .src x]) a s (written (s.task a).a.seq d v) := by
  obtain ⟨t, ht, hu, hs⟩ := unary_done f h
  exact ⟨t, hi.trans ht, hv ▸ hu, hs⟩

end

/-- A word of one register source has 0 in the field of its second source. -/
def secondFieldFits : Option (BitVec 6) → Option Form → Bool
  | some m, some (.ss _ _ _ b) => m != 3#6 || b == 0#6
  | _, _ => true

theorem secondField_fits (i : Instr) : secondFieldFits i.major i.form = true := by cases i <;> rfl

theorem refused_of_secondField {w l : W32} (hm : w.extractLsb' 21 6 = 3#6) (hb : w.extractLsb' 0 6 ≠ 0#6) : Refused w l := by
  intro i hi
  obtain ⟨f, hf, -, hs⟩ := decodeFields_spells hi
  obtain rfl : f = .ss := by rw [hm] at hf; exact (Option.some.inj hf).symm
  have hfit := secondField_fits i
  rw [hs.major, hs.form, hm] at hfit
  exact hb (by simpa [secondFieldFits, Form.ofBits] using hfit)

/-- Settles O1: the words are three shared operations, whose functions have the values of the tables. -/
theorem integerWords : Obligations.IntegerWords := by
  unfold Obligations.IntegerWords
  refine ⟨?binary, ?single, ?laid, ?reserved⟩
  case binary =>
    intro a s g d x y w u X Y n Gives h
    exact ⟨completes_of_binary h rfl (add_eq_ofNat ..), completes_of_binary h rfl (sub_eq_ofInt ..), completes_of_binary h rfl rfl,
      completes_of_binary h rfl rfl, completes_of_binary h rfl rfl, completes_of_binary h rfl (aluShl_eq ..), completes_of_binary h rfl (aluShr_eq ..),
      completes_of_binary h rfl (aluSar_eq ..), completes_of_binary h rfl (mul_eq_ofNat ..), completes_of_binary h rfl rfl,
      completes_of_binary h rfl rfl, completes_of_binary h rfl (aluMin_eq ..), completes_of_binary h rfl (aluMax_eq ..),
      completes_of_binary h rfl (aluMinu_eq ..), completes_of_binary h rfl (aluMaxu_eq ..), completes_of_binary h rfl (aluRol_eq ..),
      completes_of_binary h rfl rfl, completes_of_binary h rfl rfl, completes_of_binary h rfl (aluRems_eq ..), completes_of_binary h rfl (aluRemu_eq ..)⟩
  case single =>
    intro a s g d x imm w u X n I Gives h
    obtain ⟨hctz, hctzLow, hctzTop⟩ := trailingZeros_spec 64 X.toNat
    refine ⟨completes_of_binaryImm h rfl (add_immS ..), completes_of_binaryImm h rfl rfl, completes_of_binaryImm h rfl rfl, completes_of_binaryImm h rfl rfl,
      completes_of_binaryImm h rfl ((aluShl_eq ..).trans (by rw [toNat_immU_mod])), completes_of_binaryImm h rfl ((aluShr_eq ..).trans (by rw [toNat_immU_mod])),
      completes_of_binaryImm h rfl ((aluSar_eq ..).trans (by rw [toNat_immU_mod])),
      ⟨leadingZeros 64 X.toNat, leadingZeros_le .., completes_of_unary h rfl rfl, fun j hj => ?_, fun hk => ?_⟩,
      ⟨trailingZeros 64 X.toNat, hctz, completes_of_unary h rfl rfl, fun j hj => ?_, fun hk => ?_⟩,
      completes_of_unary h rfl ?_, ⟨aluBswap X, completes_of_unary h rfl rfl, fun k hk => aluBswap_byte X hk⟩,
      completes_of_unary h rfl (aluSext_eq _ (by decide)), completes_of_unary h rfl (aluSext_eq _ (by decide)),
      completes_of_unary h rfl (aluSext_eq _ (by decide)), completes_of_unary h rfl (aluZext_eq _ (by decide))⟩
    · exact (BitVec.testBit_toNat X).symm.trans (testBit_of_leadingZeros_le X.isLt hj)
    · exact (BitVec.testBit_toNat X).symm.trans (testBit_leadingZeros X.isLt hk)
    · exact (BitVec.testBit_toNat X).symm.trans (hctzLow j hj)
    · exact (BitVec.testBit_toNat X).symm.trans (hctzTop hk)
    · simp only [aluPopc, popcount_eq_countP, BitVec.testBit_toNat]
      rfl
  case laid =>
    intro g d x y imm Laid
    refine ⟨?_, ?_, ?_, ?_, ?_⟩ <;> and_intros <;> rfl
  case reserved =>
    rintro w l i m op (⟨hm, hop⟩ | ⟨hm, hb⟩ | ⟨hm, hop⟩)
    · exact refused_of_minor (congrArg BitVec.toNat hm) rfl hop.ge i
    · exact refused_of_secondField hm hb i
    · exact refused_of_minor (congrArg BitVec.toNat hm) rfl hop i

end Sys2Proof.Machine
end

section
namespace Sys2Proof.Machine

open Sys2Proof

/-! CMP.cond (04 R103). -/

/-- CMP writes one predicate, as its condition says. -/
theorem compare_gives {i : Instr} {a : Agent} {s : State} {g : Guard} {pd : Pred} {x y : Scalar} {c : Cond} {P : Prop}
    (h : Ready (accCtl g [.pdst pd, .src x, .src y]) a s) (hi : exec i s = compare g pd x y c s)
    (hP : condHolds c (srcVal (s.task a) x) (srcVal (s.task a) y) = true ↔ P) :
    ∃ t, exec i s = .next t ∧ SameOutside s t ∧ SameCores a s t ∧ ((t.task a).preds.getLsbD pd.val = true ↔ P) ∧
      (∀ q : Pred, q ≠ pd → (t.task a).preds.getLsbD q.val = (s.task a).preds.getLsbD q.val) ∧
      t.task a = settled a { entered (accCtl g [.pdst pd, .src x, .src y]) a (s.task a) with preds := (t.task a).preds } := by
  obtain ⟨t, ht, hu, ho, hc⟩ := compare_done c h
  have hp : (t.task a).preds = setPred pd (condHolds c (srcVal (s.task a) x) (srcVal (s.task a) y)) (s.task a).preds := by
    rw [hu]
    cases a <;> rfl
  refine ⟨t, hi.trans ht, ho, hc, ?_, fun q hq => ?_, by rw [hp, hu]⟩
  · rw [hp, getLsbD_setPred, if_pos rfl, hP]
  · rw [hp, getLsbD_setPred, if_neg hq]

/-- A word that the stream of a core may not issue traps. -/
theorem Issues.traps_of_illegal {i : Instr} {m : BitVec 6} {a : Agent} {s : State} (h : Issues a s) (hm : i.major = some m) (hrep : m ≠ 0x3F#6)
    (hb : ∀ g off, i ≠ .branch g off) (ha : a.core?.isSome = true) (hl : i.legal a.kind = false) : Traps i a s .illegal := by
  obtain ⟨w, body, hi⟩ := exec_issues (s := s) hm hrep fun g off hbr => absurd hbr (hb g off)
  have hw : Shows w i a.kind := h.cur ▸ hi.shows
  have hctl : a.core?.isNone = false := by simpa using ha
  exact hi.exec_of_illegal h (by rw [hctl, hw.legal_core, hl])

/-- CMP is a word of the access stream, and writes a predicate of it. -/
theorem legal_of_compare {i : Instr} {k : StreamKind} {pd : Pred} {x y : Scalar} (hin : i.inStream k = (k == .access)) (hr : i.roles = [.pdst pd, .src x, .src y])
    (h : k = .execute ∨ k = .access ∧ 8 ≤ pd.val) : i.legal k = false := by
  rcases h with rfl | ⟨rfl, hp⟩
  · simp [Instr.legal, hin]
  · simp [Instr.legal, hr, Role.ok, ownsPred, Nat.not_lt.2 hp]

/-- Settles O2: the ten words are one operation, whose conditions are those of the rule. -/
theorem compareWords : Obligations.CompareWords := by
  unfold Obligations.CompareWords
  refine ⟨?values, ?laid, ?reserved, ?illegal⟩
  case values =>
    intro a s g pd x y w u X Y Gives h
    and_intros <;> exact compare_gives h rfl decide_eq_true_iff
  case laid =>
    intro g pd x y Laid
    and_intros <;> rfl
  case reserved =>
    rintro w l i hm (hc | hz)
    · exact refused_of_minor (congrArg BitVec.toNat hm) rfl hc i
    · exact refused_of_reserved (congrArg BitVec.toNat hm) rfl ((getLsbD_eq_true_iff w 0).1 hz) i
  case illegal =>
    intro c a s g pd x y h ha
    have hk : a.core?.isSome = true ∧ (a.kind = .execute ∨ a.kind = .access ∧ 8 ≤ pd.val) := by
      rcases ha with rfl | ⟨rfl, hp⟩
      · exact ⟨rfl, .inl rfl⟩
      · exact ⟨rfl, .inr ⟨rfl, hp⟩⟩
    have htraps : ∀ {i : Instr}, i.major = some 5#6 → (∀ k, i.inStream k = (k == .access)) → i.roles = [.pdst pd, .src x, .src y] →
        (∀ g off, i ≠ .branch g off) → Traps i a s .illegal := fun hm hin hr hb =>
      h.traps_of_illegal hm (by decide) hb hk.1 (legal_of_compare (hin _) hr hk.2)
    and_intros <;> exact htraps rfl (fun _ => rfl) rfl nofun

end Sys2Proof.Machine
end

section
namespace Sys2Proof.Machine

open Sys2Proof

/-- The task of the agent at hand at the issue of a word without row operands. -/
theorem task_atIssue_ctxOf {a : Agent} {w : WordInfo} {s : State} (hw : rowless w = true) : (atIssue a w s).task (ctxOf a w s).a = entered w a (s.task a) :=
  atIssue_task_of_rowless (.inr hw) s

/-! Predicates read and written in both streams (02 R50, R51; 04 R93, R104). -/

@[simp] theorem settled_regs (a : Agent) (t : Task) : (settled a t).regs = t.regs := by cases a <;> rfl
@[simp] theorem settled_preds (a : Agent) (t : Task) : (settled a t).preds = t.preds := by cases a <;> rfl
@[simp] theorem settled_q (a : Agent) (t : Task) : (settled a t).q = t.q := by cases a <;> rfl
@[simp] theorem settled_ready (a : Agent) (t : Task) : (settled a t).x.ready = t.x.ready := by cases a <;> rfl

theorem stepPast_execute_ready (n : Nat) (t : Task) : (stepPast .execute n t).x.ready = t.x.ready := by
  unfold stepPast
  split
  · rfl
  · split <;> rfl

/-- The bound of a result that a word of the execute stream reads is 0 from then on, if it has elapsed. -/
theorem tget_entered_execute_ready (w : WordInfo) (c k : Nat) (t : Task) : tget 0 (entered w (.execute c) t).x.ready k =
    if readsKey w k && decide (tget 0 t.x.ready k ≤ t.x.clk) then 0 else tget 0 t.x.ready k :=
  (congrArg (tget 0 · k) (stepPast_execute_ready ..)).trans (tget_landKeys ..)

theorem predVal_entered (w : WordInfo) (a : Agent) (t : Task) (p : Pred) : predVal a (entered w a t) p = predVal a t p := by
  simp only [predVal, entered_preds]

theorem predLanded_entered {w : WordInfo} {a : Agent} {t : Task} {p : Pred} (h : predLanded a t p) : predLanded a (entered w a t) p := by
  cases a with
  | access c => exact .inl rfl
  | control g => exact .inl rfl
  | execute c => exact h.imp_right (Or.imp_right fun he => by rw [entered_execute_clk, entered_execute_early, he])

/-- A predicate that has landed, read by a word without row operands. -/
theorem readPred_atIssue_of_landed {w : WordInfo} {a : Agent} {s : State} {p : Pred} (hw : rowless w = true) (h : predLanded a (s.task a) p) :
    readPred (ctxOf a w s) p (atIssue a w s) = (predVal a (s.task a) p, atIssue a w s) := by
  have hentered := task_atIssue_ctxOf (a := a) (s := s) hw
  have hlanded : predLanded (ctxOf a w s).a ((atIssue a w s).task (ctxOf a w s).a) p := hentered ▸ predLanded_entered h
  rw [readPred_of_landed hlanded, hentered]
  exact congrArg (·, atIssue a w s) (predVal_entered ..)

/-- The task after a predicate is written; `late` chooses that it passes its bound before it lands (log entry 11). -/
def predWritten (a : Agent) (late : Bool) (p : Pred) (v : Bool) (t : Task) : Task :=
  match a with
  | .execute _ =>
    let t := bound { t with preds := setPred p v t.preds } (keyPred p) (t.x.clk + 1)
    let rest := t.x.unlanded.filter (· ≠ p)
    { t with x := { t.x with unlanded := if late then p :: rest else rest } }
  | _ => { t with preds := setPred p v t.preds }

theorem writePred_eq (c : Ctx) (p : Pred) (v : Bool) (s : State) : writePred c p v s = s.setTask c.a (predWritten c.a s.late p v (s.task c.a)) := by
  obtain ⟨a, pc, next, seq⟩ := c
  cases a <;> rfl

section
variable (a : Agent) (late : Bool) (p : Pred) (v : Bool) (t : Task)

theorem predWritten_preds : (predWritten a late p v t).preds = setPred p v t.preds := by cases a <;> rfl
theorem predWritten_regs : (predWritten a late p v t).regs = t.regs := by cases a <;> rfl
theorem predWritten_q : (predWritten a late p v t).q = t.q := by cases a <;> rfl

theorem getLsbD_predWritten_self : (predWritten a late p v t).preds.getLsbD p.val = v := by
  rw [predWritten_preds, getLsbD_setPred, if_pos rfl]

theorem getLsbD_predWritten_of_ne {q : Pred} (hq : q ≠ p) : (predWritten a late p v t).preds.getLsbD q.val = t.preds.getLsbD q.val := by
  rw [predWritten_preds, getLsbD_setPred, if_neg hq]

theorem tget_predWritten_ready {c : Nat} : tget 0 (predWritten (.execute c) late p v t).x.ready (keyPred p) = max (t.x.clk + 1) (tget 0 t.x.ready (keyPred p)) :=
  tget_tput_self ..

end

/-- The word completes and writes one predicate, by a bound of 1 clock in an execute stream; no other predicate, register or queue changes. -/
def GivesPred (a : Agent) (s : State) (pd : Pred) (i : Instr) (v : Bool) : Prop :=
  let u := s.task a
  ∃ t, exec i s = .next t ∧ SameOutside s t ∧ SameCores a s t ∧
    (t.task a).preds.getLsbD pd.val = v ∧ (∀ q : Pred, q ≠ pd → (t.task a).preds.getLsbD q.val = u.preds.getLsbD q.val) ∧
    (t.task a).regs = u.regs ∧ (t.task a).q = u.q ∧
    (a.kind = .execute → tget 0 (t.task a).x.ready (keyPred pd) = max (u.x.clk + 1) (tget 0 u.x.ready (keyPred pd)))

theorem givesPred_of_writePred {i : Instr} {w : WordInfo} {a : Agent} {s : State} {pd : Pred} {v : Bool} {body : Ctx → State → State} (h : Ready w a s)
    (hw : rowless w = true) (hi : exec i s = issuePure w s body)
    (hb : body (ctxOf a w s) (atIssue a w s) = writePred (ctxOf a w s) pd v (atIssue a w s)) : GivesPred a s pd i v := by
  rw [writePred_eq] at hb
  obtain ⟨t, ht, hu, ho, hc⟩ := issue_setTask (body := fun c s => .ok (body c s)) h (congrArg Except.ok hb)
  rw [task_atIssue_ctxOf hw] at hu
  refine ⟨t, hi.trans ht, ho, hc, ?_, fun q hq => ?_, ?_, ?_, fun hk => ?_⟩ <;> rw [hu]
  · rw [settled_preds, getLsbD_predWritten_self]
  · rw [settled_preds, getLsbD_predWritten_of_ne _ _ _ _ _ hq, entered_preds]
  · rw [settled_regs, predWritten_regs, entered_regs]
  · rw [settled_q, predWritten_q, entered_q]
  · cases a with
    | access c => cases hk
    | control g => cases hk
    | execute c =>
      rw [settled_ready]
      refine (tget_predWritten_ready ..).trans ?_
      rw [entered_execute_clk, tget_entered_execute_ready]
      split
      · rename_i hlanded
        simp only [Bool.and_eq_true, decide_eq_true_eq] at hlanded
        omega
      · rfl

section
variable {i : Instr} {a : Agent} {s : State} {g : Guard} {pd pa pb : Pred}

theorem givesPred_of_predBinary {f : Bool → Bool → Bool} (h : Ready (both g [.pdst pd, .psrc pa, .psrc pb]) a s)
    (ha : predLanded a (s.task a) pa) (hb : predLanded a (s.task a) pb) (hi : exec i s = predBinary g pd pa pb f s) :
    GivesPred a s pd i (f (predVal a (s.task a) pa) (predVal a (s.task a) pb)) := by
  have hread {p : Pred} := readPred_atIssue_of_landed (w := both g [.pdst pd, .psrc pa, .psrc pb]) (a := a) (s := s) (p := p) rfl
  refine givesPred_of_writePred h rfl hi ?_
  simp only [hread ha, hread hb]

theorem givesPred_pnot (h : Ready (both g [.pdst pd, .psrc pa]) a s) (ha : predLanded a (s.task a) pa) :
    GivesPred a s pd (.pnot g pd pa) (!predVal a (s.task a) pa) := by
  refine givesPred_of_writePred h rfl rfl ?_
  simp only [readPred_atIssue_of_landed (w := both g [.pdst pd, .psrc pa]) rfl ha]

theorem givesPred_of_predConst {v : Bool} (h : Ready (both g [.pdst pd]) a s) (hi : exec i s = predConst g pd v s) : GivesPred a s pd i v :=
  givesPred_of_writePred h rfl hi rfl

end

/-- Settles O3: the words write one predicate, with the value of the table for the predicates that they read. -/
theorem predicateWords : Obligations.PredicateWords := by
  unfold Obligations.PredicateWords
  intro a s g pd pa pb u A B Gives
  refine ⟨fun h ha hb => ?binary, fun h ha => givesPred_pnot h ha, fun h => ⟨givesPred_of_predConst h rfl, givesPred_of_predConst h rfl⟩⟩
  case binary =>
    have hbin {i : Instr} {f : Bool → Bool → Bool} := givesPred_of_predBinary (i := i) (f := f) h ha hb
    exact ⟨hbin (f := fun x y => x && y) rfl, hbin (f := fun x y => x || y) rfl, hbin (f := fun x y => x != y) rfl, hbin (f := fun x y => x && !y) rfl, hbin (f := fun x y => x || !y) rfl⟩

end Sys2Proof.Machine
end

section
namespace Sys2Proof.Machine

open Sys2Proof

/-! Words that change their task alone, and words that stop (02 R62; 14 R376). -/

section
variable {i : Instr} {w : WordInfo} {a : Agent} {s : State} {f : Task → Task} {body : Ctx → State → Except Stop State}

theorem State.modTask_setTask (s : State) (a : Agent) (t : Task) (f : Task → Task) : (s.setTask a t).modTask a f = s.setTask a (f t) := by
  rw [State.modTask, State.task_setTask, State.setTask_setTask]

/-- A ready word without row operands whose effect is an update of its task. -/
theorem completes_of_modTask (h : Ready w a s) (hw : a.kind = .access ∨ rowless w = true) (hi : exec i s = issue w s body)
    (hb : body (ctxOf a w s) (atIssue a w s) = .ok ((atIssue a w s).modTask a f)) : Completes i w a s f := by
  obtain ⟨t, ht, hu, hs⟩ := issue_setTask h hb
  rw [atIssue_task_of_rowless hw] at hu
  exact ⟨t, hi.trans ht, hu, hs⟩

/-- A ready word that raises an error on no predicted arm takes its trap. -/
theorem issue_trap {c : TrapCode} (h : Ready w a s) (harm : a.kind = .access ∨ (s.task a).x.arm = none)
    (hb : body (ctxOf a w s) (atIssue a w s) = err c) : issue w s body = .next (takeTrap a { code := c } false none s) := by
  have honArm : ((s.task a).x.arm.isSome && a.kind == .execute) = false := by
    rcases harm with hk | hn
    · rw [hk, Bool.and_eq_false_iff]
      exact .inr rfl
    · rw [hn]
      rfl
  rw [issue_stop h hb]
  simp only [stopStep, honArm, Bool.false_eq_true, if_false]

end

/-! Branches (04 R105-R109, R113). -/

theorem jumpTo_of_aligned {c : Ctx} {t : W64} (h : t.toNat % 4 = 0) (cost : Nat) (s : State) : jumpTo c t cost s = .ok (s.modTask c.a (jumped c.a t cost)) :=
  if_neg (not_not_intro h)

theorem jumpTo_of_misaligned {c : Ctx} {t : W64} (h : t.toNat % 4 ≠ 0) (cost : Nat) (s : State) : jumpTo c t cost s = err .pcalign := if_pos h

section
variable {a : Agent} {s : State} {g : Guard} {w : WordInfo}

/-- The word of the access stream that writes lr and goes to a target. -/
theorem jumpTo_writeReg_atIssue (ha : a.kind = .access) {t : W64} (ht : t.toNat % 4 = 0) (v : W64) (cost : Nat) :
    jumpTo (ctxOf a w s) t cost (writeReg (ctxOf a w s) keyLr 1 v (atIssue a w s)) =
      .ok ((atIssue a w s).modTask a (jumped a t cost ∘ written (s.task a).a.seq .lr v)) := by
  have hlr : writeReg (ctxOf a w s) keyLr 1 v (atIssue a w s) = (atIssue a w s).modTask a (written (s.task a).a.seq .lr v) :=
    writeDst_eq_setTask (c := ctxOf a w s) ha .lr 1 v _ (atIssue_setTask_self a w s)
  rw [jumpTo_of_aligned ht, hlr]
  exact congrArg Except.ok (State.modTask_setTask ..)

theorem completes_branch {off : BitVec 19} (h : Ready (both g []) a s) (hp : predicts g s = none)
    (ht : (wordAddr (s.task a) a.kind + 4#64 * off.signExtend 64).toNat % 4 = 0) :
    Completes (.branch g off) (both g []) a s (jumped a (wordAddr (s.task a) a.kind + 4#64 * off.signExtend 64) 2) :=
  completes_of_modTask h (.inr rfl) (execBranch_of_unpredicted off hp) (jumpTo_of_aligned ht ..)

theorem completes_call {off : BitVec 19} (h : Ready (accCtl g []) a s) (ht : (wordAddr (s.task a) a.kind + 4#64 * off.signExtend 64).toNat % 4 = 0) :
    Completes (.call g off) (accCtl g []) a s (jumped a (wordAddr (s.task a) a.kind + 4#64 * off.signExtend 64) 2 ∘
      written (s.task a).a.seq .lr (wordAddr (s.task a) a.kind + 4#64)) :=
  completes_of_modTask h (.inr rfl) rfl (jumpTo_writeReg_atIssue (h.access rfl) ht ..)

theorem completes_callr {x : Scalar} (h : Ready (accCtl g [.src x]) a s) (ht : (srcVal (s.task a) x).toNat % 4 = 0) :
    Completes (.callr g x) (accCtl g [.src x]) a s (jumped a (srcVal (s.task a) x) 4 ∘
      written (s.task a).a.seq .lr (wordAddr (s.task a) a.kind + BitVec.ofNat 64 (4 * (accCtl g [.src x]).words))) := by
  refine completes_of_modTask h (.inr rfl) rfl ?_
  simp only [h.read (h.access rfl) (x := x) (by simp [accCtl])]
  exact jumpTo_writeReg_atIssue (h.access rfl) ht ..

theorem completes_ret (h : Ready (accCtl g []) a s) (hp : tget? (s.task a).a.pend keyLr = none) (ht : (tget 0#64 (s.task a).regs keyLr).toNat % 4 = 0) :
    Completes (.ret g) (accCtl g []) a s (jumped a (tget 0#64 (s.task a).regs keyLr) 4) := by
  refine completes_of_modTask h (.inr rfl) rfl ?_
  have htask := task_atIssue_ctxOf (a := a) (w := accCtl g []) (s := s) rfl
  have hcheck : pendCheck ((atIssue a (accCtl g []) s).task (ctxOf a (accCtl g []) s).a) keyLr = .ok () := by
    simp [pendCheck, htask, entered_pend, hp]
  rw [hcheck, readReg_of_access (c := ctxOf a (accCtl g []) s) (h.access rfl), htask, entered_regs]
  exact jumpTo_of_aligned ht ..

end

/-- Settles O4: an aligned target is one update of the task. -/
theorem controlWords : Obligations.ControlWords := by
  unfold Obligations.ControlWords
  intro a s g u pc
  refine ⟨fun off h hp ht => completes_branch h hp ht, fun off h ht => completes_call h ht, ?br, fun x => completes_callr,
    fun h hp ht => completes_ret h hp ht, ?loop, fun d off h => ?adr, fun h => ?nop⟩
  case br =>
    intro x w r h ht
    exact issue_ready h (jumpTo_of_aligned ht ..)
  case loop =>
    intro d off w c r s1 target h
    refine ⟨fun hv => issue_ready h (if_pos (sub_eq_zero.2 hv)), fun hv ht => ?_⟩
    exact issue_ready h ((if_neg (sub_ne_zero.2 hv)).trans (jumpTo_of_aligned ht ..))
  case adr => exact issue_writeDst h (h.access rfl) rfl
  case nop => exact completes_of_modTask h (.inr rfl) rfl (congrArg Except.ok (atIssue_setTask_self ..).symm)

/-- Settles O5: a misaligned target is an error before anything of the word's effect. -/
theorem misalignedBranchTraps : Obligations.MisalignedBranchTraps := by
  unfold Obligations.MisalignedBranchTraps
  intro a s g off x u target T
  refine ⟨fun h harm hp ht => ?branch, fun h ht => ?call, fun h harm ht => ?br, fun h ht => ?callr⟩
  case branch => exact (execBranch_of_unpredicted off hp).trans (issue_trap h (.inr harm) (jumpTo_of_misaligned ht ..))
  case call => exact issue_trap h (.inl (h.access rfl)) (jumpTo_of_misaligned ht ..)
  case br => exact issue_trap h (.inr harm) (jumpTo_of_misaligned ht ..)
  case callr =>
    refine issue_trap h (.inl (h.access rfl)) ?_
    simp only [h.read (h.access rfl) (x := x) (by simp [accCtl])]
    exact jumpTo_of_misaligned ht ..

end Sys2Proof.Machine
end

section
namespace Sys2Proof.Machine

open Sys2Proof

/-! Predicted branches (04 R113). -/

theorem State.ctr_setTask (s : State) (a : Agent) (t : Task) (c : Nat) : ((s.setTask a t).core c).ctr = (s.core c).ctr := by
  have hctr : ∀ n, ((s.modCore n fun k => k.setCtx k.run { state := .running, task := t, saved := none }).core c).ctr = (s.core c).ctr := fun n => by
    simp only [State.modCore, State.core_setCore]
    split <;> simp_all
  cases a with
  | access n => exact hctr n
  | execute n => exact hctr n
  | control g => rfl

/-- A counter of a core after an amount is added to it. -/
theorem State.ctr_coreCtr (s : State) (c : Nat) (k : CoreCtr) (n : Nat) :
    tget 0 ((s.coreCtr c k n).core c).ctr k.num = (tget 0 (s.core c).ctr k.num + n) % 2 ^ 64 := by
  rw [State.core_coreCtr, if_pos rfl]
  exact tget_tput_self ..

theorem execBranch_of_predicted {g : Guard} {off : BitVec 19} {s : State} {p : Pred} {sense : Bool} (hl : s.live s.cur = true)
    (h : predicts g s = some (p, sense)) : exec (.branch g off) s = .next (predictB p sense off s) := by
  show execBranch g off s = _
  simp only [execBranch, h, hl, if_true]

/-- Settles O6: the prediction counts, and updates the execute side of its task. -/
theorem predictedBranch : Obligations.PredictedBranch := by
  unfold Obligations.PredictedBranch
  intro c s g off p sense a u pc target hcur hl hp
  refine ⟨predictB p sense off s, execBranch_of_predicted (hcur ▸ hl) hp, ?_⟩
  have hcounted : (s.agentCtr a .predcount 1).task a = u := State.task_agentCtr ..
  simp only [predictB, hcur, State.task_modTask]
  rw [hcounted]
  refine ⟨(sameOutside_agentCtr ..).trans (sameOutside_setTask ..), (sameCores_agentCtr ..).trans (sameCores_setTask ..), rfl, rfl, rfl, rfl, rfl, rfl, ?_⟩
  rw [State.modTask, State.ctr_setTask]
  exact State.ctr_coreCtr ..

end Sys2Proof.Machine
end

section
namespace Sys2Proof.Machine

open Sys2Proof

/-! Queues between the streams (04 R95-R97, R110, R111). -/

section
variable {w : WordInfo} {a : Agent} {s : State} {g : Guard}

/-- A word of the execute stream only is ready in no other stream. -/
theorem Ready.execute (h : Ready w a s) (hx : w.access = false) : ∃ c, a = .execute c := by
  have hl := h.legal
  cases a with
  | execute c => exact ⟨c, rfl⟩
  | access c => simp [WordInfo.legal, Agent.kind, hx] at hl
  | control n => simp [WordInfo.legal, Agent.kind, hx] at hl

/-- An execute stream writes its own registers, or discards. -/
theorem Ready.dst_execute {c : Nat} (h : Ready w (.execute c) s) {d : SDst} (hd : Role.dst d ∈ w.roles) : d = .zr ∨ ∃ n, d = .s n := by
  have hl := h.legal
  simp only [WordInfo.legal, Bool.and_eq_true, List.all_eq_true] at hl
  have hok : (Role.dst d).ok .execute = true := hl.1.1.2 _ hd
  cases d with
  | zr => exact .inl rfl
  | s n => exact .inr ⟨n, rfl⟩
  | lr | sp | sq n => cases hok

/-- What is discarded when a queue's consumer has ended, as one update of the task. -/
theorem ite_modTask_atIssue (e : Bool) (f : Task → Task) :
    (if e = true then atIssue a w s else (atIssue a w s).modTask a f) = (atIssue a w s).modTask a fun t => if e then t else f t := by
  cases e
  · rfl
  · exact (atIssue_setTask_self a w s).symm

theorem pushRoom_of_room {ended : Bool} {n depth : Nat} (h : ended = true ∨ n < depth) : pushRoom ended n depth = .ok () := by
  have hroom : (ended || decide (n < depth)) = true := by simpa using h
  exact if_pos hroom

theorem completes_cqpush {x : Scalar} (h : Ready (acc g [.src x]) a s) (hroom : (s.task a).x.ended = true ∨ (s.task a).q.cq.length < 16) :
    Completes (.cqpush g x) (acc g [.src x]) a s (fun t =>
      if (s.task a).x.ended then t else { t with q := { t.q with cq := t.q.cq ++ [{ seq := (s.task a).a.seq, val := some (srcVal (s.task a) x) }] } }) := by
  refine completes_of_modTask h (.inr rfl) rfl ?_
  have htask := task_atIssue_ctxOf (a := a) (w := acc g [.src x]) (s := s) rfl
  simp only [htask, entered_ended, entered_q, pushRoom_of_room hroom, h.read (h.access rfl) (x := x) (by simp [acc])]
  exact congrArg Except.ok (ite_modTask_atIssue ..)

theorem completes_pqpush {p : Pred} (h : Ready (exe g [.psrc p]) a s) (hp : predLanded a (s.task a) p)
    (hroom : (s.task a).a.ended = true ∨ (s.task a).q.pq.length < 32) :
    Completes (.pqpush g p) (exe g [.psrc p]) a s (fun t =>
      if (s.task a).a.ended then t else { t with q := { t.q with pq := t.q.pq ++ [predVal a (s.task a) p] } }) := by
  refine completes_of_modTask h (.inr rfl) rfl ?_
  obtain ⟨c, rfl⟩ := h.execute rfl
  have htask := task_atIssue_ctxOf (a := .execute c) (w := exe g [.psrc p]) (s := s) rfl
  simp only [htask, entered_execute_a, entered_q, pushRoom_of_room hroom, readPred_atIssue_of_landed (w := exe g [.psrc p]) rfl hp]
  exact congrArg Except.ok (ite_modTask_atIssue ..)

/-- The task after a scalar destination of the execute stream is written. -/
def xWritten (d : SDst) (b : Nat) (v : W64) (t : Task) : Task :=
  match d with
  | .s n => bound { t with regs := tput t.regs n.val v } (keyReg n.val) (t.x.clk + b)
  | _ => t

theorem xWritten_q (d : SDst) (b : Nat) (v : W64) (t : Task) : (xWritten d b v t).q = t.q := by cases d <;> rfl

/-- A destination of the execute stream is written, after an update of its task. -/
theorem writeDst_modTask_of_execute {c : Ctx} {n : Nat} (hc : c.a = .execute n) {d : SDst} (hd : d = .zr ∨ ∃ k, d = .s k) (b : Nat) (v : W64) (s : State) (f : Task → Task) :
    writeDst c d b v (s.modTask c.a f) = s.modTask c.a fun t => xWritten d b v (f t) := by
  obtain ⟨a, pc, next, seq⟩ := c
  obtain rfl : a = .execute n := hc
  rcases hd with rfl | ⟨k, rfl⟩
  · rfl
  · simp only [writeDst, writeReg, xWritten, State.task_modTask]
    exact State.setTask_setTask ..

/-- Whether the head of a queue may be popped is a matter of the access stream. -/
theorem entryReady_congr {t u : Task} (h : u.a = t.a) (a : Agent) (n : Nat) (arrived : Bool) : entryReady a u n arrived = entryReady a t n arrived := by
  simp only [entryReady, releasesMet, releaseMet, openBefore, messagesBefore, h]

theorem completes_cqpop {c : Nat} {d : SDst} {e : SqEntry} {r : List SqEntry} {v : W64} (h : Ready (exe g [.dst d]) (.execute c) s)
    (hq : (s.task (.execute c)).q.cq = e :: r) (he : entryReady (.execute c) (s.task (.execute c)) e.seq true = true) (hv : e.val = some v) :
    Completes (.cqpop g d) (exe g [.dst d]) (.execute c) s fun t => xWritten d 1 v { t with q := { t.q with cq := t.q.cq.tail } } := by
  refine completes_of_modTask h (.inr rfl) rfl ?_
  have htask := task_atIssue_ctxOf (a := .execute c) (w := exe g [.dst d]) (s := s) rfl
  have hready : entryReady (ctxOf (.execute c) (exe g [.dst d]) s).a (entered (exe g [.dst d]) (.execute c) (s.task (.execute c))) e.seq true = true :=
    (entryReady_congr (entered_execute_a ..) ..).trans he
  simp only [htask, entered_q, hq, popCheck, hv, hready, List.isEmpty_cons, List.head?_cons, Option.map_some, Option.isSome_some, Option.getD_some,
    Option.bind_some, Bool.false_eq_true, if_false, if_true]
  exact congrArg Except.ok (writeDst_modTask_of_execute (c := ctxOf (.execute c) (exe g [.dst d]) s) rfl (h.dst_execute (d := d) (by simp [exe])) ..)

theorem completes_pqpop {p : Pred} {v : Bool} {r : List Bool} (h : Ready (acc g [.pdst p]) a s) (hq : (s.task a).q.pq = v :: r) :
    Completes (.pqpop g p) (acc g [.pdst p]) a s fun t => { t with q := { t.q with pq := r }, preds := setPred p v t.preds } := by
  refine completes_of_modTask h (.inr rfl) rfl ?_
  have hpq : ((atIssue a (acc g [.pdst p]) s).task (ctxOf a (acc g [.pdst p]) s).a).q.pq = v :: r := by
    rw [task_atIssue_ctxOf rfl, entered_q, hq]
  simp only [hpq, writePred_of_access (c := ctxOf a (acc g [.pdst p]) s) (h.access rfl), State.task_modTask]
  exact congrArg Except.ok (State.setTask_setTask ..)

end

/-- Settles O7: each word is one update of its task, and a pop also writes what it has popped. -/
theorem queueWords : Obligations.QueueWords := by
  unfold Obligations.QueueWords
  intro a s g u
  refine ⟨fun x h hroom => completes_cqpush h hroom, ?cqpop, fun p h hp hroom => completes_pqpush h hp hroom, ?pqpop⟩
  case cqpop =>
    rintro c d e r v rfl h hq he hv
    obtain ⟨t, ht, hu, ho, hc⟩ := completes_cqpop h hq he hv
    refine ⟨t, ht, ho, hc, ?_, ?_, ?_⟩ <;> rw [hu]
    · simp only [settled_q, xWritten_q, entered_q, show (s.task (.execute c)).q.cq = e :: r from hq, List.tail_cons, u]
    · rintro n rfl
      simp only [settled_regs, xWritten, bound, entered_regs, u]
    · rintro rfl
      simp only [settled_regs, xWritten, entered_regs, u]
  case pqpop =>
    intro p v r h hq
    obtain ⟨t, ht, hu, ho, hc⟩ := completes_pqpop h hq
    refine ⟨t, ht, ho, hc, ?_, ?_, ?_, fun q hne => ?_⟩ <;> rw [hu]
    · simp only [settled_q, entered_q, u]
    · simp only [settled_regs, entered_regs, u]
    · simp only [settled_preds, getLsbD_setPred, if_true]
    · simp only [settled_preds, getLsbD_setPred, if_neg hne, entered_preds, u]

end Sys2Proof.Machine
end

section
namespace Sys2Proof.Machine

open Sys2Proof

/-! TEND and BRK (04 R112; 09 R271; 10 R291; 14 R381). -/

/-- Settles O8: an idle engine holds no TEND, which then ends its stream in one update of the task. -/
theorem tendEndsStream : Obligations.TendEndsStream := by
  unfold Obligations.TendEndsStream
  intro a s g u h hidle
  refine completes_of_modTask h (.inr rfl) rfl ?_
  cases a with
  | access c => rfl
  | control n => rfl
  | execute c =>
    obtain ⟨hbk, hopen, hdn⟩ := hidle c rfl
    simp only [ctxOf, atIssue_eng, hbk, hopen, hdn]
    rfl

/-! The log of a partition's traps (14 R380). -/

/-- The records that the log holds before a trap: it is cleared before the first trap after an activation. -/
def keptLog (x : Part) : List TrapRecord := if x.logStale then [] else x.traplog

theorem traplog_logTrap {p : Nat} {s : State} (r : TrapRecord) (h : (keptLog (s.part p)).length < 8) : ((logTrap p r s).part p).traplog = keptLog (s.part p) ++ [r] := by
  have hlog : (if (s.part p).logStale = true then [] else (s.part p).traplog) = keptLog (s.part p) := rfl
  simp only [logTrap, hlog, h, if_true, State.part_congr (State.raisePart_parts ..), State.partCtr, State.part_modPart_self, State.part_congr (State.bbEvent_parts ..),
    State.part_setPart_self]

@[simp] theorem logTrap_mem (p : Nat) (r : TrapRecord) (s : State) : (logTrap p r s).mem = s.mem := by
  simp [logTrap, apply_ite State.mem]

/-! Breaks (14 R381). -/

theorem entered_ident (w : WordInfo) (a : Agent) (t : Task) : (entered w a t).ident = t.ident := by
  unfold entered stepPast landReads landKeys
  cases a <;> dsimp only <;> (repeat' split) <;> simp [Task.setPc, Task.setRep] <;> (repeat' split) <;> rfl

@[simp] theorem settled_brk (a : Agent) (t : Task) : (settled a t).brk = t.brk := by cases a <;> rfl
@[simp] theorem settled_pcOf (a : Agent) (t : Task) (k : StreamKind) : (settled a t).pcOf k = t.pcOf k := by cases a <;> cases k <;> rfl

@[simp] theorem Task.pcOf_setPc (t : Task) (k : StreamKind) (pc : W64) : (t.setPc k pc).pcOf k = pc := by cases k <;> rfl
@[simp] theorem Task.setPc_regs (t : Task) (k : StreamKind) (pc : W64) : (t.setPc k pc).regs = t.regs := by cases k <;> rfl
@[simp] theorem Task.setPc_ident (t : Task) (k : StreamKind) (pc : W64) : (t.setPc k pc).ident = t.ident := by cases k <;> rfl

/-- The task of a stream that has stopped at a break stands at the next word. -/
def stoppedAt (k : StreamKind) (next : W64) (t : Task) : Task := { t.setPc k next with brk := true, waited := true }

section
variable {a : Agent} {s : State} {p : Nat} {next : W64}

theorem takeBreak_task (h : s.partOf? a.cluster = some p) : (takeBreak a next s).task a = stoppedAt a.kind next (s.task a) := by
  obtain ⟨hcores, hclus, -⟩ := logTrap_same p (trapRecord a { code := .brk } .brk false none p s) s
  simp only [takeBreak, h, State.task_modTask]
  rw [State.task_congr (by simpa using hcores) (by simpa using hclus)]
  rfl

theorem takeBreak_mem : (takeBreak a next s).mem = s.mem := by
  unfold takeBreak
  split <;> simp

theorem takeBreak_traplog (h : s.partOf? a.cluster = some p) (hroom : (keptLog (s.part p)).length < 8) :
    ((takeBreak a next s).part p).traplog = keptLog (s.part p) ++ [trapRecord a { code := .brk } .brk false none p s] := by
  rw [← traplog_logTrap _ hroom]
  simp only [takeBreak, h]
  exact congrArg Part.traplog (State.part_congr (by simp) p)

variable {g : Guard}

theorem execBrk_eq (h : Ready (both g []) a s) (hp : s.partOf? a.cluster = some p) : exec (.brk g) s = issue (both g []) s fun c s' =>
    if (s.part p).regs.brken = true then .ok (takeBreak c.a c.next (s'.modTask c.a fun t => t.setPc c.a.kind c.pc)) else err .brk := by
  show execBrk g s = _
  simp only [execBrk, h.cur, hp]

theorem execBrk_of_brken (h : Ready (both g []) a s) (hp : s.partOf? a.cluster = some p) (hb : (s.part p).regs.brken = true) :
    exec (.brk g) s = .next (afterIssue a (takeBreak a (wordAddr (s.task a) a.kind + 4#64)
      ((atIssue a (both g []) s).modTask a fun t => t.setPc a.kind (wordAddr (s.task a) a.kind)))) :=
  (execBrk_eq h hp).trans (issue_ready h (if_pos hb))

end

/-- Settles O9: BRKEN alone decides between the trap and the stop. -/
theorem brkTrapsOrStops : Obligations.BrkTrapsOrStops := by
  unfold Obligations.BrkTrapsOrStops
  intro a s g p u h harm hp
  refine ⟨fun hb => (execBrk_eq h hp).trans (issue_trap h (.inr harm) (if_neg (by simp [hb]))), fun hb => ⟨_, execBrk_of_brken h hp hb, ?_⟩⟩
  generalize hs : (atIssue a (both g []) s).modTask a (fun t => t.setPc a.kind (wordAddr (s.task a) a.kind)) = s1
  have hmem : s1.mem = s.mem := by simp [← hs]
  have hparts : s1.parts = s.parts := by simp [← hs]
  have htask : s1.task a = (entered (both g []) a u).setPc a.kind (wordAddr u a.kind) := by
    rw [← hs, State.task_modTask, atIssue_task_of_rowless (.inr rfl)]
  have hp1 : s1.partOf? a.cluster = some p := (State.partOf?_congr hparts _).trans hp
  have hpart : s1.part p = s.part p := State.part_congr hparts p
  rw [afterIssue_mem, takeBreak_mem, afterIssue_task, takeBreak_task hp1, htask, State.part_congr (afterIssue_parts ..)]
  refine ⟨hmem, by rw [settled_brk]; rfl, by rw [settled_pcOf]; exact Task.pcOf_setPc .., ?_, fun hroom => ?_⟩
  · rw [settled_regs]
    exact (Task.setPc_regs ..).trans ((Task.setPc_regs ..).trans (entered_regs ..))
  · have hlen : (keptLog (s1.part p)).length < 8 := by
      rw [hpart, keptLog]
      split <;> rename_i hstale
      · decide
      · exact hroom (Bool.eq_false_iff.2 hstale)
    refine ⟨_, (takeBreak_traplog hp1 hlen).trans (by rw [hpart]; rfl), rfl, rfl, ?_⟩
    exact (congrArg Task.ident htask).trans ((Task.setPc_ident ..).trans (entered_ident ..))

end Sys2Proof.Machine
end

section
namespace Sys2Proof.Machine

open Sys2Proof

/-! Atomics at issue (06 R147, R148). -/

section
variable {w : WordInfo} {a : Agent} {s : State}

theorem readDst_of_access {c : Ctx} (h : c.a.kind = .access) (d : SDst) (s : State) : readDst c d s = (dstVal (s.task c.a) d, s) := by
  cases d <;> simp only [readDst, dstVal, readReg_of_access h]

theorem dstVal_entered (w : WordInfo) (a : Agent) (t : Task) (d : SDst) : dstVal (entered w a t) d = dstVal t d := by
  cases d <;> simp only [dstVal, entered_regs]

/-- The old value of a destination that a ready word of the access stream also writes. -/
theorem readDst_atIssue (ha : a.kind = .access) (d : SDst) : readDst (ctxOf a w s) d (atIssue a w s) = (dstVal (s.task a) d, atIssue a w s) := by
  have htask : (atIssue a w s).task (ctxOf a w s).a = entered w a (s.task a) := atIssue_task_of_rowless (.inl ha) s
  rw [readDst_of_access (c := ctxOf a w s) ha, htask, dstVal_entered]

/-- The swap value of an atomic: that of its second register, which ACAS alone has. -/
def swapVal (t : Task) : Option Nat → W64
  | some k => tget 0#64 t.regs k
  | none => 0#64

/-- What an atomic whose registers are allowed shows of itself at issue. -/
abbrev atomicInfo (g : Guard) (ord : MemOrder) (scope : Scope) (d : SDst) (x : Scalar) : WordInfo :=
  { accCtl g [.rw d, .src x] with shape := ord ≠ .relaxed || scope == .unit }

/-- An atomic that meets no error, whose second register waits for no load, enters the store queue. -/
theorem completes_atomicWord {i : Instr} {g : Guard} {op : AtomicOp} {ord : MemOrder} {scope : Scope} {wide : Bool} {d : SDst} {x : Scalar}
    {pair : Option Nat} {tgt : Target} (h : Ready (atomicInfo g ord scope d x) a s)
    (hi : exec i s = atomicWord g op ord scope wide d x pair true s) (hpair : ∀ k ∈ pair, tget? (s.task a).a.pend k = none)
    (hroom : storesUsed (s.task a) < 32) (hx : Reaches a s (srcVal (s.task a) x) (if wide then 8 else 4) .atomic tgt) :
    Completes i (atomicInfo g ord scope d x) a s (fun t =>
      storing (accessOf (ctxOf a (atomicInfo g ord scope d x) s) (.atomic op wide (swapVal (s.task a) pair)) ord scope
          (atomicDst d) false [element 0 (srcVal (s.task a) x) tgt (if wide then 8 else 4) (dstVal (s.task a) d)])
        (claimed (s.task a).a.seq (atomicDst d) false t)) := by
  have ha := h.access rfl
  generalize hw : atomicInfo g ord scope d x = w at h ⊢
  have hread := h.read ha (x := x) (by simp [← hw, atomicInfo, accCtl])
  have htask : (atIssue a w s).task (ctxOf a w s).a = entered w a (s.task a) := atIssue_task_of_rowless (.inl ha) s
  rw [Completes, hi, atomicWord, Bool.true_and, ← atomicInfo, hw]
  refine issue_store (es := [_]) h ha ?_
  cases pair with
  | none =>
    simp only [storeRoom_issue hroom, readDst_atIssue ha, hread, checkAccess_of_reaches _ hx]
    rfl
  | some k =>
    have hcheck : pendCheck (entered w a (s.task a)) k = .ok () := by simp [pendCheck, entered_pend, hpair k rfl]
    simp only [htask, hcheck, storeRoom_issue hroom, readDst_atIssue ha, hread, readReg_of_access (c := ctxOf a w s) ha, entered_regs, checkAccess_of_reaches _ hx]
    rfl

end

/-- Settles O13: the words are one operation, in which ACAS alone names a second register. -/
theorem atomics : Obligations.Atomics := by
  unfold Obligations.Atomics
  intro a s g ord scope wide d x tgt w u va n Queues h hroom hx
  have single {i : Instr} {op : AtomicOp} (hi : exec i s = atomicWord g op ord scope wide d x none true s) : Queues i op 0#64 :=
    completes_atomicWord h hi (fun _ hk => nomatch hk) hroom hx
  refine ⟨single rfl, single rfl, single rfl, single rfl, single rfl, single rfl, single rfl, fun k hd heven hk hpend => ?_⟩
  subst hd
  have hshape : decide (k.val % 2 = 0 ∧ k.val ≤ 46) = true := decide_eq_true ⟨heven, hk⟩
  refine completes_atomicWord (pair := some (k.val + 1)) h ?_ (fun j hj => Option.some.inj hj ▸ hpend) hroom hx
  show execAcas g ord scope wide (.s k) x s = _
  rw [execAcas, hshape]

/-! FENCE, DOVETAIL and PUBLISH (06 R144-R146, R157). -/

/-- Settles O14: each word is one update of its task. -/
theorem orderWords : Obligations.OrderWords := by
  unfold Obligations.OrderWords
  intro a s g u Marked
  refine ⟨fun ord scope h => completes_of_modTask h (.inr rfl) rfl rfl, fun h hloads hstores => ?dovetail, ?publish⟩
  case dovetail =>
    refine completes_of_modTask h (.inr rfl) rfl ?_
    simp only [loadRoom_issue hloads, storeRoom_issue hstores]
    rfl
  case publish =>
    intro ord scope x tgt w h hroom hx
    refine completes_of_modTask h (.inr rfl) rfl ?_
    have hread : readScalar (ctxOf a w s) x (atIssue a w s) = (srcVal u x, atIssue a w s) := h.read (h.access rfl) (by simp [w, accCtl])
    simp only [storeRoom_issue hroom, hread, checkAccess_of_reaches 0 hx]
    rfl

end Sys2Proof.Machine
end

section
namespace Sys2Proof.Machine

open Sys2Proof

/-! A trap raised at a home leaves memory and the tasks alone (14 R377, R378). -/

section
variable {a : Agent} {x : Access} {i : TrapInfo} {s : State} {p : Nat}

@[simp] theorem logTrap_attr (p : Nat) (r : TrapRecord) (s : State) : (logTrap p r s).attr = s.attr := by
  simp [logTrap, apply_ite State.attr]

theorem logMachine_mem_attr_parts (p : Nat) (i : TrapInfo) (s : State) :
    (logMachine p i s).mem = s.mem ∧ (logMachine p i s).attr = s.attr ∧ (logMachine p i s).parts = s.parts := by
  unfold logMachine
  split <;> simp

theorem homeTrap_same (a : Agent) (x : Access) (i : TrapInfo) (s : State) :
    (homeTrap a x i s).mem = s.mem ∧ (homeTrap a x i s).attr = s.attr ∧ (homeTrap a x i s).cores = s.cores ∧ (homeTrap a x i s).clus = s.clus := by
  cases hp : s.partOf? a.cluster with
  | none => simp [homeTrap, hp]
  | some p =>
    cases hw : i.wait
    · simp [homeTrap, raiseTrap, hp, hw, stopStream, startDiscard, logMachine_same, logTrap_same, logMachine_mem_attr_parts]
    · simp [homeTrap, hp, hw]

theorem traplog_modLaunch (f : Launch → Launch) : ((s.modLaunch p f).part p).traplog = (s.part p).traplog := by
  rw [State.modLaunch, State.part_modPart_self]

/-- The record of a trap raised at a home stands last in the log, if the log has room. -/
theorem traplog_homeTrap (hp : s.partOf? a.cluster = some p) (hw : i.wait = false) (hroom : (keptLog (s.part p)).length < 8) :
    ((homeTrap a x i s).part p).traplog = keptLog (s.part p) ++ [trapRecord a i i.code.cls true (some x.pc) p s] := by
  obtain ⟨-, -, hparts⟩ := logMachine_mem_attr_parts p i (logTrap p (trapRecord a i i.code.cls true (some x.pc) p s) s)
  simp only [homeTrap, raiseTrap, hp, hw, Bool.false_eq_true, if_false, stopStream, startDiscard, traplog_modLaunch, State.part_congr hparts, traplog_logTrap _ hroom]

end

/-- A word that has met a busy cell raises its trap; any other raises none (12 R335). -/
def raiseBusy (a : Agent) (x : Access) (s : State) : State :=
  match x.busy with
  | some (_, va) => homeTrap a x { code := .cellbusy, addr := cellVa va } s
  | none => s

theorem raiseBusy_same (a : Agent) (x : Access) (s : State) : (raiseBusy a x s).mem = s.mem ∧ (raiseBusy a x s).attr = s.attr ∧ (raiseBusy a x s).task a = s.task a := by
  unfold raiseBusy
  split
  · obtain ⟨hmem, hattr, hcores, hclus⟩ := homeTrap_same a x { code := .cellbusy, addr := cellVa ‹_› } s
    exact ⟨hmem, hattr, State.task_congr hcores hclus a⟩
  · exact ⟨rfl, rfl, rfl⟩

/-! Access `i` of a queue is changed, and leaves its queue once its elements have all been performed (06 R140). -/

section
variable {α : Type} {l : List α} {i : Nat} {f : α → α} {x : α}

theorem getElem?_lmod (h : l[i]? = some x) : (lmod l i f)[i]? = some (f x) := by
  induction l generalizing i with
  | nil => exact nomatch h
  | cons y r ih => cases i with
    | zero => exact congrArg (some ∘ f) (Option.some.inj h)
    | succ i => exact ih h

theorem ldel_lmod : ∀ (l : List α) (i : Nat), ldel (lmod l i f) i = ldel l i
  | [], _ => rfl
  | _ :: _, 0 => rfl
  | x :: r, i + 1 => congrArg (x :: ·) (ldel_lmod r i)

end

/-- The load queue or the store queue of a task. -/
def Task.accesses (t : Task) (inStore : Bool) : List Access := if inStore then t.a.stores else t.a.loads

def Task.setAccesses (t : Task) (inStore : Bool) (q : List Access) : Task :=
  if inStore then { t with a := { t.a with stores := q } } else { t with a := { t.a with loads := q } }

/-- The task after access `i`, which was `x`, has become `f x` and is taken out if nothing of it is open. -/
def Task.withAccess (t : Task) (inStore : Bool) (i : Nat) (f : Access → Access) (x : Access) : Task :=
  if (f x).open_.isEmpty then pruneMarks (t.setAccesses inStore (ldel (t.accesses inStore) i)) else t.setAccesses inStore (lmod (t.accesses inStore) i f)

section
variable (t : Task) (st : Bool) (i : Nat) (f : Access → Access) (x : Access)

theorem Task.withAccess_regs : (t.withAccess st i f x).regs = t.regs := by
  unfold Task.withAccess Task.setAccesses
  cases st <;> split <;> rfl
theorem Task.withAccess_q : (t.withAccess st i f x).q = t.q := by
  unfold Task.withAccess Task.setAccesses
  cases st <;> split <;> rfl
theorem Task.withAccess_preds : (t.withAccess st i f x).preds = t.preds := by
  unfold Task.withAccess Task.setAccesses
  cases st <;> split <;> rfl
theorem Task.withAccess_pend : (t.withAccess st i f x).a.pend = t.a.pend := by
  unfold Task.withAccess Task.setAccesses
  cases st <;> split <;> rfl

/-- The queue of the access. -/
theorem Task.withAccess_accesses : (t.withAccess st i f x).accesses st = if (f x).open_.isEmpty then ldel (t.accesses st) i else lmod (t.accesses st) i f := by
  unfold Task.withAccess Task.setAccesses
  cases st <;> split <;> rfl

/-- The other queue. -/
theorem Task.withAccess_others : (t.withAccess st i f x).accesses (!st) = t.accesses (!st) := by
  unfold Task.withAccess Task.setAccesses
  cases st <;> split <;> rfl

end

section
variable {a : Agent} {st : Bool} {i : Nat} {f : Access → Access} {x : Access} {s : State}

theorem modAccess_eq (a : Agent) (st : Bool) (i : Nat) (f : Access → Access) (s : State) :
    modAccess a st i f s = s.modTask a fun t => t.setAccesses st (lmod (t.accesses st) i f) := by
  cases st <;> rfl

theorem retireAccess_of_open (hx : ((s.task a).accesses st)[i]? = some x) (ho : x.open_.isEmpty = false) : retireAccess a st i s = s := by
  unfold Task.accesses at hx
  simp only [retireAccess, hx, ho, Bool.not_false, if_true]

/-- An access whose elements have all been performed is taken out and counted; then a store word that met a busy cell raises its trap (12 R335). -/
theorem retireAccess_of_done (hx : ((s.task a).accesses st)[i]? = some x) (hd : x.open_.isEmpty = true) :
    ∃ s', CountsOnly (s.modTask a fun t => pruneMarks (t.setAccesses st (ldel (t.accesses st) i))) s' ∧
      retireAccess a st i s = raiseBusy a x s' := by
  have htask : (s.modTask a fun t => pruneMarks (t.setAccesses st (ldel (t.accesses st) i))) =
      s.modTask a fun t => pruneMarks (if st then { t with a := { t.a with stores := ldel t.a.stores i } } else { t with a := { t.a with loads := ldel t.a.loads i } }) := by
    cases st <;> rfl
  unfold Task.accesses at hx
  rw [htask]
  simp only [retireAccess, hx, hd, Bool.not_true, Bool.false_eq_true, if_false]
  refine ⟨_, ?_, rfl⟩
  cases x.op with
  | load => exact (countsOnly_agentCtr ..).trans (countsOnly_agentCtr ..)
  | store => exact countsOnly_agentCtr ..
  | atomic => exact countsOnly_agentCtr ..
  | publish => exact countsOnly_agentCtr ..
  | cell => exact .refl _
  | barInit => exact .refl _
  | barAdd => exact .refl _
  | barRead => exact .refl _

/-- What becomes of access `i` when it is changed: counts follow, and a trap for a store word that has met a busy cell. -/
theorem retireAccess_modAccess (f : Access → Access) (hx : ((s.task a).accesses st)[i]? = some x) :
    ∃ s', CountsOnly (s.modTask a fun t => t.withAccess st i f x) s' ∧ retireAccess a st i (modAccess a st i f s) =
      if (f x).open_.isEmpty then raiseBusy a (f x) s' else s' := by
  have htask : (modAccess a st i f s).task a = (s.task a).setAccesses st (lmod ((s.task a).accesses st) i f) := by rw [modAccess_eq, State.task_modTask]
  have hchanged : (((modAccess a st i f s).task a).accesses st)[i]? = some (f x) := by
    rw [htask]
    refine Eq.trans ?_ (getElem?_lmod hx)
    cases st <;> rfl
  cases ho : (f x).open_.isEmpty with
  | false =>
    refine ⟨_, .refl _, ?_⟩
    rw [retireAccess_of_open hchanged ho, modAccess_eq, State.modTask, State.modTask, Task.withAccess, ho]
    rfl
  | true =>
    obtain ⟨s', hcounts, heq⟩ := retireAccess_of_done hchanged ho
    refine ⟨s', ?_, heq⟩
    rw [State.modTask, htask, modAccess_eq, State.modTask, State.setTask_setTask] at hcounts
    rw [State.modTask, Task.withAccess, ho, if_pos rfl, ← ldel_lmod _ i (f := f)]
    cases st <;> exact hcounts

theorem retireAccess_modAccess_same (f : Access → Access) (hx : ((s.task a).accesses st)[i]? = some x) :
    (retireAccess a st i (modAccess a st i f s)).mem = s.mem ∧ (retireAccess a st i (modAccess a st i f s)).attr = s.attr ∧
      (retireAccess a st i (modAccess a st i f s)).task a = (s.task a).withAccess st i f x := by
  obtain ⟨s', hcounts, heq⟩ := retireAccess_modAccess f hx
  have hs' : s'.mem = s.mem ∧ s'.attr = s.attr ∧ s'.task a = (s.task a).withAccess st i f x := by
    refine ⟨hcounts.mem.trans (by simp), hcounts.attr.trans (by simp), ?_⟩
    rw [State.task, hcounts.task?, ← State.task, State.task_modTask]
  rw [heq]
  split
  · obtain ⟨hmem, hattr, htask⟩ := raiseBusy_same a (f x) s'
    rwa [hmem, hattr, htask]
  · exact hs'

/-- An access that has met no busy cell leaves all but the cores and clusters alone. -/
theorem sameOutside_retireAccess_modAccess (f : Access → Access) (hx : ((s.task a).accesses st)[i]? = some x) (hb : (f x).busy = none) :
    SameOutside s (retireAccess a st i (modAccess a st i f s)) := by
  obtain ⟨s', hcounts, heq⟩ := retireAccess_modAccess f hx
  rw [heq, raiseBusy, hb, ite_self]
  exact (sameOutside_setTask ..).trans ⟨hcounts.mem, hcounts.attr, hcounts.parts, hcounts.plat, hcounts.modl, hcounts.agenda⟩

/-- A store word whose last element has been performed and that has met a busy cell has its trap in the log, if there is room (12 R335). -/
theorem traplog_retireAccess_modAccess {p j : Nat} {va : W64} (f : Access → Access) (hx : ((s.task a).accesses st)[i]? = some x)
    (hd : (f x).open_.isEmpty = true) (hb : (f x).busy = some (j, va)) (hp : s.partOf? a.cluster = some p) (hroom : (keptLog (s.part p)).length < 8) :
    ∃ r, ((retireAccess a st i (modAccess a st i f s)).part p).traplog = keptLog (s.part p) ++ [r] ∧
      r.code = TrapCode.cellbusy.code ∧ r.addr = cellVa va ∧ r.home = true := by
  obtain ⟨s', hcounts, heq⟩ := retireAccess_modAccess f hx
  have hparts : s'.parts = s.parts := hcounts.parts.trans (by simp)
  rw [← State.part_congr hparts] at hroom ⊢
  rw [heq, hd, if_pos rfl, raiseBusy, hb]
  exact ⟨_, traplog_homeTrap (i := { code := .cellbusy, addr := cellVa va }) ((State.partOf?_congr hparts _).trans hp) rfl hroom, rfl, rfl, rfl⟩

end

end Sys2Proof.Machine
end

section
namespace Sys2Proof.Machine

open Sys2Proof

/-! Bytes as values, and values as bytes (00 R11). -/

/-- The bytes of a value of any width, lowest first. -/
theorem map_extractLsb'_byte {w : Nat} (v : BitVec w) (n : Nat) : ((List.range n).map fun k => v.extractLsb' (8 * k) 8) = leBytes n v.toNat := by
  refine List.ext_getElem (by simp [length_leBytes]) fun k hk hk' => ?_
  have hlt : k < n := by simpa using hk
  rw [← List.getD_eq_getElem _ 0#8 hk', getD_leBytes hlt, List.getElem_map, List.getElem_range]
  refine BitVec.eq_of_toNat_eq ?_
  rw [BitVec.extractLsb'_toNat, Nat.shiftRight_eq_div_pow, pow_mul, BitVec.toNat_ofNat]
  rfl

theorem leBytes_leValue : ∀ bs : List Byte, leBytes bs.length (leValue bs) = bs
  | [] => rfl
  | b :: bs => by
    have hlow : BitVec.ofNat 8 (b.toNat + 256 * leValue bs) = b := BitVec.eq_of_toNat_eq (by have := b.isLt; simp only [BitVec.toNat_ofNat]; omega)
    have hrest : (b.toNat + 256 * leValue bs) / 256 = leValue bs := by have := b.isLt; omega
    rw [List.length_cons, leBytes, leValue, hlow, hrest, leBytes_leValue bs]

theorem leValue_lt : ∀ bs : List Byte, leValue bs < 256 ^ bs.length
  | [] => Nat.one_pos
  | b :: bs => by
    have ih := leValue_lt bs
    have hb := b.isLt
    rw [leValue, List.length_cons, Nat.pow_succ]
    omega

theorem extractLsb'_ofNat_leValue (bs : List Byte) {k : Nat} (hk : k < 8) : (BitVec.ofNat 64 (leValue bs)).extractLsb' (8 * k) 8 = bs.getD k 0#8 := by
  rw [extractLsb'_byte, BitVec.toNat_ofNat, ofNat_mod_div _ hk, ofNat_leValue_div]

theorem getLsbD_ofNat_leValue {bs : List Byte} {k : Nat} (hk : 8 * bs.length ≤ k) : (BitVec.ofNat 64 (leValue bs)).getLsbD k = false := by
  have hlt : leValue bs < 2 ^ k := calc
    leValue bs < 256 ^ bs.length := leValue_lt bs
    _ = 2 ^ (8 * bs.length) := (pow_mul 2 8 _).symm
    _ ≤ 2 ^ k := Nat.pow_le_pow_right Nat.two_pos hk
  rw [BitVec.getLsbD_ofNat, Nat.testBit_lt_two_pow hlt, Bool.and_false]

/-! What a load element brings (05 R132; 06 R141). -/

section
variable {t : Task} {seq b : Nat}

/-- No earlier store of the task that is open covers the byte. -/
theorem forwardByte_of_uncovered (h : ∀ z ∈ t.a.stores, z.isStore = true → z.seq < seq → ∀ f ∈ z.open_, ∀ c, f.tgt = .byte c → b < c ∨ c + f.n ≤ b) :
    forwardByte t seq b = none := by
  refine List.findSome?_eq_none_iff.2 fun z hz => List.findSome?_eq_none_iff.2 fun f hf => ?_
  obtain ⟨hmem, hearlier⟩ := List.mem_filter.1 (List.mem_reverse.1 hz)
  obtain ⟨hstore, hseq⟩ := Bool.and_eq_true_iff.1 hearlier
  split
  · have := h z hmem hstore (of_decide_eq_true hseq) f (List.mem_reverse.1 hf) _ ‹_›
    exact if_neg (by simp only [Bool.and_eq_true, decide_eq_true_eq]; omega)
  · rfl

/-- The youngest earlier store of the task has one open element, which covers the byte. -/
theorem forwardByte_of_covered {pre post : List Access} {z : Access} {f : AccElem} {c : Nat} (hstores : t.a.stores = pre ++ z :: post)
    (hstore : z.isStore = true) (hseq : z.seq < seq) (hopen : z.open_ = [f]) (htgt : f.tgt = .byte c) (hlo : c ≤ b) (hhi : b < c + f.n)
    (hpost : ∀ y ∈ post, seq ≤ y.seq) : forwardByte t seq b = some (f.data.extractLsb' (8 * (b - c)) 8) := by
  have hnone : (post.filter fun z => z.isStore && decide (z.seq < seq)) = [] := List.filter_eq_nil_iff.2 fun y hy => by simp [hpost y hy]
  have hbyte : BitVec.ofNat 8 (f.data.toNat / 2 ^ (8 * (b - c))) = f.data.extractLsb' (8 * (b - c)) 8 := by
    rw [extractLsb'_byte, pow_mul]
    rfl
  simp [forwardByte, hstores, hstore, hseq, hnone, hopen, htgt, hlo, hhi, hbyte]

end

section
variable {s : State} {a : Agent} {t : Task} {seq b : Nat} {e : AccElem}

theorem length_loadBytes (h : loadAddr s (s.partOf a) e.tgt = some b) : (loadBytes s a t seq e).1.length = e.n := by
  simp [loadBytes, h, State.bytes]

theorem getD_loadBytes (h : loadAddr s (s.partOf a) e.tgt = some b) {k : Nat} (hk : k < e.n) :
    (loadBytes s a t seq e).1.getD k 0#8 = (forwardByte t seq (b + k)).getD (s.byte (b + k)) := by
  rw [List.getD_eq_getElem _ _ (by rwa [length_loadBytes h])]
  simp [loadBytes, h, State.bytes]

end

/-! Stores reach memory (05 R132; 13 R374). -/

section
variable {s : State} {a b d : Nat}

theorem State.byte_makeUndef_of_outside {lo hi : Nat} (h : d < lo ∨ hi ≤ d) : (s.makeUndef lo hi).byte d = s.byte d := by
  have hout : (decide (lo ≤ d) && decide (d < hi)) = false := by
    simp only [Bool.and_eq_false_iff, decide_eq_false_iff_not]
    omega
  simp only [State.byte, State.makeUndef, State.drawn, undefByte, List.find?_cons, hout]

/-- A write to a page that has expired makes the page's other bytes undefined, and no others. -/
theorem State.byte_stampPage (h : s.expired b = false ∨ d / 4096 ≠ b / 4096) : (s.stampPage b).byte d = s.byte d := by
  unfold State.stampPage
  split
  · cases he : s.expired b with
    | false => rfl
    | true =>
      have hpage : d / 4096 ≠ b / 4096 := h.resolve_left (by simp [he])
      exact State.byte_makeUndef_of_outside (by omega)
  · rfl

/-- The registers of every partition. -/
def State.regs (s : State) : Nat → PartRegs := fun q => (s.part q).regs

theorem State.regs_modPart {p : Nat} {f : Part → Part} (h : ∀ x, (f x).regs = x.regs) : (s.modPart p f).regs = s.regs := by
  funext q
  by_cases hq : q = p
  · rw [hq, State.regs, State.part_modPart_self, h, State.regs]
  · rw [State.regs, State.part_modPart_of_ne _ _ hq, State.regs]

theorem State.regs_touchImages (s : State) (a n : Nat) : (s.touchImages a n).regs = s.regs := by
  unfold State.touchImages
  split
  · rfl
  · split
    · rfl
    · refine foldl_fixed State.regs _ (fun s e => ?_) _ _
      dsimp only
      split
      · exact (funext fun q => congrArg Part.regs (State.part_congr (State.bbEvent_parts ..) q)).trans (State.regs_modPart fun _ => rfl)
      · rfl

/-- The age of a page goes by the partitions' registers, the stamps and the time. -/
theorem expired_of_regs {t : State} (hr : t.regs = s.regs) (ha : t.attr = s.attr) (hm : t.modl = s.modl) (b : Nat) : t.expired b = s.expired b := by
  have hregs (q : Nat) : (t.part q).regs = (s.part q).regs := congrFun hr q
  have hstamps : t.stampsOf b = s.stampsOf b := by
    unfold State.stampsOf State.lpPart
    simp only [hregs, ha]
  unfold State.expired State.transient State.age
  simp only [hstamps, hm]

theorem State.byte_store_outside {bs : List Byte} (hd : d < b ∨ b + bs.length ≤ d) (h : s.expired b = false ∨ d / 4096 ≠ b / 4096) :
    (s.store b bs).byte d = s.byte d := by
  have hpage : (s.touchImages b bs.length).expired b = false ∨ d / 4096 ≠ b / 4096 := by
    rwa [expired_of_regs (s.regs_touchImages b bs.length) (by simp) (by simp)]
  calc (s.store b bs).byte d
      = ((s.touchImages b bs.length).stampPage b).byte d := State.byte_putBytes_of_outside _ _ _ _ hd
    _ = (s.touchImages b bs.length).byte d := State.byte_stampPage hpage
    _ = s.byte d := State.byte_congr (by simp) (by simp) d

theorem wrote_store (hinv : s.Inv) (b : Nat) (bs : List Byte) : Wrote s (s.store b bs) b bs :=
  ⟨fun k hk => by rw [State.byte_store_inside s b bs hinv k hk, List.getD_eq_getElem _ _ hk], fun _ => State.byte_store_outside⟩

/-- Writing the bytes that stand there is no write. -/
theorem wrote_bytes (s : State) (b n : Nat) : Wrote s s b (s.bytes b n) := by
  refine ⟨fun k hk => ?_, fun _ _ _ => rfl⟩
  rw [List.getD_eq_getElem _ _ hk]
  simp [State.bytes]

theorem Wrote.congr {s' t t' : State} {bs : List Byte} (h : Wrote s t b bs) (hs : CountsOnly s' s) (hmem : t'.mem = t.mem) (hattr : t'.attr = t.attr) :
    Wrote s' t' b bs := by
  obtain ⟨hin, hout⟩ := h
  have ht (d : Nat) : t'.byte d = t.byte d := State.byte_congr hmem hattr d
  refine ⟨fun k hk => (ht _).trans (hin k hk), fun d hd he => ?_⟩
  rw [ht, ← State.byte_congr hs.mem hs.attr]
  exact hout d hd (by rwa [expired_congr hs.parts hs.attr hs.modl])

end

end Sys2Proof.Machine
end

section
namespace Sys2Proof.Machine

open Sys2Proof

/-! Elements performed at their homes (06 R138-R142, R147, R149). -/

theorem CountsOnly.task {s t : State} (h : CountsOnly s t) (a : Agent) : t.task a = s.task a := by rw [State.task, h.task?, State.task]

theorem CountsOnly.sameOutside {s t : State} (h : CountsOnly s t) : SameOutside s t := ⟨h.mem, h.attr, h.parts, h.plat, h.modl, h.agenda⟩

theorem countHome_counts (a : Agent) (h : Home) (s : State) : CountsOnly s (countHome a h s) := by
  unfold countHome
  split
  · split
    · exact (countsOnly_coreCtr ..).trans (countsOnly_drawn _)
    · exact countsOnly_coreCtr ..
  · exact .refl s

section
variable (x : Access) (j : Nat) (v : W64) (t : Task)

theorem deliver_accesses (st : Bool) : (deliver x j v t).accesses st = t.accesses st := by
  unfold deliver
  cases x.dst with
  | reg k => dsimp only; split <;> rfl
  | none => rfl
  | sq n => rfl
  | vq n => rfl

theorem deliver_preds : (deliver x j v t).preds = t.preds := by
  unfold deliver
  cases x.dst with
  | reg k => dsimp only; split <;> rfl
  | none => rfl
  | sq n => rfl
  | vq n => rfl

end

section
variable {a : Agent} {s : State} {st : Bool} {i : Nat} {x : Access} {e : AccElem}

theorem Performs.accesses (h : Performs a s st i x e) : ((s.task a).accesses st)[i]? = some x := h.entry

/-- An element that nothing keeps is performed. -/
theorem Performs.performs (h : Performs a s st i x e) : accessPerformed a st i e.j s = performElem a st i x e s := by
  obtain ⟨t, ht⟩ := Option.isSome_iff_exists.1 h.running
  have htask : s.task a = t := by rw [State.task, ht, Option.getD_some]
  have hentry := h.entry
  have hfree := h.free
  rw [htask] at hentry hfree
  simp only [accessPerformed, ht, hentry, h.accessing, h.home, h.elem, hfree, Bool.not_true, Bool.or_self, Bool.false_eq_true, if_false]

theorem exec_accessPerformed {ctl : Bool} {n : Nat} (h : Performs (performer ctl n) s st i x e) :
    exec (.accessPerformed ctl n st i e.j) s = .next (performElem (performer ctl n) st i x e s) :=
  congrArg Host.Outcome.next h.performs

theorem readTrap_of_sound {b : Nat} (hb : loadAddr s (s.partOf a) e.tgt = some b) (hecc : s.eccHit b e.n = false) (hexp : s.expired b = false) :
    readTrap s a e = none := by
  simp only [readTrap, hb, hecc, hexp, Bool.false_eq_true, if_false]

/-- Delivering a value leaves the access in its place. -/
theorem accesses_delivered {s' : State} (h : Performs a s st i x e) (hs : s'.task a = s.task a) (v : W64) :
    (((s'.modTask a (deliver x e.j v)).task a).accesses st)[i]? = some x := by
  rw [State.task_modTask, deliver_accesses, hs, h.accesses]

end

/-! Loads (05 R132; 06 R141). -/

/-- A load of which element `j` has been performed; `fwd`: a byte of it has come from a store of its task. -/
def elemLoaded (j : Nat) (fwd : Bool) (x : Access) : Access := { elemDone j x with hit := x.hit || fwd }

/-- What an element of a load of word `seq` brings. -/
def loadValue (s : State) (a : Agent) (seq : Nat) (e : AccElem) : W64 := BitVec.ofNat 64 (leValue (loadBytes s a (s.task a) seq e).1)

section
variable {a : Agent} {s : State} {i seq b : Nat} {x : Access} {e : AccElem}

theorem extractLsb'_loadValue (h : loadAddr s (s.partOf a) e.tgt = some b) (hn : e.n ≤ 8) {k : Nat} (hk : k < e.n) :
    (loadValue s a seq e).extractLsb' (8 * k) 8 = (forwardByte (s.task a) seq (b + k)).getD (s.byte (b + k)) := by
  rw [loadValue, extractLsb'_ofNat_leValue _ (by omega), getD_loadBytes h hk]

theorem getLsbD_loadValue (h : loadAddr s (s.partOf a) e.tgt = some b) {k : Nat} (hk : 8 * e.n ≤ k) : (loadValue s a seq e).getLsbD k = false :=
  getLsbD_ofNat_leValue (by rwa [length_loadBytes h])

theorem performLoad_of_read (h : readTrap s a e = none) : performLoad a i x e s =
    retireAccess a false i (modAccess a false i (elemLoaded e.j (loadBytes s a (s.task a) x.seq e).2)
      ((countHome a (elemHome a e) s).modTask a (deliver x e.j (loadValue s a x.seq e)))) := by
  simp only [performLoad, h]
  rfl

/-- A load element that meets no error is delivered to its task, which alone changes. -/
theorem performLoad_same (h : Performs a s false i x e) (hr : readTrap s a e = none) (hb : x.busy = none) :
    (performLoad a i x e s).task a =
      (deliver x e.j (loadValue s a x.seq e) (s.task a)).withAccess false i (elemLoaded e.j (loadBytes s a (s.task a) x.seq e).2) x ∧
    SameOutside s (performLoad a i x e s) := by
  have hcounts := countHome_counts a (elemHome a e) s
  have hx := accesses_delivered h (hcounts.task a) (loadValue s a x.seq e)
  rw [performLoad_of_read hr]
  obtain ⟨-, -, htask⟩ := retireAccess_modAccess_same (elemLoaded e.j (loadBytes s a (s.task a) x.seq e).2) hx
  rw [State.task_modTask, hcounts.task] at htask
  exact ⟨htask, (hcounts.sameOutside.trans (sameOutside_setTask ..)).trans (sameOutside_retireAccess_modAccess _ hx hb)⟩

end

/-- Settles O27: the value is that of the bytes that the load meets, and its delivery is one update of its task, which takes the access out once it is done. -/
theorem loadsPerformed : Obligations.LoadsPerformed := by
  unfold Obligations.LoadsPerformed
  intro ctl n i s x e b a u h hop hb hecc hexp hn hbusy
  obtain ⟨htask, hout⟩ := performLoad_same h (readTrap_of_sound hb hecc hexp) hbusy
  have hbyte {k : Nat} (hk : k < e.n) := extractLsb'_loadValue (seq := x.seq) hb hn hk
  refine ⟨loadValue s a x.seq e, (loadBytes s a u x.seq e).2, _, (exec_accessPerformed h).trans (by rw [performElem, hop]), fun k hk hfree => ?bare,
    fun k pre post z f c hk hstores hstore hseq hopen htgt hlo hhi _ hpost => ?forwarded, fun k hk => getLsbD_loadValue hb hk, ?_⟩
  case bare => rw [hbyte hk, forwardByte_of_uncovered hfree, Option.getD_none]
  case forwarded => rw [hbyte hk, forwardByte_of_covered hstores hstore hseq hopen htgt hlo hhi hpost, Option.getD_some]
  rw [htask]
  refine ⟨Task.withAccess_regs .., Task.withAccess_q .., Task.withAccess_pend .., ?loads, ?stores, (Task.withAccess_preds ..).trans (deliver_preds ..), hout⟩
  case loads => exact (Task.withAccess_accesses _ false ..).trans (by rw [deliver_accesses]; rfl)
  case stores => exact (Task.withAccess_others _ false ..).trans (deliver_accesses _ _ _ _ true)

end Sys2Proof.Machine
end

section
namespace Sys2Proof.Machine

open Sys2Proof

/-! Stores (06 R138, R140; 12 R335). -/

/-- A store word after its element `e` has met a cell outside VALUE: it keeps the first such element. -/
def elemRefused (e : AccElem) (x : Access) : Access := { elemDone e.j x with busy := some (x.busy.getD (e.j, e.va)) }

/-- A write looks at the states of the units that it changes in part, and one in error is its only error. -/
theorem stateTrap_code {s : State} {b n : Nat} {info : TrapInfo} (h : stateTrap s b n = some info) : info.code = .eccunc := by
  unfold stateTrap at h
  dsimp only at h
  split at h
  · exact Option.some.inj h ▸ rfl
  · exact nomatch h

theorem storable_iff {s : State} {b : Nat} : storable s b = true ↔ s.cellSt b = .value := by
  unfold storable
  cases s.cellSt b <;> decide

theorem storable_congr {s t : State} (h : t.attr = s.attr) (b : Nat) : storable t b = storable s b := by
  rw [storable, storable, State.cellSt, State.cellSt, h]

section
variable {a : Agent} {s : State} {i b : Nat} {x : Access} {e : AccElem}

theorem performStore_of_trap {info : TrapInfo} (ht : e.tgt = .byte b) (h : stateTrap s b e.n = some info) : performStore a i x e s = homeTrap a x info s := by
  simp only [performStore, ht, h]

theorem performStore_of_value (ht : e.tgt = .byte b) (h : stateTrap s b e.n = none) (hv : s.cellSt b = .value) : performStore a i x e s =
    retireAccess a true i (modAccess a true i (elemDone e.j) ((countHome a (elemHome a e) s).store b (leBytes e.n e.data.toNat))) := by
  have hstorable : storable (countHome a (elemHome a e) s) b = true := (storable_congr (countHome_counts ..).attr b).trans (storable_iff.2 hv)
  simp only [performStore, ht, h, hstorable, if_true]

theorem performStore_of_refused (ht : e.tgt = .byte b) (h : stateTrap s b e.n = none) (hv : s.cellSt b ≠ .value) : performStore a i x e s =
    retireAccess a true i (modAccess a true i (elemRefused e) (countHome a (elemHome a e) s)) := by
  have hstorable : ¬ storable (countHome a (elemHome a e) s) b = true := by rwa [storable_congr (countHome_counts ..).attr, storable_iff]
  simp only [performStore, ht, h, if_neg hstorable]
  rfl

/-- A store element in a unit that it may write writes its bytes. -/
theorem performStore_writes (h : Performs a s true i x e) (hinv : s.Inv) (ht : e.tgt = .byte b) (hs : stateTrap s b e.n = none) (hv : s.cellSt b = .value) :
    Wrote s (performStore a i x e s) b (leBytes e.n e.data.toNat) ∧ (performStore a i x e s).task a = (s.task a).withAccess true i (elemDone e.j) x := by
  have hcounts := countHome_counts a (elemHome a e) s
  have htask : ((countHome a (elemHome a e) s).store b (leBytes e.n e.data.toNat)).task a = s.task a :=
    (State.task_congr (State.store_cores ..) (State.store_clus ..) a).trans (hcounts.task a)
  have hinv' : (countHome a (elemHome a e) s).Inv := by rwa [State.Inv, hcounts.mem]
  rw [performStore_of_value ht hs hv]
  obtain ⟨hmem, hattr, hdone⟩ := retireAccess_modAccess_same (elemDone e.j) (by rw [htask]; exact h.accesses)
  exact ⟨(wrote_store hinv' b _).congr hcounts hmem hattr, by rw [hdone, htask]⟩

/-- A store element that meets a cell outside VALUE writes nothing. -/
theorem performStore_refused (h : Performs a s true i x e) (ht : e.tgt = .byte b) (hs : stateTrap s b e.n = none) (hv : s.cellSt b ≠ .value) :
    SameBytes s (performStore a i x e s) ∧ (performStore a i x e s).task a = (s.task a).withAccess true i (elemRefused e) x := by
  have hcounts := countHome_counts a (elemHome a e) s
  rw [performStore_of_refused ht hs hv]
  obtain ⟨hmem, hattr, hdone⟩ := retireAccess_modAccess_same (elemRefused e) (by rw [hcounts.task]; exact h.accesses)
  exact ⟨State.byte_congr (hmem.trans hcounts.mem) (hattr.trans hcounts.attr), by rw [hdone, hcounts.task]⟩

/-- Its word, once done, traps with CELLBUSY and the cell's address, if no element before it has met such a cell. -/
theorem traplog_performStore_refused {p : Nat} (h : Performs a s true i x e) (ht : e.tgt = .byte b) (hs : stateTrap s b e.n = none) (hv : s.cellSt b ≠ .value)
    (hb : x.busy = none) (hd : (elemDone e.j x).open_ = []) (hp : s.partOf? a.cluster = some p) (hroom : (keptLog (s.part p)).length < 8) :
    ∃ r, ((performStore a i x e s).part p).traplog = keptLog (s.part p) ++ [r] ∧ r.code = TrapCode.cellbusy.code ∧ r.addr = cellVa e.va ∧ r.home = true := by
  have hcounts := countHome_counts a (elemHome a e) s
  have hbusy : (elemRefused e x).busy = some (e.j, e.va) := by rw [elemRefused, hb, Option.getD_none]
  have hopen : (elemRefused e x).open_.isEmpty = true := List.isEmpty_iff.2 hd
  rw [performStore_of_refused ht hs hv, ← State.part_congr hcounts.parts]
  rw [← State.part_congr hcounts.parts] at hroom
  exact traplog_retireAccess_modAccess _ (by rw [hcounts.task]; exact h.accesses) hopen hbusy ((State.partOf?_congr hcounts.parts _).trans hp) hroom

end

/-- Settles O28: a store element writes, or is refused and its word traps at its end; either way it is one update of its task's store queue. -/
theorem storesPerformed : Obligations.StoresPerformed := by
  unfold Obligations.StoresPerformed
  intro ctl n i s x e b a u hinv h hop ht hn hbusy
  have hexec : exec (.accessPerformed ctl n true i e.j) s = .next (performStore a i x e s) := (exec_accessPerformed h).trans (by rw [performElem, hop])
  have hsides {t : State} {f : Access → Access} (hu : t.task a = u.withAccess true i f x) :
      (t.task a).regs = u.regs ∧ (t.task a).q = u.q ∧ (t.task a).preds = u.preds ∧ (t.task a).a.loads = u.a.loads := by
    rw [hu]
    exact ⟨Task.withAccess_regs .., Task.withAccess_q .., Task.withAccess_preds .., Task.withAccess_others _ true ..⟩
  refine ⟨fun info hi => ⟨by rw [hexec, performStore_of_trap ht hi], stateTrap_code hi⟩, fun hs => ⟨_, hexec, ?_⟩⟩
  by_cases hv : s.cellSt b = .value
  · obtain ⟨hwrote, hu⟩ := performStore_writes h hinv ht hs hv
    refine ⟨fun _ => ⟨by rwa [map_extractLsb'_byte], ?stores⟩, fun hne => absurd hv hne, hsides hu⟩
    case stores => exact (congrArg (Task.accesses · true) hu).trans (Task.withAccess_accesses _ true ..)
  · obtain ⟨hbytes, hu⟩ := performStore_refused h ht hs hv
    refine ⟨fun he => absurd he hv, fun _ => ⟨hbytes, fun hd hp hstale hroom => ?trap⟩, hsides hu⟩
    case trap =>
      have hkept : keptLog (s.part (s.partOf a)) = (s.part (s.partOf a)).traplog := by rw [keptLog, hstale, if_neg Bool.false_ne_true]
      rw [← hkept] at hroom ⊢
      exact traplog_performStore_refused h ht hs hv hbusy hd hp hroom

/-! Atomics (06 R147, R149). -/

/-- What an atomic leaves in its word. -/
def atomicValue {w : Nat} (op : AtomicOp) (old opd : BitVec w) (swap : W64) : BitVec w :=
  match op with
  | .add => old + opd
  | .and => old &&& opd
  | .or => old ||| opd
  | .xor => old ^^^ opd
  | .min => if old.toInt ≤ opd.toInt then old else opd
  | .max => if old.toInt ≤ opd.toInt then opd else old
  | .swp => opd
  | .cas => if old = opd then BitVec.ofNat w swap.toNat else old

theorem atomicNew_of_writes {w : Nat} {op : AtomicOp} {old opd : BitVec w} (h : op = .cas → old = opd) (swap : W64) :
    atomicNew op w old.toNat opd.toNat swap.toNat = some (atomicValue op old opd swap).toNat := by
  have hsigned : ((BitVec.ofNat w old.toNat).toInt ≤ (BitVec.ofNat w opd.toNat).toInt) = (old.toInt ≤ opd.toInt) := by
    simp only [BitVec.ofNat_toNat, BitVec.setWidth_eq]
  cases op with
  | add => exact congrArg some (BitVec.toNat_add old opd).symm
  | and => exact congrArg some (BitVec.toNat_and old opd).symm
  | or => exact congrArg some (BitVec.toNat_or old opd).symm
  | xor => exact congrArg some (BitVec.toNat_xor old opd).symm
  | swp => rfl
  | min => simp only [atomicNew, atomicValue, hsigned, apply_ite BitVec.toNat]
  | max => simp only [atomicNew, atomicValue, hsigned, apply_ite BitVec.toNat]
  | cas => simp only [atomicNew, atomicValue, h rfl, if_true, BitVec.toNat_ofNat]

/-- ACAS on another value than its operand writes nothing. -/
theorem atomicNew_cas_of_ne {w : Nat} {old opd : BitVec w} (h : old ≠ opd) (swap : W64) : atomicNew .cas w old.toNat opd.toNat swap.toNat = none :=
  if_neg fun he => h (BitVec.eq_of_toNat_eq he)

/-- The word of `n` bytes at an address. -/
def homeWord (s : State) (b n : Nat) : BitVec (8 * n) := BitVec.ofNat _ (s.value b n)

section
variable (s : State) (b n : Nat)

theorem State.length_bytes : (s.bytes b n).length = n := by simp [State.bytes]

theorem toNat_homeWord : (homeWord s b n).toNat = s.value b n := by
  have hlt : s.value b n < 2 ^ (8 * n) := calc
    s.value b n < 256 ^ (s.bytes b n).length := leValue_lt _
    _ = 2 ^ (8 * n) := by rw [s.length_bytes]; exact (pow_mul 2 8 n).symm
  rw [homeWord, BitVec.toNat_ofNat, Nat.mod_eq_of_lt hlt]

theorem leBytes_homeWord : leBytes n (homeWord s b n).toNat = s.bytes b n := by
  have h := leBytes_leValue (s.bytes b n)
  rwa [s.length_bytes, ← State.value, ← toNat_homeWord] at h

end

/-- The home of an atomic after it has written, if it writes. -/
def putNew (b n : Nat) (v : Option Nat) (s : State) : State :=
  match v with
  | some v => s.store b (leBytes n v)
  | none => s

theorem putNew_task (b n : Nat) (v : Option Nat) (s : State) (a : Agent) : (putNew b n v s).task a = s.task a := by
  cases v with
  | none => rfl
  | some v => exact State.task_congr (State.store_cores ..) (State.store_clus ..) a

section
variable {a : Agent} {s : State} {i b : Nat} {x : Access} {e : AccElem} {op : AtomicOp} {swap : W64}

theorem wrote_putNew {n : Nat} {opd : BitVec (8 * n)} (hinv : s.Inv) :
    Wrote s (putNew b n (atomicNew op (8 * n) (homeWord s b n).toNat opd.toNat swap.toNat) s) b (leBytes n (atomicValue op (homeWord s b n) opd swap).toNat) := by
  by_cases hwrites : op = .cas → homeWord s b n = opd
  · rw [atomicNew_of_writes hwrites]
    exact wrote_store hinv b _
  · obtain ⟨rfl, hne⟩ := Classical.not_imp.1 hwrites
    rw [atomicNew_cas_of_ne hne, atomicValue, if_neg hne, leBytes_homeWord]
    exact wrote_bytes s b n

theorem performAtomic_of_read (ht : e.tgt = .byte b) (hr : readTrap s a e = none) (hv : s.cellSt b = .value) : performAtomic a i x e op swap s =
    retireAccess a true i (modAccess a true i (elemDone e.j)
      ((putNew b e.n (atomicNew op (8 * e.n) (s.value b e.n) (e.data.toNat % 2 ^ (8 * e.n)) swap.toNat) (countHome a (elemHome a e) s)).modTask a
        (deliver x e.j (BitVec.ofNat 64 (s.value b e.n))))) := by
  simp only [performAtomic, ht, hr, storable_iff.2 hv, Bool.not_true, Bool.false_eq_true, if_false]
  rfl

/-- An atomic that meets no error leaves its new value at its home and delivers the old one. -/
theorem performAtomic_done (h : Performs a s true i x e) (hinv : s.Inv) (ht : e.tgt = .byte b) (hr : readTrap s a e = none) (hv : s.cellSt b = .value)
    {opd : BitVec (8 * e.n)} (hopd : opd = BitVec.ofNat _ e.data.toNat) :
    Wrote s (performAtomic a i x e op swap s) b (leBytes e.n (atomicValue op (homeWord s b e.n) opd swap).toNat) ∧
      (op = .cas → homeWord s b e.n ≠ opd → (performAtomic a i x e op swap s).mem = s.mem) ∧
      (performAtomic a i x e op swap s).task a = (deliver x e.j (BitVec.ofNat 64 (homeWord s b e.n).toNat) (s.task a)).withAccess true i (elemDone e.j) x := by
  have hcounts := countHome_counts a (elemHome a e) s
  have hvalue : homeWord (countHome a (elemHome a e) s) b e.n = homeWord s b e.n := by
    simp only [homeWord, State.value, State.bytes, State.byte_congr hcounts.mem hcounts.attr]
  have hinv' : (countHome a (elemHome a e) s).Inv := by rwa [State.Inv, hcounts.mem]
  have hnew : e.data.toNat % 2 ^ (8 * e.n) = opd.toNat := by rw [hopd, BitVec.toNat_ofNat]
  rw [performAtomic_of_read ht hr hv, hnew, ← toNat_homeWord]
  generalize hstored : putNew b e.n (atomicNew op (8 * e.n) (homeWord s b e.n).toNat opd.toNat swap.toNat) (countHome a (elemHome a e) s) = s1
  have htask : s1.task a = s.task a := by rw [← hstored, putNew_task, hcounts.task]
  obtain ⟨hmem, hattr, hdone⟩ := retireAccess_modAccess_same (elemDone e.j) (accesses_delivered h htask (BitVec.ofNat 64 (homeWord s b e.n).toNat))
  rw [State.task_modTask, htask] at hdone
  refine ⟨?wrote, fun hcas hne => ?kept, hdone⟩
  case wrote =>
    have hwrote := wrote_putNew (b := b) (op := op) (opd := opd) (swap := swap) hinv'
    rw [hvalue, hstored] at hwrote
    exact hwrote.congr hcounts (hmem.trans (State.modTask_mem ..)) (hattr.trans (State.modTask_attr ..))
  case kept =>
    rw [hmem, State.modTask_mem, ← hstored, hcas, atomicNew_cas_of_ne hne]
    exact hcounts.mem

end

/-- Settles O29: the write and the delivery of the old value are one event. -/
theorem atomicsPerformed : Obligations.AtomicsPerformed := by
  unfold Obligations.AtomicsPerformed
  intro ctl n i s x e b op wide swap a u m old opd new hinv h hop hn ht hecc hexp hv
  clear_value m
  subst hn
  have hr : readTrap s a e = none := readTrap_of_sound (by rw [ht]; rfl) hecc hexp
  obtain ⟨hwrote, hkept, hu⟩ := performAtomic_done (op := op) (swap := swap) (opd := opd) h hinv ht hr hv rfl
  refine ⟨_, (exec_accessPerformed h).trans (by rw [performElem, hop]), ?_, hkept, ?_⟩
  · rw [map_extractLsb'_byte]
    exact hwrote
  · rw [hu]
    exact ⟨Task.withAccess_regs .., Task.withAccess_pend .., Task.withAccess_q .., (Task.withAccess_preds ..).trans (deliver_preds ..),
      (Task.withAccess_others _ true ..).trans (deliver_accesses _ _ _ _ false)⟩

end Sys2Proof.Machine
end

section
namespace Sys2Proof.Machine

open Sys2Proof

/-! What an execute stream's word does inside its core (07 R167). -/

/-- From `s` to `t` nothing changes but the vector unit, the counters and the running task of core `c`. -/
structure InCore (c : Nat) (s t : State) : Prop where
  outside : SameOutside s t
  cores : ∀ k, k ≠ c → t.core k = s.core k
  tasks : ∀ b : Agent, b.core? ≠ some c → t.task? b = s.task? b
  eng : (t.core c).eng = (s.core c).eng
  dmr : (t.core c).dmr = (s.core c).dmr

theorem InCore.refl (c : Nat) (s : State) : InCore c s s :=
  { outside := .refl s, cores := fun _ _ => rfl, tasks := fun _ _ => rfl, eng := rfl, dmr := rfl }

theorem InCore.trans {c : Nat} {s t u : State} (h : InCore c s t) (k : InCore c t u) : InCore c s u :=
  { outside := h.outside.trans k.outside, cores := fun n hn => (k.cores n hn).trans (h.cores n hn), tasks := fun b hb => (k.tasks b hb).trans (h.tasks b hb)
    eng := k.eng.trans h.eng, dmr := k.dmr.trans h.dmr }

theorem inCore_setTask (s : State) (c : Nat) (t : Task) : InCore c s (s.setTask (.execute c) t) :=
  { outside := sameOutside_setTask .., cores := fun _ hk => State.core_modCore_of_ne _ _ hk, tasks := fun _ hb => task?_setTask_of_ne s t (.inl hb)
    eng := State.eng_setTask .., dmr := State.dmr_setTask .. }

theorem inCore_modTask (s : State) (c : Nat) (f : Task → Task) : InCore c s (s.modTask (.execute c) f) := inCore_setTask ..

theorem inCore_modVec (s : State) (c : Nat) (f : VecState → VecState) : InCore c s (s.modVec (.execute c) f) :=
  { outside := ⟨rfl, rfl, rfl, rfl, rfl, rfl⟩, cores := fun _ hk => State.core_modCore_of_ne _ _ hk
    tasks := fun b _ => s.task?_modCore c (fun k => { k with vec := f k.vec }) (fun _ => ⟨rfl, rfl, rfl⟩) b
    eng := by simp [State.modVec, Agent.core?], dmr := by simp [State.modVec, Agent.core?] }

theorem inCore_agentCtr (s : State) (c : Nat) (k : CoreCtr) (n : Nat) : InCore c s (s.agentCtr (.execute c) k n) :=
  { outside := sameOutside_agentCtr .., cores := fun _ hk => State.core_modCore_of_ne _ _ hk, tasks := fun b _ => task?_agentCtr s (.execute c) k n b
    eng := State.eng_agentCtr .., dmr := State.dmr_agentCtr .. }

theorem inCore_freeCtr (s : State) (c n : Nat) : InCore c s { s with freeCtr := n } :=
  { outside := ⟨rfl, rfl, rfl, rfl, rfl, rfl⟩, cores := fun _ _ => rfl, tasks := fun b _ => by cases b <;> rfl, eng := rfl, dmr := rfl }

theorem countRendezvous_execute (c : Nat) (w : WordInfo) (s : State) : countRendezvous (.execute c) w s = s := by
  have hguard : guardRendezvous (.execute c) w.guard = false := by cases w.guard <;> rfl
  have hroles : w.roles.any (needsRendezvous (.execute c)) = false := List.any_eq_false.2 fun _ _ => Bool.false_ne_true
  rw [countRendezvous, hguard, hroles]
  rfl

theorem inCore_atIssue (c : Nat) (w : WordInfo) (s : State) : InCore c s (atIssue (.execute c) w s) := by
  rw [atIssue_eq]
  refine InCore.trans ?counts (inCore_setTask ..)
  unfold counting countFreeze
  rw [countRendezvous_execute]
  split
  · exact (inCore_agentCtr ..).trans (inCore_freeCtr ..)
  · exact .refl ..

theorem inCore_afterIssue (s : State) (c : Nat) : InCore c s (afterIssue (.execute c) s) := inCore_setTask ..

/-! The vector state of the core, after an update. -/

@[simp] theorem State.vecOf_execute (s : State) (c : Nat) : s.vecOf (.execute c) = (s.core c).vec := rfl

@[simp] theorem State.vec_modVec_execute (s : State) (c : Nat) (f : VecState → VecState) : ((s.modVec (.execute c) f).core c).vec = f (s.core c).vec := by
  simp [State.modVec, Agent.core?]

@[simp] theorem State.vec_freeCtr (s : State) (c n : Nat) : ({ s with freeCtr := n }.core c).vec = (s.core c).vec := rfl

@[simp] theorem State.task_freeCtr (s : State) (n : Nat) (a : Agent) : { s with freeCtr := n }.task a = s.task a := by cases a <;> rfl

@[simp] theorem ctxOf_a (a : Agent) (w : WordInfo) (s : State) : (ctxOf a w s).a = a := rfl

/-! The task at the issue of a word of an execute stream. -/

theorem rowsLanded_execute (c : Nat) (w : WordInfo) (s : State) : rowsLanded (.execute c) w s = s.task (.execute c) ∨
    ∃ p, rowsLanded (.execute c) w s = landKeys p (s.task (.execute c)) := by
  unfold rowsLanded
  dsimp only
  split
  · exact .inl rfl
  · exact .inr ⟨_, rfl⟩

/-- What the issue of a word of an execute stream keeps of its task: all but where it stands and which landed bounds are known to have passed. -/
structure AtIssue (t u : Task) : Prop where
  regs : u.regs = t.regs
  preds : u.preds = t.preds
  entry : u.entry = t.entry
  q : u.q = t.q
  a : u.a = t.a
  clk : u.x.clk = t.x.clk
  scoreboard : u.scoreboard = t.scoreboard
  ready : ∀ k, tget 0 u.x.ready k = tget 0 t.x.ready k ∨ (tget 0 t.x.ready k ≤ t.x.clk ∧ tget 0 u.x.ready k = 0)

theorem AtIssue.refl (t : Task) : AtIssue t t :=
  { regs := rfl, preds := rfl, entry := rfl, q := rfl, a := rfl, clk := rfl, scoreboard := rfl, ready := fun _ => .inl rfl }

theorem AtIssue.trans {t u v : Task} (h : AtIssue t u) (k : AtIssue u v) : AtIssue t v :=
  { regs := k.regs.trans h.regs, preds := k.preds.trans h.preds, entry := k.entry.trans h.entry, q := k.q.trans h.q, a := k.a.trans h.a
    clk := k.clk.trans h.clk, scoreboard := k.scoreboard.trans h.scoreboard
    ready := fun n => by
      have hclk := h.clk
      rcases h.ready n with h1 | ⟨h1, h2⟩ <;> rcases k.ready n with k1 | ⟨k1, k2⟩ <;> omega }

theorem atIssue_unlanded (t : Task) (l : List Pred) : AtIssue t { t with x := { t.x with unlanded := l } } := { AtIssue.refl t with }

theorem atIssue_landKeys (p : Nat → Bool) (t : Task) : AtIssue t (landKeys p t) :=
  { AtIssue.refl t with
    ready := fun k => by
      rw [tget_landKeys]
      split
      · rename_i hp
        exact .inr ⟨of_decide_eq_true (Bool.and_eq_true_iff.1 hp).2, rfl⟩
      · exact .inl rfl }

theorem stepPast_execute (n : Nat) (t : Task) : AtIssue t (stepPast .execute n t) := by
  unfold stepPast
  split
  · exact { AtIssue.refl t with }
  · split <;> exact { AtIssue.refl t with }

theorem entered_execute (w : WordInfo) (c : Nat) (t : Task) : AtIssue t (entered w (.execute c) t) := by
  have hreads : AtIssue t (landReads (.execute c) w t) := (atIssue_unlanded t _).trans (atIssue_landKeys (readsKey w) _)
  exact hreads.trans (stepPast_execute ..)

theorem atIssue_task_execute (w : WordInfo) (c : Nat) (s : State) : AtIssue (s.task (.execute c)) ((atIssue (.execute c) w s).task (.execute c)) := by
  rw [atIssue_task]
  refine AtIssue.trans ?_ (entered_execute ..)
  rcases rowsLanded_execute c w s with h | ⟨p, h⟩ <;> rw [h]
  · exact .refl _
  · exact atIssue_landKeys ..

/-! A ready word and its frame. -/

/-- A masked form reads m0 besides, and is ready when the word is (02 R59). -/
theorem Ready.masked {w : WordInfo} {a : Agent} {s : State} (h : Ready w a s) (m : Bool) : Ready { w with masked := m } a s :=
  { cur := h.cur, live := h.live, noCell := h.noCell, legal := h.legal, arm := h.arm, guard := h.guard, on := h.on, roles := h.roles }

/-- No field of a ready word names a queue that another of its fields names. -/
theorem Ready.noRepeat {w : WordInfo} {a : Agent} {s : State} (h : Ready w a s) : noRepeat (w.roles.filterMap Role.queue?) = true := by
  have hl := h.legal
  simp only [WordInfo.legal, Bool.and_eq_true] at hl
  exact hl.1.2

theorem Ready.shape {w : WordInfo} {a : Agent} {s : State} (h : Ready w a s) : w.shape = true := by
  have hl := h.legal
  simp only [WordInfo.legal, Bool.and_eq_true] at hl
  exact hl.2

theorem Ready.role_ok {w : WordInfo} {c : Nat} {s : State} (h : Ready w (.execute c) s) {r : Role} (hr : r ∈ w.roles) : r.ok .execute = true := by
  have hl := h.legal
  simp only [WordInfo.legal, Bool.and_eq_true, List.all_eq_true] at hl
  exact hl.1.1.2 r hr

/-- A word that is no engine command does not issue on a predicted arm. -/
theorem Ready.noArm {w : WordInfo} {c : Nat} {s : State} (h : Ready w (.execute c) s) (he : w.engine = false) : (s.task (.execute c)).x.arm = none := by
  have ha := h.arm
  simpa [he, Agent.kind] using ha

/-- A ready word whose effect stays in its core and takes `max 1 C` slots with its own: what it answers, with the vector state and the task of its effect. -/
theorem issue_inCore {w : WordInfo} {rs : List Role} {c C : Nat} {s s2 : State} {body : Ctx → State → Except Stop State} (h : Ready w (.execute c) s)
    (hb : body (ctxOf (.execute c) w s) (atIssue (.execute c) w s) = .ok s2) (hin : InCore c (atIssue (.execute c) w s) s2)
    (ha : (s2.task (.execute c)).a = (s.task (.execute c)).a) (hp : (s2.task (.execute c)).preds = (s.task (.execute c)).preds)
    (hq : Popped rs (s.task (.execute c)).q (s2.task (.execute c)).q)
    (hclk : (s2.task (.execute c)).x.clk + 1 = (s.task (.execute c)).x.clk + Nat.max 1 C) :
    ∃ t, issue w s body = .next t ∧ VecFrame rs c s t C ∧ (t.core c).vec = (s2.core c).vec ∧ t.task (.execute c) = settled (.execute c) (s2.task (.execute c)) := by
  have hall : InCore c s (afterIssue (.execute c) s2) := ((inCore_atIssue c w s).trans hin).trans (inCore_afterIssue s2 c)
  have htask : (afterIssue (.execute c) s2).task (.execute c) = settled (.execute c) (s2.task (.execute c)) := afterIssue_task ..
  refine ⟨_, issue_ready h hb, ?frame, afterIssue_vec .., htask⟩
  exact { outside := hall.outside, cores := hall.cores, tasks := hall.tasks, eng := hall.eng, dmr := hall.dmr
          accesses := by rw [htask]; exact ha, preds := by rw [htask]; exact hp, queues := by rw [htask]; exact hq, clk := by rw [htask]; exact hclk }

end Sys2Proof.Machine
end

section
namespace Sys2Proof.Machine

open Sys2Proof

/-! Reads of an execute stream that come after every bound (02 R51; 07 R162, R166, R168). -/

theorem Landed.early {t : Task} (h : Landed t) {at_ : Nat} (hat : t.x.clk ≤ at_) (k : Nat) : early t k at_ = false := by
  unfold Machine.early
  rcases h with hs | hr
  · rw [hs]
    rfl
  · rw [decide_eq_false (Nat.not_lt.2 ((hr k).trans hat)), Bool.and_false]

theorem Landed.of_atIssue {t u : Task} (h : Landed t) (hu : AtIssue t u) : Landed u := by
  refine h.imp (fun hs => hu.scoreboard.trans hs) fun hr k => ?_
  have hk := hr k
  have hclk := hu.clk
  rcases hu.ready k with h1 | ⟨-, h1⟩ <;> omega

/-- A task whose execute side is that of a task without results on their way has none either. -/
theorem Landed.congr {t u : Task} (h : Landed t) (hs : u.scoreboard = t.scoreboard) (hx : u.x = t.x) : Landed u :=
  h.imp (fun hb => hs.trans hb) fun hr k => by rw [hx]; exact hr k

theorem le_readClock (k : RowKind) (T C i : Nat) : T ≤ readClock k T C i := by
  cases k
  · exact Nat.le_add_right ..
  · exact Nat.le_refl _

section
variable {t : Task} {at_ : Nat} (ht : Landed t) (hat : t.x.clk ≤ at_)
include ht hat

theorem vread_of_landed (v : VecState) (r e fr : Nat) : vread t v r e at_ fr = vElem v r e := by
  rw [vread, ht.early hat]
  rfl

theorem mread_of_landed (v : VecState) (m e fr : Nat) : mread t v m e at_ fr = mBit v m e := by
  rw [mread, ht.early hat]
  rfl

theorem tread_of_landed (v : VecState) (n r col fr : Nat) : tread t v n r col at_ fr = tget 0#32 (tget [] v.t n) (64 * r + col) := by
  rw [tread, ht.early hat]
  rfl

end

/-! Queues that a field pops. -/

/-- The queues between the streams without the head that a vector source pops. -/
def popVec (x : VReg) (q : Queues) : Queues :=
  match x with
  | .vq n => match tget [] q.vq n.val with | [] => q | _ :: r => { q with vq := tput q.vq n.val r }
  | _ => q

/-- The same for a scalar source. -/
def popScalar (x : Scalar) (q : Queues) : Queues :=
  match x with
  | .sq n => match tget [] q.sq n.val with | [] => q | _ :: r => { q with sq := tput q.sq n.val r }
  | _ => q

@[simp] theorem popVec_cq (x : VReg) (q : Queues) : (popVec x q).cq = q.cq := by unfold popVec; (repeat' split) <;> rfl
@[simp] theorem popVec_pq (x : VReg) (q : Queues) : (popVec x q).pq = q.pq := by unfold popVec; (repeat' split) <;> rfl
@[simp] theorem popVec_sq (x : VReg) (q : Queues) : (popVec x q).sq = q.sq := by unfold popVec; (repeat' split) <;> rfl
@[simp] theorem popVec_vqs (x : VReg) (q : Queues) : (popVec x q).vqs = q.vqs := by unfold popVec; (repeat' split) <;> rfl
@[simp] theorem popScalar_cq (x : Scalar) (q : Queues) : (popScalar x q).cq = q.cq := by unfold popScalar; (repeat' split) <;> rfl
@[simp] theorem popScalar_pq (x : Scalar) (q : Queues) : (popScalar x q).pq = q.pq := by unfold popScalar; (repeat' split) <;> rfl
@[simp] theorem popScalar_vq (x : Scalar) (q : Queues) : (popScalar x q).vq = q.vq := by unfold popScalar; (repeat' split) <;> rfl
@[simp] theorem popScalar_vqs (x : Scalar) (q : Queues) : (popScalar x q).vqs = q.vqs := by unfold popScalar; (repeat' split) <;> rfl

theorem tget_popVec (x : VReg) (q : Queues) (n : Fin 4) :
    tget [] (popVec x q).vq n.val = if x = .vq n then (tget [] q.vq n.val).drop 1 else tget [] q.vq n.val := by
  cases x with
  | v k => rfl
  | vqs => rfl
  | vq k =>
    have hk : (VReg.vq k = .vq n) = (k = n) := by simp
    simp only [popVec, hk]
    by_cases hn : k = n
    · subst hn
      cases h : tget [] q.vq k.val <;> simp [h]
    · have hne : n.val ≠ k.val := fun he => hn (Fin.ext he).symm
      rw [if_neg hn]
      split
      · rfl
      · exact tget_tput_of_ne _ _ _ hne

theorem tget_popScalar (x : Scalar) (q : Queues) (n : Fin 4) :
    tget [] (popScalar x q).sq n.val = if x = .sq n then (tget [] q.sq n.val).drop 1 else tget [] q.sq n.val := by
  cases x with
  | sq k =>
    have hk : (Scalar.sq k = .sq n) = (k = n) := by simp
    simp only [popScalar, hk]
    by_cases hn : k = n
    · subst hn
      cases h : tget [] q.sq k.val <;> simp [h]
    · have hne : n.val ≠ k.val := fun he => hn (Fin.ext he).symm
      rw [if_neg hn]
      split
      · rfl
      · exact tget_tput_of_ne _ _ _ hne
  | _ => rfl

/-! Reading the fields of a word. -/

section
variable {k : Ctx} {c : Nat} (hk : k.a = .execute c) (s : State)

theorem popVq_task (n : Fin 4) : (popVq k n.val s).2.task k.a = { s.task k.a with q := popVec (.vq n) (s.task k.a).q } := by
  simp only [popVq, popVec]
  cases tget [] (s.task k.a).q.vq n.val
  · rfl
  · exact State.task_setTask ..

theorem popVq_fst (n : Nat) : (popVq k n s).1 = (((tget [] (s.task k.a).q.vq n).head?.map (·.data)).getD []) := by
  simp only [popVq]
  cases tget [] (s.task k.a).q.vq n <;> rfl

theorem popVq_vec (n : Nat) : ((popVq k n s).2.core c).vec = (s.core c).vec := by
  simp only [popVq]
  cases tget [] (s.task k.a).q.vq n
  · rfl
  · exact State.vec_setTask ..

include hk in
theorem popVq_inCore (n : Nat) : InCore c s (popVq k n s).2 := by
  simp only [popVq, hk]
  cases tget [] (s.task (.execute c)).q.vq n
  · exact .refl ..
  · exact inCore_setTask ..

variable (x : VReg) (base fr : Nat)

theorem vsource_task : (vsource k x base fr s).2.task k.a = { s.task k.a with q := popVec x (s.task k.a).q } := by
  cases x with
  | vq n => exact popVq_task ..
  | _ => rfl

theorem vsource_vec : ((vsource k x base fr s).2.core c).vec = (s.core c).vec := by
  cases x with
  | vq n => exact popVq_vec ..
  | _ => rfl

include hk in
theorem vsource_inCore : InCore c s (vsource k x base fr s).2 := by
  cases x with
  | vq n => exact popVq_inCore hk s n.val
  | _ => exact .refl ..

/-- The source of a field gives the elements of its group, or of the row group that it popped. -/
theorem vsource_get {t : Task} {v : VecState} {at_ : Nat} (ht : Landed t) (hat : t.x.clk ≤ at_) (hb : vIsQueue x = true → base = 256 * cfgRGC v.vcfg) (e : Nat) :
    (vsource k x base fr s).1.get t v e at_ = vVal (s.task k.a) v x e := by
  cases x with
  | v n => exact vread_of_landed ht hat ..
  | vq n =>
    have hfst : (vsource k (.vq n) base fr s).1 = .row base (popVq k n.val s).1 := rfl
    rw [hfst, popVq_fst, hb rfl]
    rfl
  | vqs => rfl

end

section
variable {k : Ctx} {c : Nat} (hk : k.a = .execute c) {s : State} (ht : Landed (s.task k.a))
include hk ht

theorem readReg_of_landed (n : Nat) : readReg k n s = (if execOwned n then tget 0#64 (s.task k.a).regs n else tget 0#64 (s.task k.a).entry n, s) := by
  have he : early (s.task k.a) (keyReg n) (s.task k.a).x.clk = false := ht.early (Nat.le_refl _) _
  obtain ⟨a, pc, next, seq⟩ := k
  obtain rfl : a = .execute c := hk
  simp only [readReg, he, Bool.false_eq_true, if_false]
  split <;> rfl

theorem readScalar_fst (x : Scalar) : (readScalar k x s).1 = xVal (s.task k.a) x := by
  cases x with
  | s n =>
    have hown : execOwned n.val = decide (48 ≤ n.val) := by simp [execOwned, show n.val < 56 from n.isLt]
    simp only [readScalar, readReg_of_landed hk ht, hown, decide_eq_true_eq, xVal]
  | sq n =>
    simp only [readScalar, popSq, xVal]
    cases h : tget [] (s.task k.a).q.sq n.val <;> rfl
  | lr => simp only [readScalar, readReg_of_landed hk ht]; rfl
  | sp => simp only [readScalar, readReg_of_landed hk ht]; rfl
  | _ => rfl

theorem readScalar_task (x : Scalar) : (readScalar k x s).2.task k.a = { s.task k.a with q := popScalar x (s.task k.a).q } := by
  cases x with
  | sq n =>
    simp only [readScalar, popSq, popScalar]
    cases h : tget [] (s.task k.a).q.sq n.val <;> simp
  | s n => simp only [readScalar, readReg_of_landed hk ht]; rfl
  | lr => simp only [readScalar, readReg_of_landed hk ht]; rfl
  | sp => simp only [readScalar, readReg_of_landed hk ht]; rfl
  | _ => rfl

theorem readScalar_vec (x : Scalar) : ((readScalar k x s).2.core c).vec = (s.core c).vec := by
  cases x with
  | sq n =>
    simp only [readScalar, popSq]
    cases h : tget [] (s.task k.a).q.sq n.val <;> simp
  | s n => simp only [readScalar, readReg_of_landed hk ht]
  | lr => simp only [readScalar, readReg_of_landed hk ht]
  | sp => simp only [readScalar, readReg_of_landed hk ht]
  | _ => rfl

theorem readScalar_inCore (x : Scalar) : InCore c s (readScalar k x s).2 := by
  cases x with
  | sq n =>
    simp only [readScalar, popSq, hk]
    cases h : tget [] (s.task (.execute c)).q.sq n.val
    · exact .refl ..
    · exact inCore_setTask ..
  | s n => simp only [readScalar, readReg_of_landed hk ht]; exact .refl ..
  | lr => simp only [readScalar, readReg_of_landed hk ht]; exact .refl ..
  | sp => simp only [readScalar, readReg_of_landed hk ht]; exact .refl ..
  | _ => exact .refl ..

end

/-- What the queues become when a vector word pops its vector sources and a scalar source. -/
theorem popped_of {rs : List Role} {q q' : Queues} (hcq : q'.cq = q.cq) (hpq : q'.pq = q.pq)
    (hvq : ∀ n : Fin 4, tget [] q'.vq n.val = if Role.vsrc (.vq n) ∈ rs then (tget [] q.vq n.val).drop 1 else tget [] q.vq n.val)
    (hsq : ∀ n : Fin 4, tget [] q'.sq n.val = if Role.src (.sq n) ∈ rs then (tget [] q.sq n.val).drop 1 else tget [] q.sq n.val) : Popped rs q q' :=
  ⟨hcq, hpq, fun n => ⟨fun hn => by rw [hvq, if_pos hn], fun hn => by rw [hvq, if_neg hn]⟩, fun n => ⟨fun hn => by rw [hsq, if_pos hn], fun hn => by rw [hsq, if_neg hn]⟩⟩

end Sys2Proof.Machine
end

section
namespace Sys2Proof.Machine

open Sys2Proof

/-! Elements and bits after a list of writes (07 R162, R164). -/

/-- What element `e`, which holds `old`, holds after writes. -/
def lastOf {α : Type} (ws : List (Nat × α)) (e : Nat) (old : α) : α := ws.foldl (fun x w => if w.1 = e then w.2 else x) old

section
variable {α : Type}

@[simp] theorem lastOf_nil (e : Nat) (old : α) : lastOf [] e old = old := rfl

theorem lastOf_append (ws ws' : List (Nat × α)) (e : Nat) (old : α) : lastOf (ws ++ ws') e old = lastOf ws' e (lastOf ws e old) := List.foldl_append ..

theorem lastOf_map (l : List Nat) (f : Nat → α) (e : Nat) (old : α) : lastOf (l.map fun e => (e, f e)) e old = if e ∈ l then f e else old := by
  induction l generalizing old with
  | nil => rfl
  | cons x l ih =>
    have hstep : lastOf ((x :: l).map fun e => (e, f e)) e old = lastOf (l.map fun e => (e, f e)) e (if x = e then f x else old) := rfl
    rw [hstep, ih]
    by_cases hx : x = e
    · simp [hx]
    · simp [hx, Ne.symm hx]

/-- A fold of table writes, one cell of two keys after another, seen cell by cell. -/
theorem get_foldl_writes {β : Type} {get : β → Nat → Nat → α} {put : β → Nat × α → β} {d n : Nat}
    (hput : ∀ b w r k, k < n → get (put b w) r k = if d ≤ r ∧ w.1 = n * (r - d) + k then w.2 else get b r k) (ws : List (Nat × α)) (b : β) {r k : Nat} (hk : k < n) :
    get (ws.foldl put b) r k = if d ≤ r then lastOf ws (n * (r - d) + k) (get b r k) else get b r k := by
  induction ws generalizing b with
  | nil => simp
  | cons w ws ih =>
    rw [List.foldl_cons, ih, hput b w r k hk]
    by_cases hd : d ≤ r <;> simp [hd, lastOf]

end

theorem cell_iff {d r k e : Nat} (hk : k < 1024) : (r = d + e / 1024 ∧ k = e % 1024) ↔ d ≤ r ∧ e = 1024 * (r - d) + k := by omega

theorem tget_vwrite (v : VecState) (d : Nat) (ws : List (Nat × W32)) {r k : Nat} (hk : k < 1024) : tget 0#32 (tget [] (vwrite v d ws).v r) k =
    if d ≤ r then lastOf ws (1024 * (r - d) + k) (tget 0#32 (tget [] v.v r) k) else tget 0#32 (tget [] v.v r) k := by
  refine get_foldl_writes (get := fun tb r k => tget 0#32 (tget [] tb r) k) (fun tb w r k hk => ?_) ws v.v hk
  simp only [← cell_iff hk]
  by_cases hr : r = d + w.1 / 1024
  · subst hr
    simp [tget_tput]
  · simp [tget_tmod_of_ne _ _ _ hr, hr]

theorem getLsbD_setBit (m : BitVec 1024) (i : Nat) (b : Bool) {k : Nat} (hk : k < 1024) : (setBit m i b).getLsbD k = if k = i then b else m.getLsbD k := by
  have hone : (1#1024 <<< i).getLsbD k = decide (k = i) := by
    rw [BitVec.getLsbD_shiftLeft, BitVec.getLsbD_one]
    by_cases h : k = i
    · subst h
      simp [hk]
    · simp [hk, h]
      omega
  cases b
  · simp only [setBit, Bool.false_eq_true, if_false, BitVec.getLsbD_and, BitVec.getLsbD_not, hone, hk]
    by_cases h : k = i <;> simp [h]
  · simp only [setBit, if_true, BitVec.getLsbD_or, hone]
    by_cases h : k = i <;> simp [h]

theorem getLsbD_mwrite (v : VecState) (m : Nat) (ws : List (Nat × Bool)) {r k : Nat} (hk : k < 1024) : (tget 0#1024 (mwrite v m ws).m r).getLsbD k =
    if m ≤ r then lastOf ws (1024 * (r - m) + k) ((tget 0#1024 v.m r).getLsbD k) else (tget 0#1024 v.m r).getLsbD k := by
  refine get_foldl_writes (get := fun tb r k => (tget 0#1024 tb r).getLsbD k) (fun tb w r k hk => ?_) ws v.m hk
  simp only [← cell_iff hk]
  by_cases hr : r = m + w.1 / 1024
  · subst hr
    simp [getLsbD_setBit _ _ _ hk]
  · simp [tget_tmod_of_ne _ _ _ hr, hr]

theorem vElem_cell (v : VecState) {d r k : Nat} (hd : d ≤ r) (hk : k < 1024) : vElem v d (1024 * (r - d) + k) = tget 0#32 (tget [] v.v r) k := by
  have hreg : d + (1024 * (r - d) + k) / 1024 = r := by omega
  have hcell : (1024 * (r - d) + k) % 1024 = k := by omega
  rw [vElem, hreg, hcell]

theorem mBit_cell (v : VecState) {m r k : Nat} (hm : m ≤ r) (hk : k < 1024) : mBit v m (1024 * (r - m) + k) = (tget 0#1024 v.m r).getLsbD k := by
  have hreg : m + (1024 * (r - m) + k) / 1024 = r := by omega
  have hcell : (1024 * (r - m) + k) % 1024 = k := by omega
  rw [mBit, hreg, hcell]

/-- Writes that leave the elements of `g` in a range of a group, and nothing outside it. -/
theorem groupIs_vwrite {v w : VecState} {d lo hi : Nat} {ws : List (Nat × W32)} {g : Nat → W32} (hw : w.v = v.v)
    (h : ∀ e, lastOf ws e (vElem v d e) = if lo ≤ e ∧ e < hi then g e else vElem v d e) : GroupIs v (vwrite w d ws) d lo hi g := by
  intro r k hk
  rw [tget_vwrite _ _ _ hk, hw]
  by_cases hd : d ≤ r
  · rw [if_pos hd, ← vElem_cell v hd hk, h]
    simp only [hd, true_and]
  · simp only [hd, false_and, if_false]

theorem maskIs_mwrite {v w : VecState} {m lo hi : Nat} {ws : List (Nat × Bool)} {g : Nat → Bool} (hw : w.m = v.m)
    (h : ∀ e, lastOf ws e (mBit v m e) = if lo ≤ e ∧ e < hi then g e else mBit v m e) : MaskIs v (mwrite w m ws) m lo hi g := by
  intro r k hk
  rw [getLsbD_mwrite _ _ _ hk, hw]
  by_cases hm : m ≤ r
  · rw [if_pos hm, ← mBit_cell v hm hk, h]
    simp only [hm, true_and]
  · simp only [hm, false_and, if_false]

/-! Active, inactive and tail elements (07 R164). -/

theorem VRange.mem_below {r : VRange} {vl e : Nat} : e ∈ r.below vl ↔ r.base ≤ e ∧ e < r.base + r.count ∧ e < vl := by
  simp only [VRange.below, List.mem_map, List.mem_range]
  constructor
  · rintro ⟨i, hi, rfl⟩
    omega
  · rintro ⟨hlo, hhi, hvl⟩
    exact ⟨e - r.base, by omega, by omega⟩

theorem VRange.mem_tail {r : VRange} {vl e : Nat} : e ∈ r.tail vl ↔ r.base ≤ e ∧ e < r.base + r.count ∧ vl ≤ e := by
  simp only [VRange.tail, List.mem_map, List.mem_range]
  constructor
  · rintro ⟨i, hi, rfl⟩
    omega
  · rintro ⟨hlo, hhi, hvl⟩
    exact ⟨e - (r.base + (min vl (r.base + r.count) - r.base)), by omega, by omega⟩

/-- The elements of a range below VL that m0 selects, and those that it does not; without a mask, all and none. -/
def actives (v : VecState) (r : VRange) (masked : Bool) : List Nat := (r.below (cfgVL v.vcfg)).filter fun e => !masked || mBit v 0 e
def inactives (v : VecState) (r : VRange) (masked : Bool) : List Nat := (r.below (cfgVL v.vcfg)).filter fun e => !(!masked || mBit v 0 e)

theorem mem_actives {v : VecState} {r : VRange} {masked : Bool} {e : Nat} : e ∈ actives v r masked ↔ VActive v r masked e = true := by
  simp only [actives, List.mem_filter, VRange.mem_below, VActive, Bool.and_eq_true, decide_eq_true_eq, and_assoc]

theorem mem_inactives {v : VecState} {r : VRange} {masked : Bool} {e : Nat} :
    e ∈ inactives v r masked ↔ (r.base ≤ e ∧ e < r.base + r.count ∧ e < cfgVL v.vcfg) ∧ (!masked || mBit v 0 e) = false := by
  simp only [inactives, List.mem_filter, VRange.mem_below, Bool.not_eq_true']

theorem activeOf_of_landed {t : Task} (ht : Landed t) (v : VecState) (r : VRange) (masked : Bool) (kind : RowKind) (C fr : Nat) :
    activeOf t v r masked kind t.x.clk C fr = (actives v r masked, inactives v r masked) := by
  unfold activeOf actives inactives
  cases masked
  · simp
  · simp only [mread_of_landed ht (le_readClock ..), if_true, List.partition_eq_filter_filter]
    rfl

/-- The writes of a word's result: active elements receive results, inactive ones follow MZ, tail ones TZ. -/
def resultWrites {α : Type} (cfg : W64) (r : VRange) (zero : α) (act : List (Nat × α)) (inact : List Nat) : List (Nat × α) :=
  act ++ ((if cfgMZ cfg then inact else []) ++ (if cfgTZ cfg then r.tail (cfgVL cfg) else [])).map fun e => (e, zero)

theorem lastOf_resultWrites {α : Type} (v : VecState) (r : VRange) (masked : Bool) (zero : α) (f : Nat → α) (e : Nat) (old : α) :
    lastOf (resultWrites v.vcfg r zero ((actives v r masked).map fun e => (e, f e)) (inactives v r masked)) e old =
      if r.base ≤ e ∧ e < r.base + r.count then chosen v masked e zero (f e) old else old := by
  rw [resultWrites, lastOf_append, lastOf_map _ (fun _ => zero), lastOf_map]
  have hact := mem_actives (v := v) (r := r) (masked := masked) (e := e)
  have hinact := mem_inactives (v := v) (r := r) (masked := masked) (e := e)
  have htail := VRange.mem_tail (r := r) (vl := cfgVL v.vcfg) (e := e)
  simp only [VActive, Bool.and_eq_true, decide_eq_true_eq, and_assoc] at hact
  simp only [List.mem_append, List.mem_ite_nil_right, hact, hinact, htail, chosen]
  by_cases hlo : r.base ≤ e <;> by_cases hhi : e < r.base + r.count <;> by_cases hvl : e < cfgVL v.vcfg <;>
    cases hsel : (!masked || mBit v 0 e) <;> simp [hlo, hhi, hvl, Nat.not_lt.1, Nat.not_le.2]

end Sys2Proof.Machine
end

section
namespace Sys2Proof.Machine

open Sys2Proof

/-! Bounds of the rows that a word writes (02 R51; 07 R167, R168). -/

section
variable {α : Type} (key by_ : α → Nat) (l : List α) (t : Task)

@[simp] theorem foldl_bound_a : (l.foldl (fun t i => bound t (key i) (by_ i)) t).a = t.a := foldl_fixed Task.a (fun t i => bound t (key i) (by_ i)) (fun _ _ => rfl) l t
@[simp] theorem foldl_bound_preds : (l.foldl (fun t i => bound t (key i) (by_ i)) t).preds = t.preds := foldl_fixed Task.preds (fun t i => bound t (key i) (by_ i)) (fun _ _ => rfl) l t
@[simp] theorem foldl_bound_regs : (l.foldl (fun t i => bound t (key i) (by_ i)) t).regs = t.regs := foldl_fixed Task.regs (fun t i => bound t (key i) (by_ i)) (fun _ _ => rfl) l t
@[simp] theorem foldl_bound_q : (l.foldl (fun t i => bound t (key i) (by_ i)) t).q = t.q := foldl_fixed Task.q (fun t i => bound t (key i) (by_ i)) (fun _ _ => rfl) l t
@[simp] theorem foldl_bound_clk : (l.foldl (fun t i => bound t (key i) (by_ i)) t).x.clk = t.x.clk := foldl_fixed (fun t : Task => t.x.clk) (fun t i => bound t (key i) (by_ i)) (fun _ _ => rfl) l t

end

theorem tget_bound (t : Task) (key by_ k : Nat) : tget 0 (bound t key by_).x.ready k = if k = key then max by_ (tget 0 t.x.ready key) else tget 0 t.x.ready k :=
  tget_tput ..

/-- Rows of different keys have each its own bound. -/
theorem tget_foldl_bound {key by_ : Nat → Nat} (hkey : ∀ i j, key i = key j → i = j) {l : List Nat} (hl : l.Nodup) {j : Nat} (hj : j ∈ l) (t : Task) :
    tget 0 (l.foldl (fun t i => bound t (key i) (by_ i)) t).x.ready (key j) = max (by_ j) (tget 0 t.x.ready (key j)) := by
  have hskip : ∀ (l : List Nat) (t : Task), j ∉ l → tget 0 (l.foldl (fun t i => bound t (key i) (by_ i)) t).x.ready (key j) = tget 0 t.x.ready (key j) := by
    intro l
    induction l with
    | nil => exact fun _ _ => rfl
    | cons i l ih =>
      intro t hn
      obtain ⟨hi, hn⟩ := not_or.1 (mt List.mem_cons.2 hn)
      rw [List.foldl_cons, ih _ hn, tget_bound, if_neg fun he => hi (hkey _ _ he)]
  induction l generalizing t with
  | nil => cases hj
  | cons i l ih =>
    obtain ⟨hi, hl⟩ := List.nodup_cons.1 hl
    rw [List.foldl_cons]
    by_cases he : j = i
    · subst he
      rw [hskip l _ hi, tget_bound, if_pos rfl]
    · rw [ih hl ((List.mem_cons.1 hj).resolve_left he), tget_bound, if_neg fun hk => he (hkey _ _ hk)]

section
variable (d : Nat) (r : VRange) (kind : RowKind) (T C B : Nat) (t : Task)

@[simp] theorem boundRows_a : (boundRows d r kind T C B t).a = t.a := foldl_bound_a ..
@[simp] theorem boundRows_preds : (boundRows d r kind T C B t).preds = t.preds := foldl_bound_preds ..
@[simp] theorem boundRows_regs : (boundRows d r kind T C B t).regs = t.regs := foldl_bound_regs ..
@[simp] theorem boundRows_q : (boundRows d r kind T C B t).q = t.q := foldl_bound_q ..
@[simp] theorem boundRows_clk : (boundRows d r kind T C B t).x.clk = t.x.clk := foldl_bound_clk ..
@[simp] theorem boundMaskRows_a : (boundMaskRows d r kind T C B t).a = t.a := foldl_bound_a ..
@[simp] theorem boundMaskRows_preds : (boundMaskRows d r kind T C B t).preds = t.preds := foldl_bound_preds ..
@[simp] theorem boundMaskRows_regs : (boundMaskRows d r kind T C B t).regs = t.regs := foldl_bound_regs ..
@[simp] theorem boundMaskRows_q : (boundMaskRows d r kind T C B t).q = t.q := foldl_bound_q ..
@[simp] theorem boundMaskRows_clk : (boundMaskRows d r kind T C B t).x.clk = t.x.clk := foldl_bound_clk ..

/-- A covered row of a row-wise word lands by its own bound. -/
theorem tget_boundRows_rowWise (hbase : r.base % 64 = 0) {k : Nat} (hk : k < r.rows C) (hcov : r.rows C ≤ ceilDiv r.count 64) :
    tget 0 (boundRows d r .rowWise T (r.rows C) B t).x.ready (keyV (d + (r.base + 64 * k) / 1024) ((r.base + 64 * k) % 1024 / 64)) =
      max (T + k + B) (tget 0 t.x.ready (keyV (d + (r.base + 64 * k) / 1024) ((r.base + 64 * k) % 1024 / 64))) := by
  have hrow : landClock .rowWise T (r.rows C) k B = T + k + B := by rw [landClock, min_eq_left (by omega)]
  rw [← hrow]
  exact tget_foldl_bound (key := fun k => keyV (d + (r.base + 64 * k) / 1024) ((r.base + 64 * k) % 1024 / 64)) (by_ := fun i => landClock .rowWise T (r.rows C) i B)
    (fun i j hij => by simp only [keyV] at hij; omega) List.nodup_range (List.mem_range.2 (by omega)) t

end

theorem VRange.rows_le (r : VRange) (vl : Nat) : r.rows vl ≤ ceilDiv r.count 64 := by
  unfold VRange.rows ceilDiv
  exact Nat.div_le_div_right (by omega)

/-! Results of a word in the state. -/

theorem keptWrites_of_landed {t : Task} (ht : Landed t) (r : VRange) (d : Nat) (kind : RowKind) (C fr : Nat) (es : List Nat) :
    keptWrites t r d kind t.x.clk C fr es = [] := by
  unfold keptWrites
  simp only [ht.early (le_readClock ..), Bool.false_eq_true, if_false, List.filterMap_none]

section
variable {k : Ctx} {c : Nat} (hk : k.a = .execute c) (s : State)

/-- The entry that a word pushes onto vqs, unless the access stream has ended. -/
def pushedVqs (x : VqsEntry) (t : Task) : Task := if t.a.ended then t else { t with q := { t.q with vqs := t.q.vqs ++ [x] } }

@[simp] theorem pushedVqs_a (x : VqsEntry) (t : Task) : (pushedVqs x t).a = t.a := by unfold pushedVqs; split <;> rfl
@[simp] theorem pushedVqs_preds (x : VqsEntry) (t : Task) : (pushedVqs x t).preds = t.preds := by unfold pushedVqs; split <;> rfl
@[simp] theorem pushedVqs_regs (x : VqsEntry) (t : Task) : (pushedVqs x t).regs = t.regs := by unfold pushedVqs; split <;> rfl
@[simp] theorem pushedVqs_clk (x : VqsEntry) (t : Task) : (pushedVqs x t).x.clk = t.x.clk := by unfold pushedVqs; split <;> rfl

theorem popped_pushedVqs {rs : List Role} {q : Queues} {t : Task} (h : Popped rs q t.q) (x : VqsEntry) : Popped rs q (pushedVqs x t).q := by
  unfold pushedVqs
  split
  · exact h
  · exact h

theorem pushVqs_task (data : Table W32) (mask : BitVec 256) : (pushVqs k data mask s).task k.a = pushedVqs { data := data, mask := mask } (s.task k.a) := by
  simp only [pushVqs, pushedVqs]
  split
  · rfl
  · exact State.task_setTask ..

theorem pushVqs_vec (data : Table W32) (mask : BitVec 256) : ((pushVqs k data mask s).core c).vec = (s.core c).vec := by
  simp only [pushVqs]
  split
  · rfl
  · exact State.vec_setTask ..

include hk

theorem pushVqs_inCore (data : Table W32) (mask : BitVec 256) : InCore c s (pushVqs k data mask s) := by
  simp only [pushVqs, hk]
  split
  · exact .refl ..
  · exact inCore_setTask ..

theorem orFlags_inCore (fl : Flags) : InCore c s (orFlags k fl s) := by
  rw [orFlags, hk]
  exact inCore_modVec ..

theorem orFlags_vec (fl : Flags) : ((orFlags k fl s).core c).vec = { (s.core c).vec with fsr := fsrOr (s.core c).vec.fsr fl } := by
  rw [orFlags, hk]
  exact State.vec_modVec_execute ..

omit hk in
theorem orFlags_task (fl : Flags) : (orFlags k fl s).task (.execute c) = s.task (.execute c) := State.task_modVec ..

theorem vecDone_inCore (queue : Bool) (C : Nat) : InCore c s (vecDone k queue C s) := by
  simp only [vecDone, hk]
  refine InCore.trans (InCore.trans (InCore.trans ?rgc (inCore_modTask ..)) ((inCore_agentCtr ..).trans (inCore_agentCtr ..))) (inCore_freeCtr ..)
  split
  · exact inCore_modVec ..
  · exact .refl ..

theorem vecDone_vec (queue : Bool) (C : Nat) : ((vecDone k queue C s).core c).vec =
    { (s.core c).vec with vcfg := if queue then cfgStepRGC (s.core c).vec.vcfg else (s.core c).vec.vcfg } := by
  simp only [vecDone, hk, State.vec_freeCtr, State.vec_agentCtr, State.vec_modTask]
  cases queue
  · rfl
  · simp only [if_true, State.vec_modVec_execute]

theorem vecDone_task (queue : Bool) (C : Nat) : (vecDone k queue C s).task (.execute c) =
    { s.task (.execute c) with x := { (s.task (.execute c)).x with clk := (s.task (.execute c)).x.clk + (max 1 C - 1) } } := by
  simp only [vecDone, hk, State.task_freeCtr, State.task_agentCtr, State.task_modTask]
  cases queue
  · rfl
  · simp only [if_true, State.task_modVec]

section
variable (d : Nat) (r : VRange) (kind : RowKind) (C B fr : Nat) (ws : List (Nat × W32)) (kept : List Nat)

theorem groupResult_inCore : InCore c s (groupResult k d r kind C B fr ws kept s) := by
  simp only [groupResult, hk]
  exact (inCore_modVec ..).trans (inCore_modTask ..)

theorem groupResult_task : (groupResult k d r kind C B fr ws kept s).task (.execute c) = boundRows d r kind (s.task (.execute c)).x.clk C B (s.task (.execute c)) := by
  simp [groupResult, hk]

theorem groupResult_vec (ht : Landed (s.task (.execute c))) : ((groupResult k d r kind C B fr ws kept s).core c).vec = vwrite (s.core c).vec d ws := by
  simp [groupResult, hk, keptWrites_of_landed ht]

end

section
variable (cfg : W64) (r : VRange) (kind : RowKind) (C B fr : Nat) (act : List (Nat × W32)) (inact : List Nat)

theorem vecResult_inCore (vd : VReg) : InCore c s (vecResult k vd cfg r kind C B fr act inact s) := by
  cases vd with
  | v d => exact groupResult_inCore hk ..
  | _ => exact pushVqs_inCore hk ..

theorem vecResult_task (d : Fin 16) : (vecResult k (.v d) cfg r kind C B fr act inact s).task (.execute c) =
    boundRows d.val r kind (s.task (.execute c)).x.clk C B (s.task (.execute c)) := groupResult_task hk ..

theorem vecResult_vec (ht : Landed (s.task (.execute c))) (d : Fin 16) :
    ((vecResult k (.v d) cfg r kind C B fr act inact s).core c).vec = vwrite (s.core c).vec d.val (resultWrites cfg r 0#32 act inact) := groupResult_vec hk _ _ _ _ _ _ _ _ _ ht

end

section
variable (m : MReg) (cfg : W64) (r : VRange) (kind : RowKind) (C B fr : Nat) (act : List (Nat × Bool)) (inact : List Nat)

theorem maskResult_inCore : InCore c s (maskResult k m cfg r kind C B fr act inact s) := by
  simp only [maskResult, hk]
  exact (inCore_modVec ..).trans (inCore_modTask ..)

theorem maskResult_task : (maskResult k m cfg r kind C B fr act inact s).task (.execute c) =
    boundMaskRows m.val r kind (s.task (.execute c)).x.clk C B (s.task (.execute c)) := by
  simp [maskResult, hk]

theorem maskResult_vec (ht : Landed (s.task (.execute c))) :
    ((maskResult k m cfg r kind C B fr act inact s).core c).vec = mwrite (s.core c).vec m.val (resultWrites cfg r false act inact) := by
  simp [maskResult, hk, ht.early (le_readClock ..), resultWrites]

end

end

/-! Flags (03 R88). -/

theorem getLsbD_foldl_or {α : Type} {w : Nat} (g : α → BitVec w) (l : List α) (b : BitVec w) (j : Nat) :
    (l.foldl (fun fl x => fl ||| g x) b).getLsbD j = (b.getLsbD j || l.any fun x => (g x).getLsbD j) := by
  induction l generalizing b with
  | nil => simp
  | cons x l ih => rw [List.foldl_cons, ih, BitVec.getLsbD_or, List.any_cons, Bool.or_assoc]

theorem getLsbD_fsrOr (f : W64) (fl : Flags) (j : Nat) : (fsrOr f fl).getLsbD j = (f.getLsbD j || fl.getLsbD j) := by
  rw [fsrOr, BitVec.getLsbD_or]
  rfl

/-- FSR with the flags of a list of elements ORed in. -/
theorem flagged_foldl {l : List Nat} {act : Nat → Prop} (hl : ∀ e, e ∈ l ↔ act e) (old : W64) (fl : Nat → Flags) :
    Flagged old (fsrOr old (l.foldl (fun b e => b ||| fl e) 0#6)) act fl := by
  intro j
  simp [getLsbD_fsrOr, getLsbD_foldl_or, hl]

theorem flagged_self {old : W64} {act : Nat → Prop} {fl : Nat → Flags} (h : ∀ e, act e → fl e = 0#6) : Flagged old old act fl := fun j =>
  ⟨.inl, fun hj => hj.elim id fun ⟨e, he, hfl⟩ => by rw [h e he] at hfl; simp at hfl⟩

end Sys2Proof.Machine
end

section
namespace Sys2Proof.Machine

open Sys2Proof

/-! A vector word once its fields have been read (07 R166, R168). -/

/-- `s'` is what the state at a word's issue becomes once the word has read its fields, which leaves the queues `q`, and raised the flags of FSR `fsr`. -/
structure HasRead (w : WordInfo) (c : Nat) (s : State) (q : Queues) (fsr : W64) (s' : State) : Prop where
  inCore : InCore c (atIssue (.execute c) w s) s'
  vec : (s'.core c).vec = { (s.core c).vec with fsr := fsr }
  task : s'.task (.execute c) = { (atIssue (.execute c) w s).task (.execute c) with q := q }

section
variable {w : WordInfo} {c : Nat} {s s' : State} {q : Queues} {fsr : W64}

theorem HasRead.start (w : WordInfo) (c : Nat) (s : State) : HasRead w c s (s.task (.execute c)).q (s.core c).vec.fsr (atIssue (.execute c) w s) :=
  { inCore := .refl .., vec := atIssue_vec .., task := by rw [← (atIssue_task_execute w c s).q] }

section
variable (h : HasRead w c s q fsr s')
include h

theorem HasRead.queues : (s'.task (.execute c)).q = q := by rw [h.task]
theorem HasRead.a : (s'.task (.execute c)).a = (s.task (.execute c)).a := by rw [h.task]; exact (atIssue_task_execute w c s).a
theorem HasRead.preds : (s'.task (.execute c)).preds = (s.task (.execute c)).preds := by rw [h.task]; exact (atIssue_task_execute w c s).preds
theorem HasRead.regs : (s'.task (.execute c)).regs = (s.task (.execute c)).regs := by rw [h.task]; exact (atIssue_task_execute w c s).regs
theorem HasRead.entry : (s'.task (.execute c)).entry = (s.task (.execute c)).entry := by rw [h.task]; exact (atIssue_task_execute w c s).entry
theorem HasRead.clk : (s'.task (.execute c)).x.clk = (s.task (.execute c)).x.clk := by rw [h.task]; exact (atIssue_task_execute w c s).clk

theorem HasRead.landed (hl : Landed (s.task (.execute c))) : Landed (s'.task (.execute c)) := by
  rw [h.task]
  exact (hl.of_atIssue (atIssue_task_execute w c s)).congr rfl rfl

/-- A bound that is not before the clock of the word is what it was before the word's reads, as far as its new bound goes. -/
theorem HasRead.max_ready {n : Nat} (hn : (s.task (.execute c)).x.clk ≤ n) (k : Nat) :
    max n (tget 0 (s'.task (.execute c)).x.ready k) = max n (tget 0 (s.task (.execute c)).x.ready k) := by
  have hk := (atIssue_task_execute w c s).ready k
  rw [h.task]
  show max n (tget 0 ((atIssue (.execute c) w s).task (.execute c)).x.ready k) = _
  omega

/-- One more vector source read. -/
theorem HasRead.vsource (x : VReg) (base fr : Nat) : HasRead w c s (popVec x q) fsr (vsource (ctxOf (.execute c) w s) x base fr s').2 :=
  { inCore := h.inCore.trans (vsource_inCore rfl ..), vec := (vsource_vec ..).trans h.vec
    task := (vsource_task (k := ctxOf (.execute c) w s) ..).trans (by rw [ctxOf_a, h.task]) }

theorem HasRead.vsource_get {x : VReg} {base fr : Nat} {t : Task} {v : VecState} (ht : Landed t) {at_ : Nat} (hat : t.x.clk ≤ at_)
    (hb : vIsQueue x = true → base = 256 * cfgRGC v.vcfg) (e : Nat) :
    (Machine.vsource (ctxOf (.execute c) w s) x base fr s').1.get t v e at_ = vVal { s.task (.execute c) with q := q } v x e := by
  rw [Machine.vsource_get s' x base fr ht hat hb, ctxOf_a]
  cases x <;> simp only [vVal, h.queues]

/-- One more scalar source read. -/
theorem HasRead.readScalar (hl : Landed (s.task (.execute c))) (x : Scalar) : HasRead w c s (popScalar x q) fsr (readScalar (ctxOf (.execute c) w s) x s').2 :=
  { inCore := h.inCore.trans (readScalar_inCore rfl (h.landed hl) x), vec := (readScalar_vec rfl (h.landed hl) x).trans h.vec
    task := (readScalar_task (k := ctxOf (.execute c) w s) rfl (h.landed hl) x).trans (by rw [ctxOf_a, h.task]) }

theorem HasRead.readScalar_fst (hl : Landed (s.task (.execute c))) (hq : q = (s.task (.execute c)).q) (x : Scalar) :
    (Machine.readScalar (ctxOf (.execute c) w s) x s').1 = xVal (s.task (.execute c)) x := by
  rw [Machine.readScalar_fst (k := ctxOf (.execute c) w s) rfl (h.landed hl) x, ctxOf_a]
  cases x <;> simp only [xVal, h.queues, h.regs, h.entry, hq]

/-- The flags raised. -/
theorem HasRead.flags (fl : Flags) : HasRead w c s q (fsrOr fsr fl) (s'.modVec (.execute c) fun v => { v with fsr := fsrOr v.fsr fl }) :=
  { inCore := h.inCore.trans (inCore_modVec ..), vec := by rw [State.vec_modVec_execute, h.vec], task := (State.task_modVec ..).trans h.task }

end

/-- The answer of a ready word that, once its fields are read, changes its vector state and its task within the core, and then counts its rows. -/
theorem HasRead.answer {rs : List Role} {C : Nat} {queue : Bool} {s2 : State} {body : Ctx → State → Except Stop State} (hr : HasRead w c s q fsr s')
    (h : Ready w (.execute c) s) (hb : body (ctxOf (.execute c) w s) (atIssue (.execute c) w s) = .ok (vecDone (ctxOf (.execute c) w s) queue C s2))
    (hin : InCore c s' s2) (ha : (s2.task (.execute c)).a = (s'.task (.execute c)).a) (hp : (s2.task (.execute c)).preds = (s'.task (.execute c)).preds)
    (hclk : (s2.task (.execute c)).x.clk = (s'.task (.execute c)).x.clk) (hq : Popped rs (s.task (.execute c)).q (s2.task (.execute c)).q) :
    ∃ t, issue w s body = .next t ∧ VecFrame rs c s t C ∧
      (t.core c).vec = { (s2.core c).vec with vcfg := if queue then cfgStepRGC (s2.core c).vec.vcfg else (s2.core c).vec.vcfg } ∧
      (t.task (.execute c)).regs = (s2.task (.execute c)).regs ∧ (t.task (.execute c)).q = (s2.task (.execute c)).q ∧
      (t.task (.execute c)).x.ready = (s2.task (.execute c)).x.ready := by
  have hdone := vecDone_task (k := ctxOf (.execute c) w s) rfl s2 queue C
  obtain ⟨t, ht, hframe, hvec, htask⟩ := issue_inCore (rs := rs) (C := C) h hb ((hr.inCore.trans hin).trans (vecDone_inCore rfl ..))
    (by rw [hdone]; exact ha.trans hr.a) (by rw [hdone]; exact hp.trans hr.preds) (by rw [hdone]; exact hq) (by
      have hc := hclk.trans hr.clk
      rw [hdone]
      show (s2.task (.execute c)).x.clk + (max 1 C - 1) + 1 = _ + max 1 C
      omega)
  refine ⟨t, ht, hframe, hvec.trans (vecDone_vec rfl ..), ?_, ?_, ?_⟩ <;> rw [htask, hdone] <;> rfl

end

theorem vrange_base_mod (cfg : W64) (queue : Bool) : (vrange cfg queue).base % 64 = 0 := by
  cases queue
  · rfl
  · show 256 * cfgRGC cfg % 64 = 0
    omega

/-! Row-wise words with a vector result (07 R164-R168). -/

/-- Data of an entry pushed by a word whose elements ascend from `base`. -/
theorem tget_map_sub {base : Nat} {l : List Nat} (hl : ∀ e ∈ l, base ≤ e) (g : Nat → W32) (k : Nat) :
    tget 0#32 (l.map fun e => (e - base, g e)) k = if base + k ∈ l then g (base + k) else 0#32 := by
  induction l with
  | nil => rfl
  | cons e l ih =>
    have he := hl e List.mem_cons_self
    have ih := ih fun x hx => hl x (List.mem_cons_of_mem _ hx)
    rw [tget, List.map_cons, tget?_cons]
    by_cases hk : e - base = k
    · obtain rfl : e = base + k := by omega
      simp
    · have hne : base + k ≠ e := by omega
      rw [if_neg hk]
      simpa [hne, tget] using ih

theorem getLsbD_foldl_mask {base : Nat} {l : List Nat} (hl : ∀ e ∈ l, base ≤ e) {k : Nat} (hk : k < 256) :
    (l.foldl (fun m e => m ||| (1#256 <<< (e - base))) 0#256).getLsbD k = decide (base + k ∈ l) := by
  rw [getLsbD_foldl_or, Bool.eq_iff_iff]
  have hone : ∀ i, (1#256 <<< i).getLsbD k = decide (k = i) := by
    intro i
    rw [BitVec.getLsbD_shiftLeft, BitVec.getLsbD_one, Bool.eq_iff_iff]
    simp [hk]
    omega
  simp only [hone, BitVec.getLsbD_zero, Bool.false_or, List.any_eq_true, decide_eq_true_eq]
  constructor
  · rintro ⟨e, he, rfl⟩
    rwa [Nat.add_sub_cancel' (hl e he)]
  · exact fun hm => ⟨_, hm, by omega⟩

/-- The entry that the active elements of a row-wise word leave on vqs. -/
def vqsEntry (base : Nat) (act : List (Nat × W32)) : VqsEntry :=
  { data := act.map fun w => (w.1 - base, w.2), mask := act.foldl (fun m w => m ||| (1#256 <<< (w.1 - base))) 0#256 }

theorem vecResult_eq_pushVqs {vd : VReg} (hv : ∀ n, vd ≠ .v n) (k : Ctx) (cfg : W64) (r : VRange) (kind : RowKind) (C B fr : Nat) (act : List (Nat × W32)) (inact : List Nat) (s : State) :
    vecResult k vd cfg r kind C B fr act inact s = pushVqs k (vqsEntry r.base act).data (vqsEntry r.base act).mask s := by
  cases vd with
  | v n => exact absurd rfl (hv n)
  | _ => rfl

theorem vqsEntry_actives (v : VecState) (r : VRange) (masked : Bool) (f : Nat → W32) {k : Nat} (hk : k < 256) :
    (vqsEntry r.base ((actives v r masked).map fun e => (e, f e))).mask.getLsbD k = VActive v r masked (r.base + k) ∧
      tget 0#32 (vqsEntry r.base ((actives v r masked).map fun e => (e, f e))).data k =
        if (vqsEntry r.base ((actives v r masked).map fun e => (e, f e))).mask.getLsbD k then f (r.base + k) else 0#32 := by
  have hbase : ∀ e ∈ actives v r masked, r.base ≤ e := fun e he => (VRange.mem_below.1 (List.mem_filter.1 he).1).1
  have hmask : (vqsEntry r.base ((actives v r masked).map fun e => (e, f e))).mask.getLsbD k = VActive v r masked (r.base + k) := by
    rw [vqsEntry, List.foldl_map, getLsbD_foldl_mask hbase hk, Bool.eq_iff_iff, decide_eq_true_iff, mem_actives]
  refine ⟨hmask, ?_⟩
  rw [hmask, vqsEntry, List.map_map]
  exact (tget_map_sub hbase f k).trans (if_congr mem_actives rfl rfl)

section
variable {w : WordInfo} {c : Nat} {s s' : State} {q : Queues} {fsr : W64} (hr : HasRead w c s q fsr s') {i : Instr} {rs : List Role} {lc : BitVec 3} {vd : VReg}
  {queue masked : Bool} {fr : Nat} {f : Nat → W32 × Flags} {body : Ctx → State → Except Stop State} (h : Ready w (.execute c) s) (hl : Landed (s.task (.execute c)))
  (hi : exec i s = issue w s body) (hq : Popped rs (s.task (.execute c)).q q) (hvqs : q.vqs = (s.task (.execute c)).q.vqs)
  (hfsr : Flagged (s.core c).vec.fsr fsr (fun e => VActive (s.core c).vec (vrange (s.core c).vec.vcfg queue) masked e = true) (fun e => (f e).2))
  (hb : let v := (s.core c).vec
    let r := vrange v.vcfg queue
    let C := r.rows (cfgVL v.vcfg)
    body (ctxOf (.execute c) w s) (atIssue (.execute c) w s) = .ok (vecDone (ctxOf (.execute c) w s) queue C
      (vecResult (ctxOf (.execute c) w s) vd v.vcfg r .rowWise C (lcBound lc) fr ((actives v r masked).map fun e => (e, (f e).1)) (inactives v r masked) s')))
include hr h hl hi hq hvqs hfsr hb

theorem HasRead.rowWord_group {d : Fin 16} (hd : vd = .v d) : RowWord i rs c s lc vd queue masked f := by
  subst hd
  have hlanded := hr.landed hl
  have htask := vecResult_task (k := ctxOf (.execute c) w s) rfl s' (s.core c).vec.vcfg (vrange (s.core c).vec.vcfg queue) .rowWise
    ((vrange (s.core c).vec.vcfg queue).rows (cfgVL (s.core c).vec.vcfg)) (lcBound lc) fr
    ((actives (s.core c).vec (vrange (s.core c).vec.vcfg queue) masked).map fun e => (e, (f e).1)) (inactives (s.core c).vec (vrange (s.core c).vec.vcfg queue) masked) d
  obtain ⟨t, ht, hframe, hvec, hregs, htq, hready⟩ := hr.answer (rs := rs) h hb (vecResult_inCore rfl ..) (by rw [htask, boundRows_a]) (by rw [htask, boundRows_preds])
    (by rw [htask, boundRows_clk]) (by rw [htask, boundRows_q, hr.queues]; exact hq)
  rw [vecResult_vec rfl _ _ _ _ _ _ _ _ _ hlanded, hr.vec] at hvec
  rw [htask] at hregs htq hready
  refine ⟨t, hi.trans ht, hframe, by rw [hvec]; rfl, by rw [hvec]; rfl, by rw [hvec]; rfl, by rw [hvec]; rfl, ?regs, by rw [hvec]; exact hfsr, ?group, ?vqs, ?bounds⟩
  case regs => rw [hregs, boundRows_regs, hr.regs]
  case group =>
    rw [hvec]
    exact groupIs_vwrite (w := { (s.core c).vec with fsr := fsr }) rfl fun e => lastOf_resultWrites ..
  case vqs => rw [htq, boundRows_q, hr.queues, hvqs]
  case bounds =>
    intro k hk
    rw [hready, tget_boundRows_rowWise _ _ _ _ _ _ (vrange_base_mod ..) hk (VRange.rows_le ..), hr.clk, hr.max_ready (by omega)]

omit hl in
theorem HasRead.rowWord_vqs (hd : ∀ n, vd ≠ .v n) : RowWord i rs c s lc vd queue masked f := by
  dsimp only at hb
  rw [vecResult_eq_pushVqs hd] at hb
  have htask := fun x => pushVqs_task (k := ctxOf (.execute c) w s) s' (VqsEntry.data x) x.mask
  simp only [ctxOf_a] at htask
  obtain ⟨t, ht, hframe, hvec, hregs, htq, -⟩ := hr.answer (rs := rs) h hb (pushVqs_inCore rfl ..) (by rw [htask, pushedVqs_a]) (by rw [htask, pushedVqs_preds])
    (by rw [htask, pushedVqs_clk]) (by rw [htask]; exact popped_pushedVqs (hr.queues ▸ hq) _)
  rw [pushVqs_vec, hr.vec] at hvec
  rw [htask] at hregs htq
  have hentry : ((s.task (.execute c)).a.ended = true → (t.task (.execute c)).q.vqs = (s.task (.execute c)).q.vqs) ∧
      ((s.task (.execute c)).a.ended = false → (t.task (.execute c)).q.vqs = (s.task (.execute c)).q.vqs ++
        [vqsEntry (vrange (s.core c).vec.vcfg queue).base ((actives (s.core c).vec (vrange (s.core c).vec.vcfg queue) masked).map fun e => (e, (f e).1))]) := by
    refine ⟨fun hend => ?_, fun hend => ?_⟩ <;> rw [htq, pushedVqs, hr.a, hend] <;> simp [hr.queues, hvqs]
  have hall : (t.core c).vec.v = (s.core c).vec.v ∧ ((s.task (.execute c)).a.ended = true → (t.task (.execute c)).q.vqs = (s.task (.execute c)).q.vqs) ∧
      ((s.task (.execute c)).a.ended = false → ∃ x, (t.task (.execute c)).q.vqs = (s.task (.execute c)).q.vqs ++ [x] ∧ ∀ k, k < 256 →
        x.mask.getLsbD k = VActive (s.core c).vec (vrange (s.core c).vec.vcfg queue) masked ((vrange (s.core c).vec.vcfg queue).base + k) ∧
          tget 0#32 x.data k = if x.mask.getLsbD k then (f ((vrange (s.core c).vec.vcfg queue).base + k)).1 else 0#32) :=
    ⟨by rw [hvec], hentry.1, fun hend => ⟨_, hentry.2 hend, fun k hk => vqsEntry_actives _ _ masked (fun e => (f e).1) hk⟩⟩
  have hregs' : (t.task (.execute c)).regs = (s.task (.execute c)).regs := by rw [hregs, pushedVqs_regs, hr.regs]
  refine ⟨t, hi.trans ht, hframe, by rw [hvec], by rw [hvec], by rw [hvec], by rw [hvec], hregs', by rw [hvec]; exact hfsr, ?_⟩
  cases vd with
  | v n => exact absurd rfl (hd n)
  | _ => exact hall

/-- A row-wise word gives what its active elements receive. -/
theorem HasRead.rowWord : RowWord i rs c s lc vd queue masked f := by
  cases vd with
  | v d => exact hr.rowWord_group h hl hi hq hvqs hfsr hb rfl
  | _ => exact hr.rowWord_vqs h hi hq hvqs hfsr hb nofun

end

end Sys2Proof.Machine
end

section
namespace Sys2Proof.Machine

open Sys2Proof

/-! The shared operation of row-wise words (07 R164-R168, R171-R175). -/

theorem groupOk_iff {cfg : W64} {x : VReg} : groupOk (cfgG cfg) x = true ↔ Grouped cfg [x] := by
  unfold Grouped
  cases x <;> simp [groupOk, cfgG]

theorem grouped_cons {cfg : W64} {x : VReg} {l : List VReg} : Grouped cfg (x :: l) ↔ Grouped cfg [x] ∧ Grouped cfg l := by
  unfold Grouped
  simp only [List.mem_cons, List.not_mem_nil, or_false]
  exact ⟨fun h => ⟨fun n hn => h n (.inl hn), fun n hn => h n (.inr hn)⟩, fun ⟨h, h'⟩ n hn => hn.elim (h n) (h' n)⟩

theorem all_groupOk_iff {cfg : W64} {l : List VReg} : l.all (groupOk (cfgG cfg)) = true ↔ Grouped cfg l := by
  induction l with
  | nil => simp [Grouped]
  | cons x l ih => rw [List.all_cons, Bool.and_eq_true, groupOk_iff, ih, ← grouped_cons]

/-- The roles of a row-wise word. -/
def rowRoles (useD : Bool) (vd va : VReg) (vb : Option VReg) : List Role := [if useD then .vrw vd else .vdst vd, .vsrc va] ++ vb.toList.map .vsrc

/-- Some field of a row-wise word names a queue. -/
def rowQueue (vd va : VReg) (vb : Option VReg) : Bool := vIsQueue vd || vIsQueue va || (vb.map vIsQueue).getD false

/-- Queues once the sources of a row-wise word are popped. -/
def popSources (va : VReg) (vb : Option VReg) (q : Queues) : Queues :=
  match vb with
  | some x => popVec x (popVec va q)
  | none => popVec va q

/-- The element that an optional source gives. -/
def optVal (t : Task) (v : VecState) (x : Option VReg) (e : Nat) : W32 := (x.map fun x => vVal t v x e).getD 0#32

theorem popSources_vqs (va : VReg) (vb : Option VReg) (q : Queues) : (popSources va vb q).vqs = q.vqs := by cases vb <;> simp [popSources]

/-- A word whose vector sources are one or two fields, of different queues, and that has no scalar source pops their heads. -/
theorem popped_popSources {rs : List Role} {va : VReg} {vb : Option VReg} (hvq : ∀ n : Fin 4, Role.vsrc (.vq n) ∈ rs ↔ va = .vq n ∨ vb = some (.vq n))
    (hsq : ∀ n : Fin 4, Role.src (.sq n) ∉ rs) (hne : ∀ n : Fin 4, va = .vq n → vb ≠ some (.vq n)) (q : Queues) : Popped rs q (popSources va vb q) := by
  refine popped_of ?_ ?_ (fun n => ?_) (fun n => ?_)
  · cases vb <;> simp [popSources]
  · cases vb <;> simp [popSources]
  · have hn := hne n
    simp only [hvq]
    cases vb with
    | none => simp [popSources, tget_popVec]
    | some x =>
      simp only [popSources, tget_popVec, Option.some.injEq]
      by_cases ha : va = .vq n
      · have hx : x ≠ .vq n := fun hx => hn ha (congrArg some hx)
        simp [ha, hx]
      · simp [ha]
  · cases vb <;> simp [popSources, hsq]

theorem noRepeat_sources (r : Role) (n : Fin 4) : noRepeat ([r, .vsrc (.vq n), .vsrc (.vq n)].filterMap Role.queue?) = false := by
  have htwo : [Role.vsrc (.vq n), .vsrc (.vq n)].filterMap Role.queue? = [.vq n, .vq n] := rfl
  rw [List.filterMap_cons, htwo]
  cases r.queue? <;> simp [Sys2Proof.noRepeat]

/-- The two vector sources of a ready word name different queues. -/
theorem Ready.sources_ne {w : WordInfo} {a : Agent} {s : State} (h : Ready w a s) {r : Role} {va vb : VReg} (hr : w.roles = [r, .vsrc va, .vsrc vb]) {n : Fin 4}
    (ha : va = .vq n) : vb ≠ .vq n := by
  rintro rfl
  have hn := h.noRepeat
  rw [hr, ha, noRepeat_sources] at hn
  cases hn

section
variable {c : Nat} {s : State} {g : Guard} {vd va : VReg} {vb : Option VReg} {useD masked : Bool}

theorem sources_ne_of_rowRoles (h : Ready (exe g (rowRoles useD vd va vb)) (.execute c) s) {n : Fin 4} (ha : va = .vq n) : vb ≠ some (.vq n) := by
  rintro rfl
  exact h.sources_ne (r := if useD then .vrw vd else .vdst vd) rfl ha rfl

theorem popped_rowRoles (h : Ready (exe g (rowRoles useD vd va vb)) (.execute c) s) (q : Queues) : Popped (rowRoles useD vd va vb) q (popSources va vb q) :=
  popped_popSources (fun n => by cases useD <;> cases vb <;> simp [rowRoles, eq_comm]) (fun n => by cases useD <;> cases vb <;> simp [rowRoles]) (fun _ => sources_ne_of_rowRoles h) q

end

end Sys2Proof.Machine
end

section
namespace Sys2Proof.Machine

open Sys2Proof

/-- A word of the execute stream on vector fields, in its plain or its masked form. -/
abbrev vecInfo (g : Guard) (rs : List Role) (masked : Bool) : WordInfo := { exe g rs with masked := masked }

/-- An optional source field read. -/
def optSource (k : Ctx) (x : Option VReg) (base fr : Nat) (s : State) : VSrc × State :=
  match x with
  | some x => vsource k x base fr s
  | none => (.row base [], s)

/-- The destination of a word as a source of its old elements. -/
def oldSource (vd : VReg) (base fr : Nat) : VSrc :=
  match vd with
  | .v n => .grp n.val fr
  | _ => .row base []

/-- The old elements of a destination: of its group, and 0 of a queue. -/
def oldVal (v : VecState) (vd : VReg) (e : Nat) : W32 :=
  match vd with
  | .v d => vElem v d.val e
  | _ => 0#32

theorem oldSource_get {t : Task} {at_ : Nat} (ht : Landed t) (hat : t.x.clk ≤ at_) (v : VecState) (vd : VReg) (base fr e : Nat) :
    (oldSource vd base fr).get t v e at_ = oldVal v vd e := by
  cases vd with
  | v n => exact vread_of_landed ht hat ..
  | _ => rfl

section
variable (g : Guard) (lc : BitVec 3) (vd va : VReg) (vb : Option VReg) (useD masked : Bool) (f : ElemOp)

/-- The fields that name registers name groups (07 R165). -/
def rowGrouped (cfg : W64) : Bool := groupOk (cfgG cfg) vd && groupOk (cfgG cfg) va && (vb.map (groupOk (cfgG cfg))).getD true

/-- A row-wise word on elements that have all landed: VGROUP, or the results of its operation on the elements `A` and `B` of its sources. -/
theorem rowOp_issues : ∃ body, (∀ s, rowOp g lc vd va vb useD masked f s = issue (vecInfo g (rowRoles useD vd va vb) masked) s body) ∧
    (∀ k s, rowGrouped vd va vb (s.vecOf k.a).vcfg = false → body k s = err .vgroup) ∧
    ∀ k s, rowGrouped vd va vb (s.vecOf k.a).vcfg = true →
      let v := s.vecOf k.a
      let r := vrange v.vcfg (rowQueue vd va vb)
      let C := r.rows (cfgVL v.vcfg)
      let a := vsource k va r.base s.freeCtr s
      let b := optSource k vb r.base (s.freeCtr + 1) a.2
      let t := b.2.task k.a
      ∀ A B : Nat → W32, Landed t → (∀ e at_, t.x.clk ≤ at_ → a.1.get t v e at_ = A e) → (∀ e at_, t.x.clk ≤ at_ → b.1.get t v e at_ = B e) →
        let F (e : Nat) := f (fsrMode v.fsr) (A e) (B e) (if useD then oldVal v vd e else 0#32)
        body k s = .ok (vecDone k (rowQueue vd va vb) C (vecResult k vd v.vcfg r .rowWise C (lcBound lc) (s.freeCtr + 2)
          ((actives v r masked).map fun e => (e, (F e).1)) (inactives v r masked)
          (b.2.modVec k.a fun v' => { v' with fsr := fsrOr v'.fsr ((actives v r masked).foldl (fun fl e => fl ||| (F e).2) 0#6) }))) := by
  refine ⟨_, fun s => rfl, fun k s hg => ?_, ?_⟩
  · have hg' := hg
    unfold rowGrouped at hg'
    simp only [hg', Bool.not_false, if_true]
  · intro k s hg v r C a b t A B ht hA hB F
    have hg' := hg
    unfold rowGrouped at hg'
    have hA' : ∀ e, elemAt t v a.1 r .rowWise t.x.clk C e = A e := fun e => hA e _ (le_readClock ..)
    have hB' : ∀ e, elemAt t v b.1 r .rowWise t.x.clk C e = B e := fun e => hB e _ (le_readClock ..)
    have hD : ∀ e, elemAt t v (oldSource vd r.base (s.freeCtr + 2)) r .rowWise t.x.clk C e = oldVal v vd e := fun e => oldSource_get ht (le_readClock ..) ..
    let act := activeOf t v r masked .rowWise t.x.clk C (s.freeCtr + 3)
    have hact : act = (actives v r masked, inactives v r masked) := activeOf_of_landed ht ..
    let res := act.1.map fun e => (e, f (fsrMode v.fsr) (elemAt t v a.1 r .rowWise t.x.clk C e) (elemAt t v b.1 r .rowWise t.x.clk C e)
      (if useD then elemAt t v (oldSource vd r.base (s.freeCtr + 2)) r .rowWise t.x.clk C e else 0#32))
    have hres : res = (actives v r masked).map fun e => (e, F e) := by simp only [res, hact, hA', hB', hD, F]
    calc
      _ = .ok (vecDone k (rowQueue vd va vb) C (vecResult k vd v.vcfg r .rowWise C (lcBound lc) (s.freeCtr + 2) (res.map fun x => (x.1, x.2.1)) act.2
            (b.2.modVec k.a fun v' => { v' with fsr := fsrOr v'.fsr (res.foldl (fun fl x => fl ||| x.2.2) 0#6) }))) := by
        refine (if_neg (by simp [hg'])).trans ?_
        cases vb <;> rfl
      _ = _ := by
        rw [hres, hact, List.map_map, List.foldl_map]
        rfl

end
end Sys2Proof.Machine
end

section
namespace Sys2Proof.Machine

open Sys2Proof

section
variable {c : Nat} {s : State} {g : Guard} {lc : BitVec 3} {vd va : VReg} {vb : Option VReg} {useD masked : Bool} {i : Instr} {f : ElemOp}

theorem HasRead.optSource {w : WordInfo} {s' : State} {fsr : W64} (h : HasRead w c s (popVec va (s.task (.execute c)).q) fsr s') (base fr : Nat) :
    HasRead w c s (popSources va vb (s.task (.execute c)).q) fsr (optSource (ctxOf (.execute c) w s) vb base fr s').2 := by
  cases vb with
  | none => exact h
  | some x => exact h.vsource ..

theorem rowGrouped_iff {cfg : W64} : rowGrouped vd va vb cfg = true ↔ Grouped cfg ([vd, va] ++ vb.toList) := by
  rw [rowGrouped, Bool.and_eq_true, Bool.and_eq_true, groupOk_iff, groupOk_iff]
  cases vb with
  | none => simp only [Option.map_none, Option.getD_none, and_true]; exact (grouped_cons (l := [va])).symm
  | some x =>
    simp only [Option.map_some, Option.getD_some, groupOk_iff, and_assoc]
    exact (grouped_cons.trans (and_congr_right' grouped_cons)).symm

theorem oldVal_eq_vVal (h : Ready (exe g (rowRoles true vd va vb)) (.execute c) s) (v : VecState) (e : Nat) :
    oldVal v vd e = vVal (s.task (.execute c)) v vd e := by
  have hd := h.role_ok (r := .vrw vd) (by simp [exe, rowRoles])
  cases vd with
  | v n => rfl
  | _ => cases hd

theorem vVal_popVec {t : Task} {v : VecState} {x y : VReg} (h : ∀ n, x = .vq n → y ≠ .vq n) (e : Nat) : vVal { t with q := popVec x t.q } v y e = vVal t v y e := by
  cases y with
  | vq n =>
    have hx : x ≠ .vq n := fun hx => h n hx rfl
    simp only [vVal, tget_popVec, if_neg hx]
  | _ => rfl

theorem vrange_base_of_queue {cfg : W64} {queue : Bool} (h : queue = true) : (vrange cfg queue).base = 256 * cfgRGC cfg := by rw [h]; rfl

/-- A row-wise word gives the value of its operation on the elements of its sources. -/
theorem rowWord_of_rowOp (h : Ready (exe g (rowRoles useD vd va vb)) (.execute c) s) (hl : Landed (s.task (.execute c)))
    (hg : Grouped (s.core c).vec.vcfg ([vd, va] ++ vb.toList)) (hi : exec i s = rowOp g lc vd va vb useD masked f s) :
    RowWord i (rowRoles useD vd va vb) c s lc vd (rowQueue vd va vb) masked fun e =>
      f (fsrMode (s.core c).vec.fsr) (vVal (s.task (.execute c)) (s.core c).vec va e) (optVal (s.task (.execute c)) (s.core c).vec vb e)
        (if useD then vVal (s.task (.execute c)) (s.core c).vec vd e else 0#32) := by
  have hready : Ready (vecInfo g (rowRoles useD vd va vb) masked) (.execute c) s := h.masked masked
  have hpop := popped_rowRoles h (s.task (.execute c)).q
  have hne : ∀ n, va = .vq n → vb ≠ some (.vq n) := fun n => sources_ne_of_rowRoles h
  obtain ⟨body, hissue, -, hbody⟩ := rowOp_issues g lc vd va vb useD masked f
  generalize vecInfo g (rowRoles useD vd va vb) masked = w at hready hissue
  have hvec : (atIssue (.execute c) w s).vecOf (.execute c) = (s.core c).vec := atIssue_vec ..
  have hstart := HasRead.start w c s
  have ha := hstart.vsource va (vrange (s.core c).vec.vcfg (rowQueue vd va vb)).base (atIssue (.execute c) w s).freeCtr
  have hb := ha.optSource (vb := vb) (vrange (s.core c).vec.vcfg (rowQueue vd va vb)).base ((atIssue (.execute c) w s).freeCtr + 1)
  have hD : ∀ e, (if useD then oldVal (s.core c).vec vd e else 0#32) = if useD then vVal (s.task (.execute c)) (s.core c).vec vd e else 0#32 := by
    cases useD with
    | false => exact fun _ => rfl
    | true => exact oldVal_eq_vVal h _
  have hdone := hbody (ctxOf (.execute c) w s) (atIssue (.execute c) w s)
  simp only [ctxOf_a, hvec] at hdone
  simp only [← hD]
  refine HasRead.rowWord (fr := (atIssue (.execute c) w s).freeCtr + 2) (hb.flags _) hready hl (hi.trans (hissue s)) hpop (popSources_vqs ..) (flagged_foldl (fun e => mem_actives) _ _)
    ((hdone (rowGrouped_iff.2 hg) _ _ (hb.landed hl) (fun e at_ hat => ?srcA) (fun e at_ hat => ?srcB)))
  case srcA =>
    exact hstart.vsource_get (hb.landed hl) hat (fun hq => vrange_base_of_queue (by simp [rowQueue, hq])) e
  case srcB =>
    cases vb with
    | none => rfl
    | some x =>
      refine (ha.vsource_get (hb.landed hl) hat (fun hq => vrange_base_of_queue (by simp [rowQueue, hq])) e).trans ?_
      exact vVal_popVec (fun n hn hx => hne n hn (congrArg some hx)) e

end
end Sys2Proof.Machine
end

section
namespace Sys2Proof.Machine

open Sys2Proof

section
variable {c : Nat} {s : State} {g : Guard} {lc : BitVec 3} {vd va vb : VReg} {i im : Instr} {op : ElemOp}

/-- A word of two sources and its masked form. -/
theorem rowWords_two {f : Nat → W32 × Flags} (h : Ready (exe g [.vdst vd, .vsrc va, .vsrc vb]) (.execute c) s) (hl : Landed (s.task (.execute c)))
    (hg : Grouped (s.core c).vec.vcfg [vd, va, vb]) (hi : exec i s = rowOp g lc vd va (some vb) false false op s) (him : exec im s = rowOp g lc vd va (some vb) false true op s)
    (hop : ∀ e, f e = op (fsrMode (s.core c).vec.fsr) (vVal (s.task (.execute c)) (s.core c).vec va e) (vVal (s.task (.execute c)) (s.core c).vec vb e) 0#32) :
    RowWords i im [.vdst vd, .vsrc va, .vsrc vb] c s lc vd (vIsQueue vd || vIsQueue va || vIsQueue vb) f := by
  rw [funext hop]
  exact ⟨rowWord_of_rowOp (useD := false) (vb := some vb) h hl hg hi, rowWord_of_rowOp (useD := false) (vb := some vb) h hl hg him⟩

/-- A word that also reads its old destination, and its masked form. -/
theorem rowWords_three {f : Nat → W32 × Flags} (h : Ready (exe g [.vrw vd, .vsrc va, .vsrc vb]) (.execute c) s) (hl : Landed (s.task (.execute c)))
    (hg : Grouped (s.core c).vec.vcfg [vd, va, vb]) (hi : exec i s = rowOp g lc vd va (some vb) true false op s) (him : exec im s = rowOp g lc vd va (some vb) true true op s)
    (hop : ∀ e, f e = op (fsrMode (s.core c).vec.fsr) (vVal (s.task (.execute c)) (s.core c).vec va e) (vVal (s.task (.execute c)) (s.core c).vec vb e)
      (vVal (s.task (.execute c)) (s.core c).vec vd e)) :
    RowWords i im [.vrw vd, .vsrc va, .vsrc vb] c s lc vd (vIsQueue vd || vIsQueue va || vIsQueue vb) f := by
  rw [funext hop]
  exact ⟨rowWord_of_rowOp (useD := true) (vb := some vb) h hl hg hi, rowWord_of_rowOp (useD := true) (vb := some vb) h hl hg him⟩

/-- A word of one source and its masked form. -/
theorem rowWords_one {f : Nat → W32 × Flags} (h : Ready (exe g [.vdst vd, .vsrc va]) (.execute c) s) (hl : Landed (s.task (.execute c)))
    (hg : Grouped (s.core c).vec.vcfg [vd, va]) (hi : exec i s = rowOp g lc vd va none false false op s) (him : exec im s = rowOp g lc vd va none false true op s)
    (hop : ∀ e, f e = op (fsrMode (s.core c).vec.fsr) (vVal (s.task (.execute c)) (s.core c).vec va e) 0#32 0#32) :
    RowWords i im [.vdst vd, .vsrc va] c s lc vd (vIsQueue vd || vIsQueue va) f := by
  rw [funext hop]
  have hqueue : rowQueue vd va none = (vIsQueue vd || vIsQueue va) := Bool.or_false _
  rw [← hqueue]
  exact ⟨rowWord_of_rowOp (useD := false) (vb := none) h hl hg hi, rowWord_of_rowOp (useD := false) (vb := none) h hl hg him⟩

/-- A word of two sources with a field that names no group raises VGROUP. -/
theorem rowOp_traps {useD masked : Bool} {vb : Option VReg} (h : Ready (exe g (rowRoles useD vd va vb)) (.execute c) s) (hg : ¬ Grouped (s.core c).vec.vcfg ([vd, va] ++ vb.toList))
    (hi : exec i s = rowOp g lc vd va vb useD masked op s) : Traps i (.execute c) s .vgroup := by
  obtain ⟨body, hissue, hstop, -⟩ := rowOp_issues g lc vd va vb useD masked op
  have hready : Ready (vecInfo g (rowRoles useD vd va vb) masked) (.execute c) s := h.masked masked
  refine hi.trans ((hissue s).trans (issue_trap hready (.inr (h.noArm rfl)) (hstop _ _ ?_)))
  rw [ctxOf_a, State.vecOf_execute, atIssue_vec]
  exact Bool.eq_false_iff.2 fun hgroup => hg (rowGrouped_iff.1 hgroup)

end

/-! The values of the integer words, as their tables give them (07 R171). -/

theorem vadd_eq (x y : W32) : x + y = BitVec.ofNat 32 (x.toNat + y.toNat) := BitVec.eq_of_toNat_eq (by simp)

theorem vsub_eq (x y : W32) : x - y = BitVec.ofInt 32 (x.toNat - y.toNat) := by
  rw [Int.sub_eq_add_neg, BitVec.ofInt_add, BitVec.ofInt_neg, BitVec.ofInt_natCast, BitVec.ofInt_natCast, BitVec.ofNat_toNat, BitVec.ofNat_toNat]
  simp [BitVec.sub_eq_add_neg]

theorem vmul_eq (x y : W32) : x * y = BitVec.ofNat 32 (x.toNat * y.toNat) := BitVec.eq_of_toNat_eq (by simp)

theorem vopShl_eq (x y : W32) : vopShl x y = BitVec.ofNat 32 (x.toNat * 2 ^ (y.toNat % 32)) :=
  BitVec.eq_of_toNat_eq (by simp [vopShl, vcount, Nat.shiftLeft_eq])

theorem vopShr_eq (x y : W32) : vopShr x y = BitVec.ofNat 32 (x.toNat / 2 ^ (y.toNat % 32)) := by
  have h : x.toNat / 2 ^ (y.toNat % 32) < 2 ^ 32 := Nat.lt_of_le_of_lt (Nat.div_le_self ..) x.isLt
  apply BitVec.eq_of_toNat_eq
  rw [BitVec.toNat_ofNat, Nat.mod_eq_of_lt h, vopShr, BitVec.toNat_ushiftRight, Nat.shiftRight_eq_div_pow, vcount]

theorem vopSar_eq (x y : W32) : vopSar x y = BitVec.ofInt 32 (Int.fdiv x.toInt (2 ^ (y.toNat % 32))) := by
  rw [Int.fdiv_eq_ediv_of_nonneg _ (by positivity)]
  simp [vopSar, vcount, BitVec.sshiftRight_eq, Int.shiftRight_eq_div_pow]

theorem vopMin_eq (x y : W32) : vopMin x y = BitVec.ofInt 32 (min x.toInt y.toInt) := by
  unfold vopMin
  split
  · rw [min_eq_left ‹_›, BitVec.ofInt_toInt]
  · rw [min_eq_right (by omega), BitVec.ofInt_toInt]

theorem vopMax_eq (x y : W32) : vopMax x y = BitVec.ofInt 32 (max x.toInt y.toInt) := by
  unfold vopMax
  split
  · rw [max_eq_right ‹_›, BitVec.ofInt_toInt]
  · rw [max_eq_left (by omega), BitVec.ofInt_toInt]

theorem vopMinu_eq (x y : W32) : vopMinu x y = BitVec.ofNat 32 (min x.toNat y.toNat) := by
  unfold vopMinu
  split
  · rw [min_eq_left ‹_›, BitVec.ofNat_toNat, BitVec.setWidth_eq]
  · rw [min_eq_right (by omega), BitVec.ofNat_toNat, BitVec.setWidth_eq]

theorem vopMaxu_eq (x y : W32) : vopMaxu x y = BitVec.ofNat 32 (max x.toNat y.toNat) := by
  unfold vopMaxu
  split
  · rw [max_eq_right ‹_›, BitVec.ofNat_toNat, BitVec.setWidth_eq]
  · rw [max_eq_left (by omega), BitVec.ofNat_toNat, BitVec.setWidth_eq]

/-- A sum or difference outside 32 bits is clamped, with SAT. -/
theorem signedSat32_eq (y : Int) : signedSat32 y =
    (BitVec.ofInt 32 (if y < -2 ^ 31 then -2 ^ 31 else if y > 2 ^ 31 - 1 then 2 ^ 31 - 1 else y),
      if (if y < -2 ^ 31 then -2 ^ 31 else if y > 2 ^ 31 - 1 then 2 ^ 31 - 1 else y) = y then 0#6 else 32#6) := by
  have hclamp : clampInt y (-2 ^ 31) (2 ^ 31 - 1) = if y < -2 ^ 31 then -2 ^ 31 else if y > 2 ^ 31 - 1 then 2 ^ 31 - 1 else y := rfl
  rw [signedSat32, hclamp]
  generalize (if y < -2 ^ 31 then -2 ^ 31 else if y > 2 ^ 31 - 1 then 2 ^ 31 - 1 else y) = z
  by_cases hz : z = y <;> simp [hz, flagIf, flagSAT]

/-- Settles O38: the words are one row-wise operation, whose element functions have the values of the table. -/
theorem vectorIntegerWords : Obligations.VectorIntegerWords := by
  unfold Obligations.VectorIntegerWords
  intro c s g lc vd va vb a rs u v A B Gives Clamps h hl
  refine ⟨fun hg => ?values, fun hg => ⟨rowOp_traps (useD := false) (vb := some vb) h hg rfl, rowOp_traps (useD := false) (vb := some vb) h hg rfl⟩⟩
  case values =>
    have hword {i im : Instr} {op : ElemOp} {f : Nat → W32 × Flags} := rowWords_two (i := i) (im := im) (lc := lc) (op := op) (f := f) h hl hg
    have hgives {i im : Instr} {op f : W32 → W32 → W32} (hi : exec i s = rowOp g lc vd va (some vb) false false (noFlags op) s)
        (him : exec im s = rowOp g lc vd va (some vb) false true (noFlags op) s) (hop : ∀ x y, op x y = f x y) : Gives i im f :=
      hword hi him fun e => congrArg (·, 0#6) (hop (A e) (B e)).symm
    exact ⟨hgives rfl rfl vadd_eq, hgives rfl rfl vsub_eq, hgives rfl rfl vmul_eq, hgives (op := vopMulh) rfl rfl fun _ _ => rfl,
      hgives (op := (· &&& ·)) rfl rfl fun _ _ => rfl, hgives (op := (· ||| ·)) rfl rfl fun _ _ => rfl, hgives (op := (· ^^^ ·)) rfl rfl fun _ _ => rfl, hgives rfl rfl vopShl_eq, hgives rfl rfl vopShr_eq, hgives rfl rfl vopSar_eq,
      hgives rfl rfl vopMin_eq, hgives rfl rfl vopMax_eq, hgives rfl rfl vopMinu_eq, hgives rfl rfl vopMaxu_eq,
      hword rfl rfl fun e => (signedSat32_eq ((A e).toInt + (B e).toInt)).symm, hword rfl rfl fun e => (signedSat32_eq ((A e).toInt - (B e).toInt)).symm⟩

theorem vfabs_eq (x : W32) : x &&& 0x7FFFFFFF#32 = BitVec.ofNat 32 (x.toNat % 2 ^ 31) := by
  have hmask : (0x7FFFFFFF#32).toNat = 2 ^ 31 - 1 := rfl
  apply BitVec.eq_of_toNat_eq
  rw [BitVec.toNat_and, hmask, Nat.and_two_pow_sub_one_eq_mod, BitVec.toNat_ofNat]
  exact (Nat.mod_eq_of_lt (Nat.lt_of_lt_of_le (Nat.mod_lt _ (by decide)) (by decide))).symm

/-- The sign turned: adding the weight of the top bit changes no bit but that. -/
theorem vfneg_eq (x : W32) : x ^^^ 0x80000000#32 = BitVec.ofNat 32 (x.toNat + 2 ^ 31) := by
  have htop : 0x80000000#32 = BitVec.twoPow 32 31 := rfl
  apply BitVec.eq_of_getLsbD_eq
  intro j hj
  rw [htop, BitVec.getLsbD_xor, BitVec.getLsbD_twoPow, BitVec.getLsbD_ofNat, Nat.add_comm, ← BitVec.testBit_toNat, decide_eq_true hj, Bool.true_and]
  by_cases hsign : j = 31
  · subst hsign
    rw [Nat.testBit_two_pow_add_eq]
    exact Bool.xor_true _
  · rw [Nat.testBit_two_pow_add_gt (by omega), decide_eq_false (Ne.symm hsign), Bool.and_false, Bool.xor_false]

/-- Settles O39: the words are one row-wise operation, and its element functions those of the statement. -/
theorem vectorFloatWords : Obligations.VectorFloatWords := by
  unfold Obligations.VectorFloatWords
  intro c s g lc vd va vb a u v m A B D Two Three One hl
  refine ⟨fun h hg => ?two, fun h hg => ?three, fun h hg => ?one⟩
  case two =>
    have hword {i im : Instr} (op : ElemOp) (hi : exec i s = rowOp g lc vd va (some vb) false false op s)
        (him : exec im s = rowOp g lc vd va (some vb) false true op s) : Two i im fun x y => op m x y 0#32 := rowWords_two h hl hg hi him fun _ => rfl
    exact ⟨hword (fun m x y _ => fadd x y m) rfl rfl, hword (fun m x y _ => fsub x y m) rfl rfl, hword (fun m x y _ => fmul x y m) rfl rfl,
      hword (fun _ x y _ => fminmax false x y) rfl rfl, hword (fun _ x y _ => fminmax true x y) rfl rfl⟩
  case three =>
    have hword {i im : Instr} (op : ElemOp) (hi : exec i s = rowOp g lc vd va (some vb) true false op s)
        (him : exec im s = rowOp g lc vd va (some vb) true true op s) : Three i im fun x y z => op m x y z := rowWords_three h hl hg hi him fun _ => rfl
    exact ⟨hword (fun m x y z => fma x y z m) rfl rfl, hword (fun m x y z => fms x y z m) rfl rfl, hword (fun m x y z => fnma x y z m) rfl rfl⟩
  case one =>
    have hword {i im : Instr} (op : W32 → W32 × Flags) (hi : exec i s = rowOp g lc vd va none false false (unaryOp op) s)
        (him : exec im s = rowOp g lc vd va none false true (unaryOp op) s) : One i im op := rowWords_one h hl hg hi him fun _ => rfl
    refine ⟨hword vrcpe rfl rfl, hword vrsqe rfl rfl, hword vexp2e rfl rfl, hword vlog2e rfl rfl, hword vtanhe rfl rfl, ?_, ?_, hword (fun x => (fclass x, 0#6)) rfl rfl⟩
    · simp only [← vfabs_eq]
      exact hword (fun x => (x &&& 0x7FFFFFFF#32, 0#6)) rfl rfl
    · simp only [← vfneg_eq]
      exact hword (fun x => (x ^^^ 0x80000000#32, 0#6)) rfl rfl

end Sys2Proof.Machine
end

section
namespace Sys2Proof.Machine

open Sys2Proof

/-! Words with a mask destination (07 R164, R176, R179). -/

/-- A word with a mask destination gives what its active bits receive. -/
theorem HasRead.maskWord {w : WordInfo} {c : Nat} {s s' : State} {q : Queues} {fsr : W64} (hr : HasRead w c s q fsr s') {i : Instr} {rs : List Role} {md : MReg}
    {queue masked : Bool} {kind : RowKind} {C B fr : Nat} {f : Nat → Bool × Flags} {body : Ctx → State → Except Stop State} (h : Ready w (.execute c) s) (hl : Landed (s.task (.execute c)))
    (hi : exec i s = issue w s body) (hq : Popped rs (s.task (.execute c)).q q) (hvqs : q.vqs = (s.task (.execute c)).q.vqs)
    (hfsr : Flagged (s.core c).vec.fsr fsr (fun e => VActive (s.core c).vec (vrange (s.core c).vec.vcfg queue) masked e = true) (fun e => (f e).2))
    (hb : let v := (s.core c).vec
      let r := vrange v.vcfg queue
      body (ctxOf (.execute c) w s) (atIssue (.execute c) w s) = .ok (vecDone (ctxOf (.execute c) w s) queue C
        (maskResult (ctxOf (.execute c) w s) md v.vcfg r kind C B fr ((actives v r masked).map fun e => (e, (f e).1)) (inactives v r masked) s'))) :
    MaskWord i rs c s md queue masked C f := by
  have hlanded := hr.landed hl
  have htask := maskResult_task (k := ctxOf (.execute c) w s) rfl s' md (s.core c).vec.vcfg (vrange (s.core c).vec.vcfg queue) kind C B fr
    ((actives (s.core c).vec (vrange (s.core c).vec.vcfg queue) masked).map fun e => (e, (f e).1)) (inactives (s.core c).vec (vrange (s.core c).vec.vcfg queue) masked)
  obtain ⟨t, ht, hframe, hvec, hregs, htq, -⟩ := hr.answer (rs := rs) h hb (maskResult_inCore rfl ..) (by rw [htask, boundMaskRows_a]) (by rw [htask, boundMaskRows_preds])
    (by rw [htask, boundMaskRows_clk]) (by rw [htask, boundMaskRows_q, hr.queues]; exact hq)
  rw [maskResult_vec rfl _ _ _ _ _ _ _ _ _ _ hlanded, hr.vec] at hvec
  rw [htask] at hregs htq
  refine ⟨t, hi.trans ht, hframe, by rw [hvec]; rfl, by rw [hvec]; rfl, by rw [hvec]; rfl, by rw [hvec]; rfl, by rw [hregs, boundMaskRows_regs, hr.regs],
    by rw [htq, boundMaskRows_q, hr.queues, hvqs], by rw [hvec]; exact hfsr, ?_⟩
  rw [hvec]
  exact maskIs_mwrite (w := { (s.core c).vec with fsr := fsr }) rfl fun e => lastOf_resultWrites ..

section
variable {c : Nat} {s : State} {g : Guard} {lc : BitVec 3} {md : MReg} {va vb : VReg} {masked : Bool} {i : Instr}

/-- A compare on elements that have all landed. -/
theorem rowCmp_issues (g : Guard) (lc : BitVec 3) (md : MReg) (va vb : VReg) (masked : Bool) (f : W32 → W32 → Bool × Flags) :
    ∃ body, (∀ s, rowCmp g lc md va vb masked f s = issue (vecInfo g [.mdst md, .vsrc va, .vsrc vb] masked) s body) ∧
    ∀ k s, (md.val % cfgG (s.vecOf k.a).vcfg == 0 && groupOk (cfgG (s.vecOf k.a).vcfg) va && groupOk (cfgG (s.vecOf k.a).vcfg) vb) = true →
      let v := s.vecOf k.a
      let r := vrange v.vcfg (vIsQueue va || vIsQueue vb)
      let C := r.rows (cfgVL v.vcfg)
      let a := vsource k va r.base s.freeCtr s
      let b := vsource k vb r.base (s.freeCtr + 1) a.2
      let t := b.2.task k.a
      ∀ A B : Nat → W32, Landed t → (∀ e at_, t.x.clk ≤ at_ → a.1.get t v e at_ = A e) → (∀ e at_, t.x.clk ≤ at_ → b.1.get t v e at_ = B e) →
        body k s = .ok (vecDone k (vIsQueue va || vIsQueue vb) C (maskResult k md v.vcfg r .rowWise C (lcBound lc) (s.freeCtr + 2)
          ((actives v r masked).map fun e => (e, (f (A e) (B e)).1)) (inactives v r masked)
          (b.2.modVec k.a fun v' => { v' with fsr := fsrOr v'.fsr ((actives v r masked).foldl (fun fl e => fl ||| (f (A e) (B e)).2) 0#6) }))) := by
  refine ⟨_, fun s => rfl, ?_⟩
  intro k s hg v r C a b t A B ht hA hB
  have hA' : ∀ e, elemAt t v a.1 r .rowWise t.x.clk C e = A e := fun e => hA e _ (le_readClock ..)
  have hB' : ∀ e, elemAt t v b.1 r .rowWise t.x.clk C e = B e := fun e => hB e _ (le_readClock ..)
  let act := activeOf t v r masked .rowWise t.x.clk C (s.freeCtr + 3)
  have hact : act = (actives v r masked, inactives v r masked) := activeOf_of_landed ht ..
  let res := act.1.map fun e => (e, f (elemAt t v a.1 r .rowWise t.x.clk C e) (elemAt t v b.1 r .rowWise t.x.clk C e))
  have hres : res = (actives v r masked).map fun e => (e, f (A e) (B e)) := by simp only [res, hact, hA', hB']
  calc
    _ = Except.ok (vecDone k (vIsQueue va || vIsQueue vb) C (maskResult k md v.vcfg r .rowWise C (lcBound lc) (s.freeCtr + 2) (res.map fun x => (x.1, x.2.1)) act.2
          (b.2.modVec k.a fun v' => { v' with fsr := fsrOr v'.fsr (res.foldl (fun fl x => fl ||| x.2.2) 0#6) }))) := if_neg (by simp [hg])
    _ = _ := by
      rw [hres, hact, List.map_map, List.foldl_map]
      rfl

/-- A compare gives the bits of its relation on the elements of its sources. -/
theorem maskWord_of_rowCmp {f : W32 → W32 → Bool × Flags} (h : Ready (exe g [.mdst md, .vsrc va, .vsrc vb]) (.execute c) s) (hl : Landed (s.task (.execute c)))
    (hg : Grouped (s.core c).vec.vcfg [va, vb]) (hmd : md.val % 2 ^ cfgLG (s.core c).vec.vcfg = 0) (hi : exec i s = rowCmp g lc md va vb masked f s) :
    MaskWord i [.mdst md, .vsrc va, .vsrc vb] c s md (vIsQueue va || vIsQueue vb) masked ((vrange (s.core c).vec.vcfg (vIsQueue va || vIsQueue vb)).rows (cfgVL (s.core c).vec.vcfg)) fun e =>
      f (vVal (s.task (.execute c)) (s.core c).vec va e) (vVal (s.task (.execute c)) (s.core c).vec vb e) := by
  have hready : Ready (vecInfo g [.mdst md, .vsrc va, .vsrc vb] masked) (.execute c) s := h.masked masked
  have hpop : Popped [.mdst md, .vsrc va, .vsrc vb] (s.task (.execute c)).q (popSources va (some vb) (s.task (.execute c)).q) :=
    popped_popSources (fun n => by simp [eq_comm]) (fun n => by simp) (fun n ha hb => h.sources_ne rfl ha (Option.some.inj hb)) _
  have hok : (md.val % cfgG (s.core c).vec.vcfg == 0 && groupOk (cfgG (s.core c).vec.vcfg) va && groupOk (cfgG (s.core c).vec.vcfg) vb) = true := by
    rw [Bool.and_eq_true, Bool.and_eq_true, groupOk_iff, groupOk_iff, beq_iff_eq, and_assoc]
    exact ⟨hmd, grouped_cons.1 hg⟩
  obtain ⟨body, hissue, hbody⟩ := rowCmp_issues g lc md va vb masked f
  generalize vecInfo g [.mdst md, .vsrc va, .vsrc vb] masked = w at hready hissue
  have hvec : (atIssue (.execute c) w s).vecOf (.execute c) = (s.core c).vec := atIssue_vec ..
  have hstart := HasRead.start w c s
  have ha := hstart.vsource va (vrange (s.core c).vec.vcfg (vIsQueue va || vIsQueue vb)).base (atIssue (.execute c) w s).freeCtr
  have hb := ha.optSource (vb := some vb) (vrange (s.core c).vec.vcfg (vIsQueue va || vIsQueue vb)).base ((atIssue (.execute c) w s).freeCtr + 1)
  have hdone := hbody (ctxOf (.execute c) w s) (atIssue (.execute c) w s)
  simp only [ctxOf_a, hvec] at hdone
  refine HasRead.maskWord (fr := (atIssue (.execute c) w s).freeCtr + 2) (hb.flags _) hready hl (hi.trans (hissue s)) hpop (popSources_vqs ..)
    (flagged_foldl (fun e => mem_actives) _ _) (hdone hok _ _ (hb.landed hl) (fun e at_ hat => ?srcA) (fun e at_ hat => ?srcB))
  case srcA => exact hstart.vsource_get (hb.landed hl) hat (fun hq => vrange_base_of_queue (by simp [hq])) e
  case srcB =>
    refine (ha.vsource_get (hb.landed hl) hat (fun hq => vrange_base_of_queue (by simp [hq])) e).trans ?_
    exact vVal_popVec (fun n hx => h.sources_ne rfl hx) e

end

end Sys2Proof.Machine
end

section
namespace Sys2Proof.Machine

open Sys2Proof

/-! The relations of the compares (07 R176), and the mask words (07 R179). -/

theorem snanFlag_pair (x y : FVal) : snanFlag [x, y] = if x.isSNaN || y.isSNaN then 16#6 else 0#6 := by
  simp [snanFlag, flagIf, flagNV]

theorem fcmp_eq (x y : W32) : fcmp .eq x y = (!(fp32 x).isNaN && !(fp32 y).isNaN && !fltVal (fp32 x) (fp32 y) && !fltVal (fp32 y) (fp32 x),
    if (fp32 x).isSNaN || (fp32 y).isSNaN then 16#6 else 0#6) := by
  simp only [fcmp, feqVal, snanFlag_pair, Bool.not_or, Bool.and_assoc]

theorem fcmp_lt (x y : W32) : fcmp .lt x y = (!(fp32 x).isNaN && !(fp32 y).isNaN && fltVal (fp32 x) (fp32 y),
    if (fp32 x).isNaN || (fp32 y).isNaN then 16#6 else 0#6) := by
  simp only [fcmp, flagIf, flagNV, Bool.not_or]

theorem fcmp_le (x y : W32) : fcmp .le x y = (!(fp32 x).isNaN && !(fp32 y).isNaN && !fltVal (fp32 y) (fp32 x),
    if (fp32 x).isNaN || (fp32 y).isNaN then 16#6 else 0#6) := by
  simp only [fcmp, flagIf, flagNV, Bool.not_or]

theorem fcmp_un (x y : W32) : fcmp .un x y = ((fp32 x).isNaN || (fp32 y).isNaN, if (fp32 x).isSNaN || (fp32 y).isSNaN then 16#6 else 0#6) := by
  simp only [fcmp, snanFlag_pair]

/-- Bit `e` of source `i` of a mask word; 0 of a source that it does not have. -/
def maskSrc (v : VecState) (srcs : List MReg) (i e : Nat) : Bool :=
  match srcs[i]? with
  | some m => mBit v m.val e
  | none => false

theorem actives_unmasked (v : VecState) (r : VRange) : actives v r false = r.below (cfgVL v.vcfg) := List.filter_eq_self.2 fun _ _ => rfl
theorem inactives_unmasked (v : VecState) (r : VRange) : inactives v r false = [] := List.filter_eq_nil_iff.2 fun _ _ => Bool.false_ne_true

/-- A mask word on bits that have all landed. -/
theorem maskWord_issues (g : Guard) (lc : BitVec 3) (md : MReg) (srcs : List MReg) (f : Bool → Bool → Bool) :
    ∃ body, (∀ s, maskWord g lc md srcs f s = issue (exe g (.mdst md :: srcs.map .msrc)) s body) ∧
    ∀ k s, (∀ m ∈ md :: srcs, m.val % 2 ^ cfgLG (s.vecOf k.a).vcfg = 0) → Landed (s.task k.a) →
      let v := s.vecOf k.a
      let r := vrange v.vcfg false
      body k s = .ok (vecDone k false 1 (maskResult k md v.vcfg r .crossRow 1 (lcBound lc) (s.freeCtr + 2)
        ((actives v r false).map fun e => (e, f (maskSrc v srcs 0 e) (maskSrc v srcs 1 e))) (inactives v r false) s)) := by
  refine ⟨_, fun s => rfl, ?_⟩
  intro k s hg ht v r
  have hok : ((md :: srcs).all fun m => m.val % cfgG v.vcfg == 0) = true := List.all_eq_true.2 fun m hm => beq_iff_eq.2 (hg m hm)
  let rd (i e : Nat) : Bool := match srcs[i]? with | some m => mread (s.task k.a) v m.val e (s.task k.a).x.clk (s.freeCtr + i) | none => false
  have hrd : ∀ i e, rd i e = maskSrc v srcs i e := by
    intro i e
    simp only [rd, maskSrc]
    cases srcs[i]? with
    | none => rfl
    | some m => exact mread_of_landed ht (Nat.le_refl _) ..
  calc
    _ = Except.ok (vecDone k false 1 (maskResult k md v.vcfg r .crossRow 1 (lcBound lc) (s.freeCtr + 2)
          ((r.below (cfgVL v.vcfg)).map fun e => (e, f (rd 0 e) (rd 1 e))) [] s)) := (if_neg (by simp only [v] at hok; simp [hok])).trans rfl
    _ = _ := by simp only [hrd, actives_unmasked, inactives_unmasked]

section
variable {c : Nat} {s : State} {g : Guard} {lc : BitVec 3} {md : MReg} {i im : Instr}

/-- A compare and its masked form. -/
theorem maskWords_of_rowCmp {va vb : VReg} {f : W32 → W32 → Bool × Flags} {h : Nat → Bool × Flags} (hr : Ready (exe g [.mdst md, .vsrc va, .vsrc vb]) (.execute c) s)
    (hl : Landed (s.task (.execute c))) (hg : Grouped (s.core c).vec.vcfg [va, vb]) (hmd : md.val % 2 ^ cfgLG (s.core c).vec.vcfg = 0)
    (hi : exec i s = rowCmp g lc md va vb false f s) (him : exec im s = rowCmp g lc md va vb true f s)
    (hf : ∀ e, h e = f (vVal (s.task (.execute c)) (s.core c).vec va e) (vVal (s.task (.execute c)) (s.core c).vec vb e)) :
    MaskWord i [.mdst md, .vsrc va, .vsrc vb] c s md (vIsQueue va || vIsQueue vb) false ((vrange (s.core c).vec.vcfg (vIsQueue va || vIsQueue vb)).rows (cfgVL (s.core c).vec.vcfg)) h ∧
    MaskWord im [.mdst md, .vsrc va, .vsrc vb] c s md (vIsQueue va || vIsQueue vb) true ((vrange (s.core c).vec.vcfg (vIsQueue va || vIsQueue vb)).rows (cfgVL (s.core c).vec.vcfg)) h := by
  rw [funext hf]
  exact ⟨maskWord_of_rowCmp hr hl hg hmd hi, maskWord_of_rowCmp hr hl hg hmd him⟩

/-- A mask word gives every bit below VL its function of the bits of its sources. -/
theorem maskWord_of_maskWord {srcs : List MReg} {f : Bool → Bool → Bool} {b : Nat → Bool} (hr : Ready (exe g (.mdst md :: srcs.map .msrc)) (.execute c) s)
    (hl : Landed (s.task (.execute c))) (hg : ∀ m ∈ md :: srcs, m.val % 2 ^ cfgLG (s.core c).vec.vcfg = 0) (hi : exec i s = maskWord g lc md srcs f s)
    (hb : ∀ e, b e = f (maskSrc (s.core c).vec srcs 0 e) (maskSrc (s.core c).vec srcs 1 e)) :
    MaskWord i (.mdst md :: srcs.map .msrc) c s md false false 1 fun e => (b e, 0#6) := by
  obtain ⟨body, hissue, hbody⟩ := maskWord_issues g lc md srcs f
  have hpop : Popped (.mdst md :: srcs.map .msrc) (s.task (.execute c)).q (s.task (.execute c)).q := popped_of rfl rfl (fun n => by simp) (fun n => by simp)
  have hstart := HasRead.start (exe g (.mdst md :: srcs.map .msrc)) c s
  have hvec : (atIssue (.execute c) (exe g (.mdst md :: srcs.map .msrc)) s).vecOf (.execute c) = (s.core c).vec := atIssue_vec ..
  have hdone := hbody (ctxOf (.execute c) (exe g (.mdst md :: srcs.map .msrc)) s) (atIssue (.execute c) (exe g (.mdst md :: srcs.map .msrc)) s)
  simp only [ctxOf_a, hvec] at hdone
  rw [funext hb]
  exact hstart.maskWord (f := fun e => (f (maskSrc (s.core c).vec srcs 0 e) (maskSrc (s.core c).vec srcs 1 e), 0#6)) hr hl (hi.trans (hissue s)) hpop rfl (flagged_self fun _ _ => rfl)
    (hdone hg (hstart.landed hl))

end

/-- Settles O40: compares are one row-wise operation with a mask result, and mask words one operation on bits. -/
theorem vectorCompareWords : Obligations.VectorCompareWords := by
  unfold Obligations.VectorCompareWords
  intro c s g lc a u v hl
  refine ⟨?compares, ?masks⟩
  case compares =>
    intro md va vb rs q C A B nan sig Holds h hg hmd
    have hword {i im : Instr} (f : W32 → W32 → Bool × Flags) {p nv : W32 → W32 → Bool} (hi : exec i s = rowCmp g lc md va vb false f s)
        (him : exec im s = rowCmp g lc md va vb true f s) (hf : ∀ x y, f x y = (p x y, if nv x y then 16#6 else 0#6)) : Holds i im p nv :=
      maskWords_of_rowCmp h hl hg hmd hi him fun e => (hf (A e) (B e)).symm
    clear_value Holds
    have hint {i im : Instr} (p : W32 → W32 → Bool) (hi : exec i s = rowCmp g lc md va vb false (fun x y => (p x y, 0#6)) s)
        (him : exec im s = rowCmp g lc md va vb true (fun x y => (p x y, 0#6)) s) : Holds i im p fun _ _ => false := hword _ hi him fun _ _ => rfl
    exact ⟨hint (fun x y => x == y) rfl rfl, hword (fun x y => (decide (x ≠ y), 0#6)) rfl rfl fun x y => by simp only [bne, beq_eq_decide, decide_not]; rfl,
      hint (fun x y => decide (x.toInt < y.toInt)) rfl rfl, hint (fun x y => decide (x.toNat < y.toNat)) rfl rfl,
      hword (fcmp .eq) rfl rfl fcmp_eq, hword (fcmp .lt) rfl rfl fcmp_lt, hword (fcmp .le) rfl rfl fcmp_le, hword (fcmp .un) rfl rfl fcmp_un⟩
  case masks =>
    intro md ma mb G A B Bits hmd hma hmb
    refine ⟨fun h => ?two, fun h => ?one, fun h => ?none⟩
    case two =>
      have hword {i : Instr} (f : Bool → Bool → Bool) (hi : exec i s = maskWord g lc md [ma, mb] f s) : Bits i [.mdst md, .msrc ma, .msrc mb] fun e => f (A e) (B e) :=
        maskWord_of_maskWord (srcs := [ma, mb]) h hl (by simp [G] at *; exact ⟨hmd, hma, hmb⟩) hi fun _ => rfl
      exact ⟨hword (fun x y => x && y) rfl, hword (fun x y => x || y) rfl, hword (fun x y => x != y) rfl, hword (fun x y => x && !y) rfl⟩
    case one =>
      have hword {i : Instr} (f : Bool → Bool) (hi : exec i s = maskWord g lc md [ma] (fun x _ => f x) s) : Bits i [.mdst md, .msrc ma] fun e => f (A e) :=
        maskWord_of_maskWord (srcs := [ma]) h hl (by simp [G] at *; exact ⟨hmd, hma⟩) hi fun _ => rfl
      exact ⟨hword (fun x => !x) rfl, hword (fun x => x) rfl⟩
    case none =>
      have hword {i : Instr} (b : Bool) (hi : exec i s = maskWord g lc md [] (fun _ _ => b) s) : Bits i [.mdst md] fun _ => b :=
        maskWord_of_maskWord (srcs := []) h hl (by simpa using hmd) hi fun _ => rfl
      exact ⟨hword true rfl, hword false rfl⟩

end Sys2Proof.Machine
end

section
namespace Sys2Proof.Machine

open Sys2Proof

/-! Fields of VCFG (07 R163). -/

theorem testBit_bitsOf (x hi lo i : Nat) : (bitsOf x hi lo).testBit i = (decide (i < hi + 1 - lo) && x.testBit (lo + i)) := by
  rw [bitsOf, Nat.testBit_mod_two_pow, Nat.testBit_div_two_pow, Nat.add_comm i lo]

/-- Bits of a word with a field replaced. -/
theorem getLsbD_cfgSet (c : W64) {hi lo : Nat} (v : Nat) (hlo : lo ≤ hi + 1) (hhi : hi < 64) (j : Nat) :
    (cfgSet c hi lo v).getLsbD j = if lo ≤ j ∧ j ≤ hi then v.testBit (j - lo) else c.getLsbD j := by
  obtain ⟨w, hw⟩ : ∃ w, hi + 1 = lo + w := ⟨hi + 1 - lo, by omega⟩
  have hwidth : hi + 1 - lo = w := by omega
  have hhigh : c.toNat / 2 ^ lo = 2 ^ w * (c.toNat / 2 ^ (lo + w)) + c.toNat / 2 ^ lo % 2 ^ w := by
    rw [pow_add, ← Nat.div_div_eq_div_mul, Nat.div_add_mod]
  have hsplit : c.toNat - bitsOf c.toNat hi lo * 2 ^ lo + v % 2 ^ w * 2 ^ lo = 2 ^ lo * (2 ^ w * (c.toNat / 2 ^ (lo + w)) + v % 2 ^ w) + c.toNat % 2 ^ lo := by
    have hlow := Nat.div_add_mod c.toNat (2 ^ lo)
    rw [hhigh, Nat.mul_add] at hlow
    rw [bitsOf, hwidth, Nat.mul_add, Nat.mul_comm (_ % _) (2 ^ lo), Nat.mul_comm (_ % _) (2 ^ lo)]
    omega
  rw [cfgSet, hwidth, hsplit, BitVec.getLsbD_ofNat, Nat.testBit_two_pow_mul_add _ (Nat.mod_lt _ (Nat.two_pow_pos lo)),
    Nat.testBit_two_pow_mul_add _ (Nat.mod_lt _ (Nat.two_pow_pos w)), Nat.testBit_mod_two_pow, Nat.testBit_mod_two_pow, Nat.testBit_div_two_pow]
  simp only [BitVec.testBit_toNat]
  by_cases hj : j < lo
  · have hj64 : j < 64 := by omega
    rw [if_pos hj, if_neg (by omega), decide_eq_true hj64, decide_eq_true hj, Bool.true_and, Bool.true_and]
  · by_cases hin : j - lo < w
    · have hj64 : j < 64 := by omega
      rw [if_neg hj, if_pos hin, if_pos (by omega), decide_eq_true hj64, decide_eq_true hin, Bool.true_and, Bool.true_and]
    · have hplace : j - lo - w + (lo + w) = j := by omega
      rw [if_neg hj, if_neg hin, if_neg (by omega), hplace]
      by_cases hj64 : j < 64
      · rw [decide_eq_true hj64, Bool.true_and]
      · rw [decide_eq_false hj64, Bool.false_and, BitVec.getLsbD_of_ge _ _ (by omega)]

theorem bitsOf_cfgSet_self (c : W64) {hi lo : Nat} (v : Nat) (hlo : lo ≤ hi + 1) (hhi : hi < 64) : bitsOf (cfgSet c hi lo v).toNat hi lo = v % 2 ^ (hi + 1 - lo) := by
  apply Nat.eq_of_testBit_eq
  intro i
  rw [testBit_bitsOf, BitVec.testBit_toNat, getLsbD_cfgSet c v hlo hhi, Nat.testBit_mod_two_pow]
  by_cases hi : i < hi + 1 - lo
  · rw [if_pos (by omega), Nat.add_sub_cancel_left]
  · simp [hi]

theorem bitsOf_cfgSet_of_disjoint (c : W64) {hi lo hi' lo' : Nat} (v : Nat) (hlo : lo ≤ hi + 1) (hhi : hi < 64) (h : hi' < lo ∨ hi < lo') :
    bitsOf (cfgSet c hi lo v).toNat hi' lo' = bitsOf c.toNat hi' lo' := by
  apply Nat.eq_of_testBit_eq
  intro i
  rw [testBit_bitsOf, testBit_bitsOf, BitVec.testBit_toNat, BitVec.testBit_toNat, getLsbD_cfgSet c v hlo hhi]
  by_cases hi : i < hi' + 1 - lo'
  · rw [if_neg (by omega)]
  · simp [hi]

/-! Tile registers (07 R186). -/

theorem tget_tputAll {α : Type} (d : α) (ws : List (Nat × α)) (t : Table α) (k : Nat) : tget d (tputAll t ws) k = lastOf ws k (tget d t k) := by
  induction ws generalizing t with
  | nil => rfl
  | cons w ws ih =>
    refine (ih _).trans ?_
    rw [tget_tput]
    simp only [lastOf, List.foldl_cons, eq_comm (a := k)]

theorem mem_quarter {i k : Nat} : (i, k) ∈ quarter ↔ i < 16 ∧ k < 64 := by simp [quarter]

/-- Writes of a quarter from place `b` on: element `e` of it goes to place `b + e`. -/
theorem lastOf_quarter {α : Type} (b : Nat) (f : Nat → α) (j : Nat) (old : α) :
    lastOf (quarter.map fun ic => (b + (64 * ic.1 + ic.2), f (64 * ic.1 + ic.2))) j old = if b ≤ j ∧ j < b + 1024 then f (j - b) else old := by
  have hplaces : (quarter.map fun ic => (b + (64 * ic.1 + ic.2), f (64 * ic.1 + ic.2))) = (quarter.map fun ic => b + (64 * ic.1 + ic.2)).map fun e => (e, f (e - b)) := by
    simp [Function.comp_def]
  have hmem : j ∈ quarter.map (fun ic => b + (64 * ic.1 + ic.2)) ↔ b ≤ j ∧ j < b + 1024 := by
    simp only [List.mem_map, Prod.exists, mem_quarter]
    exact ⟨fun ⟨i, k, hik, he⟩ => by omega, fun hj => ⟨(j - b) / 64, (j - b) % 64, by omega, by omega⟩⟩
  rw [hplaces, lastOf_map, if_congr hmem rfl rfl]

section
variable {c : Nat} {s : State} {g : Guard} {lc : BitVec 3}

/-- A word that has no sources but registers leaves the queues alone. -/
theorem popped_self {rs : List Role} (hvq : ∀ n : Fin 4, Role.vsrc (.vq n) ∉ rs) (hsq : ∀ n : Fin 4, Role.src (.sq n) ∉ rs) (q : Queues) : Popped rs q q :=
  popped_of rfl rfl (fun n => by rw [if_neg (hvq n)]) (fun n => by rw [if_neg (hsq n)])

/-- TWR on elements that have landed. -/
theorem execTwr_issues (g : Guard) (lc : BitVec 3) (tl : Tile) (vr : VReg) : ∃ body, (∀ s, execTwr g lc tl vr s = issue { exe g [.tdst tl, .vsrc vr] with shape := vr.isV } s body) ∧
    ∀ k s, Landed (s.task k.a) →
      let v := s.vecOf k.a
      let q := cfgTWC v.vcfg tl.val
      body k s = .ok (vecDone k false 16 ((s.modVec k.a fun w =>
        { w with
          t := tmod [] w.t tl.val fun tb => tputAll tb (quarter.map fun ic => (1024 * q + (64 * ic.1 + ic.2), vElem v (vIndex vr) (64 * ic.1 + ic.2)))
          vcfg := cfgSet w.vcfg (41 + 4 * tl.val) (40 + 4 * tl.val) (q + 1) }).modTask k.a fun t =>
            (List.range 16).foldl (fun t i => bound t (keyT tl.val (16 * q + i)) ((s.task k.a).x.clk + i + lcBound lc)) t)) := by
  refine ⟨_, fun s => rfl, ?_⟩
  intro k s ht v q
  let ws := quarter.map fun ic => (64 * (16 * q + ic.1) + ic.2, vread (s.task k.a) v (vIndex vr) (64 * ic.1 + ic.2) ((s.task k.a).x.clk + ic.1) s.freeCtr)
  have hws : ws = quarter.map fun ic => (1024 * q + (64 * ic.1 + ic.2), vElem v (vIndex vr) (64 * ic.1 + ic.2)) := by
    refine List.map_congr_left fun ic _ => Prod.ext ?_ (vread_of_landed ht (Nat.le_add_right ..) ..)
    show 64 * (16 * q + ic.1) + ic.2 = 1024 * q + (64 * ic.1 + ic.2)
    omega
  rw [← hws]

/-- TRD on a tile that has landed. -/
theorem execTrd_issues (g : Guard) (lc : BitVec 3) (vr : VReg) (tl : Tile) : ∃ body, (∀ s, execTrd g lc vr tl s = issue { exe g [.vdst vr, .tsrc tl] with shape := vr.isV } s body) ∧
    ∀ k s, Landed (s.task k.a) →
      let v := s.vecOf k.a
      let q := cfgTRC v.vcfg tl.val
      body k s = .ok (vecDone k false 16 ((groupResult k (vIndex vr) { base := 0, count := 1024 } .crossRow 16 (lcBound lc) (s.freeCtr + 2)
        (quarter.map fun ic => (0 + (64 * ic.1 + ic.2), tget 0#32 (tget [] v.t tl.val) (64 * ((64 * ic.1 + ic.2) % 64) + (16 * q + (64 * ic.1 + ic.2) / 64)))) []
        (s.modVec k.a fun w => { w with vcfg := cfgSet w.vcfg (43 + 4 * tl.val) (42 + 4 * tl.val) (q + 1) })).modTask k.a fun t =>
          bound t (keyTrd tl.val) ((s.task k.a).x.clk + 15 + lcBound lc))) := by
  refine ⟨_, fun s => rfl, ?_⟩
  intro k s ht v q
  let ws := quarter.map fun ic => (64 * ic.1 + ic.2, tread (s.task k.a) v tl.val ic.2 (16 * q + ic.1) (s.task k.a).x.clk s.freeCtr)
  have hws : ws = quarter.map fun ic => (0 + (64 * ic.1 + ic.2), tget 0#32 (tget [] v.t tl.val) (64 * ((64 * ic.1 + ic.2) % 64) + (16 * q + (64 * ic.1 + ic.2) / 64))) := by
    refine List.map_congr_left fun ic hic => ?_
    obtain ⟨i, col⟩ := ic
    obtain ⟨hi, hcol⟩ := mem_quarter.1 hic
    have hrow : (64 * i + col) / 64 = i := by omega
    have hplace : (64 * i + col) % 64 = col := by omega
    rw [tread_of_landed ht (Nat.le_refl _)]
    simp only [hrow, hplace, Nat.zero_add]
  rw [← hws]

/-- A quarter of rows of a tile is written from a register. -/
theorem runs_twr {tl : Tile} {vr : VReg} (h : Ready { exe g [.tdst tl, .vsrc vr] with shape := vr.isV } (.execute c) s) (hl : Landed (s.task (.execute c))) :
    let v := (s.core c).vec
    let q := cfgTWC v.vcfg tl.val
    ∃ t, exec (.twr g lc tl vr) s = .next t ∧ VecFrame [.tdst tl, .vsrc vr] c s t 16 ∧ (t.task (.execute c)).regs = (s.task (.execute c)).regs ∧
      (t.task (.execute c)).q.vqs = (s.task (.execute c)).q.vqs ∧
      (t.core c).vec = { v with
        t := tmod [] v.t tl.val fun tb => tputAll tb (quarter.map fun ic => (1024 * q + (64 * ic.1 + ic.2), vElem v (vIndex vr) (64 * ic.1 + ic.2)))
        vcfg := cfgSet v.vcfg (41 + 4 * tl.val) (40 + 4 * tl.val) (q + 1) } := by
  intro v q
  obtain ⟨body, hissue, hbody⟩ := execTwr_issues g lc tl vr
  have hvr : vr.isV = true := h.shape
  have hpop : Popped [.tdst tl, .vsrc vr] (s.task (.execute c)).q (s.task (.execute c)).q :=
    popped_self (fun n hn => by cases vr <;> simp_all [VReg.isV]) (fun n hn => by simp at hn) _
  generalize { exe g [.tdst tl, .vsrc vr] with shape := vr.isV } = w at h hissue
  have hstart := HasRead.start w c s
  have hvec : (atIssue (.execute c) w s).vecOf (.execute c) = v := atIssue_vec ..
  have hdone := hbody (ctxOf (.execute c) w s) (atIssue (.execute c) w s) (hstart.landed hl)
  simp only [ctxOf_a, hvec] at hdone
  obtain ⟨t, ht, hframe, htv, hregs, htq, -⟩ := hstart.answer (rs := [.tdst tl, .vsrc vr]) h hdone ((inCore_modVec ..).trans (inCore_modTask ..))
    (by simp) (by simp) (by simp) (by simpa [hstart.queues] using hpop)
  refine ⟨t, (hissue s).trans ht, hframe, by simp [hregs, hstart.regs], by simp [htq, hstart.queues], ?_⟩
  simp [htv, hstart.vec, v, q]

end

end Sys2Proof.Machine
end

section
namespace Sys2Proof.Machine

open Sys2Proof

section
variable (t : Task) (key by_ : Nat)

@[simp] theorem bound_a : (bound t key by_).a = t.a := rfl
@[simp] theorem bound_preds : (bound t key by_).preds = t.preds := rfl
@[simp] theorem bound_regs : (bound t key by_).regs = t.regs := rfl
@[simp] theorem bound_q : (bound t key by_).q = t.q := rfl
@[simp] theorem bound_clk : (bound t key by_).x.clk = t.x.clk := rfl

end

section
variable {c : Nat} {s : State} {g : Guard} {lc : BitVec 3}

/-- A quarter of columns of a tile is read into a register. -/
theorem runs_trd {tl : Tile} {vr : VReg} (h : Ready { exe g [.vdst vr, .tsrc tl] with shape := vr.isV } (.execute c) s) (hl : Landed (s.task (.execute c))) :
    let v := (s.core c).vec
    let q := cfgTRC v.vcfg tl.val
    ∃ t, exec (.trd g lc vr tl) s = .next t ∧ VecFrame [.vdst vr, .tsrc tl] c s t 16 ∧ (t.task (.execute c)).regs = (s.task (.execute c)).regs ∧
      (t.task (.execute c)).q.vqs = (s.task (.execute c)).q.vqs ∧
      (t.core c).vec = vwrite { v with vcfg := cfgSet v.vcfg (43 + 4 * tl.val) (42 + 4 * tl.val) (q + 1) } (vIndex vr)
        (quarter.map fun ic => (0 + (64 * ic.1 + ic.2), tget 0#32 (tget [] v.t tl.val) (64 * ((64 * ic.1 + ic.2) % 64) + (16 * q + (64 * ic.1 + ic.2) / 64)))) := by
  intro v q
  obtain ⟨body, hissue, hbody⟩ := execTrd_issues g lc vr tl
  have hpop : Popped [.vdst vr, .tsrc tl] (s.task (.execute c)).q (s.task (.execute c)).q := popped_self (fun n hn => by simp at hn) (fun n hn => by simp at hn) _
  generalize { exe g [.vdst vr, .tsrc tl] with shape := vr.isV } = w at h hissue
  have hstart := HasRead.start w c s
  have hvec : (atIssue (.execute c) w s).vecOf (.execute c) = v := atIssue_vec ..
  have hdone := hbody (ctxOf (.execute c) w s) (atIssue (.execute c) w s) (hstart.landed hl)
  simp only [ctxOf_a, hvec] at hdone
  have htask := fun ws => groupResult_task (k := ctxOf (.execute c) w s) rfl
    ((atIssue (.execute c) w s).modVec (.execute c) fun x => { x with vcfg := cfgSet x.vcfg (43 + 4 * tl.val) (42 + 4 * tl.val) (q + 1) })
    (vIndex vr) { base := 0, count := 1024 } .crossRow 16 (lcBound lc) ((atIssue (.execute c) w s).freeCtr + 2) ws []
  obtain ⟨t, ht, hframe, htv, hregs, htq, -⟩ := hstart.answer (rs := [.vdst vr, .tsrc tl]) h hdone ((inCore_modVec ..).trans ((groupResult_inCore rfl ..).trans (inCore_modTask ..)))
    (by simp [htask, q]) (by simp [htask, q]) (by simp [htask, q]) (by simpa [htask, q, hstart.queues] using hpop)
  refine ⟨t, (hissue s).trans ht, hframe, by simp [hregs, htask, q, hstart.regs], by simp [htq, htask, q, hstart.queues], ?_⟩
  rw [htv, State.vec_modTask, groupResult_vec rfl _ _ _ _ _ _ _ _ _ (by simpa using hstart.landed hl), State.vec_modVec_execute, hstart.vec]
  generalize List.map _ quarter = ws
  rfl

end

/-! Partial-sum latches (07 R189). -/

/-- The elements `X e` of a column added to its latch, in the order of the list, with the flags raised. -/
def latchSum (m : RMode) (X : Nat → W32) (es : List Nat) (p : W32 × Flags) : W32 × Flags :=
  es.foldl (fun p e => ((fadd p.1 (X e) m).1, p.2 ||| (fadd p.1 (X e) m).2)) p

theorem latchSum_cons (m : RMode) (X : Nat → W32) (e : Nat) (es : List Nat) (x : W32) (fl : Flags) :
    latchSum m X (e :: es) (x, fl) = latchSum m X es ((fadd x (X e) m).1, fl ||| (fadd x (X e) m).2) := rfl

/-- The sum does not depend on the flags so far, which stay. -/
theorem latchSum_flags (m : RMode) (X : Nat → W32) (es : List Nat) (x : W32) (fl : Flags) :
    latchSum m X es (x, fl) = ((latchSum m X es (x, 0#6)).1, fl ||| (latchSum m X es (x, 0#6)).2) := by
  induction es generalizing x fl with
  | nil => simp [latchSum]
  | cons e es ih => rw [latchSum_cons, latchSum_cons, ih, ih (fadd x (X e) m).1 (0#6 ||| _), BitVec.zero_or, BitVec.or_assoc]

theorem foldl_latchAdd_cons (m : RMode) (X : Nat → W32) (e : Nat) (es : List Nat) (tb : Table W32) (fl : Flags) :
    ((e :: es).map fun e => (e % 64, X e)).foldl (latchAdd m) (tb, fl) = (es.map fun e => (e % 64, X e)).foldl (latchAdd m)
      (tput tb (e % 64) (fadd (tget 0#32 tb (e % 64)) (X e) m).1, fl ||| (fadd (tget 0#32 tb (e % 64)) (X e) m).2) := rfl

/-- Elements added to a latch one after another: each column receives its own, in their order. -/
theorem tget_foldl_latchAdd (m : RMode) (X : Nat → W32) (es : List Nat) (tb : Table W32) (fl : Flags) (k : Nat) :
    tget 0#32 ((es.map fun e => (e % 64, X e)).foldl (latchAdd m) (tb, fl)).1 k = (latchSum m X (es.filter fun e => e % 64 == k) (tget 0#32 tb k, 0#6)).1 := by
  induction es generalizing tb fl with
  | nil => rfl
  | cons e es ih =>
    rw [foldl_latchAdd_cons, ih]
    simp only [tget_tput, List.filter_cons, beq_iff_eq]
    by_cases hk : e % 64 = k
    · rw [if_pos hk.symm, if_pos hk, latchSum_cons, latchSum_flags m X _ _ (0#6 ||| _), hk]
    · rw [if_neg (Ne.symm hk), if_neg hk]

/-- The flags of those additions. -/
theorem flags_foldl_latchAdd (m : RMode) (X : Nat → W32) (es : List Nat) (tb : Table W32) (fl : Flags) (j : Nat) :
    ((es.map fun e => (e % 64, X e)).foldl (latchAdd m) (tb, fl)).2.getLsbD j = true ↔
      fl.getLsbD j = true ∨ ∃ k, k < 64 ∧ (latchSum m X (es.filter fun e => e % 64 == k) (tget 0#32 tb k, 0#6)).2.getLsbD j = true := by
  induction es generalizing tb fl with
  | nil => simp [latchSum]
  | cons e es ih =>
    have hcol : ∀ k, (latchSum m X ((e :: es).filter fun e => e % 64 == k) (tget 0#32 tb k, 0#6)).2.getLsbD j = true ↔
        (k = e % 64 ∧ (fadd (tget 0#32 tb (e % 64)) (X e) m).2.getLsbD j = true) ∨
          (latchSum m X (es.filter fun e => e % 64 == k) (tget 0#32 (tput tb (e % 64) (fadd (tget 0#32 tb (e % 64)) (X e) m).1) k, 0#6)).2.getLsbD j = true := by
      intro k
      simp only [tget_tput, List.filter_cons, beq_iff_eq]
      by_cases hk : e % 64 = k
      · subst hk
        simp [latchSum_cons, latchSum_flags m X _ _ (fadd _ _ _).2]
      · simp [hk, Ne.symm hk]
    have hlt : e % 64 < 64 := Nat.mod_lt _ (by decide)
    rw [foldl_latchAdd_cons, ih]
    simp only [hcol, BitVec.getLsbD_or, Bool.or_eq_true]
    grind

end Sys2Proof.Machine
end

section
namespace Sys2Proof.Machine

open Sys2Proof

/-- The elements of a range below VL, as a choice among all of its elements. -/
theorem VRange.below_eq_filter (r : VRange) (vl : Nat) : r.below vl = ((List.range r.count).map (r.base + ·)).filter fun e => decide (e < vl) := by
  have hrange : ∀ m n : Nat, (List.range m).filter (fun i => decide (i < n)) = List.range (min n m) := by
    intro m n
    induction m with
    | zero => simp
    | succ m ih =>
      rw [List.range_succ, List.filter_append, ih]
      by_cases hm : m < n
      · simp [hm, min_eq_right (Nat.le_of_lt hm), List.range_succ]
      · simp [hm, min_eq_left (Nat.le_of_not_lt hm), min_eq_left (Nat.le_succ_of_le (Nat.le_of_not_lt hm))]
  have hcut : min vl (r.base + r.count) - r.base = min (vl - r.base) r.count := by omega
  rw [VRange.below, hcut, ← hrange, List.filter_map]
  refine congrArg (List.map _) (List.filter_congr fun i _ => ?_)
  simp only [Function.comp_apply, decide_eq_decide]
  omega

section
variable {c : Nat} {s : State} {g : Guard} {lc : BitVec 3}

/-- PSADD on elements that have all landed. -/
theorem execPsadd_issues (g : Guard) (lc : BitVec 3) (ps : Latch) (vr : VReg) : ∃ body, (∀ s, execPsadd g lc ps vr s = issue (exe g [.ldst ps, .vsrc vr]) s body) ∧
    ∀ k s, groupOk (cfgG (s.vecOf k.a).vcfg) vr = true →
      let v := s.vecOf k.a
      let r := vrange v.vcfg (vIsQueue vr)
      let C := r.rows (cfgVL v.vcfg)
      let a := vsource k vr r.base s.freeCtr s
      let t := a.2.task k.a
      ∀ X : Nat → W32, (∀ e at_, t.x.clk ≤ at_ → a.1.get t v e at_ = X e) →
        let sums := ((r.below (cfgVL v.vcfg)).map fun e => (e % 64, X e)).foldl (latchAdd (fsrMode v.fsr)) (tget [] v.ps ps.val, 0#6)
        body k s = .ok (vecDone k (vIsQueue vr) C ((orFlags k sums.2 (a.2.modVec k.a fun w => { w with ps := tput w.ps ps.val sums.1 })).modTask k.a fun u =>
          bound u (keyL ps.val) (t.x.clk + Nat.max 1 C - 1 + lcBound lc))) := by
  refine ⟨_, fun s => rfl, ?_⟩
  intro k s hg v r C a t X hX sums
  let xs := (r.below (cfgVL v.vcfg)).map fun e => (e % 64, elemAt t v a.1 r .rowWise t.x.clk C e)
  have hxs : xs = (r.below (cfgVL v.vcfg)).map fun e => (e % 64, X e) := List.map_congr_left fun e _ => congrArg _ (hX e _ (le_readClock ..))
  refine (if_neg (by simp [hg])).trans ?_
  simp only [sums, ← hxs]
  rfl

/-- The latch of PSADD. -/
theorem runs_psadd {ps : Latch} {vr : VReg} (h : Ready (exe g [.ldst ps, .vsrc vr]) (.execute c) s) (hl : Landed (s.task (.execute c))) (hg : Grouped (s.core c).vec.vcfg [vr]) :
    let v := (s.core c).vec
    let r := vrange v.vcfg (vIsQueue vr)
    let sums := ((r.below (cfgVL v.vcfg)).map fun e => (e % 64, vVal (s.task (.execute c)) v vr e)).foldl (latchAdd (fsrMode v.fsr)) (tget [] v.ps ps.val, 0#6)
    ∃ t, exec (.psadd g lc ps vr) s = .next t ∧ VecFrame [.ldst ps, .vsrc vr] c s t (r.rows (cfgVL v.vcfg)) ∧
      (t.task (.execute c)).regs = (s.task (.execute c)).regs ∧ (t.task (.execute c)).q.vqs = (s.task (.execute c)).q.vqs ∧
      (t.core c).vec = { v with
        ps := tput v.ps ps.val sums.1
        fsr := fsrOr v.fsr sums.2
        vcfg := if vIsQueue vr then cfgStepRGC v.vcfg else v.vcfg } := by
  intro v r sums
  obtain ⟨body, hissue, hbody⟩ := execPsadd_issues g lc ps vr
  have hpop : Popped [.ldst ps, .vsrc vr] (s.task (.execute c)).q (popSources vr none (s.task (.execute c)).q) :=
    popped_popSources (fun n => by simp [eq_comm]) (fun n => by simp) (fun n _ hb => by cases hb) _
  generalize exe g [.ldst ps, .vsrc vr] = w at h hissue
  have hstart := HasRead.start w c s
  have hvec : (atIssue (.execute c) w s).vecOf (.execute c) = v := atIssue_vec ..
  have ha := hstart.vsource vr (vrange v.vcfg (vIsQueue vr)).base (atIssue (.execute c) w s).freeCtr
  have hdone := hbody (ctxOf (.execute c) w s) (atIssue (.execute c) w s)
  simp only [ctxOf_a, hvec] at hdone
  have hdone := hdone (groupOk_iff.2 hg) _ fun e at_ hat => hstart.vsource_get (ha.landed hl) hat (fun hq => vrange_base_of_queue hq) e
  obtain ⟨t, ht, hframe, htv, hregs, htq, -⟩ := ha.answer (rs := [.ldst ps, .vsrc vr]) h hdone
    ((inCore_modVec ..).trans ((orFlags_inCore rfl ..).trans (inCore_modTask ..)))
    (by simp [orFlags_task]) (by simp [orFlags_task]) (by simp [orFlags_task]) (by simpa [orFlags_task, ha.queues, popSources] using hpop)
  refine ⟨t, (hissue s).trans ht, hframe, by simp [hregs, orFlags_task, ha.regs], by simp [htq, orFlags_task, ha.queues], ?_⟩
  rw [htv, State.vec_modTask, orFlags_vec rfl, State.vec_modVec_execute, ha.vec]

/-- PSRD of a latch that has landed. -/
theorem execPsrd_issues (g : Guard) (lc : BitVec 3) (vr : VReg) (ps : Latch) : ∃ body, (∀ s, execPsrd g lc vr ps s = issue (exe g [.vdst vr, .lsrc ps]) s body) ∧
    ∀ k s, groupOk (cfgG (s.vecOf k.a).vcfg) vr = true → Landed (s.task k.a) →
      let row := (List.range 64).map fun col => (col, tget 0#32 (tget [] (s.vecOf k.a).ps ps.val) col)
      body k s = .ok (vecDone k false 1 (match vr with
        | .v d => groupResult k d.val { base := 0, count := 1024 } .crossRow 1 (lcBound lc) (s.freeCtr + 2) row ((List.range 960).map (64 + ·)) s
        | _ => pushVqs k row (BitVec.ofNat 256 (2 ^ 64 - 1)) s)) := by
  refine ⟨_, fun s => rfl, ?_⟩
  intro k s hg ht row
  refine (if_neg (by simp [hg])).trans ?_
  simp only [ht.early (Nat.le_refl _), Bool.false_eq_true, if_false]
  rfl

/-- A latch read into row 0 of a group. -/
theorem runs_psrd_group {d : Fin 16} {ps : Latch} (h : Ready (exe g [.vdst (.v d), .lsrc ps]) (.execute c) s) (hl : Landed (s.task (.execute c)))
    (hg : Grouped (s.core c).vec.vcfg [.v d]) :
    let v := (s.core c).vec
    ∃ t, exec (.psrd g lc (.v d) ps) s = .next t ∧ VecFrame [.vdst (.v d), .lsrc ps] c s t 1 ∧ (t.task (.execute c)).regs = (s.task (.execute c)).regs ∧
      (t.task (.execute c)).q.vqs = (s.task (.execute c)).q.vqs ∧
      (t.core c).vec = vwrite v d.val ((List.range 64).map fun col => (col, tget 0#32 (tget [] v.ps ps.val) col)) := by
  intro v
  obtain ⟨body, hissue, hbody⟩ := execPsrd_issues g lc (.v d) ps
  have hpop : Popped [.vdst (.v d), .lsrc ps] (s.task (.execute c)).q (s.task (.execute c)).q := popped_self (fun n hn => by simp at hn) (fun n hn => by simp at hn) _
  generalize exe g [.vdst (.v d), .lsrc ps] = w at h hissue
  have hstart := HasRead.start w c s
  have hvec : (atIssue (.execute c) w s).vecOf (.execute c) = v := atIssue_vec ..
  have hdone := hbody (ctxOf (.execute c) w s) (atIssue (.execute c) w s)
  simp only [ctxOf_a, hvec] at hdone
  generalize hrow : (List.range 64).map (fun col => (col, tget 0#32 (tget [] v.ps ps.val) col)) = row at hdone
  have htask := groupResult_task (k := ctxOf (.execute c) w s) rfl (atIssue (.execute c) w s) d.val { base := 0, count := 1024 } .crossRow 1 (lcBound lc)
    ((atIssue (.execute c) w s).freeCtr + 2) row ((List.range 960).map (64 + ·))
  obtain ⟨t, ht, hframe, htv, hregs, htq, -⟩ := hstart.answer (rs := [.vdst (.v d), .lsrc ps]) h (hdone (groupOk_iff.2 hg) (hstart.landed hl)) (groupResult_inCore rfl ..)
    (by rw [htask, boundRows_a]) (by rw [htask, boundRows_preds]) (by rw [htask, boundRows_clk]) (by rw [htask, boundRows_q, hstart.queues]; exact hpop)
  refine ⟨t, (hissue s).trans ht, hframe, by rw [hregs, htask, boundRows_regs, hstart.regs], by rw [htq, htask, boundRows_q, hstart.queues], ?_⟩
  rw [htv, groupResult_vec rfl _ _ _ _ _ _ _ _ _ (hstart.landed hl), hstart.vec]
  rfl

/-- A latch read into the first row of an entry of vqs. -/
theorem runs_psrd_vqs {vr : VReg} {ps : Latch} (hvr : ∀ n, vr ≠ .v n) (h : Ready (exe g [.vdst vr, .lsrc ps]) (.execute c) s) (hl : Landed (s.task (.execute c)))
    (hg : Grouped (s.core c).vec.vcfg [vr]) :
    let v := (s.core c).vec
    ∃ t, exec (.psrd g lc vr ps) s = .next t ∧ VecFrame [.vdst vr, .lsrc ps] c s t 1 ∧ (t.task (.execute c)).regs = (s.task (.execute c)).regs ∧ (t.core c).vec = v ∧
      (t.task (.execute c)).q.vqs = if (s.task (.execute c)).a.ended then (s.task (.execute c)).q.vqs else (s.task (.execute c)).q.vqs ++
        [{ data := (List.range 64).map fun col => (col, tget 0#32 (tget [] v.ps ps.val) col), mask := BitVec.ofNat 256 (2 ^ 64 - 1) }] := by
  intro v
  obtain ⟨body, hissue, hbody⟩ := execPsrd_issues g lc vr ps
  have hpop : Popped [.vdst vr, .lsrc ps] (s.task (.execute c)).q (s.task (.execute c)).q := popped_self (fun n hn => by simp at hn) (fun n hn => by simp at hn) _
  generalize exe g [.vdst vr, .lsrc ps] = w at h hissue
  have hstart := HasRead.start w c s
  have hvec : (atIssue (.execute c) w s).vecOf (.execute c) = v := atIssue_vec ..
  have hdone := hbody (ctxOf (.execute c) w s) (atIssue (.execute c) w s) (hvec ▸ groupOk_iff.2 hg) (hstart.landed hl)
  simp only [ctxOf_a, hvec] at hdone
  generalize (List.range 64).map (fun col => (col, tget 0#32 (tget [] v.ps ps.val) col)) = row at hdone ⊢
  have htask := pushVqs_task (k := ctxOf (.execute c) w s) (atIssue (.execute c) w s) row (BitVec.ofNat 256 (2 ^ 64 - 1))
  rw [ctxOf_a] at htask
  obtain ⟨t, ht, hframe, htv, hregs, htq, -⟩ := hstart.answer (rs := [.vdst vr, .lsrc ps]) h hdone (pushVqs_inCore rfl ..)
    (by rw [htask, pushedVqs_a]) (by rw [htask, pushedVqs_preds]) (by rw [htask, pushedVqs_clk]) (by rw [htask]; exact popped_pushedVqs (hstart.queues ▸ hpop) _)
  refine ⟨t, (hissue s).trans ht, hframe, by rw [hregs, htask, pushedVqs_regs, hstart.regs], ?_, ?_⟩
  · rw [htv, pushVqs_vec, hstart.vec]
    rfl
  · rw [htq, htask, pushedVqs, hstart.a]
    split <;> simp only [hstart.queues]

/-- A latch cleared. -/
theorem runs_psclr {ps : Latch} (h : Ready (exe g [.ldst ps]) (.execute c) s) :
    ∃ t, exec (.psclr g lc ps) s = .next t ∧ VecFrame [.ldst ps] c s t 1 ∧ (t.task (.execute c)).regs = (s.task (.execute c)).regs ∧
      (t.task (.execute c)).q.vqs = (s.task (.execute c)).q.vqs ∧ (t.core c).vec = { (s.core c).vec with ps := tput (s.core c).vec.ps ps.val [] } := by
  have hpop : Popped [.ldst ps] (s.task (.execute c)).q (s.task (.execute c)).q := popped_self (fun n hn => by simp at hn) (fun n hn => by simp at hn) _
  have hstart := HasRead.start (exe g [.ldst ps]) c s
  obtain ⟨t, ht, hframe, htv, hregs, htq, -⟩ := hstart.answer (rs := [.ldst ps]) (C := 1) (queue := false)
    (s2 := ((atIssue (.execute c) (exe g [.ldst ps]) s).modVec (.execute c) fun v => { v with ps := tput v.ps ps.val [] }).modTask (.execute c) fun t =>
      bound t (keyL ps.val) (((atIssue (.execute c) (exe g [.ldst ps]) s).task (.execute c)).x.clk + lcBound lc))
    (body := fun k s => .ok (vecDone k false 1 ((s.modVec k.a fun v => { v with ps := tput v.ps ps.val [] }).modTask k.a fun t =>
      bound t (keyL ps.val) ((s.task k.a).x.clk + lcBound lc)))) h rfl ((inCore_modVec ..).trans (inCore_modTask ..)) (by simp) (by simp) (by simp) (by simpa [hstart.queues] using hpop)
  refine ⟨t, ht, hframe, by simp [hregs, hstart.regs], by simp [htq, hstart.queues], ?_⟩
  rw [htv, State.vec_modTask, State.vec_modVec_execute, hstart.vec]
  rfl

end

end Sys2Proof.Machine
end

section
namespace Sys2Proof.Machine

open Sys2Proof

section
variable (v : VecState) (d : Nat) (ws : List (Nat × W32))

@[simp] theorem vwrite_m : (vwrite v d ws).m = v.m := rfl
@[simp] theorem vwrite_t : (vwrite v d ws).t = v.t := rfl
@[simp] theorem vwrite_ps : (vwrite v d ws).ps = v.ps := rfl
@[simp] theorem vwrite_vcfg : (vwrite v d ws).vcfg = v.vcfg := rfl
@[simp] theorem vwrite_fsr : (vwrite v d ws).fsr = v.fsr := rfl

end

/-- Element (r, k) of tile `n`, and column `k` of latch `n`. -/
def tileElem (v : VecState) (n r k : Nat) : W32 := tget 0#32 (tget [] v.t n) (64 * r + k)
def latchElem (v : VecState) (n k : Nat) : W32 := tget 0#32 (tget [] v.ps n) k

/-- A quarter of tile `tl` written by rows. -/
theorem tileElem_quarter (v : VecState) (tl q : Nat) (X : Nat → W32) (cfg : W64) (n r : Nat) {k : Nat} (hk : k < 64) :
    tileElem { v with t := tmod [] v.t tl fun tb => tputAll tb (quarter.map fun ic => (1024 * q + (64 * ic.1 + ic.2), X (64 * ic.1 + ic.2))), vcfg := cfg } n r k =
      if n = tl ∧ 16 * q ≤ r ∧ r < 16 * q + 16 then X (64 * (r - 16 * q) + k) else tileElem v n r k := by
  by_cases hn : n = tl
  · subst hn
    simp only [tileElem, tmod, tget_tput_self, tget_tputAll, lastOf_quarter, true_and]
    by_cases hrow : 16 * q ≤ r ∧ r < 16 * q + 16
    · have hplace : 64 * r + k - 1024 * q = 64 * (r - 16 * q) + k := by omega
      rw [if_pos hrow, if_pos (by omega), hplace]
    · rw [if_neg hrow, if_neg (by omega)]
  · simp only [tileElem, tget_tmod_of_ne _ _ _ hn, hn, false_and, if_false]

/-- A quarter of a tile read by columns into a group. -/
theorem groupIs_quarter (v w : VecState) (hw : w.v = v.v) (d tl q : Nat) :
    GroupIs v (vwrite w d (quarter.map fun ic => (0 + (64 * ic.1 + ic.2), tget 0#32 (tget [] v.t tl) (64 * ((64 * ic.1 + ic.2) % 64) + (16 * q + (64 * ic.1 + ic.2) / 64))))) d 0 1024
      fun e => tileElem v tl (e % 64) (16 * q + e / 64) := by
  refine groupIs_vwrite hw fun e => ?_
  rw [lastOf_quarter 0 (fun e => tget 0#32 (tget [] v.t tl) (64 * (e % 64) + (16 * q + e / 64)))]
  simp only [Nat.zero_add, Nat.sub_zero]
  rfl

/-- A latch read into row 0 of a group. -/
theorem groupIs_latch (v : VecState) (d ps : Nat) : GroupIs v (vwrite v d ((List.range 64).map fun col => (col, tget 0#32 (tget [] v.ps ps) col))) d 0 64 (latchElem v ps) := by
  refine groupIs_vwrite rfl fun e => ?_
  rw [lastOf_map]
  simp [latchElem]

theorem latchElem_tput (v : VecState) (ps : Nat) (tb : Table W32) (fsr cfg : W64) (n k : Nat) :
    latchElem { v with ps := tput v.ps ps tb, fsr := fsr, vcfg := cfg } n k = if n = ps then tget 0#32 tb k else latchElem v n k := by
  by_cases hn : n = ps
  · subst hn
    simp [latchElem]
  · simp only [latchElem, tget_tput_of_ne _ _ _ hn, hn, if_false]

/-- The two bits of a cursor take its next value, and the other bits of VCFG stay. -/
theorem cursor_cfgSet (cfg : W64) {hi lo : Nat} (q : Nat) (hlo : hi = lo + 1) (hhi : hi < 64) :
    bitsOf (cfgSet cfg hi lo (q + 1)).toNat hi lo = (q + 1) % 4 ∧ ∀ j, (j < lo ∨ hi < j) → (cfgSet cfg hi lo (q + 1)).getLsbD j = cfg.getLsbD j := by
  have hwidth : hi + 1 - lo = 2 := by omega
  refine ⟨?_, fun j hj => ?_⟩
  · rw [bitsOf_cfgSet_self _ _ (by omega) hhi, hwidth]
    rfl
  · rw [getLsbD_cfgSet _ _ (by omega) hhi, if_neg (by omega)]

theorem getLsbD_mask_row {k : Nat} (hk : k < 256) : (BitVec.ofNat 256 (2 ^ 64 - 1)).getLsbD k = decide (k < 64) := by
  rw [BitVec.getLsbD_ofNat, Nat.testBit_two_pow_sub_one, decide_eq_true hk, Bool.true_and]

/-- Settles O43: the quarter at the cursor of a tile is written by rows or read by columns, and each column of a latch receives its elements in ascending order. -/
theorem tileAndLatchWords : Obligations.TileAndLatchWords := by
  unfold Obligations.TileAndLatchWords
  intro c s g lc vr tl ps a u v cfg m X tile latch Runs hl
  refine ⟨fun h => ?twr, fun h => ?trd, fun h hg => ?psadd, fun h hg => ?psrd, fun h => ?psclr⟩
  case twr =>
    obtain ⟨t, ht, hframe, hregs, hvqs, hvec⟩ := runs_twr (lc := lc) h hl
    obtain ⟨hcursor, hothers⟩ := cursor_cfgSet cfg (cfgTWC cfg tl.val) (lo := 40 + 4 * tl.val) (hi := 41 + 4 * tl.val) (by omega) (by omega)
    refine ⟨t, ht, hframe, hregs, ?_⟩
    rw [hvec]
    exact ⟨rfl, rfl, rfl, rfl, hvqs, fun n r k _ hk => tileElem_quarter v tl.val _ X _ n r hk, hcursor, hothers⟩
  case trd =>
    obtain ⟨t, ht, hframe, hregs, hvqs, hvec⟩ := runs_trd (lc := lc) h hl
    obtain ⟨hcursor, hothers⟩ := cursor_cfgSet cfg (cfgTRC cfg tl.val) (lo := 42 + 4 * tl.val) (hi := 43 + 4 * tl.val) (by omega) (by omega)
    have hgroup := groupIs_quarter v { v with vcfg := cfgSet cfg (43 + 4 * tl.val) (42 + 4 * tl.val) (cfgTRC cfg tl.val + 1) } rfl (vIndex vr) tl.val (cfgTRC cfg tl.val)
    refine ⟨t, ht, hframe, hregs, ?_⟩
    rw [hvec]
    exact ⟨vwrite_m .., vwrite_t .., vwrite_ps .., vwrite_fsr .., hvqs, hgroup, hcursor, hothers⟩
  case psadd =>
    obtain ⟨t, ht, hframe, hregs, hvqs, hvec⟩ := runs_psadd (lc := lc) h hl hg
    intro r sum
    have hsum : ∀ k, sum k = latchSum m (vVal u v vr) ((r.below (cfgVL cfg)).filter fun e => e % 64 == k) (latch v ps.val k, 0#6) := by
      intro k
      rw [VRange.below_eq_filter, List.filter_filter]
      simp only [sum, latchSum, Bool.and_comm]
    refine ⟨t, ht, hframe, hregs, ?_⟩
    rw [hvec]
    refine ⟨rfl, rfl, rfl, hvqs, rfl, fun j => ?_, fun n k hk => ?_⟩
    · simp only [getLsbD_fsrOr, Bool.or_eq_true, flags_foldl_latchAdd, BitVec.getLsbD_zero, Bool.false_eq_true, false_or, hsum]
      rfl
    · refine (latchElem_tput ..).trans ?_
      rw [tget_foldl_latchAdd, hsum]
      rfl
  case psrd =>
    cases hvr : vr with
    | v d =>
      subst hvr
      obtain ⟨t, ht, hframe, hregs, hvqs, hvec⟩ := runs_psrd_group (lc := lc) h hl hg
      have hgroup := groupIs_latch v d.val ps.val
      refine ⟨t, ht, hframe, hregs, ?_⟩
      rw [hvec]
      refine ⟨vwrite_m .., vwrite_t .., vwrite_ps .., vwrite_fsr .., vwrite_vcfg .., fun n hn => ?_, nofun⟩
      obtain rfl : d = n := by simpa using hn
      exact ⟨hgroup, hvqs⟩
    | _ =>
      obtain ⟨t, ht, hframe, hregs, hvec, hvqs⟩ := runs_psrd_vqs (lc := lc) (by simp [hvr]) h hl hg
      rw [hvr] at ht hframe
      refine ⟨t, ht, hframe, hregs, ?_⟩
      rw [hvec]
      refine ⟨rfl, rfl, rfl, rfl, rfl, nofun, fun _ => ⟨rfl, fun hend => hvqs.trans (if_pos hend), fun hend => ⟨_, hvqs.trans (if_neg (Bool.eq_false_iff.1 hend)), fun k hk => ⟨getLsbD_mask_row hk, ?_⟩⟩⟩⟩
      refine (tget_map_sub (base := 0) (fun _ _ => Nat.zero_le _) (latch v ps.val) k).trans ?_
      simp only [List.mem_range, Nat.zero_add]
  case psclr =>
    obtain ⟨t, ht, hframe, hregs, hvqs, hvec⟩ := runs_psclr (lc := lc) h
    refine ⟨t, ht, hframe, hregs, ?_⟩
    rw [hvec]
    exact ⟨rfl, rfl, rfl, rfl, rfl, hvqs, fun n k _ => latchElem_tput ..⟩

end Sys2Proof.Machine
end

section
namespace Sys2Proof.Machine

open Sys2Proof

/-! Cross-row words on register groups (07 R165, R167, R168). -/

theorem vrange_below (cfg : W64) : (vrange cfg false).below (cfgVL cfg) = List.range (vBelow cfg) := by
  show (List.range (min (cfgVL cfg) (0 + 1024 * 2 ^ cfgLG cfg) - 0)).map (0 + ·) = List.range (min (cfgVL cfg) (1024 * 2 ^ cfgLG cfg))
  simp

theorem vrange_rows (cfg : W64) : (vrange cfg false).rows (cfgVL cfg) = vRows cfg := by
  show (min (cfgVL cfg) (0 + 1024 * 2 ^ cfgLG cfg) - 0 + 64 - 1) / 64 = (min (cfgVL cfg) (1024 * 2 ^ cfgLG cfg) + 63) / 64
  rw [Nat.zero_add, Nat.sub_zero]
  rfl

theorem vBelow_le (cfg : W64) : vBelow cfg ≤ 1024 * 2 ^ cfgLG cfg := Nat.min_le_right ..

theorem lt_vBelow {cfg : W64} {e : Nat} : e < vBelow cfg ↔ e < cfgVL cfg ∧ e < 1024 * 2 ^ cfgLG cfg := Nat.lt_min

/-- What the body of a cross-row word gives, once its fields name groups. -/
theorem groupWord_issues (w : WordInfo) (fields : List VReg) (body : Ctx → W64 → VRange → Nat → State → Except Stop State) :
    ∃ b, (∀ s, groupWord w fields body s = issue w s b) ∧
    (∀ k s s2, Grouped (s.vecOf k.a).vcfg fields → body k (s.vecOf k.a).vcfg (vrange (s.vecOf k.a).vcfg false) (vRows (s.vecOf k.a).vcfg) s = .ok s2 →
      b k s = .ok (vecDone k false (vRows (s.vecOf k.a).vcfg) s2)) ∧
    (∀ k s st, Grouped (s.vecOf k.a).vcfg fields → body k (s.vecOf k.a).vcfg (vrange (s.vecOf k.a).vcfg false) (vRows (s.vecOf k.a).vcfg) s = .error st → b k s = .error st) := by
  refine ⟨_, fun s => rfl, fun k s s2 hg hb => ?_, fun k s st hg hb => ?_⟩
  all_goals
    refine (if_neg (by simp [all_groupOk_iff.2 hg])).trans ?_
    simp only [vrange_rows, hb]

/-- From `s` to `t` a word of core `c` writes elements of group `d` and perhaps a register, and its task keeps all but its registers and bounds. -/
structure GroupDone (c : Nat) (s t : State) (d : Nat) (ws : List (Nat × W32)) (regs : Table W64) : Prop where
  inCore : InCore c s t
  vec : (t.core c).vec = vwrite (s.core c).vec d ws
  a : (t.task (.execute c)).a = (s.task (.execute c)).a
  preds : (t.task (.execute c)).preds = (s.task (.execute c)).preds
  clk : (t.task (.execute c)).x.clk = (s.task (.execute c)).x.clk
  q : (t.task (.execute c)).q = (s.task (.execute c)).q
  regs : (t.task (.execute c)).regs = regs

section
variable {k : Ctx} {c : Nat} (hk : k.a = .execute c) {s : State} (ht : Landed (s.task (.execute c)))
include hk ht

theorem groupDone_groupResult (d : Nat) (r : VRange) (kind : RowKind) (C B fr : Nat) (ws : List (Nat × W32)) (kept : List Nat) :
    GroupDone c s (groupResult k d r kind C B fr ws kept s) d ws (s.task (.execute c)).regs := by
  have htask := groupResult_task hk s d r kind C B fr ws kept
  exact { inCore := groupResult_inCore hk .., vec := groupResult_vec hk _ _ _ _ _ _ _ _ _ ht, a := by rw [htask, boundRows_a], preds := by rw [htask, boundRows_preds]
          clk := by rw [htask, boundRows_clk], q := by rw [htask, boundRows_q], regs := by rw [htask, boundRows_regs] }

theorem groupDone_vecResult {vd : VReg} (hvd : vd.isV = true) (cfg : W64) (r : VRange) (kind : RowKind) (C B fr : Nat) (act : List (Nat × W32)) (inact : List Nat) :
    GroupDone c s (vecResult k vd cfg r kind C B fr act inact s) (vIndex vd) (resultWrites cfg r 0#32 act inact) (s.task (.execute c)).regs := by
  cases vd with
  | v n => exact groupDone_groupResult hk ht ..
  | _ => cases hvd

end

/-- A scalar destination written after the elements. -/
theorem GroupDone.writeDst {k : Ctx} {c : Nat} (hk : k.a = .execute c) {s t : State} {d : Nat} {ws : List (Nat × W32)} (h : GroupDone c s t d ws (s.task (.execute c)).regs)
    {x : SDst} (hx : x = .zr ∨ ∃ n, x = .s n) (b : Nat) (y : W64) : GroupDone c s (writeDst k x b y t) d ws (regsWith (s.task (.execute c)) x y) := by
  obtain ⟨a, pc, next, seq⟩ := k
  obtain rfl : a = .execute c := hk
  rcases hx with rfl | ⟨n, rfl⟩
  · exact h
  · have htask : (Machine.writeDst ⟨.execute c, pc, next, seq⟩ (.s n) b y t).task (.execute c) =
        bound { t.task (.execute c) with regs := tput (t.task (.execute c)).regs n.val y } (keyReg n.val) ((t.task (.execute c)).x.clk + b) := by
      simp only [Machine.writeDst, writeReg]
      exact State.task_setTask ..
    exact { inCore := h.inCore.trans (inCore_setTask ..), vec := (State.vec_setTask ..).trans h.vec, a := by rw [htask]; exact h.a, preds := by rw [htask]; exact h.preds
            clk := by rw [htask]; exact h.clk, q := by rw [htask]; exact h.q, regs := by rw [htask]; show tput _ _ _ = tput _ _ _; rw [h.regs] }

/-- The answer of a cross-row word that has written its group. -/
theorem HasRead.groupWord {w : WordInfo} {c : Nat} {s s' s2 : State} {q : Queues} {fsr : W64} (hr : HasRead w c s q fsr s') {i : Instr} {rs : List Role} {fields : List VReg} {d : Nat}
    {ws : List (Nat × W32)} {regs : Table W64} {g : Nat → W32} {P : W64 → Prop} {body : Ctx → W64 → VRange → Nat → State → Except Stop State} (hd : GroupDone c s' s2 d ws regs)
    (h : Ready w (.execute c) s) (hi : exec i s = Machine.groupWord w fields body s) (hg : Grouped (s.core c).vec.vcfg fields) (hq : Popped rs (s.task (.execute c)).q q)
    (hvqs : q.vqs = (s.task (.execute c)).q.vqs) (hP : P fsr)
    (hb : body (ctxOf (.execute c) w s) (s.core c).vec.vcfg (vrange (s.core c).vec.vcfg false) (vRows (s.core c).vec.vcfg) (atIssue (.execute c) w s) = .ok s2)
    (hws : ∀ e, lastOf ws e (vElem (s.core c).vec d e) = if e < 1024 * 2 ^ cfgLG (s.core c).vec.vcfg then g e else vElem (s.core c).vec d e) :
    GroupWord i rs c s (vRows (s.core c).vec.vcfg) d g P regs := by
  obtain ⟨b, hissue, hok, -⟩ := groupWord_issues w fields body
  have hvec : (atIssue (.execute c) w s).vecOf (.execute c) = (s.core c).vec := atIssue_vec ..
  have hdone := hok (ctxOf (.execute c) w s) (atIssue (.execute c) w s) s2
  rw [ctxOf_a, hvec] at hdone
  obtain ⟨t, ht, hframe, htv, hregs, htq, -⟩ := hr.answer (rs := rs) h (hdone hg hb) hd.inCore hd.a hd.preds hd.clk (by rw [hd.q, hr.queues]; exact hq)
  rw [hd.vec, hr.vec] at htv
  refine ⟨t, hi.trans ((hissue s).trans ht), hframe, by rw [htv]; rfl, by rw [htv]; rfl, by rw [htv]; rfl, by rw [htv]; rfl, by rw [htv]; exact hP, by rw [hregs, hd.regs],
    by rw [htq, hd.q, hr.queues, hvqs], ?_⟩
  rw [htv]
  refine groupIs_vwrite (w := { (s.core c).vec with fsr := fsr }) rfl fun e => (hws e).trans ?_
  simp only [Nat.zero_le, true_and]

/-- The trap of a cross-row word whose body stops. -/
theorem groupWord_traps {w : WordInfo} {c : Nat} {s : State} {i : Instr} {fields : List VReg} {body : Ctx → W64 → VRange → Nat → State → Except Stop State} {code : TrapCode}
    (h : Ready w (.execute c) s) (he : w.engine = false) (hi : exec i s = groupWord w fields body s) (hg : Grouped (s.core c).vec.vcfg fields)
    (hb : body (ctxOf (.execute c) w s) (s.core c).vec.vcfg (vrange (s.core c).vec.vcfg false) (vRows (s.core c).vec.vcfg) (atIssue (.execute c) w s) = err code) : Traps i (.execute c) s code := by
  obtain ⟨b, hissue, -, herr⟩ := groupWord_issues w fields body
  have hvec : (atIssue (.execute c) w s).vecOf (.execute c) = (s.core c).vec := atIssue_vec ..
  have hstop := herr (ctxOf (.execute c) w s) (atIssue (.execute c) w s)
  rw [ctxOf_a, hvec] at hstop
  exact hi.trans ((hissue s).trans (issue_trap h (.inr (h.noArm he)) (hstop _ hg hb)))

end Sys2Proof.Machine
end

section
namespace Sys2Proof.Machine

open Sys2Proof

/-! The values of compress, expand, argmax and the reductions (07 R182-R185). -/

/-- Writes of the first elements of a group, the others under the tail policy. -/
def prefixWrites (cfg : W64) (r : VRange) (vals : List W32) : List (Nat × W32) := (List.range vals.length).zip vals ++ (tailFrom cfg r vals.length).1

theorem range_zip_eq_map (vals : List W32) : (List.range vals.length).zip vals = (List.range vals.length).map fun e => (e, vals.getD e 0#32) := by
  apply List.ext_getElem
  · simp
  · intro i hi hi'
    have hlt : i < vals.length := by simpa using hi
    simp [List.getD_eq_getElem?_getD, hlt]

theorem tailFrom_fst (cfg : W64) (r : VRange) (n : Nat) : (tailFrom cfg r n).1 = (if cfgTZ cfg then (List.range (r.count - n)).map (n + ·) else []).map fun e => (e, 0#32) := by
  unfold tailFrom
  cases cfgTZ cfg <;> rfl

theorem lastOf_prefixWrites (cfg : W64) (r : VRange) {vals : List W32} (hvals : vals.length ≤ r.count) (e : Nat) (old : W32) :
    lastOf (prefixWrites cfg r vals) e old = if e < r.count then (if h : e < vals.length then vals[e] else if cfgTZ cfg then 0#32 else old) else old := by
  have hmem : e ∈ (List.range (r.count - vals.length)).map (vals.length + ·) ↔ vals.length ≤ e ∧ e < r.count := by
    simp only [List.mem_map, List.mem_range]
    exact ⟨fun ⟨i, hi, he⟩ => by omega, fun he => ⟨e - vals.length, by omega, by omega⟩⟩
  rw [prefixWrites, range_zip_eq_map, tailFrom_fst, lastOf_append, lastOf_map _ (fun _ => 0#32), lastOf_map]
  simp only [List.mem_ite_nil_right, hmem, List.mem_range]
  by_cases hlt : e < vals.length
  · have hcount : e < r.count := by omega
    simp [hlt, hcount, Nat.not_le.2 hlt, List.getD_eq_getElem?_getD]
  · by_cases hcount : e < r.count
    · cases cfgTZ cfg <;> simp [hlt, hcount, Nat.not_lt.1 hlt]
    · simp [hlt, hcount]

/-- Selected elements, each with the value of its place among them (07 R183). -/
theorem zip_filter_range {α : Type} (p : Nat → Bool) (f : Nat → α) (n : Nat) :
    ((List.range n).filter p).zip ((List.range ((List.range n).filter p).length).map f) = ((List.range n).filter p).map fun e => (e, f ((List.range e).countP p)) := by
  induction n with
  | zero => rfl
  | succ n ih =>
    rw [List.range_succ, List.filter_append]
    cases hp : p n with
    | false => simpa [hp] using ih
    | true =>
      have hlast : [n].filter p = [n] := by simp [hp]
      rw [hlast, List.length_append, List.length_singleton, List.range_succ, List.map_append, List.map_append, List.zip_append (by simp), ih]
      simp [List.countP_eq_length_filter]

theorem argmax_cons (e : Nat) (x : W32) (l : List (Nat × W32)) : argmax ((e, x) :: l) =
    (argmax l).elim (if (fp32 x).isNaN then none else some (e, x)) fun p => if (fp32 x).isNaN || fltSigned (fp32 x) (fp32 p.2) then some p else some (e, x) := by
  rw [argmax]
  cases argmax l <;> rfl

/-- The place that `argmax` gives is one of the list, and its element no NaN. -/
theorem argmax_mem {l : List (Nat × W32)} {p : Nat × W32} (h : argmax l = some p) : p ∈ l ∧ (fp32 p.2).isNaN = false := by
  induction l with
  | nil => cases h
  | cons x l ih =>
    obtain ⟨e, y⟩ := x
    have hhead : (fp32 y).isNaN = false → some (e, y) = some p → p ∈ (e, y) :: l ∧ (fp32 p.2).isNaN = false := by
      rintro hy hp
      obtain rfl := Option.some.inj hp
      exact ⟨List.mem_cons_self, hy⟩
    rw [argmax_cons] at h
    cases hl : argmax l with
    | none =>
      simp only [hl, Option.elim_none] at h
      split at h
      · cases h
      · exact hhead (Bool.eq_false_iff.2 ‹_›) h
    | some z =>
      simp only [hl, Option.elim_some] at h
      split at h
      · obtain ⟨hmem, hnan⟩ := ih (hl.trans h)
        exact ⟨List.mem_cons_of_mem _ hmem, hnan⟩
      · exact hhead (by simp_all) h

/-- The greatest element that is no NaN, at its lowest place. -/
theorem argmax_eq_some {l r : List (Nat × W32)} {e : Nat} {z : W32} (hz : (fp32 z).isNaN = false) (hr : ∀ p ∈ r, (fp32 p.2).isNaN = false → fltSigned (fp32 z) (fp32 p.2) = false)
    (hl : ∀ p ∈ l, (fp32 p.2).isNaN = false → fltSigned (fp32 p.2) (fp32 z) = true) : argmax (l ++ (e, z) :: r) = some (e, z) := by
  induction l with
  | nil =>
    rw [List.nil_append, argmax_cons]
    cases hmax : argmax r with
    | none => simp [hz]
    | some p =>
      obtain ⟨hmem, hnan⟩ := argmax_mem hmax
      simp [hz, hr p hmem hnan]
  | cons x l ih =>
    obtain ⟨f, y⟩ := x
    have hy := hl (f, y) List.mem_cons_self
    rw [List.cons_append, argmax_cons, ih fun p hp => hl p (List.mem_cons_of_mem _ hp), Option.elim_some, if_pos]
    cases hnan : (fp32 y).isNaN
    · exact hy hnan
    · rfl

theorem argmax_eq_none {l : List (Nat × W32)} (h : ∀ p ∈ l, (fp32 p.2).isNaN = true) : argmax l = none :=
  Option.eq_none_iff_forall_ne_some.2 fun p hp => by
    obtain ⟨hmem, hnan⟩ := argmax_mem hp
    rw [h p hmem] at hnan
    cases hnan

/-- The greatest of the elements 0 to n - 1 that is no NaN. -/
theorem argmax_range_eq_some {n e : Nat} {X : Nat → W32} (he : e < n) (hz : (fp32 (X e)).isNaN = false)
    (hmax : ∀ f, f < n → (fp32 (X f)).isNaN = false → fltSigned (fp32 (X e)) (fp32 (X f)) = false)
    (hfirst : ∀ f, f < e → (fp32 (X f)).isNaN = false → fltSigned (fp32 (X f)) (fp32 (X e)) = true) : argmax ((List.range n).map fun e => (e, X e)) = some (e, X e) := by
  obtain ⟨k, rfl⟩ : ∃ k, n = e + (k + 1) := ⟨n - e - 1, by omega⟩
  have hsplit : List.range (e + (k + 1)) = List.range e ++ e :: (List.range k).map (e + 1 + ·) := by
    rw [List.range_add, List.range_succ_eq_map]
    simp [Function.comp_def, Nat.add_comm, Nat.add_left_comm]
  rw [hsplit, List.map_append, List.map_cons, List.map_map]
  refine argmax_eq_some hz (fun p hp => ?_) fun p hp => ?_
  · obtain ⟨i, hi, rfl⟩ := List.mem_map.1 hp
    have hlt : e + 1 + i < e + (k + 1) := by have := List.mem_range.1 hi; omega
    exact hmax _ hlt
  · obtain ⟨i, hi, rfl⟩ := List.mem_map.1 hp
    exact hfirst _ (List.mem_range.1 hi)

theorem redAdd_eq (xs : List W32) : redAdd xs = BitVec.ofNat 32 (xs.map BitVec.toNat).sum := by
  have hfold : ∀ (l : List W32) (b : W32), l.foldl (· + ·) b = b + BitVec.ofNat 32 (l.map BitVec.toNat).sum := by
    intro l
    induction l with
    | nil => simp
    | cons x l ih =>
      intro b
      rw [List.foldl_cons, ih, List.map_cons, List.sum_cons, BitVec.ofNat_add, BitVec.ofNat_toNat, BitVec.setWidth_eq, BitVec.add_assoc]
  rw [redAdd, hfold, BitVec.zero_add]

theorem vopMax_toInt (x y : W32) : (vopMax x y).toInt = max x.toInt y.toInt := by
  unfold vopMax
  split <;> omega

/-- A maximum is one of its operands. -/
theorem vopMax_eq_or (x y : W32) : vopMax x y = x ∨ vopMax x y = y := by
  unfold vopMax
  split
  · exact .inr rfl
  · exact .inl rfl

theorem foldl_vopMax (xs : List W32) (b : W32) : (∀ x ∈ b :: xs, x.toInt ≤ (xs.foldl vopMax b).toInt) ∧ xs.foldl vopMax b ∈ b :: xs := by
  induction xs generalizing b with
  | nil => simp
  | cons y xs ih =>
    obtain ⟨hle, hmem⟩ := ih (vopMax b y)
    have hint := vopMax_toInt b y
    have hhead := hle _ List.mem_cons_self
    refine ⟨fun x hx => ?_, ?_⟩
    · rcases List.mem_cons.1 hx with rfl | hx
      · exact le_trans (by omega) hhead
      · rcases List.mem_cons.1 hx with rfl | hx
        · exact le_trans (by omega) hhead
        · exact hle x (List.mem_cons_of_mem _ hx)
    · rcases List.mem_cons.1 hmem with he | hmem
      · rw [List.foldl_cons, he]
        rcases vopMax_eq_or b y with hb | hb <;> simp [hb]
      · exact List.mem_cons_of_mem _ (List.mem_cons_of_mem _ hmem)

/-- The maximum of no elements is the least integer, and that of some is one of them. -/
theorem redMax_mem {xs : List W32} (hxs : xs ≠ []) : redMax xs ∈ xs := by
  obtain ⟨hle, hmem⟩ := foldl_vopMax xs 0x80000000#32
  rcases List.mem_cons.1 hmem with he | hmem
  · obtain ⟨x, l, rfl⟩ := List.exists_cons_of_ne_nil hxs
    have hx := hle x (by simp)
    have hmin : (0x80000000#32).toInt = -2 ^ 31 := rfl
    have hlow : -2 ^ 31 ≤ x.toInt := BitVec.le_toInt x
    rw [he, hmin] at hx
    have heq : x = 0x80000000#32 := BitVec.eq_of_toInt_eq (by rw [hmin]; omega)
    rw [redMax, he, ← heq]
    exact List.mem_cons_self
  · exact hmem

/-! The tree of VFREDADD (07 R185). -/

/-- Two neighbouring positions of a round, with the flags of their addition. -/
def pairSum (m : RMode) (a b : Option W32) : Option W32 × Flags :=
  match a, b with
  | some x, some y => (some (fadd x y m).1, (fadd x y m).2)
  | some x, none => (some x, 0#6)
  | none, z => (z, 0#6)

/-- The positions after one round. -/
def roundOf (m : RMode) (x : Nat → Option W32) (i : Nat) : Option W32 := (pairSum m (x (2 * i)) (x (2 * i + 1))).1

/-- The flags of the additions at `n` positions of a round from `a` on. -/
def roundFlags (m : RMode) (x : Nat → Option W32) (a : Nat) : Nat → Flags
  | 0 => 0#6
  | n + 1 => roundFlags m x (a + 1) n ||| (pairSum m (x (2 * a)) (x (2 * a + 1))).2

theorem roundFlags_add (m : RMode) (x : Nat → Option W32) (a n k : Nat) : roundFlags m x a (n + k) = roundFlags m x a n ||| roundFlags m x (a + n) k := by
  induction n generalizing a with
  | zero => simp [roundFlags]
  | succ n ih =>
    have hplace : a + 1 + n = a + (n + 1) := by omega
    rw [Nat.succ_add, roundFlags, roundFlags, ih, hplace]
    ac_rfl

theorem treeRound_cons (m : RMode) (a b : Option W32) (l : List (Option W32)) :
    treeRound m (a :: b :: l) = ((pairSum m a b).1 :: (treeRound m l).1, (treeRound m l).2 ||| (pairSum m a b).2) := by
  rw [treeRound]
  cases a <;> cases b <;> simp [pairSum]

theorem treeRound_range' (m : RMode) (x : Nat → Option W32) (a n : Nat) :
    treeRound m ((List.range' (2 * a) (2 * n)).map x) = ((List.range' a n).map (roundOf m x), roundFlags m x a n) := by
  induction n generalizing a with
  | zero => rfl
  | succ n ih =>
    have htwo : 2 * (n + 1) = 2 * n + 1 + 1 := by omega
    have hnext : 2 * a + 1 + 1 = 2 * (a + 1) := by omega
    rw [htwo, List.range'_succ, List.range'_succ, hnext, List.map_cons, List.map_cons, treeRound_cons, ih, List.range'_succ]
    rfl

theorem tree_succ (m : RMode) (x : Nat → Option W32) (n i : Nat) : tree m x (n + 1) i =
    ((pairSum m (tree m x n (2 * i)).1 (tree m x n (2 * i + 1)).1).1,
      (tree m x n (2 * i)).2 ||| (tree m x n (2 * i + 1)).2 ||| (pairSum m (tree m x n (2 * i)).1 (tree m x n (2 * i + 1)).1).2) := by
  rw [tree]
  generalize tree m x n (2 * i) = p
  generalize tree m x n (2 * i + 1) = q
  obtain ⟨a, fa⟩ := p
  obtain ⟨b, fb⟩ := q
  cases a <;> cases b <;> simp [pairSum]

/-- A tree of n + 1 rounds is one round, and then n rounds on what it gives. -/
theorem tree_round (m : RMode) (x : Nat → Option W32) (n i : Nat) : tree m x (n + 1) i =
    ((tree m (roundOf m x) n i).1, roundFlags m x (2 ^ n * i) (2 ^ n) ||| (tree m (roundOf m x) n i).2) := by
  induction n generalizing i with
  | zero =>
    rw [tree_succ]
    simp [tree, roundOf, roundFlags]
  | succ n ih =>
    have hleft : 2 ^ n * (2 * i) = 2 ^ (n + 1) * i := by ring
    have hright : 2 ^ n * (2 * i + 1) = 2 ^ (n + 1) * i + 2 ^ n := by ring
    have hlen : 2 ^ (n + 1) = 2 ^ n + 2 ^ n := by ring
    rw [tree_succ, ih, ih, tree_succ m (roundOf m x), hleft, hright, hlen, roundFlags_add, ← hlen]
    refine Prod.ext rfl ?_
    dsimp only
    ac_rfl

theorem treeSum_range' (m : RMode) (n : Nat) (x : Nat → Option W32) : treeSum m n ((List.range' 0 (2 ^ n)).map x) = (((tree m x n 0).1).getD 0#32, (tree m x n 0).2) := by
  induction n generalizing x with
  | zero => rfl
  | succ n ih =>
    have hround := treeRound_range' m x 0 (2 ^ n)
    have hlen : 2 ^ (n + 1) = 2 * 2 ^ n := by ring
    rw [Nat.mul_zero] at hround
    rw [treeSum, hlen, hround]
    simp only [ih, tree_round, Nat.mul_zero]

/-- The sum of the elements 0 to k - 1 of a group as its tree gives it. -/
theorem redTree_eq (m : RMode) (lg k : Nat) (X : Nat → W32) (hk : k ≤ 1024 * 2 ^ lg) : redTree m lg ((List.range k).map X) =
    ((tree m (fun e => if e < k then some (X e) else none) (10 + lg) 0).1.getD 0#32, (tree m (fun e => if e < k then some (X e) else none) (10 + lg) 0).2) := by
  have hlen : 2 ^ (10 + lg) = k + (1024 * 2 ^ lg - k) := by rw [pow_add]; omega
  rw [← treeSum_range', redTree, hlen, ← List.range_eq_range', List.range_add, List.map_append]
  refine congrArg _ (congrArg₂ _ ?_ ?_)
  · rw [List.map_map]
    exact List.map_congr_left fun e he => (if_pos (List.mem_range.1 he)).symm
  · refine (List.eq_replicate_iff.2 ⟨by simp, fun y hy => ?_⟩).symm
    simp only [List.mem_map] at hy
    obtain ⟨e, ⟨i, -, rfl⟩, rfl⟩ := hy
    exact if_neg (by omega)

end Sys2Proof.Machine
end

section
namespace Sys2Proof.Machine

open Sys2Proof

section
variable {k : Ctx} {c : Nat} (hk : k.a = .execute c) {s : State} (ht : Landed (s.task (.execute c)))
include hk ht

theorem groupDone_prefixResult (d : Nat) (cfg : W64) (r : VRange) (C B fr : Nat) (vals : List W32) :
    GroupDone c s (prefixResult k d cfg r C B fr vals s) d (prefixWrites cfg r vals) (s.task (.execute c)).regs := groupDone_groupResult hk ht ..

end

/-- Elements that are written in front, and the others under the tail policy (07 R182, R184, R185). -/
theorem lastOf_prefixWrites_group (v : VecState) (d : Nat) {vals : List W32} (hvals : vals.length ≤ 1024 * 2 ^ cfgLG v.vcfg) (e : Nat) :
    lastOf (prefixWrites v.vcfg (vrange v.vcfg false) vals) e (vElem v d e) = if e < 1024 * 2 ^ cfgLG v.vcfg then
      (if h : e < vals.length then vals[e] else if cfgTZ v.vcfg then 0#32 else vElem v d e) else vElem v d e := lastOf_prefixWrites v.vcfg (vrange v.vcfg false) hvals e _

/-- Elements of a group under the class of each (07 R164). -/
theorem lastOf_resultWrites_group (v : VecState) (d : Nat) (masked : Bool) (f : Nat → W32) (e : Nat) :
    lastOf (resultWrites v.vcfg (vrange v.vcfg false) 0#32 ((actives v (vrange v.vcfg false) masked).map fun e => (e, f e)) (inactives v (vrange v.vcfg false) masked)) e (vElem v d e) =
      if e < 1024 * 2 ^ cfgLG v.vcfg then chosen v masked e 0#32 (f e) (vElem v d e) else vElem v d e := by
  have hrange : ((vrange v.vcfg false).base ≤ e ∧ e < (vrange v.vcfg false).base + (vrange v.vcfg false).count) ↔ e < 1024 * 2 ^ cfgLG v.vcfg := by
    show (0 ≤ e ∧ e < 0 + 1024 * 2 ^ cfgLG v.vcfg) ↔ _
    simp
  rw [lastOf_resultWrites, if_congr hrange rfl rfl]

theorem actives_vrange (v : VecState) (masked : Bool) : actives v (vrange v.vcfg false) masked = (List.range (vBelow v.vcfg)).filter fun e => !masked || mBit v 0 e := by
  rw [actives, vrange_below]

/-- The elements of a register source at the clock of a word whose results have all landed. -/
theorem vread_eq_vElem {t : Task} (ht : Landed t) (v : VecState) (r fr : Nat) : (fun e => vread t v r e t.x.clk fr) = vElem v r :=
  funext fun e => vread_of_landed ht (Nat.le_refl _) v r e fr

section
variable (g : Guard) (lc : BitVec 3) (vd va : VReg)

theorem execVcompress_eq (x : SDst) : ∃ body, (∀ s, execVcompress g lc vd va x s = groupWord (vvInfo g vd va [.dst x]) [vd, va] body s) ∧
    ∀ k r C s, Landed (s.task k.a) →
      let v := s.vecOf k.a
      let vals := (actives v r true).map (vElem v (vIndex va))
      body k v.vcfg r C s = .ok (writeDst k x (scalarBound C lc) (BitVec.ofNat 64 vals.length) (prefixResult k (vIndex vd) v.vcfg r C (lcBound lc) (s.freeCtr + 2) vals s)) := by
  refine ⟨_, fun s => rfl, ?_⟩
  intro k r C s ht v vals
  have hvals : (selected (s.task k.a) v r C (s.freeCtr + 3)).map (fun e => vread (s.task k.a) v (vIndex va) e (s.task k.a).x.clk s.freeCtr) = vals := by
    rw [selected, activeOf_of_landed ht, vread_eq_vElem ht]
  rw [← hvals]

theorem execVexpand_eq (x : Scalar) : ∃ body, (∀ s, execVexpand g lc vd va x s = groupWord (vvInfo g vd va [.src x]) [vd, va] body s) ∧
    ∀ k cfg r C s, Landed ((readScalar k x s).2.task k.a) →
      let y := readScalar k x s
      let v := y.2.vecOf k.a
      let src (i : Nat) : W32 := if y.1.toNat + i < cfgVLMax cfg then vElem v (vIndex va) (y.1.toNat + i) else 0#32
      body k cfg r C s = .ok (vecResult k vd cfg r .crossRow C (lcBound lc) (y.2.freeCtr + 2)
        ((actives v r true).zip ((List.range (actives v r true).length).map src)) (inactives v r true) y.2) := by
  refine ⟨_, fun s => rfl, ?_⟩
  intro k cfg r C s ht y v src
  let act := activeOf (y.2.task k.a) v r true .crossRow (y.2.task k.a).x.clk C (y.2.freeCtr + 3)
  have hact : act = (actives v r true, inactives v r true) := activeOf_of_landed ht ..
  let src' (i : Nat) : W32 := if y.1.toNat + i < cfgVLMax cfg then vread (y.2.task k.a) v (vIndex va) (y.1.toNat + i) (y.2.task k.a).x.clk y.2.freeCtr else 0#32
  have hsrc : src' = src := funext fun i => if_congr Iff.rfl (vread_of_landed ht (Nat.le_refl _) ..) rfl
  calc
    _ = Except.ok (vecResult k vd cfg r .crossRow C (lcBound lc) (y.2.freeCtr + 2) (act.1.zip ((List.range act.1.length).map src')) act.2 y.2) := rfl
    _ = _ := by rw [hact, hsrc]

/-- The element and the place that VREDI gives. -/
def argmaxResult (xs : List (Nat × W32)) : W32 × W64 :=
  match argmax xs with
  | some (e, y) => (y, BitVec.ofNat 64 e)
  | none => (0x7FC00000#32, BitVec.allOnes 64)

theorem execVredi_eq (x : SDst) : ∃ body, (∀ s, execVredi g lc vd va x s = groupWord (vvInfo g vd va [.dst x]) [vd, va] body s) ∧
    ∀ k r C s, Landed (s.task k.a) →
      let v := s.vecOf k.a
      let xs := (r.below (cfgVL v.vcfg)).map fun e => (e, vElem v (vIndex va) e)
      body k v.vcfg r C s = .ok (writeDst k x (scalarBound C lc) (argmaxResult xs).2 (prefixResult k (vIndex vd) v.vcfg r C (lcBound lc) (s.freeCtr + 2) [(argmaxResult xs).1]
        (orFlags k (snanFlag (xs.map fun y => fp32 y.2)) s))) := by
  refine ⟨_, fun s => rfl, ?_⟩
  intro k r C s ht v xs
  have hxs : (r.below (cfgVL v.vcfg)).map (fun e => (e, vread (s.task k.a) v (vIndex va) e (s.task k.a).x.clk s.freeCtr)) = xs :=
    List.map_congr_left fun e _ => congrArg _ (vread_of_landed ht (Nat.le_refl _) ..)
  rw [← hxs]
  rfl

theorem reduce_eq (f : RMode → Nat → List W32 → W32 × Flags) : ∃ body, (∀ s, reduce g lc vd va f s = groupWord (vvInfo g vd va []) [vd, va] body s) ∧
    ∀ k r C s, Landed (s.task k.a) →
      let v := s.vecOf k.a
      let z := f (fsrMode v.fsr) (cfgLG v.vcfg) ((r.below (cfgVL v.vcfg)).map (vElem v (vIndex va)))
      body k v.vcfg r C s = .ok (prefixResult k (vIndex vd) v.vcfg r C (lcBound lc) (s.freeCtr + 2) [z.1] (orFlags k z.2 s)) := by
  refine ⟨_, fun s => rfl, ?_⟩
  intro k r C s ht v z
  simp only [z, ← vread_eq_vElem ht v (vIndex va) s.freeCtr]
  rfl

end

end Sys2Proof.Machine
end

section
namespace Sys2Proof.Machine

open Sys2Proof

/-- The fields of a word on register groups name registers. -/
theorem Ready.isV_of_vvInfo {g : Guard} {vd va : VReg} {more : List Role} {a : Agent} {s : State} (h : Ready (vvInfo g vd va more) a s) : vd.isV = true ∧ va.isV = true :=
  Bool.and_eq_true_iff.1 h.shape

theorem popped_vvInfo {vd va : VReg} {more : List Role} (hva : va.isV = true) (hvq : ∀ n : Fin 4, Role.vsrc (.vq n) ∉ more) (hsq : ∀ n : Fin 4, Role.src (.sq n) ∉ more) (q : Queues) :
    Popped ([.vdst vd, .vsrc va] ++ more) q q := by
  refine popped_self (fun n hn => ?_) (fun n hn => ?_) q
  · cases va <;> simp_all [VReg.isV]
  · simp_all

/-- A word on register groups that reads a scalar source pops that. -/
theorem popped_vvInfo_src {vd va : VReg} (hva : va.isV = true) (x : Scalar) (q : Queues) : Popped [.vdst vd, .vsrc va, .src x] q (popScalar x q) := by
  refine popped_of (popScalar_cq ..) (popScalar_pq ..) (fun n => ?_) (fun n => ?_)
  · cases va <;> simp_all [VReg.isV]
  · simp [tget_popScalar, eq_comm]

/-- One element written in front. -/
theorem lastOf_prefixWrites_one (v : VecState) (d : Nat) (z : W32) (e : Nat) : lastOf (prefixWrites v.vcfg (vrange v.vcfg false) [z]) e (vElem v d e) =
    if e < 1024 * 2 ^ cfgLG v.vcfg then (if e = 0 then z else if cfgTZ v.vcfg then 0#32 else vElem v d e) else vElem v d e := by
  refine (lastOf_prefixWrites_group v d (vals := [z]) ?_ e).trans ?_
  · have hpos := Nat.two_pow_pos (cfgLG v.vcfg)
    rw [List.length_singleton]
    omega
  · by_cases he : e = 0 <;> simp [he]

theorem HasRead.regsWith {w : WordInfo} {c : Nat} {s s' : State} {q : Queues} {fsr : W64} (h : HasRead w c s q fsr s') (x : SDst) (y : W64) :
    Machine.regsWith (s'.task (.execute c)) x y = Machine.regsWith (s.task (.execute c)) x y := by
  cases x <;> simp only [Machine.regsWith, h.regs]

section
variable {c : Nat} {s : State} {g : Guard} {lc : BitVec 3} {vd va : VReg} (hl : Landed (s.task (.execute c))) (hg : Grouped (s.core c).vec.vcfg [vd, va])
include hl hg

theorem groupWord_vcompress {x : SDst} (h : Ready (vvInfo g vd va [.dst x]) (.execute c) s) :
    let v := (s.core c).vec
    let sel := (List.range (vBelow v.vcfg)).filter (mBit v 0)
    GroupWord (.vcompress g lc vd va x) [.vdst vd, .vsrc va, .dst x] c s (vRows v.vcfg) (vIndex vd)
      (fun e => if h : e < sel.length then vElem v (vIndex va) sel[e] else if cfgTZ v.vcfg then 0#32 else vElem v (vIndex vd) e) (· = v.fsr)
      (regsWith (s.task (.execute c)) x (BitVec.ofNat 64 sel.length)) := by
  intro v sel
  obtain ⟨-, hva⟩ := h.isV_of_vvInfo
  have hx := h.dst_execute (d := x) (by simp [vvInfo, exe])
  obtain ⟨body, hexec, hbody⟩ := execVcompress_eq g lc vd va x
  generalize vvInfo g vd va [.dst x] = w at h hexec
  have hstart := HasRead.start w c s
  have hland := hstart.landed hl
  have hvec : (atIssue (.execute c) w s).vecOf (.execute c) = v := atIssue_vec ..
  have hdone := hbody (ctxOf (.execute c) w s) (vrange v.vcfg false) (vRows v.vcfg) (atIssue (.execute c) w s) hland
  have hsel : actives v (vrange v.vcfg false) true = sel := actives_vrange v true
  simp only [ctxOf_a, hvec, hsel, List.length_map] at hdone
  have hgroup := (groupDone_prefixResult (k := ctxOf (.execute c) w s) rfl hland (vIndex vd) v.vcfg (vrange v.vcfg false) (vRows v.vcfg) (lcBound lc) ((atIssue (.execute c) w s).freeCtr + 2)
    (sel.map (vElem v (vIndex va)))).writeDst (k := ctxOf (.execute c) w s) rfl hx (scalarBound (vRows v.vcfg) lc) (BitVec.ofNat 64 sel.length)
  have hlen : sel.length ≤ 1024 * 2 ^ cfgLG v.vcfg := le_trans (List.length_filter_le ..) (by simpa using vBelow_le v.vcfg)
  rw [hstart.regsWith] at hgroup
  refine hstart.groupWord hgroup h (hexec s) hg (popped_vvInfo hva (by simp) (by simp) _) rfl rfl hdone fun e => (lastOf_prefixWrites_group v _ (by simpa using hlen) e).trans ?_
  simp only [List.length_map, List.getElem_map]
  rfl

theorem groupWord_vredi {x : SDst} {P : W64 → Prop} (h : Ready (vvInfo g vd va [.dst x]) (.execute c) s) :
    let v := (s.core c).vec
    let xs := (List.range (vBelow v.vcfg)).map fun e => (e, vElem v (vIndex va) e)
    P (fsrOr v.fsr (snanFlag (xs.map fun y => fp32 y.2))) →
    GroupWord (.vredi g lc vd va x) [.vdst vd, .vsrc va, .dst x] c s (vRows v.vcfg) (vIndex vd)
      (fun e => if e = 0 then (argmaxResult xs).1 else if cfgTZ v.vcfg then 0#32 else vElem v (vIndex vd) e) P (regsWith (s.task (.execute c)) x (argmaxResult xs).2) := by
  intro v xs hP
  obtain ⟨-, hva⟩ := h.isV_of_vvInfo
  have hx := h.dst_execute (d := x) (by simp [vvInfo, exe])
  obtain ⟨body, hexec, hbody⟩ := execVredi_eq g lc vd va x
  generalize vvInfo g vd va [.dst x] = w at h hexec
  have hstart := HasRead.start w c s
  have hland := hstart.landed hl
  have hvec : (atIssue (.execute c) w s).vecOf (.execute c) = v := atIssue_vec ..
  have hdone := hbody (ctxOf (.execute c) w s) (vrange v.vcfg false) (vRows v.vcfg) (atIssue (.execute c) w s) hland
  have hxs : ((vrange v.vcfg false).below (cfgVL v.vcfg)).map (fun e => (e, vElem v (vIndex va) e)) = xs := by rw [vrange_below]
  simp only [ctxOf_a, hvec, hxs] at hdone
  have hflags := hstart.flags (snanFlag (xs.map fun y => fp32 y.2))
  have hgroup := (groupDone_prefixResult (k := ctxOf (.execute c) w s) rfl (hflags.landed hl) (vIndex vd) v.vcfg (vrange v.vcfg false) (vRows v.vcfg) (lcBound lc)
    ((atIssue (.execute c) w s).freeCtr + 2) [(argmaxResult xs).1]).writeDst (k := ctxOf (.execute c) w s) rfl hx (scalarBound (vRows v.vcfg) lc) (argmaxResult xs).2
  rw [hflags.regsWith] at hgroup
  exact hflags.groupWord hgroup h (hexec s) hg (popped_vvInfo hva (by simp) (by simp) _) rfl hP hdone fun e => lastOf_prefixWrites_one v _ _ e

theorem groupWord_vexpand {x : Scalar} (h : Ready (vvInfo g vd va [.src x]) (.execute c) s) :
    let v := (s.core c).vec
    GroupWord (.vexpand g lc vd va x) [.vdst vd, .vsrc va, .src x] c s (vRows v.vcfg) (vIndex vd)
      (fun e => let k := (xVal (s.task (.execute c)) x).toNat + (List.range e).countP (mBit v 0)
        chosen v true e 0#32 (if k < 1024 * 2 ^ cfgLG v.vcfg then vElem v (vIndex va) k else 0#32) (vElem v (vIndex vd) e)) (· = v.fsr) (s.task (.execute c)).regs := by
  intro v
  obtain ⟨hvd, hva⟩ := h.isV_of_vvInfo
  obtain ⟨body, hexec, hbody⟩ := execVexpand_eq g lc vd va x
  generalize vvInfo g vd va [.src x] = w at h hexec
  have hread := (HasRead.start w c s).readScalar hl x
  have hvec : (readScalar (ctxOf (.execute c) w s) x (atIssue (.execute c) w s)).2.vecOf (.execute c) = v := hread.vec
  have hfst := (HasRead.start w c s).readScalar_fst hl rfl x
  have hdone := hbody (ctxOf (.execute c) w s) v.vcfg (vrange v.vcfg false) (vRows v.vcfg) (atIssue (.execute c) w s) (hread.landed hl)
  have hact : actives v (vrange v.vcfg false) true = (List.range (vBelow v.vcfg)).filter (mBit v 0) := actives_vrange v true
  simp only [ctxOf_a, hvec, hfst] at hdone
  rw [hact, zip_filter_range (mBit v 0), ← hact] at hdone
  have hgroup := fun act => groupDone_vecResult (k := ctxOf (.execute c) w s) rfl (hread.landed hl) hvd v.vcfg (vrange v.vcfg false) .crossRow (vRows v.vcfg) (lcBound lc)
    ((readScalar (ctxOf (.execute c) w s) x (atIssue (.execute c) w s)).2.freeCtr + 2) act (inactives v (vrange v.vcfg false) true)
  simp only [hread.regs] at hgroup
  exact hread.groupWord (hgroup _) h (hexec s) hg (popped_vvInfo_src hva x _) (popScalar_vqs ..) rfl hdone fun e => lastOf_resultWrites_group v _ true _ e

theorem groupWord_reduce {i : Instr} {f : RMode → Nat → List W32 → W32 × Flags} {P : W64 → Prop} (h : Ready (vvInfo g vd va []) (.execute c) s) (hi : exec i s = reduce g lc vd va f s) :
    let v := (s.core c).vec
    let z := f (fsrMode v.fsr) (cfgLG v.vcfg) ((List.range (vBelow v.vcfg)).map (vElem v (vIndex va)))
    P (fsrOr v.fsr z.2) → GroupWord i [.vdst vd, .vsrc va] c s (vRows v.vcfg) (vIndex vd)
      (fun e => if e = 0 then z.1 else if cfgTZ v.vcfg then 0#32 else vElem v (vIndex vd) e) P (s.task (.execute c)).regs := by
  intro v z hP
  obtain ⟨-, hva⟩ := h.isV_of_vvInfo
  obtain ⟨body, hexec, hbody⟩ := reduce_eq g lc vd va f
  generalize vvInfo g vd va [] = w at h hexec
  have hstart := HasRead.start w c s
  have hvec : (atIssue (.execute c) w s).vecOf (.execute c) = v := atIssue_vec ..
  have hdone := hbody (ctxOf (.execute c) w s) (vrange v.vcfg false) (vRows v.vcfg) (atIssue (.execute c) w s) (hstart.landed hl)
  simp only [ctxOf_a, hvec, vrange_below] at hdone
  have hflags := hstart.flags z.2
  have hgroup := groupDone_prefixResult (k := ctxOf (.execute c) w s) rfl (hflags.landed hl) (vIndex vd) v.vcfg (vrange v.vcfg false) (vRows v.vcfg) (lcBound lc)
    ((atIssue (.execute c) w s).freeCtr + 2) [z.1]
  rw [hflags.regs] at hgroup
  exact hflags.groupWord hgroup h (hi.trans (hexec s)) hg (popped_vvInfo (more := []) hva (by simp) (by simp) _) rfl hP hdone fun e => lastOf_prefixWrites_one v _ _ e

end

end Sys2Proof.Machine
end

section
namespace Sys2Proof.Machine

open Sys2Proof

/-- The flags of a list of operands: NV when one is a signalling NaN (03 R86). -/
theorem getLsbD_fsrOr_snanFlag (f : W64) (l : List FVal) (j : Nat) :
    (fsrOr f (snanFlag l)).getLsbD j = true ↔ f.getLsbD j = true ∨ (j = 4 ∧ ∃ x ∈ l, x.isSNaN = true) := by
  have hbit : ∀ b : Bool, (flagIf b flagNV).getLsbD j = (b && decide (j = 4)) := by
    intro b
    cases b
    · simp [flagIf]
    · have hnv : flagNV = BitVec.twoPow 6 4 := rfl
      rw [flagIf, if_pos rfl, hnv, BitVec.getLsbD_twoPow, Bool.true_and, Bool.eq_iff_iff]
      simp [eq_comm]
  rw [getLsbD_fsrOr, snanFlag, hbit]
  simp [and_comm]

theorem fsrOr_zero (f : W64) : fsrOr f 0#6 = f := by simp [fsrOr]

/-- Settles O42: each word writes the first elements of its group, or its active ones, with the values that its list of elements gives. -/
theorem vectorReductionWords : Obligations.VectorReductionWords := by
  unfold Obligations.VectorReductionWords
  intro c s g lc vd va a u v cfg n C old X rest hl hg
  refine ⟨fun d h => ⟨groupWord_vcompress hl hg h, fun z k hzk => ?argmax⟩, fun x h => groupWord_vexpand hl hg h, fun h => ?reductions⟩
  case argmax =>
    have hresult : argmaxResult ((List.range n).map fun e => (e, X e)) = (z, k) := by
      rcases hzk with ⟨e, he, rfl, rfl, hnan, hmax, hfirst⟩ | ⟨hnan, rfl, rfl⟩
      · rw [argmaxResult, argmax_range_eq_some he hnan hmax hfirst]
      · rw [argmaxResult, argmax_eq_none]
        simpa using hnan
    have hword := groupWord_vredi (lc := lc) (P := fun w => ∀ j, w.getLsbD j = true ↔ v.fsr.getLsbD j = true ∨ (j = 4 ∧ ∃ e, e < n ∧ (fp32 (X e)).isSNaN = true)) hl hg h fun j => by
      rw [getLsbD_fsrOr_snanFlag]
      simp [v, n, X, cfg]
    have hfst : (argmaxResult ((List.range (vBelow v.vcfg)).map fun e => (e, vElem v (vIndex va) e))).1 = z := congrArg Prod.fst hresult
    have hsnd : (argmaxResult ((List.range (vBelow v.vcfg)).map fun e => (e, vElem v (vIndex va) e))).2 = k := congrArg Prod.snd hresult
    rw [hfst, hsnd] at hword
    exact hword
  case reductions =>
    intro Red S
    have hmem : ∀ y, y ∈ (List.range n).map X ↔ ∃ e, e < n ∧ X e = y := by simp
    obtain ⟨hle, -⟩ := foldl_vopMax ((List.range n).map X) 0x80000000#32
    refine ⟨?add, ⟨redMax ((List.range n).map X), ?max, fun e he => hle _ (List.mem_cons_of_mem _ ((hmem _).2 ⟨e, he, rfl⟩)), fun hn => by rw [hn]; rfl, fun hn => ?place⟩, ?tree⟩
    case add =>
      have hsum : redAdd ((List.range n).map X) = BitVec.ofNat 32 ((List.range n).map fun e => (X e).toNat).sum := by rw [redAdd_eq, List.map_map]; rfl
      have hword := groupWord_reduce (lc := lc) (P := (· = v.fsr)) (i := .vredadd g lc vd va) (f := fun _ _ xs => (redAdd xs, 0#6)) hl hg h rfl (fsrOr_zero _)
      rw [← hsum]
      exact hword
    case max => exact groupWord_reduce (lc := lc) (P := (· = v.fsr)) (i := .vredmax g lc vd va) (f := fun _ _ xs => (redMax xs, 0#6)) hl hg h rfl (fsrOr_zero _)
    case place =>
      have hne : (List.range n).map X ≠ [] := by simpa using Nat.ne_of_gt hn
      exact (hmem _).1 (redMax_mem hne)
    case tree =>
      have htree : redTree (fsrMode v.fsr) (cfgLG cfg) ((List.range n).map X) = (S.1.getD 0#32, S.2) := redTree_eq _ _ _ X (vBelow_le cfg)
      have hword := groupWord_reduce (lc := lc) (P := fun w => w = v.fsr ||| S.2.zeroExtend 64) (i := .vfredadd g lc vd va) (f := redTree) hl hg h rfl
        (congrArg (fun p => fsrOr v.fsr p.2) htree)
      have hfst : (redTree (fsrMode v.fsr) (cfgLG v.vcfg) ((List.range (vBelow v.vcfg)).map (vElem v (vIndex va)))).1 = S.1.getD 0#32 := congrArg Prod.fst htree
      rw [hfst] at hword
      exact hword

end Sys2Proof.Machine
end

section
namespace Sys2Proof.Machine

open Sys2Proof

/-! Encodings that a conversion writes fit their format (03 R69, R80-R84). -/

theorem FFmt.pack_lt (f : FFmt) (neg : Bool) {e m : Nat} (he : e < 2 ^ f.ebits) (hm : m < 2 ^ f.mbits) : f.pack neg e m < 2 ^ (1 + f.ebits + f.mbits) := by
  have hsign : b2n neg ≤ 1 := by cases neg <;> decide
  have hfield : e * 2 ^ f.mbits + m < 2 ^ (f.ebits + f.mbits) := by
    have hle : (e + 1) * 2 ^ f.mbits ≤ 2 ^ f.ebits * 2 ^ f.mbits := Nat.mul_le_mul_right _ he
    rw [pow_add]
    linarith
  have htop : b2n neg * 2 ^ (f.ebits + f.mbits) ≤ 1 * 2 ^ (f.ebits + f.mbits) := Nat.mul_le_mul_right _ hsign
  have hsum : 2 ^ (1 + f.ebits + f.mbits) = 2 * 2 ^ (f.ebits + f.mbits) := by rw [Nat.add_assoc, pow_add, pow_one]
  rw [FFmt.pack, hsum]
  omega

/-- Rounding an integer quotient of magnitude at most `B` gives at most `B`. -/
theorem roundInt_natAbs_le {num : Int} {den B : Nat} (hden : 0 < den) (h : num.natAbs ≤ B * den) (m : RBase) : (roundInt num den m).natAbs ≤ B := by
  have hd : (0 : Int) < den := by exact_mod_cast hden
  have hq : Int.fdiv num den = num / den := Int.fdiv_eq_ediv_of_nonneg _ (le_of_lt hd)
  have hlow : -(B : Int) * den ≤ num := by
    have : (num.natAbs : Int) ≤ B * den := by exact_mod_cast h
    rw [Int.neg_mul]
    omega
  have hhigh : num ≤ (B : Int) * den := by
    have : (num.natAbs : Int) ≤ B * den := by exact_mod_cast h
    omega
  have hqlow : -(B : Int) ≤ num / den := Int.le_ediv_of_mul_le hd hlow
  have hqhigh : num / den ≤ B := Int.ediv_le_of_le_mul hd hhigh
  have hstep : num - num / den * den ≠ 0 → num / den < B := by
    intro hr
    refine lt_of_le_of_ne hqhigh fun hB => hr ?_
    have hmul := Int.ediv_mul_le num (ne_of_gt hd)
    rw [hB] at hmul ⊢
    omega
  unfold roundInt
  simp only [hq]
  split
  · omega
  · have := hstep ‹_›
    cases m <;> dsimp only <;> (repeat' split) <;> omega

/-- A quotient is below the power of two above its logarithm. -/
theorem lt_floorLog2 {n d : Nat} (hd : 0 < d) : (n : ℚ) < d * 2 ^ (floorLog2 n d + 1) := by
  have hn : (n : ℚ) < 2 ^ ((Nat.log2 n : Int) + 1) := by exact_mod_cast Nat.lt_log2_self (n := n)
  have hld : (2 : ℚ) ^ (Nat.log2 d : Int) ≤ d := by exact_mod_cast Nat.log2_self_le (Nat.ne_of_gt hd)
  have hpow : ∀ k : Int, 0 ≤ k → (2 : ℚ) ^ k = ((2 ^ k.toNat : Nat) : ℚ) := fun k hk => by
    obtain ⟨j, rfl⟩ := Int.eq_ofNat_of_zero_le hk
    simp
  unfold floorLog2
  generalize hl : (Nat.log2 n : Int) - Nat.log2 d = l
  by_cases hbelow : (if l ≥ 0 then n < d * 2 ^ l.toNat else n * 2 ^ (-l).toNat < d)
  · rw [if_pos hbelow, sub_add_cancel]
    split at hbelow
    · rw [hpow l ‹_›]
      exact_mod_cast hbelow
    · have hneg : (2 : ℚ) ^ l = (((2 ^ (-l).toNat : Nat) : ℚ))⁻¹ := by rw [← hpow (-l) (by omega), zpow_neg, inv_inv]
      rw [hneg, ← div_eq_mul_inv, lt_div_iff₀ (by positivity)]
      exact_mod_cast hbelow
  · rw [if_neg hbelow]
    have hsplit : (2 : ℚ) ^ ((Nat.log2 n : Int) + 1) = 2 ^ (Nat.log2 d : Int) * 2 ^ (l + 1) := by
      rw [← zpow_add₀ (by norm_num), ← hl]
      congr 1
      ring
    calc
      (n : ℚ) < 2 ^ (Nat.log2 d : Int) * 2 ^ (l + 1) := hsplit ▸ hn
      _ ≤ d * 2 ^ (l + 1) := mul_le_mul_of_nonneg_right hld (by positivity)

theorem roundScaled_natAbs_le {num : Int} {den M : Nat} {k : Int} (hden : 0 < den) (h : (num.natAbs : ℚ) ≤ 2 ^ M * den * 2 ^ k) (m : RBase) :
    (roundScaled num den k m).natAbs ≤ 2 ^ M := by
  rw [roundScaled]
  split
  · rename_i hk
    obtain ⟨j, rfl⟩ := Int.eq_ofNat_of_zero_le hk
    refine roundInt_natAbs_le (Nat.mul_pos hden (Nat.two_pow_pos _)) ?_ m
    rw [zpow_natCast] at h
    have hnat : num.natAbs ≤ 2 ^ M * den * 2 ^ j := by exact_mod_cast h
    rw [← Nat.mul_assoc]
    exact hnat
  · rename_i hk
    obtain ⟨j, hj⟩ := Int.eq_ofNat_of_zero_le (a := -k) (by omega)
    obtain rfl : k = -(j : Int) := by omega
    refine roundInt_natAbs_le hden ?_ m
    rw [zpow_neg, zpow_natCast, ← div_eq_mul_inv, le_div_iff₀ (by positivity)] at h
    have hnat : num.natAbs * 2 ^ j ≤ 2 ^ M * den := by exact_mod_cast h
    simpa [Int.natAbs_mul, Int.natAbs_pow] using hnat

/-- A floating-point format whose significands fit in that of FP32 (R69). -/
structure FFmt.Fits (f : FFmt) : Prop where
  pos : 1 ≤ f.mbits
  le : f.mbits ≤ 23

/-- The encoding of a result that has `1 + ebits + mbits` bits. -/
def FFmt.InWidth (f : FFmt) (p : Nat × Flags) : Prop := p.1 < 2 ^ (1 + f.ebits + f.mbits)

section
variable {f : FFmt}

theorem FFmt.maxFinite_lt (f : FFmt) : f.maxFinite.1 < 2 ^ f.ebits ∧ f.maxFinite.2 < 2 ^ f.mbits := by
  have he := Nat.two_pow_pos f.ebits
  have hm := Nat.two_pow_pos f.mbits
  unfold FFmt.maxFinite
  split <;> constructor <;> dsimp only <;> omega

theorem FFmt.packMax_lt (f : FFmt) (neg : Bool) : f.packMax neg < 2 ^ (1 + f.ebits + f.mbits) := f.pack_lt neg f.maxFinite_lt.1 f.maxFinite_lt.2

theorem FFmt.packInf_lt (f : FFmt) (neg : Bool) : f.packInf neg < 2 ^ (1 + f.ebits + f.mbits) :=
  f.pack_lt neg (Nat.sub_lt (Nat.two_pow_pos _) Nat.one_pos) (Nat.two_pow_pos _)

theorem FFmt.packNaN_lt (f : FFmt) (neg : Bool) : f.packNaN neg < 2 ^ (1 + f.ebits + f.mbits) :=
  f.pack_lt neg (Nat.sub_lt (Nat.two_pow_pos _) Nat.one_pos) (Nat.sub_lt (Nat.two_pow_pos _) Nat.one_pos)

theorem FFmt.inWidth_overflow (f : FFmt) (neg : Bool) (mode : RMode) : f.InWidth (f.overflow neg mode) := by
  have hmax := f.packMax_lt neg
  have hinf := f.packInf_lt neg
  have hnan := f.packNaN_lt neg
  have hbig : (match f.specials with | .ieee => f.packInf neg | _ => f.packNaN neg) < 2 ^ (1 + f.ebits + f.mbits) := by split <;> assumption
  unfold FFmt.InWidth FFmt.overflow
  dsimp only
  repeat' split
  all_goals assumption

theorem FFmt.inWidth_ofNaN (hf : f.Fits) (p : W32) : f.InWidth (f.ofNaN p) := by
  have hle := hf.le
  have hpos := hf.pos
  unfold FFmt.InWidth FFmt.ofNaN
  dsimp only
  split
  · have hpayload : p.toNat % 2 ^ 23 / 2 ^ (23 - f.mbits) < 2 ^ f.mbits := by
      rw [Nat.div_lt_iff_lt_mul (Nat.two_pow_pos _), ← pow_add, Nat.add_sub_cancel' hle]
      exact Nat.mod_lt _ (Nat.two_pow_pos _)
    exact f.pack_lt _ (Nat.sub_lt (Nat.two_pow_pos _) Nat.one_pos) (Nat.or_lt_two_pow hpayload (Nat.pow_lt_pow_right (by decide) (by omega)))
  · exact f.packNaN_lt _
  · exact Nat.two_pow_pos _

/-- The significand that `roundFin` rounds to is at most the power of two above its width. -/
theorem FFmt.inWidth_roundFin (f : FFmt) (num : Int) {den : Nat} (hden : 0 < den) (mode : RMode) : f.InWidth (f.roundFin num den mode) := by
  have hover := f.inWidth_overflow (decide (num < 0)) mode
  obtain ⟨hme, -⟩ := f.maxFinite_lt
  unfold FFmt.roundFin
  dsimp only
  generalize hk : (if floorLog2 num.natAbs den < 1 - (f.bias : Int) then 1 - (f.bias : Int) else floorLog2 num.natAbs den) - (f.mbits : Int) = k
  have hle : floorLog2 num.natAbs den + 1 ≤ (f.mbits + 1 : Nat) + k := by
    rw [← hk]
    push_cast
    split <;> omega
  have hya : (roundScaled num den k mode.base).natAbs ≤ 2 ^ (f.mbits + 1) := by
    refine roundScaled_natAbs_le hden ?_ mode.base
    calc
      (num.natAbs : ℚ) ≤ den * 2 ^ (floorLog2 num.natAbs den + 1) := le_of_lt (lt_floorLog2 hden)
      _ ≤ den * 2 ^ (((f.mbits + 1 : Nat) : Int) + k) := mul_le_mul_of_nonneg_left (zpow_le_zpow_right₀ (by norm_num) hle) (by positivity)
      _ = 2 ^ (f.mbits + 1) * den * 2 ^ k := by rw [zpow_add₀ (by norm_num), zpow_natCast]; ring
  have hdouble : 2 ^ (f.mbits + 1) = 2 * 2 ^ f.mbits := pow_succ' ..
  have hpos := Nat.two_pow_pos f.mbits
  generalize (roundScaled num den k mode.base).natAbs = ya at hya
  have hp : (if ya = 2 ^ (f.mbits + 1) then (2 ^ f.mbits, k + 1) else (ya, k)).1 < 2 ^ f.mbits + 2 ^ f.mbits := by
    split <;> dsimp only <;> omega
  generalize (if ya = 2 ^ (f.mbits + 1) then (2 ^ f.mbits, k + 1) else (ya, k)) = p at hp
  split
  · exact f.pack_lt _ (Nat.two_pow_pos _) ‹_›
  · split
    · exact hover
    · rename_i hfits
      simp only [Bool.or_eq_true, Bool.and_eq_true, decide_eq_true_eq, not_or] at hfits
      exact f.pack_lt _ (by omega) (by omega)

/-- A value that is a quotient of an integer and a positive number, or none. -/
def FVal.Positive (x : FVal) : Prop := ∀ n d, x = .fin n d → 0 < d

theorem FVal.positive_scaled (neg : Bool) (m : Nat) (e : Int) : (FVal.scaled neg m e).Positive := by
  unfold FVal.Positive FVal.scaled
  intro n d h
  split at h
  · cases h
  · dsimp only at h
    split at h <;> cases h
    · exact Nat.one_pos
    · exact Nat.two_pow_pos _

theorem FFmt.positive_value (f : FFmt) (bits : Nat) : (f.value bits).Positive := by
  have hscaled := FVal.positive_scaled
  have hinf : ∀ neg, (FVal.inf neg).Positive := fun _ _ _ h => by cases h
  have hnan : ∀ p, (FVal.nan p).Positive := fun _ _ _ h => by cases h
  unfold FFmt.value
  dsimp only
  (repeat' split) <;> simp only [hscaled, hinf, hnan]

theorem FFmt.inWidth_round (hf : f.Fits) {x : FVal} (hx : x.Positive) (mode : RMode) : f.InWidth (f.round x mode) := by
  unfold FFmt.round
  cases x with
  | zero neg => exact f.pack_lt neg (Nat.two_pow_pos _) (Nat.two_pow_pos _)
  | fin n d => exact f.inWidth_roundFin n (hx n d rfl) mode
  | inf neg =>
    have hmax := f.packMax_lt neg
    have hinf := f.packInf_lt neg
    have hnan := f.packNaN_lt neg
    dsimp only
    unfold FFmt.InWidth
    (repeat' split) <;> assumption
  | nan p => exact FFmt.inWidth_ofNaN hf p

end

/-- The float layout of an element format has its width. -/
theorem Elem.float?_fits {g : Elem} {f : FFmt} (h : g.float? = some f) : f.Fits ∧ 1 + f.ebits + f.mbits = g.width := by
  cases g <;> cases h <;> exact ⟨⟨by decide, by decide⟩, rfl⟩

theorem roundInto_lt (g : Elem) {x : FVal} (hx : x.Positive) (mode : RMode) : (roundInto g x mode).1 < 2 ^ g.width := by
  unfold roundInto
  split
  · rename_i f hf
    obtain ⟨hfits, hwidth⟩ := Elem.float?_fits hf
    rw [← hwidth]
    exact FFmt.inWidth_round hfits hx mode
  · exact BitVec.isLt _

/-- A conversion from FP32 gives an encoding of its format (07 R178). -/
theorem cvtElem_fp32_lt (x : W32) (f : Elem) (mode : RMode) : (cvtElem x.toNat .fp32 f mode).1 < 2 ^ f.width := by
  unfold cvtElem
  split
  · rename_i hf
    obtain rfl : f = .fp32 := by simpa using hf
    dsimp only
    split
    · exact BitVec.isLt _
    · exact x.isLt
  · exact roundInto_lt f (fmtFP32.positive_value _) mode

end Sys2Proof.Machine
end

section
namespace Sys2Proof.Machine

open Sys2Proof

/-! Fields of a bit stream (07 R178). -/

/-- The widths of the formats that a vector conversion may use divide an element. -/
theorem Elem.width_of_not_code {f : Elem} (h : f.isCode = false) : f.width = 4 ∨ f.width = 8 ∨ f.width = 16 ∨ f.width = 32 := by
  cases f with
  | code1 | code2 | code3 => cases h
  | _ => decide

/-- A field lies in one element. -/
theorem field_place {b e j : Nat} (hb : b = 4 ∨ b = 8 ∨ b = 16 ∨ b = 32) (hj : j < b) :
    (b * e + j) / 32 = b * e / 32 ∧ (b * e + j) % 32 = b * e % 32 + j ∧ b * e / 32 * (32 / b) + b * e % 32 / b = e ∧ b * e % 32 = b * (b * e % 32 / b) := by
  rcases hb with rfl | rfl | rfl | rfl <;> omega

theorem streamField_lt (b : Nat) (get : Nat → W32) (e : Nat) : streamField b get e < 2 ^ b := Nat.mod_lt _ (Nat.two_pow_pos b)

theorem testBit_streamField {b e j : Nat} (hb : b = 4 ∨ b = 8 ∨ b = 16 ∨ b = 32) (hj : j < b) (v : VecState) (r : Nat) :
    (streamField b (vElem v r) e).testBit j = streamBit v r (b * e + j) := by
  obtain ⟨hdiv, hmod, -, -⟩ := field_place (e := e) hb hj
  rw [streamField, streamBit, Nat.testBit_mod_two_pow, decide_eq_true hj, Bool.true_and, Nat.testBit_div_two_pow, BitVec.testBit_toNat, hdiv, hmod, Nat.add_comm j]

/-- Fields of `b` bits put together. -/
def joinFields (b : Nat) (x : Nat → Nat) (n : Nat) : Nat := ((List.range n).map fun i => x i * 2 ^ (b * i)).foldl (· + ·) 0

theorem joinFields_succ (b : Nat) (x : Nat → Nat) (n : Nat) : joinFields b x (n + 1) = 2 ^ (b * n) * x n + joinFields b x n := by
  rw [joinFields, List.range_succ, List.map_append, List.foldl_append]
  show joinFields b x n + x n * 2 ^ (b * n) = _
  rw [Nat.add_comm, Nat.mul_comm]

section
variable {b : Nat} {x : Nat → Nat} (hx : ∀ i, x i < 2 ^ b)
include hx

theorem joinFields_lt (n : Nat) : joinFields b x n < 2 ^ (b * n) := by
  induction n with
  | zero => exact Nat.one_pos
  | succ n ih =>
    have hle : 2 ^ (b * n) * (x n + 1) ≤ 2 ^ (b * n) * 2 ^ b := Nat.mul_le_mul_left _ (hx n)
    rw [joinFields_succ, Nat.mul_succ, pow_add]
    rw [Nat.mul_succ] at hle
    omega

theorem testBit_joinFields (n i : Nat) : (joinFields b x n).testBit i = (decide (i < b * n) && (x (i / b)).testBit (i % b)) := by
  induction n with
  | zero => simp [joinFields]
  | succ n ih =>
    have hsucc : b * (n + 1) = b * n + b := Nat.mul_succ ..
    rw [joinFields_succ, Nat.testBit_two_pow_mul_add _ (joinFields_lt hx n), ih]
    by_cases hlow : i < b * n
    · have hin : i < b * (n + 1) := by omega
      rw [if_pos hlow, decide_eq_true hlow, decide_eq_true hin]
    · rw [if_neg hlow]
      by_cases hin : i < b * (n + 1)
      · have hdiv : i / b = n := Nat.div_eq_of_lt_le (by rw [Nat.mul_comm]; omega) (by rw [Nat.mul_comm]; exact hin)
        have hmod : i % b = i - b * n := by rw [Nat.mod_eq_sub_mul_div, hdiv]
        rw [decide_eq_true hin, Bool.true_and, hdiv, hmod]
      · rw [decide_eq_false hin, Bool.false_and]
        exact Nat.testBit_lt_two_pow (Nat.lt_of_lt_of_le (hx n) (Nat.pow_le_pow_right (by decide) (by omega)))

end

/-- A bit of a narrowed element: of its new field, or as it was. -/
theorem getLsbD_packFields {b : Nat} (hb : b = 4 ∨ b = 8 ∨ b = 16 ∨ b = 32) {field : Nat → Option Nat} (hfield : ∀ e n, field e = some n → n < 2 ^ b) (old : W32) (k : Nat) {i : Nat} (hi : i < 32) :
    (packFields b old k field).getLsbD i = ((field (k * (32 / b) + i / b)).map fun n => n.testBit (i % b)).getD (old.getLsbD i) := by
  let x (i : Nat) : Nat := (field (k * (32 / b) + i)).getD (old.toNat / 2 ^ (b * i) % 2 ^ b)
  have hx : ∀ i, x i < 2 ^ b := by
    intro i
    cases hf : field (k * (32 / b) + i) with
    | none => simpa only [x, hf, Option.getD_none] using Nat.mod_lt _ (Nat.two_pow_pos b)
    | some n => simpa only [x, hf, Option.getD_some] using hfield _ n hf
  have hpack : packFields b old k field = BitVec.ofNat 32 (joinFields b x (32 / b)) := rfl
  have hwhole : b * (32 / b) = 32 := by rcases hb with rfl | rfl | rfl | rfl <;> rfl
  rw [hpack, BitVec.getLsbD_ofNat, testBit_joinFields hx, hwhole, decide_eq_true hi, Bool.true_and, Bool.true_and]
  cases hf : field (k * (32 / b) + i / b) with
  | none =>
    have hpos : 0 < b := by omega
    simp only [x, hf, Option.getD_none, Option.map_none]
    rw [Nat.testBit_mod_two_pow, decide_eq_true (Nat.mod_lt i hpos), Bool.true_and, Nat.testBit_div_two_pow, BitVec.testBit_toNat, Nat.mod_add_div]
  | some n => simp only [x, hf, Option.getD_some, Option.map_some]

/-- Field `e` of a narrowed destination: none where it keeps its value (07 R164, R178). -/
def narrowField (v : VecState) (masked : Bool) (y : Nat → Nat) (e : Nat) : Option Nat :=
  if e < vBelow v.vcfg then (if !masked || mBit v 0 e then some (y e) else if cfgMZ v.vcfg then some 0 else none) else if cfgTZ v.vcfg then some 0 else none

/-- Element `k` of a narrowed destination. -/
def narrowed (v : VecState) (masked : Bool) (d b : Nat) (y : Nat → Nat) (k : Nat) : W32 := packFields b (vElem v d k) k (narrowField v masked y)

section
variable {b : Nat} (hb : b = 4 ∨ b = 8 ∨ b = 16 ∨ b = 32) (v : VecState) (masked : Bool) (d : Nat) {y : Nat → Nat} (hy : ∀ e, y e < 2 ^ b)
include hy

theorem narrowField_lt (e n : Nat) (h : narrowField v masked y e = some n) : n < 2 ^ b := by
  have hcases : n = y e ∨ n = 0 := by
    unfold narrowField at h
    (repeat' split at h) <;> simp_all
  rcases hcases with rfl | rfl
  · exact hy e
  · exact Nat.two_pow_pos b

include hb

/-- Bit `j` of field `e` of a narrowed destination. -/
theorem getLsbD_narrowed {e j : Nat} (hj : j < b) : (narrowed v masked d b y ((b * e + j) / 32)).getLsbD ((b * e + j) % 32) =
    if e < vBelow v.vcfg then (if !masked || mBit v 0 e then (y e).testBit j else !cfgMZ v.vcfg && streamBit v d (b * e + j)) else !cfgTZ v.vcfg && streamBit v d (b * e + j) := by
  obtain ⟨hdiv, hmod, hfield, hplace⟩ := field_place (e := e) hb hj
  have hi : (b * e % 32 + j) / b = b * e % 32 / b ∧ (b * e % 32 + j) % b = j := by
    rw [hplace, Nat.mul_add_div (by omega), Nat.div_eq_of_lt hj, Nat.mul_add_mod, Nat.mod_eq_of_lt hj, Nat.mul_div_cancel_left _ (by omega)]
    exact ⟨rfl, rfl⟩
  obtain ⟨hidiv, himod⟩ := hi
  rw [narrowed, getLsbD_packFields hb (narrowField_lt v masked hy) _ _ (Nat.mod_lt _ (by decide)), streamBit, hmod, hdiv, hidiv, himod, hfield, narrowField]
  split
  · split
    · rfl
    · cases cfgMZ v.vcfg <;> simp
  · cases cfgTZ v.vcfg <;> simp

/-- An element with no field below VL keeps its value, unless tails are zeroed. -/
theorem narrowed_of_tail (htz : cfgTZ v.vcfg = false) {k : Nat} (hk : ceilDiv (vBelow v.vcfg * b) 32 ≤ k) : narrowed v masked d b y k = vElem v d k := by
  refine BitVec.eq_of_getLsbD_eq fun i hi => ?_
  have htail : ¬ k * (32 / b) + i / b < vBelow v.vcfg := by
    unfold ceilDiv at hk
    rcases hb with rfl | rfl | rfl | rfl <;> omega
  rw [narrowed, getLsbD_packFields hb (narrowField_lt v masked hy) _ _ hi, narrowField, if_neg htail, htz]
  rfl

end

end Sys2Proof.Machine
end

section
namespace Sys2Proof.Machine

open Sys2Proof

/-! Conversions between element widths, and words that move elements (07 R178, R180). -/

theorem cvtFormat_congr {s t : State} {a : Agent} (hp : t.parts = s.parts) (hv : t.vecOf a = s.vecOf a) : cvtFormat t a = cvtFormat s a := by
  have hpart : ∀ p, t.part p = s.part p := fun p => by simp only [State.part, hp]
  simp only [cvtFormat, State.ftEntry, State.partOf_congr hp, hv, hpart]

theorem cvtFormat_atIssue (c : Nat) (w : WordInfo) (s : State) : cvtFormat (atIssue (.execute c) w s) (.execute c) = cvtFormat s (.execute c) := by
  obtain ⟨-, -, hparts, -⟩ := (inCore_atIssue c w s).outside
  exact cvtFormat_congr hparts (atIssue_vec ..)

/-- A conversion uses no CODE format (07 R169). -/
theorem isCode_of_cvtFormat {s : State} {a : Agent} {f : Elem} {m : RMode} (h : cvtFormat s a = some (f, m)) : f.isCode = false := by
  unfold cvtFormat at h
  split at h
  · split at h
    · cases h
      simp_all
    · cases h
  · cases h

theorem tget?_map_of_mem {α : Type} {l : List Nat} {e : Nat} (he : e ∈ l) (f : Nat → α) : tget? (l.map fun e => (e, f e)) e = some (f e) := by
  induction l with
  | nil => cases he
  | cons x l ih =>
    rw [List.map_cons, tget?_cons]
    by_cases hx : x = e
    · rw [if_pos hx, hx]
    · rw [if_neg hx]
      exact ih ((List.mem_cons.1 he).resolve_left (Ne.symm hx))

/-- The class of each field, from the lists of active and inactive elements (07 R164, R178). -/
theorem narrowField_eq (v : VecState) (masked : Bool) (y : Nat → Nat) (e : Nat) : narrowField v masked y e =
    if e < vBelow v.vcfg then (if (inactives v (vrange v.vcfg false) masked).contains e then (if cfgMZ v.vcfg then some 0 else none)
      else tget? ((actives v (vrange v.vcfg false) masked).map fun e => (e, y e)) e) else if cfgTZ v.vcfg then some 0 else none := by
  unfold narrowField
  refine ite_congr rfl (fun he => ?_) fun _ => rfl
  have hin : (vrange v.vcfg false).base ≤ e ∧ e < (vrange v.vcfg false).base + (vrange v.vcfg false).count ∧ e < cfgVL v.vcfg := by
    obtain ⟨hvl, hmax⟩ := lt_vBelow.1 he
    exact ⟨Nat.zero_le _, (Nat.zero_add _).symm ▸ hmax, hvl⟩
  cases hsel : (!masked || mBit v 0 e) with
  | true =>
    have hinact : e ∉ inactives v (vrange v.vcfg false) masked := fun h => by
      obtain ⟨-, hsel'⟩ := mem_inactives.1 h
      rw [hsel] at hsel'
      cases hsel'
    have hact : e ∈ actives v (vrange v.vcfg false) masked := by
      obtain ⟨hlo, hhi, hvl⟩ := hin
      rw [mem_actives, VActive, hsel, decide_eq_true hlo, decide_eq_true hhi, decide_eq_true hvl]
      rfl
    rw [if_pos rfl, if_neg (by simpa using hinact), tget?_map_of_mem hact]
  | false =>
    have hinact : e ∈ inactives v (vrange v.vcfg false) masked := mem_inactives.2 ⟨hin, hsel⟩
    simp [hinact]

section
variable (g : Guard) (lc : BitVec 3) (vd va : VReg) (masked : Bool)

/-- VCVTW on elements that have landed. -/
theorem cvtWiden_eq : ∃ body, (∀ s, cvtWiden masked g lc vd va s = groupWord { vvInfo g vd va [] with masked := masked } [vd, va] body s) ∧
    (∀ k cfg r C s, cvtFormat s k.a = none → body k cfg r C s = err .fmtbad) ∧
    ∀ k cfg r C s f m, cvtFormat s k.a = some (f, m) → Landed (s.task k.a) →
      let v := s.vecOf k.a
      let y (e : Nat) := cvtElem (streamField f.width (vElem v (vIndex va)) e) f .fp32 m
      body k cfg r C s = .ok (vecResult k vd cfg r .crossRow C (lcBound lc) (s.freeCtr + 2) ((actives v r masked).map fun e => (e, BitVec.ofNat 32 (y e).1)) (inactives v r masked)
        (orFlags k ((actives v r masked).foldl (fun fl e => fl ||| (y e).2) 0#6) s)) := by
  refine ⟨_, fun s => rfl, fun k cfg r C s hf => by simp only [hf], ?_⟩
  intro k cfg r C s f m hf ht v y
  simp only [hf, activeOf_of_landed ht, vread_eq_vElem ht, List.map_map, List.foldl_map]
  rfl

/-- VCVTN on elements that have landed. -/
theorem cvtNarrow_eq : ∃ body, (∀ s, cvtNarrow masked g lc vd va s = groupWord { vvInfo g vd va [] with masked := masked } [vd, va] body s) ∧
    (∀ k cfg r C s, cvtFormat s k.a = none → body k cfg r C s = err .fmtbad) ∧
    ∀ k C s f m, cvtFormat s k.a = some (f, m) → Landed (s.task k.a) →
      let v := s.vecOf k.a
      let r := vrange v.vcfg false
      let y (e : Nat) := cvtElem (vElem v (vIndex va) e).toNat .fp32 f m
      let touched := List.range (if cfgTZ v.vcfg then r.count else ceilDiv (vBelow v.vcfg * f.width) 32)
      body k v.vcfg r C s = .ok (groupResult k (vIndex vd) r .crossRow C (lcBound lc) (s.freeCtr + 2) (touched.map fun n => (n, narrowed v masked (vIndex vd) f.width (fun e => (y e).1) n))
        ((List.range (r.count - touched.length)).map (touched.length + ·)) (orFlags k ((actives v r masked).foldl (fun fl e => fl ||| (y e).2) 0#6) s)) := by
  refine ⟨_, fun s => rfl, fun k cfg r C s hf => by simp only [hf], ?_⟩
  intro k C s f m hf ht v r y touched
  let field (e : Nat) : Option Nat :=
    if e < vBelow v.vcfg then (if (inactives v r masked).contains e then (if cfgMZ v.vcfg then some 0 else none)
      else tget? ((actives v r masked).map fun e => (e, (y e).1)) e) else if cfgTZ v.vcfg then some 0 else none
  have hfield : field = narrowField v masked fun e => (y e).1 := funext fun e => (narrowField_eq v masked _ e).symm
  have hws : touched.map (fun n => (n, packFields f.width (vElem v (vIndex vd) n) n field)) = touched.map fun n => (n, narrowed v masked (vIndex vd) f.width (fun e => (y e).1) n) := by
    rw [hfield]
    rfl
  rw [← hws]
  simp only [hf, activeOf_of_landed ht, List.map_map, List.foldl_map, vread_of_landed ht (Nat.le_refl _)]
  rfl

/-- A word that moves elements of a register group by a place that depends on a scalar source. -/
theorem permute_eq (x : Scalar) (kind : RowKind) (pick : W64 → Nat → Nat → Nat) : ∃ body, (∀ s, permute g lc vd va x kind pick s = groupWord (vvInfo g vd va [.src x]) [vd, va] body s) ∧
    ∀ k C s, Landed ((readScalar k x s).2.task k.a) →
      let y := readScalar k x s
      let v := y.2.vecOf k.a
      let r := vrange v.vcfg false
      body k v.vcfg r C s = .ok (vecResult k vd v.vcfg r kind C (lcBound lc) (y.2.freeCtr + 2)
        ((actives v r false).map fun e => (e, vElem v (vIndex va) (pick y.1 (cfgG v.vcfg) e))) (inactives v r false) y.2) := by
  refine ⟨_, fun s => rfl, ?_⟩
  intro k C s ht y v r
  let res := (r.below (cfgVL v.vcfg)).map fun e => (e, vread (y.2.task k.a) v (vIndex va) (pick y.1 (cfgG v.vcfg) e) (readClock kind (y.2.task k.a).x.clk C (e / 64)) y.2.freeCtr)
  have hres : res = (actives v r false).map fun e => (e, vElem v (vIndex va) (pick y.1 (cfgG v.vcfg) e)) := by
    rw [actives_unmasked]
    exact List.map_congr_left fun e _ => congrArg _ (vread_of_landed ht (le_readClock ..) ..)
  rw [← hres, inactives_unmasked]

end

/-- Every element of a group is narrowed, though only those that change are written. -/
theorem lastOf_narrowed {b : Nat} (hb : b = 4 ∨ b = 8 ∨ b = 16 ∨ b = 32) (v : VecState) (masked : Bool) (d : Nat) {y : Nat → Nat} (hy : ∀ e, y e < 2 ^ b) (e : Nat) :
    lastOf ((List.range (if cfgTZ v.vcfg then (vrange v.vcfg false).count else ceilDiv (vBelow v.vcfg * b) 32)).map fun n => (n, narrowed v masked d b y n)) e (vElem v d e) =
      if e < 1024 * 2 ^ cfgLG v.vcfg then narrowed v masked d b y e else vElem v d e := by
  have hcount : (vrange v.vcfg false).count = 1024 * 2 ^ cfgLG v.vcfg := rfl
  have hle : ceilDiv (vBelow v.vcfg * b) 32 ≤ 1024 * 2 ^ cfgLG v.vcfg := by
    have hbelow := vBelow_le v.vcfg
    unfold ceilDiv
    rcases hb with rfl | rfl | rfl | rfl <;> omega
  rw [lastOf_map, hcount]
  simp only [List.mem_range]
  cases htz : cfgTZ v.vcfg with
  | true => rfl
  | false =>
    simp only [Bool.false_eq_true, if_false]
    by_cases he : e < ceilDiv (vBelow v.vcfg * b) 32
    · rw [if_pos he, if_pos (by omega)]
    · rw [if_neg he]
      split
      · exact (narrowed_of_tail hb v masked d hy htz (Nat.not_lt.1 he)).symm
      · rfl

section
variable {c : Nat} {s : State} {g : Guard} {lc : BitVec 3} {vd va : VReg} {i : Instr} (hl : Landed (s.task (.execute c))) (hg : Grouped (s.core c).vec.vcfg [vd, va])
include hl hg

theorem groupWord_cvtWiden {f : Elem} {m : RMode} {masked : Bool} (h : Ready (vvInfo g vd va []) (.execute c) s) (hf : cvtFormat s (.execute c) = some (f, m))
    (hi : exec i s = cvtWiden masked g lc vd va s) :
    let v := (s.core c).vec
    let y (e : Nat) := cvtElem (streamField f.width (vElem v (vIndex va)) e) f .fp32 m
    GroupWord i [.vdst vd, .vsrc va] c s (vRows v.vcfg) (vIndex vd) (fun e => chosen v masked e 0#32 (BitVec.ofNat 32 (y e).1) (vElem v (vIndex vd) e))
      (fun w => Flagged v.fsr w (fun e => VActive v (vrange v.vcfg false) masked e = true) (fun e => (y e).2)) (s.task (.execute c)).regs := by
  intro v y
  obtain ⟨hvd, hva⟩ := h.isV_of_vvInfo
  obtain ⟨body, hexec, -, hbody⟩ := cvtWiden_eq g lc vd va masked
  have h := h.masked masked
  generalize { vvInfo g vd va [] with masked := masked } = w at h hexec
  have hstart := HasRead.start w c s
  have hvec : (atIssue (.execute c) w s).vecOf (.execute c) = v := atIssue_vec ..
  have hdone := hbody (ctxOf (.execute c) w s) v.vcfg (vrange v.vcfg false) (vRows v.vcfg) (atIssue (.execute c) w s) f m ((cvtFormat_atIssue ..).trans hf) (hstart.landed hl)
  simp only [ctxOf_a, hvec] at hdone
  have hflags := hstart.flags ((actives v (vrange v.vcfg false) masked).foldl (fun fl e => fl ||| (y e).2) 0#6)
  have hgroup := fun act => groupDone_vecResult (k := ctxOf (.execute c) w s) rfl (hflags.landed hl) hvd v.vcfg (vrange v.vcfg false) .crossRow (vRows v.vcfg) (lcBound lc)
    ((atIssue (.execute c) w s).freeCtr + 2) act (inactives v (vrange v.vcfg false) masked)
  simp only [hflags.regs] at hgroup
  exact hflags.groupWord (hgroup _) h (hi.trans (hexec s)) hg (popped_vvInfo (more := []) hva (by simp) (by simp) _) rfl (flagged_foldl (fun e => mem_actives) _ _) hdone
    fun e => lastOf_resultWrites_group v _ masked _ e

theorem groupWord_cvtNarrow {f : Elem} {m : RMode} {masked : Bool} (h : Ready (vvInfo g vd va []) (.execute c) s) (hf : cvtFormat s (.execute c) = some (f, m))
    (hi : exec i s = cvtNarrow masked g lc vd va s) :
    let v := (s.core c).vec
    let y (e : Nat) := cvtElem (vElem v (vIndex va) e).toNat .fp32 f m
    GroupWord i [.vdst vd, .vsrc va] c s (vRows v.vcfg) (vIndex vd) (narrowed v masked (vIndex vd) f.width fun e => (y e).1)
      (fun w => Flagged v.fsr w (fun e => VActive v (vrange v.vcfg false) masked e = true) (fun e => (y e).2)) (s.task (.execute c)).regs := by
  intro v y
  obtain ⟨-, hva⟩ := h.isV_of_vvInfo
  obtain ⟨body, hexec, -, hbody⟩ := cvtNarrow_eq g lc vd va masked
  have h := h.masked masked
  generalize { vvInfo g vd va [] with masked := masked } = w at h hexec
  have hstart := HasRead.start w c s
  have hvec : (atIssue (.execute c) w s).vecOf (.execute c) = v := atIssue_vec ..
  have hdone := hbody (ctxOf (.execute c) w s) (vRows v.vcfg) (atIssue (.execute c) w s) f m ((cvtFormat_atIssue ..).trans hf) (hstart.landed hl)
  simp only [ctxOf_a, hvec] at hdone
  have hflags := hstart.flags ((actives v (vrange v.vcfg false) masked).foldl (fun fl e => fl ||| (y e).2) 0#6)
  have hgroup := fun ws kept => groupDone_groupResult (k := ctxOf (.execute c) w s) rfl (hflags.landed hl) (vIndex vd) (vrange v.vcfg false) .crossRow (vRows v.vcfg) (lcBound lc)
    ((atIssue (.execute c) w s).freeCtr + 2) ws kept
  simp only [hflags.regs] at hgroup
  exact hflags.groupWord (hgroup _ _) h (hi.trans (hexec s)) hg (popped_vvInfo (more := []) hva (by simp) (by simp) _) rfl (flagged_foldl (fun e => mem_actives) _ _) hdone fun e =>
    lastOf_narrowed (Elem.width_of_not_code (isCode_of_cvtFormat hf)) v masked (vIndex vd) (fun _ => cvtElem_fp32_lt ..) e

theorem groupWord_permute {x : Scalar} {kind : RowKind} {pick : W64 → Nat → Nat → Nat} (h : Ready (vvInfo g vd va [.src x]) (.execute c) s) (hi : exec i s = permute g lc vd va x kind pick s) :
    let v := (s.core c).vec
    GroupWord i [.vdst vd, .vsrc va, .src x] c s (vRows v.vcfg) (vIndex vd)
      (fun e => chosen v false e 0#32 (vElem v (vIndex va) (pick (xVal (s.task (.execute c)) x) (cfgG v.vcfg) e)) (vElem v (vIndex vd) e)) (· = v.fsr) (s.task (.execute c)).regs := by
  intro v
  obtain ⟨hvd, hva⟩ := h.isV_of_vvInfo
  obtain ⟨body, hexec, hbody⟩ := permute_eq g lc vd va x kind pick
  generalize vvInfo g vd va [.src x] = w at h hexec
  have hread := (HasRead.start w c s).readScalar hl x
  have hvec : (readScalar (ctxOf (.execute c) w s) x (atIssue (.execute c) w s)).2.vecOf (.execute c) = v := hread.vec
  have hfst := (HasRead.start w c s).readScalar_fst hl rfl x
  have hdone := hbody (ctxOf (.execute c) w s) (vRows v.vcfg) (atIssue (.execute c) w s) (hread.landed hl)
  simp only [ctxOf_a, hvec, hfst] at hdone
  have hgroup := fun act => groupDone_vecResult (k := ctxOf (.execute c) w s) rfl (hread.landed hl) hvd v.vcfg (vrange v.vcfg false) kind (vRows v.vcfg) (lcBound lc)
    ((readScalar (ctxOf (.execute c) w s) x (atIssue (.execute c) w s)).2.freeCtr + 2) act (inactives v (vrange v.vcfg false) false)
  simp only [hread.regs] at hgroup
  exact hread.groupWord (hgroup _) h (hi.trans (hexec s)) hg (popped_vvInfo_src hva x _) (popScalar_vqs ..) rfl hdone fun e => lastOf_resultWrites_group v _ false _ e

end

section
variable {c : Nat} {s : State} {g : Guard} {lc : BitVec 3} {vd va : VReg} {i : Instr} {masked : Bool}

/-- A format-table entry that a vector conversion may not use raises FMTBAD (07 R169). -/
theorem cvtWiden_traps (h : Ready (vvInfo g vd va []) (.execute c) s) (hg : Grouped (s.core c).vec.vcfg [vd, va]) (hf : cvtFormat s (.execute c) = none)
    (hi : exec i s = cvtWiden masked g lc vd va s) : Traps i (.execute c) s .fmtbad := by
  obtain ⟨body, hexec, hbad, -⟩ := cvtWiden_eq g lc vd va masked
  exact groupWord_traps (h.masked masked) rfl (hi.trans (hexec s)) hg (hbad _ _ _ _ _ ((cvtFormat_atIssue ..).trans hf))

theorem cvtNarrow_traps (h : Ready (vvInfo g vd va []) (.execute c) s) (hg : Grouped (s.core c).vec.vcfg [vd, va]) (hf : cvtFormat s (.execute c) = none)
    (hi : exec i s = cvtNarrow masked g lc vd va s) : Traps i (.execute c) s .fmtbad := by
  obtain ⟨body, hexec, hbad, -⟩ := cvtNarrow_eq g lc vd va masked
  exact groupWord_traps (h.masked masked) rfl (hi.trans (hexec s)) hg (hbad _ _ _ _ _ ((cvtFormat_atIssue ..).trans hf))

end

end Sys2Proof.Machine
end

section
namespace Sys2Proof.Machine

open Sys2Proof

/-! VBCST and VSETVL (07 R180, R181). -/

theorem popped_src {rs : List Role} {x : Scalar} (hvq : ∀ n : Fin 4, Role.vsrc (.vq n) ∉ rs) (hsq : ∀ n : Fin 4, Role.src (.sq n) ∈ rs ↔ x = .sq n) (q : Queues) :
    Popped rs q (popScalar x q) := by
  refine popped_of (popScalar_cq ..) (popScalar_pq ..) (fun n => ?_) (fun n => ?_)
  · rw [if_neg (hvq n), popScalar_vq]
  · rw [tget_popScalar]
    exact if_congr (hsq n).symm rfl rfl

section
variable {c : Nat} {s : State} {g : Guard} {lc : BitVec 3}

theorem execVbcst_issues (g : Guard) (lc : BitVec 3) (vd : VReg) (x : Scalar) : ∃ body, (∀ s, execVbcst g lc vd x s = issue (exe g [.vdst vd, .src x]) s body) ∧
    ∀ k s, groupOk (cfgG (s.vecOf k.a).vcfg) vd = true →
      let v := s.vecOf k.a
      let r := vrange v.vcfg (vIsQueue vd)
      let y := readScalar k x s
      body k s = .ok (vecDone k (vIsQueue vd) (r.rows (cfgVL v.vcfg)) (vecResult k vd v.vcfg r .rowWise (r.rows (cfgVL v.vcfg)) (lcBound lc) (y.2.freeCtr + 2)
        ((actives v r false).map fun e => (e, y.1.extractLsb' 0 32)) (inactives v r false) y.2)) := by
  refine ⟨_, fun s => rfl, ?_⟩
  intro k s hg v r y
  have hlow : y.1.extractLsb' 0 32 = y.1.truncate 32 := by
    apply BitVec.eq_of_getLsbD_eq
    intro i hi
    simp [hi]
  rw [hlow, actives_unmasked, inactives_unmasked]
  exact if_neg (by simp [hg])

theorem rowWord_vbcst {vd : VReg} {x : Scalar} (h : Ready (exe g [.vdst vd, .src x]) (.execute c) s) (hl : Landed (s.task (.execute c))) (hg : Grouped (s.core c).vec.vcfg [vd]) :
    RowWord (.vbcst g lc vd x) [.vdst vd, .src x] c s lc vd (vIsQueue vd) false fun _ => ((xVal (s.task (.execute c)) x).extractLsb' 0 32, 0#6) := by
  obtain ⟨body, hissue, hbody⟩ := execVbcst_issues g lc vd x
  generalize exe g [.vdst vd, .src x] = w at h hissue
  have hread := (HasRead.start w c s).readScalar hl x
  have hvec : (atIssue (.execute c) w s).vecOf (.execute c) = (s.core c).vec := atIssue_vec ..
  have hfst := (HasRead.start w c s).readScalar_fst hl rfl x
  have hdone := hbody (ctxOf (.execute c) w s) (atIssue (.execute c) w s)
  simp only [ctxOf_a, hvec, hfst] at hdone
  exact hread.rowWord h hl (hissue s) (popped_src (by simp) (by simp [eq_comm]) _) (popScalar_vqs ..) (flagged_self fun _ _ => rfl) (hdone (groupOk_iff.2 hg))

theorem execVsetvl_issues (g : Guard) (x : Scalar) : ∃ body, (∀ s, execVsetvl g x s = issue (exe g [.src x]) s body) ∧
    ∀ k s, let y := readScalar k x s
      (bitsOf y.1.toNat 63 40 ≠ 0 → body k s = err .vcfgbad) ∧
      (bitsOf y.1.toNat 63 40 = 0 → body k s = .ok (vecDone k false 1 (y.2.modVec k.a fun v => { v with vcfg := setvl v.vcfg y.1 }))) :=
  ⟨_, fun _ => rfl, fun _ _ => ⟨fun h => if_pos h, fun h => if_neg (not_not.2 h)⟩⟩

theorem vsetvl_traps {x : Scalar} (h : Ready (exe g [.src x]) (.execute c) s) (hl : Landed (s.task (.execute c))) (hbad : bitsOf (xVal (s.task (.execute c)) x).toNat 63 40 ≠ 0) :
    Traps (.vsetvl g x) (.execute c) s .vcfgbad := by
  obtain ⟨body, hissue, hbody⟩ := execVsetvl_issues g x
  obtain ⟨hstop, -⟩ := hbody (ctxOf (.execute c) (exe g [.src x]) s) (atIssue (.execute c) (exe g [.src x]) s)
  rw [(HasRead.start (exe g [.src x]) c s).readScalar_fst hl rfl x] at hstop
  exact (hissue s).trans (issue_trap h (.inr (h.noArm rfl)) (hstop hbad))

theorem runs_vsetvl {x : Scalar} (h : Ready (exe g [.src x]) (.execute c) s) (hl : Landed (s.task (.execute c))) (hok : bitsOf (xVal (s.task (.execute c)) x).toNat 63 40 = 0) :
    ∃ t, exec (.vsetvl g x) s = .next t ∧ VecFrame [.src x] c s t 1 ∧ (t.task (.execute c)).regs = (s.task (.execute c)).regs ∧ (t.task (.execute c)).q.vqs = (s.task (.execute c)).q.vqs ∧
      (t.core c).vec = { (s.core c).vec with vcfg := setvl (s.core c).vec.vcfg (xVal (s.task (.execute c)) x) } := by
  obtain ⟨body, hissue, hbody⟩ := execVsetvl_issues g x
  have hpop : Popped [.src x] (s.task (.execute c)).q (popScalar x (s.task (.execute c)).q) := popped_src (by simp) (by simp [eq_comm]) _
  generalize exe g [.src x] = w at h hissue
  have hread := (HasRead.start w c s).readScalar hl x
  obtain ⟨-, hdone⟩ := hbody (ctxOf (.execute c) w s) (atIssue (.execute c) w s)
  rw [(HasRead.start w c s).readScalar_fst hl rfl x] at hdone
  obtain ⟨t, ht, hframe, htv, hregs, htq, -⟩ := hread.answer (rs := [.src x]) h (hdone hok) (inCore_modVec ..) (by simp) (by simp) (by simp) (by simpa [hread.queues] using hpop)
  refine ⟨t, (hissue s).trans ht, hframe, by simp [hregs, hread.regs], by simp [htq, hread.queues], ?_⟩
  simp [htv, hread.vec]

end

/-! The configuration that VSETVL gives (07 R163, R181). -/

theorem bitOf_eq_testBit (x i : Nat) : bitOf x i = x.testBit i := by
  rw [bitOf, Nat.testBit_eq_decide_div_mod_eq]
  rfl

theorem bitsOf_congr {x y hi lo : Nat} (h : ∀ j, lo ≤ j → j ≤ hi → x.testBit j = y.testBit j) : bitsOf x hi lo = bitsOf y hi lo := by
  apply Nat.eq_of_testBit_eq
  intro i
  rw [testBit_bitsOf, testBit_bitsOf]
  by_cases hi : i < hi + 1 - lo
  · rw [h _ (by omega) (by omega)]
  · simp [hi]

/-- Bits of the configuration: the cursors and what lies above keep their values, LG and the policies come from the operand. -/
theorem getLsbD_setvl (old y : W64) {j : Nat} (hj : 21 ≤ j) : (setvl old y).getLsbD j = if j < 32 ∨ 39 < j then old.getLsbD j else y.getLsbD j := by
  rw [setvl, getLsbD_cfgSet _ _ (by decide) (by decide), if_neg (by omega), getLsbD_cfgSet _ _ (by decide) (by decide), if_neg (by omega), getLsbD_cfgSet _ _ (by decide) (by decide)]
  by_cases hin : 32 ≤ j ∧ j ≤ 39
  · rw [if_pos hin, if_neg (by omega), testBit_bitsOf, decide_eq_true (by omega), Bool.true_and, BitVec.testBit_toNat, Nat.add_sub_cancel' hin.1]
  · rw [if_neg hin, if_pos (by omega)]

/-- A field among LG and the policies is that of the operand. -/
theorem bitsOf_setvl (old y : W64) {hi lo : Nat} (hlo : 32 ≤ lo) (hhi : hi ≤ 39) : bitsOf (setvl old y).toNat hi lo = bitsOf y.toNat hi lo :=
  bitsOf_congr fun j _ _ => by rw [BitVec.testBit_toNat, BitVec.testBit_toNat, getLsbD_setvl old y (by omega), if_neg (by omega)]

theorem cfgLG_setvl (old y : W64) : cfgLG (setvl old y) = y.toNat / 2 ^ 32 % 4 := bitsOf_setvl old y (by decide) (by decide)

theorem cfgCVTF_setvl (old y : W64) : cfgCVTF (setvl old y) = y.toNat / 2 ^ 36 % 16 := bitsOf_setvl old y (by decide) (by decide)

theorem bitOf_setvl (old y : W64) {i : Nat} (hlo : 32 ≤ i) (hhi : i ≤ 39) : bitOf (setvl old y).toNat i = y.getLsbD i := by
  rw [bitOf_eq_testBit, BitVec.testBit_toNat, getLsbD_setvl old y (by omega), if_neg (by omega)]

theorem cfgRGC_setvl (old y : W64) : cfgRGC (setvl old y) = 0 := by
  rw [cfgRGC, setvl, bitsOf_cfgSet_of_disjoint _ _ (by decide) (by decide) (.inr (by decide)), bitsOf_cfgSet_self _ _ (by decide) (by decide), Nat.zero_mod]

/-- VL is cut to VLMAX of the new LG, which 14 bits hold. -/
theorem cfgVL_setvl (old y : W64) : cfgVL (setvl old y) = Nat.min (y.toNat % 2 ^ 32) (1024 * 2 ^ cfgLG (setvl old y)) := by
  have hlg : bitsOf y.toNat 33 32 = cfgLG (setvl old y) := (cfgLG_setvl old y).symm
  have hmax : 2 ^ cfgLG (setvl old y) ≤ 2 ^ 3 := Nat.pow_le_pow_right (by decide) (by rw [cfgLG_setvl]; omega)
  have hmin : Nat.min (y.toNat % 2 ^ 32) (1024 * 2 ^ cfgLG (setvl old y)) ≤ 1024 * 2 ^ cfgLG (setvl old y) := Nat.min_le_right ..
  have hfield : cfgVL (setvl old y) = Nat.min (y.toNat % 2 ^ 32) (1024 * 2 ^ bitsOf y.toNat 33 32) % 2 ^ 14 := bitsOf_cfgSet_self _ _ (by decide) (by decide)
  rw [hfield, hlg]
  exact Nat.mod_eq_of_lt (by omega)

/-- Bits [63:40] of an operand. -/
theorem bitsOf_top (y : W64) : bitsOf y.toNat 63 40 = y.toNat / 2 ^ 40 := Nat.mod_eq_of_lt (by have := y.isLt; omega)

/-- Settles O41: moves and conversions of one width are row-wise words; the others write their group from places of its source, or from fields of its bit stream. -/
theorem vectorMoveWords : Obligations.VectorMoveWords := by
  unfold Obligations.VectorMoveWords
  intro c s g lc vd va x a u v cfg G m A old src S One Picks hl
  refine ⟨fun h hg => ?one, fun h hg => ⟨fun f mode hf masked i => ⟨fun hi => ?widen, fun hi => ?narrow⟩, fun hf => ?fmtbad⟩, fun h hg => ?picks, fun h hg => rowWord_vbcst h hl hg,
    fun h => ⟨fun hbad => vsetvl_traps h hl (by rwa [bitsOf_top]), fun hok => ?setvl⟩⟩
  case one =>
    have hword {i im : Instr} (op : W32 → W32 × Flags) (f : ElemOp) (hi : exec i s = rowOp g lc vd va none false false f s)
        (him : exec im s = rowOp g lc vd va none false true f s) (hop : ∀ y, op y = f m y 0#32 0#32) : One i im op := rowWords_one h hl hg hi him fun e => hop (A e)
    clear_value One
    exact ⟨hword _ opMove rfl rfl fun _ => rfl, hword _ opCvtfi rfl rfl fun _ => rfl, hword _ opCvtif rfl rfl fun _ => rfl⟩
  case widen =>
    have hb := Elem.width_of_not_code (isCode_of_cvtFormat hf)
    have hexec : exec i s = cvtWiden masked g lc vd va s := by cases masked <;> subst hi <;> rfl
    exact ⟨streamField f.width src, fun e => ⟨streamField_lt .., fun j hj => testBit_streamField hb hj v _⟩, groupWord_cvtWiden hl hg h hf hexec⟩
  case narrow =>
    have hb := Elem.width_of_not_code (isCode_of_cvtFormat hf)
    have hexec : exec i s = cvtNarrow masked g lc vd va s := by cases masked <;> subst hi <;> rfl
    exact ⟨_, fun e j hj _ => getLsbD_narrowed hb v masked _ (fun _ => cvtElem_fp32_lt ..) hj, groupWord_cvtNarrow hl hg h hf hexec⟩
  case fmtbad =>
    exact ⟨cvtWiden_traps (masked := false) h hg hf rfl, cvtWiden_traps (masked := true) h hg hf rfl, cvtNarrow_traps (masked := false) h hg hf rfl, cvtNarrow_traps (masked := true) h hg hf rfl⟩
  case picks =>
    have hword {i : Instr} (f : Nat → Nat) (kind : RowKind) (pick : W64 → Nat → Nat → Nat) (hi : exec i s = permute g lc vd va x kind pick s) (hf : ∀ e, f e = pick S G e) : Picks i f := by
      rw [funext hf]
      exact groupWord_permute hl hg h hi
    clear_value Picks
    exact ⟨hword _ .crossRow rotRow rfl fun e => by simp [rotRow], hword _ .rowWise rotCol rfl fun e => by simp [rotCol], hword _ .crossRow pickOne rfl fun _ => rfl⟩
  case setvl =>
    obtain ⟨t, ht, hframe, hregs, hvqs, hvec⟩ := runs_vsetvl h hl (by rw [bitsOf_top]; exact hok)
    refine ⟨t, ht, hframe, hregs, hvqs, ?_⟩
    rw [hvec]
    exact ⟨rfl, cfgVL_setvl .., cfgLG_setvl .., bitOf_setvl _ _ (by decide) (by decide), bitOf_setvl _ _ (by decide) (by decide), cfgCVTF_setvl .., cfgRGC_setvl ..,
      fun j hj => (getLsbD_setvl _ _ (by omega)).trans (if_pos (by omega))⟩

end Sys2Proof.Machine
end
